-- ==== Sys2Proof/Word.lean ====
section
/-! DEFINITION. The word types of the machine (R4) and nothing more: helpers that a test could show
wrong stand in files a repair may mend. -/

namespace Sys2Proof

/-- A general register's contents, a dword (R4, R17). -/
abbrev Word := BitVec 64

/-- One byte of memory (R4). -/
abbrev Byte := BitVec 8

end Sys2Proof
end

