-- ==== Sys2Proof/Config.lean ====
section
/-! DEFINITION. What an implementation fixes, and the free values: the constants with no body stand
for values the spec leaves open, and no proof can see what they are (log entries 5, 13 and 15). -/

namespace Sys2Proof.Config

/-- The functions whose values R142 bounds and R143 leaves to the implementation. -/
inductive Approx where
  | rcp | rsq | exp2 | log2 | sin | cos
  deriving DecidableEq, Repr

/-- The value an implementation returns for one approximate function and one input (R143). The
machine uses it only where R142 names no exact or special case. FREE VALUE, log entry 5. -/
opaque approx : Approx → BitVec 32 → BitVec 32

/-- A byte read from memory that holds a task queue's ring, which R334 calls indeterminate: one for
each address and each use. FREE VALUE, log entry 5. -/
opaque ringByte : Nat → Nat → Byte

/-- The compressed form that a storage stream unit chooses for bytes under an algorithm of R279; the machine uses it where
it is a form that gives them back (R280). FREE VALUE, log entry 13. -/
opaque compress : Nat → List Byte → List Byte

/-- The 64 bytes of a key slot as a number, least significant first: no rule gives the keys (R280, R287). FREE VALUE, log
entry 13. -/
opaque slotKey : Nat → Nat

/-- The SHA-256 digest of the firmware key that is fused at manufacture (R424). FREE VALUE, log entry 13. -/
opaque fusedDigest : List Byte

/-- The identity key of the package, its modulus and its private exponent, and the salts of its signatures (R425). FREE
VALUES, log entry 13. -/
opaque identityModulus : Nat
opaque identityExponent : Nat
opaque salt : Nat → Nat

/-- A firmware image (R424): its header's version, length, public modulus and signature, and the rest of it; and the
system software image that firmware loads (R423). -/
structure FwImage where
  version : Nat
  length : Nat
  key : Nat
  signature : Nat
  rest : List Byte
  system : List Byte
  deriving DecidableEq, Repr, Inhabited

/-- The firmware image that the boot drive holds, where the package has not read one yet (R423). FREE VALUE, log entry
13. -/
opaque bootImage : FwImage

/-- The code that a failed verification leaves in the mailbox (R423). FREE VALUE, log entry 13. -/
opaque bootFailure : Nat

/-- The CRC of a Lingoton flit, over its first 232 bytes, its Reed-Solomon parity, over its first 240, and what the parity
makes of a flit that disagrees with it (R414, R415): the rule gives their places, not their polynomials. FREE VALUES, log
entry 87. -/
opaque flitCrc : List Byte → Nat
opaque flitParity : List Byte → Nat
opaque flitMend : List Byte → Nat

/-- A byte of DRAM whose line a cache held modified when the package was reset (R423): what was last written back. FREE
VALUE, log entry 49. -/
opaque staleByte : Nat → Nat → Byte

/-- trapval of a trap for which the spec states none. FREE VALUE, log entry 10. -/
opaque openTrapval : Nat → Word

/-- A byte of a machine-check log entry, whose contents R422 does not give. FREE VALUE, log entry 15. -/
opaque logByte : Nat → Nat → Byte

/-- The address a processor of this model starts its boot thread at: the boot ROM's first
instruction, which R423 does not give. DESIGN CHOICE, log entry 3. -/
def bootEntry : Word := 0x10000

/-- The tid and the thread block of the boot thread. DESIGN CHOICE, log entry 3. -/
def bootTid : Nat := 1

/-- Raw value of a sensor at reset, 40 degrees in sixteenths. DESIGN CHOICE, log entry 3. -/
def bootTemp : Int := 640

end Sys2Proof.Config
end

