-- ==== Sys2Proof/Syntax.lean ====
section
/-! DEFINITION. The steps of the machine: the 288 instructions of the opcode map, each with the
operand fields of the internal word (R53), and the 96 further steps of the opcode table, each with
what it acts on. The machine gives each constructor its meaning in Machine/Dispatch.lean. -/

namespace Sys2Proof

/-- The form an instruction was fetched in (R44, R53). -/
inductive Form where
  | c | s | m | l | x
  deriving DecidableEq, Repr

/-- The operand fields of the internal word (R53). `imm` is the field [31:0] of that word: for an
L form the sign-extended imm23. `pol` is the policy register number of ext15 (R50, R59). -/
structure Fields where
  form : Form
  rd : Fin 64
  s1 : Fin 64
  s2 : Fin 64
  s3 : Fin 64
  e1 : Bool
  e2 : Bool
  e3 : Bool
  mod : BitVec 8
  pol : Fin 64
  imm : BitVec 32
  deriving DecidableEq, Repr

/-- One step of the machine: an instruction, or a step of the device that is no instruction. -/
inductive Instr where
  /-- ADD (R99). -/
  | add (f : Fields)
  /-- SUB (R99). -/
  | sub (f : Fields)
  /-- ADDI (R99). -/
  | addi (f : Fields)
  /-- LI (R99). -/
  | li (f : Fields)
  /-- LIH (R99). -/
  | lih (f : Fields)
  /-- ADDPC (R99). -/
  | addpc (f : Fields)
  /-- MUL (R100). -/
  | mul (f : Fields)
  /-- MULH (R100). -/
  | mulh (f : Fields)
  /-- MULHU (R100). -/
  | mulhu (f : Fields)
  /-- MULHSU (R100). -/
  | mulhsu (f : Fields)
  /-- DIV (R100). -/
  | div (f : Fields)
  /-- DIVU (R100). -/
  | divu (f : Fields)
  /-- REM (R100). -/
  | rem (f : Fields)
  /-- REMU (R100). -/
  | remu (f : Fields)
  /-- AND (R101). -/
  | and (f : Fields)
  /-- OR (R101). -/
  | or (f : Fields)
  /-- XOR (R101). -/
  | xor (f : Fields)
  /-- ANDN (R101). -/
  | andn (f : Fields)
  /-- ORN (R101). -/
  | orn (f : Fields)
  /-- XNOR (R101). -/
  | xnor (f : Fields)
  /-- SHL (R102). -/
  | shl (f : Fields)
  /-- SHR (R102). -/
  | shr (f : Fields)
  /-- SRA (R102). -/
  | sra (f : Fields)
  /-- ROL (R102). -/
  | rol (f : Fields)
  /-- ROR (R102). -/
  | ror (f : Fields)
  /-- CLZ (R103). -/
  | clz (f : Fields)
  /-- CTZ (R103). -/
  | ctz (f : Fields)
  /-- POPC (R103). -/
  | popc (f : Fields)
  /-- BREV (R103). -/
  | brev (f : Fields)
  /-- BSWAP (R103). -/
  | bswap (f : Fields)
  /-- BFX (R104). -/
  | bfx (f : Fields)
  /-- BFXU (R104). -/
  | bfxu (f : Fields)
  /-- BFI (R104). -/
  | bfi (f : Fields)
  /-- MIN (R105). -/
  | min (f : Fields)
  /-- MAX (R105). -/
  | max (f : Fields)
  /-- MINU (R105). -/
  | minu (f : Fields)
  /-- MAXU (R105). -/
  | maxu (f : Fields)
  /-- ABS (R105). -/
  | abs (f : Fields)
  /-- SEL (R105). -/
  | sel (f : Fields)
  /-- CMP (R106). -/
  | cmp (f : Fields)
  /-- CMPI (R106). -/
  | cmpi (f : Fields)
  /-- MOV (R107). -/
  | mov (f : Fields)
  /-- SEXT_B (R107). -/
  | sextB (f : Fields)
  /-- SEXT_H (R107). -/
  | sextH (f : Fields)
  /-- SEXT_W (R107). -/
  | sextW (f : Fields)
  /-- ZEXT_B (R107). -/
  | zextB (f : Fields)
  /-- ZEXT_H (R107). -/
  | zextH (f : Fields)
  /-- ZEXT_W (R107). -/
  | zextW (f : Fields)
  /-- EMPT (R108). -/
  | empt (f : Fields)
  /-- FILL (R108). -/
  | fill (f : Fields)
  /-- TSTF (R108). -/
  | tstf (f : Fields)
  /-- QBIND (R109). -/
  | qbind (f : Fields)
  /-- QUNB (R110). -/
  | qunb (f : Fields)
  /-- QSTAT (R110). -/
  | qstat (f : Fields)
  /-- SRD (R111). -/
  | srd (f : Fields)
  /-- SWR (R111). -/
  | swr (f : Fields)
  /-- FADD_D (R133). -/
  | faddD (f : Fields)
  /-- FADD_S (R133). -/
  | faddS (f : Fields)
  /-- FSUB_D (R133). -/
  | fsubD (f : Fields)
  /-- FSUB_S (R133). -/
  | fsubS (f : Fields)
  /-- FMUL_D (R133). -/
  | fmulD (f : Fields)
  /-- FMUL_S (R133). -/
  | fmulS (f : Fields)
  /-- FFMA_D (R133). -/
  | ffmaD (f : Fields)
  /-- FFMA_S (R133). -/
  | ffmaS (f : Fields)
  /-- FDIV_D (R133). -/
  | fdivD (f : Fields)
  /-- FDIV_S (R133). -/
  | fdivS (f : Fields)
  /-- FSQRT_D (R133). -/
  | fsqrtD (f : Fields)
  /-- FSQRT_S (R133). -/
  | fsqrtS (f : Fields)
  /-- FMIN_D (R134). -/
  | fminD (f : Fields)
  /-- FMIN_S (R134). -/
  | fminS (f : Fields)
  /-- FMAX_D (R134). -/
  | fmaxD (f : Fields)
  /-- FMAX_S (R134). -/
  | fmaxS (f : Fields)
  /-- FCMP_D (R135). -/
  | fcmpD (f : Fields)
  /-- FCMP_S (R135). -/
  | fcmpS (f : Fields)
  /-- FCLASS (R136). -/
  | fclass (f : Fields)
  /-- FSGN (R137). -/
  | fsgn (f : Fields)
  /-- FCVT_D (R138). -/
  | fcvtD (f : Fields)
  /-- FCVT_S (R138). -/
  | fcvtS (f : Fields)
  /-- FCVT_H (R138). -/
  | fcvtH (f : Fields)
  /-- FCVT_BF (R138). -/
  | fcvtBf (f : Fields)
  /-- FCVTI_D (R139). -/
  | fcvtiD (f : Fields)
  /-- FCVTI_S (R139). -/
  | fcvtiS (f : Fields)
  /-- FCVTIU_D (R139). -/
  | fcvtiuD (f : Fields)
  /-- FCVTIU_S (R139). -/
  | fcvtiuS (f : Fields)
  /-- ICVTF_D (R140). -/
  | icvtfD (f : Fields)
  /-- ICVTF_S (R140). -/
  | icvtfS (f : Fields)
  /-- ICVTFU_D (R140). -/
  | icvtfuD (f : Fields)
  /-- ICVTFU_S (R140). -/
  | icvtfuS (f : Fields)
  /-- FRND_D (R141). -/
  | frndD (f : Fields)
  /-- FRND_S (R141). -/
  | frndS (f : Fields)
  /-- FRCP (R142). -/
  | frcp (f : Fields)
  /-- FRSQ (R142). -/
  | frsq (f : Fields)
  /-- FEXP2 (R142). -/
  | fexp2 (f : Fields)
  /-- FLOG2 (R142). -/
  | flog2 (f : Fields)
  /-- FSIN (R142). -/
  | fsin (f : Fields)
  /-- FCOS (R142). -/
  | fcos (f : Fields)
  /-- PADD (R145). -/
  | padd (f : Fields)
  /-- PADDU (R145). -/
  | paddu (f : Fields)
  /-- PSUB (R145). -/
  | psub (f : Fields)
  /-- PSUBU (R145). -/
  | psubu (f : Fields)
  /-- PMUL (R145). -/
  | pmul (f : Fields)
  /-- PMIN (R145). -/
  | pmin (f : Fields)
  /-- PMINU (R145). -/
  | pminu (f : Fields)
  /-- PMAX (R145). -/
  | pmax (f : Fields)
  /-- PMAXU (R145). -/
  | pmaxu (f : Fields)
  /-- PAVG (R145). -/
  | pavg (f : Fields)
  /-- PABS (R145). -/
  | pabs (f : Fields)
  /-- PCMP (R146). -/
  | pcmp (f : Fields)
  /-- PSHUF (R147). -/
  | pshuf (f : Fields)
  /-- PPACK (R148). -/
  | ppack (f : Fields)
  /-- PUNPKL (R148). -/
  | punpkl (f : Fields)
  /-- PUNPKH (R148). -/
  | punpkh (f : Fields)
  /-- PUNPKLU (R148). -/
  | punpklu (f : Fields)
  /-- PUNPKHU (R148). -/
  | punpkhu (f : Fields)
  /-- PDOT (R149). -/
  | pdot (f : Fields)
  /-- PDOTU (R149). -/
  | pdotu (f : Fields)
  /-- PDOTF_E4 (R150). -/
  | pdotfE4 (f : Fields)
  /-- PDOTF_E5 (R150). -/
  | pdotfE5 (f : Fields)
  /-- PDOTF_F4 (R150). -/
  | pdotfF4 (f : Fields)
  /-- PSCL (R151). -/
  | pscl (f : Fields)
  /-- BR (R157). -/
  | br (f : Fields)
  /-- BRZ (R157). -/
  | brz (f : Fields)
  /-- BRNZ (R157). -/
  | brnz (f : Fields)
  /-- JMP (R158). -/
  | jmp (f : Fields)
  /-- JAL (R158). -/
  | jal (f : Fields)
  /-- JALR (R158). -/
  | jalr (f : Fields)
  /-- REJOIN (R28). -/
  | rejoin (f : Fields)
  /-- YLD (R160). -/
  | yld (f : Fields)
  /-- WAITF (R161). -/
  | waitf (f : Fields)
  /-- WAITF_E (R161). -/
  | waitfE (f : Fields)
  /-- NOP (R162). -/
  | nop (f : Fields)
  /-- MIG_L (R172). -/
  | migL (f : Fields)
  /-- MIG_W (R172). -/
  | migW (f : Fields)
  /-- MIG_C (R172). -/
  | migC (f : Fields)
  /-- RGN (R163). -/
  | rgn (f : Fields)
  /-- SYSC (R169). -/
  | sysc (f : Fields)
  /-- TRAP (R170). -/
  | trap (f : Fields)
  /-- BRK (R170). -/
  | brk (f : Fields)
  /-- ERET_S (R171). -/
  | eretS (f : Fields)
  /-- ERET_F (R171). -/
  | eretF (f : Fields)
  /-- LDS_B (R192). -/
  | ldsB (f : Fields)
  /-- LDS_H (R192). -/
  | ldsH (f : Fields)
  /-- LDS_W (R192). -/
  | ldsW (f : Fields)
  /-- LDS_D (R192). -/
  | ldsD (f : Fields)
  /-- LDS_Q (R192). -/
  | ldsQ (f : Fields)
  /-- STS_B (R193). -/
  | stsB (f : Fields)
  /-- STS_H (R193). -/
  | stsH (f : Fields)
  /-- STS_W (R193). -/
  | stsW (f : Fields)
  /-- STS_D (R193). -/
  | stsD (f : Fields)
  /-- STS_Q (R193). -/
  | stsQ (f : Fields)
  /-- SAMO_ADD (R194). -/
  | samoAdd (f : Fields)
  /-- SAMO_MAX (R194). -/
  | samoMax (f : Fields)
  /-- SAMO_SWAP (R194). -/
  | samoSwap (f : Fields)
  /-- SCAS (R195). -/
  | scas (f : Fields)
  /-- LD_B (R219). -/
  | ldB (f : Fields)
  /-- LD_BU (R219). -/
  | ldBu (f : Fields)
  /-- LD_H (R219). -/
  | ldH (f : Fields)
  /-- LD_HU (R219). -/
  | ldHu (f : Fields)
  /-- LD_W (R219). -/
  | ldW (f : Fields)
  /-- LD_WU (R219). -/
  | ldWu (f : Fields)
  /-- LD_D (R219). -/
  | ldD (f : Fields)
  /-- LD_Q (R219). -/
  | ldQ (f : Fields)
  /-- ST_B (R220). -/
  | stB (f : Fields)
  /-- ST_H (R220). -/
  | stH (f : Fields)
  /-- ST_W (R220). -/
  | stW (f : Fields)
  /-- ST_D (R220). -/
  | stD (f : Fields)
  /-- ST_Q (R220). -/
  | stQ (f : Fields)
  /-- LDAQ_W (R221). -/
  | ldaqW (f : Fields)
  /-- LDAQ_D (R221). -/
  | ldaqD (f : Fields)
  /-- STRL_W (R221). -/
  | strlW (f : Fields)
  /-- STRL_D (R221). -/
  | strlD (f : Fields)
  /-- LDRO_W (R222). -/
  | ldroW (f : Fields)
  /-- LDRO_D (R222). -/
  | ldroD (f : Fields)
  /-- LDRO_Q (R222). -/
  | ldroQ (f : Fields)
  /-- ROINV (R223). -/
  | roinv (f : Fields)
  /-- LDV_W (R224). -/
  | ldvW (f : Fields)
  /-- LDV_D (R224). -/
  | ldvD (f : Fields)
  /-- LDV_Q (R224). -/
  | ldvQ (f : Fields)
  /-- STV_W (R224). -/
  | stvW (f : Fields)
  /-- STV_D (R224). -/
  | stvD (f : Fields)
  /-- STV_Q (R224). -/
  | stvQ (f : Fields)
  /-- PREF_L2 (R225). -/
  | prefL2 (f : Fields)
  /-- PREF_V (R225). -/
  | prefV (f : Fields)
  /-- CLFL (R226). -/
  | clfl (f : Fields)
  /-- AMO_ADD (R255). -/
  | amoAdd (f : Fields)
  /-- AMO_AND (R255). -/
  | amoAnd (f : Fields)
  /-- AMO_OR (R255). -/
  | amoOr (f : Fields)
  /-- AMO_XOR (R255). -/
  | amoXor (f : Fields)
  /-- AMO_MIN (R255). -/
  | amoMin (f : Fields)
  /-- AMO_MAX (R255). -/
  | amoMax (f : Fields)
  /-- AMO_MINU (R255). -/
  | amoMinu (f : Fields)
  /-- AMO_MAXU (R255). -/
  | amoMaxu (f : Fields)
  /-- AMO_SWAP (R255). -/
  | amoSwap (f : Fields)
  /-- AMO_FADD (R255). -/
  | amoFadd (f : Fields)
  /-- RED_ADD (R256). -/
  | redAdd (f : Fields)
  /-- RED_AND (R256). -/
  | redAnd (f : Fields)
  /-- RED_OR (R256). -/
  | redOr (f : Fields)
  /-- RED_XOR (R256). -/
  | redXor (f : Fields)
  /-- RED_MIN (R256). -/
  | redMin (f : Fields)
  /-- RED_MAX (R256). -/
  | redMax (f : Fields)
  /-- RED_MINU (R256). -/
  | redMinu (f : Fields)
  /-- RED_MAXU (R256). -/
  | redMaxu (f : Fields)
  /-- RED_FADD (R256). -/
  | redFadd (f : Fields)
  /-- CAS (R257). -/
  | cas (f : Fields)
  /-- FENCE (R258). -/
  | fence (f : Fields)
  /-- MARM (R259). -/
  | marm (f : Fields)
  /-- MWAIT (R261). -/
  | mwait (f : Fields)
  /-- MWAIT_T (R261). -/
  | mwaitT (f : Fields)
  /-- TCPY (R283). -/
  | tcpy (f : Fields)
  /-- TCST (R284). -/
  | tcst (f : Fields)
  /-- TWAIT_O (R285). -/
  | twaitO (f : Fields)
  /-- TWAIT_A (R285). -/
  | twaitA (f : Fields)
  /-- THDL_B (R286). -/
  | thdlB (f : Fields)
  /-- THDL_U (R286). -/
  | thdlU (f : Fields)
  /-- SIO_R (R287). -/
  | sioR (f : Fields)
  /-- SIO_W (R287). -/
  | sioW (f : Fields)
  /-- SIO_D (R287). -/
  | sioD (f : Fields)
  /-- SFLU (R288). -/
  | sflu (f : Fields)
  /-- MMQ (R309). -/
  | mmq (f : Fields)
  /-- MMQS (R309). -/
  | mmqs (f : Fields)
  /-- MZERO (R310). -/
  | mzero (f : Fields)
  /-- MLDA_F32 (R312). -/
  | mldaF32 (f : Fields)
  /-- MLDA_BF (R312). -/
  | mldaBf (f : Fields)
  /-- MSTA_F32 (R313). -/
  | mstaF32 (f : Fields)
  /-- MSTA_BF (R313). -/
  | mstaBf (f : Fields)
  /-- MSTA_H (R313). -/
  | mstaH (f : Fields)
  /-- MSTA_E4 (R313). -/
  | mstaE4 (f : Fields)
  /-- MSTA_E5 (R313). -/
  | mstaE5 (f : Fields)
  /-- CROOK_T (R302). -/
  | crookT (f : Fields)
  /-- CROOK_P (R302). -/
  | crookP (f : Fields)
  /-- CROOK_R (R302). -/
  | crookR (f : Fields)
  /-- CROOK_Q (R315). -/
  | crookQ (f : Fields)
  /-- MERR_R (R316). -/
  | merrR (f : Fields)
  /-- MERR_C (R316). -/
  | merrC (f : Fields)
  /-- BAR (R327). -/
  | bar (f : Fields)
  /-- BAR_ST (R327). -/
  | barSt (f : Fields)
  /-- FBAR (R327). -/
  | fbar (f : Fields)
  /-- NBAR (R333). -/
  | nbar (f : Fields)
  /-- NBAR_A (R333). -/
  | nbarA (f : Fields)
  /-- NBAR_W (R333). -/
  | nbarW (f : Fields)
  /-- NBINIT (R332). -/
  | nbinit (f : Fields)
  /-- NBINIT_C (R332). -/
  | nbinitC (f : Fields)
  /-- EXIT (R339). -/
  | exit (f : Fields)
  /-- EXIT_S (R339). -/
  | exitS (f : Fields)
  /-- SPWN (R357). -/
  | spwn (f : Fields)
  /-- RSPWN (R358). -/
  | rspwn (f : Fields)
  /-- RSPWN_D (R358). -/
  | rspwnD (f : Fields)
  /-- TRK_A (R359). -/
  | trkA (f : Fields)
  /-- TRK_R (R359). -/
  | trkR (f : Fields)
  /-- TRKC (R360). -/
  | trkc (f : Fields)
  /-- TRKQ_S (R361). -/
  | trkqS (f : Fields)
  /-- TRKQ_D (R361). -/
  | trkqD (f : Fields)
  /-- PHS (R377). -/
  | phs (f : Fields)
  /-- PHSX (R378). -/
  | phsx (f : Fields)
  /-- SPL (R379). -/
  | spl (f : Fields)
  /-- PQRY_P (R380). -/
  | pqryP (f : Fields)
  /-- PQRY_B (R380). -/
  | pqryB (f : Fields)
  /-- PQRY_C (R380). -/
  | pqryC (f : Fields)
  /-- SIG (R405). -/
  | sig (f : Fields)
  /-- SIG_G (R405). -/
  | sigG (f : Fields)
  /-- SIG_B (R405). -/
  | sigB (f : Fields)
  /-- EVCT_B (R406). -/
  | evctB (f : Fields)
  /-- EVCT_F (R406). -/
  | evctF (f : Fields)
  /-- EVCT_S (R406). -/
  | evctS (f : Fields)
  /-- EVCT_C (R406). -/
  | evctC (f : Fields)
  /-- TLBI_VA (R407). -/
  | tlbiVa (f : Fields)
  /-- TLBI_VAS (R407). -/
  | tlbiVas (f : Fields)
  /-- TLBI_AS (R407). -/
  | tlbiAs (f : Fields)
  /-- TLBI_ALL (R407). -/
  | tlbiAll (f : Fields)
  /-- TLBI_L (R407). -/
  | tlbiL (f : Fields)
  /-- HALT (R408). -/
  | halt (f : Fields)
  /-- HALT_P (R408). -/
  | haltP (f : Fields)
  /-- WFI (R409). -/
  | wfi (f : Fields)
  /-- WFI_T (R409). -/
  | wfiT (f : Fields)
  /-- CTXS_G (R410). -/
  | ctxsG (f : Fields)
  /-- CTXS_S (R411). -/
  | ctxsS (f : Fields)
  /-- CTXS_Q (R410). -/
  | ctxsQ (f : Fields)
  /-- CTXS_M (R410). -/
  | ctxsM (f : Fields)
  /-- CTXS_SP (R410). -/
  | ctxsSp (f : Fields)
  /-- CTXS_H (R410). -/
  | ctxsH (f : Fields)
  /-- CTXS_T (R410). -/
  | ctxsT (f : Fields)
  /-- CTXL_G (R410). -/
  | ctxlG (f : Fields)
  /-- CTXL_S (R411). -/
  | ctxlS (f : Fields)
  /-- CTXL_Q (R410). -/
  | ctxlQ (f : Fields)
  /-- CTXL_M (R410). -/
  | ctxlM (f : Fields)
  /-- CTXL_SP (R410). -/
  | ctxlSp (f : Fields)
  /-- CTXL_H (R410). -/
  | ctxlH (f : Fields)
  /-- CTXL_T (R410). -/
  | ctxlT (f : Fields)
  /-- STALL_YIELD (R26): After 16 blocked issue opportunities the weft overrides to the oldest waiting group. -/
  | stallYield (core slot : Nat)
  /-- OVERRIDE_LIMIT (R26): The override set ends once its issue count reaches 64. -/
  | overrideLimit (core slot : Nat)
  /-- LOAD_COMPLETION (R88): An asynchronous result arrives, writing its register and setting the full bit. -/
  | loadCompletion (id : Nat)
  /-- LOAD_FAULT (R218): A load's late checks fail, cancelling it and fault-parking the lane at its region entry. -/
  | loadFault (id : Nat)
  /-- FAULT_REPORT (R387): The weft core pushes a three-word fault report once the service queue has room. -/
  | faultReport (core slot lane : Nat)
  /-- RESUME (R389): A popped resume word with action 0 makes fault-parked lanes active. -/
  | resume (die : Nat)
  /-- EXTRACT (R389): A resume word with action 1 extracts fault-parked lanes to a latency core. -/
  | extract (die : Nat)
  /-- TERMINATE (R389): A resume word with action 2 ends fault-parked threads and retires their blocks. -/
  | terminate (die : Nat)
  /-- LANE_EXTRACTION (R34): An extraction-parked lane departs once its loads complete, writing its shuttle record. -/
  | laneExtraction (core slot lane : Nat)
  /-- SHUTTLE_ARRIVAL (R175): A shuttle record arrives at a core and the thread joins, pools or runs. -/
  | shuttleArrival (tid core : Nat) (valid : Bool)
  /-- POOL_ENTRY (R22): A thread in transit enters a packing pool once an entry frees. -/
  | poolEntry (tid core : Nat)
  /-- PWAIT_EXPIRY (R23): The packing wait of the earliest pooled thread expires. -/
  | pwaitExpiry (core : Nat)
  /-- BARRIER_ARRIVAL (R32): A lane arrives at a barrier once its earlier loads and accesses are performed. -/
  | barrierArrival (tid : Nat)
  /-- RELEASE_WAVE (R326): A wave of released wefts becomes eligible for register blocks after its gap. -/
  | releaseWave (core bolt : Nat)
  /-- BLOCK_ALLOTMENT (R33): Free register blocks are allotted to a waiting weft, oldest bolt first. -/
  | blockAllotment (core : Nat)
  /-- RECLAIM (R33): Blocks are reclaimed from the youngest bolt's weft after its loads complete. -/
  | reclaim (core : Nat)
  /-- SIGNAL_TAKE (R392): A latency-core thread pops a takeable signal word and traps SIGNAL. -/
  | signalTake (core : Nat)
  /-- SIGNAL_EXTRACTION (R393): A weft member with a takeable signal is extracted with xr set. -/
  | signalExtraction (core slot lane : Nat)
  /-- FLOCK_PLACEMENT (R337): A placement unit places the next waiting flock on open cores of one quad. -/
  | flockPlacement (spawn fcoord : Nat) (cores : List Nat)
  /-- PLACEMENT_AGE_LIMIT (R336): The oldest waiting flock reaches 65,536 ticks and blocks younger placement. -/
  | placementAgeLimit
  /-- EVICTION (R398): A flock stops issuing and waits for its outstanding work before saving. -/
  | eviction (spawn fcoord : Nat)
  /-- EVICTION_SAVE (R400): Save areas are popped and written and the flock's resources freed. -/
  | evictionSave (spawn fcoord : Nat)
  /-- SPAWN_COMPLETION (R347): After every bolt ends, the completion word is written as a release. -/
  | spawnCompletion (spawn : Nat)
  /-- SPAWN_UNIT_FAILOVER (R336): The mirror spawn unit continues from the same waiting set. -/
  | spawnUnitFailover
  /-- RESPAWN_ROUND (R353): After a round's bolts end, the next round's selection runs. -/
  | respawnRound (spawn : Nat)
  /-- PAGE_WALK (R205): A walker translates an address through the page tables. -/
  | pageWalk (id : Nat)
  /-- TRANSLATION_DROP (R206): A translation cache drops a translation of its own accord. -/
  | translationDrop (core space va : Nat)
  /-- GETS (R249): Home serves an agent read miss. -/
  | gets (agent line : Nat)
  /-- GETM (R249): Home serves an agent write request, stamping the grant. -/
  | getm (agent line : Nat) (mask : BitVec 128)
  /-- WT (R249): Home performs a weft-core store or atomic with a write stamp. -/
  | wt (tid : Nat)
  /-- HR (R249): Home serves a weft read or acquire and grants a lease. -/
  | hr (id : Nat)
  /-- PUTM (R249): Home accepts a modified write-back. -/
  | putm (agent line : Nat)
  /-- PUTO (R249): Home accepts an owned write-back. -/
  | puto (agent line : Nat)
  /-- PUTS (R249): Home removes a shared holder. -/
  | puts (agent line : Nat)
  /-- PUTE (R249): Home removes an exclusive holder. -/
  | pute (agent line : Nat)
  /-- DIRECTORY_ENTRY_DROP (R250): Home silently drops an E or M entry. -/
  | directoryEntryDrop (line : Nat)
  /-- MWAIT_TIMEOUT (R261): The tick bound of MWAIT.t expires and it returns status 1. -/
  | mwaitTimeout (tid : Nat)
  /-- DROVER_SWEEP (R247): The sweep visits a line and re-bases old stamps. -/
  | droverSweep (line : Nat)
  /-- VFLOOR_REBASE (R247): A weft core raises a view floor that fell more than 2^18 ticks behind. -/
  | vfloorRebase (core : Nat)
  /-- OWNERSHIP_TRANSFER_H_TO_D (R215): A region returns to the device after host lines are back-invalidated. -/
  | ownershipTransferHToD (region : Nat)
  /-- OWNERSHIP_TRANSFER_D_TO_H (R253): A region flips to the host after recalls and lease expiry. -/
  | ownershipTransferDToH (region : Nat)
  /-- OWNERSHIP_TIMEOUT (R215): Back-invalidation exceeds 65,536 ticks and the access raises OWNX. -/
  | ownershipTimeout (region : Nat)
  /-- REGION_DWELL_EXPIRY (R419): A region's 256-tick dwell ends and a waiting transfer may start. -/
  | regionDwellExpiry (region : Nat)
  /-- HOST_MEM_ACCESS (R419): A host CXL.mem access reaches the HDM range. -/
  | hostMemAccess (pa : Nat) (write : Bool) (data : List (BitVec 8))
  /-- MEMORY_SCRUB (R421): A memory is scrubbed, correcting single-bit errors in place. -/
  | memoryScrub (unit : Nat)
  /-- QUEUE_REQUEST_SERVE (R335): The base die serves a waiting push or pop once words or room exist. -/
  | queueRequestServe (queue : Nat)
  /-- QUEUE_CONFIG_WRITE (R334): A firmware write to queue word 0 or 1 configures it and discards its words. -/
  | queueConfigWrite (queue word : Nat) (value : BitVec 64)
  /-- JOB_ACCEPT (R263): An engine accepts a lane's job once it has room and scoreboard entries. -/
  | jobAccept (engine : Nat)
  /-- JOB_START (R274): A job starts once every overlapping earlier job has retired. -/
  | jobStart (handle : Nat)
  /-- JOB_RETIRE (R275): A job's writes are performed, its stamp written and its entries freed. -/
  | jobRetire (handle : Nat)
  /-- JOB_FAIL (R273): A job in flight meets a translation or access failure and stops. -/
  | jobFail (handle : Nat)
  /-- HANDLE_FILL (R278): A tile-handle use submits a fill once a buffer has no pending reader. -/
  | handleFill (core slot : Nat)
  /-- STREAM_COMPLETE (R280): A storage stream finishes its chain and writes its result length and stamp. -/
  | streamComplete (handle : Nat)
  /-- STREAM_FAIL (R280): A storage stream fails, zeroing a started read buffer before its stamp. -/
  | streamFail (handle : Nat) (err : Nat)
  /-- FLUSH_COMPLETE (R281): Every covered NVMe Flush completes and the SFLU stamp is written. -/
  | flushComplete (handle : Nat) (ok : Bool)
  /-- NVME_COMPLETION (R420): A drive reports completion of a command. -/
  | nvmeCompletion (handle : Nat) (ok : Bool) (blockSize : Nat) (data : List (BitVec 8))
  /-- QUARTER_ACCEPT (R294): The array accepts a quarter operation once its sources and crook allow. -/
  | quarterAccept (core slot : Nat)
  /-- PASS_START (R299): A fused group starts a pass after its 4-cycle window and the previous pass. -/
  | passStart (core : Nat)
  /-- PASS_COMPLETE (R293): A pass performs its quarter operations on the slices. -/
  | passComplete (core : Nat)
  /-- MSTA_ACCEPT (R295): An MSTA is accepted once no scoreboard entry or earlier MSTA overlaps. -/
  | mstaAccept (core slot : Nat)
  /-- MSTA_WRITE (R295): An accepted MSTA performs its scratchpad writes. -/
  | mstaWrite (core : Nat)
  /-- CROOK_EXPIRY (R303): A grant with waiting claims expires and the head claim is granted. -/
  | crookExpiry (core : Nat)
  /-- BURST_START_GRANT (R367): The quadrant grants a waiting burst start 121.9 ns after the previous one. -/
  | burstStartGrant (quadrant : Nat)
  /-- ACTIVITY_WINDOW_END (R366): A 256-cycle window ends; an exceeding window throttles and counts ubcount. -/
  | activityWindowEnd (core : Nat)
  /-- INTERVAL_BOUNDARY (R371): At each 250-tick boundary permits refill and boost levels are granted and charged. -/
  | intervalBoundary
  /-- DECLARATION_ONSET (R364): A declaration becomes active after its onset delay. -/
  | declarationOnset (bolt : Nat)
  /-- DECLARATION_END (R364): A declaration's length expires. -/
  | declarationEnd (bolt : Nat)
  /-- SLICE_RATIO_CHANGE (R368): A slice moves to its new clock ratio. -/
  | sliceRatioChange (core slice : Nat)
  /-- SENSOR_UPDATE (R373): A temperature sensor reports a new value. -/
  | sensorUpdate (sensor : Nat) (value : Int)
  /-- THERMAL_TRIP_CLEAR (R374): A reading stays 3 degrees below the trip for 1,024 ticks and the trip ends. -/
  | thermalTripClear (column : Nat)
  /-- TRIP3_HALT_TIMEOUT (R374): An L-die core at trip 3 halts 65,536 ticks after the trip. -/
  | trip3HaltTimeout (core : Nat)
  /-- UCIE_FLIT_RECEIVE (R413): A die-to-die flit arrives and is checked, replayed or declares the link down. -/
  | ucieFlitReceive (link : Nat) (crcOk : Bool)
  /-- LINGOTON_FLIT_RECEIVE (R415): A Lingoton flit is FEC-corrected and CRC-checked, accepted or NAKed:
  its data, and the CRC and parity after them. -/
  | lingotonFlitReceive (port : Nat) (data check : List (BitVec 8))
  /-- LINGOTON_NAK (R415): A NAK makes the sender resend from the named sequence, or takes the port down. -/
  | lingotonNak (port seq : Nat)
  /-- NB_ARRIVAL_PACKET (R330): A router counts an arrival packet and forwards or releases. -/
  | nbArrivalPacket
  /-- NB_RELEASE_PACKET (R330): A router multicasts a release and flips the generation. -/
  | nbReleasePacket
  /-- NB_MARK_UPDATE (R330): A registration or departure changes a router's mark count. -/
  | nbMarkUpdate
  /-- STORAGE_LINK_DOWN (R420): A storage port's link goes down and its streams fail. -/
  | storageLinkDown (port : Nat)
  /-- PACKAGE_RESET (R423): Reset zeroes SRAMs, verifies and boots firmware, or leaves a failure code. -/
  | packageReset (image : Config.FwImage) (code : Nat)
  /-- ATTESTATION_REQUEST (R425): Firmware returns a signed attestation report through the mailbox. -/
  | attestationRequest (nonce : List (BitVec 8))
  /-- PKGRST (R422): Writing 0xA5 to pkgrst resets the package. -/
  | pkgrst (value : BitVec 64)
  /-- CORCTL_RESTART (R422): Writing 1 to corctl bit 1 restarts the selected core. -/
  | corctlRestart
  /-- CORCTL_CLOSED (R422): Writing corctl bit 2 closes or opens the core to placement. -/
  | corctlClosed (closed : Bool)
  /-- CORCTL_RFBLK (R422): Writing rfblk lowers the register blocks in service as they free. -/
  | corctlRfblk (count : Nat)
  /-- SUSPECT_CLEAR (R375): Firmware writes 0 to snstat bit 16 to clear a suspect mark. -/
  | suspectClear
  /-- REGION_OWNER_WRITE (R418): A firmware write of own starts an ownership transfer. -/
  | regionOwnerWrite (region : Nat) (host : Bool)
  /-- REGION_PIN_WRITE (R418): Firmware pins or unpins a host-owned region, waiting for any transfer. -/
  | regionPinWrite (region : Nat) (pin : Bool)
  /-- PERM_WRITE (R370): A write of perm sets cap and held, clamping held to cap. -/
  | permWrite (pid : Nat) (value : BitVec 64)
  /-- MERR_WRITE (R306): A supervisor write of merr sets its fields and clears entries at and above nlog. -/
  | merrWrite (bolt : Nat) (value : BitVec 64)
  /-- SIGMASK_WRITE (R111): A write of sigmask may make a pending signal takeable before the next instruction. -/
  | sigmaskWrite (tid : Nat) (value : BitVec 64)
  /-- SYSTEM_REGISTER_WRITE (R95): A write to any other system register, clamped and masked. -/
  | systemRegisterWrite (tid number : Nat) (value : BitVec 64)
  /-- WFI_TIMEOUT (R409): The tick bound of WFI.t runs out and it ends, writing 1 to rd. -/
  | wfiTimeout (tid : Nat)
  /-- ILLEGAL_INSTRUCTION (R52): An encoding that is not an instruction, such as a reserved opcode, prefix or compact code, issues and raises ILL. -/
  | illegalInstruction (raw : BitVec 64)
  /-- FETCH_FAULT (R54): An instruction whose fetch fault tag is set issues and raises PAGE, PROT or POISON with the address of the failing byte. -/
  | fetchFault (cause : Nat) (adr : BitVec 64)
  /-- MLDA_PERFORM (R296): The matrix array performs an accepted MZERO or MLDA on its slice, reading the MLDA source and ending its operand guard. -/
  | mldaPerform (core : Nat)
  /-- STORAGE_PORT_RETRAIN (R420): Firmware retrains a storage root port whose link went down, so that later streams on it no longer fail. -/
  | storagePortRetrain (port : Nat)
  deriving DecidableEq, Repr

end Sys2Proof
end

