-- ==== Sys2Proof/Machine/OpTable.lean ====
section
/-! DEFINITION. The opcode map (R64 to R83): for every opcode its permitted forms, the kind of
register each field accepts, and how its mod and immediate fields are read. The decoder, the
well-formedness check, the encoder and the operand fetch all read this one table. -/

namespace Sys2Proof

/-- The signed value of an immediate (R51). -/
def Fields.simm (f : Fields) : Int := f.imm.toInt

/-- The condition code of mod layout I, K (R79). -/
def Fields.cond (f : Fields) : Nat := f.mod.toNat % 16

/-- The condition code of mod layout P (R79). -/
def Fields.pcond (f : Fields) : Nat := f.mod.toNat / 4 % 16

/-- Modifier .w in layouts I and O (R79). -/
def Fields.w (f : Fields) : Bool := f.mod.getLsbD 4

/-- Modifier .w in layout F (R79). -/
def Fields.fw (f : Fields) : Bool := f.mod.getLsbD 3

end Sys2Proof

namespace Sys2Proof.Machine

/-- What a register field names (R52, R56, R89): nothing, a value in a general register or queue
port, a value in a general register, an even register pair, an accumulator slice, or, as an object
and not a value, a general register, a queue port, or either. -/
inductive Role where
  | zero | reg | gen | pair | slice | objGen | objPort | objAny
  deriving DecidableEq, Repr

/-- How an immediate is read (R51, R65 and the instructions' own rules). -/
inductive ImmKind where
  | none | any | cmp | shift | field | sysreg | qbind | count | phs
  deriving DecidableEq, Repr

/-- Which mod values an opcode defines (R79, R80). -/
inductive ModKind where
  | none | w | condW | fcond | rnd | rndW | fmt | fmtSign | cvt (dst : Nat) | n | nSat | pcond | order
  | orderRed | tile
  deriving DecidableEq, Repr

/-- One row of the opcode map. `immS2` says that the immediate stands in place of s2 (R65), `level` is
the privilege level of R78. -/
structure OpRule where
  forms : List Form
  rd : Role := .zero
  s1 : Role := .zero
  s2 : Role := .zero
  s3 : Role := .zero
  imm : ImmKind := .none
  immS2 : Bool := false
  mod : ModKind := .none
  pol : Bool := false
  level : Nat := 0
  deriving DecidableEq, Repr

/-- ADD to MAXU with two sources and .w (R66). -/
def rAlu : OpRule := { forms := [.s, .m], rd := .reg, s1 := .reg, s2 := .reg, mod := .w }
/-- ADDI. -/
def rAddi : OpRule := { forms := [.l, .x], rd := .reg, s1 := .reg, imm := .any, mod := .w }
/-- LI and ADDPC. -/
def rLi : OpRule := { forms := [.l, .x], rd := .reg, imm := .any }
/-- LIH. -/
def rLih : OpRule := { forms := [.x], rd := .reg, s1 := .reg, imm := .any }
/-- AND to XNOR (R101). -/
def rLogic : OpRule :=
  { forms := [.s, .l, .x], rd := .reg, s1 := .reg, s2 := .reg, imm := .any, immS2 := true }
/-- SHL to ROR (R102). -/
def rShift : OpRule :=
  { forms := [.s, .m, .l], rd := .reg, s1 := .reg, s2 := .reg, imm := .shift, immS2 := true, mod := .w }
/-- CLZ to BSWAP and ABS. -/
def rUnary : OpRule := { forms := [.s, .m], rd := .reg, s1 := .reg, mod := .w }
/-- BFX and BFXU (R104). -/
def rBfx : OpRule :=
  { forms := [.m, .l], rd := .reg, s1 := .reg, s2 := .reg, s3 := .reg, imm := .field, immS2 := true }
/-- BFI (R104). -/
def rBfi : OpRule := { rBfx with rd := .gen }
/-- SEL (R105). -/
def rSel : OpRule := { forms := [.m], rd := .reg, s1 := .reg, s2 := .reg, s3 := .reg }
/-- CMP (R106). -/
def rCmp : OpRule := { forms := [.s, .m], rd := .reg, s1 := .reg, s2 := .reg, mod := .condW }
/-- CMPI (R106). -/
def rCmpi : OpRule := { forms := [.l, .x], rd := .reg, s1 := .reg, imm := .cmp, mod := .condW }
/-- MOV and the extensions (R107), FRCP to FCOS (R142). -/
def rMov : OpRule := { forms := [.s], rd := .reg, s1 := .reg }
/-- EMPT and FILL (R108). -/
def rEmpt : OpRule := { forms := [.s], s1 := .objGen }
/-- TSTF (R108). -/
def rTstf : OpRule := { forms := [.s], rd := .reg, s1 := .objGen }
/-- QBIND (R109). -/
def rQbind : OpRule := { forms := [.l, .x], rd := .objPort, s1 := .reg, imm := .qbind }
/-- QUNB (R110). -/
def rQunb : OpRule := { forms := [.s], s1 := .objPort }
/-- QSTAT (R110). -/
def rQstat : OpRule := { forms := [.s], rd := .gen, s1 := .objPort }
/-- SRD (R111). -/
def rSrd : OpRule := { forms := [.l], rd := .reg, imm := .sysreg }
/-- SWR (R111). -/
def rSwr : OpRule := { forms := [.l], s1 := .reg, imm := .sysreg }
/-- FADD to FDIV (R133). -/
def rFloat2 : OpRule := { forms := [.s, .m], rd := .reg, s1 := .reg, s2 := .reg, mod := .rnd }
/-- FFMA (R133). -/
def rFfma : OpRule := { forms := [.m], rd := .reg, s1 := .reg, s2 := .reg, s3 := .reg, mod := .rnd }
/-- FSQRT and FRND. -/
def rFloat1 : OpRule := { forms := [.s, .m], rd := .reg, s1 := .reg, mod := .rnd }
/-- FMIN and FMAX (R134). -/
def rFmin : OpRule := { forms := [.s], rd := .reg, s1 := .reg, s2 := .reg }
/-- FCMP (R135). -/
def rFcmp : OpRule := { forms := [.s, .m], rd := .reg, s1 := .reg, s2 := .reg, mod := .fcond }
/-- FCLASS (R136). -/
def rFclass : OpRule := { forms := [.m], rd := .reg, s1 := .reg, mod := .fmt }
/-- FSGN (R137). -/
def rFsgn : OpRule := { forms := [.m], rd := .reg, s1 := .reg, s2 := .reg, mod := .fmtSign }
/-- FCVT to the format whose fmt code is d (R138). -/
def rFcvt (d : Nat) : OpRule := { forms := [.m], rd := .reg, s1 := .reg, mod := .cvt d }
/-- FCVTI, FCVTIU, ICVTF and ICVTFU (R139, R140). -/
def rFcvti : OpRule := { forms := [.s, .m], rd := .reg, s1 := .reg, mod := .rndW }
/-- PADD to PMUL and PPACK: two sources, .n and .sat (R68). -/
def rPackSat : OpRule := { forms := [.s, .m], rd := .reg, s1 := .reg, s2 := .reg, mod := .nSat }
/-- PMIN to PAVG: two sources and .n. -/
def rPack : OpRule := { forms := [.s, .m], rd := .reg, s1 := .reg, s2 := .reg, mod := .n }
/-- PABS and PUNPK: one source and .n. -/
def rPack1 : OpRule := { forms := [.s, .m], rd := .reg, s1 := .reg, mod := .n }
/-- PCMP (R146). -/
def rPcmp : OpRule := { forms := [.m], rd := .reg, s1 := .reg, s2 := .reg, mod := .pcond }
/-- PSHUF (R147). -/
def rPshuf : OpRule :=
  { forms := [.s, .m, .x], rd := .reg, s1 := .reg, s2 := .reg, imm := .any, immS2 := true, mod := .n }
/-- PDOT and PDOTU (R149). -/
def rPdot : OpRule := { forms := [.m], rd := .reg, s1 := .reg, s2 := .reg, s3 := .reg, mod := .nSat }
/-- PSCL (R151). -/
def rPscl : OpRule := { forms := [.m], rd := .reg, s1 := .reg, s2 := .reg, mod := .rnd }
/-- BR (R157). -/
def rBr : OpRule := { forms := [.l, .x], s1 := .reg, s2 := .reg, imm := .any, mod := .condW }
/-- BRZ and BRNZ (R157). -/
def rBrz : OpRule := { forms := [.l, .x], s1 := .reg, imm := .any }
/-- JMP (R158). -/
def rJmp : OpRule := { forms := [.l, .x], imm := .any }
/-- JAL (R158). -/
def rJal : OpRule := { forms := [.l, .x], rd := .gen, imm := .any }
/-- JALR (R158). -/
def rJalr : OpRule := { forms := [.s, .l], rd := .gen, s1 := .reg, imm := .any }
/-- An instruction of the S form with no operands. -/
def rNone : OpRule := { forms := [.s] }
/-- WAITF (R161). -/
def rWaitf : OpRule := { forms := [.s], s1 := .objAny }
/-- MIG.c, EXIT.s and the other S forms with one source and no result. -/
def rSrc1 : OpRule := { forms := [.s], s1 := .reg }
/-- TRAP (R170). -/
def rTrap : OpRule := { forms := [.s, .l], s1 := .reg, s2 := .reg, imm := .any, mod := .condW }
/-- BRK (R170). -/
def rBrk : OpRule := { forms := [.s, .l], imm := .any }
/-- LDS.b to LDS.d (R192). -/
def rLds : OpRule := { forms := [.s, .l], rd := .gen, s1 := .reg, imm := .any }
/-- LDS.q (R192). -/
def rLdsQ : OpRule := { rLds with rd := .pair }
/-- STS.b to STS.d (R193). -/
def rSts : OpRule := { forms := [.s, .l], s1 := .reg, s2 := .reg, imm := .any }
/-- STS.q (R193). -/
def rStsQ : OpRule := { rSts with s2 := .pair }
/-- SAMO (R194). -/
def rSamo : OpRule := { forms := [.s, .l], rd := .gen, s1 := .reg, s2 := .reg, imm := .any, mod := .w }
/-- SCAS (R195). -/
def rScas : OpRule := { forms := [.m], rd := .gen, s1 := .reg, s2 := .reg, s3 := .reg, mod := .w }
/-- LD.b to LD.d, LDAQ and LDRO (R216). -/
def rLd : OpRule := { forms := [.s, .l, .x], rd := .gen, s1 := .reg, imm := .any, pol := true }
/-- LD.q and LDRO.q. -/
def rLdQ : OpRule := { rLd with rd := .pair }
/-- ST.b to ST.d and STRL (R216). -/
def rSt : OpRule := { forms := [.s, .l, .x], s1 := .reg, s2 := .reg, imm := .any, pol := true }
/-- ST.q. -/
def rStQ : OpRule := { rSt with s2 := .pair }
/-- LDV.w and LDV.d (R224). -/
def rLdv : OpRule := { rLd with pol := false }
/-- LDV.q. -/
def rLdvQ : OpRule := { rLdQ with pol := false }
/-- STV.w and STV.d. -/
def rStv : OpRule := { rSt with pol := false }
/-- STV.q. -/
def rStvQ : OpRule := { rStQ with pol := false }
/-- PREF (R225). -/
def rPref : OpRule := { forms := [.s, .l, .x], s1 := .reg, imm := .any, pol := true }
/-- CLFL (R226), and CTXS and CTXL but for their level. -/
def rClfl : OpRule := { forms := [.s, .l], s1 := .reg, imm := .any }
/-- AMO (R255). -/
def rAmo : OpRule :=
  { forms := [.m, .x], rd := .gen, s1 := .reg, s2 := .reg, imm := .any, mod := .order, pol := true }
/-- RED (R256). -/
def rRed : OpRule := { rAmo with rd := .zero, mod := .orderRed }
/-- CAS (R257). -/
def rCas : OpRule := { rAmo with s3 := .reg }
/-- MARM (R259), SIO (R287). -/
def rMarm : OpRule := { forms := [.s, .l], rd := .gen, s1 := .reg, imm := .any }
/-- MWAIT and the other S forms that only write rd. -/
def rDst : OpRule := { forms := [.s], rd := .gen }
/-- MWAIT.t and the other S forms from one source to a general register. -/
def rDst1 : OpRule := { forms := [.s], rd := .gen, s1 := .reg }
/-- SFLU, RSPWN, SIG: S forms from two sources to a general register. -/
def rDst2 : OpRule := { forms := [.s], rd := .gen, s1 := .reg, s2 := .reg }
/-- TCPY (R283). -/
def rTcpy : OpRule := { forms := [.s, .l, .x], rd := .gen, s1 := .reg, imm := .any }
/-- THDL.b (R286), NBINIT (R332). -/
def rThdl : OpRule := { forms := [.s, .l], s1 := .reg, s2 := .reg, imm := .any }
/-- MMQ and MMQS (R309). -/
def rMmq : OpRule :=
  { forms := [.m, .x], rd := .slice, s1 := .gen, s2 := .gen, s3 := .gen, imm := .any, mod := .tile }
/-- MZERO (R310). -/
def rMzero : OpRule := { forms := [.s], rd := .slice, s1 := .gen }
/-- MLDA and MSTA (R311). -/
def rMlda : OpRule := { forms := [.s, .l], rd := .slice, s1 := .gen, s2 := .gen, imm := .any }
/-- MERR.r (R316): its source is a general register (R308). -/
def rMerr : OpRule := { forms := [.s], rd := .gen, s1 := .gen }
/-- BAR, BAR.st and FBAR (R327). -/
def rBar : OpRule := { forms := [.s, .l], s1 := .gen, imm := .count }
/-- PHS (R377). -/
def rPhs : OpRule := { forms := [.l], imm := .phs }
/-- A supervisor instruction (R78). -/
def OpRule.at (r : OpRule) (level : Nat) : OpRule := { r with level }
/-- Two sources, no result. -/
def rSrc2 : OpRule := { forms := [.s], s1 := .reg, s2 := .reg }

/-- R66, from 0x000. -/
def rulesInteger : List OpRule :=
  [rAlu, rAlu, rAddi, rLi, rLih, rLi, rAlu, rAlu, rAlu, rAlu, rAlu, rAlu, rAlu, rAlu, rLogic, rLogic,
   rLogic, rLogic, rLogic, rLogic, rShift, rShift, rShift, rShift, rShift, rUnary, rUnary, rUnary, rUnary,
   rUnary, rBfx, rBfx, rBfi, rAlu, rAlu, rAlu, rAlu, rUnary, rSel, rCmp, rCmpi, rMov, rMov, rMov, rMov,
   rMov, rMov, rMov, rEmpt, rEmpt, rTstf, rQbind, rQunb, rQstat, rSrd, rSwr]

/-- R67, from 0x040. -/
def rulesFloat : List OpRule :=
  [rFloat2, rFloat2, rFloat2, rFloat2, rFloat2, rFloat2, rFfma, rFfma, rFloat2, rFloat2, rFloat1, rFloat1,
   rFmin, rFmin, rFmin, rFmin, rFcmp, rFcmp, rFclass, rFsgn, rFcvt 0, rFcvt 1, rFcvt 2, rFcvt 3, rFcvti,
   rFcvti, rFcvti, rFcvti, rFcvti, rFcvti, rFcvti, rFcvti, rFloat1, rFloat1, rMov, rMov, rMov, rMov, rMov,
   rMov]

/-- R68, from 0x080. -/
def rulesPacked : List OpRule :=
  [rPackSat, rPackSat, rPackSat, rPackSat, rPackSat, rPack, rPack, rPack, rPack, rPack, rPack1, rPcmp,
   rPshuf, rPackSat, rPack1, rPack1, rPack1, rPack1, rPdot, rPdot, rSel, rSel, rSel, rPscl]

/-- R69, from 0x0A0. -/
def rulesControl : List OpRule :=
  [rBr, rBrz, rBrz, rJmp, rJal, rJalr, rNone, rNone, rWaitf, rQunb, rNone, rNone, rNone, rSrc1, rNone,
   rNone, rTrap, rBrk, rNone.at 1, rSrc1.at 2]

/-- R70, from 0x0C0. -/
def rulesScratch : List OpRule :=
  [rLds, rLds, rLds, rLds, rLdsQ, rSts, rSts, rSts, rSts, rStsQ, rSamo, rSamo, rSamo, rScas]

/-- R71, from 0x0E0. -/
def rulesMemory : List OpRule :=
  [rLd, rLd, rLd, rLd, rLd, rLd, rLd, rLdQ, rSt, rSt, rSt, rSt, rStQ, rLd, rLd, rSt, rSt, rLd, rLd, rLdQ,
   rNone, rLdv, rLdv, rLdvQ, rStv, rStv, rStvQ, rPref, rPref, rClfl]

/-- R72, from 0x110. -/
def rulesAtomic : List OpRule :=
  [rAmo, rAmo, rAmo, rAmo, rAmo, rAmo, rAmo, rAmo, rAmo, rAmo, rRed, rRed, rRed, rRed, rRed, rRed, rRed,
   rRed, rRed, rCas, rNone, rMarm, rDst, rDst1]

/-- R73, from 0x130. -/
def rulesCopy : List OpRule :=
  [rTcpy, rDst1, rDst1, rDst, rThdl, rClfl, rMarm, rMarm, rMarm, rDst2]

/-- R74, from 0x140. -/
def rulesMatrix : List OpRule :=
  [rMmq, rMmq, rMzero, rMlda, rMlda, rMlda, rMlda, rMlda, rMlda, rMlda, rNone, rNone, rNone, rDst, rMerr,
   rNone]

/-- R75, from 0x160. -/
def rulesPhase : List OpRule :=
  [rBar, rBar, rBar, rClfl, rClfl, rClfl, rThdl, rClfl, rNone, rSrc1]

/-- R76, from 0x170. -/
def rulesSpawn : List OpRule :=
  [rDst1, rDst2, rDst1, rDst1, rDst1, rDst1, rDst1, rDst1]

/-- R77, from 0x180. -/
def rulesPower : List OpRule :=
  [rPhs, rNone, rClfl, rDst, rDst, rDst]

/-- R78, from 0x190. -/
def rulesSystem : List OpRule :=
  [rDst2, rDst2, rDst2, rDst1.at 1, rDst1.at 1, rDst1.at 1, rDst1.at 1, rSrc1.at 1, rSrc2.at 1, rSrc1.at 1,
   rNone.at 1, rNone.at 1, rNone.at 1, rNone.at 2, rDst.at 1, rDst1.at 1, rClfl.at 1, rClfl.at 1,
   rClfl.at 1, rClfl.at 1, rClfl.at 1, rClfl.at 1, rClfl.at 1, rClfl.at 1, rClfl.at 1, rClfl.at 1,
   rClfl.at 1, rClfl.at 1, rClfl.at 1, rClfl.at 1]

/-- The groups of R64, by first opcode. -/
def opGroups : List (Nat × List OpRule) :=
  [(0x000, rulesInteger), (0x040, rulesFloat), (0x080, rulesPacked), (0x0A0, rulesControl), (0x0C0, rulesScratch),
   (0x0E0, rulesMemory), (0x110, rulesAtomic), (0x130, rulesCopy), (0x140, rulesMatrix), (0x160, rulesPhase),
   (0x170, rulesSpawn), (0x180, rulesPower), (0x190, rulesSystem)]

/-- The rule of an opcode; none for the reserved values of R64. -/
def opRule (op : Nat) : Option OpRule :=
  opGroups.findSome? fun g => if g.1 ≤ op then g.2[op - g.1]? else none

/-- The opcode and the operand fields of an instruction; none for a step that is no instruction. -/
def instrFields : Instr → Option (Nat × Fields)
  | .add f => some (0x000, f)
  | .sub f => some (0x001, f)
  | .addi f => some (0x002, f)
  | .li f => some (0x003, f)
  | .lih f => some (0x004, f)
  | .addpc f => some (0x005, f)
  | .mul f => some (0x006, f)
  | .mulh f => some (0x007, f)
  | .mulhu f => some (0x008, f)
  | .mulhsu f => some (0x009, f)
  | .div f => some (0x00A, f)
  | .divu f => some (0x00B, f)
  | .rem f => some (0x00C, f)
  | .remu f => some (0x00D, f)
  | .and f => some (0x00E, f)
  | .or f => some (0x00F, f)
  | .xor f => some (0x010, f)
  | .andn f => some (0x011, f)
  | .orn f => some (0x012, f)
  | .xnor f => some (0x013, f)
  | .shl f => some (0x014, f)
  | .shr f => some (0x015, f)
  | .sra f => some (0x016, f)
  | .rol f => some (0x017, f)
  | .ror f => some (0x018, f)
  | .clz f => some (0x019, f)
  | .ctz f => some (0x01A, f)
  | .popc f => some (0x01B, f)
  | .brev f => some (0x01C, f)
  | .bswap f => some (0x01D, f)
  | .bfx f => some (0x01E, f)
  | .bfxu f => some (0x01F, f)
  | .bfi f => some (0x020, f)
  | .min f => some (0x021, f)
  | .max f => some (0x022, f)
  | .minu f => some (0x023, f)
  | .maxu f => some (0x024, f)
  | .abs f => some (0x025, f)
  | .sel f => some (0x026, f)
  | .cmp f => some (0x027, f)
  | .cmpi f => some (0x028, f)
  | .mov f => some (0x029, f)
  | .sextB f => some (0x02A, f)
  | .sextH f => some (0x02B, f)
  | .sextW f => some (0x02C, f)
  | .zextB f => some (0x02D, f)
  | .zextH f => some (0x02E, f)
  | .zextW f => some (0x02F, f)
  | .empt f => some (0x030, f)
  | .fill f => some (0x031, f)
  | .tstf f => some (0x032, f)
  | .qbind f => some (0x033, f)
  | .qunb f => some (0x034, f)
  | .qstat f => some (0x035, f)
  | .srd f => some (0x036, f)
  | .swr f => some (0x037, f)
  | .faddD f => some (0x040, f)
  | .faddS f => some (0x041, f)
  | .fsubD f => some (0x042, f)
  | .fsubS f => some (0x043, f)
  | .fmulD f => some (0x044, f)
  | .fmulS f => some (0x045, f)
  | .ffmaD f => some (0x046, f)
  | .ffmaS f => some (0x047, f)
  | .fdivD f => some (0x048, f)
  | .fdivS f => some (0x049, f)
  | .fsqrtD f => some (0x04A, f)
  | .fsqrtS f => some (0x04B, f)
  | .fminD f => some (0x04C, f)
  | .fminS f => some (0x04D, f)
  | .fmaxD f => some (0x04E, f)
  | .fmaxS f => some (0x04F, f)
  | .fcmpD f => some (0x050, f)
  | .fcmpS f => some (0x051, f)
  | .fclass f => some (0x052, f)
  | .fsgn f => some (0x053, f)
  | .fcvtD f => some (0x054, f)
  | .fcvtS f => some (0x055, f)
  | .fcvtH f => some (0x056, f)
  | .fcvtBf f => some (0x057, f)
  | .fcvtiD f => some (0x058, f)
  | .fcvtiS f => some (0x059, f)
  | .fcvtiuD f => some (0x05A, f)
  | .fcvtiuS f => some (0x05B, f)
  | .icvtfD f => some (0x05C, f)
  | .icvtfS f => some (0x05D, f)
  | .icvtfuD f => some (0x05E, f)
  | .icvtfuS f => some (0x05F, f)
  | .frndD f => some (0x060, f)
  | .frndS f => some (0x061, f)
  | .frcp f => some (0x062, f)
  | .frsq f => some (0x063, f)
  | .fexp2 f => some (0x064, f)
  | .flog2 f => some (0x065, f)
  | .fsin f => some (0x066, f)
  | .fcos f => some (0x067, f)
  | .padd f => some (0x080, f)
  | .paddu f => some (0x081, f)
  | .psub f => some (0x082, f)
  | .psubu f => some (0x083, f)
  | .pmul f => some (0x084, f)
  | .pmin f => some (0x085, f)
  | .pminu f => some (0x086, f)
  | .pmax f => some (0x087, f)
  | .pmaxu f => some (0x088, f)
  | .pavg f => some (0x089, f)
  | .pabs f => some (0x08A, f)
  | .pcmp f => some (0x08B, f)
  | .pshuf f => some (0x08C, f)
  | .ppack f => some (0x08D, f)
  | .punpkl f => some (0x08E, f)
  | .punpkh f => some (0x08F, f)
  | .punpklu f => some (0x090, f)
  | .punpkhu f => some (0x091, f)
  | .pdot f => some (0x092, f)
  | .pdotu f => some (0x093, f)
  | .pdotfE4 f => some (0x094, f)
  | .pdotfE5 f => some (0x095, f)
  | .pdotfF4 f => some (0x096, f)
  | .pscl f => some (0x097, f)
  | .br f => some (0x0A0, f)
  | .brz f => some (0x0A1, f)
  | .brnz f => some (0x0A2, f)
  | .jmp f => some (0x0A3, f)
  | .jal f => some (0x0A4, f)
  | .jalr f => some (0x0A5, f)
  | .rejoin f => some (0x0A6, f)
  | .yld f => some (0x0A7, f)
  | .waitf f => some (0x0A8, f)
  | .waitfE f => some (0x0A9, f)
  | .nop f => some (0x0AA, f)
  | .migL f => some (0x0AB, f)
  | .migW f => some (0x0AC, f)
  | .migC f => some (0x0AD, f)
  | .rgn f => some (0x0AE, f)
  | .sysc f => some (0x0AF, f)
  | .trap f => some (0x0B0, f)
  | .brk f => some (0x0B1, f)
  | .eretS f => some (0x0B2, f)
  | .eretF f => some (0x0B3, f)
  | .ldsB f => some (0x0C0, f)
  | .ldsH f => some (0x0C1, f)
  | .ldsW f => some (0x0C2, f)
  | .ldsD f => some (0x0C3, f)
  | .ldsQ f => some (0x0C4, f)
  | .stsB f => some (0x0C5, f)
  | .stsH f => some (0x0C6, f)
  | .stsW f => some (0x0C7, f)
  | .stsD f => some (0x0C8, f)
  | .stsQ f => some (0x0C9, f)
  | .samoAdd f => some (0x0CA, f)
  | .samoMax f => some (0x0CB, f)
  | .samoSwap f => some (0x0CC, f)
  | .scas f => some (0x0CD, f)
  | .ldB f => some (0x0E0, f)
  | .ldBu f => some (0x0E1, f)
  | .ldH f => some (0x0E2, f)
  | .ldHu f => some (0x0E3, f)
  | .ldW f => some (0x0E4, f)
  | .ldWu f => some (0x0E5, f)
  | .ldD f => some (0x0E6, f)
  | .ldQ f => some (0x0E7, f)
  | .stB f => some (0x0E8, f)
  | .stH f => some (0x0E9, f)
  | .stW f => some (0x0EA, f)
  | .stD f => some (0x0EB, f)
  | .stQ f => some (0x0EC, f)
  | .ldaqW f => some (0x0ED, f)
  | .ldaqD f => some (0x0EE, f)
  | .strlW f => some (0x0EF, f)
  | .strlD f => some (0x0F0, f)
  | .ldroW f => some (0x0F1, f)
  | .ldroD f => some (0x0F2, f)
  | .ldroQ f => some (0x0F3, f)
  | .roinv f => some (0x0F4, f)
  | .ldvW f => some (0x0F5, f)
  | .ldvD f => some (0x0F6, f)
  | .ldvQ f => some (0x0F7, f)
  | .stvW f => some (0x0F8, f)
  | .stvD f => some (0x0F9, f)
  | .stvQ f => some (0x0FA, f)
  | .prefL2 f => some (0x0FB, f)
  | .prefV f => some (0x0FC, f)
  | .clfl f => some (0x0FD, f)
  | .amoAdd f => some (0x110, f)
  | .amoAnd f => some (0x111, f)
  | .amoOr f => some (0x112, f)
  | .amoXor f => some (0x113, f)
  | .amoMin f => some (0x114, f)
  | .amoMax f => some (0x115, f)
  | .amoMinu f => some (0x116, f)
  | .amoMaxu f => some (0x117, f)
  | .amoSwap f => some (0x118, f)
  | .amoFadd f => some (0x119, f)
  | .redAdd f => some (0x11A, f)
  | .redAnd f => some (0x11B, f)
  | .redOr f => some (0x11C, f)
  | .redXor f => some (0x11D, f)
  | .redMin f => some (0x11E, f)
  | .redMax f => some (0x11F, f)
  | .redMinu f => some (0x120, f)
  | .redMaxu f => some (0x121, f)
  | .redFadd f => some (0x122, f)
  | .cas f => some (0x123, f)
  | .fence f => some (0x124, f)
  | .marm f => some (0x125, f)
  | .mwait f => some (0x126, f)
  | .mwaitT f => some (0x127, f)
  | .tcpy f => some (0x130, f)
  | .tcst f => some (0x131, f)
  | .twaitO f => some (0x132, f)
  | .twaitA f => some (0x133, f)
  | .thdlB f => some (0x134, f)
  | .thdlU f => some (0x135, f)
  | .sioR f => some (0x136, f)
  | .sioW f => some (0x137, f)
  | .sioD f => some (0x138, f)
  | .sflu f => some (0x139, f)
  | .mmq f => some (0x140, f)
  | .mmqs f => some (0x141, f)
  | .mzero f => some (0x142, f)
  | .mldaF32 f => some (0x143, f)
  | .mldaBf f => some (0x144, f)
  | .mstaF32 f => some (0x145, f)
  | .mstaBf f => some (0x146, f)
  | .mstaH f => some (0x147, f)
  | .mstaE4 f => some (0x148, f)
  | .mstaE5 f => some (0x149, f)
  | .crookT f => some (0x14A, f)
  | .crookP f => some (0x14B, f)
  | .crookR f => some (0x14C, f)
  | .crookQ f => some (0x14D, f)
  | .merrR f => some (0x14E, f)
  | .merrC f => some (0x14F, f)
  | .bar f => some (0x160, f)
  | .barSt f => some (0x161, f)
  | .fbar f => some (0x162, f)
  | .nbar f => some (0x163, f)
  | .nbarA f => some (0x164, f)
  | .nbarW f => some (0x165, f)
  | .nbinit f => some (0x166, f)
  | .nbinitC f => some (0x167, f)
  | .exit f => some (0x168, f)
  | .exitS f => some (0x169, f)
  | .spwn f => some (0x170, f)
  | .rspwn f => some (0x171, f)
  | .rspwnD f => some (0x172, f)
  | .trkA f => some (0x173, f)
  | .trkR f => some (0x174, f)
  | .trkc f => some (0x175, f)
  | .trkqS f => some (0x176, f)
  | .trkqD f => some (0x177, f)
  | .phs f => some (0x180, f)
  | .phsx f => some (0x181, f)
  | .spl f => some (0x182, f)
  | .pqryP f => some (0x183, f)
  | .pqryB f => some (0x184, f)
  | .pqryC f => some (0x185, f)
  | .sig f => some (0x190, f)
  | .sigG f => some (0x191, f)
  | .sigB f => some (0x192, f)
  | .evctB f => some (0x193, f)
  | .evctF f => some (0x194, f)
  | .evctS f => some (0x195, f)
  | .evctC f => some (0x196, f)
  | .tlbiVa f => some (0x197, f)
  | .tlbiVas f => some (0x198, f)
  | .tlbiAs f => some (0x199, f)
  | .tlbiAll f => some (0x19A, f)
  | .tlbiL f => some (0x19B, f)
  | .halt f => some (0x19C, f)
  | .haltP f => some (0x19D, f)
  | .wfi f => some (0x19E, f)
  | .wfiT f => some (0x19F, f)
  | .ctxsG f => some (0x1A0, f)
  | .ctxsS f => some (0x1A1, f)
  | .ctxsQ f => some (0x1A2, f)
  | .ctxsM f => some (0x1A3, f)
  | .ctxsSp f => some (0x1A4, f)
  | .ctxsH f => some (0x1A5, f)
  | .ctxsT f => some (0x1A6, f)
  | .ctxlG f => some (0x1A7, f)
  | .ctxlS f => some (0x1A8, f)
  | .ctxlQ f => some (0x1A9, f)
  | .ctxlM f => some (0x1AA, f)
  | .ctxlSp f => some (0x1AB, f)
  | .ctxlH f => some (0x1AC, f)
  | .ctxlT f => some (0x1AD, f)
  | _ => none

/-- System register numbers that are assigned (R96, R386, R422). -/
def sysAssigned (n : Nat) : Bool := n ≤ 0x01A || (0x100 ≤ n && n ≤ 0x104) || (0x800 ≤ n && n ≤ 0x81A)

/-- The condition of the rule's layout, when it has one. -/
def condOf (r : OpRule) (f : Fields) : Option Nat :=
  match r.mod with
  | .condW | .fcond => some f.cond
  | .pcond => some f.pcond
  | _ => none

/-- Whether the instruction reads no source because its condition is code 0 (R81). -/
def condAlways (r : OpRule) (f : Fields) : Bool := condOf r f == some 0

/-- Whether the immediate stands in place of s2 in this form (R65, R85). A C form whose s2 is 0 stands
for either form, with the same effect. -/
def immForS2 (r : OpRule) (f : Fields) : Bool :=
  r.immS2 && (f.form == .l || f.form == .x || (f.form == .c && f.s2 == 0))

/-- What s1 names in this encoding. -/
def roleS1 (r : OpRule) (f : Fields) : Role := if condAlways r f then .zero else r.s1

/-- What s2 names in this encoding. -/
def roleS2 (r : OpRule) (f : Fields) : Role :=
  if condAlways r f || immForS2 r f then .zero else r.s2

/-- What s3 names in this encoding (R65). -/
def roleS3 (r : OpRule) (f : Fields) : Role :=
  if f.form == .m || f.form == .x then r.s3 else .zero

/-- Whether a register field holds a register of its kind (R52, R56). -/
def Role.ok (k : Role) (r : Fin 64) : Bool :=
  match k with
  | .zero => r == 0
  | .reg | .objAny => true
  | .gen | .objGen => r.val < 56
  | .objPort => 56 ≤ r.val
  | .pair => r.val < 56 && r.val % 2 == 0
  | .slice => r.val < 16

/-- Whether a field of this kind is read as a value, so that its e bit may be set (R57, R89). -/
def Role.isSource (k : Role) : Bool :=
  match k with
  | .reg | .gen | .pair => true
  | _ => false

/-- Whether a mod value is defined for the opcode (R80, R81). -/
def ModKind.ok (k : ModKind) (m : BitVec 8) : Bool :=
  let v := m.toNat
  match k with
  | .none => v == 0
  | .w => v == 0 || v == 16
  | .condW => v < 32 && v % 16 ≤ 10
  | .fcond => v ≤ 6 || v == 11 || v == 12
  | .rnd => v ≤ 5
  | .rndW => v < 16 && v % 8 ≤ 5
  | .fmt => v < 64 && v % 16 == 0
  | .fmtSign => v < 192 && v % 16 == 0
  | .cvt d => v < 64 && v % 16 ≤ 5 && v / 16 != d
  | .n => v ≤ 1
  | .nSat => v ≤ 3
  | .pcond => v < 64 && v % 4 < 2 && v / 4 ≤ 10
  | .order => v < 32 && v % 16 ≤ 3
  | .orderRed => v < 32 && v % 16 ≤ 3 && v % 2 == 0
  | .tile => v ≤ 3

/-- Whether the immediate of an L or X form is one that the opcode accepts (R102, R104, R106, R109, R111,
R327, R377). -/
def ImmKind.ok (k : ImmKind) (f : Fields) : Bool :=
  let v := f.imm.toNat
  match k with
  | .none => v == 0
  | .any => true
  | .cmp => f.cond != 0 || v == 0
  | .shift => v < (if f.w then 32 else 64)
  | .field => v < 8192 && v / 64 != 0 && v / 64 ≤ 64 && v % 64 + v / 64 ≤ 64
  | .sysreg => v < 4096 && sysAssigned v
  | .qbind =>
    v < 32768 && v / 8192 != 0 && (v / 8192 != 2 || v % 8192 < 32)
      && (v / 8192 != 3 || (v % 8192 == 0 && f.s1 == 0))
  | .count => v < 8
  | .phs => v < 2 ^ 21 && 1 ≤ v / 256 % 32 && v / 256 % 32 ≤ 16

/-- Why a run of bytes is not an instruction (R52). -/
inductive DecodeError where
  | short
  | reservedPrefix
  | compactCode (code : Nat)
  | reservedOpcode (op : Nat)
  | wrongForm (op : Nat)
  | topBit
  | register (op : Nat)
  | emptyMode (op : Nat)
  | modifier (op : Nat)
  | immediate (op : Nat)
  | extFlags
  | policy (op : Nat)
  | samePort (op : Nat)
  | outsideForm (op : Nat)
  deriving DecidableEq, Repr

/-- The source fields that name a queue port, of those read as values. -/
def portSources (r : OpRule) (f : Fields) : List (Fin 64) :=
  ([(roleS1 r f, f.s1), (roleS2 r f, f.s2), (roleS3 r f, f.s3)].filter fun p => p.1.isSource && 56 ≤ p.2.val).map
    (·.2)

/-- Whether a list names nothing twice. -/
def noDup : List (Fin 64) → Bool
  | [] => true
  | a :: l => !l.contains a && noDup l

/-- Whether a form has room for the fields (R46 to R50, R53). -/
def formHolds (f : Fields) : Bool :=
  match f.form with
  | .c => true
  | .s => f.s3 == 0 && !f.e3 && f.mod == 0 && f.pol == 0 && f.imm == 0
  | .m => f.pol == 0 && f.imm == 0
  | .l => f.s3 == 0 && !f.e3 && f.pol == 0 && (f.imm.setWidth 23).signExtend 32 == f.imm
  | .x => true

/-- R52 for an S, M, L or X form of an opcode: why its fields are not an instruction. -/
def reject? (op : Nat) (r : OpRule) (f : Fields) : Option DecodeError :=
  if !r.forms.contains f.form then some (.wrongForm op)
  else if !formHolds f then some (.outsideForm op)
  else if !(r.rd.ok f.rd && (roleS1 r f).ok f.s1 && (roleS2 r f).ok f.s2 && (roleS3 r f).ok f.s3) then
    some (.register op)
  else if (f.e1 && !(roleS1 r f).isSource) || (f.e2 && !(roleS2 r f).isSource)
      || (f.e3 && !(roleS3 r f).isSource) then some (.emptyMode op)
  else if !r.mod.ok f.mod then some (.modifier op)
  else if (f.form == .l || f.form == .x) && !r.imm.ok f then some (.immediate op)
  else if !(if r.pol then f.pol.val < 56 else f.pol == 0) then some (.policy op)
  else if !noDup (portSources r f) then some (.samePort op)
  else none

/-- How a compact code uses its rd (D) and rs (S) fields (R85). -/
inductive CShape where
  | nullary | move | ddS | store | notS | addImm (k : Int) | subImm | li | liNeg | mask | slice | sysreg
  deriving DecidableEq, Repr

/-- A defined compact code: opcode, use of the fields, mod (R85). -/
structure CRow where
  op : Nat
  shape : CShape
  mod : Nat := 0
  deriving DecidableEq, Repr

/-- Compact codes 1 to 64 in order (R85). -/
def compactRows : List CRow :=
  [⟨0x0AA, .nullary, 0⟩, ⟨0x029, .move, 0⟩] ++
  [0x000, 0x001, 0x00E, 0x00F, 0x010, 0x014, 0x015, 0x016, 0x006, 0x021, 0x022].map (⟨·, .ddS, 0⟩) ++
  [⟨0x000, .ddS, 0x10⟩, ⟨0x001, .ddS, 0x10⟩, ⟨0x002, .addImm 1, 0⟩, ⟨0x002, .subImm, 0⟩, ⟨0x003, .li, 0⟩,
   ⟨0x003, .liNeg, 0⟩, ⟨0x014, .addImm 0, 0⟩, ⟨0x015, .addImm 0, 0⟩, ⟨0x016, .addImm 0, 0⟩,
   ⟨0x014, .addImm 16, 0⟩, ⟨0x015, .addImm 16, 0⟩, ⟨0x00E, .mask, 0⟩, ⟨0x012, .notS, 0⟩, ⟨0x001, .notS, 0⟩] ++
  [0x025, 0x019, 0x01A, 0x01B, 0x02C, 0x02F, 0x02A, 0x02D].map (⟨·, .move, 0⟩) ++
  [⟨0x027, .ddS, 1⟩, ⟨0x027, .ddS, 3⟩, ⟨0x027, .ddS, 7⟩] ++
  [0x0E2, 0x0E3, 0x0E6, 0x0E4, 0x0E5, 0x0E1].map (⟨·, .move, 0⟩) ++
  [0x0EB, 0x0EA, 0x0E8].map (⟨·, .store, 0⟩) ++
  [⟨0x0C2, .move, 0⟩, ⟨0x0C3, .move, 0⟩, ⟨0x0C7, .store, 0⟩, ⟨0x0C8, .store, 0⟩, ⟨0x0A5, .move, 0⟩] ++
  [0x0A6, 0x0A7, 0x0B1, 0x0AE, 0x0F4, 0x181].map (⟨·, .nullary, 0⟩) ++
  [⟨0x142, .slice, 0⟩, ⟨0x01D, .move, 0⟩, ⟨0x041, .ddS, 0⟩, ⟨0x043, .ddS, 0⟩, ⟨0x045, .ddS, 0⟩,
   ⟨0x036, .sysreg, 0⟩]

/-- A 4-bit register field as a register number. -/
def reg4 (n : Nat) : Fin 64 := ⟨n % 16, by omega⟩

/-- The operand fields of a C form (R53, R85). -/
def compactFields (row : CRow) (d s : Nat) : Fields :=
  let base : Fields :=
    { form := .c, rd := reg4 d, s1 := 0, s2 := 0, s3 := 0, e1 := false, e2 := false, e3 := false,
      mod := BitVec.ofNat 8 row.mod, pol := 0, imm := 0 }
  match row.shape with
  | .nullary => { base with rd := 0 }
  | .move => { base with s1 := reg4 s }
  | .ddS => { base with s1 := reg4 d, s2 := reg4 s }
  | .store => { base with rd := 0, s1 := reg4 s, s2 := reg4 d }
  | .notS => { base with s2 := reg4 s }
  | .addImm k => { base with s1 := reg4 d, imm := BitVec.ofInt 32 (s % 16 + k) }
  | .subImm => { base with s1 := reg4 d, imm := BitVec.ofInt 32 (-(s % 16 + 1)) }
  | .li => { base with imm := BitVec.ofNat 32 (s % 16) }
  | .liNeg => { base with imm := BitVec.ofInt 32 (-(s % 16 + 1)) }
  | .mask => { base with s1 := reg4 d, imm := BitVec.ofNat 32 (2 ^ (s % 16 + 1) - 1) }
  | .slice => base
  | .sysreg => { base with imm := BitVec.ofNat 32 (s % 16) }

/-- Whether rd and rs are 0 where the expansion leaves them unused (R86). -/
def compactUnused (row : CRow) (d s : Nat) : Bool :=
  match row.shape with
  | .nullary => d == 0 && s == 0
  | .slice => s == 0
  | _ => true

/-- The rd and rs fields that a compact code would need to stand for given fields. -/
def compactArgs (row : CRow) (f : Fields) : Nat × Nat :=
  match row.shape with
  | .nullary => (0, 0)
  | .move => (f.rd.val, f.s1.val)
  | .ddS | .notS => (f.rd.val, f.s2.val)
  | .store => (f.s2.val, f.s1.val)
  | .addImm k => (f.rd.val, (f.imm.toInt - k).toNat)
  | .subImm | .liNeg => (f.rd.val, (-f.imm.toInt - 1).toNat)
  | .li | .sysreg => (f.rd.val, f.imm.toNat)
  | .mask => (f.rd.val, (f.imm.toNat + 1).log2 - 1)
  | .slice => (f.rd.val, 0)

/-- Whether a compact code with the fields compactArgs finds stands for opcode and fields. -/
def compactMatches (op : Nat) (f : Fields) (row : CRow) : Bool :=
  let a := compactArgs row f
  row.op == op && a.1 < 16 && a.2 < 16 && compactFields row a.1 a.2 == f && compactUnused row a.1 a.2

/-- The first compact code of rows, numbered from n, that stands for opcode and fields. -/
def findCompact (op : Nat) (f : Fields) : Nat → List CRow → Option (Nat × Nat × Nat)
  | _, [] => none
  | n, row :: rows =>
    if compactMatches op f row then some (n, compactArgs row f) else findCompact op f (n + 1) rows

/-- The code, rd and rs of a C form that stands for opcode and fields. -/
def compactOf (op : Nat) (f : Fields) : Option (Nat × Nat × Nat) := findCompact op f 1 compactRows

end Sys2Proof.Machine
end

