-- ==== Sys2Proof/Machine/Bytes.lean ====
section
/-! DEFINITION. Byte order and bit fields: the machine is little-endian (R4). -/

namespace Sys2Proof.Machine

/-- The number that bytes spell, the first byte least significant (R4). -/
def leNat : List Byte → Nat
  | [] => 0
  | b :: bs => b.toNat + 256 * leNat bs

/-- The n low bytes of a number, the least significant first (R4). -/
def leBytes : Nat → Nat → List Byte
  | 0, _ => []
  | n + 1, v => BitVec.ofNat 8 v :: leBytes n (v / 256)

/-- n bits of v from bit lo: bits(v, lo + n - 1, lo) of R3. -/
def bitsAt (v lo n : Nat) : Nat := v / 2 ^ lo % 2 ^ n

/-- Whether bit i of v is 1. -/
def bitAt (v i : Nat) : Bool := v / 2 ^ i % 2 == 1

/-- The value of an n-bit two's-complement pattern: sext(v, n) of R3. -/
def sextN (v n : Nat) : Int := if 2 * (v % 2 ^ n) < 2 ^ n then (v % 2 ^ n : Nat) else (v % 2 ^ n : Nat) - (2 ^ n : Nat)

/-- The low 64 bits of an integer. -/
def wordOfInt (v : Int) : Word := BitVec.ofInt 64 v

/-- A word from a condition. -/
def wordOfBool (b : Bool) : Word := if b then 1 else 0

end Sys2Proof.Machine
end

