-- ==== Sys2Proof/Machine/State.lean ====
section
/-! DEFINITION. The state of one LX144 package as plain data, the reasons a step can stop, and the
state after package reset. Every record names the rule that gives it; INVENTORY.md lists each piece
of state with its reset value. -/

namespace Sys2Proof.Machine

/-- A table from numbers to records, keys rising; an absent key has no entry. -/
abbrev Tab (α : Type) := List (Nat × α)

/-- Sparse bytes by address, in canonical form: addresses rising, no entry equal to 0, which every
unlisted address reads as (log entry 2). -/
abbrev Memory := List Host.Cell

/-- Sparse accumulator elements (R290): canonical as Memory is, unlisted elements read +0. -/
abbrev Slices := List (Nat × BitVec 32)

/-- Privilege levels (R96, plvl). -/
inductive Level where
  | user | supervisor | firmware
  deriving DecidableEq, Repr

/-- What a queue port is bound to (R91). -/
inductive Port where
  | unbound
  | base (id : Nat)
  | chan (n : Nat)
  | inbox
  deriving DecidableEq, Repr

/-- A general register: value, full bit (R87), poison mark (R396). -/
structure Reg where
  val : Word
  full : Bool
  poison : Bool
  deriving DecidableEq, Repr

/-- The barriers of R325. -/
inductive BarKind where
  | bar | barSt | fbar
  deriving DecidableEq, Repr

/-- Sub-states of a thread (R40); at REJOIN with the length of the instruction it waits at. -/
inductive Sub where
  | active
  | rejoin (len : Nat)
  | barrier (k : BarKind)
  | mwait
  | faultParked
  | extractParked
  deriving DecidableEq, Repr

/-- Where a thread in transit is going (R172): a latency core (one that is named, or one that system
software's dispatch chooses), a named weft core, or the pool that the hardware chooses. -/
inductive Dest where
  | latency (core : Option Nat)
  | weft (core : Nat)
  | anyWeft
  deriving DecidableEq, Repr

/-- The states of a thread (R39). -/
inductive Loc where
  | latency (core : Nat)
  | transit (dest : Dest)
  | pooled (core : Nat)
  | member (core slot lane : Nat)
  | saved
  | exited
  deriving DecidableEq, Repr

/-- A thread's monitor (R259, R260). -/
structure Monitor where
  line : Nat
  armed : Bool
  fired : Bool
  lost : Bool
  deriving DecidableEq, Repr

/-- What an instruction that waits has already done for its thread: MWAIT's destination, start and
bound (R261); WFI's start (R409), `wfiPort` where its bound is a queue's word; a submission not yet accepted, and an accepted job's handle
(R263); the network barrier and generation NBAR arrived in (R333), and that a network barrier's instruction waits for
an earlier release (R392); the carry mask, the block count and the
length of a barrier instruction whose lane does not arrive yet (R32, R327); the acceptance number that bounds
the jobs TWAIT.a waits for, or the accesses TLBI does (R285, R407); the flocks that an EVCT evicts (R406); the address
of a CROOK.t that waits for a grant (R302). -/
inductive Wait where
  | none
  | mwait (rd t0 : Nat) (bound : Option Nat)
  | wfi (rd t0 : Nat) (bound : Option Nat)
  | wfiPort (t0 bound : Nat)
  | submitted
  | accepted (handle : Word)
  | nbar (nbid gen : Nat)
  | earlier
  | arriving (mask : BitVec 56) (count len : Nat)
  | jobs (mark : Nat)
  | evct (flocks : List (Nat × Nat))
  | crook (pc : Word)
  deriving DecidableEq, Repr

/-- A network participation word (R324): `pstate` is 0 idle, 1 arrived, 2 released; `gen` counts the releases
that have reached the participant. -/
structure NbWord where
  nbid : Nat
  gen : Nat
  pstate : Nat
  narr : Nat
  deriving DecidableEq, Repr

/-- A thread (R17): identity, coordinates, registers, per-thread system registers (R96), and where
it is and what it waits for (R39, R40). `entry` is the cause and trapval of a trap that it takes once it
runs on a latency core (R169, R175), `lost` the address of a store that an error lost (R397);
an extraction-parked thread leaves for `leave` and travels in sub-state `asSub` (R34, R175). -/
structure Thread where
  tid : Nat
  pid : Nat
  tblk : Nat
  pc : Word
  rgn : Word
  regs : Vector Reg 56
  ports : Vector Port 8
  fmode : Word
  plvl : Level
  pkey : Word
  pwait : Nat
  yage : Nat
  sigmask : Word
  trapcause : Word
  trapval : Word
  trappc : Word
  spawn : Nat
  fcoord : Nat
  bcoord : Nat
  tcoord : Nat
  weft : Nat
  lane : Nat
  stage : Nat
  nstage : Nat
  blocks : Nat
  nw : Bool
  home : Nat
  bolt : Option Nat
  loc : Loc
  sub : Sub
  age : Nat
  wait : Wait
  monitor : Monitor
  inbox : List Word
  carry : BitVec 56
  nextBlocks : Nat
  clock : Nat
  xr : Bool
  retPoint : Word
  bwait : Option BarKind
  vstamp : Nat
  failed : Nat
  nbReg : List NbWord
  nbArr : Tab Nat
  entry : Option (Nat × Word)
  lost : Option Word
  leave : Option Dest
  asSub : Sub
  deriving DecidableEq, Repr

/-- An operand of a quarter that is not accepted yet (R292): a scratchpad address, or a use of a tile handle at a
source offset with its buffer, once it has one. -/
inductive Opnd where
  | spad (addr : Nat)
  | use (handle : Nat) (o : Int) (buf : Option Nat)
  deriving DecidableEq, Repr

/-- A scratchpad range of a bolt: the allotment it names and the offsets [lo, hi). -/
structure SpRange where
  bolt : Nat
  lo : Nat
  hi : Nat
  deriving DecidableEq, Repr

/-- What an operation of the array that is not accepted yet is: a quarter with its A tile and its B set (`bs` is
the base of the set, or four uses), or an MSTA with the range it writes (R294, R295). -/
inductive WaitKind where
  | quarter (q : Nat) (sparse : Bool) (a : Opnd) (bs : List Opnd)
  | store (dst : SpRange) (addr pitch fmt : Nat)
  deriving DecidableEq, Repr

/-- An operation that has issued and that the array has not accepted (R294, R295, R304): the thread that issued
it, the address and the fields of its instruction, and its slice. -/
structure QWait where
  leader : Nat
  pc : Word
  f : Fields
  slice : Nat
  kind : WaitKind
  deriving DecidableEq, Repr

/-- States of a weft (R41); saved and done wefts have no record. -/
inductive WState where
  | running | atBarrier | awaiting | empty
  deriving DecidableEq, Repr

/-- A weft in a slot (R25, R26, R31 to R33, R186): `held` says that it holds its register blocks,
`reclaimed` that its whole register state is in its phase record, `ready` orders waiting wefts. -/
structure Weft where
  bolt : Nat
  widx : Nat
  lanes : Vector (Option Nat) 32
  ovr : BitVec 32
  ocount : Nat
  stall : Nat
  stallPc : Word
  spass : Word
  wstate : WState
  blocks : Nat
  held : Bool
  next : Nat
  carry : BitVec 56
  reclaimed : Bool
  ready : Nat
  eligible : Bool
  waitQ : List QWait
  deriving DecidableEq, Repr

/-- A translation a core holds (R206). -/
structure Tlb where
  space : Nat
  glob : Bool
  vbase : Nat
  bits : Nat
  frame : Nat
  leaf : Word
  deriving DecidableEq, Repr

/-- The eviction classes of R59. -/
inductive EClass where
  | keep | normal | stream
  deriving DecidableEq, Repr

/-- A copy in a weft core's L1 (R241, R242): line address, 128 bytes, stamps; `own` marks the bytes
the core itself wrote, which hold the lease from `ownw` to `ownw + ownl`; its eviction class (R59); `bad` marks the bytes
that an uncorrectable error struck in the L1 (R421). -/
structure L1Copy where
  line : Nat
  data : List Byte
  rts : Nat
  own : BitVec 128
  ownw : Nat
  ownl : Nat
  cls : EClass := .normal
  bad : BitVec 128 := 0
  deriving DecidableEq, Repr

/-- A fault report that waits for room in the service queue (R387); `told` says that a device event has
reported the wait (R394). -/
structure Report where
  word0 : Word
  value : Word
  pc : Word
  told : Bool
  deriving DecidableEq, Repr

/-- A tile operand (R292): its allotment and offset, the address the lane named, its depth, and for a
handle the handle and buffer, with the job that failed to fill it (R305). -/
structure Tile where
  bolt : Nat
  offset : Nat
  addr : Nat
  depth : Nat
  buf : Option (Nat × Nat)
  fill : Option Nat
  deriving DecidableEq, Repr

/-- Bytes that the array has read from a scratchpad, and which of their words carry poison (R305). -/
structure SpData where
  bytes : List Byte
  poison : List Nat
  deriving DecidableEq, Repr

/-- What an accepted operation of the matrix array does (R296). `store` holds the format code of
R116 of its output, `load` whether its source is BF16. -/
inductive ArrKind where
  | quarter (a : Tile) (bs : List Tile) (sparse : Bool)
  | zero
  | load (src : SpRange) (addr pitch : Nat) (bf16 : Bool)
  | store (dst : SpRange) (addr pitch fmt : Nat)
  deriving DecidableEq, Repr

/-- An operation that the array has accepted and not yet performed (R294 to R296); `data` holds its sources
once it has read them. -/
structure ArrOp where
  id : Nat
  bolt : Nat
  widx : Nat
  stage : Nat
  pid : Nat
  slice : Nat
  cycle : Nat
  kind : ArrKind
  data : Option (List SpData)
  deriving DecidableEq, Repr

/-- A pass in progress (R298, R299): the operations fused, and its cycles. -/
structure Pass where
  ops : List Nat
  start : Nat
  len : Nat
  quarters : Nat
  pid : Nat
  bolt : Nat
  deriving DecidableEq, Repr

/-- The crook of a weft core (R301): `votes` holds weft indexes, `kind` whether the first vote was a
release. -/
structure Crook where
  holder : Option (Nat × Nat)
  votes : List Nat
  kind : Bool
  tg : Nat
  lastAcc : Option Nat
  claims : List (Nat × Nat)
  deriving DecidableEq, Repr

/-- A wave of released wefts that is not yet eligible (R326); `net` names the network barrier whose release it waits
out (R331). -/
structure Wave where
  bolt : Nat
  slots : List Nat
  at_ : Nat
  net : Option Nat
  deriving DecidableEq, Repr

/-- The power state of a cluster (R363 to R371): boost level, grace, throttle limit, the current
activity window (its start, its summed allowance and activity, and both by context), and whether a burst
start has its grant, for the operations of `burstOps`, to which the wait for it added none. -/
structure Cluster where
  b : Nat
  grace : Bool
  throttle : Option Nat
  wstart : Nat
  dsum : Nat
  dlast : Nat
  act : Nat
  ctxAct : Tab Nat
  ctxD : Tab Nat
  lastEnd : Nat
  burstOk : Bool
  nextPass : Nat
  burstOps : List Nat := []
  deriving DecidableEq, Repr

/-- A weft core. `gset` is the guard that firmware has written (R246), `sscr` its scratch register (R386), `vcache`
the pages of the vault beneath it that make up its vault cache (R212), `working` its register blocks that work (R422).
`part` counts the tenths of cluster cycles of the ticks that have passed which its clock has not run through yet (R13).
`roBad` holds the bytes of read-only copies that an uncorrectable error struck (R421). -/
structure WCore where
  halted : Bool
  closed : Bool
  rfblk : Nat
  slots : Tab Weft
  epochs : Tab Nat
  last : Vector Nat 6
  pool : List (Nat × Nat)
  vfloor : Nat
  l1 : List L1Copy
  ro : Tab (List Byte)
  tlb : List Tlb
  rel : Nat
  seen : Nat
  reports : List Report
  aq : List ArrOp
  pass : Option Pass
  cyc : Nat
  crook : Crook
  waves : List Wave
  cluster : Cluster
  ratios : Vector Nat 6
  gset : Nat
  sscr : Word
  vcache : List Nat
  working : Nat := 336
  part : Nat := 0
  roBad : List Nat := []
  deriving DecidableEq, Repr

/-- A latency core: the thread it runs, the threads that wait for its scheduler, and its registers
(R155, R172, R385, R386). -/
structure LCore where
  cur : Option Nat
  run : List Nat
  halted : Bool
  sscr : Word
  busy : Bool
  tlb : List Tlb
  rel : Nat
  trip3At : Option Nat
  seen : Nat
  gset : Nat
  deriving DecidableEq, Repr

/-- A barrier word (R322). -/
structure BarWord where
  gen : Bool
  expect : Nat
  arrived : Nat
  deriving DecidableEq, Repr

/-- A channel word (R323). -/
structure Chan where
  tail : Nat
  head : Nat
  base : Nat
  dcode : Nat
  deriving DecidableEq, Repr

/-- A region of a job card (R267), as the space code, first byte and length in bytes. -/
structure Region where
  space : Nat
  lo : Nat
  len : Nat
  deriving DecidableEq, Repr

/-- A job card and its layout record, taken apart (R265 to R268). -/
structure Card where
  op : Nat
  sspace : Nat
  dspace : Nat
  nsp : Nat
  depth : Nat
  ndup : Nat
  satt : Nat
  dfmt : Nat
  sfmt : Nat
  stmp : Bool
  src : Word
  dst : Word
  rows : Nat
  cols : Nat
  spitch : Nat
  dpitch : Nat
  dup : Word
  sca : Word
  stamp : Word
  seq : Word
  reads : List Region
  writes : List Region
  outer : Nat
  inner : Nat
  swb : Nat
  swu : Nat
  swsh : Nat
  deriving DecidableEq, Repr

/-- A bound tile handle (R278, R320): the template and its 16 card words, and for each buffer the offset it holds
and the job that fills it, or that failed to (R305). `oldest` names the buffer filled least recently. -/
structure Handle where
  card : Card
  raw : List Word
  nbuf : Nat
  offs : List (Option Int)
  fills : List (Option Nat)
  oldest : Nat
  deriving DecidableEq, Repr

/-- A burst declaration (R364): onset and end in cluster cycles, whether it is active, and the tick from which it
is. -/
structure Decl where
  onset : Nat
  intensity : Nat
  stop : Option Nat
  active : Bool
  since : Nat
  deriving DecidableEq, Repr

/-- States of a bolt (R42). -/
inductive BState where
  | resident | saved | done
  deriving DecidableEq, Repr

/-- A bolt (R20, R320, R321): its header, its scratchpad allotment (R180), its accumulator slices
(R290; element (i, j) of slice k at 4096 k + 128 i + j) with the elements that an error struck. `hslot` is its header
slot, fixed at its placement or restore (R318); 48 while it has none. -/
structure Bolt where
  id : Nat
  pack : Bool
  spawn : Nat
  fcoord : Nat
  bcoord : Nat
  pid : Nat
  core : Nat
  order : Nat
  prio : Nat
  pclass : Nat
  nweft : Nat
  live : Nat
  nslice : Nat
  rows : Nat
  nstage : Nat
  bstate : BState
  evicting : Bool
  barWord : BarWord
  stWords : Vector BarWord 8
  flWord : BarWord
  nb : List NbWord
  merr : Word
  elog : List Word
  chans : Tab Chan
  handles : Tab Handle
  spad : Memory
  spPoison : List Nat
  acc : Slices
  accErr : List Nat
  decl : Option Decl
  failed : Nat
  saveArea : Nat
  savedCrook : Option (Bool × Nat)
  blocks0 : Nat
  hslot : Nat := 48
  deriving DecidableEq, Repr

/-- A context's shared registers (R96, R370). -/
structure Ctx where
  cap : Nat
  held : Nat
  slope : Word
  ubcount : Nat
  deriving DecidableEq, Repr

/-- The package registers of R386 and R422. -/
structure FwRegs where
  svec : Word
  fvec : Word
  evtid : Word
  svcq : Word
  pools : Word
  spcbase : Word
  rdctl : Word
  rdovf : Word
  plceil : Word
  hdroom : Word
  slfloor : Word
  tlim : Word
  snsel : Word
  evdrop : Word
  mcklog : Word
  corsel : Word
  pkgid : Word
  swbase : Word
  swlen : Word
  rotbase : Word
  hdm : Word
  fwver : Word
  rtdrop : Word
  deriving DecidableEq, Repr

/-- A request that waits at a queue (R335): who issues it, and whether it pops. -/
structure Waiter where
  core : Nat
  slot : Nat
  pc : Word
  pop : Bool
  deriving DecidableEq, Repr

/-- A base-die queue (R334, R335): its words, head first, each with its poison mark; `owed` holds the words of the
device's own pushes that wait for room. -/
structure Queue where
  base : Word
  lsz : Nat
  all : Bool
  valid : Bool
  owner : Nat
  head : Nat
  tail : Nat
  words : List (Word × Bool)
  waiters : List Waiter
  owed : List Word
  deriving DecidableEq, Repr

/-- How an asynchronous result is computed from the bytes read (R88, R219, R222, R224). -/
inductive PKind where
  | load | acquire | readOnly
  deriving DecidableEq, Repr

/-- How far an asynchronous result has come: its translation is still to be walked, its value is
still to be read at home, or it is ready to be delivered (the values of rd and rd + 1, and whether
they carry poison). -/
inductive PPhase where
  | walk
  | home (pa : Nat) (mtype : Nat) (lcls : Nat)
  | ready (lo hi : Word) (poison : Bool)
  deriving DecidableEq, Repr

/-- An asynchronous result in flight (R88, R218), with the policy word that its access names (R59). -/
structure Pend where
  id : Nat
  tid : Nat
  rd : Nat
  pair : Bool
  kind : PKind
  va : Word
  size : Nat
  signed : Bool
  pc : Word
  sc : Bool
  phase : PPhase
  policy : Option Word := none
  deriving DecidableEq, Repr

/-- The operations of R255. -/
inductive AOp where
  | add | and | or | xor | min | max | minu | maxu | swap | fadd
  deriving DecidableEq, Repr

/-- The update that a RED makes at home (R256): its operation, the element's bits and its operand. -/
structure Red where
  op : AOp
  bits : Nat
  arg : Nat
  deriving DecidableEq, Repr

/-- A store that its checks have passed and that is not yet performed at home (R218, R232), or a RED (R256),
which computes its bytes there. The stores of
one instruction's lanes share one id and stand in lane order; `core` issued it, `fw` says that it did at firmware level
(R418), `cls` is the eviction class of the access (R59). -/
structure PStore where
  id : Nat
  tid : Nat
  core : Nat
  pa : Nat
  va : Word
  space : Nat
  data : List Byte
  poison : List Bool
  lcls : Nat
  mtype : Nat
  race : Bool
  rel : Bool
  sc : Bool
  red : Option Red
  fw : Bool := false
  cls : EClass := .normal
  deriving DecidableEq, Repr

/-- The stamps of a line at its home (R241, R243). -/
structure Stamp where
  wts : Nat
  rts : Nat
  deriving DecidableEq, Repr

/-- States of a directory entry (R248). -/
inductive DState where
  | none | shared | exclusive | modified | owned | priv
  deriving DecidableEq, Repr

/-- A directory entry (R248 to R251): holders (agent and, for P, byte mask; the owner first),
whether home has dropped it, the ticks of its latest ownership moves, the agent that last owned the
line, the bytes of agents' copies that an uncorrectable error struck (R421), and the eviction classes that are not normal
(R59). -/
structure Dir where
  st : DState
  holders : List (Nat × BitVec 128)
  dropped : Bool
  moves : List Nat
  owner : Option Nat
  bad : List (Nat × Nat) := []
  cls : List (Nat × EClass) := []
  deriving DecidableEq, Repr

/-- Shadow state of a watched sector (R237); `tick` is the whole tick, whose low 20 bits a record shows, so that an
entry grows old (R238). -/
structure Shadow where
  tid : Nat
  core : Nat
  rel : Nat
  tick : Nat
  atomic : Bool
  deriving DecidableEq, Repr

/-- States of a job as TCST reports them (R284). -/
inductive JState where
  | queued | running | done | failed
  deriving DecidableEq, Repr

/-- A stream card taken apart (R279). -/
structure SCard where
  kslot : Nat
  cipher : Nat
  comp : Nat
  mfmt : Nat
  sfmt : Nat
  port : Nat
  ns : Nat
  lba : Nat
  clen : Nat
  nblk : Nat
  buf : Word
  blen : Nat
  nonce : Nat
  deriving DecidableEq, Repr

/-- What a job does (R263): a copy-engine card, a handle fill (with bolt, handle and buffer), a
storage read, write or deallocation, or a flush. -/
inductive JKind where
  | copy (c : Card)
  | fill (c : Card) (bolt handle buf : Nat)
  | sread (c : SCard)
  | swrite (c : SCard)
  | sdealloc (c : SCard)
  | flush
  deriving DecidableEq, Repr

/-- Bytes that a job has yet to write from an address of a space (R265), each with its poison mark. -/
structure Chunk where
  space : Nat
  addr : Nat
  bytes : List Byte
  poison : List Bool
  deriving DecidableEq, Repr

/-- A job that an engine has accepted, in order of acceptance by `num` (R263, R264, R284). `bolt` is the bolt
that it belongs to, `spBolts` the bolts that its scratchpad addresses name by fold selector, `bidx` its bolt's index in its spawn
(R349). `reads` and `writes` are its declared footprint: (space code; space number for virtual and allotment
for scratchpad regions; first byte; length). `out` holds what it has yet to write, `wstamp` the greatest
write stamp it took, `drive` what the drive reported: success, block size, and the blocks read or written. `early` holds
chunks of its source that it has read before the others (R277): space, address and marked bytes; `told` says that a
TWAIT.a has counted its failure (R285), `begun` counts the bytes that a read has written to its buffer before its chain's
end (R280), `doomed` that its storage port's link went down under it (R420). -/
structure Job where
  handle : Nat
  num : Nat
  kind : JKind
  tid : Nat
  pid : Nat
  level : Level
  bolt : Option Nat
  spBolts : List (Option Nat)
  spawn : Nat
  bidx : Nat
  state : JState
  err : Nat
  fpage : Nat
  reads : List (Nat × Nat × Nat × Nat)
  writes : List (Nat × Nat × Nat × Nat)
  stmp : Bool
  stampVa : Word
  stampPa : Nat
  seq : Word
  out : List Chunk
  wstamp : Nat
  drive : Option (Bool × Nat × List Byte)
  early : List (Nat × Nat × List (Byte × Bool)) := []
  begun : Nat := 0
  told : Bool := false
  doomed : Bool := false
  deriving DecidableEq, Repr

/-- A lane's job that waits for room in its engine (R263). -/
structure Submission where
  engine : Nat
  job : Job
  deriving DecidableEq, Repr

/-- A spawn descriptor, taken apart (R342, R343). -/
structure Desc where
  pclass : Nat
  prio : Nat
  trace : Bool
  nstage : Nat
  nflock : Nat
  t : Nat
  fm1 : Nat
  entry : Word
  args : List Word
  blocks : Nat
  nslice : Nat
  spbytes : Nat
  done : Word
  seq : Word
  tarea : Word
  ebolt : Nat
  tlen : Nat
  chans : List (Nat × Nat)
  deriving DecidableEq, Repr

/-- A spawn in progress: the flocks not yet ended in the present run, and its completion word. -/
structure Spawn where
  id : Nat
  pid : Nat
  level : Level
  desc : Desc
  order : Nat
  seq : Word
  boltsLeft : Nat
  started : List Nat
  running : Bool
  broke : Bool
  vf : Nat
  deriving DecidableEq, Repr

/-- A flock in the waiting set (R336): `bolts` names the saved bolts of an evicted flock. -/
structure WaitFlock where
  spawn : Nat
  fcoord : Nat
  prio : Nat
  order : Nat
  since : Nat
  bolts : List Nat
  deriving DecidableEq, Repr

/-- The spawn unit (R336, R345): `onMirror` says that the unit on L-die 1 has taken over, `aged` is
the flock that has waited out R336's limit. -/
structure SpawnUnit where
  nextId : Nat
  nextOrder : Nat
  nextBolt : Nat
  spawns : Tab Spawn
  waiting : List WaitFlock
  aged : Option (Nat × Nat)
  onMirror : Bool
  deriving DecidableEq, Repr

/-- A traced region of a space (R348). -/
structure TRegion where
  num : Nat
  base : Nat
  len : Nat
  tlog : Nat
  deriving DecidableEq, Repr

/-- A trace (R349 to R353), `shut` once it is closed: the captured regions with their bitmap offsets, and the
respawn in progress: its selection, its round, and each selected bolt's earlier write tiles (those listed, or with
`true` all but those listed). -/
structure Trace where
  spawn : Nat
  pid : Nat
  level : Level
  tarea : Word
  nbolt : Nat
  ebolt : Nat
  regions : List (TRegion × Nat)
  busy : Bool
  broken : Bool
  shut : Bool
  unsettled : Bool
  round : Nat
  nrerun : Nat
  sel : List Nat
  old : Tab (Bool × List Nat)
  deriving DecidableEq, Repr

/-- A participant of a network barrier (R328): a bolt or a thread, and the core it registered at. -/
structure NPart where
  isBolt : Bool
  key : Nat
  core : Nat
  arrived : Bool
  deriving DecidableEq, Repr

/-- A network barrier in use (R328). -/
structure NBar where
  owner : Nat
  total : Nat
  reg : Nat
  gone : Nat
  gen : Nat
  parts : List NPart
  deriving DecidableEq, Repr

/-- A router's counts for one barrier (R330): for each port, mark and rep; arrivals since the last
forward. -/
structure Router where
  ports : Tab (Nat × Nat)
  since : Nat
  deriving DecidableEq, Repr

/-- What a packet on the barrier tree says (R330): arrivals, a release, a registration or departure, and the
departure of a participant whose arrival has been counted. -/
inductive NKind where
  | arrive (k : Nat)
  | release
  | mark (up : Bool)
  | leave
  deriving DecidableEq, Repr

/-- A packet on the barrier tree (R329, R330): at `die`, from port `port`. -/
structure NPkt where
  die : Nat
  nbid : Nat
  port : Nat
  kind : NKind
  deriving DecidableEq, Repr

/-- A request for an ownership transfer (R215, R253): `toHost` is its direction, `late` says that the
host has let its time pass. -/
structure Xfer where
  region : Nat
  toHost : Bool
  since : Nat
  late : Bool
  host : Option (Nat × Bool × List Byte)
  deriving DecidableEq, Repr

/-- A temperature sensor (R373, R375): raw sixteenths of a degree, and when it last changed. -/
structure Sensor where
  raw : Int
  suspect : Bool
  since : Nat
  atSince : Int × Int
  deriving DecidableEq, Repr

/-- The trips of a column or L-die (R374): the level that its readings gave, and since when the reading has stayed 3 degrees
below trips 1 and 2. -/
structure Trip where
  level : Nat
  low1 : Option Nat
  low2 : Option Nat
  deriving DecidableEq, Repr

/-- A flit that a Lingoton port has sent and that is not acknowledged (R414, R415), with the package it is for. -/
structure LFlit where
  seq : Nat
  dest : Nat
  vc : Nat
  kind : Nat
  credit : Nat
  payload : List Byte
  deriving DecidableEq, Repr

/-- A Lingoton port (R415): the seq it expects, the resends of one seq that failed so far, whether it is up, a NAK it
has returned; the seq of its next flit, its unacknowledged flits, and those that wait for the window. -/
structure LPort where
  expect : Nat
  resends : Nat
  resendSeq : Nat
  up : Bool
  nak : Option Nat
  next : Nat := 0
  unacked : List LFlit := []
  waiting : List LFlit := []
  deriving DecidableEq, Repr

/-- The links, the host side and the mailbox (R413 to R420, R423 to R426): the ports that reach each package where firmware
has set routes, the 64 KiB mailbox BAR, writes of pin that wait for a transfer to end, and the firmware image of the boot drive
where the package has read one. -/
structure Outside where
  ucie : Tab Nat
  linkDown : Bool
  ports : Tab LPort
  routes : Tab (List Nat) := []
  storageDown : List Nat
  mailbox : Memory
  pins : Tab Bool := []
  image : Option Config.FwImage := none
  deriving DecidableEq, Repr

/-- Who issues (R153, R155): a latency core, or a weft slot at its issue address. -/
inductive Issuer where
  | none
  | latency (core : Nat)
  | weft (core slot : Nat) (pc : Word)
  deriving DecidableEq, Repr

/-- What the last issue did, for the issue rule (R26): blocked, took a backward branch, was REJOIN or YLD,
waited for the array's queue (R153, R296);
the words its lanes reached in scratchpads (lane, target core, word indexes), for R184; and the ranges they stored
there (bolt, offset, size), for R190. The model's own field. -/
structure Note where
  blocked : Bool
  back : Bool
  yld : Bool
  rejoin : Bool
  unit : Bool
  words : List (Nat × Nat × List Nat)
  stored : List (Nat × Nat × Nat)
  deriving DecidableEq, Repr

/-- What moves next (log entries 1, 6, 11 and 14): an issue of a latency core, a slice cycle of a
slice of a weft core, a step of the device, the passing of ticks or of a core's cluster cycles, the scheduler's choice of a
thread, an uncorrectable error, the loss of a copy or of an arming, what fails or is fused off for good, what firmware does
outside its instructions (routes, the mailbox, the minimum version, steps 4 and 5 of R423), and what other packages send
(R329, R415). -/
inductive Turn where
  | issueL (core : Nat)
  | slice (core k : Nat)
  | event (i : Instr)
  | ticks (n : Nat)
  | cycles (core n : Nat)
  | dispatch (core tid : Nat)
  | poisonMem (pa : Nat)
  | poisonSpad (bolt word : Nat)
  | poisonVault (word : Nat)
  | poisonReg (tid n : Nat)
  | poisonQueue (q i : Nat)
  | accError (bolt elem : Nat)
  | dropL1 (core line : Nat)
  | holdCode (core pa : Nat)
  | readChunk (handle i : Nat)
  | writeChunk (handle i k : Nat)
  | dropShadow (sector : Nat)
  | loseMonitor (tid : Nat)
  | loseStore (tid : Nat)
  | poisonCopy (agent pa : Nat)
  | poisonL1 (core pa : Nat)
  | retireBlocks (core n : Nat)
  | setRoute (pkg : Nat) (ports : List Nat)
  | sendFlit (port dest vc kind credit : Nat) (payload : List Byte)
  | mailboxWrite (off : Nat) (bs : List Byte)
  | raiseVersion (v : Nat)
  | bringUp (entry : Word)
  | streamOutput (handle n : Nat)
  | netRelease (nbid : Nat)
  | netRemote (nbid pkg owner total : Nat) (kind : NKind)
  deriving DecidableEq, Repr

/-- The package. `mcks` and `raceLogged` count the entries of the two log rings (R239, R422). `interval` is the
interval of R363 in progress, `boosted` the contexts that hold boosted clusters in it, `intervalPids` those whose
passes have occupied an array in it (R371). `code` holds for each core the bytes of instruction memory that it has kept,
by 2-byte unit, and may still execute (R55). -/
structure State where
  gtick : Nat
  mem : Memory
  memPoison : List Nat
  vmem : Memory
  vPoison : List Nat
  threads : Tab Thread
  lcores : Tab LCore
  wcores : Tab WCore
  bolts : Tab Bolt
  contexts : Tab Ctx
  fw : FwRegs
  queues : Tab Queue
  pend : List Pend
  stores : List PStore
  stamps : Tab Stamp
  dirs : Tab Dir
  dtlb : Tab (List Tlb)
  code : Tab (Tab (List Byte))
  shadow : Tab Shadow
  jobs : List Job
  serials : Tab Nat
  subq : List Submission
  spawnU : SpawnUnit
  traces : List Trace
  regions : Tab (List TRegion)
  nbars : Tab NBar
  routers : Tab Router
  pkts : List NPkt
  xfers : List Xfer
  dwell : Tab Nat
  sensors : Tab Sensor
  sensorLog : List Nat
  trips : Tab Trip
  grants : Tab Nat
  intervalPids : List Nat
  boosted : List Nat
  interval : Nat
  outside : Outside
  off : Bool
  mcks : Nat
  raceLogged : Nat
  agenda : List Turn
  cur : Issuer
  note : Note
  phase : Nat
  seq : Nat
  fresh : Nat
  deriving DecidableEq, Repr

/-- Why the machine stops. -/
inductive Fault where
  /-- Raised by the step when trip 4 has removed power from the package (R374): nothing runs until a
  power cycle. Safe. -/
  | poweredOff
  deriving DecidableEq, Repr

/-- Why the model gives no next state. -/
inductive Refusal where
  /-- Raised by an arm of the dispatch that has no meaning yet. Safe. -/
  | notModelled (mnemonic : String)
  /-- Raised by an access, at firmware level, to a device register of the window of R199 other than
  the queue registers of R334: the spec does not say what stands there. Safe. -/
  | deviceRegister (pa : Nat)
  deriving DecidableEq, Repr

/-- A register that reads 0, full and without poison. -/
def Reg.zero : Reg := ⟨0, true, false⟩

/-- A monitor that was never armed. -/
def Monitor.idle : Monitor := ⟨0, false, false, false⟩

/-- A thread as it is created (R17, R96, R345): registers 0 and full, ports unbound, every system
register at its reset value. -/
def Thread.fresh (tid pid : Nat) (entry : Word) (lvl : Level) : Thread :=
  { tid, pid, tblk := 0, pc := entry, rgn := entry, regs := Vector.replicate 56 Reg.zero,
    ports := Vector.replicate 8 .unbound, fmode := 0, plvl := lvl, pkey := 0, pwait := 2048, yage := 256,
    sigmask := 0, trapcause := 0, trapval := 0, trappc := 0, spawn := 0, fcoord := 0, bcoord := 0,
    tcoord := 0, weft := 0, lane := 0, stage := 0, nstage := 1, blocks := 7, nw := false, home := 255,
    bolt := none, loc := .saved, sub := .active, age := 0, wait := .none, monitor := Monitor.idle,
    inbox := [], carry := 0, nextBlocks := 0, clock := 16, xr := false, retPoint := 0, bwait := none,
    vstamp := 0, failed := 0, nbReg := [], nbArr := [],
    entry := none, lost := none, leave := none, asSub := .active }

/-- A halted latency core (R423). -/
def LCore.halted0 : LCore :=
  { cur := none, run := [], halted := true, sscr := 0, busy := false, tlb := [], rel := 0, trip3At := none,
    seen := 0, gset := 1 }

/-- A free crook (R301). -/
def Crook.free : Crook := ⟨none, [], false, 0, none, []⟩

/-- A cluster at nominal clock with no activity (R363 to R371). -/
def Cluster.idle : Cluster :=
  { b := 0, grace := false, throttle := none, wstart := 0, dsum := 0, dlast := 0, act := 0, ctxAct := [],
    ctxD := [], lastEnd := 0, burstOk := false, nextPass := 0 }

/-- A weft core after reset: halted until firmware starts it (R423), with every register block in
service and open to placement (log entry 3), and every slice at ratio 16 (R380). A slice none of whose slots has issued
counts its first slot as the latest issuer, so that it looks first at the second (log entry 92). -/
def WCore.halted0 : WCore :=
  { halted := true, closed := false, rfblk := 336, slots := [], epochs := [], last := Vector.replicate 6 0,
    pool := [], vfloor := 0, l1 := [], ro := [], tlb := [], rel := 0, seen := 0, reports := [],
    aq := [], pass := none, cyc := 0, crook := Crook.free, waves := [], cluster := Cluster.idle,
    ratios := Vector.replicate 6 16, gset := 1, sscr := 0, vcache := [] }

/-- A context that has not run: the default grant of R370 and the reset slope of R96. -/
def Ctx.fresh : Ctx := ⟨64, 64, 0x1008, 0⟩

/-- The package registers at reset (R386, R422; log entry 3 for fvec and fwver). -/
def FwRegs.reset : FwRegs :=
  { svec := 0, fvec := Config.bootEntry, evtid := 0, svcq := 0, pools := 0, spcbase := 0, rdctl := 0,
    rdovf := 0, plceil := 1472, hdroom := 144, slfloor := 0, tlim := 0x766E675F, snsel := 0, evdrop := 0,
    mcklog := 0, corsel := 0, pkgid := 0, swbase := 0, swlen := 0, rotbase := 0, hdm := 0, fwver := 0,
    rtdrop := 0 }

/-- A Lingoton port after reset (R415). -/
def LPort.reset : LPort := { expect := 0, resends := 0, resendSeq := 0, up := true, nak := none }

/-- The outside as the package finds it after reset. -/
def Outside.reset : Outside :=
  { ucie := [], linkDown := false, ports := [], storageDown := [], mailbox := [] }

/-- The spawn unit with nothing admitted; ids run from 1 (R345). -/
def SpawnUnit.reset : SpawnUnit := ⟨1, 0, 1, [], [], none, false⟩

/-- An issue that did nothing to note. -/
def Note.clear : Note := ⟨false, false, false, false, false, [], []⟩

/-- The boot thread on latency core 256 (R423): firmware level and the values of log entry 3. -/
def Thread.boot : Thread :=
  { Thread.fresh Config.bootTid 0 Config.bootEntry .firmware with loc := .latency 256 }

/-- The machine right after package reset (R423, step 1): every SRAM zero, gtick 0, the boot ROM about
to run on latency core 256, every other core halted. -/
def State.reset : State :=
  { gtick := 0, mem := [], memPoison := [], vmem := [], vPoison := [],
    threads := [(Config.bootTid, Thread.boot)],
    lcores := [(256, { LCore.halted0 with cur := some Config.bootTid, halted := false })],
    wcores := [], bolts := [], contexts := [], fw := FwRegs.reset, queues := [], pend := [], stores := [],
    stamps := [], dirs := [], dtlb := [], code := [], shadow := [], jobs := [], serials := [], subq := [], spawnU := SpawnUnit.reset,
    traces := [], regions := [], nbars := [], routers := [], pkts := [], xfers := [], dwell := [],
    sensors := [], sensorLog := [], trips := [], grants := [], intervalPids := [], boosted := [], interval := 0, outside := Outside.reset, off := false, mcks := 0, raceLogged := 0,
    agenda := [], cur := .none, note := Note.clear, phase := 0, seq := 0, fresh := 0 }

end Sys2Proof.Machine
end

