-- ==== Sys2Proof/Machine/Tab.lean ====
section
/-! DEFINITION. Tables by number and sparse contents by address, each in one canonical form: keys
rising, and in sparse contents no entry equal to what an unlisted address reads as. -/

namespace Sys2Proof.Machine

variable {α : Type}

/-- The entry of a key. -/
def tabGet : Tab α → Nat → Option α
  | [], _ => none
  | (j, a) :: t, k => if j = k then some a else tabGet t k

/-- The table with the entry of a key set. -/
def tabPut : Tab α → Nat → α → Tab α
  | [], k, v => [(k, v)]
  | (j, a) :: t, k, v =>
    if k < j then (k, v) :: (j, a) :: t
    else if j = k then (k, v) :: t
    else (j, a) :: tabPut t k v

/-- The table without the entry of a key. -/
def tabDel : Tab α → Nat → Tab α
  | [], _ => []
  | (j, a) :: t, k => if j = k then t else (j, a) :: tabDel t k

/-- Whether the keys rise from lo. -/
def tabWfFrom : Nat → Tab α → Bool
  | _, [] => true
  | lo, (k, _) :: t => lo ≤ k && tabWfFrom (k + 1) t

/-- Whether the keys of a table rise. -/
def tabWf (t : Tab α) : Bool := tabWfFrom 0 t

/-- The contents of an address; d where it is not listed. -/
def spGet (d : α) (m : List (Nat × α)) (k : Nat) : α := (tabGet m k).getD d

/-- The contents with one address set; writing d removes the entry. -/
def spPut [DecidableEq α] (d : α) (m : List (Nat × α)) (k : Nat) (v : α) : List (Nat × α) :=
  if v = d then tabDel m k else tabPut m k v

/-- Whether no entry equals d. -/
def spClean [DecidableEq α] (d : α) (m : List (Nat × α)) : Bool := m.all fun p => p.2 ≠ d

/-- The canonical form of a memory (log entry 2): addresses rising, no listed zero. -/
def Memory.wf (m : Memory) : Bool := tabWf m && spClean 0 m

/-- The byte at an address; an unlisted address reads 0 (log entry 2). -/
def memByte (m : Memory) (a : Nat) : Byte := spGet 0 m a

/-- n bytes from an address up. -/
def memBytes (m : Memory) (a : Nat) : Nat → List Byte
  | 0 => []
  | n + 1 => memByte m a :: memBytes m (a + 1) n

/-- The memory with bytes stored from an address up. -/
def memStore (m : Memory) (a : Nat) : List Byte → Memory
  | [] => m
  | b :: bs => memStore (spPut 0 m a b) (a + 1) bs

/-- A sorted list of addresses with one added. -/
def addrAdd : List Nat → Nat → List Nat
  | [], a => [a]
  | b :: l, a => if a < b then a :: b :: l else if a = b then b :: l else b :: addrAdd l a

/-- n addresses from a added to or removed from a list of marked addresses. -/
def addrMark (l : List Nat) (a n : Nat) (on : Bool) : List Nat :=
  if on then (List.range n).foldl (fun l i => addrAdd l (a + i)) l
  else l.filter fun x => !(a ≤ x && x < a + n)

/-- Whether any of n addresses from a is marked. -/
def addrAny (l : List Nat) (a n : Nat) : Bool := l.any fun x => a ≤ x && x < a + n

end Sys2Proof.Machine
end

