-- ==== Sys2Proof/Machine/Cores.lean ====
section
/-! DEFINITION. Where things stand: core and die numbers (R11, R12), threads, wefts, bolts, and the
lanes that issue together (R7, R26). -/

namespace Sys2Proof.Machine

/-- Whether a number names a weft core (R12). -/
def isWeft (c : Nat) : Bool := c < 144

/-- Whether a number names a latency core (R12). -/
def isLat (c : Nat) : Bool := 256 ≤ c && c < 304

/-- The die of a core (R11, R12). -/
def dieOf (core : Nat) : Nat := if isWeft core then core / 36 + 2 else (core - 256) / 24

/-- The row and column of a weft core on its die (R12). -/
def rowOf (core : Nat) : Nat := core % 36 / 6
def colOf (core : Nat) : Nat := core % 6

/-- The quad of a weft core, 0 to 35 (R12). -/
def quadOf (core : Nat) : Nat := 9 * (core / 36) + 3 * (rowOf core / 2) + colOf core / 2

/-- The quadrant of a weft core: four on each W-die (R12). -/
def quadrantOf (core : Nat) : Nat :=
  4 * (core / 36) + (if 3 ≤ rowOf core then 2 else 0) + (if 3 ≤ colOf core then 1 else 0)

/-- A privilege level as plvl reads it (R96). -/
def Level.code : Level → Nat
  | .user => 0
  | .supervisor => 1
  | .firmware => 2

/-- A thread by its tid. -/
def State.thread? (s : State) (tid : Nat) : Option Thread := tabGet s.threads tid

/-- The state with a thread's record. -/
def State.putThread (s : State) (t : Thread) : State := { s with threads := tabPut s.threads t.tid t }

/-- The state with a thread changed. -/
def State.modThread (s : State) (tid : Nat) (f : Thread → Thread) : State :=
  match s.thread? tid with
  | some t => s.putThread (f t)
  | none => s

/-- A latency core. -/
def State.lcore (s : State) (c : Nat) : LCore := (tabGet s.lcores c).getD LCore.halted0

/-- The state with a latency core's record. -/
def State.putL (s : State) (c : Nat) (l : LCore) : State := { s with lcores := tabPut s.lcores c l }

/-- A weft core. -/
def State.wcore (s : State) (c : Nat) : WCore := (tabGet s.wcores c).getD WCore.halted0

/-- The state with a weft core's record. -/
def State.putW (s : State) (c : Nat) (w : WCore) : State := { s with wcores := tabPut s.wcores c w }

/-- The weft in a slot. -/
def State.weft? (s : State) (core slot : Nat) : Option Weft := tabGet (s.wcore core).slots slot

/-- The state with a weft's record. -/
def State.putWeft (s : State) (core slot : Nat) (w : Weft) : State :=
  s.putW core { s.wcore core with slots := tabPut (s.wcore core).slots slot w }

/-- The state with a weft changed. -/
def State.modWeft (s : State) (core slot : Nat) (f : Weft → Weft) : State :=
  match s.weft? core slot with
  | some w => s.putWeft core slot (f w)
  | none => s

/-- A bolt by the id the model gives it. -/
def State.bolt? (s : State) (id : Nat) : Option Bolt := tabGet s.bolts id

/-- The state with a bolt's record. -/
def State.putBolt (s : State) (b : Bolt) : State := { s with bolts := tabPut s.bolts b.id b }

/-- The state with a bolt changed. -/
def State.modBolt (s : State) (id : Nat) (f : Bolt → Bolt) : State :=
  match s.bolt? id with
  | some b => s.putBolt (f b)
  | none => s

/-- The context of a pid (R96). -/
def State.ctx (s : State) (pid : Nat) : Ctx := (tabGet s.contexts pid).getD Ctx.fresh

/-- The state with a context's record. -/
def State.putCtx (s : State) (pid : Nat) (c : Ctx) : State := { s with contexts := tabPut s.contexts pid c }

/-- The space number of a process (R201). -/
def spaceOf (pid : Nat) : Nat := pid % 65536

/-- The numbered occupied positions of a weft, from position i. -/
def lanesFrom (i : Nat) : List (Option Nat) → List (Nat × Nat)
  | [] => []
  | some t :: l => (i, t) :: lanesFrom (i + 1) l
  | none :: l => lanesFrom (i + 1) l

/-- The member lanes of a weft in increasing position, each with its thread (R25). -/
def Weft.members (w : Weft) : List (Nat × Nat) := lanesFrom 0 w.lanes.toList

/-- The weft with a lane position set. -/
def Weft.setLane (w : Weft) (i : Nat) (t : Option Nat) : Weft :=
  if h : i < 32 then { w with lanes := w.lanes.set i t } else w

/-- Whether a thread is an active lane: neither parked nor waiting (R25, R40). -/
def Thread.active (t : Thread) : Bool := t.sub == .active

/-- Whether a thread is parked (R29). -/
def Thread.parked (t : Thread) : Bool := t.sub == .faultParked || t.sub == .extractParked

/-- The core a thread stands on (R39): a pooled thread's pool. -/
def Thread.core? (t : Thread) : Option Nat :=
  match t.loc with
  | .latency c => some c
  | .pooled c => some c
  | .member c _ _ => some c
  | _ => none

/-- Whether a thread stands on a latency core. -/
def Thread.onLatency (t : Thread) : Bool :=
  match t.loc with
  | .latency _ => true
  | _ => false

/-- Whether SPWN created the thread (R18). -/
def Thread.spawned (t : Thread) : Bool := t.spawn != 0

/-- The core that issues. -/
def Issuer.core : Issuer → Nat
  | .latency c => c
  | .weft c _ _ => c
  | .none => 0

/-- Whether a latency core issues. -/
def Issuer.isLatency : Issuer → Bool
  | .latency _ => true
  | _ => false

/-- The lanes that issue together (R7, R26, R155): position and tid, in increasing position. On a
latency core its one thread; in a weft the active lanes at the issue address. -/
def State.runLanes (s : State) : List (Nat × Nat) :=
  match s.cur with
  | .none => []
  | .latency c => match (s.lcore c).cur with
    | some t => [(0, t)]
    | none => []
  | .weft c slot pc => match s.weft? c slot with
    | some w => w.members.filter fun p => match s.thread? p.2 with
      | some t => t.active && t.pc == pc
      | none => false
    | none => []

/-- The block count that bounds the registers a thread can name (R31, R87): its weft's, while it is a
member of one. -/
def State.blockCount (s : State) (t : Thread) : Nat :=
  match t.loc with
  | .member c slot _ => match s.weft? c slot with
    | some w => w.blocks
    | none => t.blocks
  | _ => t.blocks

/-- A general register; g0 reads zero and is full (R56). -/
def Thread.reg (t : Thread) (n : Nat) : Reg :=
  if n = 0 then Reg.zero else if h : n < 56 then t.regs[n] else Reg.zero

/-- The thread with a general register set; g0 never changes (R56). -/
def Thread.setReg (t : Thread) (n : Nat) (r : Reg) : Thread :=
  if h : 0 < n ∧ n < 56 then { t with regs := t.regs.set n r h.2 } else t

/-- The binding of port k (R91). -/
def Thread.port (t : Thread) (k : Nat) : Port := if h : k < 8 then t.ports[k] else .unbound

/-- The thread with port k bound. -/
def Thread.setPort (t : Thread) (k : Nat) (p : Port) : Thread :=
  if h : k < 8 then { t with ports := t.ports.set k p } else t

/-- The state with a general register of a thread set. -/
def State.setReg (s : State) (tid n : Nat) (r : Reg) : State := s.modThread tid fun t => t.setReg n r

/-- The home field of a thread: its bolt's core, or 0xFF (R176). -/
def Thread.boltCore (t : Thread) : Option Nat := if t.home = 255 then none else some t.home

/-- The stamp clock: bits [19:0] of gtick (R96, R240). -/
def State.now (s : State) : Nat := s.gtick % 2 ^ 20

/-- The state with the next access number taken. -/
def State.bump (s : State) : State := { s with seq := s.seq + 1 }

/-- The state with the next free value taken (log entry 5). -/
def State.bumpFresh (s : State) : State := { s with fresh := s.fresh + 1 }

end Sys2Proof.Machine
end

