-- ==== Sys2Proof/Machine/Space.lean ====
section
/-! DEFINITION. Physical memory and its home: the address map (R199, R416), owner states (R215, R418),
stamps and leases (R240 to R247), the directory (R248 to R251), monitors (R260) and the shadow state of
the race detector (R237). Every byte's current value stands in State.mem; the directory says who holds
copies of it. -/

namespace Sys2Proof.Machine

/-- What stands at a physical address (R199, R416): memory of this package (at the local address
given), device registers, memory of another package, or a hole. -/
inductive Place where
  | ram (pa : Nat)
  | device (pa : Nat)
  | remote (pa : Nat)
  | hole
  deriving DecidableEq, Repr

/-- The local part of the map (R199). -/
def localPlace (pa : Nat) : Place :=
  if pa < 0x8000000000 then
    if pa % 0x1000000000 ≤ 0xEE6B27FFF then .ram pa else .hole
  else if pa < 0xF000000000 then .hole
  else if pa < 0x10000000000 then .device pa
  else if pa < 0x20000000000 then
    if (pa - 0x10000000000) % 0x8000000000 ≤ 0x773593FFFF then .ram pa else .hole
  else .hole

/-- A Lingoton port (R415). -/
def State.lport (s : State) (p : Nat) : LPort := (tabGet s.outside.ports p).getD LPort.reset

/-- The state with a port's record. -/
def State.putPort (s : State) (p : Nat) (x : LPort) : State :=
  { s with outside := { s.outside with ports := tabPut s.outside.ports p x } }

/-- The ports that reach a package: those of its route, every port where firmware has set none (R414; log entry 87). -/
def State.routeTo (s : State) (pkg : Nat) : List Nat := (tabGet s.outside.routes pkg).getD (List.range 24)

/-- Whether a Lingoton port that is up reaches a package (R415). -/
def State.linked (s : State) (pkg : Nat) : Bool := (s.routeTo pkg).any fun p => (s.lport p).up

/-- The package that a domain address names (R416). -/
def pkgOf (pa : Nat) : Nat := bitsAt pa 46 6

/-- The packages of the coherent domain (R414, R422): numbers 0 to the domain size less 1. -/
def State.domain (s : State) : List Nat := List.range (bitsAt s.fw.pkgid.toNat 8 6 + 1)

/-- Whether every other package of the domain can be reached, as a network barrier that spans it needs (R328, R415). -/
def State.domainLinked (s : State) : Bool :=
  s.domain.all fun p => p == bitsAt s.fw.pkgid.toNat 0 6 || s.linked p

/-- What stands at byte o of another package's shared window, whose map is that of R199 (R416): its device registers are
reached as this package's are. -/
def remotePlace (pa o : Nat) : Place :=
  match localPlace o with
  | .ram _ => .remote pa
  | .device _ => .device pa
  | _ => .hole

/-- What stands at a physical address (R199, R416). -/
def State.place (s : State) (pa : Nat) : Place :=
  if pa < 0x20000000000 then localPlace pa
  else
    let o := bitsAt pa 0 41
    let p := pkgOf pa
    let base := s.fw.swbase.toNat
    if bitsAt pa 41 5 = 1 ∧ p ≤ bitsAt s.fw.pkgid.toNat 8 6 ∧ base ≤ o ∧
        o < base + s.fw.swlen.toNat * 2 ^ 30 then
      if p = bitsAt s.fw.pkgid.toNat 0 6 then localPlace o else remotePlace pa o
    else .hole

/-- The home die of a local physical address (R199). -/
def homeDie (pa : Nat) : Nat := if pa < 0x8000000000 then pa / 0x1000000000 / 2 + 2 else (pa - 0x10000000000) / 0x8000000000

/-- The region of the HDM range that holds a physical address (R418). -/
def State.region? (s : State) (pa : Nat) : Option Nat :=
  let base := bitsAt s.fw.hdm.toNat 21 31
  let r := pa / 2 ^ 21
  if base ≤ r ∧ r < base + bitsAt s.fw.hdm.toNat 0 21 then some (r - base) else none

/-- The owner table's byte of a region (R418). -/
def State.ownerByte (s : State) (region : Nat) : Nat := (memByte s.mem (s.fw.rotbase.toNat + region)).toNat

/-- Whether the host owns the region of an address (R215). -/
def State.hostOwns (s : State) (pa : Nat) : Bool :=
  match s.region? pa with
  | some r => bitAt (s.ownerByte r) 0
  | none => false

/-- Whether the region of an address is pinned to the host (R215). -/
def State.pinned (s : State) (pa : Nat) : Bool :=
  match s.region? pa with
  | some r => bitAt (s.ownerByte r) 0 && bitAt (s.ownerByte r) 1
  | none => false

/-- The state with a region's owner byte written (R418). -/
def State.setOwnerByte (s : State) (region v : Nat) : State :=
  { s with mem := spPut 0 s.mem (s.fw.rotbase.toNat + region) (BitVec.ofNat 8 v) }

/-- Whether an address lies in the ring of an enabled queue (R334). -/
def State.inRing (s : State) (pa : Nat) : Bool :=
  s.queues.any fun q => q.2.lsz != 0 && q.2.base.toNat ≤ pa && pa < q.2.base.toNat + 8 * 2 ^ q.2.lsz

/-- A byte of memory: a byte of a queue's ring is a free value (R334, log entry 5). -/
def State.byteAt (s : State) (pa : Nat) : Byte :=
  if s.inRing pa then Config.ringByte pa s.fresh else memByte s.mem pa

/-- n bytes of memory. -/
def State.bytesAt (s : State) (pa n : Nat) : List Byte := (List.range n).map fun i => s.byteAt (pa + i)

/-- The little-endian value of n bytes of memory. -/
def State.valueAt (s : State) (pa n : Nat) : Nat := leNat (s.bytesAt pa n)

/-- Whether one of n bytes carries poison (R396). -/
def State.poisonAt (s : State) (pa n : Nat) : Bool := addrAny s.memPoison pa n

/-- A queue whose ring meets n bytes at an address, with the words it holds there replaced by free values
(R334, log entry 5). -/
def Queue.scramble (q : Queue) (pa n fresh : Nat) : Queue :=
  let hit (i : Nat) : Bool :=
    let a := q.base.toNat + 8 * ((q.head + i) % 2 ^ q.lsz)
    a < pa + n && pa < a + 8
  { q with words := (List.range q.words.length).map fun i =>
      if hit i then (BitVec.ofNat 64 (leNat ((List.range 8).map fun j => Config.ringByte (8 * i + j) fresh)), false)
      else (q.words[i]?).getD (0, false) }

/-- Memory with bytes written, each with its poison mark. A write to a queue's ring stores free values
(R334). -/
def State.putBytes (s : State) (pa : Nat) (bs : List Byte) (pz : List Bool) : State :=
  let pz' := (List.range bs.length).foldl
    (fun l i => addrMark l (pa + i) 1 ((pz[i]?).getD false)) s.memPoison
  if (List.range bs.length).any fun i => s.inRing (pa + i) then
    { s with
      mem := memStore s.mem pa ((List.range bs.length).map fun i => Config.ringByte (pa + i) s.fresh)
      memPoison := pz'
      queues := s.queues.map fun q =>
        if q.2.lsz = 0 then q else (q.1, q.2.scramble pa bs.length s.fresh)
      fresh := s.fresh + 1 }
  else { s with mem := memStore s.mem pa bs, memPoison := pz' }

/-- The state after a read of bytes: a read of a queue's ring takes a free value (R334). -/
def State.afterRead (s : State) (pa n : Nat) : State :=
  if (List.range n).any fun i => s.inRing (pa + i) then { s with fresh := s.fresh + 1 } else s

/-! ### Stamps -/

/-- a ≤ b among stamps (R240). -/
def stampLe (a b : Nat) : Bool := (b + 2 ^ 20 - a % 2 ^ 20) % 2 ^ 20 < 2 ^ 19

/-- The later of two stamps (R240). -/
def stampMax (a b : Nat) : Nat := if stampLe a b then b else a

/-- The earlier of two stamps (R240). -/
def stampMin (a b : Nat) : Nat := if stampLe a b then a else b

/-- A stamp n ticks on. -/
def stampAdd (a n : Nat) : Nat := (a + n) % 2 ^ 20

/-- A stamp as the sweep leaves it: one that fell more than 2^18 ticks behind is re-based (R247). -/
def State.rebase (s : State) (a : Nat) : Nat :=
  let behind := (s.now + 2 ^ 20 - a % 2 ^ 20) % 2 ^ 20
  if 2 ^ 18 < behind ∧ behind < 2 ^ 20 - 2 ^ 18 then (s.now + 2 ^ 20 - 2 ^ 17) % 2 ^ 20 else a % 2 ^ 20

/-- The stamps of a line as the sweep leaves them (R247). -/
def State.sweep (s : State) (x : Stamp) : Stamp :=
  if s.rebase x.rts = x.rts then x else ⟨s.rebase x.rts, s.rebase x.rts⟩

/-- The stamps of a line kept close enough to the present tick for the compare of R240: the sweep's, and a write stamp
that alone fell behind is re-based too, no further than the read stamp (log entry 70). -/
def State.keepStamp (s : State) (x : Stamp) : Stamp :=
  let y := s.sweep x
  let w := s.rebase y.wts
  if w = y.wts then y else ⟨if stampLe w y.rts then w else y.rts, y.rts⟩

/-- A stamp that nothing has set since reset (R423): 0 until the sweep re-bases it (R247). -/
def State.oldStamp (s : State) : Nat := if s.gtick ≤ 2 ^ 18 then 0 else (s.now + 2 ^ 20 - 2 ^ 17) % 2 ^ 20

/-- The stamps of a line (R241). -/
def State.stampOf (s : State) (line : Nat) : Stamp := (tabGet s.stamps line).getD ⟨s.oldStamp, s.oldStamp⟩

/-- The state with a line's stamps. -/
def State.putStamp (s : State) (line : Nat) (x : Stamp) : State := { s with stamps := tabPut s.stamps line x }

/-- The least guard of a weft core (R246): 2 ticks while a slice that holds a weft runs below ratio 8. -/
def WCore.guardMin (w : WCore) : Nat :=
  if w.slots.any fun x => ((w.ratios.toList[x.1 / 8]?).getD 16) < 8 then 2 else 1

/-- The guard of a weft core (R246): what firmware has written, or the least one if that is greater. -/
def WCore.guard (w : WCore) : Nat := max w.guardMin w.gset

/-- The guard of a core (R246); a latency core's least one is 1 tick (log entry 7). -/
def State.guardOf (s : State) (core : Nat) : Nat :=
  if isWeft core then (s.wcore core).guard else max 1 (s.lcore core).gset

/-- The greatest guard of any weft core, for writes that no core of the package issues (R246). -/
def State.maxGuard (s : State) : Nat := s.wcores.foldl (fun g c => max g c.2.guard) 1

/-- What a guard adds for a line whose home lies in another package (R417). -/
def State.farGuard (s : State) (pa : Nat) : Nat :=
  match s.place pa with
  | .remote _ => 2
  | _ => 0

/-- The guard a core uses for a line: 2 ticks more where the home lies in another package (R417). -/
def State.guardFor (s : State) (core pa : Nat) : Nat := s.guardOf core + s.farGuard pa

/-- The view of a thread: its weft core's vfloor, or the stamp a latency core keeps for it (R243, R245). -/
def State.viewOf (s : State) (t : Thread) : Nat :=
  match t.loc with
  | .member c _ _ => (s.wcore c).vfloor
  | _ => t.vstamp

/-- The state with the view of a thread raised to a stamp, and with that stamp seen by its core (R243 to
R245). -/
def State.raiseView (s : State) (tid stamp : Nat) : State :=
  match s.thread? tid with
  | none => s
  | some t =>
    match t.loc with
    | .member c _ _ =>
      let w := s.wcore c
      s.putW c { w with vfloor := stampMax w.vfloor stamp, seen := stampMax w.seen stamp }
    | .latency c =>
      let l := s.lcore c
      (s.putL c { l with seen := stampMax l.seen stamp }).putThread { t with vstamp := stampMax t.vstamp stamp }
    | _ => s.putThread { t with vstamp := stampMax t.vstamp stamp }

/-- The state without the bytes of instruction memory that a core has kept (R55). -/
def State.dropCode (s : State) (core : Nat) : State := { s with code := tabDel s.code core }

/-- The state after an acquire of a thread that raises its view to a stamp (R243 to R245): its core keeps no bytes of
instruction memory (R55). -/
def State.acquireView (s : State) (tid stamp : Nat) : State :=
  let k := s.raiseView tid stamp
  match (s.thread? tid).bind Thread.core? with
  | some c => k.dropCode c
  | none => k

/-- The latest stamp that any view of the package has reached: of a weft core, or of a thread wherever it is, one that
has moved or exited since its release among them (R231). -/
def State.viewCeil (s : State) : Nat :=
  let a := s.wcores.foldl (fun m p => stampMax m p.2.vfloor) s.oldStamp
  s.threads.foldl (fun m p => stampMax m p.2.vstamp) a

/-- The state with a stamp that a value read by a thread has carried (R244). -/
def State.noteSeen (s : State) (tid stamp : Nat) : State :=
  match (s.thread? tid).bind Thread.core? with
  | none => s
  | some c =>
    if isWeft c then s.putW c { s.wcore c with seen := stampMax (s.wcore c).seen stamp }
    else s.putL c { s.lcore c with seen := stampMax (s.lcore c).seen stamp }

/-- The write stamp of a write to a line (R243). -/
def State.writeStamp (s : State) (line guard vf : Nat) : Nat :=
  stampMax (stampMax (stampAdd s.now guard) (stampAdd (s.stampOf line).rts 1)) vf

/-- The lease length of a page class of a space entry whose value is se (R201, R241). -/
def leaseLen (se cls : Nat) : Nat :=
  let l := bitsAt se (128 + 16 * (cls % 4)) 16
  if l = 0 then 64 else l

/-! ### The directory -/

/-- A line's entry (R248). -/
def State.dir (s : State) (line : Nat) : Dir := (tabGet s.dirs line).getD { st := .none, holders := [], dropped := false, moves := [], owner := none }

/-- The state with a line's entry. -/
def State.putDir (s : State) (line : Nat) (d : Dir) : State := { s with dirs := tabPut s.dirs line d }

/-- The agent numbers of the directory (R248): a latency core by its number, the L2 of die d, and the
vault cache of weft core c. -/
def agentL2 (die : Nat) : Nat := 1000 + die
def agentVault (core : Nat) : Nat := 2000 + core

/-- Whether an agent is a vault cache. -/
def isVaultAgent (a : Nat) : Bool := 2000 ≤ a && a < 2144

/-- The guard that home uses for an agent and a line (R246, R417). -/
def State.agentGuard (s : State) (a line : Nat) : Nat :=
  (if isLat a then s.guardOf a else if isVaultAgent a then (s.wcore (a - 2000)).guard else s.maxGuard)
    + s.farGuard (128 * line)

/-- The byte mask of an access within its line (R251). -/
def byteMask (pa n : Nat) : BitVec 128 := BitVec.ofNat 128 ((2 ^ n - 1) * 2 ^ (pa % 128))

/-- Whether a holder is among holders. -/
def Dir.holds (d : Dir) (a : Nat) : Bool := d.holders.any fun h => h.1 == a

/-- The entry once every holder's bytes are collected at home: no entry (R251). -/
def Dir.merged (d : Dir) : Dir := { d with st := .none, holders := [], dropped := false }

/-- The eviction class of an agent's copy (R59). -/
def Dir.classOf (d : Dir) (a : Nat) : EClass := ((d.cls.find? fun x => x.1 == a).map (·.2)).getD .normal

/-- The entry for a fill of a new copy by an agent (R59, R421): its class, and no byte struck. -/
def Dir.enter (d : Dir) (a : Nat) (c : EClass) : Dir :=
  let cls := d.cls.filter fun x => x.1 != a
  { d with bad := d.bad.filter fun x => x.1 != a, cls := if c = .normal then cls else (a, c) :: cls }

/-- Whether an agent's own copy of n bytes from an address carries an uncorrectable error (R421). -/
def State.copyBad (s : State) (a pa n : Nat) : Bool :=
  let d := s.dir (pa / 128)
  d.holds a && d.bad.any fun x => x.1 == a && pa % 128 ≤ x.2 && x.2 < pa % 128 + n

/-- The state as an agent's copy of a line becomes the only current one: bytes of it that an error struck are poisoned at
home (R396, R421). -/
def State.spillBad (s : State) (a line : Nat) : State :=
  let d := s.dir line
  if d.bad.isEmpty then s
  else
    let mine := d.bad.filter fun x => x.1 == a && d.holds a
    { s.putDir line { d with bad := d.bad.filter fun x => x.1 != a } with
      memPoison := mine.foldl (fun l x => addrAdd l (128 * line + x.2)) s.memPoison }

/-- Whether home may grant E: no weft lease on the line can still be valid (R249). -/
def State.leaseOver (s : State) (line guard : Nat) : Bool :=
  !stampLe (stampAdd s.now guard) (s.stampOf line).rts

/-- An entry that an agent comes to own, in E or M (R249): a move from the agent that owned the line last is kept among
the latest four (R251; log entry 80). -/
def State.dirMove (s : State) (d : Dir) (agent : Nat) : Dir :=
  match d.owner with
  | some o => if o = agent then d else { d with owner := some agent, moves := (s.gtick :: d.moves).take 4 }
  | none => { d with owner := some agent }

/-- GetS of an agent (R249, R250): a dropped entry is rebuilt first. -/
def State.dirGetS (s : State) (agent line : Nat) : State :=
  let d := s.dir line
  if d.holds agent ∧ d.st ≠ .priv then s
  else
    match d.st with
    | .none =>
      if !isVaultAgent agent && s.leaseOver line (s.agentGuard agent line) then
        s.putDir line { s.dirMove d agent with st := .exclusive, holders := [(agent, 0)], dropped := false }
      else s.putDir line { d with st := .shared, holders := [(agent, 0)], dropped := false }
    | .shared => s.putDir line { d with holders := d.holders ++ [(agent, 0)] }
    | .exclusive => s.putDir line { d with st := .shared, holders := d.holders ++ [(agent, 0)], dropped := false }
    | .modified => s.putDir line { d with st := .owned, holders := d.holders ++ [(agent, 0)], dropped := false }
    | .owned => s.putDir line { d with holders := d.holders ++ [(agent, 0)] }
    | .priv => s.putDir line { d with st := .shared, holders := [(agent, 0)] }

/-- Whether a line is contended (R251): its ownership moved four times within 4,096 ticks. The rule gives no end of it;
here it lapses when the oldest of the four moves is 4,096 ticks old (log entry 80). -/
def State.contended (s : State) (d : Dir) : Bool :=
  match d.moves with
  | [_, _, _, oldest] => s.gtick < oldest + 4096
  | _ => false

/-- GetM of an agent for the bytes of a mask (R249, R251). -/
def State.dirGetM (s : State) (agent line : Nat) (mask : BitVec 128) : State :=
  let d := s.dir line
  let disjoint := d.holders.all fun h => h.1 == agent || h.2 &&& mask == 0
  let grant : Dir := { s.dirMove d agent with st := .modified, holders := [(agent, mask)], dropped := false }
  match d.st with
  | .none | .shared | .owned => s.putDir line grant
  | .exclusive | .modified =>
    if d.holds agent then s.putDir line { grant with holders := d.holders.map fun h => (h.1, h.2 ||| mask) }
    else if s.contended d && disjoint then
      s.putDir line { s.dirMove d agent with st := .priv, holders := d.holders ++ [(agent, mask)], dropped := false }
    else s.putDir line grant
  | .priv =>
    if d.holds agent && disjoint then
      s.putDir line { d with holders := d.holders.map fun h => if h.1 == agent then (h.1, h.2 ||| mask) else h }
    else if disjoint && d.holders.length < 8 then
      s.putDir line { d with holders := d.holders ++ [(agent, mask)] }
    else s.putDir line grant

/-- The entry once every copy but the writer's own vault cache copy is gone (R212, R249; log entry 62). -/
def Dir.written (d : Dir) (own : Option Nat) : Dir :=
  match d.holders.filter fun h => some h.1 == own with
  | [] => d.merged
  | l => { d with st := .shared, holders := l, dropped := false }

/-- WT at a line for the bytes of a mask (R249); `own` is the writer's vault cache, whose copy is updated. -/
def State.dirWT (s : State) (own : Option Nat) (line : Nat) (mask : BitVec 128) : State :=
  let d := s.dir line
  match d.st with
  | .none => s
  | .priv => if d.holders.all fun h => h.2 &&& mask == 0 then s else s.putDir line d.merged
  | _ => s.putDir line (d.written own)

/-- HR at a line (R249). -/
def State.dirHR (s : State) (line : Nat) : State :=
  let d := s.dir line
  match d.st with
  | .exclusive => s.putDir line { d with st := .shared, dropped := false }
  | .modified => s.putDir line { d with st := .owned, dropped := false }
  | .priv => s.putDir line d.merged
  | _ => s

/-- PutM and PutO of an agent (R249): in O the sharers remain. -/
def State.dirPutDirty (s : State) (agent line : Nat) : State :=
  let d := s.dir line
  if !d.holds agent then s
  else
    match d.st with
    | .owned =>
      let rest := d.holders.filter fun h => h.1 != agent
      s.putDir line { d with st := if rest.isEmpty then .none else .shared, holders := rest }
    | .shared | .modified | .exclusive | .priv => s.putDir line d.merged
    | .none => s

/-- PutS and PutE of an agent (R249). -/
def State.dirPutClean (s : State) (agent line : Nat) : State :=
  let d := s.dir line
  if !d.holds agent then s
  else
    match d.st with
    | .shared =>
      let rest := d.holders.filter fun h => h.1 != agent
      s.putDir line { d with st := if rest.isEmpty then .none else .shared, holders := rest }
    | .exclusive | .modified | .priv => s.putDir line d.merged
    | .owned => s.putDir line { d with holders := d.holders.filter fun h => h.1 != agent }
    | .none => s

/-- The lines that an agent can hold (R14, R214): a latency core's two first-level caches and its mid cache, an L-die's
L2, and a W-die's, counted by its two tags for each data slot as if every line compressed to half a slot; which lines do is
indicative (log entry 71). -/
def cacheLines (agent : Nat) : Nat :=
  if isLat agent then 512 + 512 + 16384 else if agent = agentL2 0 ∨ agent = agentL2 1 then 393216 else 524288

/-- Which of an agent's lines gives way (R14, R59, R214; log entry 71): a stream line, else a normal one, else a kept one,
the first of its class. -/
def victim (held : List (Nat × EClass)) : Option Nat :=
  let first (c : EClass) : Option Nat := (held.find? fun x => x.2 == c).map (·.1)
  first .stream <|> first .normal <|> first .keep

/-- The lines that an agent holds, with their classes. -/
def State.heldBy (s : State) (agent : Nat) : List (Nat × EClass) :=
  (s.dirs.filter fun d => d.2.holds agent).map fun d => (d.1, d.2.classOf agent)

/-- The class that a fill takes in an agent's caches (R214): kept lines occupy at most half of them. -/
def fillClass (held : List (Nat × EClass)) (cap : Nat) (c : EClass) : EClass :=
  if c = .keep ∧ cap / 2 ≤ (held.filter fun x => x.2 == .keep).length then .normal else c

/-- The state with an agent's copy of a line written back or dropped (R249). -/
def State.giveUp (s : State) (agent line : Nat) : State :=
  let d := s.dir line
  if d.st = .modified ∨ d.st = .priv ∨ (d.st = .owned ∧ (d.holders.head?.map (·.1)) = some agent) then
    s.dirPutDirty agent line
  else s.dirPutClean agent line

/-- The state with room in an agent's caches for a line of a class (R14, R59): one that is full writes back or drops its
victim. -/
def State.makeRoom (s : State) (agent line : Nat) (cls : EClass := .normal) : State :=
  if (s.dir line).holds agent then s
  else
    let held := s.heldBy agent
    let k := if held.length < cacheLines agent then s else
      match victim held with
      | some old => s.giveUp agent old
      | none => s
    k.putDir line ((k.dir line).enter agent (fillClass held (cacheLines agent) cls))

/-- The state once every line that an agent holds privatised is merged, as a release, FENCE or departure
on its core requires (R251). -/
def State.mergeAgent (s : State) (agent : Nat) : State :=
  { s with dirs := s.dirs.map fun p => if p.2.st == .priv && p.2.holds agent then (p.1, p.2.merged) else p }

/-! ### Lease copies of weft cores -/

/-- A core's copy of a line. -/
def WCore.copy? (w : WCore) (line : Nat) : Option L1Copy := w.l1.find? fun c => c.line == line

/-- Whether byte i of a copy may serve a read hit (R242). -/
def State.byteHits (s : State) (core : Nat) (c : L1Copy) (i : Nat) : Bool :=
  let w := s.wcore core
  let t := stampAdd s.now (s.guardFor core (128 * c.line))
  (stampLe t c.rts && stampLe w.vfloor c.rts)
    || (c.own.getLsbD i && stampLe t (stampAdd c.ownw c.ownl) && stampLe w.vfloor c.ownw)

/-- The bytes that a core's copy gives a read, when every one of them may serve a hit (R242). -/
def State.l1Hit (s : State) (core pa n : Nat) : Option (List Byte) :=
  match (s.wcore core).copy? (pa / 128) with
  | none => none
  | some c =>
    if (List.range n).all fun i => s.byteHits core c (pa % 128 + i) then some ((c.data.drop (pa % 128)).take n)
    else none

/-- The hash of R59 for a line's physical and virtual address. -/
def policyHash (hsel pa va : Nat) : Nat :=
  let fold (a : Nat) (los : List Nat) (top : Nat) : Nat := los.foldl (fun h lo => h ^^^ bitsAt a lo 8) top
  if hsel = 0 then bitsAt pa 7 8
  else if hsel = 2 then fold va [7, 15, 23, 31, 39, 47] (bitsAt va 55 2)
  else fold pa [7, 15, 23, 31, 39] (bitsAt pa 47 5)

/-- The eviction class of an access under a policy word (R59); without one it is normal. -/
def policyClass (w : Option Word) (pa va : Nat) : EClass :=
  match w with
  | none => .normal
  | some w =>
    let h := policyHash (bitsAt w.toNat 16 4) pa va
    if h < bitsAt w.toNat 0 8 then .keep else if h < bitsAt w.toNat 8 8 then .normal else .stream

/-- The copies of an L1 of which one is given up (R59; log entry 71): a stream line, else a normal one, else a kept one,
the oldest of its class. -/
def l1Victim (l : List L1Copy) : Option Nat :=
  let last (c : EClass) : Option Nat := ((l.filter fun x => x.cls == c).getLast?).map L1Copy.line
  (last .stream) <|> (last .normal) <|> last .keep

/-- The copies of an L1 of 2,048 lines with one more, newest first: no more than half are kept lines (R14, R59). -/
def l1Fill (old : List L1Copy) (c : L1Copy) : List L1Copy :=
  let keeps := (old.filter fun x => x.cls == .keep).length
  let c := if c.cls = .keep ∧ 1024 ≤ keeps then { c with cls := .normal } else c
  if old.length < 2048 then c :: old
  else
    match l1Victim old with
    | some line => c :: old.filter fun x => x.line != line
    | none => [c]

/-- The state with a lease granted to a core on the line of an address, and the copy in its L1 (R241), with its eviction
class. A line with a poisoned byte is not kept. -/
def State.grantLease (s : State) (core pa len : Nat) (cls : EClass) : State :=
  let line := pa / 128
  let x := s.stampOf line
  let w := s.wcore core
  let g := s.guardFor core pa
  let r := stampMax x.rts (stampAdd (stampMax s.now w.vfloor) (g + len))
  let r := stampMin r (stampAdd s.now (2 ^ 17))
  let old := w.l1.filter fun c => c.line != line
  let copy : L1Copy :=
    { line, data := s.bytesAt (128 * line) 128, rts := r, own := 0, ownw := 0, ownl := 0, cls }
  let l1 := if s.poisonAt (128 * line) 128 then old else l1Fill old copy
  (s.putStamp line { x with rts := r }).putW core { w with l1, seen := stampMax w.seen x.wts }

/-- Whether n bytes of a core's copy of a line carry an uncorrectable error (R421). -/
def State.l1Bad (s : State) (core pa n : Nat) : Bool :=
  match (s.wcore core).copy? (pa / 128) with
  | some c => c.bad &&& byteMask pa n != 0
  | none => false

/-- A core's copy with bytes that the core wrote at stamp w, held to w + len (R213, R242). -/
def L1Copy.write (c : L1Copy) (off : Nat) (bs : List Byte) (w len : Nat) : L1Copy :=
  { c with
    bad := c.bad &&& ~~~byteMask off bs.length
    data := c.data.take off ++ bs ++ c.data.drop (off + bs.length)
    own := if c.ownw = w then c.own ||| byteMask off bs.length else byteMask off bs.length
    ownw := w
    ownl := len }

/-- The state with a weft core's copy of the line of a write updated (R213). -/
def State.l1Write (s : State) (core pa : Nat) (bs : List Byte) (w len : Nat) : State :=
  let c := s.wcore core
  s.putW core { c with
    l1 := c.l1.map fun x => if x.line == pa / 128 then x.write (pa % 128) bs w len else x }

/-! ### Monitors and shadow state -/

/-- The end of a thread's MWAIT with a status (R261): the monitor is disarmed and the thread goes on past
the instruction, which is 4 bytes long. -/
def Thread.endMwait (t : Thread) (status : Nat) : Thread :=
  match t.sub, t.wait with
  | .mwait, .mwait rd _ _ =>
    { t.setReg rd ⟨BitVec.ofNat 64 status, true, false⟩ with
      sub := .active, wait := .none, pc := t.pc + 4, monitor := Monitor.idle }
  | _, _ => t

/-- The thread with its monitor fired (R260): a thread in MWAIT goes on with status 0. -/
def Thread.fire (t : Thread) : Thread :=
  { t with monitor := { t.monitor with fired := true } }.endMwait 0

/-- The thread with its monitor lost (R260), unless it never was armed: a thread in MWAIT goes on with
status 2. -/
def Thread.loseMonitor (t : Thread) : Thread :=
  { t with monitor := { t.monitor with armed := false, lost := true } }.endMwait 2

/-- The state with every monitor armed on the line of an address fired (R260). -/
def State.fireMonitors (s : State) (pa : Nat) : State :=
  { s with threads := s.threads.map fun p =>
      if p.2.monitor.armed && p.2.monitor.line == pa / 128 then (p.1, p.2.fire) else p }

/-- The state with the monitors on the lines of an address range lost (R253, R260). -/
def State.loseMonitors (s : State) (pa n : Nat) : State :=
  { s with threads := s.threads.map fun p =>
      let m := p.2.monitor
      if m.armed && pa ≤ 128 * m.line + 127 && 128 * m.line < pa + n then (p.1, p.2.loseMonitor) else p }

/-- A thread that leaves its core, with its monitor lost (R260); one in MWAIT executes it again (R261). -/
def Thread.dropMonitor (t : Thread) : Thread :=
  let t :=
    if t.monitor.armed then { t with monitor := { t.monitor with armed := false, fired := false, lost := true } } else t
  if t.sub = .mwait then { t with sub := .active, wait := .none } else t

/-- The release count of a core (R237). -/
def State.relCount (s : State) (core : Nat) : Nat :=
  if isWeft core then (s.wcore core).rel else (s.lcore core).rel

/-- The state with the release count of a core raised (R237). -/
def State.bumpRel (s : State) (core : Nat) : State :=
  if isWeft core then s.putW core { s.wcore core with rel := ((s.wcore core).rel + 1) % 2 ^ 32 }
  else s.putL core { s.lcore core with rel := ((s.lcore core).rel + 1) % 2 ^ 32 }

/-- The recorded write that makes an access a detected race (R238): by another thread, not both sides
synchronising, with no release on the writer's core since, within 2^18 ticks. -/
def State.detected (s : State) (tid pa : Nat) (sync : Bool) : Option Shadow :=
  match tabGet s.shadow (pa / 32) with
  | none => none
  | some e =>
    if e.tid ≠ tid ∧ ¬(sync ∧ e.atomic) ∧ s.relCount e.core = e.rel ∧
        s.gtick < e.tick + 2 ^ 18 then some e
    else none

/-- The state with the shadow entry of a sector set by a write (R237, R238). -/
def State.shadowWrite (s : State) (tid core pa : Nat) (sync : Bool) : State :=
  { s with shadow := tabPut s.shadow (pa / 32) ⟨tid, core, s.relCount core, s.gtick, sync⟩ }

/-! ### The region owner table -/

/-- The state with a request for an ownership transfer (R215, R419): it starts at once when the region is
in no transfer and in no dwell. -/
def State.requestXfer (s : State) (region : Nat) (toHost : Bool) (host : Option (Nat × Bool × List Byte)) :
    State :=
  let busy := (s.xfers.any fun x => x.region == region) || (tabGet s.dwell region).isSome
  let s' := { s with xfers := s.xfers ++ [⟨region, toHost, s.gtick, false, host⟩] }
  if busy then s' else s'.setOwnerByte region (s.ownerByte region ||| 4)

/-- The region whose owner byte stands at an address (R418). -/
def State.ownerRegion? (s : State) (pa : Nat) : Option Nat :=
  let base := s.fw.rotbase.toNat
  if base ≤ pa ∧ pa < base + bitsAt s.fw.hdm.toNat 0 21 then some (pa - base) else none

/-- The state with the pin bit of a region's owner byte written (R418): it takes the value while own is 1. -/
def State.putPin (s : State) (region : Nat) (pin : Bool) : State :=
  let old := s.ownerByte region
  if bitAt old 0 then s.setOwnerByte region (old - bitsAt old 1 1 * 2 + (if pin then 2 else 0)) else s

/-- The state with a write of pin by firmware (R418): it waits for the end of a transfer in progress (R426). -/
def State.writePin (s : State) (region : Nat) (pin : Bool) : State :=
  if bitAt (s.ownerByte region) 2 then
    { s with outside := { s.outside with pins := tabPut s.outside.pins region pin } }
  else s.putPin region pin

/-- The state with a write of own by firmware (R418): a change of it starts a transfer. -/
def State.writeOwn (s : State) (region : Nat) (host : Bool) : State :=
  if host = bitAt (s.ownerByte region) 0 ∨ s.xfers.any fun x => x.region == region && x.toHost == host then s
  else s.requestXfer region host none

/-- The state with a byte written to a region's entry of the owner table (R418): firmware alone writes it. -/
def State.writeOwner (s : State) (region v : Nat) (fw : Bool) : State :=
  if fw then (s.writePin region (bitAt v 1)).writeOwn region (bitAt v 0) else s

/-- Memory with bytes stored, as putBytes, but that a byte of the region owner table is written as R418 says; `fw` says that
firmware stores them. -/
def State.putStored (s : State) (pa : Nat) (bs : List Byte) (pz : List Bool) (fw : Bool := false) : State :=
  if (List.range bs.length).any fun i => (s.ownerRegion? (pa + i)).isSome then
    (List.range bs.length).foldl
      (fun s i => match s.ownerRegion? (pa + i) with
        | some r => s.writeOwner r ((bs[i]?).getD 0).toNat fw
        | none => s.putBytes (pa + i) [(bs[i]?).getD 0] [(pz[i]?).getD false]) s
  else s.putBytes pa bs pz

/-! ### Writes at home -/

/-- A write performed at home by the device itself or by an engine: directory, stamps and monitors act, with
the guard and the view given (R246, R249, R260, R276), the guard 2 ticks more for another package's line (R417); `fw` says
that it is for firmware (R418). -/
def State.engineWrite (s : State) (guard view pa : Nat) (bs : List Byte) (pz : List Bool) (fw : Bool := false) : State :=
  let line := pa / 128
  let w := s.writeStamp line (guard + s.farGuard pa) view
  (((s.dirWT none line (byteMask pa bs.length)).putStamp line ⟨w, w⟩).putStored pa bs pz fw).fireMonitors pa

/-- A write of the device without a view of its own: the present tick is no later than any stamp it takes. -/
def State.deviceWrite (s : State) (guard pa : Nat) (bs : List Byte) (pz : List Bool) : State :=
  s.engineWrite guard s.now pa bs pz

/-- A device write of a little-endian value of n bytes, with the guard of R246. -/
def State.deviceStore (s : State) (pa n v : Nat) : State := s.deviceWrite s.maxGuard pa (leBytes n v) []

/-- A device write of a long run of bytes, line by line. -/
def State.deviceWriteRun (s : State) (pa : Nat) (bs : List Byte) (pz : List Bool) : Nat → State
  | 0 => s
  | fuel + 1 =>
    if bs.isEmpty then s
    else
      let n := 128 - pa % 128
      (s.deviceWrite s.maxGuard pa (bs.take n) (pz.take n)).deviceWriteRun (pa + n) (bs.drop n) (pz.drop n) fuel

end Sys2Proof.Machine
end

