-- ==== Sys2Proof/Machine/Trap.lean ====
section
/-! DEFINITION. Trap causes and what a trap carries (R382, R383). -/

namespace Sys2Proof.Machine

/-- The causes of R382. -/
inductive Cause where
  | ill | priv | empty | qempty | align | page | prot | ownx | race | poison | needw | crook | math | sysc
  | brk | trapi | signal | mchk
  deriving DecidableEq, Repr

/-- The cause codes of R382. -/
def Cause.code : Cause → Nat
  | .ill => 1
  | .priv => 2
  | .empty => 3
  | .qempty => 4
  | .align => 5
  | .page => 6
  | .prot => 7
  | .ownx => 8
  | .race => 9
  | .poison => 10
  | .needw => 11
  | .crook => 12
  | .math => 13
  | .sysc => 14
  | .brk => 15
  | .trapi => 16
  | .signal => 17
  | .mchk => 18

/-- A trap: its cause, trapval, and whether trapval is a virtual address (R383). -/
structure Trap where
  cause : Cause
  val : Word
  adr : Bool
  deriving DecidableEq, Repr

/-- A trap whose trapval is no virtual address. -/
def Trap.plain (c : Cause) (v : Nat) : Trap := ⟨c, BitVec.ofNat 64 v, false⟩

/-- A trap whose trapval is a virtual address. -/
def Trap.at (c : Cause) (v : Nat) : Trap := ⟨c, BitVec.ofNat 64 v, true⟩

/-- A trap whose trapval is the low 64 bits of an integer that is no virtual address. -/
def Trap.int (c : Cause) (v : Int) : Trap := ⟨c, wordOfInt v, false⟩

/-- A trap whose trapval is the low 64 bits of an integer that is a virtual address. -/
def Trap.intAt (c : Cause) (v : Int) : Trap := ⟨c, wordOfInt v, true⟩

end Sys2Proof.Machine
end

