-- ==== Sys2Proof/Machine/Translate.lean ====
section
/-! DEFINITION. Address translation and the checks of an access: the space table (R201), the walk (R202
to R205), the translations a core holds (R206), memory types (R208), ownership transfers (R215, R419)
and the race detector (R238, R239), in the order of R217. -/

namespace Sys2Proof.Machine

/-- Kinds of access (R205). -/
inductive AccKind where
  | read | write | fetch
  deriving DecidableEq, Repr

/-- Whether a signed 64-bit address is canonical (R198). -/
def canonical (v : Int) : Bool := -(2 ^ 56) ≤ v && v < 2 ^ 56

/-- Whether a word is a canonical address (R198). -/
def canonicalWord (w : Word) : Bool := canonical w.toInt

/-- An address as the 64-bit number that a trap reports and a walk indexes. -/
def vaNat (v : Int) : Nat := (v % 2 ^ 64).toNat

/-- The space entry of a process, 256 bits (R201). -/
def State.spaceEntry (s : State) (pid : Nat) : Nat := s.valueAt (s.fw.spcbase.toNat + 32 * spaceOf pid) 32

/-- Whether the space entry of a process stands in a hole (R200). -/
def State.entryInHole (s : State) (pid : Nat) : Bool :=
  match s.place (s.fw.spcbase.toNat + 32 * spaceOf pid) with
  | .ram _ | .remote _ => false
  | _ => true

/-- Whether a space entry is usable: valid, and no reserved field set (R201). -/
def entryUsable (se : Nat) : Bool :=
  bitAt se 64 && bitsAt se 192 64 == 0 && bitsAt se 116 12 == 0 && bitsAt se 65 11 == 0

/-- Whether a process's space entry names another pid (R201). -/
def State.pidMismatch (s : State) (pid : Nat) : Bool := bitsAt (s.spaceEntry pid) 0 64 != pid

/-- The machine check of a pid mismatch (R201). -/
def Trap.pid : Trap := Trap.plain .mchk 2

/-- A leaf's fields (R204). -/
def leafMtype (e : Nat) : Nat := bitsAt e 9 2
def leafSc (e : Nat) : Bool := bitAt e 56
def leafRace (e : Nat) : Bool := bitAt e 57
def leafCls (e : Nat) : Nat := bitsAt e 58 2

/-- Page bits of a leaf at a level (R202). -/
def pageBits (lvl : Nat) : Nat := if lvl = 2 then 30 else if lvl = 3 then 21 else 16

/-- The index of an address at a level (R202). -/
def walkIndex (va lvl : Nat) : Nat := if lvl = 4 then bitsAt va 16 5 else bitsAt va (48 - 9 * lvl) 9

/-- Whether a reserved field of a table entry is set at a level (R203). -/
def tableBad (e lvl : Nat) : Bool :=
  bitsAt e 52 12 != 0 || bitsAt e 2 6 != 0 || lvl == 4 || (lvl < 3 && bitsAt e 8 4 != 0)

/-- Whether a leaf is one that fails a walk at a level (R204, R205). -/
def leafBad (e lvl : Nat) : Bool :=
  bitsAt e 60 4 != 0 || bitsAt e 52 4 != 0 || bitsAt e 11 5 != 0 || lvl < 2 || leafMtype e == 3
    || (bitAt e 3 && !bitAt e 2) || bitsAt e 16 (pageBits lvl - 16) != 0

/-- The entry at a physical address, when memory stands there that can be reached (R200, R415). -/
def State.entryAt (s : State) (a : Nat) : Option Nat :=
  match s.place a with
  | .ram p => some (s.valueAt p 8)
  | .remote p => if s.linked (pkgOf p) then some (s.valueAt p 8) else none
  | _ => none

/-- A walk through the levels given from the table at a (R205): the leaf, where it stands, its level. -/
def walkFrom (s : State) (va : Nat) : List Nat → Nat → Except Trap (Nat × Nat × Nat)
  | [], _ => .error (Trap.at .page va)
  | lvl :: lvls, a =>
    match s.entryAt (a + 8 * walkIndex va lvl) with
    | none => .error (Trap.at .mchk va)
    | some e =>
      if !bitAt e 0 then .error (Trap.at .page va)
      else if bitAt e 1 then
        if tableBad e lvl then .error (Trap.at .page va) else walkFrom s va lvls (bitsAt e 8 44 * 256)
      else if leafBad e lvl then .error (Trap.at .page va)
      else .ok (e, a + 8 * walkIndex va lvl, lvl)

/-- Whether a leaf denies an access (R205, R208). -/
def leafDenies (e : Nat) (k : AccKind) (l : Level) : Bool :=
  (l == .user && !bitAt e 5)
    || (match k with
        | .read => !bitAt e 2
        | .write => !bitAt e 3
        | .fetch => !bitAt e 4)
    || (leafMtype e == 2 && l != .firmware)

/-- A translation of an address: its leaf and its page bits. -/
structure Trans where
  pa : Nat
  leaf : Nat
  deriving DecidableEq, Repr

/-- The address that a leaf at a level gives (R205). -/
def leafPa (e lvl va : Nat) : Nat := bitsAt e 16 36 * 2 ^ 16 + va % 2 ^ pageBits lvl

/-- A walk for an access (R205): the translation, with acc and dirty set at the entry's home. -/
def walk (s : State) (pid va : Nat) (k : AccKind) (l : Level) : Except Trap (State × Trans × Nat) :=
  let se := s.spaceEntry pid
  if s.entryInHole pid then .error (Trap.at .mchk va)
  else if !entryUsable se then .error (Trap.at .page va)
  else if s.pidMismatch pid then .error Trap.pid
  else
    match walkFrom s va [0, 1, 2, 3, 4] (bitsAt se 76 40 * 4096) with
    | .error t => .error t
    | .ok (e, at_, lvl) =>
      if leafDenies e k l then .error (Trap.at .prot va)
      else
        let e' := e ||| 128 ||| (if k = .write then 256 else 0)
        let s' := if e' = e then s else
          match s.place at_ with
          | .ram p | .remote p => s.deviceStore p 8 e'
          | _ => s
        .ok (s', ⟨leafPa e lvl va, e'⟩, lvl)

/-- The translations a core holds (R206). -/
def State.tlbOf (s : State) (core : Nat) : List Tlb :=
  if isWeft core then (s.wcore core).tlb else (s.lcore core).tlb

/-- The state with the translations a core holds. -/
def State.putTlb (s : State) (core : Nat) (l : List Tlb) : State :=
  if isWeft core then s.putW core { s.wcore core with tlb := l } else s.putL core { s.lcore core with tlb := l }

/-- Whether a held translation covers an address of a space. -/
def Tlb.covers (e : Tlb) (space va : Nat) : Bool := (e.glob || e.space == space) && va / 2 ^ e.bits == e.vbase

/-- The translation of a walk for an address, as a cache holds it (R206). -/
def Tlb.ofWalk (pid va lvl : Nat) (t : Trans) : Tlb :=
  let b := pageBits lvl
  { space := spaceOf pid, glob := bitAt t.leaf 6, vbase := va / 2 ^ b, bits := b,
    frame := t.pa - va % 2 ^ b, leaf := BitVec.ofNat 64 t.leaf }

/-- Translations with one more for an address of a space, the oldest beyond the capacity dropped: 128 of 64 KiB, and
64 of 2 MiB and 1 GiB together (R206); a latency core's sizes are the same (log entry 63). -/
def holdTrans (l : List Tlb) (e : Tlb) (space va : Nat) : List Tlb :=
  let old := l.filter fun x => !x.covers space va
  let small := old.filter fun x => x.bits == 16
  let large := old.filter fun x => x.bits != 16
  if e.bits = 16 then e :: (small.take 127 ++ large) else e :: (small ++ large.take 63)

/-- The state with a translation held by a core (R206). -/
def State.holdTlb (s : State) (core pid va : Nat) (e : Tlb) : State :=
  s.putTlb core (holdTrans (s.tlbOf core) e (spaceOf pid) va)

/-- The translations that a die's shared TLB holds (R206). -/
def State.dtlbOf (s : State) (die : Nat) : List Tlb := (tabGet s.dtlb die).getD []

/-- The state with a translation held by a core's die as well, the oldest beyond 32,768 dropped (R206, R207). -/
def State.holdWalk (s : State) (core pid va lvl : Nat) (t : Trans) : State :=
  let e := Tlb.ofWalk pid va lvl t
  let l := (s.dtlbOf (dieOf core)).filter fun x => !x.covers (spaceOf pid) va
  { s with dtlb := tabPut s.dtlb (dieOf core) ((e :: l).take 32768) }.holdTlb core pid va e

/-- What a held translation gives an access, with its permission (R206): a store through a clean leaf walks
again. -/
def Tlb.give (e : Tlb) (va : Nat) (k : AccKind) (l : Level) : Option (Except Trap Trans) :=
  let leaf := e.leaf.toNat
  if leafDenies leaf k l then some (.error (Trap.at .prot va))
  else if k = .write ∧ ¬bitAt leaf 8 then none
  else some (.ok ⟨e.frame + va % 2 ^ e.bits, leaf⟩)

/-- The translation that a core holds for an access (R206). -/
def State.tlbHit (s : State) (core pid va : Nat) (k : AccKind) (l : Level) : Option (Except Trap Trans) :=
  ((s.tlbOf core).find? fun e => e.covers (spaceOf pid) va).bind fun e => e.give va k l

/-- The translation of an address for an access from a core: held there, held by its die's shared TLB, or walked
and then held by both (R206, R207). -/
def translate (s : State) (core pid va : Nat) (k : AccKind) (l : Level) : Except Trap (State × Trans) :=
  match s.tlbHit core pid va k l with
  | some (.ok t) => .ok (s, t)
  | some (.error e) => .error e
  | none =>
    let shared := (s.dtlbOf (dieOf core)).find? fun e => e.covers (spaceOf pid) va
    match shared.bind fun e => (e.give va k l).map fun r => (e, r) with
    | some (e, .ok t) => .ok (s.holdTlb core pid va e, t)
    | some (_, .error e) => .error e
    | none =>
      match walk s pid va k l with
      | .error e => .error e
      | .ok (s', t, lvl) => .ok (s'.holdWalk core pid va lvl t, t)

/-- The leaf that an access at an address would use, whatever it permits: held, or read from the tables
(R206). -/
def State.leafOf (s : State) (core pid va : Nat) : Option Nat :=
  match (s.tlbOf core ++ s.dtlbOf (dieOf core)).find? fun e => e.covers (spaceOf pid) va with
  | some e => some e.leaf.toNat
  | none =>
    let se := s.spaceEntry pid
    if s.entryInHole pid || !entryUsable se then none
    else
      match walkFrom s va [0, 1, 2, 3, 4] (bitsAt se 76 40 * 4096) with
      | .ok (e, _, _) => some e
      | .error _ => none

/-- Whether an access at an address reaches a page with the SC attribute (R204, R236). -/
def State.scAt (s : State) (core pid : Nat) (v : Int) : Bool :=
  match if canonical v then s.leafOf core pid (vaNat v) else none with
  | some e => leafSc e
  | none => false

/-! ### Ownership transfers -/

/-- What the ownership of its region makes of an access (R215): it goes on, traps OWNX, or waits while a
transfer runs. -/
inductive Owned where
  | ok
  | refused (s : State)
  | wait (s : State)

/-- The ownership check of an access (R215). A transfer whose time has passed refuses every access that
finds it (log entry 64). -/
def State.ownCheck (s : State) (pa : Nat) : Owned :=
  match s.region? pa with
  | none => .ok
  | some r =>
    if !s.hostOwns pa then
      if s.xfers.any fun x => x.region == r && x.toHost && bitAt (s.ownerByte r) 2 then .wait s else .ok
    else if s.pinned pa then .refused s
    else
      match s.xfers.find? fun x => x.region == r && !x.toHost with
      | none => .wait (s.requestXfer r false none)
      | some x =>
        if x.late then .refused s else .wait s

/-! ### The race detector -/

/-- A 32-byte record of a detected race (R239). -/
def raceRecord (s : State) (tid core va kind : Nat) (e : Shadow) : Nat :=
  s.now + e.tick % 2 ^ 20 * 2 ^ 20 + kind * 2 ^ 44 + core * 2 ^ 46 + e.core * 2 ^ 55 + (e.tid % 2 ^ 64) * 2 ^ 64
    + (tid % 2 ^ 64) * 2 ^ 128 + va * 2 ^ 192

/-- The state with a record appended to the race log, or dropped and counted (R239). -/
def State.logRace (s : State) (rec : Nat) : State :=
  let c := s.fw.rdctl.toNat
  if s.raceLogged < 2 ^ bitsAt c 1 5 then
    let a := bitsAt c 12 40 * 4096 + 32 * s.raceLogged
    { s.deviceStore a 32 rec with raceLogged := s.raceLogged + 1 }
  else { s with fw := { s.fw with rdovf := BitVec.ofNat 64 (min (s.fw.rdovf.toNat + 1) (2 ^ 32 - 1)) } }

/-- The race check of an access (R238, R239): kind 0 load, 1 store, 2 atomic; sync for an atomic, acquire
or release. -/
def State.raceCheck (s : State) (tid core pa va kind : Nat) (leaf : Nat) (sync : Bool) : Except Trap State :=
  if !leafRace leaf then .ok s
  else
    match s.detected tid pa sync with
    | none => .ok s
    | some e =>
      if bitAt s.fw.rdctl.toNat 0 then .ok (s.logRace (raceRecord s tid core va kind e))
      else .error (Trap.at .race va)

/-! ### The checks of R217 -/

/-- An access that has passed its checks: where it stands, its virtual address and its leaf. -/
structure Access where
  pa : Nat
  va : Nat
  leaf : Nat
  deriving DecidableEq, Repr

/-- What the checks of an access come to: it passes, traps, must wait for a transfer, or addresses a
device register. -/
inductive Checked where
  | ok (s : State) (a : Access)
  | trap (s : State) (t : Trap)
  | wait (s : State)
  | device (s : State) (pa : Nat) (a : Access)

/-- The checks of R217 that follow translation: the hole, the owner and the race detector. Device registers
are reached only through pages of mtype 2 (R199); through any other page they are a hole (log entry 17). -/
def checkPlaced (s : State) (tid core va : Nat) (k : Nat) (sync : Bool) (t : Trans) : Checked :=
  match s.place t.pa with
  | .hole => .trap s (Trap.at .mchk va)
  | .device p =>
    if leafMtype t.leaf = 2 then .device s p ⟨p, va, t.leaf⟩ else .trap s (Trap.at .mchk va)
  | .remote p =>
    if !s.linked (pkgOf p) then .trap s (Trap.at .mchk va)
    else
      match s.raceCheck tid core p va k t.leaf sync with
      | .ok s' => .ok s' ⟨p, va, t.leaf⟩
      | .error e => .trap s e
  | .ram p =>
    match s.ownCheck p with
    | .refused s' => .trap s' (Trap.at .ownx va)
    | .wait s' => .wait s'
    | .ok =>
      match s.raceCheck tid core p va k t.leaf sync with
      | .ok s' => .ok s' ⟨p, va, t.leaf⟩
      | .error e => .trap s e

/-- The checks of R217 before translation: a canonical address, aligned to the size. -/
def checkAddress (v : Int) (align : Nat) : Option Trap :=
  if !canonical v then some (Trap.intAt .page v)
  else if v % align ≠ 0 then some (Trap.intAt .align v)
  else none

/-- The checks of R217 for an access of a thread on a core: `write` and `read` say which permissions it
needs, `k` and `sync` what the race detector is told; an atomic (k = 2) may not touch mtype 2 (R254). -/
def checkAccess (s : State) (t : Thread) (core : Nat) (v : Int) (align : Nat) (write read : Bool) (k : Nat)
    (sync : Bool) : Checked :=
  match checkAddress v align with
  | some e => .trap s e
  | none =>
    match translate s core t.pid (vaNat v) (if write then .write else .read) t.plvl with
    | .error e => .trap s e
    | .ok (s', tr) =>
      if (write && read && !bitAt tr.leaf 2) || (k == 2 && leafMtype tr.leaf == 2) then
        .trap s' (Trap.intAt .prot v)
      else checkPlaced s' t.tid core (vaNat v) k sync tr

end Sys2Proof.Machine
end

