-- ==== Sys2Proof/Machine/Queues.lean ====
section
/-! DEFINITION. Queues as threads reach them (R91 to R94, R334, R335): base-die queues, scratchpad
channels and signal inboxes. -/

namespace Sys2Proof.Machine

/-- A queue: a base-die queue by id, a channel of a bolt, the inbox of a thread (R91). -/
inductive QId where
  | base (q : Nat)
  | chan (bolt n : Nat)
  | inbox (tid : Nat)
  deriving DecidableEq, Repr

/-- A base-die queue by id (R334); a queue never configured is disabled. -/
def State.queue (s : State) (q : Nat) : Queue :=
  (tabGet s.queues q).getD ⟨0, 0, false, false, 0, 0, 0, [], [], []⟩

/-- The state with a queue's record. -/
def State.putQueue (s : State) (q : Nat) (r : Queue) : State := { s with queues := tabPut s.queues q r }

/-- Whether a queue is granted to a process's space (R91, R334): a disabled queue is granted to none. -/
def Queue.granted (r : Queue) (pid : Nat) : Bool := r.lsz != 0 && (r.all || (r.valid && r.owner == spaceOf pid))

/-- A channel of a bolt that exists (R323). -/
def Bolt.chan? (b : Bolt) (n : Nat) : Option Chan := (tabGet b.chans n).filter fun c => c.dcode != 0

/-- The queue that a thread reaches through register number reg (R91, R92): a trap for an unbound port, a
queue no longer granted (R334), or a channel on a latency core. -/
def State.portQueue (s : State) (t : Thread) (reg : Nat) : Except Trap QId :=
  match t.port (reg - 56) with
  | .unbound => .error (Trap.plain .prot reg)
  | .base q => if (s.queue q).granted t.pid then .ok (.base q) else .error (Trap.plain .prot reg)
  | .inbox => .ok (.inbox t.tid)
  | .chan n =>
    if t.onLatency then .error (Trap.plain .needw reg)
    else
      match t.bolt with
      | some b => .ok (.chan b n)
      | none => .error (Trap.plain .prot reg)

/-- The offset in the allotment of word i of a channel (R323). -/
def Chan.offset (c : Chan) (i : Nat) : Nat := c.base * 256 + 8 * (i % 2 ^ c.dcode)

/-- The words a channel holds (R323). -/
def Chan.occ (c : Chan) : Nat := (c.tail + 2 ^ 15 - c.head) % 2 ^ 15

/-- The words of a channel, head first, each with its poison mark (R190). -/
def Bolt.chanWords (b : Bolt) (c : Chan) : List (Word × Bool) :=
  (List.range c.occ).map fun i =>
    let o := c.offset (c.head + i)
    (BitVec.ofNat 64 (leNat (memBytes b.spad o 8)), addrAny b.spPoison (o / 4) 2)

/-- The words of a queue, head first, each with its poison mark. -/
def State.queueWords (s : State) : QId → List (Word × Bool)
  | .base q => (s.queue q).words
  | .inbox t => match s.thread? t with
    | some t => t.inbox.map fun w => (w, false)
    | none => []
  | .chan b n => match s.bolt? b with
    | some b => match b.chan? n with
      | some c => b.chanWords c
      | none => []
    | none => []

/-- The capacity of a queue in words (R91, R334, R391). -/
def State.queueCap (s : State) : QId → Nat
  | .base q => if (s.queue q).lsz = 0 then 0 else 2 ^ (s.queue q).lsz
  | .inbox _ => 64
  | .chan b n => match (s.bolt? b).bind fun b => b.chan? n with
    | some c => 2 ^ c.dcode
    | none => 0

/-- The elements of a list whose index is not among those given. -/
def dropAt {α : Type} (used : List Nat) : Nat → List α → List α
  | _, [] => []
  | i, a :: l => if used.contains i then dropAt used (i + 1) l else a :: dropAt used (i + 1) l

/-- The state with a word appended to a queue (R92, R334). -/
def State.pushWord (s : State) (q : QId) (w : Word) (poison : Bool) : State :=
  match q with
  | .base n =>
    let r := s.queue n
    s.putQueue n { r with tail := (r.tail + 1) % 2 ^ r.lsz, words := r.words ++ [(w, poison)] }
  | .inbox t => s.modThread t fun t => { t with inbox := t.inbox ++ [w] }
  | .chan b n => s.modBolt b fun b =>
    match b.chan? n with
    | none => b
    | some c =>
      let o := c.offset c.tail
      { b with
        spad := memStore b.spad o (leBytes 8 w.toNat)
        spPoison := addrMark b.spPoison (o / 4) 2 poison
        chans := tabPut b.chans n { c with tail := (c.tail + 1) % 2 ^ 15 } }

/-- The state with several words appended to a base-die queue as one push. -/
def State.pushWords (s : State) (q : Nat) (ws : List Word) : State :=
  ws.foldl (fun s w => s.pushWord (.base q) w false) s

/-- Whether a base-die queue has room for n words; a disabled one has none. -/
def State.roomFor (s : State) (q n : Nat) : Bool :=
  (s.queue q).lsz != 0 && (s.queue q).words.length + n ≤ 2 ^ (s.queue q).lsz

/-! ### Waiting requests -/

/-- The issuer as a waiter of R335: a latency core has slot 64. -/
def Issuer.waiter (i : Issuer) (pc : Word) (pop : Bool) : Waiter :=
  match i with
  | .weft c slot a => ⟨c, slot, a, pop⟩
  | .latency c => ⟨c, 64, pc, pop⟩
  | .none => ⟨0, 64, pc, pop⟩

/-- A push of the device's own as a waiter of R335: slot 65 of no core; its word stands among those the queue owes. -/
def Waiter.device : Waiter := ⟨0, 65, 0, false⟩

/-- Whether a waiter still stands at the instruction at which it began to wait. -/
def State.stillWaits (s : State) (w : Waiter) : Bool :=
  if w.slot = 65 then true
  else if w.slot = 64 then
    match (s.lcore w.core).cur.bind s.thread? with
    | some t => t.active && t.pc == w.pc
    | none => false
  else
    match s.weft? w.core w.slot with
    | some x => x.members.any fun p => match s.thread? p.2 with
      | some t => t.active && t.pc == w.pc
      | none => false
    | none => false

/-- The waiting push that a queue serves next (R335). -/
def State.firstPush (s : State) (q : Nat) : Option Waiter :=
  (s.queue q).waiters.find? fun w => !w.pop && s.stillWaits w

/-- The state with the device's waiting pushes at a queue served while they are at the head of the line and there is
room (R335). -/
def State.settleQueue (s : State) (q : Nat) : Nat → State
  | 0 => s
  | n + 1 =>
    let r := s.queue q
    match r.owed with
    | [] => s
    | w :: owed =>
      if s.firstPush q = some Waiter.device ∧ s.roomFor q 1 then
        ((s.putQueue q { r with owed, waiters := r.waiters.erase Waiter.device }).pushWord (.base q) w false).settleQueue q n
      else s

/-- The state with the words at the indexes given taken from a queue (R58, R92); a word that stays keeps
its place in the order. -/
def State.takeWords (s : State) (q : QId) (used : List Nat) : State :=
  if used.isEmpty then s
  else
    match q with
    | .base n =>
      let r := s.queue n
      (s.putQueue n { r with head := (r.head + used.length) % 2 ^ r.lsz, words := dropAt used 0 r.words }).settleQueue n
        r.owed.length
    | .inbox t => s.modThread t fun t => { t with inbox := dropAt used 0 t.inbox }
    | .chan b n => s.modBolt b fun b =>
      match b.chan? n with
      | none => b
      | some c =>
        let left := dropAt used 0 (b.chanWords c)
        let head := c.head + used.length
        let place : Memory × List Nat := (List.range left.length).foldl
          (fun m i =>
            let o := c.offset (head + i)
            let w := (left[i]?).getD (0, false)
            (memStore m.1 o (leBytes 8 w.1.toNat), addrMark m.2 (o / 4) 2 w.2))
          (b.spad, b.spPoison)
        { b with spad := place.1, spPoison := place.2, chans := tabPut b.chans n { c with head := head % 2 ^ 15 } }

/-- Whether a request of one direction at a queue stands behind another that began to wait earlier (R335,
log entry 9), the device's own pushes among them. -/
def State.behind (s : State) (q : Nat) (me : Waiter) : Bool :=
  match (s.queue q).waiters.find? fun w => w.pop == me.pop && s.stillWaits w with
  | some w => w != me
  | none => false

/-- Whether no request of one direction waits at a queue, so that the device's own is served (R335). -/
def State.freeFor (s : State) (q : Nat) (pop : Bool) : Bool :=
  (s.queue q).waiters.all fun w => w.pop != pop || !s.stillWaits w

/-- The state with a word that the device pushes to a base-die queue: it waits while there is no room, or behind
requests that wait (R335). -/
def State.devicePush (s : State) (q : Nat) (w : Word) : State :=
  if s.roomFor q 1 && s.freeFor q false then s.pushWord (.base q) w false
  else
    let r := s.queue q
    s.putQueue q { r with owed := r.owed ++ [w], waiters := r.waiters ++ [Waiter.device] }

/-- The state with an uncorrectable error in a word that a queue holds (R335, R396). -/
def State.poisonQueue (s : State) (q i : Nat) : State :=
  let r := s.queue q
  s.putQueue q { r with
    words := (List.range r.words.length).filterMap fun j => (r.words[j]?).map fun w => (w.1, w.2 || j == i) }

/-- The state with a request waiting at a queue. -/
def State.waitAt (s : State) (q : Nat) (me : Waiter) : State :=
  let r := s.queue q
  let live := r.waiters.filter s.stillWaits
  s.putQueue q { r with waiters := if live.contains me then live else live ++ [me] }

/-- The state with a request no longer waiting at a queue, which serves the device's own behind it (R335). -/
def State.waitDone (s : State) (q : Nat) (me : Waiter) : State :=
  let r := s.queue q
  if r.waiters.contains me then
    (s.putQueue q { r with waiters := r.waiters.filter (· != me) }).settleQueue q r.owed.length
  else s

end Sys2Proof.Machine
end

