-- ==== Sys2Proof/Machine/Ops.lean ====
section
/-! DEFINITION. The operations that instructions and events share: results, completion, signals and
device events, taking a trap on either kind of core and returning from one (R383 to R387, R393), and a
thread's departure from a latency core (R172). -/

namespace Sys2Proof.Machine

/-- The outcome of a meaning. -/
abbrev Result := Host.Outcome State Fault Refusal

/-- The length of an instruction in bytes (R44). -/
def formLen : Form → Nat
  | .c => 2
  | .s => 4
  | .m => 6
  | .l => 8
  | .x => 12

/-- The address after an instruction at pc. -/
def nextPc (f : Fields) (pc : Word) : Word := pc + BitVec.ofNat 64 (formLen f.form)

/-! ### Outstanding accesses -/

/-- The asynchronous results of a thread that have not been delivered (R88). -/
def State.pendOf (s : State) (tid : Nat) : List Pend := s.pend.filter fun p => p.tid == tid

/-- The stores of a thread that are not yet performed, oldest first (R218). -/
def State.storesOf (s : State) (tid : Nat) : List PStore := s.stores.filter fun p => p.tid == tid

/-- Whether an asynchronous result is bound: its value has been read (R232). -/
def Pend.bound (p : Pend) : Bool :=
  match p.phase with
  | .ready _ _ _ => true
  | _ => false

/-- Whether a load's address is still to be translated, so that its checks are pending (R218). -/
def Pend.unchecked (p : Pend) : Bool :=
  match p.phase with
  | .walk => true
  | _ => false

/-- Whether every earlier access of a thread has been performed (R232). -/
def State.performed (s : State) (tid : Nat) : Bool :=
  (s.storesOf tid).isEmpty && (s.pendOf tid).all Pend.bound

/-- Whether every load of a thread has been delivered (R34). -/
def State.loadsDone (s : State) (tid : Nat) : Bool := (s.pendOf tid).isEmpty

/-- Whether a load's checks are pending as the region owner table stands (R218): it is not translated, or its region
has come to be the host's since (R215, R253). -/
def State.unchecked (s : State) (p : Pend) : Bool :=
  match p.phase with
  | .walk => true
  | .home pa _ _ => s.hostOwns pa
  | .ready _ _ _ => false

/-- Whether a thread has a load whose checks are pending: it then issues nothing irrevocable (R218). -/
def State.hasUnchecked (s : State) (tid : Nat) : Bool := (s.pendOf tid).any s.unchecked

/-- Whether a later access of a thread must wait: an acquire or an SC access is not yet performed (R232,
R236). -/
def State.mustWait (s : State) (tid : Nat) : Bool :=
  ((s.pendOf tid).any fun p => !p.bound && (p.sc || p.kind == .acquire)) || (s.storesOf tid).any fun p => p.sc

/-! ### Completion -/

/-- The thread moved to a pc. -/
def Thread.goto (t : Thread) (pc : Word) : Thread := { t with pc }

/-- The state with a thread past an instruction; an irrevocable one moves rgn with it (R165). -/
def State.advance (s : State) (tid : Nat) (f : Fields) (irrev : Bool) : State :=
  s.modThread tid fun t =>
    let pc := nextPc f t.pc
    if irrev then { t with pc, rgn := pc } else { t with pc }

/-- The state with an issue noted as blocked (R26, R57). -/
def State.block (s : State) : State := { s with note := { s.note with blocked := true } }

/-! ### Signals and device events -/

/-- The state with a word appended to a thread's inbox (R391). -/
def State.postSignal (s : State) (tid : Nat) (w : Word) : State :=
  s.modThread tid fun t => { t with inbox := t.inbox ++ [w] }

/-- The state with a device event posted to the event thread, or dropped and counted (R394). -/
def State.deviceEvent (s : State) (code detail : Nat) : State :=
  let drop : State := { s with fw := { s.fw with evdrop := s.fw.evdrop + 1 } }
  let tid := s.fw.evtid.toNat
  if tid = 0 then drop
  else
    match s.thread? tid with
    | some t =>
      if t.inbox.length < 64 && t.loc != .exited then
        s.postSignal tid (BitVec.ofNat 64 (63 + detail % 2 ^ 16 * 2 ^ 16 + code * 2 ^ 32))
      else drop
    | none => drop

/-- The state with an entry in the machine-check log, when a ring is configured (R422, log entry 15). -/
def State.logMck (s : State) : State :=
  let c := s.fw.mcklog.toNat
  let s' := { s with mcks := s.mcks + 1 }
  if c = 0 then s'
  else
    s'.deviceWriteRun (bitsAt c 12 40 * 4096 + 32 * (s.mcks % 2 ^ bitsAt c 0 5))
      ((List.range 32).map fun i => Config.logByte s.mcks i) [] 3

/-- A machine check logged without a thread to trap (R394). -/
def State.logMckEvent (s : State) : State := s.logMck.deviceEvent 3 (s.mcks % 2 ^ 16)

/-! ### Taking a trap -/

/-- trapcause for a trap taken at a level (R383). -/
def trapCause (c : Cause) (l : Level) (adr : Bool) : Word :=
  BitVec.ofNat 64 (c.code + l.code * 256 + (if adr then 1024 else 0))

/-- What is left of a thread's lost store once a trap is taken: a machine check for it reports it (R397). -/
def Thread.lostAfter (t : Thread) (tr : Trap) : Option Word :=
  if tr.cause = .mchk ∧ tr.adr = true ∧ t.lost = some tr.val then none else t.lost

/-- The thread with its trap registers set (R383, R385). -/
def Thread.trapRegs (t : Thread) (tr : Trap) (trappc : Word) : Thread :=
  { t with
    trapcause := trapCause tr.cause t.plvl tr.adr
    trapval := tr.val
    trappc
    lost := t.lostAfter tr }

/-- A thread whose trap registers are set, at its handler on a latency core (R385): the firmware's for a machine
check or from a level above user, else the supervisor's; a second trap of the firmware halts the core. -/
def enterVector (s : State) (core : Nat) (t : Thread) (mchk : Bool) : State :=
  if t.plvl = .firmware ∧ (s.lcore core).busy then
    ((s.putThread t).putL core { s.lcore core with halted := true }).logMck
  else if mchk ∨ t.plvl ≠ .user then
    (s.putThread { t with plvl := .firmware, pc := s.fw.fvec }).putL core { s.lcore core with busy := true }
  else s.putThread { t with plvl := .supervisor, pc := s.fw.svec }

/-- Entry to a handler on a latency core (R385). -/
def enterHandler (s : State) (core : Nat) (t : Thread) (tr : Trap) (trappc : Word) : State :=
  enterVector s core (t.trapRegs tr trappc) (tr.cause == .mchk)

/-- Word 0 of a fault report (R388). -/
def reportWord (s : State) (core slot lane tid code : Nat) : Word :=
  let epoch := (tabGet (s.wcore core).epochs slot).getD 0
  BitVec.ofNat 64 (tid % 2 ^ 32 + epoch * 2 ^ 32 + code * 2 ^ 40 + lane * 2 ^ 45 + slot * 2 ^ 50 + core * 2 ^ 56)

/-- Fault-parking a lane of a weft (R29, R387): it stands at its region entry, and a report waits for the
service queue. -/
def parkFault (s : State) (core slot lane : Nat) (t : Thread) (tr : Trap) (trappc rgn : Word) : State :=
  let t' := { t.trapRegs tr trappc with sub := .faultParked, pc := rgn, rgn }
  let rep : Report := ⟨reportWord s core slot lane t.tid tr.cause.code, tr.val, trappc, false⟩
  (s.putThread t').putW core { s.wcore core with reports := (s.wcore core).reports ++ [rep] }

/-- Parking a lane for extraction to a destination, to travel in a sub-state (R34). -/
def parkExtract (t : Thread) (dest : Dest) (asSub : Sub) : Thread :=
  { t with sub := .extractParked, leave := some dest, asSub }

/-- Departure of a thread from its latency core (R172): it is in transit, its monitor is lost (R260), its
core's release count rises (R237) and privatised lines of the core merge (R251). -/
def departLatency (s : State) (core : Nat) (t : Thread) (dest : Dest) : State :=
  let s' := ((s.bumpRel core).mergeAgent core).putThread { t.dropMonitor with loc := .transit dest, xr := false }
  s'.putL core { s'.lcore core with cur := none }

/-- Where MIG.w takes a thread (R172). -/
def migWDest (t : Thread) : Dest :=
  match t.boltCore with
  | some c => .weft c
  | none => .anyWeft

/-- TAKING A TRAP, on either kind of core (R385, R387, R168, R169, R176); a thread that migrates instead meets a lost
store as MIG does (R397). `irrev` says that the trapping
instruction is irrevocable, so that a weft lane parks at the instruction itself; `next` that the
instruction completes by trapping, so that trappc and rgn are the next instruction's address. -/
def takeTrap (s : State) (tid : Nat) (f : Fields) (tr : Trap) (irrev next : Bool) : State :=
  match s.thread? tid with
  | none => s
  | some t =>
    let trappc := if next then nextPc f t.pc else t.pc
    match t.loc with
    | .latency core =>
      if tr.cause = .needw ∧ t.nw then
        match t.lost with
        | some v => enterHandler s core t ⟨.mchk, v, true⟩ t.pc
        | none => departLatency s core { t with rgn := t.pc } (migWDest t)
      else enterHandler s core (if next || tr.cause == .sysc then { t with rgn := trappc } else t) tr trappc
    | .member core slot lane =>
      if tr.cause = .sysc then
        s.putThread { parkExtract { t with pc := trappc, rgn := trappc } (.latency none) .active with
          xr := true, entry := some (14, tr.val) }
      else
        let rgn := if next then trappc else if irrev || tr.cause == .mchk then t.pc else t.rgn
        parkFault s core slot lane t tr trappc rgn
    | _ => s

/-- Whether a trap must wait: a latency core takes it once every earlier instruction has completed (R385),
and a migration leaves once every earlier access has been performed (R172). -/
def trapWaits (s : State) (tid : Nat) (tr : Trap) : Bool :=
  match s.thread? tid with
  | none => false
  | some t =>
    t.onLatency && (!s.loadsDone tid || (tr.cause == .needw && t.nw && !s.performed tid))

/-- The sub-state in which a thread that reaches its return point goes on: it waits again at a barrier that
has not released (R392). -/
def Thread.resumedSub (t : Thread) : Sub :=
  match t.bwait with
  | some k => .barrier k
  | none => .active

/-- RETURN FROM A TRAP to a target at a level (R171, R385, R392, R393): ERET.f clears busy, and ERET.s to
the return point of an extracted thread takes it back to its weft core. -/
def returnFromTrap (s : State) (tid : Nat) (target : Word) (level : Level) (firmware : Bool) : State :=
  match s.thread? tid with
  | none => s
  | some t =>
    let t' := { t with plvl := level, pc := target }
    match t.loc with
    | .latency core =>
      let s' := if firmware then s.putL core { s.lcore core with busy := false } else s
      if firmware || target != t.retPoint then s'.putThread t'
      else if t.xr then departLatency s' core { t' with sub := t.resumedSub } (migWDest t)
      else s'.putThread { t' with sub := t.resumedSub }
    | _ => s.putThread t'

end Sys2Proof.Machine
end

