-- ==== Sys2Proof/Machine/Operands.lean ====
section
/-! DEFINITION. How an instruction's operands are found (R31, R57, R58, R92, R384, R396): which fields it
reads, the checks of one lane before it issues, queue claims, and the values each lane gets. -/

namespace Sys2Proof.Machine

/-- A source field: its number (1 to 3), what it names, the register and its e bit. -/
structure Use where
  field : Nat
  role : Role
  reg : Nat
  e : Bool
  deriving DecidableEq, Repr

/-- The source fields of an instruction in the order s1, s2, s3 (R57). -/
def usesOf (r : OpRule) (f : Fields) : List Use :=
  [⟨1, roleS1 r f, f.s1, f.e1⟩, ⟨2, roleS2 r f, f.s2, f.e2⟩, ⟨3, roleS3 r f, f.s3, f.e3⟩].filter
    fun u => u.role.isSource

/-- The general registers that a field of a kind names: both of a pair, none for a queue port (R31). -/
def namedRegs (k : Role) (reg : Nat) : List Nat :=
  match k with
  | .reg | .gen | .objGen | .objAny => if reg < 56 then [reg] else []
  | .pair => if reg = 0 then [] else [reg, reg + 1]
  | _ => []

/-- Every general register that an instruction names (R31). -/
def allNamed (r : OpRule) (f : Fields) : List Nat :=
  namedRegs r.rd f.rd ++ namedRegs (roleS1 r f) f.s1 ++ namedRegs (roleS2 r f) f.s2
    ++ namedRegs (roleS3 r f) f.s3 ++ (if r.pol then [f.pol.val] else [])

/-- The lowest register named at or above 8c (R31). -/
def aboveBlocks (r : OpRule) (f : Fields) (c : Nat) : Option Nat :=
  ((allNamed r f).filter fun n => 8 * c ≤ n).min?

/-- The general registers read as sources through a field. -/
def Use.regs (u : Use) : List Nat := namedRegs u.role u.reg

/-- Whether a field reads a queue port. -/
def Use.isPort (u : Use) : Bool := 56 ≤ u.reg

/-- Whether rd names a queue port that the instruction pushes to. -/
def pushesRd (r : OpRule) (f : Fields) : Bool := r.rd == .reg && 56 ≤ f.rd.val

/-- Whether an instruction pops or pushes a queue port, which makes it irrevocable (R164). -/
def touchesPort (r : OpRule) (f : Fields) : Bool := pushesRd r f || (usesOf r f).any Use.isPort

/-- The trap of one source field (R57, R92): a port without a queue to reach, or an empty register under
e = 1. -/
def fieldTrap (s : State) (t : Thread) (u : Use) : Option Trap :=
  if u.isPort then
    match s.portQueue t u.reg with
    | .error e => some e
    | .ok _ => none
  else if u.e && u.regs.any fun n => !(t.reg n).full then some (Trap.plain .empty u.field)
  else none

/-- The trap of a port in rd (R92): no queue to reach, or a push to an inbox. -/
def rdTrap (s : State) (t : Thread) (r : OpRule) (f : Fields) : Option Trap :=
  if pushesRd r f then
    match s.portQueue t f.rd with
    | .error e => some e
    | .ok (.inbox _) => some (Trap.plain .prot f.rd)
    | .ok _ => none
  else none

/-- Whether a general register blocks the lane (R57): an empty source with e = 0, the policy register, or
an empty destination. -/
def regsBlock (t : Thread) (r : OpRule) (f : Fields) : Bool :=
  ((usesOf r f).any fun u => !u.e && u.regs.any fun n => !(t.reg n).full)
    || (r.pol && !(t.reg f.pol).full)
    || (match r.rd with
        | .reg | .gen | .pair => (namedRegs r.rd f.rd).any fun n => !(t.reg n).full
        | _ => false)

/-- The first source register that carries poison (R396). -/
def poisonedSource (t : Thread) (r : OpRule) (f : Fields) : Option Nat :=
  ((usesOf r f).flatMap Use.regs ++ (if r.pol then [f.pol.val] else [])).find? fun n => (t.reg n).poison

/-- The checks of one lane that precede those of its sources (R384): privilege and the block count. `pre` is a
check of the instruction's own at the place of PRIV (R95). -/
def gateTrap (s : State) (t : Thread) (r : OpRule) (f : Fields) (pre : Option Trap) : Option Trap :=
  if t.plvl.code < r.level then some (Trap.plain .priv 0)
  else
    match pre with
    | some e => some e
    | none => (aboveBlocks r f (s.blockCount t)).map fun n => Trap.plain .prot n

/-- Whether no source field of a lane before field n traps (R57). -/
def reachesField (s : State) (t : Thread) (r : OpRule) (f : Fields) (n : Nat) : Bool :=
  (usesOf r f).all fun u => n ≤ u.field || (fieldTrap s t u).isNone

/-! ### Queue claims -/

/-- A claim on a queue (R92): the field, the lane's thread, the queue and the e bit. -/
structure Claim where
  field : Nat
  tid : Nat
  q : QId
  e : Bool
  deriving DecidableEq, Repr

/-- The claims of one field over lanes in increasing lane number. -/
def fieldClaims (s : State) (u : Use) : List (Nat × Nat) → List Claim
  | [] => []
  | (_, tid) :: ls =>
    match (s.thread? tid).map fun t => s.portQueue t u.reg with
    | some (.ok q) => ⟨u.field, tid, q, u.e⟩ :: fieldClaims s u ls
    | _ => fieldClaims s u ls

/-- Every claim, field by field and within a field by lane (R92). -/
def claimsOf (s : State) (r : OpRule) (f : Fields) (lanes : List (Nat × Nat)) : List Claim :=
  ((usesOf r f).filter Use.isPort).flatMap fun u => fieldClaims s u lanes

/-- The claims of lanes that have passed the checks before their sources (R57): a lane claims through no field after
one of its own that traps. -/
def openClaims (s : State) (r : OpRule) (f : Fields) (lanes : List (Nat × Thread)) : List Claim :=
  ((usesOf r f).filter Use.isPort).flatMap fun u =>
    fieldClaims s u ((lanes.filter fun p => reachesField s p.2 r f u.field).map fun p => (p.1, p.2.tid))

/-- Each claim with its place among the claims on its queue. -/
def ranked (cs : List Claim) : List (Claim × Nat) :=
  let rec go : List Claim → List Claim → List (Claim × Nat)
    | _, [] => []
    | seen, c :: l => (c, (seen.filter fun d => d.q == c.q).length) :: go (c :: seen) l
  go [] cs

/-- The queues that claims name, each once. -/
def claimQueues (cs : List Claim) : List QId :=
  cs.foldl (fun l c => if l.contains c.q then l else l ++ [c.q]) []

/-- Whether claims wait at a queue (R92): one of them has e = 0 and there is not a word for each. -/
def claimsWait (s : State) (cs : List Claim) (q : QId) : Bool :=
  let mine := cs.filter fun c => c.q == q
  (mine.any fun c => !c.e) && (s.queueWords q).length < mine.length

/-- The claims that are not served: every claim on their queue has e = 1 and the words run out (R92). -/
def unserved (s : State) (cs : List Claim) : List Claim :=
  ((ranked cs).filter fun p =>
    (cs.all fun c => c.q != p.1.q || c.e) && (s.queueWords p.1.q).length ≤ p.2).map (·.1)

/-- The trap of one source field once the claims that are not served are known (R57, R92). The trap of a port that
cannot be reached stands at its field's place (DESIGN CHOICE: R384 names no place for it; log entry 82). -/
def useTrap (s : State) (t : Thread) (un : List Claim) (u : Use) : Option Trap :=
  match fieldTrap s t u with
  | some e => some e
  | none =>
    if un.any fun c => c.tid == t.tid && c.field == u.field then some (Trap.plain .qempty u.field) else none

/-- The first trap of a lane's source fields, in the order s1, s2, s3 (R57). -/
def sourceTrap (s : State) (t : Thread) (un : List Claim) (us : List Use) : Option Trap := us.findSome? (useTrap s t un)

/-- The trap of a lane before what blocks it (R384): privilege, the block count, and the sources in order. -/
def laneTrap (s : State) (t : Thread) (r : OpRule) (f : Fields) (pre : Option Trap) (un : List Claim) : Option Trap :=
  match gateTrap s t r f pre with
  | some e => some e
  | none => sourceTrap s t un (usesOf r f)

/-- The claims of an issue that are not served (R92), over the lanes that pass the checks before their sources. -/
def dryClaims (s : State) (r : OpRule) (f : Fields) (pre : Thread → Option Trap) (lanes : List (Nat × Thread)) :
    List Claim :=
  unserved s (openClaims s r f (lanes.filter fun p => (gateTrap s p.2 r f (pre p.2)).isNone))

/-- A popped word: the field it comes through, its queue and index there, the word and its poison. -/
structure Popped where
  field : Nat
  q : QId
  idx : Nat
  word : Word
  poison : Bool
  deriving DecidableEq, Repr

/-- The words that the claims of the lanes that issue take, by thread. -/
def popsOf (s : State) (cs : List Claim) : List (Nat × Popped) :=
  (ranked cs).map fun p =>
    let w := ((s.queueWords p.1.q)[p.2]?).getD (0, false)
    (p.1.tid, ⟨p.1.field, p.1.q, p.2, w.1, w.2⟩)

/-- A lane as an instruction's own meaning sees it: its position, its thread before the issue, the values
of s1, s2 and s3, the second registers of pairs, and whether a popped word carried poison. -/
structure Lane where
  lane : Nat
  tid : Nat
  thread : Thread
  a : Word
  b : Word
  c : Word
  b2 : Word
  policy : Word
  poison : Bool
  deriving DecidableEq, Repr

/-- The value of a source field: the popped word, or the register. -/
def fieldValue (t : Thread) (role : Role) (reg field : Nat) (pops : List Popped) : Word :=
  if !role.isSource then 0
  else if reg < 56 then (t.reg reg).val
  else ((pops.find? fun p => p.field == field).map Popped.word).getD 0

/-- The lane with its operands read (R8). -/
def readLane (r : OpRule) (f : Fields) (lane : Nat) (t : Thread) (pops : List Popped) : Lane :=
  { lane, tid := t.tid, thread := t
    a := fieldValue t (roleS1 r f) f.s1 1 pops
    b := fieldValue t (roleS2 r f) f.s2 2 pops
    c := fieldValue t (roleS3 r f) f.s3 3 pops
    b2 := if roleS2 r f == .pair && f.s2 != 0 then (t.reg (f.s2.val + 1)).val else 0
    policy := if r.pol then (t.reg f.pol).val else 0
    poison := pops.any Popped.poison }

/-- The signed sum of s1 and the displacement (R65). -/
def Lane.addr (l : Lane) (f : Fields) : Int := l.a.toInt + f.simm

/-- The second operand: s2, or the sign-extended immediate in its place (R65, R98). -/
def Lane.opB (l : Lane) (r : OpRule) (f : Fields) : Word :=
  if immForS2 r f then wordOfInt f.simm else l.b

end Sys2Proof.Machine
end

