-- ==== Sys2Proof/Machine/Issue.lean ====
section
/-! DEFINITION. One issue of an instruction to the lanes that stand at it (R7, R26, R57): lanes that trap
leave the group, the others issue together once none of them is blocked, each lane completes or traps by
itself in increasing lane number, and queue words move only for lanes that complete (R58, R92, R168). -/

namespace Sys2Proof.Machine

/-- What an instruction does for one lane: it completes without a result, with a result for rd (after a change
that `keep` makes even where another lane waits), or at a target with a link; it completes and has placed its thread itself; it traps, `next` saying that trapping
completes it; it traps after a change that `keep` makes; it waits, leaving only what `keep` does; or it meets
a device register without behaviour. -/
inductive Act where
  | done (s : State)
  | value (s : State) (v : Word)
  | valueKeep (keep : State → State) (s : State) (v : Word)
  | jump (s : State) (pc : Word) (link : Option Word)
  | placed (s : State)
  | trap (t : Trap) (next : Bool)
  | trapAfter (keep : State → State) (t : Trap)
  | wait (keep : State → State)
  | device (pa : Nat)

/-- The meaning of an instruction for one lane. -/
abbrev Body := State → Lane → Act

/-- What the lanes of one issue have done so far: `all` with every effect, `kept` with only the traps and
what waiting lanes leave, the threads that completed, the words pushed, whether a lane waits, a device
register met, and the threads that trapped. -/
structure Issuing where
  all : State
  kept : State
  done : List Nat
  pushes : List (QId × Word × Bool)
  waits : Bool
  device : Option Nat
  trapped : List Nat := []

/-- A trap taken by one lane; on a latency core it may have to wait (R385). -/
def Issuing.trap (g : Issuing) (tid : Nat) (f : Fields) (t : Trap) (irrev next : Bool) : Issuing :=
  if trapWaits g.all tid t then { g with waits := true }
  else
    { g with
      all := takeTrap g.all tid f t irrev next
      kept := takeTrap g.kept tid f t irrev next
      trapped := g.trapped ++ [tid] }

/-- The result of a lane written to rd: a general register, whose full bit stays set (R88), or a queue. -/
def Issuing.result (g : Issuing) (r : OpRule) (f : Fields) (l : Lane) (s : State) (v : Word) (irrev : Bool) :
    Issuing :=
  if pushesRd r f then
    match s.portQueue l.thread f.rd with
    | .ok q =>
      { g with all := s.advance l.tid f irrev, done := g.done ++ [l.tid], pushes := g.pushes ++ [(q, v, l.poison)] }
    | .error _ => { g with all := s.advance l.tid f irrev, done := g.done ++ [l.tid] }
  else
    { g with all := (s.setReg l.tid f.rd ⟨v, true, l.poison⟩).advance l.tid f irrev, done := g.done ++ [l.tid] }

/-- The state with a backward branch of a lane noted (R26, R156). -/
def State.noteBack (s : State) (frm to_ : Word) : State :=
  if to_.toNat < frm.toNat then { s with note := { s.note with back := true } } else s

/-- One lane's part of an issue. -/
def Issuing.lane (g : Issuing) (r : OpRule) (f : Fields) (irrev : Bool) (body : Body) (l : Lane) : Issuing :=
  match body g.all l with
  | .done s => { g with all := s.advance l.tid f irrev, done := g.done ++ [l.tid] }
  | .value s v => g.result r f l s v irrev
  | .valueKeep keep s v => { g.result r f l s v irrev with kept := keep g.kept }
  | .jump s pc link =>
    let s := match link with
      | some v => s.setReg l.tid f.rd ⟨v, true, false⟩
      | none => s
    let s := s.modThread l.tid fun t => if irrev then { t with pc, rgn := pc } else { t with pc }
    { g with all := s.noteBack l.thread.pc pc, done := g.done ++ [l.tid] }
  | .placed s => { g with all := s, done := g.done ++ [l.tid] }
  | .trap t next => g.trap l.tid f t irrev next
  | .trapAfter keep t => { g with all := keep g.all, kept := keep g.kept }.trap l.tid f t irrev false
  | .wait keep => { g with kept := keep g.kept, waits := true }
  | .device pa => { g with device := some pa }

/-- The state with the queues' words moved for the lanes that completed (R58, R92): pops, then pushes. -/
def moveWords (s : State) (pops : List (Nat × Popped)) (done : List Nat)
    (pushes : List (QId × Word × Bool)) : State :=
  let mine := pops.filter fun p => done.contains p.1
  let qs := mine.foldl (fun l p => if l.contains p.2.q then l else l ++ [p.2.q]) []
  let s := qs.foldl (fun s q => s.takeWords q ((mine.filter fun p => p.2.q == q).map fun p => p.2.idx)) s
  pushes.foldl (fun s p => s.pushWord p.1 p.2.1 p.2.2) s

/-- The state after an acquire of a word or of a barrier (R93, R231, R325): the thread's view rises to every stamp
that a view has reached, and so to that of the release it synchronises with (log entry 66). -/
def State.acquired (s : State) (tid : Nat) : State := s.acquireView tid s.viewCeil

/-- The state after a release by a thread: its core's release count rises (R237) and privatised lines of a
latency core merge (R251). -/
def State.released (s : State) (tid : Nat) : State :=
  match (s.thread? tid).bind Thread.core? with
  | some c => (s.bumpRel c).mergeAgent c
  | none => s

/-- The base-die queues that lanes push to or pop from, each with its direction. -/
def baseUses (cs : List Claim) (pushTo : List (Nat × QId)) : List (Nat × Bool) :=
  let l := (cs.filterMap fun c => match c.q with | .base q => some (q, true) | _ => none)
    ++ pushTo.filterMap fun p => match p.2 with | .base q => some (q, false) | _ => none
  l.foldl (fun acc x => if acc.contains x then acc else acc ++ [x]) []

/-- The queue that each lane pushes to. -/
def pushesOf (s : State) (r : OpRule) (f : Fields) (lanes : List (Nat × Thread)) : List (Nat × QId) :=
  if pushesRd r f then
    lanes.filterMap fun p => match s.portQueue p.2 f.rd with
      | .ok (.inbox _) | .error _ => none
      | .ok q => some (p.2.tid, q)
  else []

/-- Whether the words that lanes push find room as the queues stand (R57, R92). -/
def pushesFit (s : State) (pushTo : List (Nat × QId)) : Bool :=
  pushTo.all fun p =>
    (s.queueWords p.2).length + (pushTo.filter fun x => x.2 == p.2).length ≤ s.queueCap p.2

/-- Whether the lanes left in an issue must wait (R57, R92, R218, R232, R335): one lane that is blocked makes all of
them wait, those whose own queue has room too (R57; log entry 65). A push waits for every earlier access of its thread,
a pop for the earlier acquires (R228, R232). -/
def groupBlocked (s : State) (r : OpRule) (f : Fields) (irrev : Bool) (lanes : List (Nat × Thread))
    (cs : List Claim) (pc : Word) : Bool :=
  let pushTo := pushesOf s r f lanes
  (lanes.any fun p => regsBlock p.2 r f)
    || ((claimQueues cs).any fun q => claimsWait s cs q)
    || !pushesFit s pushTo
    || (irrev && lanes.any fun p => s.hasUnchecked p.2.tid)
    || (pushTo.any fun p => !s.performed p.1)
    || (cs.any fun c => s.mustWait c.tid)
    || ((baseUses cs pushTo).any fun u => s.behind u.1 (s.cur.waiter pc u.2))

/-- The lanes of an issue with their threads. -/
def State.issueLanes (s : State) : List (Nat × Thread) :=
  s.runLanes.filterMap fun p => (s.thread? p.2).map fun t => (p.1, t)

/-- The state with each of the traps given taken by its lane. -/
def takeTraps (s : State) (f : Fields) (irrev : Bool) : List (Thread × Trap) → State
  | [] => s
  | (t, tr) :: l => takeTraps (takeTrap s t.tid f tr irrev false) f irrev l

/-- The trap of a lane once nothing blocks it and before the instruction's own checks (R384, R396): a
poisoned source, or a poisoned word popped by an instruction that does not pass it on. -/
def poisonTrap (t : Thread) (r : OpRule) (f : Fields) (carries : Bool) (pops : List Popped) : Option Trap :=
  match poisonedSource t r f with
  | some n => some (Trap.plain .poison n)
  | none =>
    if carries then none
    else
      (pops.find? Popped.poison).map fun p =>
        Trap.plain .poison (((usesOf r f).find? fun u => u.field == p.field).map Use.reg |>.getD 0)

/-- The machine check of a push, which is a release (R93), by a thread with a lost store (R397). -/
def lostTrap (t : Thread) : Option Trap := t.lost.map fun v => ⟨.mchk, v, true⟩

/-- The trap of a lane once nothing blocks it (R384): of poison, then of a port in rd (R92; R384 names no place for the
PROT or NEEDW of a port that cannot be reached: log entry 82), then of a lost store that a push meets (R397). -/
def lateTrap (s : State) (r : OpRule) (f : Fields) (carries : Bool) (t : Thread) (pops : List Popped) : Option Trap :=
  match poisonTrap t r f carries pops with
  | some e => some e
  | none =>
    match rdTrap s t r f with
    | some e => some e
    | none => if pushesRd r f then lostTrap t else none

/-- The lanes given, each run in turn, unless a trap of its own takes it before its body. -/
def runLanesBody (r : OpRule) (f : Fields) (irrev : Bool) (own : Thread → List Popped → Option Trap) (body : Body)
    (pops : List (Nat × Popped)) (g : Issuing) : List (Nat × Thread) → Issuing
  | [] => g
  | (lane, t) :: ls =>
    let mine := (pops.filter fun p => p.1 == t.tid).map (·.2)
    let g := match own t mine with
      | some tr => g.trap t.tid f tr irrev false
      | none => g.lane r f irrev body (readLane r f lane t mine)
    runLanesBody r f irrev own body pops g ls

/-- The state an issue leaves, when no device register was met; the next issue takes a later access
number. -/
def Issuing.finish (g : Issuing) (pops : List (Nat × Popped)) (uses : List (Nat × Bool)) (me : Bool → Waiter) :
    Result :=
  match g.device with
  | some pa => .refused (.deviceRegister pa)
  | none =>
    if g.waits then .next g.kept.block
    else
      let s := moveWords g.all pops g.done g.pushes
      let s := (pops.filter fun p => g.done.contains p.1).foldl (fun s p => s.acquired p.1) s
      let s := if g.pushes.isEmpty then s else g.done.foldl (fun s t => s.released t) s
      .next (uses.foldl (fun s u => s.waitDone u.1 (me u.2)) s).bump

/-- The words that the lanes of an issue take (R58, R92): claims are served in their order from the head, and a lane
that traps, with the words it was given, takes none, so that those after it are served anew. `trapped` says which
threads trap when the words given are taken. -/
def settlePops (s : State) (trapped : List (Nat × Popped) → List Nat) :
    Nat → List Claim → List (Nat × Popped) → List (Nat × Popped)
  | 0, cs, fixed => fixed ++ popsOf s cs
  | n + 1, cs, fixed =>
    let pops := fixed ++ popsOf s cs
    let out := trapped pops
    match cs.find? fun c => out.contains c.tid with
    | none => pops
    | some c => settlePops s trapped n (cs.filter fun d => d.tid != c.tid) (fixed ++ pops.filter fun p => p.1 == c.tid)

/-- ONE ISSUE of an instruction: its lanes complete or trap in increasing lane number, and so do their fault reports
(R387). `irrev` says that it is irrevocable by its kind (R164), `pre` is its own
check at the place of PRIV, `carries` that a poisoned popped word passes into its result. -/
def issue (r : OpRule) (f : Fields) (irrev : Bool) (pre : Thread → Option Trap) (carries : Bool) (body : Body)
    (s : State) : Result :=
  let irrev := irrev || touchesPort r f
  let all := s.issueLanes
  let pc := ((all.head?).map fun p => p.2.pc).getD 0
  let un := dryClaims s r f pre all
  let early := all.filterMap fun p => (laneTrap s p.2 r f (pre p.2) un).map fun tr => (p.2, tr)
  let lanes := all.filter fun p => (laneTrap s p.2 r f (pre p.2) un).isNone
  let cs := claimsOf s r f (lanes.map fun p => (p.1, p.2.tid))
  let own := fun t pops => match early.find? fun p => p.1.tid == t.tid with
    | some p => some p.2
    | none => lateTrap s r f carries t pops
  let uses := baseUses cs (pushesOf s r f lanes)
  if early.any fun p => trapWaits s p.1.tid p.2 then .next s.block
  else if groupBlocked s r f irrev lanes cs pc then
    let s := takeTraps s f irrev early
    .next (uses.foldl (fun s u => s.waitAt u.1 (s.cur.waiter pc u.2)) s).block
  else
    let run := fun pops => runLanesBody r f irrev own body pops ⟨s, s, [], [], false, none, []⟩ all
    let pops := settlePops s (fun pops => (run pops).trapped) cs.length cs []
    (run pops).finish pops uses (s.cur.waiter pc)

/-- An issue of a plain instruction: not irrevocable by its kind and with no check of its own. -/
def issuePlain (r : OpRule) (f : Fields) (body : Body) (s : State) : Result :=
  issue r f false (fun _ => none) true body s

/-- An issue whose body computes rd from the operands alone. -/
def issueValue (r : OpRule) (f : Fields) (v : Lane → Word) (s : State) : Result :=
  issuePlain r f (fun s l => .value s (v l)) s

end Sys2Proof.Machine
end

