-- ==== Sys2Proof/Machine/Flags.lean ====
section
/-! DEFINITION. Conditions and flags: the condition codes (R81) over integers and over float relations,
and the fields of fmode with the flags and traps they govern (R131, R132). -/

namespace Sys2Proof.Machine

/-- The signed value of a source, of its low 32 bits with .w (R98). -/
def sval (w : Bool) (v : Word) : Int := if w then sextN v.toNat 32 else v.toInt

/-- The unsigned value of a source, of its low 32 bits with .w (R98). -/
def uval (w : Bool) (v : Word) : Nat := if w then v.toNat % 2 ^ 32 else v.toNat

/-- The result res(x) of R98: 64 bits, or with .w 32 bits sign-extended. -/
def res (w : Bool) (x : Int) : Word := if w then wordOfInt (sextN (x % 2 ^ 32).toNat 32) else wordOfInt x

/-- A condition on integers (R81) given as signed and unsigned values; an undefined code never holds. -/
def condHolds (code : Nat) (sa sb : Int) (ua ub : Nat) : Bool :=
  match code with
  | 0 => true
  | 1 => ua == ub
  | 2 => ua != ub
  | 3 => sa < sb
  | 4 => sb ≤ sa
  | 5 => sa ≤ sb
  | 6 => sb < sa
  | 7 => ua < ub
  | 8 => ub ≤ ua
  | 9 => ua ≤ ub
  | 10 => ub < ua
  | _ => false

/-- A condition on two words, with .w on their low halves (R81, R106). -/
def condWords (code : Nat) (w : Bool) (a b : Word) : Bool :=
  condHolds code (sval w a) (sval w b) (uval w a) (uval w b)

/-- How two float values compare (R81). -/
inductive FRel where
  | lt | eq | gt | un
  deriving DecidableEq, Repr

/-- A condition on floats (R81); an undefined code never holds. -/
def condFloat (code : Nat) (r : FRel) : Bool :=
  match code with
  | 0 => true
  | 1 => r == .eq
  | 2 => r != .eq
  | 3 => r == .lt
  | 4 => r == .gt || r == .eq
  | 5 => r == .lt || r == .eq
  | 6 => r == .gt
  | 11 => r == .un
  | 12 => r != .un
  | _ => false

end Sys2Proof.Machine
end

