-- ==== Sys2Proof/Machine/Float.lean ====
section
/-! DEFINITION. Floating-point values (R112 to R115): taking a pattern apart, exact arithmetic on
dyadic values, and the one rounding of an exact result. -/

namespace Sys2Proof.Machine

/-- A thread-side format (R112): exponent and fraction widths. -/
structure FFmt where
  eb : Nat
  fb : Nat
  deriving DecidableEq, Repr

/-- The formats by the fmt codes of R80: FP64, FP32, FP16, BF16. -/
def fp64 : FFmt := ⟨11, 52⟩
def fp32 : FFmt := ⟨8, 23⟩
def fp16 : FFmt := ⟨5, 10⟩
def bf16 : FFmt := ⟨8, 7⟩

/-- The format of an fmt code (R80). -/
def fmtOf (code : Nat) : FFmt := if code = 0 then fp64 else if code = 1 then fp32 else if code = 2 then fp16 else bf16

/-- Width, bias and least exponent of a format. -/
def FFmt.width (f : FFmt) : Nat := 1 + f.eb + f.fb
def FFmt.bias (f : FFmt) : Nat := 2 ^ (f.eb - 1) - 1
def FFmt.emin (f : FFmt) : Int := 1 - (f.bias : Int)

/-- The magnitude bits of infinity, of the largest finite value and of the canonical NaN (R112). -/
def FFmt.infMag (f : FFmt) : Nat := (2 ^ f.eb - 1) * 2 ^ f.fb
def FFmt.maxMag (f : FFmt) : Nat := f.infMag - 1
def FFmt.nan (f : FFmt) : Nat := f.infMag + 2 ^ (f.fb - 1)

/-- A pattern from a sign and magnitude bits. -/
def FFmt.signed (f : FFmt) (neg : Bool) (mag : Nat) : Nat := (if neg then 2 ^ (f.eb + f.fb) else 0) + mag

/-- A floating value: a NaN (signalling or quiet), an infinity, or a finite value (−1)^neg × m × 2^e. -/
inductive FVal where
  | nan (signalling : Bool)
  | inf (neg : Bool)
  | fin (neg : Bool) (m : Nat) (e : Int)
  deriving DecidableEq, Repr

/-- The value of a pattern (R112). -/
def FFmt.decode (f : FFmt) (v : Nat) : FVal :=
  let frac := bitsAt v 0 f.fb
  let ex := bitsAt v f.fb f.eb
  let neg := bitAt v (f.eb + f.fb)
  if ex = 2 ^ f.eb - 1 then if frac = 0 then .inf neg else .nan (!bitAt v (f.fb - 1))
  else if ex = 0 then .fin neg frac (f.emin - f.fb)
  else .fin neg (2 ^ f.fb + frac) (f.emin - f.fb + ex - 1)

/-- A word's value in a format (R130). -/
def FFmt.val (f : FFmt) (v : Word) : FVal := f.decode (v.toNat % 2 ^ f.width)

/-- Whether a value is a NaN, a signalling NaN, an infinity, a zero, negative. -/
def FVal.isNan : FVal → Bool
  | .nan _ => true
  | _ => false
def FVal.isSig : FVal → Bool
  | .nan s => s
  | _ => false
def FVal.isInf : FVal → Bool
  | .inf _ => true
  | _ => false
def FVal.isZero : FVal → Bool
  | .fin _ m _ => m == 0
  | _ => false
def FVal.neg : FVal → Bool
  | .nan _ => false
  | .inf n => n
  | .fin n _ _ => n

/-- The value with its sign inverted. -/
def FVal.flip : FVal → FVal
  | .nan s => .nan s
  | .inf n => .inf !n
  | .fin n m e => .fin (!n) m e

/-! ### Dyadic values -/

/-- The exact value m × 2^e. -/
structure Dy where
  m : Int
  e : Int
  deriving DecidableEq, Repr

/-- The value of a finite float; 0 for what is not finite. -/
def FVal.dy : FVal → Dy
  | .fin n m e => ⟨if n then -(m : Int) else m, e⟩
  | _ => ⟨0, 0⟩

/-- Sum of dyadic values. -/
def Dy.add (a b : Dy) : Dy :=
  let e := min a.e b.e
  ⟨a.m * 2 ^ (a.e - e).toNat + b.m * 2 ^ (b.e - e).toNat, e⟩

/-- Product of dyadic values. -/
def Dy.mul (a b : Dy) : Dy := ⟨a.m * b.m, a.e + b.e⟩

/-- Sum of a list of dyadic values. -/
def Dy.sum (l : List Dy) : Dy := l.foldl Dy.add ⟨0, 0⟩

/-- Sign of the difference of two dyadic values. -/
def Dy.cmp (a b : Dy) : Int := (a.add ⟨-b.m, b.e⟩).m.sign

/-! ### Rounding -/

/-- The rounding modes of R114. -/
inductive RMode where
  | rne | rtz | rdn | rup | rmm
  deriving DecidableEq, Repr

/-- The mode of a code (R82, R114, R131); 0 and 1 are rne. -/
def rmodeOf (code : Nat) : RMode :=
  match code with
  | 2 => .rtz
  | 3 => .rdn
  | 4 => .rup
  | 5 => .rmm
  | _ => .rne

/-- Whether a magnitude with quotient n and remainder rem out of 2^d rounds up (R114). -/
def roundsUp (mode : RMode) (neg : Bool) (n rem d : Nat) : Bool :=
  match mode with
  | .rtz => false
  | .rdn => neg && rem != 0
  | .rup => !neg && rem != 0
  | .rne => 2 ^ d < 2 * rem || (2 * rem == 2 ^ d && n % 2 == 1 && rem != 0)
  | .rmm => 2 ^ d ≤ 2 * rem && rem != 0

/-- m × 2^e as a multiple of 2^q, rounded, and whether that is inexact. -/
def roundAt (mode : RMode) (neg : Bool) (m : Nat) (e q : Int) : Nat × Bool :=
  if q ≤ e then (m * 2 ^ (e - q).toNat, false)
  else
    let d := (q - e).toNat
    let n := m / 2 ^ d
    let rem := m % 2 ^ d
    (if roundsUp mode neg n rem d then n + 1 else n, rem != 0)

/-- The magnitude bits that m × 2^e (m nonzero) rounds to in a format of least exponent emin and fb
fraction bits whose exponents run on without end; whether that is inexact; whether it is tiny, its value
rounded with unbounded exponent lying below 2^emin (R115). -/
def roundMag (emin : Int) (fb : Nat) (mode : RMode) (neg : Bool) (m : Nat) (e : Int) : Nat × Bool × Bool :=
  let top : Int := e + m.log2
  let q := max top emin - fb
  let r := roundAt mode neg m e q
  let tiny := top < emin && !(top == emin - 1 && (roundAt mode neg m e (top - fb)).1 == 2 ^ (fb + 1))
  ((q + fb - emin).toNat * 2 ^ fb + r.1, r.2, tiny)

/-- The exception conditions of R115 as bits of the raised set (R132). -/
def xNX : Nat := 1
def xUF : Nat := 2
def xOF : Nat := 4
def xDZ : Nat := 8
def xNV : Nat := 16

/-- A result pattern and its raised set. -/
abbrev FRes := Nat × Nat

/-- An exact nonzero magnitude rounded once to a format (R114, R115, R132). -/
def FFmt.round (f : FFmt) (mode : RMode) (neg : Bool) (m : Nat) (e : Int) : FRes :=
  let r := roundMag f.emin f.fb mode neg m e
  if f.maxMag < r.1 then
    let toInf := match mode with
      | .rtz => false
      | .rdn => neg
      | .rup => !neg
      | _ => true
    (f.signed neg (if toInf then f.infMag else f.maxMag), xOF + xNX)
  else (f.signed neg r.1, (if r.2.1 then xNX else 0) + (if r.2.1 && r.2.2 then xUF else 0))

/-- An exact value rounded once; `zneg` is the sign of an exact zero. -/
def FFmt.roundDy (f : FFmt) (mode : RMode) (zneg : Bool) (x : Dy) : FRes :=
  if x.m = 0 then (f.signed zneg 0, 0) else f.round mode (x.m < 0) x.m.natAbs x.e

/-- The canonical NaN with a raised set (R113). -/
def FFmt.nanRes (f : FFmt) (x : Nat) : FRes := (f.nan, x)

/-- NV when one of the operands is a signalling NaN (R115). -/
def sigX (l : List FVal) : Nat := if l.any FVal.isSig then xNV else 0

/-- The sign of an exact zero sum of operands with the signs given (R114). -/
def zeroSumNeg (mode : RMode) (na nb : Bool) : Bool := if na = nb then na else mode == .rdn

/-- a + b (R133). -/
def FFmt.add (f : FFmt) (mode : RMode) (a b : FVal) : FRes :=
  if a.isNan || b.isNan then f.nanRes (sigX [a, b])
  else if a.isInf && b.isInf then
    if a.neg = b.neg then (f.signed a.neg f.infMag, 0) else f.nanRes xNV
  else if a.isInf then (f.signed a.neg f.infMag, 0)
  else if b.isInf then (f.signed b.neg f.infMag, 0)
  else f.roundDy mode (zeroSumNeg mode a.neg b.neg) (a.dy.add b.dy)

/-- a × b (R133). -/
def FFmt.mul (f : FFmt) (mode : RMode) (a b : FVal) : FRes :=
  let neg := a.neg != b.neg
  if a.isNan || b.isNan then f.nanRes (sigX [a, b])
  else if (a.isInf && b.isZero) || (a.isZero && b.isInf) then f.nanRes xNV
  else if a.isInf || b.isInf then (f.signed neg f.infMag, 0)
  else f.roundDy mode neg (a.dy.mul b.dy)

/-- a × b + c (R133). -/
def FFmt.fma (f : FFmt) (mode : RMode) (a b c : FVal) : FRes :=
  let neg := a.neg != b.neg
  if a.isSig || b.isSig || c.isSig then f.nanRes xNV
  else if (a.isInf && b.isZero) || (a.isZero && b.isInf) then f.nanRes xNV
  else if a.isNan || b.isNan || c.isNan then f.nanRes 0
  else if a.isInf || b.isInf then
    if c.isInf && c.neg != neg then f.nanRes xNV else (f.signed neg f.infMag, 0)
  else if c.isInf then (f.signed c.neg f.infMag, 0)
  else f.roundDy mode (zeroSumNeg mode neg c.neg) ((a.dy.mul b.dy).add c.dy)

/-- The magnitude m / n × 2^e with 128 further bits and a sticky bit: a rounding of the pair to at most 64
bits is the rounding of the quotient. -/
def divMag (m n : Nat) (e : Int) : Nat × Int :=
  let x := m * 2 ^ 128
  (2 * (x / n) + (if x % n = 0 then 0 else 1), e - 129)

/-- a / b (R133). -/
def FFmt.div (f : FFmt) (mode : RMode) (a b : FVal) : FRes :=
  let neg := a.neg != b.neg
  match a, b with
  | .nan _, _ | _, .nan _ => f.nanRes (sigX [a, b])
  | .inf _, .inf _ => f.nanRes xNV
  | .inf _, _ => (f.signed neg f.infMag, 0)
  | _, .inf _ => (f.signed neg 0, 0)
  | .fin _ m e, .fin _ n g =>
    if n = 0 then if m = 0 then f.nanRes xNV else (f.signed neg f.infMag, xDZ)
    else if m = 0 then (f.signed neg 0, 0)
    else f.round mode neg (divMag m n (e - g)).1 (divMag m n (e - g)).2

/-- The whole square root of a number below 2^(2 n), bit by bit. -/
def sqrtFrom (x : Nat) : Nat → Nat → Nat
  | 0, r => r
  | n + 1, r => sqrtFrom x n (if (r + 2 ^ n) * (r + 2 ^ n) ≤ x then r + 2 ^ n else r)

/-- The square root of m × 2^e with some 128 bits and a sticky bit. -/
def sqrtMag (m : Nat) (e : Int) : Nat × Int :=
  let odd := e % 2 = 1
  let x := (if odd then 2 * m else m) * 2 ^ 200
  let g := (if odd then e - 1 else e) - 200
  let r := sqrtFrom x 140 0
  (2 * r + (if r * r = x then 0 else 1), g / 2 - 1)

/-- √a (R133). -/
def FFmt.sqrt (f : FFmt) (mode : RMode) (a : FVal) : FRes :=
  match a with
  | .nan s => f.nanRes (if s then xNV else 0)
  | .inf n => if n then f.nanRes xNV else (f.infMag, 0)
  | .fin n m e =>
    if m = 0 then (f.signed n 0, 0)
    else if n then f.nanRes xNV
    else f.round mode false (sqrtMag m e).1 (sqrtMag m e).2

/-- How two values compare (R81): +0 equals −0. -/
def FVal.rel (a b : FVal) : FRel :=
  match a, b with
  | .nan _, _ | _, .nan _ => .un
  | .inf x, .inf y => if x = y then .eq else if x then .lt else .gt
  | .inf x, _ => if x then .lt else .gt
  | _, .inf y => if y then .gt else .lt
  | a, b =>
    let c := a.dy.cmp b.dy
    if c < 0 then .lt else if c = 0 then .eq else .gt

/-- The conversion of a value to a format (R138). -/
def FFmt.convert (f : FFmt) (mode : RMode) (a : FVal) : FRes :=
  match a with
  | .nan s => f.nanRes (if s then xNV else 0)
  | .inf n => (f.signed n f.infMag, 0)
  | .fin n m e => if m = 0 then (f.signed n 0, 0) else f.round mode n m e

/-- The conversion of a value to an integer of bounds lo and hi (R139), with the raised set. -/
def toInteger (mode : RMode) (lo hi : Int) (a : FVal) : Int × Nat :=
  match a with
  | .nan _ => (0, xNV)
  | .inf n => (if n then lo else hi, xNV)
  | .fin n m e =>
    let r := roundAt mode n m e 0
    let v : Int := if n then -(r.1 : Int) else r.1
    if v < lo then (lo, xNV)
    else if hi < v then (if n then lo else hi, xNV)
    else (v, if r.2 then xNX else 0)

/-- A value rounded to an integral value in its own format (R141). -/
def FFmt.integral (f : FFmt) (mode : RMode) (a : FVal) : FRes :=
  match a with
  | .nan s => f.nanRes (if s then xNV else 0)
  | .inf n => (f.signed n f.infMag, 0)
  | .fin n m e =>
    let r := (roundAt mode n m e 0).1
    if r = 0 then (f.signed n 0, 0) else ((f.round .rne n r 0).1, 0)

/-! ### Approximate functions (R142) -/

/-- Whether m × 2^e is a power of two, and which. -/
def powerOfTwo (m : Nat) (e : Int) : Option Int := if m ≠ 0 ∧ 2 ^ m.log2 = m then some (e + m.log2) else none

/-- The pattern of a power of two that FP32 has. -/
def fp32Pow (k : Int) : Option Nat :=
  if -149 ≤ k ∧ k ≤ 127 then some (fp32.round .rne false 1 k).1 else none

/-- The spacing exponent of FP32 at a magnitude whose binary exponent is given (R142). -/
def ulpExp (top : Int) : Int := max top (-126) - 23

/-- A value an implementation returns, kept to the bounds that R142 sets: where the free value breaks them,
a value that keeps them stands in its place (log entry 5). -/
def within (free : Nat) (ok : Bool) (other : Nat) : Nat := if ok then free else other

/-- Whether the FP32 pattern v is finite, with |v × n × 2^d − 2^k| at most 2^u × n × 2^d: v lies within 2^u of
2^k / (n × 2^d). -/
def nearQuotient (v : Nat) (neg : Bool) (n : Nat) (d u : Int) : Bool :=
  match fp32.decode v with
  | .fin s m e =>
    let x : Dy := (Dy.mk (if s then -(m : Int) else m) e).mul ⟨n, d⟩
    let one : Dy := ⟨if neg then -1 else 1, 0⟩
    let diff := x.add ⟨-one.m, one.e⟩
    (Dy.mk diff.m.natAbs diff.e).cmp (Dy.mk n (d + u)) ≤ 0
  | _ => false

/-- FRCP (R142). -/
def rcp (v : Nat) : FRes :=
  match fp32.decode v with
  | .nan s => fp32.nanRes (if s then xNV else 0)
  | .inf n => (fp32.signed n 0, 0)
  | .fin n m e =>
    if m = 0 then (fp32.signed n fp32.infMag, xDZ)
    else if (Dy.mk m e).cmp ⟨1, -128⟩ ≤ 0 then (fp32.signed n fp32.infMag, xOF)
    else
      match (powerOfTwo m e).bind fun k => fp32Pow (-k) with
      | some p => (fp32.signed n p, 0)
      | none =>
        let exact := (fp32.round .rne n (divMag 1 m (-e)).1 (divMag 1 m (-e)).2).1
        let free := (Config.approx .rcp (BitVec.ofNat 32 v)).toNat
        (within free (nearQuotient free n m e (ulpExp (-(e + m.log2) - 1))) exact, 0)

/-- Whether the FP32 pattern v is positive and within 2^u of 1/√(m × 2^e), by the squares of v ± 2^u. -/
def nearRsqrt (v m : Nat) (e u : Int) : Bool :=
  match fp32.decode v with
  | .fin false n g =>
    let lo := (Dy.mk n g).add ⟨-1, u⟩
    let hi := (Dy.mk n g).add ⟨1, u⟩
    (lo.m ≤ 0 || ((lo.mul lo).mul ⟨m, e⟩).cmp ⟨1, 0⟩ ≤ 0) && 0 ≤ ((hi.mul hi).mul ⟨m, e⟩).cmp ⟨1, 0⟩
  | _ => false

/-- FRSQ (R142). -/
def rsq (v : Nat) : FRes :=
  match fp32.decode v with
  | .nan s => fp32.nanRes (if s then xNV else 0)
  | .inf n => if n then fp32.nanRes xNV else (0, 0)
  | .fin n m e =>
    if m = 0 then (fp32.signed n fp32.infMag, xDZ)
    else if n then fp32.nanRes xNV
    else
      match (powerOfTwo m e).bind fun k => if k % 2 = 0 then fp32Pow (-(k / 2)) else none with
      | some p => (p, 0)
      | none =>
        let r := sqrtMag m e
        let d := divMag (2 ^ 128) r.1 (-r.2 - 128)
        let exact := (fp32.round .rne false d.1 d.2).1
        let free := (Config.approx .rsq (BitVec.ofNat 32 v)).toNat
        let top := (-(e + m.log2) - 1) / 2
        (within free (nearRsqrt free m e (ulpExp top)) exact, 0)

/-- Whether an FP32 pattern is finite and between two dyadic values. -/
def between (v : Nat) (lo hi : Dy) : Bool :=
  match fp32.decode v with
  | .fin n m e => 0 ≤ (FVal.fin n m e).dy.cmp lo && (FVal.fin n m e).dy.cmp hi ≤ 0
  | _ => false

/-! ### Approximations, in fixed point with 64 bits after the point -/

/-- 2^64, and ln 2 and π scaled by 2^64 and 2^256, each rounded down. -/
def fixOne : Nat := 2 ^ 64
def fixLn2 : Nat := 0xB17217F7D1CF79AB
def fixPi : Nat := 0x3243F6A8885A308D313198A2E03707344A4093822299F31D0082EFA98EC4E6C89

/-- e^x for x below 1, by its series. -/
def fixExp (x : Nat) : Nat := (List.range 26).foldr (fun i acc => fixOne + x * acc / ((i + 1) * fixOne)) fixOne

/-- log2 of m / 2^l, a number from 1 to below 2, by the series of the inverse hyperbolic tangent. -/
def fixLog2 (m l : Nat) : Nat :=
  let z := (m - 2 ^ l) * fixOne / (m + 2 ^ l)
  let z2 := z * z / fixOne
  2 * z * (List.range 24).foldr (fun i acc => fixOne / (2 * i + 1) + z2 * acc / fixOne) 0 / fixLn2

/-- sin r and cos r for r up to π / 2, by their series. -/
def fixSin (r : Nat) : Int :=
  let r2 : Int := (r * r / fixOne : Nat)
  r * (List.range 14).foldr (fun i (acc : Int) => fixOne - r2 * acc / ((2 * i + 2) * (2 * i + 3) * fixOne)) fixOne / fixOne
def fixCos (r : Nat) : Int :=
  let r2 : Int := (r * r / fixOne : Nat)
  (List.range 14).foldr (fun i (acc : Int) => fixOne - r2 * acc / ((2 * i + 1) * (2 * i + 2) * fixOne)) fixOne

/-- sin and cos of m × 2^e, reduced against π (R142); cos is sin a quarter turn on. -/
def fixTrig (cos : Bool) (m : Nat) (e : Int) : Int :=
  let x := m * 2 ^ (e + 256).toNat % (2 * fixPi)
  let r := x % (fixPi / 2) / 2 ^ 192
  match (x / (fixPi / 2) + (if cos then 1 else 0)) % 4 with
  | 0 => fixSin r
  | 1 => fixCos r
  | 2 => -fixSin r
  | _ => -fixCos r

/-- The value that an implementation returns (R142): the free value where it lies within 2^u of an approximation x, less
2^(top - 40) for what the approximation itself may be off by, else x rounded (log entry 5). -/
def nearFree (fn : Config.Approx) (v : Nat) (x : Dy) (u top : Int) (positive : Bool) : Nat :=
  let free := (Config.approx fn (BitVec.ofNat 32 v)).toNat
  let slack : Dy := ⟨-1, min (u - 2) (top - 40)⟩
  let d := (Dy.mk 1 u).add slack
  let lo := x.add ⟨-d.m, d.e⟩
  within free (between free (if positive ∧ lo.m < 0 then ⟨0, 0⟩ else lo) (x.add d)) (fp32.roundDy .rne false x).1

/-- FEXP2 (R142): within 2 ulp, from 2^k and 2^f for the whole part k and the fraction f of the argument. -/
def exp2 (v : Nat) : FRes :=
  match fp32.decode v with
  | .nan s => fp32.nanRes (if s then xNV else 0)
  | .inf n => (if n then 0 else fp32.infMag, 0)
  | .fin n m e =>
    let a := (FVal.fin n m e).dy
    if 0 ≤ a.cmp ⟨128, 0⟩ then (fp32.infMag, xOF)
    else
      let fl := (roundAt .rdn n m e 0).1
      let k : Int := if n then -(fl : Int) else fl
      match (if a.cmp ⟨k, 0⟩ = 0 then fp32Pow k else none) with
      | some p => (p, 0)
      | none =>
        if k < -200 then (nearFree .exp2 v ⟨0, 0⟩ (-148) (-149) true, 0)
        else
          let x := (roundAt .rdn n m e (-64)).1
          let f := ((if n then -(x : Int) else x) % fixOne).toNat
          (nearFree .exp2 v ⟨fixExp (f * fixLn2 / fixOne), k - 64⟩ (ulpExp k + 1) k true, 0)

/-- FLOG2 (R142): within 2^-22 for an argument from 1/2 to 2, elsewhere within 2 ulp. -/
def log2 (v : Nat) : FRes :=
  match fp32.decode v with
  | .nan s => fp32.nanRes (if s then xNV else 0)
  | .inf n => if n then fp32.nanRes xNV else (fp32.infMag, 0)
  | .fin n m e =>
    if m = 0 then (fp32.signed true fp32.infMag, xDZ)
    else if n then fp32.nanRes xNV
    else
      let k := e + m.log2
      if (powerOfTwo m e).isSome then ((fp32.roundDy .rne false ⟨k, 0⟩).1, 0)
      else
        let x : Dy := ⟨k * fixOne + fixLog2 m m.log2, -64⟩
        if k = -1 ∨ k = 0 then (nearFree .log2 v x (-22) 0 false, 0)
        else
          let top : Int := (x.m.natAbs.log2 : Int) - 64
          (nearFree .log2 v x (ulpExp top + 1) top false, 0)

/-- FSIN and FCOS (R142), within 2^-21; `zero` is the result at a zero argument. -/
def trig (fn : Config.Approx) (zero : Bool → Nat) (v : Nat) : FRes :=
  match fp32.decode v with
  | .nan s => fp32.nanRes (if s then xNV else 0)
  | .inf _ => fp32.nanRes xNV
  | .fin n m e =>
    if m = 0 then (zero n, 0)
    else
      let x := fixTrig (fn == .cos) m e
      (nearFree fn v ⟨if n ∧ fn = .sin then -x else x, -64⟩ (-21) 0 false, 0)

/-! ### Completion of a lane's operation (R132) -/

/-- The rounding mode of an instruction for a thread (R82, R131). -/
def Thread.rmode (t : Thread) (f : Fields) : RMode :=
  let rnd := f.mod.toNat % 8
  rmodeOf (if rnd = 0 then t.fmode.toNat % 8 else rnd)

/-- The enabled flags of a thread that a raised set meets (R131, R132). -/
def Thread.mathTraps (t : Thread) (x : Nat) : Bool := bitsAt t.fmode.toNat 12 5 &&& x != 0

/-- A lane completes a flag-raising operation (R132). -/
def flagged (s : State) (l : Lane) (v : Word) (x : Nat) : Act :=
  match s.thread? l.tid with
  | none => .value s v
  | some t =>
    if t.mathTraps x then .trap (Trap.plain .math x) false
    else .value (s.putThread { t with fmode := t.fmode ||| BitVec.ofNat 64 (16 * x) }) v

/-- An issue of a flag-raising operation: result pattern and raised set from the lane (R130, R132). -/
def issueFloat (r : OpRule) (f : Fields) (op : Lane → FRes) (s : State) : Result :=
  issuePlain r f (fun s l => flagged s l (BitVec.ofNat 64 (op l).1) (op l).2) s

end Sys2Proof.Machine
end

