-- ==== Sys2Proof/Machine/Device.lean ====
section
/-! DEFINITION. The device registers whose behaviour the spec gives: the queue registers of R334. -/

namespace Sys2Proof.Machine

/-- Whether a device address is a queue register's, and then the queue and the word (R334). -/
def queueReg (pa : Nat) : Option (Nat × Nat) :=
  if 0xF800000000 ≤ pa ∧ pa < 0xF800000000 + 32 * 8192 then
    some ((pa - 0xF800000000) / 32, (pa - 0xF800000000) % 32 / 8)
  else none

/-- A queue's register word (R334). -/
def Queue.word (q : Queue) (i : Nat) : Nat :=
  match i with
  | 0 => q.lsz + q.base.toNat
  | 1 => q.owner + (if q.valid then 2 ^ 16 else 0) + (if q.all then 2 ^ 17 else 0)
  | 2 => q.head + q.tail * 2 ^ 24
  | _ => q.words.length

/-- Whether a ring lies in the populated part of its own stack (R199, R334). -/
def ringFits (queue base lsz : Nat) : Bool :=
  let lo := queue / 1024 * 0x1000000000
  lo ≤ base && base + 8 * 2 ^ lsz ≤ lo + 0xEE6B28000

/-- A queue with its words discarded (R334). -/
def Queue.emptied (q : Queue) : Queue := { q with head := 0, tail := 0, words := [] }

/-- A queue with a register word written (R334): words 2 and 3 ignore writes. -/
def Queue.setWord (q : Queue) (queue i v : Nat) : Queue :=
  match i with
  | 0 =>
    let base := bitsAt v 12 40 * 4096
    let lsz := bitsAt v 0 5
    let ok := 5 ≤ lsz && lsz ≤ 24 && ringFits queue base lsz
    { q.emptied with base := BitVec.ofNat 64 base, lsz := if ok then lsz else 0 }
  | 1 => { q.emptied with owner := bitsAt v 0 16, valid := bitAt v 16, all := bitAt v 17 }
  | _ => q

/-- The state with a queue register word written (R334); pushes of the device's own that wait then find room (R341). -/
def State.setQueueWord (s : State) (queue i v : Nat) : State :=
  let q := s.queue queue
  (s.putQueue queue (q.setWord queue i v)).settleQueue queue q.owed.length

/-- n bytes read from device registers; none where the spec gives no register (R334). -/
def State.deviceRead (s : State) (pa n : Nat) : Option Nat :=
  match queueReg pa with
  | none => none
  | some (q, i) =>
    let lo := (s.queue q).word i
    let hi := if n = 16 then (s.queue q).word (i + 1) else 0
    some (bitsAt (lo + hi * 2 ^ 64) (8 * (pa % 8)) (8 * n))

/-- The state with n bytes written to device registers; none where the spec gives no register. A write
narrower than a word leaves its other bytes (log entry 17). -/
def State.deviceRegWrite (s : State) (pa n v : Nat) : Option State :=
  match queueReg pa with
  | none => none
  | some (q, i) =>
    if n = 16 then some ((s.setQueueWord q i (v % 2 ^ 64)).setQueueWord q (i + 1) (v / 2 ^ 64))
    else
      let sh := 8 * (pa % 8)
      let old := (s.queue q).word i
      let new := old - bitsAt old sh (8 * n) * 2 ^ sh + v % 2 ^ (8 * n) * 2 ^ sh
      some (s.setQueueWord q i new)

/-- The state with bytes written to queue registers, each word in one write (R208, R334). -/
def State.regStore (s : State) (pa : Nat) (bs : List Byte) : Nat → State
  | 0 => s
  | fuel + 1 =>
    if bs.isEmpty then s
    else
      let n := min bs.length (8 - pa % 8)
      ((s.deviceRegWrite pa n (leNat (bs.take n))).getD s).regStore (pa + n) (bs.drop n) fuel

/-- n bytes that the device reads on a thread's behalf: of queue registers (R334), or of memory at home. -/
def State.portRead (s : State) (pa n : Nat) : State × List Byte :=
  if (queueReg pa).isSome then (s, (List.range n).map fun i => BitVec.ofNat 8 ((s.deviceRead (pa + i) 1).getD 0))
  else (s.afterRead pa n, s.bytesAt pa n)

/-- The state with bytes that the device writes on a thread's behalf: to queue registers (R334), or to memory at home;
`fw` says that the thread is at firmware level (R418). -/
def State.portWrite (s : State) (guard view pa : Nat) (bs : List Byte) (pz : List Bool) (fw : Bool := false) : State :=
  if (queueReg pa).isSome then s.regStore pa bs bs.length else s.engineWrite guard view pa bs pz fw

end Sys2Proof.Machine
end

