-- ==== Sys2Proof/Machine/Traces.lean ====
section
/-! DEFINITION. Dependence traces as accesses meet them: recording entries (R350, R351), marking dirty
tiles (R352), and the trace area's own reads and writes, whose failure breaks the trace (R349). -/

namespace Sys2Proof.Machine

/-- The physical address that the device reaches through a process's space, as R217 checks it: no
translation, no permission, a hole, or a region in H gives none (R349). A page of mtype 2 reaches queue registers
(R334). -/
def deviceAddr (s : State) (pid : Nat) (level : Level) (va : Int) (k : AccKind) : Option (State × Nat) :=
  if !canonical va then none
  else
    match walk s pid (vaNat va) k level with
    | .error _ => none
    | .ok (s', t, _) =>
      match s'.place t.pa with
      | .ram p => if s'.hostOwns p then none else some (s', p)
      | .remote p => if s'.linked (pkgOf p) then some (s', p) else none
      | .device p => if leafMtype t.leaf = 2 ∧ (queueReg p).isSome then some (s', p) else none
      | .hole => none

/-- The open trace of a spawn, unless it is broken (R349). -/
def State.trace? (s : State) (spawn : Nat) : Option Trace :=
  s.traces.find? fun t => t.spawn == spawn && !t.broken && !t.shut

/-- The state with a trace changed. -/
def State.modTrace (s : State) (spawn : Nat) (f : Trace → Trace) : State :=
  { s with traces := s.traces.map fun t => if t.spawn == spawn then f t else t }

/-- A dword of a trace area at an offset; one that cannot be reached reads as 0. -/
def State.areaRead (s : State) (tr : Trace) (off : Nat) : State × Nat :=
  match deviceAddr s tr.pid tr.level (tr.tarea.toInt + off) .read with
  | some (s', pa) => let r := s'.portRead pa 8; (r.1, leNat r.2)
  | none => (s, 0)

/-- The state with a dword of a trace area written, where it can be reached (R349). -/
def State.areaPut (s : State) (tr : Trace) (off v : Nat) : Option State :=
  (deviceAddr s tr.pid tr.level (tr.tarea.toInt + off) .write).map fun x =>
    x.1.portWrite s.maxGuard s.now x.2 (leBytes 8 v) [] (tr.level == .firmware)

/-- The state with a trace closed (R349, R360): its state word loses open and busy where it can be written, it is one to
report but no longer to record, and its spawn is forgotten once it does not run. -/
def State.closeTrace (s : State) (tr : Trace) : State :=
  let w := (s.areaRead tr 0).2
  let s := (s.areaPut tr 0 (w % 2 ^ 62)).getD s
  let s := s.modTrace tr.spawn fun t => { t with shut := true, busy := false }
  match tabGet s.spawnU.spawns tr.spawn with
  | some sp =>
    if sp.running then s else { s with spawnU := { s.spawnU with spawns := tabDel s.spawnU.spawns tr.spawn } }
  | none => s

/-- The state with a trace broken: it closes at once unless a run or a respawn is in progress (R349). -/
def State.breakTrace (s : State) (spawn : Nat) : State :=
  let s := s.modTrace spawn fun t => { t with broken := true }
  match s.traces.find? fun t => t.spawn == spawn && !t.shut && !t.busy with
  | some t => s.closeTrace t
  | none => s

/-- The state with a dword of a trace area written; one that cannot be reached breaks the trace (R349). -/
def State.areaWrite (s : State) (tr : Trace) (off v : Nat) : State :=
  (s.areaPut tr off v).getD (s.breakTrace tr.spawn)

/-- The offset of a bolt record (R349). -/
def Trace.boltOff (tr : Trace) (b : Nat) : Nat := 0xC0 + b * (16 + 8 * tr.ebolt)

/-- The bytes from one virtual address up to another, which may lie past address 0 (R198). -/
def vaGap (from_ to_ : Nat) : Nat := (to_ + 2 ^ 64 - from_ % 2 ^ 64) % 2 ^ 64

/-- Whether two runs of virtual addresses meet; a run may go on past address 0. -/
def vaMeets (a n b m : Nat) : Bool := vaGap a b < n || vaGap b a < m

/-- The tile of a region that a byte lies in (R348). -/
def TRegion.tile? (r : TRegion) (va : Nat) : Option Nat :=
  if vaGap r.base va < r.len then some (vaGap r.base va / 2 ^ r.tlog) else none

/-- The captured region and the tile that a byte lies in, with the region's bitmap offset. -/
def Trace.tileAt (tr : Trace) (va : Nat) : Option (Nat × Nat × Nat) :=
  tr.regions.findSome? fun p => (p.1.tile? va).map fun t => (p.1.num, t, p.2)

/-- A trace entry (R351). -/
def traceEntry (write : Bool) (num tile : Nat) : Nat := (if write then 2 ^ 63 else 0) + num * 2 ^ 32 + tile

/-- Whether one of the first n entries of a bolt record equals a value. -/
def State.hasEntry (s : State) (tr : Trace) (off v : Nat) (n : Nat) : Bool :=
  (List.range n).any fun i => (s.areaRead tr (off + 16 + 8 * i)).2 == v

/-- The state with an entry in the record of bolt b (R350, R351): an entry already there is not appended
again, and one too many sets ovf. -/
def State.addEntry (s : State) (tr : Trace) (b v : Nat) : State :=
  let off := tr.boltOff b
  let r := s.areaRead tr off
  let s := r.1
  let n := bitsAt r.2 0 32
  if s.hasEntry tr off v n then s
  else if tr.ebolt ≤ n then if bitAt r.2 32 then s else s.areaWrite tr off (r.2 + 2 ^ 32)
  else (s.areaWrite tr (off + 16 + 8 * n) v).areaWrite tr off (r.2 + 1)

/-- The index of a bolt of a spawn (R349). -/
def State.boltIndex (s : State) (spawn fcoord bcoord : Nat) : Nat :=
  match tabGet s.spawnU.spawns spawn with
  | some sp => fcoord * (sp.desc.fm1 + 1) + bcoord
  | none => 0

/-- The state with an access at a byte recorded for bolt b of a spawn (R351). -/
def State.record (s : State) (spawn b va : Nat) (write : Bool) : State :=
  match s.trace? spawn with
  | none => s
  | some tr =>
    match tr.tileAt va with
    | none => s
    | some (num, tile, _) => s.addEntry tr b (traceEntry write num tile)

/-- The state with an access of a thread recorded (R351). -/
def State.recordFor (s : State) (t : Thread) (va : Nat) (write : Bool) : State :=
  if t.spawned then s.record t.spawn (s.boltIndex t.spawn t.fcoord t.bcoord) va write else s

/-- The state with a tile's bit set in the dirty bitmap of one trace, by an OR at its home (R352). -/
def State.markIn (s : State) (tr : Trace) (va : Nat) : State :=
  match tr.tileAt va with
  | none => s
  | some (_, tile, bitmap) =>
    let off := bitmap + 8 * (tile / 64)
    let r := s.areaRead tr off
    r.1.areaWrite tr off (r.2 ||| 2 ^ (tile % 64))

/-- The state with a write through a space marked in every open trace that captured its tile, but for the
writer's own spawn (R352). -/
def State.markDirty (s : State) (space va writerSpawn : Nat) : State :=
  s.traces.foldl
    (fun s tr => if spaceOf tr.pid = space ∧ tr.spawn ≠ writerSpawn ∧ !tr.broken ∧ !tr.shut then s.markIn tr va else s) s

end Sys2Proof.Machine
end

