-- ==== Sys2Proof/Machine/Access.lean ====
section
/-! DEFINITION. Loads and stores from issue to home (R218, R228 to R236, R241 to R252; log entry 7): a load
is checked, reads its value when it is bound, and is delivered later; a store is checked at issue, waits
in its thread's order, and is performed at home or under ownership. -/

namespace Sys2Proof.Machine

/-! ### Binding -/

/-- Whether two byte ranges meet. -/
def meets (a n b m : Nat) : Bool := a < b + m && b < a + n

/-- The bytes of a queued store at n addresses from pa laid over bytes read there. -/
def PStore.over (p : PStore) (pa : Nat) (bs : List Byte) : List Byte :=
  (List.range bs.length).map fun i =>
    if p.pa ≤ pa + i && pa + i < p.pa + p.data.length then (p.data[pa + i - p.pa]?).getD 0 else (bs[i]?).getD 0

/-- Bytes with a thread's own earlier stores laid over them (R230). -/
def State.withOwn (s : State) (tid id pa : Nat) (bs : List Byte) : List Byte :=
  ((s.storesOf tid).filter fun p => p.id < id).foldl (fun bs p => p.over pa bs) bs

/-- The physical range of a load whose translation is known and whose value is not yet read. -/
def Pend.atHome (p : Pend) : Option Nat :=
  match p.phase with
  | .home pa _ _ => some pa
  | _ => none

/-- Whether a pending load may read one of n bytes from pa: it does at home, or, while its address is not translated,
its offset in a 64 KiB page meets theirs. -/
def Pend.mayMeet (p : Pend) (pa n : Nat) : Bool :=
  match p.phase with
  | .home a _ _ => meets a p.size pa n
  | .walk => meets (p.va.toNat % 65536) p.size (pa % 65536) n
  | .ready _ _ _ => false

/-- Whether a thread has an earlier load, not yet bound, that may meet a range (R230). -/
def State.earlierLoad (s : State) (tid id pa n : Nat) : Bool :=
  (s.pendOf tid).any fun p => p.id < id && p.mayMeet pa n

/-- Whether a thread has an earlier RED, not yet performed, that meets a range: its bytes are known only then
(R230, R256). -/
def State.earlierRed (s : State) (tid id pa n : Nat) : Bool :=
  (s.storesOf tid).any fun p => p.id < id && p.red.isSome && meets p.pa p.data.length pa n

/-- Whether a thread has a queued store before an access that meets a range. -/
def State.earlierStore (s : State) (tid id pa n : Nat) : Bool :=
  (s.storesOf tid).any fun p => p.id < id && meets p.pa p.data.length pa n

/-- The register values that z bytes give (R219, R221, R224). -/
def loadValue (signed : Bool) (size : Nat) (bs : List Byte) : Word × Word :=
  let lo := leNat (bs.take 8)
  (if signed then wordOfInt (sextN lo (8 * size)) else BitVec.ofNat 64 lo, BitVec.ofNat 64 (leNat (bs.drop 8)))

/-- Whether a value that a load takes carries poison (R396): of a byte that a queued store of the thread gives, the
store's mark counts, of any other that of the copy that serves the load, `bad`. -/
def State.ownPoison (s : State) (tid id pa n : Nat) (bad : Nat → Bool) : Bool :=
  let own := ((s.storesOf tid).filter fun p => p.id < id).reverse
  (List.range n).any fun i => match own.find? fun p => p.pa ≤ pa + i && pa + i < p.pa + p.data.length with
    | some p => (p.poison[pa + i - p.pa]?).getD false
    | none => bad (pa + i)

/-- Whether a value that a load takes from home carries poison (R396). -/
def State.loadPoison (s : State) (tid id pa n : Nat) : Bool := s.ownPoison tid id pa n fun a => s.poisonAt a 1

/-- The state with a pending result changed. -/
def State.putPend (s : State) (p : Pend) : State :=
  { s with pend := s.pend.map fun q => if q.id == p.id then p else q }

/-- The pending result of an id. -/
def State.pend? (s : State) (id : Nat) : Option Pend := s.pend.find? fun p => p.id == id

/-- The state with a pending result ready, recorded as a read of its bolt (R351). -/
def State.bind (s : State) (p : Pend) (bs : List Byte) (poison : Bool) : State :=
  let v := loadValue p.signed p.size bs
  let s := s.putPend { p with phase := .ready v.1 v.2 poison }
  match s.thread? p.tid with
  | some t => s.recordFor t p.va.toNat false
  | none => s

/-- The state with a register emptied for an asynchronous result (R88). -/
def State.expect (s : State) (tid rd : Nat) (pair : Bool) : State :=
  s.modThread tid fun t =>
    let t := t.setReg rd { t.reg rd with full := false }
    if pair && rd != 0 then t.setReg (rd + 1) { t.reg (rd + 1) with full := false } else t

/-- The state with an asynchronous result in flight (R88). -/
def State.addPend (s : State) (p : Pend) : State :=
  ({ s with pend := s.pend ++ [p] }.expect p.tid p.rd p.pair).bump

/-- Whether a latency core's own copy serves bytes of a line (R249, R251). -/
def State.agentHits (s : State) (agent pa n : Nat) : Bool :=
  let d := s.dir (pa / 128)
  d.holders.any fun h => h.1 == agent && (d.st != .priv || byteMask pa n &&& ~~~h.2 == 0)

/-- Whether a load is performed at home in any case: an acquire, an SC page, or a page of mtype 1 (R208,
R221, R236). -/
def atHomeOnly (p : Pend) (mtype : Nat) : Bool := p.kind == .acquire || p.sc || mtype == 1

/-- Whether the vault cache of a core holds the line of an address (R212). -/
def State.vcacheServes (s : State) (core pa : Nat) : Bool := (s.dir (pa / 128)).holds (agentVault core)

/-- The state with a read-only copy of a line kept (R222); a poisoned line is not. -/
def State.keepRo (s : State) (core line : Nat) : State :=
  if s.poisonAt (128 * line) 128 then s
  else
    let w := s.wcore core
    s.putW core { w with
      ro := tabPut w.ro line (s.bytesAt (128 * line) 128), roBad := w.roBad.filter fun a => a / 128 != line }

/-- The state without a weft core's L1 copy of a line, whose bytes a load has read afresh elsewhere: no later load then
finds older ones there (R230). -/
def State.dropCopy (s : State) (core line : Nat) : State :=
  if isWeft core then s.putW core { s.wcore core with l1 := (s.wcore core).l1.filter fun x => x.line != line } else s

/-- The state with a load bound from bytes that the copy of an agent, its core's vault cache or the core's own caches,
holds current (R212, R249). -/
def State.bindCurrent (s : State) (core agent : Nat) (p : Pend) (pa : Nat) : State :=
  let s := (s.noteSeen p.tid (s.stampOf (pa / 128)).wts).dropCopy core (pa / 128)
  let bad := s.ownPoison p.tid p.id pa p.size fun a => s.poisonAt a 1 || s.copyBad agent a 1
  (s.bind p (s.withOwn p.tid p.id pa (s.bytesAt pa p.size)) bad).afterRead pa p.size

/-- The state with a load past its checks: bound at once where its core holds a copy that serves it (R222, R242,
R249), or its vault cache does, which a miss looks up next (R212); else waiting for home. The thread's own queued stores
lie over the bytes, over those of a read-only copy too: an ROINV may stand between them and the load (R222). -/
def State.startLoad (s : State) (core : Nat) (p : Pend) (a : Access) : State :=
  let mtype := leafMtype a.leaf
  let p := { p with sc := leafSc a.leaf, phase := .home a.pa mtype (leafCls a.leaf) }
  let s := s.putPend p
  if atHomeOnly p mtype || s.earlierLoad p.tid p.id a.pa p.size || s.earlierRed p.tid p.id a.pa p.size then s
  else if isWeft core then
    if p.kind = .readOnly then
      match tabGet (s.wcore core).ro (a.pa / 128) with
      | some d =>
        s.bind p (s.withOwn p.tid p.id a.pa ((d.drop (a.pa % 128)).take p.size))
          (s.ownPoison p.tid p.id a.pa p.size (s.wcore core).roBad.contains)
      | none =>
        if s.vcacheServes core a.pa then (s.keepRo core (a.pa / 128)).bindCurrent core (agentVault core) p a.pa else s
    else
      match s.l1Hit core a.pa p.size with
      | some bs =>
        s.bind p (s.withOwn p.tid p.id a.pa bs) (s.ownPoison p.tid p.id a.pa p.size fun x => s.l1Bad core x 1)
      | none => if s.vcacheServes core a.pa then s.bindCurrent core (agentVault core) p a.pa else s
  else if s.agentHits core a.pa p.size then s.bindCurrent core core p a.pa
  else s

/-- The state with a load of a device register or of a page of mtype 2 performed (R208); an acquire raises its
thread's view to the stamp that the line carries (R243). -/
def State.deviceLoad (s : State) (p : Pend) (pa v : Nat) (poison : Bool) : State :=
  let s := if p.kind = .acquire then s.acquireView p.tid (s.stampOf (pa / 128)).wts else s
  s.bind p (leBytes p.size v) poison

/-! ### Loads -/

/-- The outcome of a load's checks (R217). -/
def loadCheck (s : State) (t : Thread) (core : Nat) (p : Pend) : Checked :=
  checkAccess s t core p.va.toInt p.size false true 0 (p.kind == .acquire)

/-- The state that the checks of an access leave when it waits or traps. -/
def Checked.left (c : Checked) (s : State) : State :=
  match c with
  | .trap k _ => k
  | .wait k => k
  | _ => s

/-- A load for one lane (R216 to R219): a weft core that holds no translation completes the checks later
(R218). A load of mtype 2 follows the thread's loads whose pages are not known yet (R208). -/
def loadLane (f : Fields) (size : Nat) (signed pair : Bool) (kind : PKind) (v : Int) : Body := fun s l =>
  let core := s.cur.core
  let p : Pend :=
    { id := s.seq, tid := l.tid, rd := f.rd, pair, kind, va := wordOfInt v, size, signed, pc := l.thread.pc,
      sc := false, phase := .walk, policy := if f.pol = 0 then none else some l.policy }
  if s.mustWait l.tid then .wait id
  else
    match checkAddress v size with
    | some t => .trap t false
    | none =>
      if isWeft core && (s.tlbHit core l.thread.pid (vaNat v) .read l.thread.plvl).isNone then
        .done (s.addPend { p with sc := s.scAt core l.thread.pid v })
      else
        match loadCheck s l.thread core p with
        | .trap _ t => .trapAfter (fun k => (loadCheck k l.thread core p).left k) t
        | .wait _ => .wait fun k => (loadCheck k l.thread core p).left k
        | .device k pa _ =>
          match k.deviceRead pa size with
          | some x => if s.hasUnchecked l.tid then .wait id else .done ((k.addPend p).deviceLoad p pa x false)
          | none => .device pa
        | .ok k a =>
          if leafMtype a.leaf = 2 then
            if s.hasUnchecked l.tid then .wait id
            else .done (((k.addPend p).deviceLoad p a.pa (k.valueAt a.pa size) (k.poisonAt a.pa size)).afterRead a.pa size)
          else .done ((k.addPend p).startLoad core p a)

/-- An issue of a load (R216). -/
def issueLoad (r : OpRule) (f : Fields) (size : Nat) (signed pair : Bool) (kind : PKind) (s : State) : Result :=
  issue r f false (fun _ => none) false (fun s l => loadLane f size signed pair kind (l.addr f) s l) s

/-- The state with a result delivered to its register (R88, LOAD_COMPLETION). -/
def State.deliver (s : State) (p : Pend) (lo hi : Word) (poison : Bool) : State :=
  let s := { s with pend := s.pend.filter fun q => q.id != p.id }
  let s := s.setReg p.tid p.rd ⟨lo, true, poison⟩
  if p.pair && p.rd != 0 then s.setReg p.tid (p.rd + 1) ⟨hi, true, poison⟩ else s

/-- LOAD_COMPLETION (R88). -/
def tryLoadCompletion (id : Nat) (s : State) : Option State :=
  match s.pend? id with
  | some p => match p.phase with
    | .ready lo hi poison => some (s.deliver p lo hi poison)
    | _ => none
  | none => none

/-- The state with a load cancelled: its registers are full again with the values they had (R88, R218). -/
def State.cancel (s : State) (p : Pend) : State :=
  { s with pend := s.pend.filter fun q => q.id != p.id }.modThread p.tid fun t =>
    let t := t.setReg p.rd { t.reg p.rd with full := true }
    if p.pair && p.rd != 0 then t.setReg (p.rd + 1) { t.reg (p.rd + 1) with full := true } else t

/-- What the late checks of a load come to (R218, R205, R215): at home only the owner is checked again. -/
def lateCheck (s : State) (t : Thread) (core : Nat) (p : Pend) : Checked :=
  match p.phase with
  | .walk => loadCheck s t core p
  | .home pa _ _ => match s.ownCheck pa with
    | .refused k => .trap k ⟨.ownx, p.va, true⟩
    | .wait k => .wait k
    | .ok => .ok s ⟨pa, p.va.toNat, 0⟩
  | .ready _ _ _ => .ok s ⟨0, 0, 0⟩

/-- Whether a thread has an earlier load whose address is not translated. -/
def State.earlierWalk (s : State) (tid id : Nat) : Bool := (s.pendOf tid).any fun p => p.id < id && p.unchecked

/-- Whether a load's walk would pass its checks, its turn come (R208), or start a transfer that it waits for. -/
def walkPasses (s : State) (t : Thread) (core : Nat) (p : Pend) : Bool :=
  match loadCheck s t core p with
  | .ok _ a => leafMtype a.leaf != 2 || !s.earlierWalk p.tid p.id
  | .wait k => k.xfers.length != s.xfers.length
  | .device _ _ _ => !s.earlierWalk p.tid p.id
  | .trap _ _ => false

/-- A device register without behaviour that a load's walk finds. -/
def walkDevice (s : State) (id : Nat) : Option Nat :=
  match s.pend? id with
  | none => none
  | some p =>
    match s.thread? p.tid with
    | none => none
    | some t =>
      match t.core?, p.unchecked with
      | some core, true => match loadCheck s t core p with
        | .device k pa _ => if (k.deviceRead pa p.size).isNone then some pa else none
        | _ => none
      | _, _ => none

/-- The loads that share a walk with a load: on its die, of its space, to its 64 KiB page (R207). -/
def shareWalk (s : State) (p : Pend) (pid core : Nat) : List Nat :=
  (s.pend.filter fun q => q.unchecked && q.va.toNat / 65536 == p.va.toNat / 65536
    && (match s.thread? q.tid with
        | some t => t.pid == pid && (match t.core? with | some c => dieOf c == dieOf core | none => false)
        | none => false)).map Pend.id

/-- The state with the lane of a failed load parked at its region entry (R218, R166), or at the load itself for a machine
check (R201, R397): a lane that is about to leave goes fault-parked (R227), and one that is parked already stays as it
is. -/
def lateFault (s : State) (p : Pend) (tr : Trap) : State :=
  match s.thread? p.tid with
  | none => s
  | some t =>
    match t.loc with
    | .member core slot lane =>
      if t.sub = .faultParked ∨ t.asSub = .faultParked then s
      else
        let s' := parkFault s core slot lane { t with wait := .none } tr p.pc (if tr.cause = .mchk then p.pc else t.rgn)
        if t.sub = .extractParked then
          s'.modThread p.tid fun u => { u with sub := .extractParked, asSub := .faultParked }
        else s'
    | .latency core => enterHandler s core { t with pc := p.pc } tr p.pc
    | _ => s

/-- One load that a walk serves (R207): past its checks, waiting for a transfer, or failed. A load of mtype 2 waits
for the thread's earlier walks (R208). -/
def serveWalk (s : State) (id : Nat) : State :=
  match s.pend? id with
  | none => s
  | some p =>
    match s.thread? p.tid with
    | none => s
    | some t =>
      match t.core?, p.unchecked with
      | some core, true =>
        match loadCheck s t core p with
        | .ok k a =>
          if leafMtype a.leaf = 2 then
            if s.earlierWalk p.tid id then s
            else (k.deviceLoad p a.pa (k.valueAt a.pa p.size) (k.poisonAt a.pa p.size)).afterRead a.pa p.size
          else k.startLoad core p a
        | .wait k => k
        | .device k pa _ =>
          if s.earlierWalk p.tid id then s
          else
            match k.deviceRead pa p.size with
            | some x => k.deviceLoad p pa x false
            | none => s
        | .trap k tr => lateFault (k.cancel p) p tr
      | _, _ => s

/-- PAGE_WALK (R205, R207): one walk serves every load of the die that misses on the page, with its translation or
its fault. -/
def tryPageWalk (id : Nat) (s : State) : Option State :=
  match s.pend? id with
  | none => none
  | some p =>
    match s.thread? p.tid with
    | none => none
    | some t =>
      match t.core?, p.unchecked with
      | some core, true =>
        if walkPasses s t core p then some ((shareWalk s p t.pid core).foldl serveWalk s) else none
      | _, _ => none

/-- LOAD_FAULT (R218): a load whose walk fails, with every load that shares the walk (R207, R227), or one whose
transfer is refused. -/
def tryLoadFault (id : Nat) (s : State) : Option State :=
  match s.pend? id with
  | none => none
  | some p =>
    match s.thread? p.tid with
    | none => none
    | some t =>
      match t.core? with
      | none => none
      | some core =>
        match lateCheck s t core p with
        | .trap k tr =>
          if p.unchecked then some ((shareWalk s p t.pid core).foldl serveWalk s)
          else some (lateFault (k.cancel p) p tr)
        | _ => none

/-! ### Home -/

/-- The lease length of a load's page class in its thread's space (R201, R241). -/
def State.leaseOf (s : State) (pid cls : Nat) : Nat := leaseLen (s.spaceEntry pid) cls

/-- Whether home serves a load by HR: a weft core's, or one that is performed at home in any case. -/
def servedByHr (core : Nat) (p : Pend) (mtype : Nat) : Bool := isWeft core || atHomeOnly p mtype

/-- Whether a load may be bound now: no earlier load or RED of its thread may meet it, and an acquire or SC access
follows the thread's own stores to its bytes (R230, R233). -/
def loadReady (s : State) (p : Pend) (pa : Nat) : Bool :=
  !s.earlierLoad p.tid p.id pa p.size && !s.earlierRed p.tid p.id pa p.size
    && !((p.kind == .acquire || p.sc) && s.earlierStore p.tid p.id pa p.size)

/-- The ownership check of an access at home (R215): one that passed it before is performed before a recall of its line
completes (R227, R385; log entry 81). -/
def homeCheck (s : State) (pa : Nat) : Owned := if !s.hostOwns pa then .ok else s.ownCheck pa

/-- Whether the region of an address is on its way to the host: new lease grants in it wait (R253). -/
def State.leaving (s : State) (pa : Nat) : Bool :=
  match s.ownCheck pa with
  | .ok => false
  | _ => true

/-- A load served at home (R241, R243, R249); one that takes no lease leaves its core no copy that could be older
(R230). -/
def serveLoad (s : State) (core : Nat) (t : Thread) (p : Pend) (pa mtype cls : Nat) : State :=
  let line := pa / 128
  let s := if mtype = 0 then s.dirHR line else s
  let wts := (s.stampOf line).wts
  let copies := isWeft core && mtype == 0 && !p.sc && !s.leaving pa
  let s :=
    if copies && p.kind == .readOnly then s.keepRo core line
    else if copies then s.grantLease core pa (s.leaseOf t.pid cls) (policyClass p.policy pa p.va.toNat)
    else s.dropCopy core line
  let s := s.noteSeen p.tid wts
  let s := if p.kind = .acquire then s.acquireView p.tid wts else s
  (s.bind p (s.withOwn p.tid p.id pa (s.bytesAt pa p.size)) (s.loadPoison p.tid p.id pa p.size)).afterRead pa p.size

/-- The state with the transfer that an access at home needs requested, when it is not requested yet. -/
def newRequest (s k : State) : Option State := if k.xfers.length = s.xfers.length then none else some k

/-- HR (R249): home serves a load. -/
def tryHr (id : Nat) (s : State) : Option State :=
  match s.pend? id with
  | none => none
  | some p =>
    match s.thread? p.tid, p.phase with
    | some t, .home pa mtype cls =>
      match t.core? with
      | none => none
      | some core =>
        if !servedByHr core p mtype || !loadReady s p pa then none
        else
          match homeCheck s pa with
          | .refused _ => none
          | .wait k => newRequest s k
          | .ok => some (serveLoad s core t p pa mtype cls)
    | _, _ => none

/-- The loads of threads on a latency core that a copy of a line would serve. -/
def agentLoads (s : State) (agent line : Nat) : List (Pend × Nat) :=
  s.pend.filterMap fun p =>
    match p.phase, (s.thread? p.tid).map Thread.loc with
    | .home pa mtype _, some (.latency c) =>
      if c = agent ∧ pa / 128 = line ∧ !atHomeOnly p mtype ∧ loadReady s p pa then some (p, pa) else none
    | _, _ => none

/-- GETS (R249): home serves the read miss of a latency core, whose caches take the line in the class of the first load
that it serves (R59). -/
def tryGets (agent line : Nat) (s : State) : Option State :=
  let loads := agentLoads s agent line
  if !isLat agent || loads.isEmpty then none
  else
    match homeCheck s (128 * line) with
    | .refused _ => none
    | .wait k => newRequest s k
    | .ok =>
      let cls := match loads.head? with
        | some p => policyClass p.1.policy p.2 p.1.va.toNat
        | none => .normal
      let s := (s.makeRoom agent line cls).dirGetS agent line
      some (loads.foldl
        (fun s p =>
          let s := s.noteSeen p.1.tid (s.stampOf line).wts
          (s.bind p.1 (s.withOwn p.1.tid p.1.id p.2 (s.bytesAt p.2 p.1.size)) (s.loadPoison p.1.tid p.1.id p.2 p.1.size)).afterRead
            p.2 p.1.size) s)

/-! ### Stores -/

/-- The bytes that a store writes (R220). -/
def storeBytes (size : Nat) (pair : Bool) (lo hi : Word) : List Byte :=
  if pair then leBytes 8 lo.toNat ++ leBytes 8 hi.toNat else leBytes size lo.toNat

/-- Raising the views that a write stamp reaches (R243, R245): the writer's, and that of the core it was on. -/
def State.writerView (s : State) (tid core w : Nat) : State :=
  let s := s.raiseView tid w
  if isWeft core then
    s.putW core { s.wcore core with vfloor := stampMax (s.wcore core).vfloor w, seen := stampMax (s.wcore core).seen w }
  else s

/-- The state without a weft core's read-only copy of a line, which a store of its own has made old (R222). -/
def State.dropRoLine (s : State) (core line : Nat) : State :=
  s.putW core { s.wcore core with ro := tabDel (s.wcore core).ro line }

/-- The state with a write of a thread performed (R243, R249, R260): by WT at home, or under a grant of M to
its core, whose caches take the line in a class (R59). The tile is marked first (R352); `fw` says that the write is at
firmware level (R418). -/
def State.performWrite (s : State) (t : Thread) (core pa va : Nat) (bs : List Byte) (lcls mtype : Nat)
    (race sync byHome : Bool) (fw : Bool := t.plvl == .firmware) (cls : EClass := .normal) : State :=
  let line := pa / 128
  let s := s.markDirty (spaceOf t.pid) va t.spawn
  let mask := byteMask pa bs.length
  let s := if mtype ≠ 0 then s else if byHome then s.dirWT (if isWeft core then some (agentVault core) else none) line mask
    else (((s.makeRoom core line cls).spillBad core line).dirGetM core line mask)
  let w := s.writeStamp line (s.guardFor core pa) (s.viewOf t)
  let s := (s.putStamp line ⟨w, w⟩).writerView t.tid core w
  let s := s.putStored pa bs [] fw
  let s := if isWeft core && mtype = 0 then (s.l1Write core pa bs w (s.leaseOf t.pid lcls)).dropRoLine core line else s
  let s := s.fireMonitors pa
  let s := if race then s.shadowWrite t.tid core pa sync else s
  s.recordFor t va true

/-- op(old, b) of R255 on n-bit elements. -/
def AOp.run (op : AOp) (n old b : Nat) : Nat :=
  match op with
  | .add => (old + b) % 2 ^ n
  | .and => old &&& b
  | .or => old ||| b
  | .xor => old ^^^ b
  | .min => if sextN b n < sextN old n then b else old
  | .max => if sextN old n < sextN b n then b else old
  | .minu => if b < old then b else old
  | .maxu => if old < b then b else old
  | .swap => b
  | .fadd =>
    let fm := if n = 32 then fp32 else fp64
    (fm.add .rne (fm.decode old) (fm.decode b)).1

/-- The bytes that a queued store writes: its own, or what a RED makes of those in memory (R256). -/
def State.storeData (s : State) (p : PStore) : List Byte :=
  match p.red with
  | none => p.data
  | some u => leBytes p.data.length (u.op.run u.bits (s.valueAt p.pa p.data.length) u.arg)

/-- The state with marks of poison that bytes carried before an update still there (log entry 14). -/
def State.keepPoison (s : State) (pa n : Nat) (was : Bool) : State :=
  if was then { s with memPoison := addrMark s.memPoison pa n true } else s

/-- The state with a release of a core counted (R237), its privatised lines merged first (R251). -/
def State.coreRelease (s : State) (core : Nat) : State := (s.bumpRel core).mergeAgent core

/-- The state with a queued store performed (R232), a release counted first; a RED is an atomic, and an element that
carried poison carries it still (R256). -/
def State.performStore (s : State) (p : PStore) (byHome : Bool) : State :=
  let s := { s with stores := s.stores.filter fun q => !(q.id == p.id && q.tid == p.tid) }
  let bs := s.storeData p
  match s.thread? p.tid with
  | none => s.putStored p.pa bs p.poison p.fw
  | some t =>
    let s := if p.rel then s.coreRelease p.core else s
    let n := p.data.length
    let was := p.red.isSome && s.poisonAt p.pa n
    let s := s.performWrite t p.core p.pa p.va.toNat bs p.lcls p.mtype p.race (p.rel || p.red.isSome) byHome p.fw p.cls
    if p.red.isSome then (s.keepPoison p.pa n was).afterRead p.pa n else s

/-- Whether a store may be performed: no earlier load of its thread that it meets is unbound, for a release
none at all, and of one instruction's stores to a byte the lower lanes' come first (R185, R218, R230, R232). -/
def storeReady (s : State) (p : PStore) : Bool :=
  !((s.pendOf p.tid).any fun q => q.id < p.id && !q.bound
      && (p.rel || s.unchecked q || q.mayMeet p.pa p.data.length))
    && !((s.stores.takeWhile fun q => !(q.id == p.id && q.tid == p.tid)).any fun q =>
      q.id == p.id && meets q.pa q.data.length p.pa p.data.length)

/-- Whether a store is performed at home by WT: a weft core's, one to a page of mtype 1, or a RED (R208, R249,
R252). -/
def PStore.byHome (p : PStore) : Bool := isWeft p.core || p.mtype != 0 || p.red.isSome

/-- A store performed once the region of its line is the device's (R215), and before a recall of it completes (R227);
one whose transfer is refused is performed all the same, since it completed when its checks passed (log entry 7). -/
def performChecked (s : State) (p : PStore) (byHome : Bool) : Option State :=
  match homeCheck s p.pa with
  | .wait k => newRequest s k
  | _ => some (s.performStore p byHome)

/-- WT (R249): home performs the oldest store of a thread. -/
def tryWt (tid : Nat) (s : State) : Option State :=
  match s.storesOf tid with
  | p :: _ => if p.byHome && storeReady s p then performChecked s p true else none
  | [] => none

/-- The oldest store of each thread, of those that wait for ownership of a line by a latency core. -/
def agentStores (s : State) (agent line : Nat) (mask : BitVec 128) : List PStore :=
  s.stores.filter fun p =>
    p.core == agent && p.pa / 128 == line && byteMask p.pa p.data.length == mask && !p.byHome && storeReady s p
      && ((s.storesOf p.tid).head?.map PStore.id == some p.id)

/-- GETM (R249): home grants a latency core the ownership that a store needs. -/
def tryGetm (agent line : Nat) (mask : BitVec 128) (s : State) : Option State :=
  if !isLat agent then none
  else
    match agentStores s agent line mask with
    | p :: _ => performChecked s p false
    | [] => none

/-- The outcome of a store's checks (R217). -/
def storeCheck (s : State) (t : Thread) (core : Nat) (v : Int) (size : Nat) (rel : Bool) : Checked :=
  checkAccess s t core v size true false 1 rel

/-- The state with rgn past a store to an SC page, which is irrevocable (R165, R236). -/
def State.pastSc (s : State) (f : Fields) (tid leaf : Nat) : State :=
  if leafSc leaf then s.modThread tid fun t => { t with rgn := nextPc f t.pc } else s

/-- The state with a store queued (R218); on an SC page it is irrevocable, so that rgn moves past it (R165). -/
def State.queueStore (s : State) (f : Fields) (l : Lane) (core : Nat) (a : Access) (bs : List Byte) (rel : Bool) :
    State :=
  let sc := leafSc a.leaf
  let p : PStore :=
    { id := s.seq, tid := l.tid, core, pa := a.pa, va := BitVec.ofNat 64 a.va, space := spaceOf l.thread.pid,
      data := bs, poison := [], lcls := leafCls a.leaf, mtype := leafMtype a.leaf, race := leafRace a.leaf, rel, sc,
      red := none, fw := l.thread.plvl == .firmware
      cls := policyClass (if f.pol = 0 then none else some l.policy) a.pa a.va }
  { s with stores := s.stores ++ [p] }.pastSc f l.tid a.leaf

/-- A store to a page of mtype 2 performed at once, at its own size (R208). -/
def State.deviceTypeStore (s : State) (f : Fields) (l : Lane) (core : Nat) (a : Access) (bs : List Byte)
    (rel : Bool) : State :=
  let s := if rel then s.coreRelease core else s
  (s.performWrite l.thread core a.pa a.va bs 0 2 (leafRace a.leaf) rel true).pastSc f l.tid a.leaf

/-- A store to a device register performed at once (R208, R334), its tile marked first and its access recorded (R351,
R352); none where the spec gives no register. -/
def State.deviceRegStore (s : State) (f : Fields) (l : Lane) (core : Nat) (a : Access) (bs : List Byte) (rel : Bool) :
    Option State :=
  ((s.markDirty (spaceOf l.thread.pid) a.va l.thread.spawn).deviceRegWrite a.pa bs.length (leNat bs)).map fun s =>
    let s := if rel then s.coreRelease core else s
    (s.recordFor l.thread a.va true).pastSc f l.tid a.leaf

/-- A store for one lane (R216 to R220). A trap on an SC page parks the lane at the store itself (R168). -/
def storeLane (f : Fields) (size : Nat) (bs : List Byte) (rel : Bool) (v : Int) : Body := fun s l =>
  let core := s.cur.core
  if s.mustWait l.tid || s.hasUnchecked l.tid then .wait id
  else if rel && l.thread.lost.isSome then .trap ⟨.mchk, l.thread.lost.getD 0, true⟩ false
  else
    match storeCheck s l.thread core v size rel with
    | .trap k t =>
      if isWeft core && k.scAt core l.thread.pid v then
        .trapAfter (fun k => ((storeCheck k l.thread core v size rel).left k).modThread l.tid fun u =>
          { u with rgn := u.pc }) t
      else .trapAfter (fun k => (storeCheck k l.thread core v size rel).left k) t
    | .wait _ => .wait fun k => (storeCheck k l.thread core v size rel).left k
    | .device k pa a => match k.deviceRegStore f l core a bs rel with
      | some k => if rel && !s.performed l.tid then .wait id else .done k
      | none => .device pa
    | .ok k a =>
      if leafMtype a.leaf ≠ 2 then .done (k.queueStore f l core a bs rel)
      else if rel && !s.performed l.tid then .wait id
      else .done (k.deviceTypeStore f l core a bs rel)

/-- An issue of a store (R216). -/
def issueStore (r : OpRule) (f : Fields) (size : Nat) (pair rel : Bool) (s : State) : Result :=
  issue r f false (fun _ => none) false
    (fun s l => storeLane f size (storeBytes size pair l.b l.b2) rel (l.addr f) s l) s

end Sys2Proof.Machine
end

