-- ==== Sys2Proof/Machine/Scratch.lean ====
section
/-! DEFINITION. The scratchpad as lanes reach it (R179 to R195), and what makes an access wait: the range
scoreboard (R189, R275) and the guards of the matrix array (R294, R295). -/

namespace Sys2Proof.Machine

/-! ### What an access waits for -/

/-- Whether a job has retired (R275). -/
def Job.retired (j : Job) : Bool := j.state == .done || j.state == .failed

/-- Whether a region of a job, as its footprint holds it, meets a range of one space code and number. -/
def regionMeets (r : Nat × Nat × Nat × Nat) (code num lo n : Nat) : Bool :=
  r.1 == code && r.2.1 == num && meets r.2.2.1 r.2.2.2 lo n

/-- Whether a range of a bolt's allotment meets a scoreboard entry (R189, R275). -/
def State.scoreboard (s : State) (bolt lo n : Nat) : Bool :=
  s.jobs.any fun j => !j.retired && (j.reads ++ j.writes).any fun r => regionMeets r 1 bolt lo n

/-- Whether a range of a vault meets a scoreboard entry (R275). -/
def State.vaultBoard (s : State) (addr n : Nat) : Bool :=
  s.jobs.any fun j => !j.retired && (j.reads ++ j.writes).any fun r => regionMeets r 2 0 addr n

/-- Every operation that some array has accepted and not yet performed (R294). -/
def State.allArrOps (s : State) : List ArrOp := s.wcores.flatMap fun c => c.2.aq

/-- The size of a canonical plane tile of a depth (R121). -/
def tileBytes (depth : Nat) : Nat := 704 + 512 * depth

/-- The scratchpad ranges that an accepted operation is still to read (R294). -/
def ArrOp.reads (o : ArrOp) : List SpRange :=
  if o.data.isSome then [] else
  match o.kind with
  | .quarter a bs _ => (a :: bs).map fun t => ⟨t.bolt, t.offset, t.offset + tileBytes t.depth⟩
  | .load src _ _ _ => [src]
  | _ => []

/-- The scratchpad range that an accepted operation is still to write (R295). -/
def ArrOp.writes (o : ArrOp) : List SpRange :=
  match o.kind with
  | .store dst _ _ _ => [dst]
  | _ => []

/-- Whether a range of an allotment meets a range. -/
def SpRange.meets (r : SpRange) (bolt lo n : Nat) : Bool := r.bolt == bolt && Machine.meets r.lo (r.hi - r.lo) lo n

/-- Whether a range meets an operand guard (R294). -/
def State.operandGuard (s : State) (bolt lo n : Nat) : Bool :=
  s.allArrOps.any fun o => o.reads.any fun r => r.meets bolt lo n

/-- Whether a range meets the destination of an accepted MSTA (R295). -/
def State.storeGuard (s : State) (bolt lo n : Nat) : Bool :=
  s.allArrOps.any fun o => o.writes.any fun r => r.meets bolt lo n

/-- Whether a lane's access to an allotment must wait (R189, R294, R295). -/
def State.spWaits (s : State) (bolt lo n : Nat) (writes : Bool) : Bool :=
  s.scoreboard bolt lo n || s.storeGuard bolt lo n || (writes && s.operandGuard bolt lo n)

/-- Whether an acquire of a thread is not yet performed, which delays its scratchpad accesses (R187, R232). -/
def State.acquirePending (s : State) (tid : Nat) : Bool :=
  (s.pendOf tid).any fun p => !p.bound && p.kind == .acquire

/-! ### Addresses -/

/-- The position of a weft core in its quad (R182). -/
def quadPos (core : Nat) : Nat := 2 * (rowOf core % 2) + colOf core % 2

/-- The core of the same quad at a position. -/
def quadCore (core pos : Nat) : Nat :=
  let die := core / 36
  36 * die + 6 * (rowOf core / 2 * 2 + pos / 2) + (colOf core / 2 * 2 + pos % 2)

/-- The bolt that a fold selector names (R182, R183): a flock-mate that is resident and not done. -/
def State.foldBolt (s : State) (b : Bolt) (fsel : Nat) : Option Bolt :=
  if fsel = 0 then some b
  else if b.pack then none
  else
    let core := quadCore b.core (quadPos b.core ^^^ fsel)
    (s.bolts.find? fun x =>
      x.2.spawn == b.spawn && !x.2.pack && x.2.fcoord == b.fcoord && x.2.core == core && x.2.bstate == .resident).map
      (·.2)

/-- The size of an allotment (R180). -/
def Bolt.size (b : Bolt) : Nat := 2048 * b.rows

/-- A scratchpad access that R183 admits: the target bolt and offset. -/
structure SpAt where
  bolt : Bolt
  offset : Nat
  deriving DecidableEq, Repr

/-- The checks of R183 for an access of a bolt, after that of the core: v aligned to `align`, z bytes long. -/
def spCheck (s : State) (b : Bolt) (v : Int) (align z : Nat) : Except Trap SpAt :=
  if v < 0 ∨ 2 ^ 23 ≤ v then .error (Trap.int .prot v)
  else if v % align ≠ 0 then .error (Trap.int .align v)
  else
    match s.foldBolt b (v.toNat / 2 ^ 21) with
    | none => .error (Trap.int .prot v)
    | some t =>
      let o := v.toNat % 2 ^ 21
      if t.size < o + z then .error (Trap.int .prot v) else .ok ⟨t, o⟩

/-- The bolt of a lane; a latency core raises NEEDW (R183). -/
def laneBolt (s : State) (l : Lane) (needw : Trap) : Except Trap Bolt :=
  if l.thread.onLatency then .error needw
  else
    match l.thread.bolt.bind s.bolt? with
    | some b => .ok b
    | none => .error needw

/-- The access of a lane (R183): on a latency core NEEDW carries the instruction's address. -/
def laneAccess (s : State) (l : Lane) (v : Int) (z : Nat) : Except Trap SpAt :=
  match laneBolt s l ⟨.needw, l.thread.pc, false⟩ with
  | .error t => .error t
  | .ok b => spCheck s b v z z

/-! ### Contents -/

/-- n bytes of an allotment. -/
def Bolt.bytes (b : Bolt) (o n : Nat) : List Byte := memBytes b.spad o n

/-- Whether a byte of a range lies in a poisoned word (R190). -/
def Bolt.poisoned (b : Bolt) (o n : Nat) : Bool := b.spPoison.any fun w => meets (4 * w) 4 o n

/-- An allotment with bytes written: a word written whole loses its poison (R190). -/
def Bolt.write (b : Bolt) (o : Nat) (bs : List Byte) : Bolt :=
  { b with
    spad := memStore b.spad o bs
    spPoison := b.spPoison.filter fun w => !(o ≤ 4 * w && 4 * w + 4 ≤ o + bs.length) }

/-! ### Passes (R184) -/

/-- The words that an access touches (R179). -/
def wordsOf (o z : Nat) : List Nat := (List.range ((o + z - 1) / 4 + 1 - o / 4)).map fun i => o / 4 + i

/-- The state with the words of a lane's access noted. -/
def State.noteWords (s : State) (lane core o z : Nat) : State :=
  { s with note := { s.note with words := s.note.words ++ [(lane, core, wordsOf o z)] } }

/-- The state with the range of a lane's store noted. -/
def State.noteStored (s : State) (bolt o z : Nat) : State :=
  { s with note := { s.note with stored := s.note.stored ++ [(bolt, o, z)] } }

/-- Elements of a list, each once. -/
def distinct (l : List Nat) : List Nat := l.foldl (fun acc x => if acc.contains x then acc else acc ++ [x]) []

/-- The passes of one subset of lanes of one target group (R184): the fullest of the 32 ports. -/
def portMax (words : List Nat) : Nat :=
  (List.range 32).foldl (fun m p => max m (words.filter fun w => w % 32 == p).length) 0

/-- The passes of one instruction (R184): subsets of lanes by size, target group by target group; `merge` for
loads and stores. -/
def passCount (size : Nat) (merge : Bool) (acc : List (Nat × Nat × List Nat)) : Nat :=
  let per := if size = 16 then 8 else if size = 8 then 16 else 32
  let cores := distinct (acc.map fun x => x.2.1)
  cores.foldl
    (fun n c => (List.range (32 / per)).foldl
      (fun n u =>
        let ws := (acc.filter fun x => x.2.1 == c && x.1 / per == u).flatMap fun x => x.2.2
        n + portMax (if merge then distinct ws else ws)) n) 0

/-- The state with an instruction's passes added to spass of the weft that issued it (R186). -/
def State.countPasses (s : State) (size : Nat) (merge : Bool) : State :=
  match s.cur with
  | .weft c slot _ =>
    let n := passCount size merge s.note.words
    let s := s.modWeft c slot fun w => { w with spass := w.spass + BitVec.ofNat 64 n }
    { s with note := { s.note with words := [] } }
  | _ => s

/-- Whether every byte of a word of a bolt's allotment lies in a stored range. -/
def wordStored (l : List (Nat × Nat × Nat)) (bolt word : Nat) : Bool :=
  (List.range 4).all fun i => l.any fun x => x.1 == bolt && x.2.1 ≤ 4 * word + i && 4 * word + i < x.2.1 + x.2.2

/-- The state with the poison gone from every word that the lanes of one STS wrote whole between them (R190). -/
def State.cleanStored (s : State) : State :=
  let l := s.note.stored
  { s with
    bolts := s.bolts.map fun p => (p.1, { p.2 with spPoison := p.2.spPoison.filter fun w => !wordStored l p.1 w })
    note := { s.note with stored := [] } }

/-- A result with the passes of the instruction counted. -/
def counted (size : Nat) (merge : Bool) (r : Result) : Result :=
  match r with
  | .next s => .next (s.countPasses size merge)
  | r => r

/-! ### The instructions -/

/-- The state with an asynchronous result that already has its value (R88, R191). -/
def State.addReady (s : State) (l : Lane) (rd : Nat) (pair : Bool) (lo hi : Word) (poison : Bool) : State :=
  s.addPend
    { id := s.seq, tid := l.tid, rd, pair, kind := .load, va := 0, size := 8, signed := false, pc := l.thread.pc,
      sc := false, phase := .ready lo hi poison }

/-- LDS for one lane (R192). -/
def ldsLane (f : Fields) (z : Nat) (pair : Bool) : Body := fun s l =>
  match laneAccess s l (l.addr f) z with
  | .error t => .trap t false
  | .ok a =>
    if s.acquirePending l.tid || s.spWaits a.bolt.id a.offset z false then .wait id
    else
      let v := loadValue false z (a.bolt.bytes a.offset z)
      .done ((s.addReady l f.rd pair v.1 v.2 (a.bolt.poisoned a.offset z)).noteWords l.lane a.bolt.core a.offset z)

/-- LDS (R192). -/
def issueLds (r : OpRule) (f : Fields) (z : Nat) (pair : Bool) (s : State) : Result :=
  counted z true (issue r f false (fun _ => none) false (ldsLane f z pair) s)

/-- LDS.b (R192). -/
def execLdsB (f : Fields) (s : State) : Result := issueLds rLds f 1 false s
/-- LDS.h (R192). -/
def execLdsH (f : Fields) (s : State) : Result := issueLds rLds f 2 false s
/-- LDS.w (R192). -/
def execLdsW (f : Fields) (s : State) : Result := issueLds rLds f 4 false s
/-- LDS.d (R192). -/
def execLdsD (f : Fields) (s : State) : Result := issueLds rLds f 8 false s
/-- LDS.q (R192). -/
def execLdsQ (f : Fields) (s : State) : Result := issueLds rLdsQ f 16 true s

/-- STS for one lane (R193), once no checks of its thread's loads are pending (R218). -/
def stsLane (f : Fields) (z : Nat) (pair : Bool) : Body := fun s l =>
  match laneAccess s l (l.addr f) z with
  | .error t => .trap t false
  | .ok a =>
    if s.acquirePending l.tid || s.hasUnchecked l.tid || s.spWaits a.bolt.id a.offset z true then .wait id
    else
      let s := s.modBolt a.bolt.id fun b => b.write a.offset (storeBytes z pair l.b l.b2)
      .done ((s.noteWords l.lane a.bolt.core a.offset z).noteStored a.bolt.id a.offset z)

/-- STS (R193). -/
def issueSts (r : OpRule) (f : Fields) (z : Nat) (pair : Bool) (s : State) : Result :=
  match counted z true (issue r f false (fun _ => none) false (stsLane f z pair) s) with
  | .next s => .next s.cleanStored
  | r => r

/-- STS.b (R193). -/
def execStsB (f : Fields) (s : State) : Result := issueSts rSts f 1 false s
/-- STS.h (R193). -/
def execStsH (f : Fields) (s : State) : Result := issueSts rSts f 2 false s
/-- STS.w (R193). -/
def execStsW (f : Fields) (s : State) : Result := issueSts rSts f 4 false s
/-- STS.d (R193). -/
def execStsD (f : Fields) (s : State) : Result := issueSts rSts f 8 false s
/-- STS.q (R193). -/
def execStsQ (f : Fields) (s : State) : Result := issueSts rStsQ f 16 true s

/-- An element of an atomic: n bits of a word. -/
def elemOf (w : Bool) (v : Word) : Nat := if w then v.toNat % 2 ^ 32 else v.toNat

/-- An old element as an atomic returns it (R98, R194, R255). -/
def oldResult (w : Bool) (old : Nat) : Word := if w then wordOfInt (sextN old 32) else BitVec.ofNat 64 old

/-- SAMO and SCAS for one lane (R194, R195): the new element, if one is written, from the old one. -/
def samoLane (f : Fields) (v : Int) (new : Lane → Nat → Option Nat) : Body := fun s l =>
  let z := if f.w then 4 else 8
  match laneAccess s l v z with
  | .error t => .trap t false
  | .ok a =>
    if s.acquirePending l.tid || s.spWaits a.bolt.id a.offset z true then .wait id
    else if a.bolt.poisoned a.offset z then .trap (Trap.int .poison v) false
    else
      let old := leNat (a.bolt.bytes a.offset z)
      let s := match new l old with
        | some n => s.modBolt a.bolt.id fun b => b.write a.offset (leBytes z n)
        | none => s
      .done ((s.addReady l f.rd false (oldResult f.w old) 0 false).noteWords l.lane a.bolt.core a.offset z)

/-- SAMO (R194): its operation on n-bit elements. -/
def issueSamo (f : Fields) (op : Nat → Nat → Nat → Nat) (s : State) : Result :=
  let n := if f.w then 32 else 64
  counted (n / 8) false
    (issue rSamo f true (fun _ => none) false
      (fun s l => samoLane f (l.addr f) (fun l old => some (op n old (elemOf f.w l.b) % 2 ^ n)) s l) s)

/-- SAMO.add (R194). -/
def execSamoAdd (f : Fields) (s : State) : Result := issueSamo f (fun _ old b => old + b) s
/-- SAMO.max (R194). -/
def execSamoMax (f : Fields) (s : State) : Result :=
  issueSamo f (fun n old b => if sextN old n < sextN b n then b else old) s
/-- SAMO.swap (R194). -/
def execSamoSwap (f : Fields) (s : State) : Result := issueSamo f (fun _ _ b => b) s

/-- SCAS (R195). -/
def execScas (f : Fields) (s : State) : Result :=
  counted (if f.w then 4 else 8) false
    (issue rScas f true (fun _ => none) false
      (fun s l => samoLane f l.a.toInt
        (fun l old => if old = elemOf f.w l.b then some (elemOf f.w l.c) else none) s l) s)

end Sys2Proof.Machine
end

