-- ==== Sys2Proof/Machine/Atomics.lean ====
section
/-! DEFINITION. Atomics, FENCE and monitors (R244, R254 to R261). An atomic is performed when it issues, its
lanes in order, and delivers its result later (log entry 7). -/

namespace Sys2Proof.Machine

/-- The release bit of the order field (R80). Every AMO and CAS is performed when it issues and raises its thread's
view (R243), so that one with the acquire bit does no more. -/
def ordRelease (f : Fields) : Bool := f.mod.getLsbD 1

/-- The checks of an atomic (R217, R254); `reads` says that it needs read permission. -/
def atomicCheck (s : State) (t : Thread) (core : Nat) (v : Int) (z : Nat) (reads : Bool) : Checked :=
  checkAccess s t core v z true reads 2 true

/-- The state with a read-modify-write of an atomic performed at home (R243, R249, R252); without a new value
it acts on the directory as any atomic does (R249, the row WT), and its thread's view rises to the line's write stamp
(R243). The core keeps no bytes of
instruction memory, as after an acquire (R55). An element that carried
poison carries it still (log entry 14). -/
def State.performAtomic (s : State) (l : Lane) (core : Nat) (a : Access) (z : Nat) (new : Option Nat)
    (release : Bool) : State :=
  let s := if release then s.coreRelease core else s
  match new with
  | some v =>
    let was := s.poisonAt a.pa z
    ((s.performWrite l.thread core a.pa a.va (leBytes z v) (leafCls a.leaf) (leafMtype a.leaf)
      (leafRace a.leaf) true true).dropCode core).keepPoison a.pa z was
  | none =>
    let line := a.pa / 128
    let s := if leafMtype a.leaf = 0 then
        s.dirWT (if isWeft core then some (agentVault core) else none) line (byteMask a.pa z)
      else s
    s.acquireView l.tid (s.stampOf line).wts

/-- The size of an atomic's element in bytes (R254). -/
def atomicSize (f : Fields) : Nat := if f.w then 4 else 8

/-- An AMO or a CAS for one lane (R254, R255, R257): the element it writes from the old one, if it writes, and its
result. -/
def atomicLane (f : Fields) (v : Int) (release : Bool) (new : Lane → Nat → Option Nat) (result : Nat → Word) : Body :=
  fun s l =>
  let core := s.cur.core
  let z := atomicSize f
  if s.mustWait l.tid || (release && !s.performed l.tid) then .wait id
  else if release && l.thread.lost.isSome then .trap ⟨.mchk, l.thread.lost.getD 0, true⟩ false
  else
    match atomicCheck s l.thread core v z true with
    | .trap _ t => .trapAfter (fun k => (atomicCheck k l.thread core v z true).left k) t
    | .wait _ => .wait fun k => (atomicCheck k l.thread core v z true).left k
    | .device _ pa _ => .device pa
    | .ok k a =>
      if k.earlierStore l.tid k.seq a.pa z || k.earlierLoad l.tid k.seq a.pa z then .wait id
      else
        let old := leNat (k.bytesAt a.pa z)
        let poison := k.poisonAt a.pa z
        let k := k.recordFor l.thread a.va false
        .done (((k.performAtomic l core a z (new l old) release).afterRead a.pa z).addReady l f.rd false (result old) 0
          poison)

/-- The state with a RED of a lane queued, to be performed at home later (R256). -/
def State.queueRed (s : State) (l : Lane) (core : Nat) (a : Access) (u : Red) (release : Bool) : State :=
  let p : PStore :=
    { id := s.seq, tid := l.tid, core, pa := a.pa, va := BitVec.ofNat 64 a.va, space := spaceOf l.thread.pid,
      data := List.replicate (u.bits / 8) 0, poison := [], lcls := leafCls a.leaf, mtype := leafMtype a.leaf,
      race := leafRace a.leaf, rel := release, sc := leafSc a.leaf, red := some u,
      fw := l.thread.plvl == .firmware }
  { s with stores := s.stores ++ [p] }

/-- A RED for one lane (R256): it completes once its checks pass. -/
def redLane (f : Fields) (op : AOp) (release : Bool) (v : Int) : Body := fun s l =>
  let core := s.cur.core
  let z := atomicSize f
  if s.mustWait l.tid then .wait id
  else if release && l.thread.lost.isSome then .trap ⟨.mchk, l.thread.lost.getD 0, true⟩ false
  else
    match atomicCheck s l.thread core v z false with
    | .trap _ t => .trapAfter (fun k => (atomicCheck k l.thread core v z false).left k) t
    | .wait _ => .wait fun k => (atomicCheck k l.thread core v z false).left k
    | .device _ pa _ => .device pa
    | .ok k a => .done (k.queueRed l core a ⟨op, 8 * z, elemOf f.w l.b⟩ release)

/-- AMO (R255). -/
def issueAmo (op : AOp) (f : Fields) (s : State) : Result :=
  let n := if f.w then 32 else 64
  issue rAmo f true (fun _ => none) false
    (fun s l => atomicLane f (l.addr f) (ordRelease f)
      (fun l old => some (op.run n old (elemOf f.w l.b)))
      (fun old => if op = .fadd then BitVec.ofNat 64 old else oldResult f.w old) s l) s

/-- AMO.add (R255). -/
def execAmoAdd (f : Fields) (s : State) : Result := issueAmo .add f s
/-- AMO.and (R255). -/
def execAmoAnd (f : Fields) (s : State) : Result := issueAmo .and f s
/-- AMO.or (R255). -/
def execAmoOr (f : Fields) (s : State) : Result := issueAmo .or f s
/-- AMO.xor (R255). -/
def execAmoXor (f : Fields) (s : State) : Result := issueAmo .xor f s
/-- AMO.min (R255). -/
def execAmoMin (f : Fields) (s : State) : Result := issueAmo .min f s
/-- AMO.max (R255). -/
def execAmoMax (f : Fields) (s : State) : Result := issueAmo .max f s
/-- AMO.minu (R255). -/
def execAmoMinu (f : Fields) (s : State) : Result := issueAmo .minu f s
/-- AMO.maxu (R255). -/
def execAmoMaxu (f : Fields) (s : State) : Result := issueAmo .maxu f s
/-- AMO.swap (R255). -/
def execAmoSwap (f : Fields) (s : State) : Result := issueAmo .swap f s
/-- AMO.fadd (R255). -/
def execAmoFadd (f : Fields) (s : State) : Result := issueAmo .fadd f s

/-- RED (R256). -/
def issueRed (op : AOp) (f : Fields) (s : State) : Result :=
  issue rRed f true (fun _ => none) false (fun s l => redLane f op (ordRelease f) (l.addr f) s l) s

/-- RED.add (R256). -/
def execRedAdd (f : Fields) (s : State) : Result := issueRed .add f s
/-- RED.and (R256). -/
def execRedAnd (f : Fields) (s : State) : Result := issueRed .and f s
/-- RED.or (R256). -/
def execRedOr (f : Fields) (s : State) : Result := issueRed .or f s
/-- RED.xor (R256). -/
def execRedXor (f : Fields) (s : State) : Result := issueRed .xor f s
/-- RED.min (R256). -/
def execRedMin (f : Fields) (s : State) : Result := issueRed .min f s
/-- RED.max (R256). -/
def execRedMax (f : Fields) (s : State) : Result := issueRed .max f s
/-- RED.minu (R256). -/
def execRedMinu (f : Fields) (s : State) : Result := issueRed .minu f s
/-- RED.maxu (R256). -/
def execRedMaxu (f : Fields) (s : State) : Result := issueRed .maxu f s
/-- RED.fadd (R256). -/
def execRedFadd (f : Fields) (s : State) : Result := issueRed .fadd f s

/-- CAS (R257). -/
def execCas (f : Fields) (s : State) : Result :=
  issue rCas f true (fun _ => none) false
    (fun s l => atomicLane f (l.addr f) (ordRelease f)
      (fun l old => if old = elemOf f.w l.b then some (elemOf f.w l.c) else none) (oldResult f.w) s l) s

/-- One tick after the greatest rts of the copies in a core's L1, if it holds any (R244). -/
def WCore.leaseEnd (w : WCore) : Option Nat :=
  w.l1.foldl (fun m c => some (match m with | none => stampAdd c.rts 1 | some x => stampMax x (stampAdd c.rts 1))) none

/-- The state with a FENCE acted for a thread on a core (R237, R244, R251): the core keeps no bytes of instruction memory
(R55). -/
def State.fence (s : State) (tid core : Nat) : State :=
  let s := (s.coreRelease core).dropCode core
  if isWeft core then
    let w := s.wcore core
    let v := stampMax w.vfloor w.seen
    s.putW core { w with vfloor := match w.leaseEnd with | some x => stampMax v x | none => v }
  else s.raiseView tid (s.lcore core).seen

/-- FENCE (R258). -/
def execFence (f : Fields) (s : State) : Result :=
  issuePlain rNone f
    (fun s l =>
      if l.thread.lost.isSome then .trap ⟨.mchk, l.thread.lost.getD 0, true⟩ false
      else if !s.performed l.tid then .wait id
      else .done (s.fence l.tid s.cur.core)) s

/-- MARM (R259): the arming is registered when it issues, and the acquire load follows. -/
def execMarm (f : Fields) (s : State) : Result :=
  issue rMarm f false (fun _ => none) false
    (fun s l =>
      let core := s.cur.core
      let v := l.addr f
      let p : Pend :=
        { id := s.seq, tid := l.tid, rd := f.rd, pair := false, kind := .acquire, va := wordOfInt v, size := 8,
          signed := false, pc := l.thread.pc, sc := false, phase := .walk }
      let arm (k : State) (pa : Nat) : State :=
        k.modThread l.tid fun t => { t with monitor := ⟨pa / 128, true, false, false⟩ }
      if s.mustWait l.tid then .wait id
      else
        match checkAddress v 8 with
        | some t => .trap t false
        | none =>
          match loadCheck s l.thread core p with
          | .trap _ t => .trapAfter (fun k => (loadCheck k l.thread core p).left k) t
          | .wait _ => .wait fun k => (loadCheck k l.thread core p).left k
          | .device k pa _ => match k.deviceRead pa 8 with
            | some x => if s.hasUnchecked l.tid then .wait id else .done ((arm k pa |>.addPend p).deviceLoad p pa x false)
            | none => .device pa
          | .ok k a =>
            if leafMtype a.leaf = 2 then
              if s.hasUnchecked l.tid then .wait id
              else .done (((arm k a.pa).addPend p).deviceLoad p a.pa (k.valueAt a.pa 8) (k.poisonAt a.pa 8))
            else .done (((arm k a.pa).addPend p).startLoad core p a)) s

/-- The status that MWAIT ends with at once, if it does (R261): fired, lost or never armed, or the bound. -/
def mwaitStatus (m : Monitor) (late : Bool) : Option Nat :=
  if m.fired then some 0 else if !m.armed then some 2 else if late then some 1 else none

/-- MWAIT for one lane (R261). -/
def mwaitLane (f : Fields) (bound : Lane → Option Nat) : Body := fun s l =>
  match mwaitStatus l.thread.monitor (bound l == some 0) with
  | some v => .value (s.modThread l.tid fun t => { t with monitor := Monitor.idle }) (BitVec.ofNat 64 v)
  | none => .placed (s.modThread l.tid fun t =>
      { t with sub := .mwait, wait := .mwait f.rd s.gtick (bound l) })

/-- MWAIT (R261). -/
def execMwait (f : Fields) (s : State) : Result := issuePlain rDst f (mwaitLane f fun _ => none) s

/-- MWAIT.t (R261). -/
def execMwaitT (f : Fields) (s : State) : Result :=
  issue rDst1 f false (fun _ => none) false (mwaitLane f fun l => some (l.a.toNat % 2 ^ 32)) s

/-- MWAIT_TIMEOUT (R261, R262): once the tick of the bound has passed, so that a monitor that fires in it ends the wait
with status 0 (log entry 93). -/
def tryMwaitTimeout (tid : Nat) (s : State) : Option State :=
  match s.thread? tid with
  | none => none
  | some t =>
    match t.sub, t.wait with
    | .mwait, .mwait _ t0 (some b) => if b < s.gtick - t0 then some (s.putThread (t.endMwait 1)) else none
    | _, _ => none

end Sys2Proof.Machine
end

