-- ==== Sys2Proof/Machine/Layouts.lean ====
section
/-! DEFINITION. The layouts in which state stands in memory: the shuttle record (R174, R175), the thread block
(R176), the bolt header (R320 to R324), a weft table entry (R319, R401) and the save area (R400). -/

namespace Sys2Proof.Machine

/-- The bytes of some dwords. -/
def dwordBytes (ws : List Nat) : List Byte := ws.flatMap (leBytes 8)

/-- A dword of a list; 0 beyond its end. -/
def dwordAt (ws : List Nat) (i : Nat) : Nat := (ws[i]?).getD 0

/-- The number of a condition. -/
def flag (b : Bool) : Nat := if b then 1 else 0

/-! ### The shuttle record -/

/-- A port's binding in 16 bits (R175). -/
def bindCode : Port → Nat
  | .unbound => 0
  | .base q => 2 ^ 13 + q
  | .chan n => 2 * 2 ^ 13 + n
  | .inbox => 3 * 2 ^ 13

/-- The binding that 16 bits spell (R175). -/
def bindOf (v : Nat) : Port :=
  match bitsAt v 13 2 with
  | 1 => .base (bitsAt v 0 13)
  | 2 => .chan (bitsAt v 0 13)
  | 3 => .inbox
  | _ => .unbound

/-- The two binding dwords (R174). -/
def Thread.bindWord (t : Thread) (lo : Nat) : Nat :=
  (List.range 4).foldl (fun n i => n + bindCode (t.port (lo + i)) * 2 ^ (16 * i)) 0

/-- The thread with its bindings taken from the two dwords. -/
def Thread.withBinds (t : Thread) (a b : Nat) : Thread :=
  (List.range 8).foldl
    (fun t i => t.setPort i (bindOf (bitsAt (if i < 4 then a else b) (16 * (i % 4)) 16))) t

/-- The full dword (R175): full bits of g1 to g55, with the departure weft. -/
def Thread.fullWord (t : Thread) (dweft : Nat) : Nat :=
  (List.range 55).foldl (fun n i => n + flag (t.reg (i + 1)).full * 2 ^ (i + 1)) 1 + dweft % 32 * 2 ^ 56

/-- The control word (R175). -/
def Thread.controlWord (t : Thread) (sub blocks : Nat) : Nat :=
  t.fmode.toNat % 2 ^ 17 + t.pwait * 2 ^ 17 + t.yage * 2 ^ 33 + blocks * 2 ^ 49 + t.plvl.code * 2 ^ 52
    + flag t.xr * 2 ^ 55 + sub * 2 ^ 57

/-- The view stamp and thread block (R175). -/
def Thread.viewWord (t : Thread) : Nat := bitsAt t.tblk 8 44 + t.vstamp * 2 ^ 44

/-- The shuttle record of a thread (R174), as dwords: `w` and `l` are the weft and lane that it leaves. -/
def Thread.record (t : Thread) (sub blocks w l : Nat) : List Nat :=
  (List.range 55).map (fun i => (t.reg (i + 1)).val.toNat)
    ++ [t.fullWord w, t.pc.toNat % 2 ^ 57 + l * 2 ^ 57, t.rgn.toNat % 2 ^ 57, t.pkey.toNat, t.sigmask.toNat,
        t.bindWord 0, t.bindWord 4, t.controlWord sub blocks, t.viewWord]

/-- The poison marks of the bytes of g1 to g55 as a record or a save holds them (R396). -/
def Thread.regPoison (t : Thread) : List Bool :=
  (List.range 55).flatMap fun i => List.replicate 8 (t.reg (i + 1)).poison

/-- A privilege level from its code (R96). -/
def Level.ofCode (n : Nat) : Level := if n = 0 then .user else if n = 1 then .supervisor else .firmware

/-- An address from its bits [56:0] (R175). -/
def addrOf57 (v : Nat) : Word := wordOfInt (sextN v 57)

/-- The thread with g1 to g55 taken from dwords, their full bits from a full dword, and their poison marks. -/
def Thread.withRegs (t : Thread) (ws : List Nat) (full : Nat) (poison : Nat → Bool) : Thread :=
  (List.range 55).foldl
    (fun t i => t.setReg (i + 1) ⟨BitVec.ofNat 64 (dwordAt ws i), bitAt full (i + 1), poison i⟩) t

/-- fmode as a write leaves it (R131). -/
def fmodeMask (v : Nat) : Nat := bitsAt v 12 5 * 2 ^ 12 + bitsAt v 4 5 * 16 + min 5 (bitsAt v 0 3)

/-- merr as a write leaves it (R306). -/
def merrMask (v : Nat) : Nat :=
  bitsAt v 32 16 * 2 ^ 32 + bitsAt v 16 5 * 2 ^ 16 + bitsAt v 4 1 * 16 + min 8 (bitsAt v 0 4)

/-- A dword of the matrix error log as a bolt keeps it (R307): its reserved bits are 0 (R6). -/
def elogMask (v : Nat) : Nat := bitsAt v 40 24 * 2 ^ 40 + bitsAt v 0 28

/-- The thread with the fields of a control word (R175), its level and sub-state apart; fmode keeps its reserved bits 0
and its frm clamped (R6, R131). -/
def Thread.withControl (t : Thread) (w : Nat) : Thread :=
  { t with fmode := BitVec.ofNat 64 (fmodeMask (bitsAt w 0 17)), pwait := bitsAt w 17 16, yage := bitsAt w 33 16 }

/-- Whether the reserved fields of a shuttle record are 0 and its sub-state is one of R175. -/
def recordValid (ws : List Nat) : Bool :=
  bitsAt (dwordAt ws 55) 61 3 == 0 && bitsAt (dwordAt ws 56) 62 2 == 0 && bitsAt (dwordAt ws 57) 57 7 == 0
    && ((List.range 8).all fun i => !bitAt (dwordAt ws (60 + i / 4)) (16 * (i % 4) + 15))
    && bitsAt (dwordAt ws 62) 60 4 == 0 && bitsAt (dwordAt ws 62) 57 3 < 3 && !bitAt (dwordAt ws 62) 56
    && !bitAt (dwordAt ws 62) 54

/-- The thread as an arriving core takes it from its shuttle record (R175). -/
def Thread.fromRecord (t : Thread) (ws : List Nat) (poison : Nat → Bool) : Thread :=
  let c := dwordAt ws 62
  let t := ((t.withRegs ws (dwordAt ws 55) poison).withBinds (dwordAt ws 60) (dwordAt ws 61)).withControl c
  { t with
    pc := addrOf57 (dwordAt ws 56) &&& ~~~1#64, rgn := addrOf57 (dwordAt ws 57) &&& ~~~1#64, pkey := BitVec.ofNat 64 (dwordAt ws 58),
    sigmask := BitVec.ofNat 64 (dwordAt ws 59) &&& ~~~1#64, blocks := bitsAt c 49 3, plvl := Level.ofCode (bitsAt c 52 2),
    xr := bitAt c 55, vstamp := bitsAt (dwordAt ws 63) 44 20 }

/-! ### The thread block -/

/-- The coordinate word (R176). -/
def Thread.coordWord (t : Thread) : Nat :=
  t.tcoord + t.bcoord * 2 ^ 10 + t.weft % 32 * 2 ^ 12 + t.stage * 2 ^ 17 + t.nstage * 2 ^ 20 + t.home * 2 ^ 24
    + flag t.nw * 2 ^ 32

/-- The state with the thread block of a created thread written, its tid apart (R176, R403). -/
def State.writeBlock (s : State) (t : Thread) : State :=
  s.deviceWrite s.maxGuard (t.tblk + 8)
    (leBytes 8 t.pid ++ leBytes 4 t.spawn ++ leBytes 4 t.fcoord ++ leBytes 8 t.coordWord) []

/-! ### The bolt header -/

/-- The state word (R321). -/
def Bolt.stateWord (b : Bolt) : Nat :=
  b.core + b.bcoord * 2 ^ 8 + b.nstage * 2 ^ 16 + b.rows * 2 ^ 20 + b.nslice * 2 ^ 30 + b.live * 2 ^ 35
    + b.nweft * 2 ^ 46 + b.pclass * 2 ^ 52 + b.prio * 2 ^ 54

/-- A barrier word (R322). -/
def BarWord.code (w : BarWord) : Nat := w.arrived + w.expect * 2 ^ 13 + flag w.gen * 2 ^ 32

/-- A network participation word (R324): gen is that of the latest arrival. -/
def NbWord.code (w : NbWord) : Nat :=
  w.narr + w.pstate * 2 ^ 37 + (w.gen + flag (w.pstate == 2)) % 2 * 2 ^ 39 + w.nbid * 2 ^ 48 + 2 ^ 63

/-- A channel word (R323). -/
def Chan.code (c : Chan) : Nat := c.dcode + c.base * 2 ^ 4 + c.head * 2 ^ 34 + c.tail * 2 ^ 49

/-- A crook word (R324): whether a holding, and of which stage, or else a claim. -/
def crookCode (c : Option (Bool × Nat)) : Nat :=
  match c with
  | none => 0
  | some (true, st) => 1 + st * 4
  | some (false, st) => 2 + st * 4

/-- The holding or the claim of a bolt on its core's crook (R324). -/
def State.crookOf (s : State) (b : Bolt) : Option (Bool × Nat) :=
  let c := (s.wcore b.core).crook
  match c.holder with
  | some (id, st) =>
    if id = b.id then some (true, st) else (c.claims.find? fun x => x.1 == b.id).map fun x => (false, x.2)
  | none => (c.claims.find? fun x => x.1 == b.id).map fun x => (false, x.2)

/-- An offset that a handle's buffer holds (R320). -/
def offWord (o : Option (Option Int)) : Nat :=
  match o with
  | some (some x) => (x % 2 ^ 64).toNat
  | _ => 0

/-- The state of a tile handle (R320). -/
def Bolt.handleWords (b : Bolt) (h : Nat) : List Nat :=
  match tabGet b.handles h with
  | none => [0, 0, 0, 0]
  | some x =>
    let holds (j : Nat) : Bool := match x.offs[j]? with | some (some _) => true | _ => false
    [x.nbuf + 2 ^ 63, offWord x.offs[0]?, offWord x.offs[1]?, flag (holds 0) + 2 * flag (holds 1) + 4 * x.oldest]

/-- The words of a header below its channel words (R320). -/
def Bolt.headWords (b : Bolt) (crook : Option (Bool × Nat)) : List Nat :=
  [b.stateWord, b.fcoord + b.spawn * 2 ^ 32, b.barWord.code] ++ b.stWords.toList.map BarWord.code ++ [b.flWord.code]
    ++ (List.range 4).map (fun j => ((b.nb[j]?).map NbWord.code).getD 0) ++ [crookCode crook]

/-- A bolt header (R320), 512 dwords. -/
def Bolt.header (b : Bolt) (crook : Option (Bool × Nat)) : List Nat :=
  b.headWords crook ++ [b.merr.toNat] ++ (List.range 8).map (fun e => ((b.elog[e]?).map BitVec.toNat).getD 0)
    ++ List.replicate 6 0 ++ (List.range 32).map (fun c => ((tabGet b.chans c).map Chan.code).getD 0)
    ++ (List.range 16).flatMap b.handleWords ++ List.replicate 128 0
    ++ (List.range 16).flatMap fun h => match tabGet b.handles h with
      | some x => (List.range 16).map fun i => ((x.raw[i]?).map BitVec.toNat).getD 0
      | none => List.replicate 16 0

/-- The offset that a buffer holds, from its dword (R320). -/
def offOf (valid : Bool) (w : Nat) : Option Int := if valid then some (BitVec.ofNat 64 w).toInt else none

/-- The bolt with what CTXL.h and a restore load from header dwords (R402, R410): merr, the error log, the heads
and tails of its channels, and the state of its handles. -/
def Bolt.loadHeader (b : Bolt) (ws : List Nat) : Bolt :=
  let chan (p : Nat × Chan) : Nat × Chan :=
    (p.1, { p.2 with tail := bitsAt (dwordAt ws (32 + p.1)) 49 15, head := bitsAt (dwordAt ws (32 + p.1)) 34 15 })
  let handle (p : Nat × Handle) : Option (Nat × Handle) :=
    let w (i : Nat) : Nat := dwordAt ws (64 + 4 * p.1 + i)
    if bitAt (w 0) 63 then
      some (p.1, { p.2 with
        offs := (List.range p.2.nbuf).map fun j => offOf (bitAt (w 3) j) (w (1 + j))
        oldest := bitsAt (w 3) 2 1 })
    else none
  { b with
    merr := BitVec.ofNat 64 (merrMask (dwordAt ws 17))
    elog := (List.range 8).map fun e => BitVec.ofNat 64 (elogMask (dwordAt ws (18 + e)))
    chans := b.chans.map chan
    handles := b.handles.filterMap handle }

/-! ### Weft table entries -/

/-- A thread's registers as they come out of a barrier: those of a carry set keep their values, the others
read zero and full (R32). -/
def Thread.carryOnly (t : Thread) (mask : BitVec 56) : Thread :=
  { t with regs := Vector.ofFn fun i => if mask.getLsbD i.val then t.regs[i] else Reg.zero }

/-- A barrier's code (R319, bkind). -/
def BarKind.code : BarKind → Nat
  | .bar => 0
  | .barSt => 1
  | .fbar => 2

/-- A barrier from its code. -/
def BarKind.ofCode (n : Nat) : BarKind := if n = 0 then .bar else if n = 1 then .barSt else .fbar

/-- The barrier that some lane of a list waits at, as bkind has it (R319): 3 for none. -/
def bkindOf (ts : List Thread) : Nat :=
  (ts.findSome? fun t => match t.sub with | .barrier k => some k.code | _ => none).getD 3

/-- The block count that covers the highest register of a carry set (R31). -/
def coverOf (mask : BitVec 56) : Nat :=
  ((List.range 56).foldl (fun m i => if mask.getLsbD i then i else m) 0) / 8 + 1

/-- The block count of a weft's next phase once lanes of it depart from a barrier (R31, R32). -/
def Weft.nextCount (w : Weft) : Nat := max (if w.next = 0 then w.blocks else w.next) (coverOf w.carry)

/-- The carry word of a weft whose phase word has a state (R319): the block count is that of the phase that follows, of
a reclaimed weft that of the phase which goes on. -/
def Weft.carryWord (w : Weft) (st : Nat) (departs : Bool) : Nat :=
  w.carry.toNat + (if st = 0 then w.next else if st = 2 && !departs then w.blocks else w.nextCount) * 2 ^ 56

/-- The state of a phase word (R319): `departs` says that its barrier has released. -/
def Weft.phaseState (w : Weft) (departs : Bool) : Nat :=
  if w.reclaimed then 2 else if w.wstate = .atBarrier then 1 else if w.wstate = .awaiting ∧ departs then 3 else 0

/-- Dword i of the phase record of a weft (R319): its lanes' registers, those outside the carry set 0 and full while
only that set is kept, then the carry word and the phase word. -/
def Weft.phaseDword (w : Weft) (member : Nat → Option Thread) (i : Nat) : Nat :=
  let ts := (List.range 32).filterMap member
  let departs := ts.any fun t => (match t.sub with | .barrier _ => true | _ => false) && t.bwait.isNone
  let st := w.phaseState departs
  if st = 0 then (if i = 0x701 then 3 * 64 else 0)
  else if i = 0x700 then w.carryWord st departs
  else if i = 0x701 then st + bkindOf ts * 64
  else
    match member (i / 56) with
    | none => 0
    | some t =>
      let t := if st = 2 then t else t.carryOnly w.carry
      if i % 56 = 55 then t.fullWord 0 else (t.reg (i % 56 + 1)).val.toNat

/-- A weft table entry (R401) of a weft whose member threads are given. -/
def Weft.entry (w : Weft) (ts : List Thread) : List Nat :=
  let departs := ts.any fun t => (match t.sub with | .barrier _ => true | _ => false) && t.bwait.isNone
  let k := bkindOf ts
  let st := match w.wstate with
    | .running => 0
    | .atBarrier => 1
    | _ => 2
  [w.carryWord (w.phaseState departs) departs, w.phaseState departs + k * 64, w.spass.toNat, 2 ^ 63 + st, 0, 0, 0, 0]

/-- The weft with what a restore takes from its entry (R401, R402): the block count of a barrier's phase record, where the
phase word shows one. -/
def Weft.fromEntry (w : Weft) (ws : List Nat) : Weft :=
  { w with
    carry := BitVec.ofNat 56 (dwordAt ws 0),
    next := if bitsAt (dwordAt ws 1) 0 3 % 2 = 1 then bitsAt (dwordAt ws 0) 56 3 else 0,
    spass := BitVec.ofNat 64 (dwordAt ws 2) }

/-! ### Saved bolts -/

/-- The dwords at a physical address. -/
def State.dwordsAt (s : State) (pa n : Nat) : List Nat := (List.range n).map fun i => s.valueAt (pa + 8 * i) 8

/-- The state with bytes written by the device from an address up. -/
def State.writeArea (s : State) (pa : Nat) (bs : List Byte) (pz : List Bool) : State :=
  s.deviceWriteRun pa bs pz (bs.length / 128 + 2)

/-- The state with the words that the device keeps current in the header of a bolt, when it is saved, written to
its save area (R400). -/
def State.touchHeader (s : State) (id : Nat) : State :=
  match s.bolt? id with
  | none => s
  | some b => if b.bstate = .saved then s.writeArea b.saveArea (dwordBytes (b.headWords b.savedCrook)) [] else s

end Sys2Proof.Machine
end

