-- ==== Sys2Proof/Machine/Coherence.lean ====
section
/-! DEFINITION. The steps of caches, directory and homes that no instruction names: write-backs and drops (R249, R250),
the drover sweep (R247), dropped translations (R206), ownership transfers and the host's accesses (R215, R253,
R419). -/

namespace Sys2Proof.Machine

/-! ### The directory -/

/-- Whether an agent owns a line in O: the first holder does (R249). -/
def State.ownsLine (s : State) (agent line : Nat) : Bool :=
  (s.dir line).st == .owned && ((s.dir line).holders.head?.map (·.1)) == some agent

/-- The write-back of an agent that holds a line (R249): of one in O by its owner alone. -/
def State.writesBack (s : State) (agent line : Nat) : Option State :=
  if (s.dir line).holds agent && ((s.dir line).st != .owned || s.ownsLine agent line) then some (s.dirPutDirty agent line)
  else none

/-- The drop of a clean copy by an agent that holds a line (R249): of one in O by a sharer. -/
def State.dropsClean (s : State) (agent line : Nat) : Option State :=
  if (s.dir line).holds agent && !s.ownsLine agent line then some (s.dirPutClean agent line) else none

/-- PUTM (R249). -/
def tryPutm (agent line : Nat) (s : State) : Option State := s.writesBack agent line

/-- PUTM. -/
def execPutm (agent line : Nat) (s : State) : Result := .next ((tryPutm agent line s).getD s)

/-- PUTO (R249). -/
def tryPuto (agent line : Nat) (s : State) : Option State :=
  s.writesBack agent line

/-- PUTO. -/
def execPuto (agent line : Nat) (s : State) : Result := .next ((tryPuto agent line s).getD s)

/-- PUTS (R249). -/
def tryPuts (agent line : Nat) (s : State) : Option State :=
  s.dropsClean agent line

/-- PUTS. -/
def execPuts (agent line : Nat) (s : State) : Result := .next ((tryPuts agent line s).getD s)

/-- PUTE (R249). -/
def tryPute (agent line : Nat) (s : State) : Option State :=
  s.dropsClean agent line

/-- PUTE. -/
def execPute (agent line : Nat) (s : State) : Result := .next ((tryPute agent line s).getD s)

/-- DIRECTORY_ENTRY_DROP (R250): home forgets the entry of a line held in E or M; the holder keeps its rights, and
a discovery broadcast finds them again. -/
def tryDirectoryEntryDrop (line : Nat) (s : State) : Option State :=
  let d := s.dir line
  if (d.st == .exclusive || d.st == .modified) && !d.dropped then some (s.putDir line { d with dropped := true }) else none

/-- DIRECTORY_ENTRY_DROP. -/
def execDirectoryEntryDrop (line : Nat) (s : State) : Result := .next ((tryDirectoryEntryDrop line s).getD s)

/-! ### Stamps -/

/-- DROVER_SWEEP (R247) of one line. -/
def tryDroverSweep (line : Nat) (s : State) : Option State :=
  match tabGet s.stamps line with
  | none => none
  | some x =>
    if s.rebase x.rts = x.rts then none else some (s.putStamp line (s.sweep x))

/-- DROVER_SWEEP. -/
def execDroverSweep (line : Nat) (s : State) : Result := .next ((tryDroverSweep line s).getD s)

/-- VFLOOR_REBASE (R247); copies in the core's L1 whose stamps fell as far behind are dropped. -/
def tryVfloorRebase (core : Nat) (s : State) : Option State :=
  let w := s.wcore core
  let v := s.rebase w.vfloor
  if v = w.vfloor then none
  else some (s.putW core { w with
    vfloor := v, seen := s.rebase w.seen, l1 := w.l1.filter fun c => s.rebase c.rts == c.rts })

/-- VFLOOR_REBASE. -/
def execVfloorRebase (core : Nat) (s : State) : Result := .next ((tryVfloorRebase core s).getD s)

/-! ### Translations -/

/-- TRANSLATION_DROP (R206), from a core's TLB and from the one that its die shares. -/
def execTranslationDrop (core space va : Nat) (s : State) : Result :=
  let s := s.putTlb core ((s.tlbOf core).filter fun e => !e.covers space va)
  let die := dieOf core
  .next { s with dtlb := tabPut s.dtlb die ((s.dtlbOf die).filter fun e => !e.covers space va) }

/-! ### Ownership transfers -/

/-- The bytes of a region (R418). -/
def State.regionBase (s : State) (region : Nat) : Nat := (bitsAt s.fw.hdm.toNat 21 31 + region) * 2 ^ 21

/-- Whether a line lies in a region. -/
def State.lineIn (s : State) (region line : Nat) : Bool :=
  s.regionBase region ≤ 128 * line && 128 * line < s.regionBase region + 2 ^ 21

/-- The transfer in progress for a region: its oldest request, once its xfer bit is set (R418, R419). -/
def State.transfer? (s : State) (region : Nat) : Option Xfer :=
  if bitAt (s.ownerByte region) 2 then s.xfers.find? fun x => x.region == region else none

/-- The state with the oldest request for a region begun, unless the region dwells (R419). -/
def State.beginXfer (s : State) (region : Nat) : State :=
  if (tabGet s.dwell region).isSome || !s.xfers.any (fun x => x.region == region) then s
  else s.setOwnerByte region (s.ownerByte region ||| 4)

/-- The state with a write of pin that waited for a transfer of its region to end (R418, R426). -/
def State.settlePin (s : State) (region : Nat) : State :=
  match tabGet s.outside.pins region with
  | some pin =>
    { s with outside := { s.outside with pins := tabDel s.outside.pins region } }.putPin region pin
  | none => s

/-- The state with a region flipped (R253, R419): requests for the same direction are served with it, a write of pin that
waited takes effect (R426), and the region keeps its new state for 256 ticks. -/
def State.flipRegion (s : State) (region : Nat) (toHost : Bool) : State :=
  let s := (s.setOwnerByte region (if toHost then 1 else 0)).settlePin region
  { s with
    xfers := s.xfers.filter fun x => !(x.region == region && x.toHost == toHost)
    dwell := tabPut s.dwell region (s.gtick + 256) }

/-- OWNERSHIP_TRANSFER_H_TO_D (R215, R253): the host has given back every line; what it wrote stands in memory. -/
def tryOwnershipTransferHToD (region : Nat) (s : State) : Option State :=
  match s.transfer? region with
  | some x => if x.toHost then none else some (s.flipRegion region false)
  | none => none

/-- OWNERSHIP_TRANSFER_H_TO_D. -/
def execOwnershipTransferHToD (region : Nat) (s : State) : Result :=
  .next ((tryOwnershipTransferHToD region s).getD s)

/-- Whether every lease on the lines of a region has ended (R253). -/
def State.leasesOver (s : State) (region : Nat) : Bool :=
  s.stamps.all fun p => !s.lineIn region p.1 || !stampLe (stampAdd s.now s.maxGuard) p.2.rts

/-- The state with every copy of a region's lines recalled (R253, R260). -/
def State.recall (s : State) (region : Nat) : State :=
  let forget (c : WCore) : WCore :=
    { c with l1 := c.l1.filter fun x => !s.lineIn region x.line, ro := c.ro.filter fun x => !s.lineIn region x.1 }
  let s' : State :=
    { s with
      dirs := s.dirs.filter fun p => !s.lineIn region p.1
      wcores := s.wcores.map fun p => (p.1, forget p.2) }
  s'.loseMonitors (s.regionBase region) (2 ^ 21)

/-- The state with a host's access performed in a region that it owns (R419): a write is performed at home, under the
greatest guard in force (R243, R246). -/
def State.hostAccess (s : State) (a : Nat × Bool × List Byte) : State :=
  if a.2.1 then s.writeArea a.1 a.2.2 [] else s

/-- Whether a load that has passed its checks has yet to read a region at home (R253, R385): the flip waits for it, so
that no fault of it comes after later instructions (log entry 81). -/
def State.homeLoads (s : State) (region : Nat) : Bool :=
  s.pend.any fun p => match p.phase, s.thread? p.tid with
    | .home pa _ _, some _ => s.lineIn region (pa / 128)
    | _, _ => false

/-- OWNERSHIP_TRANSFER_D_TO_H (R253): the host's waiting accesses are performed after it. -/
def tryOwnershipTransferDToH (region : Nat) (s : State) : Option State :=
  match s.transfer? region with
  | some x =>
    if !x.toHost || !s.leasesOver region || s.homeLoads region then none
    else
      let ops := (s.xfers.filter fun y => y.region == region && y.toHost).filterMap Xfer.host
      some (ops.foldl State.hostAccess ((s.recall region).flipRegion region true))
  | none => none

/-- OWNERSHIP_TRANSFER_D_TO_H. -/
def execOwnershipTransferDToH (region : Nat) (s : State) : Result :=
  .next ((tryOwnershipTransferDToH region s).getD s)

/-- OWNERSHIP_TIMEOUT (R215): the host has let 65,536 ticks pass; the accesses that ask raise OWNX while the transfer
stays open (log entry 64). -/
def tryOwnershipTimeout (region : Nat) (s : State) : Option State :=
  match s.xfers.find? fun x => x.region == region && !x.toHost && !x.late with
  | none => none
  | some x =>
    if s.gtick < x.since + 65536 then none
    else
      some { s with xfers := s.xfers.map fun y => if y == x then { y with late := true } else y }

/-- OWNERSHIP_TIMEOUT. -/
def execOwnershipTimeout (region : Nat) (s : State) : Result := .next ((tryOwnershipTimeout region s).getD s)

/-- REGION_DWELL_EXPIRY (R419): a waiting transfer may start. -/
def tryRegionDwellExpiry (region : Nat) (s : State) : Option State :=
  match tabGet s.dwell region with
  | some t => if s.gtick < t then none else some ({ s with dwell := tabDel s.dwell region }.beginXfer region)
  | none => none

/-- REGION_DWELL_EXPIRY. -/
def execRegionDwellExpiry (region : Nat) (s : State) : Result := .next ((tryRegionDwellExpiry region s).getD s)

/-- HOST_MEM_ACCESS (R215, R418, R419): an access to a region of the host's is performed; one to a region of the
device's asks for the region first. Addresses outside the HDM range do not reach the package. -/
def execHostMemAccess (pa : Nat) (write : Bool) (data : List Byte) (s : State) : Result :=
  .next (match s.region? pa with
    | none => s
    | some r =>
      if (s.region? (pa + (data.length - 1))) ≠ some r then s
      else if s.hostOwns pa && !bitAt (s.ownerByte r) 2 then s.hostAccess (pa, write, data)
      else s.requestXfer r true (some (pa, write, data)))

end Sys2Proof.Machine
end

