-- ==== Sys2Proof/Machine/Control.lean ====
section
/-! DEFINITION. Control and migration (R156 to R173): branches, jumps, waits, regions, traps on purpose,
returns from them, and moves between cores. REJOIN, whose release concerns a whole weft, stands in
Machine/Members.lean. -/

namespace Sys2Proof.Machine

/-- A lane taken to a target: a target with bit 0 set raises ALIGN (R45, R156). -/
def jumpTo (s : State) (target : Word) (link : Option Word) : Act :=
  if target.getLsbD 0 then .trap ⟨.align, target, true⟩ false else .jump s target link

/-- A PC-relative target (R156). -/
def relTarget (f : Fields) (l : Lane) : Word := l.thread.pc + wordOfInt f.simm

/-- A conditional branch (R157). -/
def branch (r : OpRule) (f : Fields) (taken : Lane → Bool) (s : State) : Result :=
  issue r f false (fun _ => none) false
    (fun s l => if taken l then jumpTo s (relTarget f l) none else .done s) s

/-- BR (R157). -/
def execBr (f : Fields) (s : State) : Result := branch rBr f (fun l => condWords f.cond f.w l.a l.b) s

/-- BRZ (R157). -/
def execBrz (f : Fields) (s : State) : Result := branch rBrz f (fun l => l.a == 0) s

/-- BRNZ (R157). -/
def execBrnz (f : Fields) (s : State) : Result := branch rBrz f (fun l => l.a != 0) s

/-- JMP (R158). -/
def execJmp (f : Fields) (s : State) : Result :=
  issuePlain rJmp f (fun s l => jumpTo s (relTarget f l) none) s

/-- JAL (R158). -/
def execJal (f : Fields) (s : State) : Result :=
  issuePlain rJal f (fun s l => jumpTo s (relTarget f l) (some (nextPc f l.thread.pc))) s

/-- JALR (R158). -/
def execJalr (f : Fields) (s : State) : Result :=
  issue rJalr f false (fun _ => none) false
    (fun s l => jumpTo s (wordOfInt (l.addr f)) (some (nextPc f l.thread.pc))) s

/-- YLD (R160). -/
def execYld (f : Fields) (s : State) : Result :=
  issuePlain rNone f (fun s _ => .done { s with note := { s.note with yld := true } }) s

/-- WAITF (R161). -/
def execWaitf (f : Fields) (s : State) : Result :=
  issuePlain rWaitf f
    (fun s l =>
      if f.s1.val < 56 then if (l.thread.reg f.s1).full then .done s else .wait id
      else
        match s.portQueue l.thread f.s1 with
        | .error t => .trap t false
        | .ok q => if (s.queueWords q).isEmpty then .wait id else .done s) s

/-- WAITF.e (R161). -/
def execWaitfE (f : Fields) (s : State) : Result :=
  issuePlain rQunb f
    (fun s l =>
      match s.portQueue l.thread f.s1 with
      | .error t => .trap t false
      | .ok q => if s.queueCap q ≤ (s.queueWords q).length then .wait id else .done s) s

/-- NOP (R162). -/
def execNop (f : Fields) (s : State) : Result := issuePlain rNone f (fun s _ => .done s) s

/-- RGN (R163). -/
def execRgn (f : Fields) (s : State) : Result :=
  issuePlain rNone f (fun s l => .done (s.modThread l.tid fun t => { t with rgn := nextPc f t.pc })) s

/-- SYSC (R169). -/
def execSysc (f : Fields) (s : State) : Result :=
  issue rNone f true (fun _ => none) false (fun _ _ => .trap (Trap.plain .sysc 0) true) s

/-- TRAP (R170): a trap that is taken is irrevocable, so it waits for earlier loads' checks (R218). -/
def execTrap (f : Fields) (s : State) : Result :=
  issue rTrap f false (fun _ => none) false
    (fun s l =>
      if !condWords f.cond f.w l.a l.b then .done s
      else if s.hasUnchecked l.tid then .wait id
      else .trap (Trap.int .trapi f.simm) true) s

/-- BRK (R170). -/
def execBrk (f : Fields) (s : State) : Result :=
  issue rBrk f true (fun _ => none) false (fun _ _ => .trap (Trap.int .brk f.simm) true) s

/-- The end of a handler for one lane (R171): a return that takes an extracted thread back to its weft core
meets a lost store and waits for its earlier accesses as MIG does (R172, R393, R397). -/
def eretBody (target : Lane → Word) (level : Lane → Level) (firmware : Bool) : Body := fun s l =>
  let pc := target l
  let goes := !firmware && l.thread.onLatency && l.thread.xr && pc == l.thread.retPoint
  if pc.getLsbD 0 then .trap ⟨.align, pc, true⟩ false
  else
    match if goes then lostTrap l.thread else none with
    | some t => .trap t false
    | none =>
      if goes && !(s.performed l.tid && s.loadsDone l.tid) then .wait id
      else .placed (returnFromTrap s l.tid pc (level l) firmware)

/-- ERET.s (R171). -/
def execEretS (f : Fields) (s : State) : Result :=
  issuePlain (rNone.at 1) f (eretBody (fun l => l.thread.trappc) (fun _ => .user) false) s

/-- ERET.f (R171). -/
def execEretF (f : Fields) (s : State) : Result :=
  issue (rSrc1.at 2) f false (fun _ => none) false
    (eretBody (fun l => l.thread.trappc) (fun l => if l.a.getLsbD 0 then .supervisor else .user) true) s

/-- A machine check for a store of the thread that an error lost (R397). -/
def lostStore (l : Lane) : Option Trap := lostTrap l.thread

/-- The state with a thread moved on to a destination after an instruction (R172): from a latency core at
once, from a weft once extraction has found its loads complete (R34). -/
def moveThread (s : State) (tid : Nat) (f : Fields) (dest : Dest) : State :=
  match s.thread? tid with
  | none => s
  | some t =>
    let pc := nextPc f t.pc
    let t' := { t with pc, rgn := pc }
    match t.loc with
    | .latency core => departLatency s core t' dest
    | .member _ _ _ => s.putThread { parkExtract t' dest .active with xr := false }
    | _ => s

/-- MIG for one lane (R172): without a destination it completes in place; xr is cleared either way (R393). -/
def migBody (f : Fields) (dest : State → Lane → Except Trap (Option Dest)) : Body := fun s l =>
  match dest s l with
  | .error t => .trap t false
  | .ok none => .done (s.modThread l.tid fun t => { t with xr := false })
  | .ok (some d) =>
    match lostStore l with
    | some t => .trap t false
    | none =>
      if !s.performed l.tid || (l.thread.onLatency && !s.loadsDone l.tid) then .wait id
      else .placed (moveThread s l.tid f d)

/-- MIG.l (R172). -/
def execMigL (f : Fields) (s : State) : Result :=
  issue rNone f true (fun _ => none) false
    (migBody f fun _ l => .ok (if l.thread.onLatency then none else some (.latency none))) s

/-- MIG.w (R172). -/
def execMigW (f : Fields) (s : State) : Result :=
  issue rNone f true (fun _ => none) false
    (migBody f fun _ l => .ok (if l.thread.onLatency then some (migWDest l.thread) else none)) s

/-- The destination of MIG.c (R172). -/
def migCDest (s : State) (l : Lane) : Except Trap (Option Dest) :=
  let c := l.a.toNat % 65536
  if c = s.cur.core then .ok none
  else if isLat c then .ok (some (.latency (some c)))
  else if !isWeft c then .error ⟨.prot, l.a, false⟩
  else if l.thread.boltCore.isSome && l.thread.boltCore != some c then .error ⟨.prot, l.a, false⟩
  else .ok (some (.weft c))

/-- MIG.c (R172). -/
def execMigC (f : Fields) (s : State) : Result :=
  issue rSrc1 f true (fun _ => none) false (migBody f migCDest) s

end Sys2Proof.Machine
end

