-- ==== Sys2Proof/Machine/Formats.lean ====
section
/-! DEFINITION. The storage formats of R116, element packing (R117) and conversion into them (R118). -/

namespace Sys2Proof.Machine

/-- A floating storage format (R116): its widths, the largest finite magnitude bits, and what stands above
them: IEEE infinities and NaNs, the one NaN of FP8E4, or nothing. -/
structure SFmt where
  eb : Nat
  fb : Nat
  bias : Nat
  maxMag : Nat
  ieee : Bool
  topNan : Bool
  deriving DecidableEq, Repr

/-- Width in bits of a storage format (R116). -/
def storeBits (code : Nat) : Nat :=
  match code with
  | 0 => 32
  | 1 | 2 => 16
  | 3 | 4 | 8 | 9 => 8
  | 5 | 6 => 6
  | 7 | 10 | 11 => 4
  | 12 => 2
  | _ => 1

/-- The floating storage formats (R116). -/
def sfmtOf (code : Nat) : Option SFmt :=
  match code with
  | 0 => some ⟨8, 23, 127, 0x7F7FFFFF, true, false⟩
  | 1 => some ⟨5, 10, 15, 0x7BFF, true, false⟩
  | 2 => some ⟨8, 7, 127, 0x7F7F, true, false⟩
  | 3 => some ⟨4, 3, 7, 0x7E, false, true⟩
  | 4 => some ⟨5, 2, 15, 0x7B, true, false⟩
  | 5 => some ⟨3, 2, 3, 0x1F, false, false⟩
  | 6 => some ⟨2, 3, 1, 0x1F, false, false⟩
  | 7 => some ⟨2, 1, 1, 0x7, false, false⟩
  | _ => none

/-- The least exponent of a storage format (R116). -/
def SFmt.emin (f : SFmt) : Int := 1 - (f.bias : Int)

/-- The value of a floating element (R116). -/
def SFmt.decode (f : SFmt) (v : Nat) : FVal :=
  let mag := bitsAt v 0 (f.eb + f.fb)
  let neg := bitAt v (f.eb + f.fb)
  let frac := bitsAt v 0 f.fb
  let ex := bitsAt v f.fb f.eb
  if f.maxMag < mag then if f.ieee && frac = 0 then .inf neg else .nan (f.ieee && !bitAt v (f.fb - 1))
  else if ex = 0 then .fin neg frac (f.emin - f.fb)
  else .fin neg (2 ^ f.fb + frac) (f.emin - f.fb + ex - 1)

/-- The integer value of an integer element; BIN1 is −1 or +1 (R116). -/
def intElem (code v : Nat) : Int :=
  match code with
  | 8 => sextN v 8
  | 9 => (v % 256 : Nat)
  | 10 => sextN v 4
  | 11 => (v % 16 : Nat)
  | 12 => sextN v 2
  | _ => if v % 2 = 0 then -1 else 1

/-- The value of an element of a storage format (R116). -/
def decodeElem (code v : Nat) : FVal :=
  match sfmtOf code with
  | some f => f.decode v
  | none => .fin (intElem code v < 0) (intElem code v).natAbs 0

/-- The bounds of an integer storage format (R116). -/
def intBounds (code : Nat) : Int × Int :=
  match code with
  | 8 => (-128, 127)
  | 9 => (0, 255)
  | 10 => (-8, 7)
  | 11 => (0, 15)
  | _ => (-2, 1)

/-- The canonical NaN of a floating storage format, or what stands for NaN (R118). -/
def SFmt.nan (f : SFmt) : Nat :=
  if f.topNan then 0x7F else if f.ieee then f.maxMag + 1 + 2 ^ (f.fb - 1) else 0

/-- A pattern of a sign and magnitude bits. -/
def SFmt.signed (f : SFmt) (neg : Bool) (mag : Nat) : Nat := (if neg then 2 ^ (f.eb + f.fb) else 0) + mag

/-- A value converted to a floating storage format (R118), with rne. -/
def SFmt.encode (f : SFmt) (v : FVal) : Nat :=
  match v with
  | .nan _ => f.nan
  | .inf n => if f.topNan then 0x7F else f.signed n (if f.ieee then f.maxMag + 1 else f.maxMag)
  | .fin n m e =>
    if m = 0 then f.signed n 0
    else
      let r := (roundMag f.emin f.fb .rne n m e).1
      f.signed n (if f.maxMag < r then if f.ieee then f.maxMag + 1 else f.maxMag else r)

/-- A value converted to an element of a storage format (R118). -/
def encodeElem (code : Nat) (v : FVal) : Nat :=
  match sfmtOf code with
  | some f => f.encode v
  | none =>
    if code = 13 then
      match v with
      | .nan _ => 1
      | .inf n => if n then 0 else 1
      | .fin n _ _ => if n then 0 else 1
    else
      let b := intBounds code
      (match v with
        | .nan _ => 0
        | .inf n => if n then b.1 else b.2
        | .fin n m e =>
          let r := (roundAt .rne n m e 0).1
          max b.1 (min b.2 (if n then -(r : Int) else r))) % 2 ^ storeBits code |>.toNat

/-- Element i of a packed run whose bits are the number v (R117). -/
def elemAt (code v i : Nat) : Nat := bitsAt v (storeBits code * i) (storeBits code)

end Sys2Proof.Machine
end

