-- ==== Sys2Proof/Machine/MemOps.lean ====
section
/-! DEFINITION. Memory instructions but for the vaults' (R216 to R223, R225, R226). -/

namespace Sys2Proof.Machine

/-- LD.b (R219). -/
def execLdB (f : Fields) (s : State) : Result := issueLoad rLd f 1 true false .load s
/-- LD.bu (R219). -/
def execLdBu (f : Fields) (s : State) : Result := issueLoad rLd f 1 false false .load s
/-- LD.h (R219). -/
def execLdH (f : Fields) (s : State) : Result := issueLoad rLd f 2 true false .load s
/-- LD.hu (R219). -/
def execLdHu (f : Fields) (s : State) : Result := issueLoad rLd f 2 false false .load s
/-- LD.w (R219). -/
def execLdW (f : Fields) (s : State) : Result := issueLoad rLd f 4 true false .load s
/-- LD.wu (R219). -/
def execLdWu (f : Fields) (s : State) : Result := issueLoad rLd f 4 false false .load s
/-- LD.d (R219). -/
def execLdD (f : Fields) (s : State) : Result := issueLoad rLd f 8 false false .load s
/-- LD.q (R219). -/
def execLdQ (f : Fields) (s : State) : Result := issueLoad rLdQ f 16 false true .load s

/-- ST.b (R220). -/
def execStB (f : Fields) (s : State) : Result := issueStore rSt f 1 false false s
/-- ST.h (R220). -/
def execStH (f : Fields) (s : State) : Result := issueStore rSt f 2 false false s
/-- ST.w (R220). -/
def execStW (f : Fields) (s : State) : Result := issueStore rSt f 4 false false s
/-- ST.d (R220). -/
def execStD (f : Fields) (s : State) : Result := issueStore rSt f 8 false false s
/-- ST.q (R220). -/
def execStQ (f : Fields) (s : State) : Result := issueStore rStQ f 16 true false s

/-- LDAQ.w (R221). -/
def execLdaqW (f : Fields) (s : State) : Result := issueLoad rLd f 4 true false .acquire s
/-- LDAQ.d (R221). -/
def execLdaqD (f : Fields) (s : State) : Result := issueLoad rLd f 8 false false .acquire s
/-- STRL.w (R221). -/
def execStrlW (f : Fields) (s : State) : Result := issueStore rSt f 4 false true s
/-- STRL.d (R221). -/
def execStrlD (f : Fields) (s : State) : Result := issueStore rSt f 8 false true s

/-- LDRO.w (R222). -/
def execLdroW (f : Fields) (s : State) : Result := issueLoad rLd f 4 true false .readOnly s
/-- LDRO.d (R222). -/
def execLdroD (f : Fields) (s : State) : Result := issueLoad rLd f 8 false false .readOnly s
/-- LDRO.q (R222). -/
def execLdroQ (f : Fields) (s : State) : Result := issueLoad rLdQ f 16 false true .readOnly s

/-- The state with a weft core's read-only copies discarded (R222, R223). -/
def State.dropRo (s : State) (core : Nat) : State :=
  if isWeft core then s.putW core { s.wcore core with ro := [] } else s

/-- ROINV (R223): no copy is filled between an earlier acquire of its thread and it (R232). -/
def execRoinv (f : Fields) (s : State) : Result :=
  issuePlain rNone f (fun s l => if s.mustWait l.tid then .wait id else .done (s.dropRo s.cur.core)) s

/-- The line that a prefetch may fill (R225): none for a non-canonical address, without a translation or
read permission, for a hole, mtype 1 or 2, or a region in H. -/
def prefLine (s : State) (l : Lane) (core : Nat) (v : Int) : Option (State × Nat) :=
  if !canonical v then none
  else
    match translate s core l.thread.pid (vaNat v) .read l.thread.plvl with
    | .error _ => none
    | .ok (s', t) =>
      if leafMtype t.leaf ≠ 0 then none
      else
        match s'.place t.pa with
        | .ram p => if s'.hostOwns p then none else some (s', p / 128)
        | .remote p => if s'.linked (pkgOf p) then some (s', p / 128) else none
        | _ => none

/-- A prefetch for one lane (R225, R248): the fill of a line by a core, in the class of its access (R59), where it has an
effect. -/
def prefLane (f : Fields) (fill : State → Nat → Nat → EClass → State) : Body := fun s l =>
  match prefLine s l s.cur.core (l.addr f) with
  | none => .done s
  | some (k, line) =>
    .done (fill k s.cur.core line
      (policyClass (if f.pol = 0 then none else some l.policy) (128 * line) (vaNat (l.addr f))))

/-- PREF.l2 (R225): the L2 of a die other than the home's is an agent (R248), which does not take a stream line (R214). -/
def execPrefL2 (f : Fields) (s : State) : Result :=
  issue rPref f false (fun _ => none) false
    (prefLane f fun k core line cls =>
      if (128 * line < 0x20000000000 ∧ homeDie (128 * line) = dieOf core) ∨ cls = .stream then k
      else (k.makeRoom (agentL2 (dieOf core)) line cls).dirGetS (agentL2 (dieOf core)) line) s

/-- A line's entry once its modified data stand in memory and an agent's copy is gone (R226). -/
def Dir.flushed (d : Dir) (agent vault : Nat) : Dir :=
  if d.st = .priv then d.merged
  else
    let rest := d.holders.filter fun h => h.1 != agent && h.1 != vault
    let st :=
      match d.st with
      | .modified => DState.exclusive
      | .owned => .shared
      | x => x
    { d with st := if rest.isEmpty then .none else st, holders := rest }

/-- The checks of CLFL (R217, R226): those of a read, alignment apart; a region in H that is not pinned passes its owner
check without a transfer. -/
def clflCheck (s : State) (t : Thread) (core : Nat) (v : Int) : Checked :=
  if !canonical v then .trap s (Trap.intAt .page v)
  else
    match translate s core t.pid (vaNat v) .read t.plvl with
    | .error e => .trap s e
    | .ok (k, tr) =>
      match k.place tr.pa with
      | .ram p =>
        if k.hostOwns p && !k.pinned p then
          match k.raceCheck t.tid core p (vaNat v) 0 tr.leaf false with
          | .ok k' => .ok k' ⟨p, vaNat v, tr.leaf⟩
          | .error e => .trap k e
        else checkPlaced k t.tid core (vaNat v) 0 false tr
      | _ => checkPlaced k t.tid core (vaNat v) 0 false tr

/-- CLFL (R226): beyond its checks it has no effect on a page of mtype 2 or a region in H. -/
def execClfl (f : Fields) (s : State) : Result :=
  issue rClfl f false (fun _ => none) false
    (fun s l =>
      let core := s.cur.core
      let check (k : State) := clflCheck k l.thread core (l.addr f)
      if s.mustWait l.tid then .wait id
      else
        match check s with
        | .trap _ t => .trapAfter (fun k => (check k).left k) t
        | .wait _ => .wait fun k => (check k).left k
        | .device k _ _ => .done k
        | .ok k a =>
          if leafMtype a.leaf = 2 || k.hostOwns a.pa then .done k
          else
            let line := a.pa / 128
            .done ((k.putDir line ((k.dir line).flushed core (agentVault core))).dropCopy core line)) s

end Sys2Proof.Machine
end

