-- ==== Sys2Proof/Machine/Wefts.lean ====
section
/-! DEFINITION. Wefts as their members come and go (R22 to R43): slots and register blocks, REJOIN release,
barriers and waves (R325, R326), joining and leaving a weft, packing, fault reports and retired threads. -/

namespace Sys2Proof.Machine

/-! ### Resources of a weft core -/

/-- The register blocks of a weft core that no weft holds (R31, R33). -/
def State.freeBlocks (s : State) (core : Nat) : Nat :=
  let w := s.wcore core
  w.rfblk - w.slots.foldl (fun n x => if x.2.held then n + x.2.blocks else n) 0

/-- The free weft slots of a core, lowest first (R152). -/
def State.freeSlots (s : State) (core : Nat) : List Nat :=
  (List.range 48).filter fun n => (s.weft? core n).isNone

/-- The bolts whose rows and slices a core holds: the resident ones, and those that ended while a job or the
array still uses them (R289, R317). -/
def State.boltsOn (s : State) (core : Nat) : List Bolt :=
  (s.bolts.filter fun b => b.2.core == core && b.2.bstate != .saved).map (·.2)

/-- The free scratchpad rows of a core (R179, R180). -/
def State.freeRows (s : State) (core : Nat) : Nat := 768 - (s.boltsOn core).foldl (fun n b => n + b.rows) 0

/-- The free accumulator slices of a core (R290). -/
def State.freeSlices (s : State) (core : Nat) : Nat := 64 - (s.boltsOn core).foldl (fun n b => n + b.nslice) 0

/-- A weft without members (R35, R41). -/
def Weft.fresh (bolt widx blocks ready : Nat) : Weft :=
  { bolt, widx, lanes := Vector.replicate 32 none, ovr := 0, ocount := 0, stall := 0, stallPc := 0, spass := 0,
    wstate := .empty, blocks, held := false, next := 0, carry := 0, reclaimed := false, ready, eligible := false, waitQ := [] }

/-- The weft waiting for its register blocks (R33, R41). -/
def Weft.waiting (w : Weft) : Weft := { w with wstate := .awaiting, eligible := true }

/-- The state with a weft in a slot, which takes a new epoch (R388). -/
def State.takeSlot (s : State) (core slot : Nat) (w : Weft) : State :=
  let c := s.wcore core
  (s.putW core { c with
    slots := tabPut c.slots slot w
    epochs := tabPut c.epochs slot (((tabGet c.epochs slot).getD 0 + 1) % 256) }).bump

/-- The slot that a fault report names (R388). -/
def Report.slot (r : Report) : Nat := bitsAt r.word0.toNat 50 6

/-- The lane that a fault report names (R388). -/
def Report.lane (r : Report) : Nat := bitsAt r.word0.toNat 45 5

/-- The state with a slot freed, and with it the reports that wait for its lanes (R152, R412). -/
def State.dropSlot (s : State) (core slot : Nat) : State :=
  let c := s.wcore core
  s.putW core { c with slots := tabDel c.slots slot, reports := c.reports.filter fun r => r.slot != slot }

/-- The threads that are members of a weft, in lane order. -/
def State.memberThreads (s : State) (w : Weft) : List Thread := w.members.filterMap fun p => s.thread? p.2

/-- The wefts of a bolt, with their slots, in increasing weft index. -/
def State.weftsOf (s : State) (b : Bolt) : List (Nat × Weft) :=
  let l := (s.wcore b.core).slots.filter fun x => x.2.bolt == b.id
  (List.range 32).filterMap fun i => l.find? fun x => x.2.widx == i

/-! ### The crook -/

/-- The state with the crook of a core changed. -/
def State.modCrook (s : State) (core : Nat) (f : Crook → Crook) : State :=
  s.putW core { s.wcore core with crook := f (s.wcore core).crook }

/-- The required voters of a stage of a bolt (R301): its wefts with a member lane. -/
def State.voters (s : State) (b : Bolt) (stage : Nat) : List Nat :=
  ((s.weftsOf b).filter fun x => x.2.widx % b.nstage == stage && !x.2.members.isEmpty).map fun x => x.2.widx

/-- A lane past the CROOK.t at which it waits, an instruction of 4 bytes, if it still does (R302). -/
def Thread.pastCrook (t : Thread) : Thread :=
  if t.active ∧ t.wait = .crook t.pc then { t with wait := .none, pc := t.pc + 4 } else t

/-- The lanes of the wefts of a stage of a bolt. -/
def State.stageLanes (s : State) (core bolt stage : Nat) : List Nat :=
  match s.bolt? bolt with
  | none => []
  | some b => ((s.wcore core).slots.filter fun x => x.2.bolt == bolt && x.2.widx % b.nstage == stage).flatMap fun x =>
      x.2.members.map (·.2)

/-- The state with a grant of a core's crook: each waiting CROOK.t of the stage completes (R302). -/
def State.grantCrook (s : State) (core bolt stage : Nat) : State :=
  let k := s.modCrook core fun c =>
    { c with holder := some (bolt, stage), votes := [], tg := (s.wcore core).cyc, lastAcc := none }
  (k.stageLanes core bolt stage).foldl (fun s tid => s.modThread tid Thread.pastCrook) k

/-- The state with a core's crook granted to the head claim, or free when there is none (R302). -/
def State.nextCrook (s : State) (core : Nat) : State :=
  match (s.wcore core).crook.claims with
  | [] => s.modCrook core fun c => { c with holder := none, votes := [], lastAcc := none }
  | (b, st) :: rest => (s.grantCrook core b st).modCrook core fun c => { c with claims := rest }

/-- The state with a claim appended (R302). -/
def State.claimCrook (s : State) (core bolt stage : Nat) : State :=
  s.modCrook core fun c => { c with claims := c.claims ++ [(bolt, stage)] }

/-- The transition of pass complete for a holder (R302). -/
def State.passCrook (s : State) (core : Nat) (b : Bolt) (stage : Nat) : State :=
  if stage + 1 = b.nstage ∧ (s.wcore core).crook.claims ≠ [] then (s.nextCrook core).claimCrook core b.id 0
  else s.grantCrook core b.id ((stage + 1) % b.nstage)

/-- The state with the crook's transitions made that are due (R302): a complete vote, or a holder without a
required voter. -/
def State.settleCrook (s : State) (core : Nat) : Nat → State
  | 0 => s
  | fuel + 1 =>
    let c := (s.wcore core).crook
    match c.holder with
    | none => s
    | some (id, stage) =>
      match s.bolt? id with
      | none => (s.nextCrook core).settleCrook core fuel
      | some b =>
        let need := s.voters b stage
        if c.votes.isEmpty then
          if !need.isEmpty then s
          else if (List.range b.nstage).any fun st => !(s.voters b st).isEmpty then
            (s.passCrook core b stage).settleCrook core fuel
          else (s.nextCrook core).settleCrook core fuel
        else if need.all fun i => c.votes.contains i then
          (if c.kind then s.nextCrook core else s.passCrook core b stage).settleCrook core fuel
        else s

/-- The state with a core's crook settled. -/
def State.checkCrook (s : State) (core : Nat) : State :=
  s.settleCrook core (16 + 16 * (s.wcore core).crook.claims.length)

/-- The state with a bolt that ends or is evicted gone from its core's crook (R302). -/
def State.dropCrook (s : State) (core bolt : Nat) : State :=
  match (s.wcore core).crook.holder with
  | some (id, _) =>
    if id = bolt then (s.nextCrook core).checkCrook core
    else s.modCrook core fun c => { c with claims := c.claims.filter fun x => x.1 != bolt }
  | none => s.modCrook core fun c => { c with claims := c.claims.filter fun x => x.1 != bolt }

/-- The state with a restored bolt's holding or claim on its core's crook (R302). -/
def State.restoreCrook (s : State) (core bolt : Nat) (saved : Option (Bool × Nat)) : State :=
  match saved with
  | none => s
  | some (_, stage) =>
    match (s.wcore core).crook.holder with
    | none => (s.grantCrook core bolt stage).checkCrook core
    | some _ => s.claimCrook core bolt stage

/-! ### Waiting lanes -/

/-- Whether a lane waits at a REJOIN. -/
def Thread.atRejoin (t : Thread) : Bool := match t.sub with | .rejoin _ => true | _ => false

/-- Whether a lane waits at a barrier, or did when it was extraction-parked (R34, R43). -/
def Thread.inBarrier (t : Thread) : Bool :=
  match t.sub, t.asSub with
  | .barrier _, _ => true
  | .extractParked, .barrier _ => true
  | _, _ => false

/-- Whether a lane at a barrier instruction has not arrived yet (R32). -/
def Thread.arriving (t : Thread) : Bool := match t.wait with | .arriving _ _ _ => true | _ => false

/-- Whether a lane has arrived at a barrier where it waits (R40). -/
def Thread.atBarrier (t : Thread) : Bool := t.inBarrier && !t.arriving

/-- Whether the barrier at which a lane waits has released (R32). -/
def Thread.departing (t : Thread) : Bool := t.atBarrier && t.bwait.isNone

/-- Whether a lane has arrived at a barrier that has not released (R32). -/
def Thread.hasArrived (t : Thread) : Bool := t.atBarrier && t.bwait.isSome

/-- The thread past the REJOIN at which it waits (R28). -/
def Thread.leaveRejoin (t : Thread) : Thread :=
  match t.sub with
  | .rejoin len => { t with pc := t.pc + BitVec.ofNat 64 len, sub := .active }
  | _ => t

/-- The least of some numbers. -/
def leastOf : List Nat → Option Nat
  | [] => none
  | a :: l => match leastOf l with
    | some b => some (min a b)
    | none => some a

/-- The state with the lanes that wait at the lowest REJOIN of a weft released (R28). -/
def State.releaseRejoin (s : State) (ts : List Thread) : State :=
  let a := (leastOf (ts.map fun t => t.pc.toNat)).getD 0
  ts.foldl (fun s t => if t.pc.toNat = a then s.putThread t.leaveRejoin else s) s

/-- The state with a weft as it stands once a member left, waited or exited: a pack weft without members is
dissolved (R24), a spawned one is empty and gives up its blocks (R35), a REJOIN releases (R28), and a weft
whose members have all arrived at barriers frees its blocks and keeps its carry set, even one that was reclaimed
(R32, R325). -/
def State.settle (s : State) (core slot : Nat) : State :=
  match s.weft? core slot with
  | none => s
  | some w =>
    let ts := s.memberThreads w
    if ts.isEmpty then
      match s.bolt? w.bolt with
      | some b =>
        if b.pack then { s.dropSlot core slot with bolts := tabDel s.bolts b.id }
        else
          (s.putWeft core slot
            { w with held := false, reclaimed := false, wstate := .empty, eligible := false, carry := 0, next := 0 }).checkCrook
            core
      | none => s.dropSlot core slot
    else if ts.all Thread.atRejoin then s.releaseRejoin ts
    else if w.wstate ≠ .atBarrier ∧ ts.all Thread.hasArrived then
      s.putWeft core slot { w with held := false, reclaimed := false, wstate := .atBarrier, eligible := false }
    else s

/-- The state with the weft that issues settled. -/
def State.settleCur (s : State) : State :=
  match s.cur with
  | .weft c slot _ => s.settle c slot
  | _ => s

/-- A result with the weft that issued settled. -/
def settled (r : Result) : Result :=
  match r with
  | .next s => .next s.settleCur
  | r => r

/-- The state with a lane position of a weft given up (R34, R43). -/
def State.vacate (s : State) (core slot lane : Nat) : State :=
  (s.modWeft core slot fun w =>
    { w.setLane lane none with ovr := w.ovr &&& ~~~BitVec.ofNat 32 (2 ^ lane) }).settle core slot

/-- REJOIN (R28): on a latency core the issuing thread is the only member and goes on at once (R155). -/
def execRejoin (f : Fields) (s : State) : Result :=
  settled
    (issuePlain rNone f
      (fun s l =>
        if l.thread.onLatency then .done s
        else
          .placed { s.modThread l.tid fun t => { t with sub := .rejoin (formLen f.form) } with
            note := { s.note with rejoin := true } }) s)

/-! ### Register blocks -/

/-- The block count that a weft waits for (R31, R32): that of its next phase once lanes depart. -/
def State.needOf (s : State) (w : Weft) : Nat :=
  if (s.memberThreads w).any Thread.departing then w.nextCount else w.blocks

/-- The order in which wefts take blocks (R33): the age of the bolt, then the order of becoming ready. -/
def State.claimKey (s : State) (w : Weft) : Nat × Nat := (((s.bolt? w.bolt).map Bolt.order).getD 0, w.ready)

/-- Whether one pair of numbers precedes another. -/
def pairLt (a b : Nat × Nat) : Bool := a.1 < b.1 || (a.1 == b.1 && a.2 < b.2)

/-- The waiting weft that takes blocks first (R33). -/
def State.firstClaim (s : State) (core : Nat) : Option (Nat × Weft) :=
  ((s.wcore core).slots.filter fun x => x.2.wstate == .awaiting && x.2.eligible).foldl
    (fun m x => match m with
      | none => some x
      | some y => if pairLt (s.claimKey x.2) (s.claimKey y.2) then some x else some y) none

/-- The state with a fault report for a fault-parked lane, from its trap registers (R177, R387, R402). -/
def State.postReport (s : State) (core slot lane : Nat) (t : Thread) : State :=
  let r : Report := ⟨reportWord s core slot lane t.tid (bitsAt t.trapcause.toNat 0 8), t.trapval, t.trappc, false⟩
  s.putW core { s.wcore core with reports := (s.wcore core).reports ++ [r] }

/-- The state with a member lane that is to go on; one that owes a machine check from its arrival takes it first
(R201). -/
def State.goOn (s : State) (t : Thread) : State :=
  match t.entry, t.loc, t.sub with
  | some (_, v), .member core slot lane, .active =>
    let u := { t.trapRegs ⟨.mchk, BitVec.ofNat 64 v.toNat, false⟩ t.pc with sub := .faultParked, rgn := t.pc, entry := none }
    (s.putThread u).postReport core slot lane u
  | _, _, _ => s.putThread t

/-- A lane whose barrier has released as it departs with its weft's carry set (R32). -/
def Thread.depart (t : Thread) (mask : BitVec 56) : Thread :=
  let u := { t.carryOnly mask with carry := 0, nextBlocks := 0 }
  match t.sub with
  | .extractParked => { u with asSub := .active }
  | _ => { u with sub := .active }

/-- A member lane as its weft takes blocks again (R32, R325): it departs from a barrier that has released; at
another it keeps what the phase record held, the carry set unless the weft was reclaimed. -/
def Thread.reseated (t : Thread) (w : Weft) : Thread :=
  if t.departing then t.depart w.carry
  else if t.atBarrier && !w.reclaimed then t.carryOnly w.carry
  else t

/-- The carry set and the next block count that a weft keeps once lanes of it depart: those of the lanes that still
wait (R325). -/
def Weft.leftBehind (w : Weft) (ts : List Thread) : Weft :=
  let l := ts.filter Thread.hasArrived
  { w with carry := l.foldl (fun m t => m ||| t.carry) 0, next := l.foldl (fun n t => max n t.nextBlocks) 0 }

/-- The state with register blocks allotted to a weft (R32, R33): lanes whose barrier has released depart,
observing what preceded it (R325). -/
def State.allot (s : State) (core slot : Nat) (w : Weft) : State :=
  let ts := s.memberThreads w
  let w' := { w with held := true, wstate := .running, reclaimed := false, eligible := false, blocks := s.needOf w }
  let s := s.putWeft core slot (if ts.any Thread.departing then w'.leftBehind ts else w')
  ts.foldl
    (fun s t =>
      let s := s.goOn (t.reseated w)
      if t.departing then s.acquired t.tid else s) s

/-- BLOCK_ALLOTMENT (R33). -/
def tryBlockAllotment (core : Nat) (s : State) : Option State :=
  match s.firstClaim core with
  | some (slot, w) => if s.needOf w ≤ s.freeBlocks core then some (s.allot core slot w) else none
  | none => none

/-- The weft that gives up its blocks to the oldest bolt of a core (R33): one of the youngest bolt that holds
blocks in a weft not waiting at a barrier, that of the lowest slot (log entry 67). -/
def State.reclaimVictim (s : State) (core : Nat) : Option (Nat × Weft) :=
  ((s.wcore core).slots.filter fun x => x.2.held).foldl
    (fun m x => match m with
      | none => some x
      | some y => if (s.claimKey y.2).1 < (s.claimKey x.2).1 then some x else some y) none

/-- The oldest resident bolt of a core; one that has ended is none, though a job still uses its rows (R33, R42). -/
def State.oldestOn (s : State) (core : Nat) : Option Nat :=
  leastOf (((s.boltsOn core).filter fun b => b.bstate == .resident).map Bolt.order)

/-- RECLAIM (R33, R43): it waits for the loads of the weft that gives up its blocks. -/
def tryReclaim (core : Nat) (s : State) : Option State :=
  match s.firstClaim core, s.reclaimVictim core with
  | some (_, w), some (slot, v) =>
    if some (s.claimKey w).1 == s.oldestOn core && s.freeBlocks core < s.needOf w
        && (s.memberThreads v).all fun t => s.loadsDone t.tid then
      some ((s.putWeft core slot
        { v with held := false, wstate := .awaiting, reclaimed := true, eligible := true, ready := s.seq }).bump)
    else none
  | _, _ => none

/-! ### Barriers -/

/-- A barrier word of a bolt's header (R322). -/
def Bolt.bar (b : Bolt) (k : BarKind) (stage : Nat) : BarWord :=
  match k with
  | .bar => b.barWord
  | .barSt => if h : stage < 8 then b.stWords[stage] else b.barWord
  | .fbar => b.flWord

/-- The bolt with a barrier word of its header set. -/
def Bolt.setBar (b : Bolt) (k : BarKind) (stage : Nat) (w : BarWord) : Bolt :=
  match k with
  | .bar => { b with barWord := w }
  | .barSt => if h : stage < 8 then { b with stWords := b.stWords.set stage w } else b
  | .fbar => { b with flWord := w }

/-- The bolts of a bolt's flock that have not ended, in increasing bcoord. -/
def State.flockOf (s : State) (b : Bolt) : List Bolt :=
  let l := s.bolts.filter fun x => !x.2.pack && x.2.spawn == b.spawn && x.2.fcoord == b.fcoord && x.2.bstate != .done
  (List.range 4).filterMap fun i => (l.find? fun x => x.2.bcoord == i).map (·.2)

/-- The bolt whose header holds the word of a barrier: for FBAR bolt 0 of the flock, or once it has ended
the lowest bolt that has not (R325). -/
def State.barHolder (s : State) (b : Bolt) (k : BarKind) : Bolt :=
  match k with
  | .fbar => ((s.flockOf b).head?).getD b
  | _ => b

/-- Whether a thread of a bolt is in the scope of a barrier (R325). -/
def State.inScope (s : State) (b : Bolt) (k : BarKind) (stage : Nat) (t : Thread) : Bool :=
  match k with
  | .bar => t.bolt == some b.id
  | .barSt => t.bolt == some b.id && t.stage == stage
  | .fbar => (s.flockOf b).any fun x => t.bolt == some x.id

/-- The thread as a release leaves it (R32, R43, R392): away from a weft it goes on with the registers of its
own mask, unless a signal has taken it from the barrier already. -/
def Thread.released (t : Thread) : Thread :=
  let blocks := max (if t.nextBlocks = 0 then t.blocks else t.nextBlocks) (coverOf t.carry)
  match t.loc with
  | .member _ _ _ => { t with bwait := none }
  | .saved => { t with bwait := none }
  | _ =>
    if t.inBarrier then
      { t.carryOnly t.carry with bwait := none, sub := .active, blocks, carry := 0, nextBlocks := 0 }
    else { t with bwait := none, blocks, carry := 0, nextBlocks := 0 }

/-- Lists of at most n elements that a list consists of. -/
def chunks (n : Nat) : Nat → List Nat → List (List Nat)
  | 0, _ => []
  | _, [] => []
  | fuel + 1, l => l.take n :: chunks n fuel (l.drop n)

/-- The wave size and the wave gap of a slope value (R96). -/
def slopeSize (v : Word) : Nat := max 1 (bitsAt v.toNat 0 6)
def slopeGap (v : Word) : Nat := bitsAt v.toNat 8 8

/-- The state with the wefts in some slots of a bolt's core formed into waves (R326), with the gap of R372; `net` is
the network barrier that has released, if it is one (R331). -/
def State.addWaves (s : State) (b : Bolt) (slots : List Nat) (net : Option Nat) : State :=
  let slope := (s.ctx b.pid).slope
  let c := s.wcore b.core
  let groups := chunks (slopeSize slope) 48 slots
  s.putW b.core { c with
    waves := c.waves ++ (List.range groups.length).map fun k =>
      { bolt := b.id, slots := (groups[k]?).getD [], at_ := c.cyc + max (slopeGap slope) s.fw.slfloor.toNat * k, net } }

/-- The state with the wefts of a bolt in some slots, whose barrier has released, needing blocks again in waves
(R325, R326); a weft all of whose released lanes are about to leave stays out. -/
def State.formWaves (s : State) (b : Bolt) (slots : List Nat) : State :=
  let ws := (s.weftsOf b).filter fun x =>
    slots.contains x.1 && (s.memberThreads x.2).any fun t => t.departing && t.sub != .extractParked
  (ws.foldl (fun s x => s.putWeft b.core x.1 { x.2 with held := false, wstate := .awaiting, eligible := false }) s).addWaves
    b (ws.map (·.1)) none

/-- The slots of a bolt's wefts with a lane that waits at a barrier in a scope (R325). -/
def State.slotsAt (s : State) (b : Bolt) (wait : Thread → Bool) : List Nat :=
  ((s.weftsOf b).filter fun x => (s.memberThreads x.2).any wait).map (·.1)

/-- The threads that a release lets go on away from their wefts, where no allotment of blocks makes their departure:
those on latency cores and in transit (R32, R325). -/
def State.departAway (s : State) (waits : Thread → Bool) : List Nat :=
  (s.threads.filter fun p => waits p.2 && (match p.2.loc with
    | .latency _ => true
    | .transit _ => true
    | .saved => true
    | _ => false)).map (·.1)

/-- The state with a barrier released (R325): a thread away from its weft departs at once, as an acquire. -/
def State.releaseBarrier (s : State) (b : Bolt) (k : BarKind) (stage : Nat) : State :=
  let holder := s.barHolder b k
  let w := holder.bar k stage
  let bolts := match k with | .fbar => s.flockOf b | _ => [b]
  let waits (t : Thread) : Bool := t.bwait == some k && s.inScope b k stage t
  let at_ := bolts.map fun x => (x, s.slotsAt x fun t => t.atBarrier && waits t)
  let away := s.departAway waits
  let threads := s.threads.map fun p => if waits p.2 then (p.1, p.2.released) else p
  let s := away.foldl (fun s tid => s.acquired tid) { s with threads }
  let s := (s.modBolt holder.id fun x => x.setBar k stage { w with arrived := 0, gen := !w.gen }).touchHeader holder.id
  at_.foldl (fun s x => if x.1.bstate == .resident then s.formWaves x.1 x.2 else s) s

/-- The state with a barrier released if every thread in its scope has arrived (R325). -/
def State.checkBarrier (s : State) (bolt : Nat) (k : BarKind) (stage : Nat) : State :=
  match s.bolt? bolt with
  | none => s
  | some b =>
    let w := (s.barHolder b k).bar k stage
    if w.arrived = w.expect ∧ 0 < w.arrived then s.releaseBarrier b k stage else s

/-- The block count that a thread's phase has (R87). -/
def State.phaseCount (s : State) (t : Thread) : Nat := s.blockCount t

/-- The state with a thread arrived at a barrier (R32, R325, R327), as a release (R231): its pc and rgn move
past the instruction. -/
def State.arriveBarrier (s : State) (tid : Nat) (k : BarKind) (mask : BitVec 56) (count len : Nat) : State :=
  match s.thread? tid with
  | none => s
  | some t =>
    match t.bolt.bind s.bolt? with
    | none => s
    | some b =>
      let n := if count = 0 then s.phaseCount t else count
      let pc := t.pc + BitVec.ofNat 64 len
      let s := (s.released tid).putThread
        { t with pc, rgn := pc, sub := .barrier k, wait := .none, bwait := some k, carry := mask, nextBlocks := n }
      let s := match t.loc with
        | .member core slot _ =>
          (s.modWeft core slot fun w => { w with carry := w.carry ||| mask, next := max w.next n }).settle core slot
        | _ => s
      let holder := s.barHolder b k
      let s := (s.modBolt holder.id fun x =>
        x.setBar k t.stage { x.bar k t.stage with arrived := (x.bar k t.stage).arrived + 1 }).touchHeader holder.id
      s.checkBarrier b.id k t.stage

/-- Whether a matrix operation that a weft issued waits for its acceptance: its leader still stands at it (R295, R316). -/
def State.matrixWaits (s : State) (b : Bolt) (weft : Nat) : Bool :=
  (s.weftsOf b).any fun x => x.2.widx == weft && x.2.waitQ.any fun q => match s.thread? q.leader with
    | some t => t.active && t.pc == q.pc
    | none => false

/-- Whether every matrix operation that a weft issued earlier has been accepted and has read its sources, and every MSTA
has performed its writes (R295). -/
def State.matrixDone (s : State) (b : Bolt) (weft : Nat) : Bool :=
  ((s.wcore b.core).aq.all fun o => !(o.bolt == b.id && o.widx == weft) || (o.reads.isEmpty && o.writes.isEmpty))
    && !s.matrixWaits b weft

/-- Whether a thread meets the conditions of arrival at a barrier (R32, R187, R295, R231): its loads have
completed, its earlier accesses are performed, and its weft's matrix operations are done. -/
def State.mayArrive (s : State) (t : Thread) : Bool :=
  s.loadsDone t.tid && s.performed t.tid &&
    (match t.loc, t.bolt.bind s.bolt? with
     | .member _ _ _, some b => s.matrixDone b t.weft
     | _, _ => true)

/-- The checks of a barrier instruction (R327) on the carry word m. -/
def barTrap (s : State) (t : Thread) (m : Word) : Option Trap :=
  let pack := match t.bolt.bind s.bolt? with
    | some b => b.pack
    | none => true
  if pack || !t.spawned then some (Trap.plain .prot 0)
  else if bitsAt m.toNat 56 8 ≠ 0 then some (Trap.plain .prot m.toNat)
  else if (List.range 56).any fun n => 1 ≤ n && m.getLsbD n && 8 * s.phaseCount t ≤ n then
    some (Trap.plain .prot m.toNat)
  else none

/-- A barrier instruction (R327): a lane that does not meet the conditions of arrival waits for
BARRIER_ARRIVAL. An arrival is a release, which a lost store stops (R397). -/
def issueBar (k : BarKind) (f : Fields) (s : State) : Result :=
  issue rBar f true (fun _ => none) false
    (fun s l =>
      match (barTrap s l.thread l.a).or (lostTrap l.thread) with
      | some t => .trap t false
      | none =>
        let mask : BitVec 56 := BitVec.ofNat 56 (l.a.toNat / 2 * 2)
        let count := f.imm.toNat % 8
        let len := formLen f.form
        if s.mayArrive l.thread then .placed (s.arriveBarrier l.tid k mask count len)
        else .placed (s.modThread l.tid fun t => { t with sub := .barrier k, wait := .arriving mask count len })) s

/-- BAR (R327). -/
def execBar (f : Fields) (s : State) : Result := issueBar .bar f s
/-- BAR.st (R327). -/
def execBarSt (f : Fields) (s : State) : Result := issueBar .barSt f s
/-- FBAR (R327). -/
def execFbar (f : Fields) (s : State) : Result := issueBar .fbar f s

/-- The state with a machine check of a thread that a step of the device raises at its instruction (R397): the
instruction is irrevocable in effect (R168). -/
def State.machineCheck (s : State) (tid : Nat) (tr : Trap) : State :=
  takeTrap s tid ⟨.s, 0, 0, 0, 0, false, false, false, 0, 0, 0⟩ tr true false

/-- BARRIER_ARRIVAL (R32): a thread that has lost a store meanwhile takes the machine check of a release (R397). -/
def tryBarrierArrival (tid : Nat) (s : State) : Option State :=
  match s.thread? tid with
  | none => none
  | some t =>
    match t.sub, t.wait with
    | .barrier k, .arriving mask count len =>
      if !s.mayArrive t then none
      else
        match lostTrap t with
        | none => some (s.arriveBarrier tid k mask count len)
        | some tr => some ((s.putThread { t with sub := .active, wait := .none }).machineCheck tid tr)
    | _, _ => none

/-- RELEASE_WAVE (R326): a wave whose gap has passed becomes eligible; one of a network barrier only ends (R331). -/
def tryReleaseWave (core bolt : Nat) (s : State) : Option State :=
  let c := s.wcore core
  match c.waves.find? fun v => v.bolt == bolt && v.at_ ≤ c.cyc with
  | none => none
  | some v =>
    let s := s.putW core { c with waves := c.waves.filter fun x => x != v }
    if v.net.isSome then some s
    else some (v.slots.foldl
      (fun s slot => (s.modWeft core slot fun w => { w with eligible := true, ready := s.seq }).bump) s)

/-! ### Waits -/

/-- What is left of a wait when its thread is taken from the instruction: an accepted job and a network arrival stand,
and the instruction completes later without a second one (R395). -/
def Wait.kept (w : Wait) : Wait :=
  match w with
  | .accepted h => .accepted h
  | .nbar n g => .nbar n g
  | _ => .none

/-- Whether a thread stands at an instruction that has had its effect (R395). -/
def Thread.begun (t : Thread) : Bool := t.wait.kept != .none

/-! ### Joining a weft -/

/-- The state with a thread block's weft field written at a join (R176, R177). -/
def State.writeWeftField (s : State) (t : Thread) : State :=
  if t.tblk = 0 then s
  else
    let a := t.tblk + 0x18
    let old := s.valueAt a 8
    s.deviceStore a 8 (old - bitsAt old 12 5 * 4096 + t.weft % 32 * 4096)

/-- The state with the trap registers of a thread written to its thread block (R176); a block address of 0 stands for no
block (log entry 76). -/
def State.writeTrapBlock (s : State) (t : Thread) : State :=
  if t.tblk = 0 then s
  else
    s.deviceWrite s.maxGuard (t.tblk + 0x20)
      (leBytes 8 t.trapcause.toNat ++ leBytes 8 t.trapval.toNat ++ leBytes 8 t.trappc.toNat) []

/-- The core of a thread's bolt as its arrival finds it: the one where a bolt that is known stands, which a restore may
have changed, else what the thread block says (R176; log entry 83). -/
def State.homeOf (s : State) (t : Thread) (field : Nat) : Nat :=
  match t.bolt.bind s.bolt? with
  | some b => if b.pack then field else b.core
  | none => field

/-- The thread with its coordinates and nw taken from its thread block, which the device reads at each arrival (R176,
R177); one without a block keeps what it has (log entry 76). The reserved bits [63:33] of the coordinate word are not
looked at (DESIGN CHOICE: R176 names no trap for them; log entry 84). -/
def State.readCoords (s : State) (t : Thread) : Thread :=
  if t.tblk = 0 then t
  else
    let c := s.valueAt (t.tblk + 0x18) 8
    { t with
      spawn := s.valueAt (t.tblk + 0x10) 4, fcoord := s.valueAt (t.tblk + 0x14) 4, tcoord := bitsAt c 0 10,
      bcoord := bitsAt c 10 2, stage := bitsAt c 17 3, nstage := bitsAt c 20 4, home := s.homeOf t (bitsAt c 24 8),
      nw := bitAt c 32 }

/-- The thread as its thread block gives it at an arrival (R176, R177). -/
def State.readBlock (s : State) (t : Thread) : Thread :=
  if t.tblk = 0 then t else { s.readCoords t with pid := s.valueAt (t.tblk + 8) 8 }

/-- The thread with its trap registers taken from its thread block (R177, R393); the reserved bits of trapcause read 0
(R6, R383). -/
def State.readTrapBlock (s : State) (t : Thread) : Thread :=
  if t.tblk = 0 then t
  else
    { t with
      trapcause := BitVec.ofNat 64 (bitsAt (s.valueAt (t.tblk + 0x20) 8) 0 11)
      trapval := BitVec.ofNat 64 (s.valueAt (t.tblk + 0x28) 8)
      trappc := BitVec.ofNat 64 (s.valueAt (t.tblk + 0x30) 8) }

/-- A thread whose record a core found invalid (R175): it takes the machine check where it joins. -/
def Thread.invalid (t : Thread) : Thread :=
  { t.trapRegs (Trap.plain .mchk 1) t.pc with sub := .faultParked, rgn := t.pc, wait := .none, entry := none }

/-- A thread that joins with what it brings: one that its core found invalid takes that machine check (R175), and one
that owes another does so before its next instruction (R413); a fault-parked one has the trap registers of its thread
block (R177). -/
def State.joining (s : State) (t : Thread) : Thread :=
  match t.entry with
  | some (18, 1) => t.invalid
  | some (_, v) =>
    if t.sub = .active then
      { t.trapRegs ⟨.mchk, BitVec.ofNat 64 v.toNat, false⟩ t.pc with sub := .faultParked, rgn := t.pc, entry := none }
    else if t.sub = .faultParked then s.readTrapBlock t else t
  | none => if t.sub = .faultParked then s.readTrapBlock t else t

/-- A thread as it begins on a weft core (R201): one whose space entry names another pid takes a machine check before
its next instruction, which one that waits or is fault-parked comes to later. -/
def State.checkPid (s : State) (t : Thread) : Thread :=
  if !s.pidMismatch t.pid then t
  else if t.sub = .active then { t.trapRegs Trap.pid t.pc with sub := .faultParked, rgn := t.pc }
  else { t with entry := some (18, 2) }

/-- The weft with a thread joined (R35): one that waits at a barrier adds its mask and the count that it named, and
one without blocks needs them again for any other; the first of an empty weft brings its phase's count. -/
def Weft.joined (w : Weft) (lane ready : Nat) (t : Thread) : Weft :=
  let first := w.members.isEmpty && !w.held
  let w := { w.setLane lane (some t.tid) with waitQ := w.waitQ.filter fun q => q.leader != t.tid }
  let w := if first then { w with blocks := t.blocks } else w
  if t.hasArrived then
    { w with
      wstate := if w.wstate = .empty then .atBarrier else w.wstate
      carry := w.carry ||| t.carry
      next := max w.next t.nextBlocks }
  else if w.held || w.wstate = .awaiting then w
  else { w.waiting with ready }

/-- The state with a core's view floor risen to the stamp that an arriving thread brings (R175, R245), and its read-only
copies and the bytes of instruction memory that it kept gone (R55, R222). -/
def State.takeView (s : State) (core vstamp : Nat) : State :=
  let c := s.wcore core
  (s.dropCode core).putW core { c with vfloor := stampMax c.vfloor vstamp, seen := stampMax c.seen vstamp, ro := [] }

/-- The state with a thread joined at a position of a weft (R35, R177, R222, R245): the core takes its view, and a
fault-parked thread is reported. -/
def State.joinWeft (s : State) (t : Thread) (core slot lane : Nat) : State :=
  match s.weft? core slot with
  | none => s
  | some w =>
    let t := { s.readBlock t with loc := .member core slot lane, weft := w.widx, lane, age := 0, leave := none, xr := false }
    let t := s.checkPid (s.joining t)
    let s := s.takeView core t.vstamp
    let s := (s.putWeft core slot (w.joined lane s.seq t)).bump
    let s := (s.putThread t).writeWeftField t
    let s := if t.sub = .faultParked then s.postReport core slot lane t else s
    s.settle core slot

/-- The positions of a weft that no thread occupies, lowest first. -/
def Weft.freeLanes (w : Weft) : List Nat :=
  (List.range 32).filter fun i => ((w.lanes.toList[i]?).getD none).isNone

/-- The positions that threads of a bolt keep while they are away (R35), as weft index and lane; none for the thread
that returns itself. -/
def State.keptPlaces (s : State) (b : Bolt) (tid : Nat) : List (Nat × Nat) :=
  s.threads.filterMap fun p =>
    let t := p.2
    if t.bolt == some b.id && t.tid != tid && (match t.loc with | .latency _ => true | .transit _ => true | _ => false) then
      some (t.weft, t.lane)
    else none

/-- The slot and the lane at which a thread of a spawned bolt joins (R35): its original position, else a free one of
its stage that no thread keeps, else one in its weft created again. -/
def State.joinPlace (s : State) (b : Bolt) (t : Thread) : Option (State × Nat × Nat) :=
  let ws := s.weftsOf b
  let kept := s.keptPlaces b t.tid
  let original := ws.find? fun x => x.2.widx == t.weft
  let free := match original with
    | some x => if x.2.freeLanes.contains t.lane then some (x.1, t.lane) else none
    | none => none
  match free with
  | some (slot, lane) => some (s, slot, lane)
  | none =>
    let same := ws.filter fun x => x.2.widx % b.nstage == t.stage
    match same.findSome? fun x =>
        (x.2.freeLanes.find? fun l => !kept.contains (x.2.widx, l)).map fun l => (x.1, l) with
    | some (slot, lane) => some (s, slot, lane)
    | none =>
      match s.freeSlots b.core with
      | slot :: _ =>
        if original.isSome then none
        else some (s.takeSlot b.core slot (Weft.fresh b.id t.weft t.blocks s.seq), slot, t.lane)
      | [] => none

/-! ### Packing -/

/-- Whether two threads are like threads (R22). -/
def Thread.like (t u : Thread) : Bool :=
  spaceOf t.pid == spaceOf u.pid && t.pc == u.pc && t.plvl == u.plvl && t.pkey == u.pkey

/-- The threads of a core's pool in order of arrival, each with its tick of arrival. -/
def State.pooled (s : State) (core : Nat) : List (Thread × Nat) :=
  (s.wcore core).pool.filterMap fun p => (s.thread? p.1).map fun t => (t, p.2)

/-- The first like threads of a pool that may form a weft (R23): 32 of them, or those whose earliest has
waited for its pwait. -/
def State.packGroup (s : State) (core : Nat) : Option (List Thread) :=
  let l := s.pooled core
  (List.range l.length).findSome? fun i =>
    match l[i]? with
    | none => none
    | some (t, at_) =>
      if (l.take i).any fun p => p.1.like t then none
      else
        let g := (l.filter fun p => p.1.like t).map (·.1)
        if 32 ≤ g.length ∨ at_ + t.pwait ≤ s.gtick then some (g.take 32) else none

/-- A pack bolt as it forms (R24). -/
def Bolt.packed (id pid core order : Nat) : Bolt :=
  { id, pack := true, spawn := 0, fcoord := 0, bcoord := 0, pid, core, order, prio := 0, pclass := 0, nweft := 1,
    live := 0, nslice := 0, rows := 16, nstage := 1, bstate := .resident, evicting := false, barWord := ⟨false, 0, 0⟩,
    stWords := Vector.replicate 8 ⟨false, 0, 0⟩, flWord := ⟨false, 0, 0⟩, nb := [], merr := 0, elog := [],
    chans := [], handles := [], spad := [], spPoison := [], acc := [], accErr := [], decl := none, failed := 0,
    saveArea := 0, savedCrook := none, blocks0 := 7 }

/-- The state with a pack weft formed from a group of pooled threads (R23, R24). -/
def State.formPack (s : State) (core slot : Nat) (g : List Thread) : State :=
  let u := s.spawnU
  let id := u.nextBolt
  let pid := ((g.head?).map Thread.pid).getD 0
  let b := Bolt.packed id pid core (u.nextOrder * 2 ^ 34)
  let s := ({ s with spawnU := { u with nextBolt := id + 1, nextOrder := u.nextOrder + 1 } }).putBolt b
  let s := (s.takeSlot core slot { Weft.fresh id 0 7 s.seq with wstate := .running, held := true }).modBolt id fun b =>
    { b with hslot := slot }
  let s := s.putW core { s.wcore core with
    pool := (s.wcore core).pool.filter fun p => !(g.any fun t => t.tid == p.1) }
  (List.range g.length).foldl
    (fun s i => match g[i]? with
      | some t => s.joinWeft { t with bolt := some id, blocks := 7 } core slot i
      | none => s) s

/-- The state with the first pack weft of a pool formed, once a slot, blocks and rows are free (R23). -/
def State.tryPack (s : State) (core : Nat) : Option State :=
  match s.packGroup core, s.freeSlots core with
  | some g, slot :: _ => if 7 ≤ s.freeBlocks core ∧ 16 ≤ s.freeRows core then some (s.formPack core slot g) else none
  | _, _ => none

/-- PWAIT_EXPIRY (R23). -/
def tryPwaitExpiry (core : Nat) (s : State) : Option State := s.tryPack core

/-- The state with a thread in a core's pool, where 32 like threads form a weft at once (R22, R23); the core takes its
view (R175). -/
def State.enterPool (s : State) (t : Thread) (core : Nat) : State :=
  let t := s.readBlock t
  let s := s.takeView core t.vstamp
  let c := s.wcore core
  let s := s.putW core { c with pool := c.pool ++ [(t.tid, s.gtick)] }
  let s := s.putThread { t with loc := .pooled core, bolt := none, xr := false, leave := none }
  if 32 ≤ ((s.pooled core).filter fun p => p.1.like t).length then (s.tryPack core).getD s else s

/-- Whether a thread in transit is bound for a core's pool: a thread in no spawned bolt (R36). -/
def Thread.poolBound (t : Thread) (core : Nat) : Bool :=
  !t.spawned && (match t.loc with
    | .transit (.weft c) => c == core
    | .transit .anyWeft => true
    | _ => false)

/-- Whether a core takes arriving threads: one that is not halted (R408). -/
def State.takesThreads (s : State) (core : Nat) : Bool := isWeft core && !(s.wcore core).halted

/-- The slot of a pack weft to whose lane a thread returns (R36): that of its own pack bolt on the core it left. -/
def State.packPlace (s : State) (t : Thread) (core : Nat) : Option Nat :=
  match t.bolt.bind s.bolt? with
  | none => none
  | some b =>
    if b.pack ∧ b.core = core then
      ((s.weftsOf b).head?).bind fun x => if x.2.freeLanes.contains t.lane then some x.1 else none
    else none

/-- POOL_ENTRY (R22): the arrival of a thread with no place in a pack weft (R36); one whose record is invalid arrives
by SHUTTLE_ARRIVAL. It asks for clock request 16 (R368). -/
def tryPoolEntry (tid core : Nat) (s : State) : Option State :=
  match s.thread? tid with
  | some t =>
    if t.poolBound core && (s.packPlace t core).isNone && s.takesThreads core && (s.wcore core).pool.length < 64 then
      some (s.enterPool { t with clock := 16 } core)
    else none
  | none => none

/-! ### Leaving -/

/-- Whether a lane may leave now: it is extraction-parked and its loads have completed or faulted (R34). -/
def State.mayLeave (s : State) (t : Thread) : Bool := t.sub == .extractParked && s.loadsDone t.tid

/-- A thread as it leaves its weft (R34, R43, R175, R245, R260, R393): at a barrier it keeps the registers of its own
mask, and once that has released it departs with its weft's carry set (R32). -/
def Thread.leaving (t : Thread) (mask : BitVec 56) (blocks vfloor : Nat) (dest : Dest) : Thread :=
  let t := if t.hasArrived then t.carryOnly t.carry else if t.departing then t.depart mask else t
  { t.dropMonitor with
    loc := .transit dest, sub := t.asSub, asSub := .active, leave := none, blocks, vstamp := vfloor
    retPoint := if t.xr ∨ t.asSub = .faultParked then t.pc else t.retPoint }

/-- The state with a lane of a weft gone to a destination (R34), which is a release (R231); a departure from a barrier
is an acquire first (R325). -/
def State.extractLane (s : State) (core slot lane : Nat) (w : Weft) (t : Thread) (dest : Dest) : State :=
  let s := (if t.departing then s.acquired t.tid else s).coreRelease core
  let blocks := if t.departing then s.needOf w else s.blockCount t
  let t' := t.leaving w.carry blocks (s.wcore core).vfloor dest
  let s := (s.putThread t').vacate core slot lane
  if t.asSub = .faultParked then s.writeTrapBlock t' else s

/-- LANE_EXTRACTION (R34). -/
def tryLaneExtraction (core slot lane : Nat) (s : State) : Option State :=
  match s.weft? core slot with
  | none => none
  | some w =>
    match ((w.lanes.toList[lane]?).getD none).bind s.thread? with
    | none => none
    | some t =>
      match t.leave with
      | none => none
      | some dest => if s.mayLeave t then some (s.extractLane core slot lane w t dest) else none

/-! ### Retired threads and fault reports -/

/-- The state with a thread's block pushed to the thread retire queue, behind the pushes that wait there (R335), or
dropped and counted (R403). -/
def State.retire (s : State) (t : Thread) : State :=
  let q := bitsAt s.fw.pools.toNat 16 13
  if s.roomFor q 1 then s.devicePush q (BitVec.ofNat 64 t.tblk)
  else
    ({ s with fw := { s.fw with rtdrop := s.fw.rtdrop + 1 } }).deviceEvent 5 0

/-- The base-die queue of a die's fault reports, and that of its resume words (R386). -/
def State.serviceQueue (s : State) (die : Nat) : Nat := (bitsAt s.fw.svcq.toNat 0 13 + 2 * (die - 2)) % 8192
def State.resumeQueue (s : State) (die : Nat) : Nat := (s.serviceQueue die + 1) % 8192

/-- The thread at a lane of a slot, when it is fault-parked. -/
def State.parkedAt (s : State) (core slot lane : Nat) : Option Thread :=
  (((s.weft? core slot).bind fun w => (w.lanes.toList[lane]?).getD none).bind s.thread?).filter
    fun t => t.sub == .faultParked

/-- The state with a fault-parked lane to be extracted to a latency core (R389, action 1). -/
def State.extractParked (s : State) (core slot lane : Nat) : State :=
  match s.parkedAt core slot lane with
  | some t => s.putThread { parkExtract t (.latency none) .faultParked with xr := true }
  | none => s

/-- FAULT_REPORT (R387): the earliest report of a core is pushed; while the queue is full a device event says
so once (R394), and a disabled queue makes the core extract the lane. -/
def tryFaultReport (core slot lane : Nat) (s : State) : Option State :=
  let c := s.wcore core
  match c.reports with
  | [] => none
  | r :: rs =>
    if r.slot ≠ slot ∨ r.lane ≠ lane then none
    else
      let die := dieOf core
      let q := s.serviceQueue die
      if (s.queue q).lsz = 0 then some ((s.putW core { c with reports := rs }).extractParked core slot lane)
      else if s.roomFor q 3 && s.freeFor q false then
        some (((s.putW core { c with reports := rs }).pushWords q [r.word0, r.value, r.pc]).coreRelease core)
      else if r.told then none
      else some ((s.putW core { c with reports := { r with told := true } :: rs }).deviceEvent 4 die)

end Sys2Proof.Machine
end

