-- ==== Sys2Proof/Machine/Vault.lean ====
section
/-! DEFINITION. Vaults (R209 to R212) and LDV and STV (R224). -/

namespace Sys2Proof.Machine

/-- Entry n of a vault's page map (R210): entries 240 to 255 are fixed. -/
def State.vaultEntry (s : State) (vault page : Nat) : Nat :=
  if 240 ≤ page then 1 else leNat (memBytes s.vmem (vault * 2 ^ 24 + 0xF00000 + 4 * page) 4)

/-- Whether a vault cache holds a line (R212). -/
def State.vcacheHolds (s : State) (core : Nat) : Bool := s.dirs.any fun d => d.2.holds (agentVault core)

/-- The pages whose entries have vcache 1 (R210). -/
def State.vcacheWritten (s : State) (core : Nat) : List Nat :=
  (List.range 240).filter fun n => bitAt (memByte s.vmem (core * 2 ^ 24 + 0xF00000 + 4 * n)).toNat 3

/-- Whether a page belongs to its vault's cache (R210, R212): a change of the entries takes effect only while the
cache holds no line. -/
def State.vaultCached (s : State) (vault page : Nat) : Bool :=
  if s.vcacheHolds vault then (s.wcore vault).vcache.contains page
  else page < 240 && bitAt (s.vaultEntry vault page) 3

/-- An entry of the directory without an agent that holds only clean copies (R212). -/
def Dir.without (d : Dir) (agent : Nat) : Dir :=
  if d.holds agent then
    let rest := d.holders.filter fun h => h.1 != agent
    { d with st := if rest.isEmpty then .none else d.st, holders := rest }
  else d

/-- The state with the vault cache's pages as the entries now have them, where that can take effect (R212): when no
entry has vcache 1 the cache gives up its lines, and a page that enters the cache loses its contents. -/
def State.vcacheSync (s : State) (vault : Nat) : State :=
  let written := s.vcacheWritten vault
  let w := s.wcore vault
  if written.isEmpty then
    if w.vcache.isEmpty && !s.vcacheHolds vault then s
    else
      ({ s with dirs := s.dirs.map fun p => (p.1, p.2.without (agentVault vault)) } : State).putW vault { w with vcache := [] }
  else if s.vcacheHolds vault || written == w.vcache then s
  else
    let entering (a : Nat) : Bool :=
      a / 2 ^ 24 == vault && (written.contains (a % 2 ^ 24 / 65536) && !w.vcache.contains (a % 2 ^ 24 / 65536))
    ({ s with vmem := s.vmem.filter fun c => !entering c.1 } : State).putW vault { w with vcache := written }

/-- The state with a line filled into a vault cache in a class (R59, R212, R225): 512 lines for each page, one given up for
one more that finds no room. -/
def State.vcacheFill (s : State) (core line : Nat) (cls : EClass) : State :=
  let s := s.vcacheSync core
  let agent := agentVault core
  let held := s.heldBy agent
  let n := 512 * (s.wcore core).vcache.length
  if n = 0 then s
  else if (s.dir line).holds agent then s
  else
    let k := if held.length < n then s else
      match victim held with
      | some old => s.putDir old ((s.dir old).without agent)
      | none => s
    (k.putDir line ((k.dir line).enter agent (fillClass held n cls))).dirGetS agent line

/-- PREF.v (R225). -/
def execPrefV (f : Fields) (s : State) : Result :=
  issue rPref f false (fun _ => none) false
    (prefLane f fun k core line cls => if isWeft core then k.vcacheFill core line cls else k) s

/-- The checks of R211 for an access of z bytes at v by a thread of a process at a level. -/
def vaultCheck (s : State) (pid : Nat) (level : Level) (v : Int) (z : Nat) (write : Bool) : Option Trap :=
  if v < 0 ∨ 2 ^ 32 ≤ v then some (Trap.int .prot v)
  else
    let a := v.toNat
    let vault := a / 2 ^ 24
    let page := a % 2 ^ 24 / 65536
    if 143 < vault then some (Trap.int .prot v)
    else if a % z ≠ 0 then some (Trap.int .align v)
    else
      let e := s.vaultEntry vault page
      if s.vaultCached vault page then some (Trap.int .prot v)
      else if level ≠ .user then none
      else if 240 ≤ page then some (Trap.int .prot v)
      else if bitAt e 0 && bitsAt e 16 16 == spaceOf pid && bitAt e (if write then 2 else 1) then none
      else some (Trap.int .prot v)

/-- A byte of a vault: the map's fixed entries read as R210 gives. -/
def State.vaultByte (s : State) (a : Nat) : Byte :=
  let o := a % 2 ^ 24
  if 0xF003C0 ≤ o ∧ o < 0xF00400 then if o % 4 = 0 then 1 else 0 else memByte s.vmem a

/-- The bolt resident on a core whose header slot is n (R318). -/
def State.headerBolt (s : State) (core n : Nat) : Option Bolt :=
  (s.boltsOn core).find? fun b => b.bstate == .resident && b.hslot == n

/-- A byte of a vault as an access reads it (R318): a bolt header or a phase record shows the state that the core
holds (R319, R320), and what the carve-out leaves reserved reads 0. -/
def State.vaultRead (s : State) (a : Nat) : Byte :=
  let o := a % 2 ^ 24
  let core := a / 2 ^ 24
  let byteOf (w : Nat) : Byte := BitVec.ofNat 8 (bitsAt w (8 * (a % 8)) 8)
  if o < 0xF00400 then s.vaultByte a
  else if o < 0xF01000 then 0
  else if o < 0xF31000 then
    match s.headerBolt core ((o - 0xF01000) / 0x1000) with
    | some b => byteOf (dwordAt (b.header (s.crookOf b)) (o % 0x1000 / 8))
    | none => 0
  else if o < 0xF40000 then 0
  else
    match s.weft? core ((o - 0xF40000) / 0x4000) with
    | some w => byteOf (w.phaseDword (fun l => ((w.lanes.toList[l]?).getD none).bind s.thread?) (o % 0x4000 / 8))
    | none => 0

/-- n bytes of a vault as an access reads them. -/
def State.vaultBytes (s : State) (a n : Nat) : List Byte := (List.range n).map fun i => s.vaultRead (a + i)

/-- Whether a byte of a range lies in a poisoned vault word (R224). -/
def State.vaultPoisoned (s : State) (a n : Nat) : Bool := s.vPoison.any fun w => meets (4 * w) 4 a n

/-- The vault with one byte written. The map's fixed entries, and what follows the map, ignore writes (R210, R318,
R319); a byte of the map may change the vault cache's pages (R212), and its reserved bits are kept as written (log entry
77). -/
def State.vaultPut (s : State) (a : Nat) (b : Byte) : State :=
  let o := a % 2 ^ 24
  if 0xF003C0 ≤ o then s
  else if 0xF00000 ≤ o then
    let s := s.vcacheSync (a / 2 ^ 24)
    { s with vmem := spPut 0 s.vmem a b }.vcacheSync (a / 2 ^ 24)
  else { s with vmem := spPut 0 s.vmem a b }

/-- The vault with bytes written; a word written whole loses its poison (R190, R224). -/
def State.vaultWrite (s : State) (a : Nat) (bs : List Byte) : State :=
  let s := (List.range bs.length).foldl (fun s i => s.vaultPut (a + i) ((bs[i]?).getD 0)) s
  { s with vPoison := s.vPoison.filter fun w => !(a ≤ 4 * w && 4 * w + 4 ≤ a + bs.length) }

/-- LDV for one lane (R224): performed at the vault when it issues, delivered later. -/
def ldvLane (f : Fields) (z : Nat) (signed pair : Bool) : Body := fun s l =>
  let v := l.addr f
  if s.mustWait l.tid then .wait id
  else
    match vaultCheck s l.thread.pid l.thread.plvl v z false with
    | some t => .trap t false
    | none =>
      if s.vaultBoard v.toNat z then .wait id
      else
        let x := loadValue signed z (s.vaultBytes v.toNat z)
        .done (s.addReady l f.rd pair x.1 x.2 (s.vaultPoisoned v.toNat z))

/-- LDV.w (R224). -/
def execLdvW (f : Fields) (s : State) : Result :=
  issue rLdv f false (fun _ => none) false (ldvLane f 4 true false) s
/-- LDV.d (R224). -/
def execLdvD (f : Fields) (s : State) : Result :=
  issue rLdv f false (fun _ => none) false (ldvLane f 8 false false) s
/-- LDV.q (R224). -/
def execLdvQ (f : Fields) (s : State) : Result :=
  issue rLdvQ f false (fun _ => none) false (ldvLane f 16 false true) s

/-- STV for one lane (R224). -/
def stvLane (f : Fields) (z : Nat) (pair : Bool) : Body := fun s l =>
  let v := l.addr f
  if s.mustWait l.tid || s.hasUnchecked l.tid then .wait id
  else
    match vaultCheck s l.thread.pid l.thread.plvl v z true with
    | some t => .trap t false
    | none =>
      if s.vaultBoard v.toNat z then .wait id
      else .done (s.vaultWrite v.toNat (storeBytes z pair l.b l.b2))

/-- STV.w (R224). -/
def execStvW (f : Fields) (s : State) : Result :=
  issue rStv f false (fun _ => none) false (stvLane f 4 false) s
/-- STV.d (R224). -/
def execStvD (f : Fields) (s : State) : Result :=
  issue rStv f false (fun _ => none) false (stvLane f 8 false) s
/-- STV.q (R224). -/
def execStvQ (f : Fields) (s : State) : Result :=
  issue rStvQ f false (fun _ => none) false (stvLane f 16 true) s

end Sys2Proof.Machine
end

