-- ==== Sys2Proof/Machine/Cards.lean ====
section
/-! DEFINITION. Records that instructions read from memory: reading one under R217, and job cards with their
layout records, regions and extents (R265 to R270, R272). -/

namespace Sys2Proof.Machine

/-! ### Checks that read memory -/

/-- What a sequence of checks comes to: it passes with a result, traps, must wait, or meets a device register;
each with what it leaves. -/
inductive Chk (α : Type) where
  | ok (s : State) (a : α)
  | trap (s : State) (t : Trap)
  | wait (s : State)
  | device (pa : Nat)

/-- One sequence of checks after another. -/
def Chk.bind {α β : Type} (c : Chk α) (f : State → α → Chk β) : Chk β :=
  match c with
  | .ok s a => f s a
  | .trap s t => .trap s t
  | .wait s => .wait s
  | .device pa => .device pa

/-- What checks that wait or trap leave of a state. -/
def Chk.left {α : Type} (c : Chk α) (s : State) : State :=
  match c with
  | .trap k _ => k
  | .wait k => k
  | _ => s

/-- The act of a lane whose checks are `run`, and that goes on with `cont`. -/
def Chk.act {α : Type} (run : State → Chk α) (s : State) (cont : State → α → Act) : Act :=
  match run s with
  | .ok k a => cont k a
  | .trap _ t => .trapAfter (fun k => (run k).left k) t
  | .wait _ => .wait fun k => (run k).left k
  | .device pa => .device pa

/-- The checks of R217 for an access of the device on a thread's behalf; the queue registers pass them (R334). -/
def chkAccess (s : State) (t : Thread) (core : Nat) (v : Int) (align : Nat) (write : Bool) : Chk Access :=
  match checkAccess s t core v align write (!write) (if write then 1 else 0) false with
  | .ok k a => .ok k a
  | .trap k tr => .trap k tr
  | .wait k => .wait k
  | .device k pa a => if (queueReg pa).isSome then .ok k a else .device pa

/-- A record of n bytes read as a load at its own alignment (R217). -/
def chkRecord (s : State) (t : Thread) (core : Nat) (v : Int) (n : Nat) : Chk (List Byte) :=
  (chkAccess s t core v n false).bind fun k a => let r := k.portRead a.pa n; .ok r.1 r.2

/-- A check that traps unless a condition holds. -/
def chkThat (s : State) (ok : Bool) (t : Trap) : Chk Unit := if ok then .ok s () else .trap s t

/-- The dwords of a record. -/
def dwords (bs : List Byte) : List Nat := (List.range (bs.length / 8)).map fun i => leNat ((bs.drop (8 * i)).take 8)

/-! ### Job cards -/

/-- A declared footprint (R267). -/
def regionOf (w : Nat) : Region :=
  ⟨bitsAt w 62 2, bitsAt w 0 49 * 256, (if bitsAt w 49 13 = 0 then 8192 else bitsAt w 49 13) * 256⟩

/-- Whether a region lies in its space, and in one vault (R267); a virtual one may cross neither end of the signed view
(log entry 78). -/
def regionValid (w : Nat) : Bool :=
  let r := regionOf w
  match r.space with
  | 0 => r.lo + r.len ≤ 2 ^ 57 && (2 ^ 56 ≤ r.lo || r.lo + r.len ≤ 2 ^ 56)
  | 1 => r.lo + r.len ≤ 2 ^ 23
  | 2 => r.lo + r.len ≤ 2 ^ 32 && r.lo / 2 ^ 24 == (r.lo + r.len - 1) / 2 ^ 24
  | _ => false

/-- Duplication pair j of a map (R122). -/
def dupPair (dup j : Nat) : Nat := bitsAt dup (16 * j) 16
def pairOrig (p : Nat) : Nat := bitsAt p 0 7
def pairSpare (p : Nat) : Nat := bitsAt p 8 7

/-- Whether a duplication map with n pairs in use satisfies R123. -/
def dupValid (dup n : Nat) : Bool :=
  let used := (List.range n).map (dupPair dup)
  let idx := used.flatMap fun p => [pairOrig p, pairSpare p]
  n ≤ 4 && ((List.range 4).all fun j => j < n || dupPair dup j == 0)
    && (used.all fun p => !bitAt p 15 && !bitAt p 7) && (distinct idx).length == idx.length

/-- Whether an address is one of a space (R265). -/
def addrValid (space : Nat) (a : Word) : Bool :=
  match space with
  | 0 => canonicalWord a
  | 1 => a.toNat < 2 ^ 23
  | _ => a.toNat < 2 ^ 32

/-- An address as a job counts bytes: a virtual one modulo 2^57. -/
def jobAddr (space : Nat) (a : Word) : Nat := if space = 0 then a.toNat % 2 ^ 57 else a.toNat

/-- A job card of 16 dwords with its layout record, taken apart (R265 to R268). -/
def cardOf (w : List Nat) (lay : Nat) : Card :=
  let d (i : Nat) : Nat := (w[i]?).getD 0
  let c := d 0
  { op := bitsAt c 20 2, sspace := bitsAt c 18 2, dspace := bitsAt c 16 2, nsp := bitsAt c 53 5,
    depth := bitsAt c 48 5, ndup := bitsAt c 45 3, satt := bitsAt c 40 2, dfmt := bitsAt c 32 8,
    sfmt := bitsAt c 24 8, stmp := bitAt c 0, src := BitVec.ofNat 64 (d 1), dst := BitVec.ofNat 64 (d 2),
    rows := bitsAt (d 4) 0 16, cols := bitsAt (d 4) 16 16, spitch := bitsAt (d 4) 32 32,
    dpitch := bitsAt (d 5) 0 32, dup := BitVec.ofNat 64 (d 6), sca := BitVec.ofNat 64 (d 7),
    stamp := BitVec.ofNat 64 (d 8), seq := BitVec.ofNat 64 (d 15),
    reads := ((List.range (bitsAt c 8 3)).map fun i => regionOf (d (9 + i))),
    writes := ((List.range (bitsAt c 11 2)).map fun i => regionOf (d (13 + i))),
    outer := bitsAt lay 0 4, inner := bitsAt lay 32 4, swb := bitsAt lay 64 4, swu := bitsAt lay 68 4,
    swsh := bitsAt lay 72 4 }

/-- Whether reserved fields of a card and its layout record are zero (R265 to R268). -/
def cardReserved (w : List Nat) (lay : Nat) : Bool :=
  let d (i : Nat) : Nat := (w[i]?).getD 0
  let c := d 0
  bitsAt c 58 6 == 0 && bitsAt c 42 3 == 0 && bitsAt c 22 2 == 0 && bitsAt c 13 3 == 0 && bitsAt c 1 7 == 0
    && bitsAt (d 5) 32 32 == 0 && !bitAt (d 15) 63 && bitsAt lay 76 180 == 0 && bitsAt lay 36 28 == 0
    && bitsAt lay 4 28 == 0

/-- Whether the regions of a card are valid, and those beyond nrd and nwr zero (R266, R267). -/
def cardRegions (w : List Nat) : Bool :=
  let d (i : Nat) : Nat := (w[i]?).getD 0
  let nrd := bitsAt (d 0) 8 3
  let nwr := bitsAt (d 0) 11 2
  1 ≤ nrd && nrd ≤ 4 && 1 ≤ nwr && nwr ≤ 2
    && ((List.range 4).all fun i => if i < nrd then regionValid (d (9 + i)) else d (9 + i) == 0)
    && (List.range 2).all fun i => if i < nwr then regionValid (d (13 + i)) else d (13 + i) == 0

/-- The size of a canonical plane tile that a card expands to (R121). -/
def Card.tileSize (c : Card) : Nat := tileBytes c.depth

/-- Whether the fields of a card lie in their ranges and serve its op (R266, R268, R269). -/
def Card.fieldsOk (c : Card) : Bool :=
  c.op != 3 && c.sspace != 3 && c.dspace != 3 && 1 ≤ c.rows && 1 ≤ c.cols && addrValid c.sspace c.src
    && addrValid c.dspace c.dst && (c.satt == 0 || canonicalWord c.sca)
    && (if c.op = 1 then
          c.dspace == 1 && 1 ≤ c.depth && c.depth ≤ 24 && c.sfmt ≤ 13 && c.dfmt == 0 && c.outer ≤ 2 && c.inner ≤ 1
            && c.dst.toNat % 64 == 0 && c.dpitch % 64 == 0 && c.tileSize ≤ c.dpitch
        else c.nsp == 0 && c.depth == 0 && c.ndup == 0 && c.outer == 0 && c.inner == 0)
    && (c.op != 0 || (c.satt == 0 && c.sfmt == 0 && c.dfmt == 0))
    && (c.op != 2 || (c.sfmt ≤ 13 && c.dfmt ≤ 13))
    && (if c.op = 1 || c.dspace != 1 then c.swb == 0 && c.swu == 0 && c.swsh == 0
        else if c.swb = 0 then c.swu == 0
        else c.swb ≤ 5 && 2 ≤ c.swu && c.swu ≤ 7 && c.dpitch % 2 ^ (c.swu + c.swb) == 0)
    && dupValid c.dup.toNat c.ndup

/-- Whether a card and its layout record are valid (R272, fifth row). -/
def cardValid (w : List Nat) (lay : Nat) : Bool := cardReserved w lay && cardRegions w && (cardOf w lay).fieldsOk

/-! ### Extents -/

/-- Element widths in bits of a card's source and destination. -/
def Card.sbits (c : Card) : Nat := if c.op = 0 then 8 else storeBits c.sfmt
def Card.dbits (c : Card) : Nat := if c.op = 0 then 8 else storeBits c.dfmt

/-- Bytes that hold n elements of w bits. -/
def bytesFor (w n : Nat) : Nat := (w * n + 7) / 8

/-- The tiles of an expand job in rows and columns of tiles (R269). -/
def Card.rt (c : Card) : Nat := (c.rows + 31) / 32
def Card.kt (c : Card) : Nat := (c.cols + 127) / 128

/-- Number and length in bytes of the source streams of a card: its rows, or its columns under inner 1. -/
def Card.streams (c : Card) : Nat := if c.op = 1 ∧ c.inner = 1 then c.cols else c.rows
def Card.streamLen (c : Card) : Nat := bytesFor c.sbits (if c.op = 1 ∧ c.inner = 1 then c.rows else c.cols)

/-- The byte runs that a job reads from its source (R269). -/
def Card.srcRuns (c : Card) : List (Nat × Nat) :=
  (List.range c.streams).map fun r => (jobAddr c.sspace c.src + r * c.spitch, c.streamLen)

/-- The scales' byte runs, in virtual space (R270). -/
def Card.scaleRuns (c : Card) : List (Nat × Nat) :=
  let a := jobAddr 0 c.sca
  match c.satt with
  | 1 => [(a, if c.op = 1 then 4 * (c.rt * c.kt) else 4)]
  | 2 => [(a, 4 * c.rows)]
  | 3 => [(a, 2 * (c.rows * ((c.cols + 63) / 64)))]
  | _ => []

/-- The index at which tile (a, b) is placed (R269). -/
def Card.tileIndex (c : Card) (a b : Nat) : Nat :=
  match c.outer with
  | 0 => a * c.kt + b
  | 1 => b * c.rt + a
  | _ => if a % 2 = 0 then a * c.kt + b else a * c.kt + c.kt - 1 - b

/-- The pieces that a swizzle moves the n bytes of destination row r in (R269): where each goes, and the bytes of the row
that it holds, as first byte and length. -/
def Card.pieces (c : Card) (r n : Nat) : List (Nat × Nat × Nat) :=
  let base := jobAddr c.dspace c.dst + r * c.dpitch
  let p := 2 ^ c.swu
  let x := bitsAt (r / 2 ^ c.swsh) 0 c.swb * p
  (List.range ((n + p - 1) / p)).map fun i => (base + ((p * i) ^^^ x), p * i, min p (n - p * i))

/-- The byte runs that a job writes (R269, R272): with a swizzle, the full dpitch of each row, and each of its pieces. -/
def Card.dstRuns (c : Card) : List (Nat × Nat) :=
  let d := jobAddr c.dspace c.dst
  if c.op = 1 then (List.range (c.rt * c.kt)).map fun t => (d + t * c.dpitch, c.tileSize)
  else if c.swb ≠ 0 then
    (List.range c.rows).flatMap fun r =>
      (d + r * c.dpitch, c.dpitch) :: (c.pieces r (bytesFor c.dbits c.cols)).map fun x => (x.1, x.2.2)
  else (List.range c.rows).map fun r => (d + r * c.dpitch, bytesFor c.dbits c.cols)

/-- Whether regions of one space cover a run of bytes. -/
def covered (rs : List Region) (space : Nat) : Nat → Nat → Nat → Bool
  | 0, _, n => n == 0
  | fuel + 1, a, n =>
    if n = 0 then true
    else
      match rs.find? fun r => r.space == space && r.lo ≤ a && a < r.lo + r.len with
      | none => false
      | some r => covered rs space fuel (r.lo + r.len) (n - min n (r.lo + r.len - a))

/-- Whether a card's regions hold its extent (R272, last row). -/
def Card.extentOk (c : Card) : Bool :=
  (c.srcRuns.all fun r => covered c.reads c.sspace 5 r.1 r.2)
    && (c.scaleRuns.all fun r => covered c.reads 0 5 r.1 r.2)
    && c.dstRuns.all fun r => covered c.writes c.dspace 3 r.1 r.2

/-- Whether a card names scratchpad space. -/
def Card.usesSpad (c : Card) : Bool :=
  c.sspace == 1 || c.dspace == 1 || (c.reads ++ c.writes).any fun r => r.space == 1

/-! ### Footprints -/

/-- A region as the scoreboards and the edges see it (R274, R275): a scratchpad region by its allotment; none
where it fails R183 or R211. -/
def resolveRegion (s : State) (t : Thread) (b : Option Bolt) (write : Bool) (r : Region) :
    Option (Nat × Nat × Nat × Nat) :=
  match r.space with
  | 0 => some (0, spaceOf t.pid, r.lo, r.len)
  | 1 => match b.map fun b => spCheck s b r.lo 1 r.len with
    | some (.ok a) => some (1, a.bolt.id, a.offset, r.len)
    | _ => none
  | _ =>
    if (vaultCheck s t.pid t.plvl r.lo 1 write).isNone && (vaultCheck s t.pid t.plvl (r.lo + r.len - 1) 1 write).isNone
    then some (2, 0, r.lo, r.len) else none

/-- All regions of a list resolved, if each is admitted. -/
def resolveAll (s : State) (t : Thread) (b : Option Bolt) (write : Bool) :
    List Region → Option (List (Nat × Nat × Nat × Nat))
  | [] => some []
  | r :: rs =>
    match resolveRegion s t b write r, resolveAll s t b write rs with
    | some x, some l => some (x :: l)
    | _, _ => none

/-- What a card that passed its checks gives (R272). -/
structure CardChecked where
  card : Card
  raw : List Nat
  reads : List (Nat × Nat × Nat × Nat)
  writes : List (Nat × Nat × Nat × Nat)
  stampPa : Nat
  deriving DecidableEq, Repr

/-- The checks of a job card at v (R272). -/
def checkCard (s : State) (t : Thread) (core : Nat) (v : Int) : Chk CardChecked :=
  let bad := Trap.intAt .prot v
  if v % 128 ≠ 0 then .trap s (Trap.intAt .align v)
  else
    (chkRecord s t core v 128).bind fun s bs =>
    let w := dwords bs
    let lay := (w[3]?).getD 0
    let layout : Chk Nat :=
      if lay = 0 then .ok s 0
      else if lay % 32 ≠ 0 then .trap s (Trap.at .align lay)
      else (chkRecord s t core (BitVec.ofNat 64 lay).toInt 32).bind fun s bs => .ok s (leNat bs)
    layout.bind fun s rec =>
    (chkThat s (cardValid w rec) bad).bind fun s _ =>
    let c := cardOf w rec
    (chkThat s (!(t.onLatency && c.usesSpad)) (Trap.int .needw v)).bind fun s _ =>
    let b := t.bolt.bind s.bolt?
    match resolveAll s t b false c.reads, resolveAll s t b true c.writes with
    | some reads, some writes =>
      let stamp : Chk Nat :=
        if c.stmp then (chkAccess s t core c.stamp.toInt 8 true).bind fun s a => .ok s a.pa else .ok s 0
      stamp.bind fun s stampPa =>
      (chkThat s c.extentOk bad).bind fun s _ => .ok s ⟨c, w, reads, writes, stampPa⟩
    | _, _ => .trap s bad

end Sys2Proof.Machine
end

