-- ==== Sys2Proof/Machine/Copy.lean ====
section
/-! DEFINITION. The copy engines (R263 to R278, R283 to R286; log entry 12): jobs from acceptance to
retirement, their reads and writes, and the instructions TCPY, TCST, TWAIT and THDL. -/

namespace Sys2Proof.Machine

/-! ### Engines -/

/-- The engine that issued a handle (R264). -/
def engineOf (handle : Nat) : Nat := handle / 2 ^ 48

/-- The engine of a core's TCPYs (R263). -/
def coreEngine (core : Nat) : Nat := if isWeft core then core else 0x200 + dieOf core

/-- Jobs that an engine holds accepted and not retired (R263). -/
def engineRoom (e : Nat) : Nat := if e < 144 then 32 else 64

/-- The jobs of an engine in order of acceptance. -/
def State.jobsOf (s : State) (e : Nat) : List Job := s.jobs.filter fun j => engineOf j.handle == e

/-- A job by its handle. -/
def State.job? (s : State) (h : Nat) : Option Job := s.jobs.find? fun j => j.handle == h

/-- The state with a job's record changed. -/
def State.putJob (s : State) (j : Job) : State :=
  { s with jobs := s.jobs.map fun x => if x.handle == j.handle then j else x }

/-- The scoreboards that a job's regions enter, one entry for each (R275). -/
def jobBoards (s : State) (e : Nat) (j : Job) : List Nat :=
  (j.reads ++ j.writes).flatMap fun r =>
    if r.1 = 1 then
      match s.bolt? r.2.1 with
      | some b => [b.core]
      | none => []
    else if r.1 = 2 then
      let v := r.2.2.1 / 2 ^ 24
      if e < 144 ∧ e ≠ v then [e, v] else [v]
    else []

/-- The entries that stand in a core's scoreboard (R275). -/
def State.boardUse (s : State) (core : Nat) : Nat :=
  ((s.jobs.filter fun j => !j.retired).flatMap fun j => (jobBoards s (engineOf j.handle) j).filter (· == core)).length

/-- Whether an engine has room for a job and the scoreboards have entries for its regions (R263, R275). -/
def State.jobFits (s : State) (e : Nat) (j : Job) : Bool :=
  let mine := jobBoards s e j
  ((s.jobsOf e).filter fun x => !x.retired).length < engineRoom e
    && (distinct mine).all fun c => s.boardUse c + (mine.filter (· == c)).length ≤ 64

/-- The serial number of the next job of an engine (R264). -/
def State.nextSerial (s : State) (e : Nat) : Nat := (tabGet s.serials e).getD 0

/-- The handle of the next job of an engine (R264). -/
def State.nextHandle (s : State) (e : Nat) : Nat := e * 2 ^ 48 + s.nextSerial e % 2 ^ 48

/-- Whether a job is still among its engine's newest 4,096 (R264). -/
def State.remembered (s : State) (j : Job) : Bool :=
  s.nextSerial (engineOf j.handle) ≤ j.handle % 2 ^ 48 + 4096

/-- Whether a job is a storage stream (R279). -/
def Job.isStream (j : Job) : Bool :=
  match j.kind with
  | .sread _ | .swrite _ | .sdealloc _ => true
  | _ => false

/-- Whether a stream that an engine accepts is on a port whose link is down, and so fails (R420). -/
def State.streamDoomed (s : State) (e : Nat) (j : Job) : Bool :=
  j.isStream && s.outside.storageDown.contains (e - 0x400)

/-- The state with a job accepted, as a release of its thread, whose view it carries (R263, R277). -/
def State.acceptJob (s : State) (e : Nat) (j : Job) : State :=
  let h := s.nextHandle e
  let view := ((s.thread? j.tid).map s.viewOf).getD j.wstamp
  let s := s.released j.tid
  let s := { s with
    serials := tabPut s.serials e (s.nextSerial e + 1)
    jobs := s.jobs ++ [{ j with
      handle := h, num := s.seq, state := .queued, wstamp := view, doomed := s.streamDoomed e j }] }
  { s with jobs := s.jobs.filter fun x => !x.retired || s.remembered x }.bump

/-- Whether two threads are lanes of one issue: of one weft, at one address (R7). -/
def State.sameIssue (s : State) (a b : Nat) : Bool :=
  match s.thread? a, s.thread? b with
  | some t, some u =>
    t.pc == u.pc && (match t.loc, u.loc with
      | .member c k _, .member d l _ => c == d && k == l
      | _, _ => false)
  | _, _ => false

/-- Whether a submission is before another in the order of acceptance: at the same engine, or of the same issue, whose
lanes are accepted in increasing lane number (R263). -/
def State.before (s : State) (x : Submission) (e tid : Nat) : Bool := x.engine == e || s.sameIssue x.job.tid tid

/-- Whether a job is accepted at once: none waits before it (R263). -/
def State.acceptsNow (s : State) (e : Nat) (j : Job) : Bool :=
  s.jobFits e j && !(s.subq.any fun x => s.before x e j.tid)

/-- The state with a lane's job submitted: accepted, or waiting for room (R263). -/
def State.submit (s : State) (e : Nat) (j : Job) : State :=
  if s.acceptsNow e j then
    (s.acceptJob e j).modThread j.tid fun t => { t with wait := .accepted (BitVec.ofNat 64 (s.nextHandle e)) }
  else { s with subq := s.subq ++ [Submission.mk e j] }.modThread j.tid fun t => { t with wait := .submitted }

/-- The state with a thread's submissions withdrawn and its wait over. -/
def State.unsubmit (s : State) (tid : Nat) : State :=
  { s with subq := s.subq.filter fun x => x.job.tid != tid }.modThread tid fun t => { t with wait := .none }

/-- JOB_ACCEPT (R263): the first waiting job of an engine is accepted once it fits and no lower lane of its issue
waits. -/
def tryJobAccept (e : Nat) (s : State) : Option State :=
  match s.subq.find? fun x => x.engine == e with
  | none => none
  | some x =>
    if !s.jobFits e x.job || (s.subq.takeWhile fun y => y.engine != e).any fun y => s.before y e x.job.tid then none
    else
      let s' := { s with subq := s.subq.eraseP fun y => y == x }
      some ((s'.acceptJob e x.job).modThread x.job.tid fun t =>
        { t with wait := .accepted (BitVec.ofNat 64 (s'.nextHandle e)) })

/-- The part of a submitting instruction that follows its checks, for one lane (R263, R282): it completes
with the job's handle once the engine has accepted the job. -/
def submitAct (s : State) (e : Nat) (j : Job) (before : State → State) : Act :=
  if s.acceptsNow e j then
    .valueKeep (fun k => (before k).submit e j) (s.acceptJob e j) (BitVec.ofNat 64 (s.nextHandle e))
  else .wait fun k => (before k).submit e j

/-- Whether every earlier access of the issue's lanes has been performed. -/
def State.groupPerformed (s : State) : Bool := s.issueLanes.all fun p => s.performed p.2.tid

/-- A submitting instruction for one lane (R282): its job comes from checks made when it issues; the lanes issue together
once their earlier accesses are performed, so that each acceptance is the release of R277, which a lost store stops
(R397). -/
def submitLane (engine : Job → Nat) (check : State → Lane → Chk Job) : Body := fun s l =>
  match l.thread.wait with
  | .accepted h => .value (s.modThread l.tid fun t => { t with wait := .none }) h
  | .submitted => .wait id
  | _ =>
    match lostTrap l.thread with
    | some t => .trap t false
    | none =>
      if !s.groupPerformed then .wait id
      else (Chk.act (fun k => check k l) s fun k j =>
        submitAct k (engine j) j fun k => match check k l with | .ok k' _ => k' | _ => k)

/-! ### What a job reads -/

/-- What a part of a job comes to: done with a result, failed with an error of R273 at an address, or waiting
for an ownership transfer; the job as it then is has the write stamps of what it wrote before it failed (R276). -/
inductive JRun (α : Type) where
  | ok (s : State) (a : α)
  | fail (s : State) (j : Job) (err va : Nat)
  | wait (s : State)

/-- One part of a job after another. -/
def JRun.bind {α β : Type} (r : JRun α) (f : State → α → JRun β) : JRun β :=
  match r with
  | .ok s a => f s a
  | .fail s j e v => .fail s j e v
  | .wait s => .wait s

/-- The error that a failed walk gives a job (R273). -/
def errOf (c : Cause) : Nat :=
  match c with
  | .page => 1
  | .prot => 2
  | .ownx => 3
  | .mchk => 4
  | _ => 2

/-- The physical address that a job reaches at a virtual byte (R273): translated as the job runs. A queue register is
reached through a page of mtype 2 (R199, R334); at a device register that the spec gives no behaviour the job stands
still. -/
def jobPlace (s : State) (j : Job) (a : Nat) (k : AccKind) : JRun Nat :=
  let va := vaNat (sextN a 57)
  match walk s j.pid va k j.level with
  | .error t => .fail s j (errOf t.cause) va
  | .ok (s, t, _) =>
    match s.place t.pa with
    | .ram p => match s.ownCheck p with
      | .ok => .ok s p
      | .refused s => .fail s j 3 va
      | .wait s => .wait s
    | .remote p => if s.linked (pkgOf p) then .ok s p else .fail s j 4 va
    | .device p =>
      if leafMtype t.leaf ≠ 2 then .fail s j 4 va else if (queueReg p).isSome then .ok s p else .wait s
    | .hole => .fail s j 4 va

/-- The virtual address of a byte that a job counts modulo 2^57. -/
def jobVa (a : Nat) : Nat := vaNat (sextN a 57)

/-- Bytes with their poison marks. -/
abbrev Marked := List (Byte × Bool)

/-- Whether the word that a byte of memory lies in carries poison (R271). -/
def State.wordPoisoned (s : State) (pa : Nat) : Bool := s.poisonAt (pa / 4 * 4) 4

/-- Whether a trace records a job's accesses: it belongs to a bolt of a spawn (R264, R351). -/
def Job.records (j : Job) : Bool := j.spawn != 0 && j.bolt.isSome

/-- A chunk of its source that a job has read before the others (R277). -/
def Job.early? (j : Job) (space a n : Nat) : Option Marked :=
  ((j.early.find? fun x => x.1 == space && x.2.1 == a).map (·.2.2)).filter fun b => b.length == n

/-- The bytes of a run that a job reads, in chunks of 64 bytes (R277), each recorded as a read (R351); a byte of a
poisoned word is marked, and a chunk that the job has read earlier stays as it then was. -/
def jobRead (j : Job) (space : Nat) : Nat → State → Nat → Nat → JRun Marked
  | 0, s, _, _ => .ok s []
  | fuel + 1, s, a, n =>
    if n = 0 then .ok s []
    else
      let m := min n (64 - a % 64)
      let part : JRun Marked :=
        match j.early? space a m with
        | some b => .ok s b
        | none =>
        if space = 0 then
          (jobPlace s j a .read).bind fun s pa =>
            let r := s.portRead pa m
            let bs := (List.range m).map fun i => ((r.2[i]?).getD 0, s.wordPoisoned (pa + i))
            let s := r.1
            .ok (if j.records then s.record j.spawn j.bidx (jobVa a) false else s) bs
        else if space = 1 then
          match ((j.spBolts[a / 2 ^ 21]?).getD none).bind s.bolt? with
          | some t => .ok s ((List.range m).map fun i =>
              (memByte t.spad (a % 2 ^ 21 + i), t.poisoned (a % 2 ^ 21 + i) 1))
          | none => .fail s j 2 0
        else .ok s ((List.range m).map fun i => (s.vaultRead (a + i), s.vaultPoisoned (a + i) 1))
      part.bind fun s bs => (jobRead j space fuel s (a + m) (n - m)).bind fun s rest => .ok s (bs ++ rest)

/-- Several runs read in turn. -/
def jobReads (j : Job) (space : Nat) : State → List (Nat × Nat) → JRun (List Marked)
  | s, [] => .ok s []
  | s, r :: rs =>
    (jobRead j space (r.2 + 1) s r.1 r.2).bind fun s b => (jobReads j space s rs).bind fun s l => .ok s (b :: l)

/-! ### Conversion -/

/-- The value of a scaled element (R120). -/
def scaled (x scale : FVal) : FVal :=
  match x, scale with
  | .nan _, _ => .nan false
  | _, .nan _ => .nan false
  | .inf n, .fin k m _ => if m = 0 then .nan false else .inf (n != k)
  | .inf n, .inf k => .inf (n != k)
  | .fin n m _, .inf k => if m = 0 then .nan false else .inf (n != k)
  | .fin n m e, .fin k m' e' => .fin (n != k) (m * m') (e + e')

/-- The number that marked bytes spell, and whether a bit range of it comes from a poisoned byte. -/
def Marked.num (b : Marked) : Nat := leNat (b.map (·.1))
def Marked.poisoned (b : Marked) (lo n : Nat) : Bool :=
  (b.drop (lo / 8)).take ((lo + n - 1) / 8 + 1 - lo / 8) |>.any (·.2)

/-- The scale of source element (r, c) of a card (R270), poisoned or not (log entry 75). -/
def Card.scaleAt (c : Card) (scales : Marked) (r k : Nat) : FVal :=
  let at4 (i : Nat) : FVal := decodeElem 0 (leNat (((scales.drop (4 * i)).take 4).map (·.1)))
  match c.satt with
  | 0 => .fin false 1 0
  | 1 => at4 (if c.op = 1 then r / 32 * c.kt + k / 128 else 0)
  | 2 => at4 r
  | _ => decodeElem 2 (leNat (((scales.drop (2 * (r * ((c.cols + 63) / 64) + k / 64))).take 2).map (·.1)))

/-- The source element (r, k) of a card, scaled, and whether it carries poison (R269 to R271). -/
def Card.elem (c : Card) (src : List Marked) (scales : Marked) (r k : Nat) : FVal × Bool :=
  let stream := if c.op = 1 ∧ c.inner = 1 then k else r
  let i := if c.op = 1 ∧ c.inner = 1 then r else k
  let row : Marked := (src[stream]?).getD []
  let x := decodeElem c.sfmt (bitsAt row.num (c.sbits * i) c.sbits)
  (if c.satt = 0 then x else scaled x (c.scaleAt scales r k), row.poisoned (c.sbits * i) c.sbits)

/-- A chunk of marked bytes. -/
def chunkOf (space a : Nat) (b : Marked) : Chunk := ⟨space, a, b.map (·.1), b.map (·.2)⟩

/-- A destination row of a copy or convert job as chunks, its pieces moved by the swizzle (R269). -/
def Card.rowChunks (c : Card) (r : Nat) (b : Marked) : List Chunk :=
  if c.swb = 0 then [chunkOf c.dspace (jobAddr c.dspace c.dst + r * c.dpitch) b]
  else (c.pieces r b.length).map fun x => chunkOf c.dspace x.1 ((b.drop x.2.1).take x.2.2)

/-- A destination row of a convert job: its elements converted and packed (R117, R118, R269). -/
def Card.convertRow (c : Card) (src : List Marked) (scales : Marked) (r : Nat) : Marked :=
  let els := (List.range c.cols).map fun k => c.elem src scales r k
  let bits := (List.range c.cols).foldl
    (fun n k => n + encodeElem c.dfmt ((els[k]?).getD (.nan false, false)).1 * 2 ^ (c.dbits * k)) 0
  let n := bytesFor c.dbits c.cols
  let bs := leBytes n bits
  (List.range n).map fun i =>
    ((bs[i]?).getD 0, (List.range c.cols).any fun k =>
      ((els[k]?).getD (.nan false, false)).2 && c.dbits * k / 8 ≤ i && i ≤ (c.dbits * (k + 1) - 1) / 8)

/-! ### Expansion (R125, R271) -/

/-- One expanded group: its code, and the sign and magnitude of each element; `eovf` and `ftz` for the header. -/
structure Group where
  code : Nat
  signs : List Bool
  mags : List Nat
  eovf : Bool
  ftz : Bool
  deriving DecidableEq, Repr

/-- Whether a value is finite. -/
def FVal.isFin : FVal → Bool
  | .fin _ _ _ => true
  | _ => false

/-- The exponent of the greatest magnitude of a group, if some element is nonzero. -/
def groupExp (xs : List FVal) : Option Int :=
  xs.foldl (fun m x => match x with
    | .fin _ k e => if k = 0 then m else
        let y := (Nat.log2 k : Int) + e
        some (match m with | some z => max y z | none => y)
    | _ => m) none

/-- The magnitudes of a group at an exponent (R125). -/
def groupMags (xs : List FVal) (depth : Nat) (ex : Int) : List Nat :=
  xs.map fun x => match x with
    | .fin n m e => (roundAt .rne n m e (ex - depth + 1)).1
    | _ => 0

/-- A group whose elements all vanish, with its code. -/
def flatGroup (code : Nat) (eovf ftz : Bool) : Group := ⟨code, List.replicate 32 false, List.replicate 32 0, eovf, ftz⟩

/-- One group expanded (R125). -/
def expandGroup (xs : List FVal) (depth : Nat) : Group :=
  if xs.any fun x => !x.isFin then flatGroup 0xFF false false
  else
    match groupExp xs with
    | none => flatGroup 0 false false
    | some e0 =>
      let m0 := groupMags xs depth e0
      let e := if m0.any fun m => m == 2 ^ depth then e0 + 1 else e0
      let ms := if e = e0 then m0 else groupMags xs depth e
      if 127 < e then flatGroup 0xFF true false
      else if e < -126 then flatGroup 0 false true
      else
        ⟨(e + 127).toNat, (List.range 32).map fun k => ((xs[k]?).getD (.nan false)).neg && (ms[k]?).getD 0 != 0, ms,
          false, false⟩

/-- Half a value, exactly (R271). -/
def halve : FVal → FVal
  | .fin n m e => .fin n m (e - 1)
  | x => x

/-- A row of 128 values with its duplicated channels halved (R271). -/
def dupRow (dup n : Nat) (xs : List FVal) : List FVal :=
  (List.range n).foldl
    (fun xs j =>
      let p := dupPair dup j
      let h := halve ((xs[pairOrig p]?).getD (.fin false 0 0))
      (xs.set (pairOrig p) h).set (pairSpare p) h) xs

/-- The header of an expanded tile (R122, R271). -/
def tileHeader (c : Card) (sparse spdrop ftz eovf pois : Bool) : Nat :=
  c.sfmt + c.depth * 2 ^ 8 + (if sparse then 2 ^ 16 else 0) + c.ndup * 2 ^ 17
    + (if sparse then c.nsp * 2 ^ 24 else 0) + c.dup.toNat % 2 ^ (16 * c.ndup) * 2 ^ 32
    + (if pois then 2 ^ 96 else 0) + (if eovf then 2 ^ 97 else 0) + (if ftz then 2 ^ 98 else 0)
    + (if spdrop then 2 ^ 99 else 0)

/-- The bits of a list of conditions, the first least significant. -/
def bitsNat : List Bool → Nat
  | [] => 0
  | b :: l => (if b then 1 else 0) + 2 * bitsNat l

/-- The bytes of tile (a, b) of an expand job (R121, R269, R271); an element that carries poison is zero whatever its
scale (log entry 75). -/
def Card.tile (c : Card) (src : List Marked) (scales : Marked) (a b : Nat) : List Byte :=
  let cells := (List.range 32).map fun i => (List.range 128).map fun k =>
    if 32 * a + i < c.rows ∧ 128 * b + k < c.cols then c.elem src scales (32 * a + i) (128 * b + k)
    else (.fin false 0 0, false)
  let pois := cells.any fun row => row.any (·.2)
  let rows := cells.map fun row =>
    dupRow c.dup.toNat c.ndup (row.map fun x => if x.2 then .fin false 0 0 else x.1)
  let groups := rows.map fun row => (List.range 4).map fun g => expandGroup ((row.drop (32 * g)).take 32) c.depth
  let all := groups.flatten
  let fits := all.all fun g => (g.mags.filter (· != 0)).length ≤ c.nsp
  let sparse := c.nsp != 0 && fits
  let header := tileHeader c sparse (c.nsp != 0 && !fits) (all.any Group.ftz) (all.any Group.eovf) pois
  leBytes 64 header ++ all.map (fun g => BitVec.ofNat 8 g.code)
    ++ groups.flatMap (fun row => leBytes 16 (bitsNat (row.flatMap Group.signs)))
    ++ (List.range c.depth).flatMap fun p => groups.flatMap fun row =>
        leBytes 16 (bitsNat ((row.flatMap Group.mags).map fun m => bitAt m (c.depth - 1 - p)))

/-- The words from an address that poison marks of bytes strike. -/
def poisonWords (o : Nat) (pz : List Bool) : List Nat :=
  distinct ((List.range pz.length).filterMap fun i => if (pz[i]?).getD false then some ((o + i) / 4) else none)

/-- Chunks of one space with every byte of a destination word marked that one of them poisons (R271). -/
def spreadPoison (l : List Chunk) : List Chunk :=
  let bad := distinct (l.flatMap fun c => poisonWords c.addr c.poison)
  if bad.isEmpty then l
  else l.map fun c => { c with poison := (List.range c.bytes.length).map fun i => bad.contains ((c.addr + i) / 4) }

/-- What a copy engine's job writes (R269), from what it reads. -/
def Card.output (c : Card) (src : List Marked) (scales : Marked) : List Chunk :=
  if c.op = 1 then
    (List.range c.rt).flatMap fun a => (List.range c.kt).map fun b =>
      ⟨1, c.dst.toNat + c.tileIndex a b * c.dpitch, c.tile src scales a b, []⟩
  else
    spreadPoison <| (List.range c.rows).flatMap fun r =>
      c.rowChunks r (if c.op = 0 then (src[r]?).getD [] else c.convertRow src scales r)

/-- The source and the scales of a card read, and what the job then has to write. -/
def Card.run (c : Card) (s : State) (j : Job) : JRun (List Chunk) :=
  (jobReads j 0 s c.scaleRuns).bind fun s scales =>
    (jobReads j c.sspace s c.srcRuns).bind fun s src => .ok s (c.output src (scales.flatten))

/-! ### What a job writes -/

/-- The guard that an engine's writes take (R246): its core's, or the greatest of any core. -/
def State.engineGuard (s : State) (e : Nat) : Nat := if e < 144 then s.guardOf e else s.maxGuard

/-- The state with the memory words at a physical address that poison marks of bytes strike poisoned whole (R271). -/
def State.poisonMem (s : State) (pa : Nat) (pz : List Bool) : State :=
  if (queueReg pa).isSome then s
  else { s with memPoison := (poisonWords pa pz).foldl (fun l w => addrMark l (4 * w) 4 true) s.memPoison }

/-- A run of a job's bytes written to memory, in chunks of 64 bytes, each after its tile is marked (R277,
R351, R352). -/
def jobWriteMem : Nat → State → Job → Nat → List Byte → List Bool → JRun Job
  | 0, s, j, _, _, _ => .ok s j
  | fuel + 1, s, j, a, bs, pz =>
    if bs.isEmpty then .ok s j
    else
      let m := 64 - a % 64
      (jobPlace s j a .write).bind fun s pa =>
        let s := s.markDirty (spaceOf j.pid) (jobVa a) j.spawn
        let s := s.portWrite (s.engineGuard (engineOf j.handle)) s.now pa (bs.take m) (pz.take m) (j.level == .firmware)
        let s := s.poisonMem pa (pz.take m)
        let w := (s.stampOf (pa / 128)).wts
        let s := if j.records then s.record j.spawn j.bidx (jobVa a) true else s
        jobWriteMem fuel s { j with wstamp := stampMax j.wstamp w } (a + m) (bs.drop m) (pz.drop m)

/-- One chunk of a job written. -/
def jobWrite (s : State) (j : Job) (c : Chunk) : JRun Job :=
  if c.space = 0 then jobWriteMem (c.bytes.length + 1) s j c.addr c.bytes c.poison
  else if c.space = 1 then
    match ((j.spBolts[c.addr / 2 ^ 21]?).getD none).bind s.bolt? with
    | some t =>
      let o := c.addr % 2 ^ 21
      .ok (s.modBolt t.id fun b =>
        let b := b.write o c.bytes
        { b with spPoison := (poisonWords o c.poison).foldl addrAdd b.spPoison }) j
    | none => .fail s j 2 0
  else
    let s := s.vaultWrite c.addr c.bytes
    .ok { s with vPoison := (poisonWords c.addr c.poison).foldl addrAdd s.vPoison } j

/-- The chunks of a job written in turn. -/
def jobWrites : State → Job → List Chunk → JRun Job
  | s, j, [] => .ok s j
  | s, j, c :: cs => (jobWrite s j c).bind fun s j => jobWrites s j cs

/-- The chunks that a run of bytes lies in: address and length. -/
def runChunks : Nat → Nat → Nat → List (Nat × Nat)
  | 0, _, _ => []
  | fuel + 1, a, n =>
    if n = 0 then []
    else
      let m := min n (64 - a % 64)
      (a, m) :: runChunks fuel (a + m) (n - m)

/-- The ownership transfer that a byte of a job's output must wait for, if it is not requested yet. -/
def jobNeedsXfer (s : State) (j : Job) (c : Chunk) : Option (Option State) :=
  if c.space ≠ 0 then none
  else
    (runChunks (c.bytes.length + 1) c.addr c.bytes.length).findSome? fun x =>
      match jobPlace s j x.1 .write with
      | .wait k => some (newRequest s k)
      | _ => none

/-! ### Edges (R274) -/

/-- Whether two regions meet (R274). -/
def regionsMeet (a b : Nat × Nat × Nat × Nat) : Bool := regionMeets a b.1 b.2.1 b.2.2.1 b.2.2.2

/-- Whether some region of one list meets one of another. -/
def anyMeet (l m : List (Nat × Nat × Nat × Nat)) : Bool := l.any fun a => m.any fun b => regionsMeet a b

/-- Whether a later job waits for an earlier one of its engine (R274). -/
def jobAfter (earlier later : Job) : Bool :=
  anyMeet later.reads earlier.writes || anyMeet later.writes earlier.reads || anyMeet later.writes earlier.writes

/-- Whether an earlier job of its engine that has not retired holds a job up (R274). -/
def State.heldUp (s : State) (j : Job) : Bool :=
  s.jobs.any fun x => !x.retired && x.num < j.num && engineOf x.handle == engineOf j.handle && jobAfter x j

/-- Whether a job's reads meet the destination of an accepted MSTA, or its writes a guard of the array, of an
operation accepted before the job (R294, R295). -/
def State.guardsJob (s : State) (j : Job) : Bool :=
  let mine (l : List (Nat × Nat × Nat × Nat)) (g : SpRange) : Bool := l.any fun r => r.1 == 1 && g.meets r.2.1 r.2.2.1 r.2.2.2
  s.allArrOps.any fun o => o.id < j.num &&
    ((o.writes.any fun g => mine (j.reads ++ j.writes) g) || o.reads.any fun g => mine j.writes g)

/-! ### Retirement -/

/-- Whether a bolt's allotment or slices are still in use (R289, R290, R317). -/
def State.boltInUse (s : State) (id : Nat) : Bool :=
  (s.jobs.any fun j => !j.retired && (j.reads ++ j.writes).any fun r => r.1 == 1 && r.2.1 == id)
    || s.allArrOps.any fun o => o.bolt == id || (o.reads.any fun r => r.bolt == id) || o.writes.any fun r => r.bolt == id

/-- The state with the rows and slices of ended bolts freed, once nothing uses them (R181, R290). -/
def State.reap (s : State) : State :=
  { s with bolts := s.bolts.filter fun b => b.2.bstate != .done || s.boltInUse b.1 }

/-- The state with a failed job counted for TWAIT.a (R285). -/
def State.countFailed (s : State) (j : Job) : State :=
  match j.bolt with
  | some b => s.modBolt b fun b => { b with failed := b.failed + 1 }
  | none => s.modThread j.tid fun t => { t with failed := t.failed + 1 }

/-- The state with a job's stamp written, as a release with the view of its payload (R276), where its checks found it at
submission (log entry 79); and the job, whose greatest write stamp is then the stamp's own, so that a TWAIT's view takes it
in (R285). -/
def State.writeJobStamp (s : State) (j : Job) (failed : Bool) : State × Job :=
  if !j.stmp then (s, j)
  else
    let s := s.portWrite (s.engineGuard (engineOf j.handle)) j.wstamp j.stampPa
      (leBytes 8 (j.seq.toNat % 2 ^ 63 + (if failed then 2 ^ 63 else 0))) [] (j.level == .firmware)
    (s, { j with wstamp := stampMax j.wstamp (s.stampOf (j.stampPa / 128)).wts })

/-- The state with a handle told that a fill of its buffer is done (R278); a failed one stays noted. -/
def State.filled (s : State) (j : Job) (failed : Bool) : State :=
  match j.kind with
  | .fill _ bolt handle buf =>
    if failed then s
    else s.modBolt bolt fun b => { b with handles := b.handles.map fun p =>
      if p.1 = handle ∧ (p.2.fills[buf]?).getD none = some j.handle then
        (p.1, { p.2 with fills := p.2.fills.set buf none })
      else p }
  | _ => s

/-- The state with a job retired, done or failed with an error (R273, R275). -/
def State.finishJob (s : State) (j : Job) (err va : Nat) : State :=
  let failed := err != 0
  let w := s.writeJobStamp j failed
  let s := (if failed then w.1.countFailed j else w.1).filled j failed
  let fpage := if 1 ≤ err ∧ err ≤ 4 then bitsAt va 16 41 else 0
  (s.putJob { w.2 with state := if failed then .failed else .done, err, fpage, out := [] }).reap

/-- The card that a copy engine's job runs. -/
def Job.card? (j : Job) : Option Card :=
  match j.kind with
  | .copy c => some c
  | .fill c _ _ _ => some c
  | _ => none

/-- Whether a fill's advanced addresses and regions still serve its template (R278); a card was checked when it
was submitted. -/
def Job.serves (j : Job) (c : Card) : Bool :=
  match j.kind with
  | .fill _ _ _ _ =>
    addrValid c.sspace c.src && (c.satt == 0 || canonicalWord c.sca) && j.reads.length == c.reads.length && c.extentOk
  | _ => true

/-- What a queued job of a copy engine comes to, once nothing holds it up. -/
def startRun (s : State) (j : Job) : Option (JRun (List Chunk)) :=
  match j.card?, j.state with
  | some c, .queued =>
    if s.heldUp j || s.guardsJob j then none
    else if !j.serves c then some (.fail s j 2 c.src.toNat)
    else some (c.run s j)
  | _, _ => none

/-- JOB_START (R274, R277; log entry 12): the job reads its source. -/
def startCopy (j : Job) (s : State) : Option State :=
  match startRun s j with
  | some (.ok k out) => some (k.putJob { j with state := .running, out, wstamp := stampMax j.wstamp k.now })
  | some (.wait k) => newRequest s k
  | _ => none

/-! ### Chunks at moments of their own (R277) -/

/-- The chunks of its source that a job reads: space, address and length. -/
def Job.chunks (j : Job) : List (Nat × Nat × Nat) :=
  match j.kind with
  | .swrite c => (runChunks (c.blen + 1) (jobAddr 0 c.buf) c.blen).map fun x => (0, x)
  | _ =>
    match j.card? with
    | some c => (c.scaleRuns.flatMap fun r => (runChunks (r.2 + 1) r.1 r.2).map fun x => (0, x))
        ++ c.srcRuns.flatMap fun r => (runChunks (r.2 + 1) r.1 r.2).map fun x => (c.sspace, x)
    | none => []

/-- The parts of a job's source that lie in the aligned 64 bytes of one of its chunks: they are one chunk, which the job
reads at one moment (R277). -/
def Job.together (j : Job) (x : Nat × Nat × Nat) : List (Nat × Nat × Nat) :=
  (j.chunks.filter fun y => y.1 == x.1 && y.2.1 / 64 == x.2.1 / 64).eraseDups

/-- The state with parts of a job's source read before the others, and the job. -/
def readParts : State → Job → List (Nat × Nat × Nat) → Option (State × Job)
  | s, j, [] => some (s, j)
  | s, j, (space, a, n) :: l =>
    match jobRead j space 2 s a n with
    | .ok k bs => readParts k { j with early := j.early ++ [(space, a, bs)] } l
    | _ => none

/-- The state with the i-th chunk of a job's source read before the others, while nothing holds the job up. -/
def State.readChunk (s : State) (h i : Nat) : State :=
  match (s.job? h).bind fun j => (j.chunks[i]?).map fun x => (j, x) with
  | none => s
  | some (j, x) =>
    if j.state != .queued || s.heldUp j || s.guardsJob j || (j.early? x.1 x.2.1 x.2.2).isSome then s
    else
      match readParts s j (j.together x) with
      | some (k, j) => k.putJob j
      | none => s

/-- The k-th piece of 64 aligned bytes of a chunk, with what of the chunk lies before and after it. -/
def Chunk.split (c : Chunk) (k : Nat) : List Chunk × Chunk × List Chunk :=
  let lo := if k = 0 then 0 else 64 * k - c.addr % 64
  let hi := 64 * (k + 1) - c.addr % 64
  let part (i j : Nat) : Chunk := ⟨c.space, c.addr + i, (c.bytes.drop i).take (j - i), (c.poison.drop i).take (j - i)⟩
  let some_ (x : Chunk) : List Chunk := if x.bytes.isEmpty then [] else [x]
  (some_ (part 0 lo), part lo hi, some_ (part hi c.bytes.length))

/-- The state with the k-th piece of the i-th chunk that a job has to write written before the others. -/
def State.writeChunk (s : State) (h i k : Nat) : State :=
  match (s.job? h).bind fun j => (j.out[i]?).map fun c => (j, c) with
  | none => s
  | some (j, c) =>
    if j.card?.isNone || j.state != .running || s.guardsJob j || (c.split k).2.1.bytes.isEmpty then s
    else
      let x := c.split k
      match jobWrite s j x.2.1 with
      | .ok s j => s.putJob { j with out := j.out.take i ++ x.1 ++ x.2.2 ++ j.out.drop (i + 1) }
      | _ => s

/-! ### Retirement of a copy -/

/-- JOB_RETIRE (R275, R276): the job's writes are performed, then its stamp. -/
def retireCopy (j : Job) (s : State) : Option State :=
  if j.card?.isNone || j.state != .running || s.guardsJob j then none
  else
    match j.out.findSome? fun c => jobNeedsXfer s j c with
    | some r => r
    | none =>
      match jobWrites s j j.out with
      | .ok k j => some (k.finishJob j 0 0)
      | _ => none

/-- JOB_FAIL (R273): the job stops at an access that fails; what it wrote before stays. -/
def failCopy (j : Job) (s : State) : Option State :=
  match startRun s j with
  | some (.fail k j err va) => some (k.finishJob { j with wstamp := stampMax j.wstamp k.now } err va)
  | _ =>
    if j.card?.isNone || j.state != .running || s.guardsJob j then none
    else
      match jobWrites s j j.out with
      | .fail k j err va => some (k.finishJob j err va)
      | _ => none

/-! ### Instructions -/

/-- The bolts that a thread's scratchpad addresses name, by fold selector (R182, R265). -/
def State.foldBolts (s : State) (t : Thread) : List (Option Nat) :=
  (List.range 4).map fun i => (t.bolt.bind s.bolt?).bind fun b => (s.foldBolt b i).map Bolt.id

/-- A job for a thread's submission. -/
def Thread.newJob (t : Thread) (s : State) (kind : JKind) (reads writes : List (Nat × Nat × Nat × Nat)) : Job :=
  { handle := 0, num := 0, kind, tid := t.tid, pid := t.pid, level := t.plvl,
    bolt := if t.onLatency then none else t.bolt, spBolts := s.foldBolts t, spawn := t.spawn,
    bidx := s.boltIndex t.spawn t.fcoord t.bcoord, state := .queued, err := 0, fpage := 0, reads, writes,
    stmp := false, stampVa := 0, stampPa := 0, seq := 0, out := [], wstamp := 0, drive := none }

/-- TCPY (R283). -/
def execTcpy (f : Fields) (s : State) : Result :=
  issue rTcpy f true (fun _ => none) false
    (submitLane (fun _ => coreEngine s.cur.core) fun k l =>
      (checkCard k l.thread k.cur.core (l.addr f)).bind fun k c =>
        .ok k { l.thread.newJob k (.copy c.card) c.reads c.writes with
          stmp := c.card.stmp, stampVa := c.card.stamp, stampPa := c.stampPa, seq := c.card.seq }) s

/-- The code of a job's state (R284). -/
def JState.code : JState → Nat
  | .queued => 0
  | .running => 1
  | .done => 2
  | .failed => 3

/-- The job that a handle names for a process (R284). -/
def State.jobFor (s : State) (pid : Nat) (h : Word) : Option Job :=
  (s.job? h.toNat).filter fun j => j.pid == pid && s.remembered j

/-- The status word of a handle (R284). -/
def State.jobStatus (s : State) (pid : Nat) (h : Word) : Word :=
  match s.jobFor pid h with
  | some j => BitVec.ofNat 64 (j.fpage * 2 ^ 16 + j.err * 256 + j.state.code)
  | none => 7

/-- TCST (R284). -/
def execTcst (f : Fields) (s : State) : Result :=
  issue rDst1 f false (fun _ => none) false (fun s l => .value s (s.jobStatus l.thread.pid l.a)) s

/-- TWAIT.o (R285). -/
def execTwaitO (f : Fields) (s : State) : Result :=
  issue rDst1 f false (fun _ => none) false
    (fun s l =>
      match s.jobFor l.thread.pid l.a with
      | some j =>
        if !j.retired then .wait id
        else .value (s.acquireView l.tid j.wstamp) (s.jobStatus l.thread.pid l.a)
      | none => .value s 7) s

/-- The jobs that a TWAIT.a of a thread waits for (R285): its bolt's, or on a latency core its own. -/
def State.jobsFor (s : State) (t : Thread) : List Job :=
  s.jobs.filter fun j => if t.onLatency then j.bolt.isNone && j.tid == t.tid else j.bolt.isSome && j.bolt == t.bolt

/-- The failed jobs that TWAIT.a has not reported (R285). -/
def State.failedFor (s : State) (t : Thread) : Nat :=
  if t.onLatency then t.failed else ((t.bolt.bind s.bolt?).map Bolt.failed).getD 0

/-- The state with the count of failed jobs set (R285). -/
def State.setFailed (s : State) (t : Thread) (n : Nat) : State :=
  if t.onLatency then s.modThread t.tid fun t => { t with failed := n }
  else match t.bolt with
    | some b => s.modBolt b fun b => { b with failed := n }
    | none => s

/-- The state with the failed jobs of a thread that were accepted before a mark told to a TWAIT.a, and the others left to
the next one (R285). -/
def State.tellFailed (s : State) (t : Thread) (mark left : Nat) : State :=
  let mine := (s.jobsFor t).map Job.handle
  ({ s with jobs := s.jobs.map fun (j : Job) =>
      if mine.contains j.handle ∧ j.num < mark ∧ j.state = .failed then { j with told := true } else j } : State).setFailed t left

/-- The acceptance number that bounds the jobs an issue of TWAIT.a waits for: as it first issued (R285). -/
def twaitMark (s : State) (t : Thread) : Nat := match t.wait with | .jobs m => m | _ => s.seq

/-- TWAIT.a (R285): once per issue, for every lane. -/
def execTwaitA (f : Fields) (s : State) : Result :=
  match s.issueLanes with
  | [] => .next s
  | (_, t) :: _ =>
    let mark := twaitMark s t
    let mine := (s.jobsFor t).filter fun j => j.num < mark
    let later := ((s.jobsFor t).filter fun j => mark ≤ j.num && j.state == .failed && !j.told).length
    let ready := mine.all Job.retired
    let count := min (s.failedFor t - later) (2 ^ 32 - 1)
    let view := mine.foldl (fun v j => stampMax v j.wstamp) (s.viewOf t)
    issue rDst f false (fun _ => none) false
      (fun s l =>
        if ready then
          .value (((s.modThread l.tid fun t => { t with wait := .none }).acquireView l.tid view).tellFailed l.thread
            mark later) (BitVec.ofNat 64 count)
        else .wait fun k => k.modThread l.tid fun t => { t with wait := .jobs mark }) s

/-! ### Tile handles -/

/-- A bound handle of a bolt. -/
def Bolt.handle? (b : Bolt) (h : Nat) : Option Handle := tabGet b.handles h

/-- Whether a wait for acceptance still stands: its leader is active at the instruction (R304). -/
def State.waitLive (s : State) (q : QWait) : Bool :=
  match s.thread? q.leader with
  | some t => t.active && t.pc == q.pc
  | none => false

/-- The operands that a wait names. -/
def QWait.opnds (q : QWait) : List Opnd :=
  match q.kind with
  | .quarter _ _ a bs => a :: bs
  | .store _ _ _ _ => []

/-- Whether an operand names a buffer of a handle. -/
def Opnd.names (o : Opnd) (h buf : Nat) : Bool :=
  match o with
  | .use h' _ b => h' == h && b == some buf
  | _ => false

/-- The uses of a buffer that have not read it (R278): quarters that wait and operations accepted. -/
def State.readersOf (s : State) (b : Bolt) (h buf : Nat) : Nat :=
  let waits := ((s.weftsOf b).flatMap fun w => w.2.waitQ).filter s.waitLive
  (waits.filter fun q => q.opnds.any fun o => o.names h buf).length
    + (((s.wcore b.core).aq.filter fun o => o.bolt == b.id && o.data.isNone).filter fun o => match o.kind with
        | .quarter a bs _ => (a :: bs).any fun t => t.buf == some (h, buf)
        | _ => false).length

/-- Whether a template may be bound with n buffers (R278). -/
def templateOk (c : Card) (n : Nat) : Bool :=
  c.op == 1 && c.dspace == 1 && !c.stmp && c.rows ≤ 32 && c.cols ≤ 128
    && (match c.writes with
        | r :: _ => r.space == 1 && r.lo ≤ c.dst.toNat && c.dst.toNat + n * c.dpitch ≤ r.lo + r.len
        | [] => false)

/-- Whether an operand is a use of a handle. -/
def Opnd.uses (o : Opnd) (h : Nat) : Bool :=
  match o with
  | .use h' _ _ => h' == h
  | .spad _ => false

/-- Whether a queued use of a handle has not read its buffer (R286). -/
def State.handleBusy (s : State) (b : Bolt) (h : Nat) : Bool :=
  (((s.weftsOf b).flatMap fun w => w.2.waitQ).any fun q => s.waitLive q && q.opnds.any fun o => o.uses h)
    || (List.range 2).any fun j => s.readersOf b h j != 0

/-- THDL.b (R286): its NEEDW on a latency core carries v, which the rule leaves open (log entry 10). -/
def execThdlB (f : Fields) (s : State) : Result :=
  issue rThdl f false (fun _ => none) false
    (fun s l =>
      let v := l.addr f
      let h := bitsAt l.b.toNat 0 4
      let n := bitsAt l.b.toNat 4 2
      match laneBolt s l (Trap.int .needw v) with
      | .error t => .trap t false
      | .ok b =>
        Chk.act (fun k => checkCard k l.thread k.cur.core v) s fun k c =>
          if bitsAt l.b.toNat 6 58 ≠ 0 ∨ n = 0 ∨ 2 < n ∨ !templateOk c.card n then .trap (Trap.intAt .prot v) false
          else if k.handleBusy b h then .wait id
          else
            let new : Handle :=
              { card := c.card, raw := c.raw.map (BitVec.ofNat 64), nbuf := n, offs := List.replicate n none,
                fills := List.replicate n none, oldest := 0 }
            .done (k.modBolt b.id fun b => { b with handles := tabPut b.handles h new })) s

/-- THDL.u (R286): its NEEDW on a latency core carries v, which the rule leaves open (log entry 10). -/
def execThdlU (f : Fields) (s : State) : Result :=
  issue rClfl f false (fun _ => none) false
    (fun s l =>
      let v := l.addr f
      match laneBolt s l (Trap.int .needw v) with
      | .error t => .trap t false
      | .ok b =>
        if v < 0 ∨ 16 ≤ v then .trap (Trap.int .prot v) false
        else if s.handleBusy b v.toNat then .wait id
        else .done (s.modBolt b.id fun b => { b with handles := tabDel b.handles v.toNat })) s

end Sys2Proof.Machine
end

