-- ==== Sys2Proof/Machine/Crook.lean ====
section
/-! DEFINITION. Matrix instructions as one lane issues them for others (R291), and the crook's instructions
(R301 to R303, R314, R315). -/

namespace Sys2Proof.Machine

/-! ### Issue by leaders -/

/-- A lane that issues for lanes that share its outcome (R291): its position, its thread, and the tids of all
of them, its own first. -/
structure Lead where
  lane : Nat
  thread : Thread
  tids : List Nat
  deriving DecidableEq, Repr

/-- The trap of a leader at its attempt to issue (R57, R384). -/
def leadTrap (s : State) (r : OpRule) (f : Fields) (l : Lead) : Option Trap := laneTrap s l.thread r f none []

/-- Whether a leader's sources, or the destination of a lane that shares its outcome, are empty (R57). -/
def leadBlocked (s : State) (r : OpRule) (f : Fields) (l : Lead) : Bool :=
  regsBlock l.thread r f
    || (r.rd == .gen && l.tids.any fun t => match s.thread? t with
        | some u => !(u.reg f.rd).full
        | none => false)

/-- Whether a trap of one of some lanes must wait. -/
def leadWaits (s : State) (tids : List Nat) (t : Trap) : Bool := tids.any fun x => trapWaits s x t

/-- The state with a leader's trap taken by every lane that shares its outcome. -/
def trapTids (s : State) (f : Fields) (tids : List Nat) (t : Trap) : State :=
  tids.foldl (fun s x => takeTrap s x f t false false) s

/-- The state with an instruction completed by every lane that shares an outcome, with a result for rd. -/
def doneTids (s : State) (f : Fields) (tids : List Nat) (v : Option Word) : State :=
  tids.foldl
    (fun s x =>
      let s := match v with
        | some v => s.setReg x f.rd ⟨v, true, false⟩
        | none => s
      s.advance x f false) s

/-- One leader's part of an issue, where `held` says that a leader without a trap is blocked, so that none of them issues
(R57). -/
def leadStep (r : OpRule) (f : Fields) (body : Body) (held : Bool) (s : State) (l : Lead) : State :=
  match leadTrap s r f l with
  | some t => if leadWaits s l.tids t then s.block else trapTids s f l.tids t
  | none =>
    if held then s.block
    else
      match poisonTrap l.thread r f false [] with
      | some t => if leadWaits s l.tids t then s.block else trapTids s f l.tids t
      | none =>
        match body s (readLane r f l.lane l.thread []) with
        | .done k => doneTids k f l.tids none
        | .value k v => doneTids k f l.tids (some v)
        | .trap t _ => if leadWaits s l.tids t then s.block else trapTids s f l.tids t
        | .trapAfter keep t => if leadWaits s l.tids t then s.block else trapTids (keep s) f l.tids t
        | .wait keep => (keep s).block
        | _ => s

/-- Whether a leader without a trap is blocked, which holds back all of them (R57). -/
def leadsHeld (s : State) (r : OpRule) (f : Fields) (leads : List Lead) : Bool :=
  leads.any fun l => (leadTrap s r f l).isNone && leadBlocked s r f l

/-- One issue by leaders, in order; those that wait leave the issue blocked. -/
def issueLeads (r : OpRule) (f : Fields) (leads : List Lead) (body : Body) (s : State) : Result :=
  .next (leads.foldl (leadStep r f body (leadsHeld s r f leads)) s).bump

/-- The one leader of an instruction that acts once per issue (R291): the lowest lane. -/
def State.soleLead (s : State) : List Lead :=
  match s.issueLanes with
  | [] => []
  | (i, t) :: rest => [⟨i, t, t.tid :: rest.map fun p => p.2.tid⟩]

/-- One issue of an instruction of the matrix group that acts once per issue. -/
def issueOnce (r : OpRule) (f : Fields) (body : Body) (s : State) : Result := issueLeads r f s.soleLead body s

/-- What an instruction of the matrix group does on a core with an array (R308): NEEDW on a latency core,
CROOK in a pack bolt. -/
def onArray (s : State) (l : Lane) (body : Bolt → Act) : Act :=
  if l.thread.onLatency then .trapAfter State.bumpFresh ⟨.needw, Config.openTrapval s.fresh, false⟩
  else
    match l.thread.bolt.bind s.bolt? with
    | none => .trap (Trap.plain .crook 0) false
    | some b => if b.pack then .trap (Trap.plain .crook 0) false else body b

/-! ### The crook -/

/-- The stage number of the weft that a thread is in (R19). -/
def Thread.weftStage (t : Thread) (b : Bolt) : Nat := t.weft % b.nstage

/-- Whether the holder of a core's crook is a stage of a bolt. -/
def State.holds (s : State) (b : Bolt) (stage : Nat) : Bool := (s.wcore b.core).crook.holder == some (b.id, stage)

/-- Whether a bolt has a claim in the queue of its core's crook. -/
def State.claims (s : State) (b : Bolt) : Bool := (s.wcore b.core).crook.claims.any fun x => x.1 == b.id

/-- Whether the quarters of a stage of a bolt are due (R301). -/
def State.due (s : State) (b : Bolt) (stage : Nat) : Bool :=
  s.claims b || (match (s.wcore b.core).crook.holder with
    | some (id, st) => id == b.id && st != stage
    | none => false)

/-- The crook status word of a bolt (R315). -/
def State.crookStatus (s : State) (b : Bolt) : Word :=
  let c := (s.wcore b.core).crook
  let mine := match c.holder with | some (id, _) => id == b.id | none => false
  let votes := if mine then c.votes.foldl (fun n i => n ||| 2 ^ i) 0 else 0
  let state := match c.holder with | none => 0 | some _ => if mine then 1 else 2
  let stage := match c.holder with | some (_, st) => if mine then st else 0 | none => 0
  BitVec.ofNat 64 (state + stage * 4 + flag (s.claims b) * 32 + flag (!c.votes.isEmpty && c.kind) * 128
    + min c.claims.length 255 * 256 + votes * 2 ^ 32)

/-- The state with the lanes of an issue waiting at their CROOK.t, until a grant completes it (R302). -/
def State.awaitCrook (s : State) : State :=
  s.issueLanes.foldl (fun k p => k.modThread p.2.tid fun t => { t with wait := .crook t.pc }) s

/-- The state with the lanes of an issue waiting at no CROOK.t any more. -/
def State.unawaitCrook (s : State) : State :=
  s.issueLanes.foldl (fun k p => k.modThread p.2.tid fun t =>
    { t with wait := match t.wait with | .crook _ => .none | w => w }) s

/-- CROOK.t (R302, R314). -/
def execCrookT (f : Fields) (s : State) : Result :=
  issueOnce rNone f
    (fun s l => onArray s l fun b =>
      let st := l.thread.weftStage b
      match (s.wcore b.core).crook.holder with
      | none => .done ((s.unawaitCrook.grantCrook b.core b.id st).checkCrook b.core)
      | some (id, st') =>
        if id = b.id then if st' = st then .done s.unawaitCrook else .wait State.awaitCrook
        else if s.claims b then .wait State.awaitCrook
        else .wait fun k => (k.claimCrook b.core b.id st).awaitCrook) s

/-- A vote of a weft (R302). -/
def crookVote (release : Bool) (s : State) (l : Lane) (b : Bolt) : Act :=
  let c := (s.wcore b.core).crook
  let st := l.thread.weftStage b
  let bad := Act.trap ⟨.crook, s.crookStatus b, false⟩ false
  if !s.holds b st then bad
  else if !c.votes.isEmpty && c.kind != release then bad
  else if c.votes.contains l.thread.weft then .done s
  else
    .done ((s.modCrook b.core fun c => { c with votes := c.votes ++ [l.thread.weft], kind := release }).checkCrook b.core)

/-- CROOK.p (R302, R314). -/
def execCrookP (f : Fields) (s : State) : Result :=
  issueOnce rNone f (fun s l => onArray s l (crookVote false s l)) s

/-- CROOK.r (R302, R314). -/
def execCrookR (f : Fields) (s : State) : Result :=
  issueOnce rNone f (fun s l => onArray s l (crookVote true s l)) s

/-- CROOK.q (R315). -/
def execCrookQ (f : Fields) (s : State) : Result :=
  issueOnce rDst f (fun s l => onArray s l fun b => .value s (s.crookStatus b)) s

/-- CROOK_EXPIRY (R303): the claim of the expired holder is appended, and the head claim is granted. -/
def tryCrookExpiry (core : Nat) (s : State) : Option State :=
  let w := s.wcore core
  match w.crook.holder with
  | none => none
  | some (id, st) =>
    if w.crook.claims.isEmpty then none
    else if (w.crook.lastAcc.getD w.crook.tg) + 16384 ≤ w.cyc ∨ w.crook.tg + 1048576 ≤ w.cyc then
      some (((s.claimCrook core id st).nextCrook core).checkCrook core)
    else none

/-- CROOK_EXPIRY. -/
def execCrookExpiry (core : Nat) (s : State) : Result := .next ((tryCrookExpiry core s).getD s)

end Sys2Proof.Machine
end

