-- ==== Sys2Proof/Machine/Descriptor.lean ====
section
/-! DEFINITION. Spawn descriptors (R342 to R344) and what a flock of a spawn demands of a core (R180, R337). -/

namespace Sys2Proof.Machine

/-- A descriptor of 32 dwords, taken apart (R342, R343). -/
def descOf (w : List Nat) : Desc :=
  let d (i : Nat) : Nat := (w[i]?).getD 0
  { pclass := bitsAt (d 0) 0 2, prio := bitsAt (d 0) 2 2, trace := bitAt (d 0) 4, nstage := bitsAt (d 0) 8 3 + 1,
    nflock := bitsAt (d 1) 32 32, t := bitsAt (d 1) 16 11, fm1 := bitsAt (d 1) 0 2, entry := BitVec.ofNat 64 (d 2),
    args := (List.range 4).map fun i => BitVec.ofNat 64 (d (3 + i)), blocks := bitsAt (d 7) 37 3,
    nslice := bitsAt (d 7) 32 5, spbytes := bitsAt (d 7) 0 21, done := BitVec.ofNat 64 (d 8),
    seq := BitVec.ofNat 64 (d 9), tarea := BitVec.ofNat 64 (d 10), ebolt := bitsAt (d 11) 32 16,
    tlen := bitsAt (d 11) 0 32,
    chans := (List.range 32).map fun c =>
      let x := bitsAt (d (16 + c / 2)) (32 * (c % 2)) 32
      (bitsAt x 0 4, bitsAt x 4 13) }

/-- Whether the reserved fields of a descriptor are zero (R342, R343). -/
def descReserved (w : List Nat) : Bool :=
  let d (i : Nat) : Nat := (w[i]?).getD 0
  bitsAt (d 0) 11 53 == 0 && bitsAt (d 0) 5 3 == 0 && bitsAt (d 1) 27 5 == 0 && bitsAt (d 1) 2 14 == 0
    && bitsAt (d 7) 40 24 == 0 && bitsAt (d 7) 21 11 == 0 && bitsAt (d 11) 48 16 == 0
    && ((List.range 4).all fun i => d (12 + i) == 0)
    && (List.range 32).all fun c => bitsAt (d (16 + c / 2)) (32 * (c % 2) + 17) 15 == 0

/-- The wefts, scratchpad rows and bolts of a flock (R19, R180). -/
def Desc.nweft (d : Desc) : Nat := (d.t + 31) / 32
def Desc.rows (d : Desc) : Nat := (d.spbytes + 2047) / 2048
def Desc.f (d : Desc) : Nat := d.fm1 + 1

/-- The bolts and the threads of a spawn's flock. -/
def Desc.nbolt (d : Desc) : Nat := d.nflock * d.f
def Desc.flockThreads (d : Desc) : Nat := d.f * d.t

/-- Whether a channel map entry serves (R323, R344). -/
def chanOk (rows : Nat) (c : Nat × Nat) : Bool :=
  c.1 == 0 || (5 ≤ c.1 && c.1 ≤ 14 && c.2 * 256 + 8 * 2 ^ c.1 ≤ 2048 * rows)

/-- Whether the fields of a descriptor are valid (R344). -/
def Desc.ok (d : Desc) : Bool :=
  d.pclass != 3 && d.t != 0 && d.t ≤ 1024 && d.nflock != 0 && d.blocks != 0 && d.nstage ≤ d.nweft && d.nslice ≤ 16
    && d.spbytes ≤ 1572864 && d.chans.all (chanOk d.rows) && !d.entry.getLsbD 0 && canonicalWord d.entry
    && !d.seq.getLsbD 63 && (d.trace || (d.tarea == 0 && d.ebolt == 0))

/-- Whether a descriptor is valid (R344). -/
def descValid (w : List Nat) : Bool := descReserved w && (descOf w).ok

/-- The channels of a bolt as placement makes them (R323). -/
def Desc.channels (d : Desc) : Tab Chan :=
  (List.range 32).filterMap fun c => match d.chans[c]? with
    | some (dcode, base) => if dcode = 0 then none else some (c, ⟨0, 0, base, dcode⟩)
    | none => none

/-- How many bolts of a spawn fit given weft slots, rows and slices (R337). -/
def Desc.room (d : Desc) (slots rows slices : Nat) : Nat :=
  let a := slots / d.nweft
  let b := if d.rows = 0 then a else rows / d.rows
  let c := if d.nslice = 0 then a else slices / d.nslice
  min a (min b c)

/-- A descriptor read as a load of 256 bytes at its alignment (R217, R356). -/
def chkDesc (s : State) (t : Thread) (core : Nat) (v : Int) : Chk (List Nat) :=
  (chkRecord s t core v 256).bind fun s bs => .ok s (dwords bs)

end Sys2Proof.Machine
end

