-- ==== Sys2Proof/Machine/Heat.lean ====
section
/-! DEFINITION. Temperatures and trips as the rest of the machine reads them (R337, R373 to R375), and clock
requests, ceilings and ratios (R368, R369). -/

namespace Sys2Proof.Machine

/-! ### Sensors -/

/-- A sensor (R373); one that has not reported holds the value of log entry 3. -/
def State.sensor (s : State) (k : Nat) : Sensor :=
  (tabGet s.sensors k).getD ⟨Config.bootTemp, false, 0, (Config.bootTemp, Config.bootTemp)⟩

/-- Whether a number names a sensor (R422, snsel). -/
def isSensor (k : Nat) : Bool := k < 312

/-- The core beside a weft core in its row (R373). -/
def besideCore (c : Nat) : Nat := c - c % 6 + (c % 6 ^^^ 1)

/-- The two neighbours of a sensor (R373). -/
def neighbours (k : Nat) : Nat × Nat :=
  if k < 288 then
    let c := k / 2
    let l := k % 2
    (2 * c + (1 - l), 2 * besideCore c + l)
  else
    let d := (k - 288) / 12
    let i := (k - 288) % 12 / 6
    let j := (k - 288) % 6
    (288 + 12 * d + 6 * (1 - i) + j, 288 + 12 * d + 6 * i + (j ^^^ 1))

/-- The value of a sensor after the substitution of R375. -/
def State.heat (s : State) (k : Nat) : Int :=
  let x := s.sensor k
  if x.suspect then
    let n := neighbours k
    max (s.sensor n.1).raw (s.sensor n.2).raw + 80
  else x.raw

/-- The sensors of a column, a weft core's number, or of L-die d, the number 256 + d (R373, R394). -/
def sensorsOf (col : Nat) : List Nat :=
  if col < 144 then [2 * col, 2 * col + 1] else (List.range 12).map fun i => 288 + 12 * (col - 256) + i

/-- The column or L-die that a sensor stands in. -/
def columnOf (k : Nat) : Nat := if k < 288 then k / 2 else 256 + (k - 288) / 12

/-- The greatest of some numbers, at least m. -/
def maxOf (m : Int) (l : List Int) : Int := l.foldl max m

/-- The reading of a column or L-die (R373). -/
def State.reading (s : State) (col : Nat) : Int := maxOf (-2 ^ 31) ((sensorsOf col).map s.heat)

/-- The trips of a column or L-die that its own readings gave (R374). -/
def State.ownTrip (s : State) (col : Nat) : Trip := (tabGet s.trips col).getD ⟨0, none, none⟩

/-- Whether a sensor and one of its neighbours are both suspect (R375). -/
def State.pairSuspect (s : State) (k : Nat) : Bool :=
  (s.sensor k).suspect && ((s.sensor (neighbours k).1).suspect || (s.sensor (neighbours k).2).suspect)

/-- Whether a column or L-die is put at trip 2 whatever its reading, until firmware clears the marks (R375). -/
def State.forcedTrip (s : State) (col : Nat) : Bool := (sensorsOf col).any s.pairSuspect

/-- The trips in force for a column or L-die (R374, R375). -/
def State.trip (s : State) (col : Nat) : Trip :=
  let t := s.ownTrip col
  if s.forcedTrip col then { t with level := max t.level 2 } else t

/-- The column or L-die of a core. -/
def heatColumn (core : Nat) : Nat := if isWeft core then core else 256 + dieOf core

/-- Whether trip 2 or above holds for a core (R374). -/
def State.hot (s : State) (core : Nat) : Bool := 2 ≤ (s.trip (heatColumn core)).level

/-- Whether a core is open to placement (R337): running, not closed, without trip 2, no sensor above the
ceiling. -/
def State.coreOpen (s : State) (core : Nat) : Bool :=
  !(s.wcore core).halted && !(s.wcore core).closed && !s.hot core
    && (sensorsOf core).all fun k => s.heat k ≤ s.fw.plceil.toNat

/-! ### Clock requests -/

/-- The request of a weft (R368): the greatest of its members'. -/
def State.weftRequest (s : State) (w : Weft) : Nat := (s.memberThreads w).foldl (fun m t => max m t.clock) 4

/-- The ceiling of a context on a core (R369). -/
def State.ceiling (s : State) (pid core : Nat) : Nat := if s.hot core then 16 else 16 + min 3 (s.ctx pid).cap

/-- The process of a weft: its bolt's. -/
def State.weftPid (s : State) (w : Weft) : Nat := ((s.bolt? w.bolt).map Bolt.pid).getD 0

/-- The request of a weft clipped to its context's ceiling (R368). -/
def State.clipped (s : State) (core : Nat) (w : Weft) : Nat := min (s.weftRequest w) (s.ceiling (s.weftPid w) core)

/-- The wefts in a slice. -/
def State.sliceWefts (s : State) (core slice : Nat) : List Weft :=
  ((s.wcore core).slots.filter fun x => x.1 / 8 == slice).map (·.2)

/-- The request of a slice (R368): 4 without a weft. -/
def State.sliceRequest (s : State) (core slice : Nat) : Nat :=
  (s.sliceWefts core slice).foldl (fun m w => max m (s.clipped core w)) 4

/-- The ratio that a slice moves to (R368, R374). -/
def State.sliceTarget (s : State) (core slice : Nat) : Nat :=
  min (s.sliceRequest core slice) (if s.hot core then 8 else 16)

/-- The boost request of a context on a core (R368). -/
def State.boostRequest (s : State) (pid core : Nat) : Nat :=
  ((s.wcore core).slots.filter fun x => s.weftPid x.2 == pid).foldl (fun m x => max m (s.clipped core x.2)) 16 - 16

end Sys2Proof.Machine
end

