-- ==== Sys2Proof/Machine/NetBarrier.lean ====
section
/-! DEFINITION. Network barriers (R328 to R333): registrations, the tree of routers and its packets, and the
instructions NBAR and NBINIT. Packets of one barrier travel in the order in which they were sent. -/

namespace Sys2Proof.Machine

/-! ### The tree -/

/-- The port of a router that leads to the router of another die. -/
def diePort (die : Nat) : Nat := 1000 + die

/-- Whether this package holds the root router of a barrier (R329). -/
def State.holdsRoot (s : State) (nbid : Nat) : Bool := nbid < 192 || bitsAt s.fw.pkgid.toNat 0 6 == 0

/-- The parent of a die's router within the package (R329). -/
def parentDie (die : Nat) : Option Nat :=
  match die with
  | 0 => none
  | 1 => some 0
  | d => some (d % 2)

/-- A router's counts for one barrier (R330). -/
def State.router (s : State) (nbid die : Nat) : Router := (tabGet s.routers (8 * nbid + die)).getD ⟨[], 0⟩

/-- The state with a router's counts; one with nothing to count has no entry. -/
def State.putRouter (s : State) (nbid die : Nat) (r : Router) : State :=
  let ports := r.ports.filter fun p => p.2 != (0, 0)
  if ports.isEmpty ∧ r.since = 0 then { s with routers := tabDel s.routers (8 * nbid + die) }
  else { s with routers := tabPut s.routers (8 * nbid + die) ⟨ports, r.since⟩ }

/-- Whether every marked port has reported, with arrivals since the last forward (R330). -/
def Router.complete (r : Router) : Bool := 0 < r.since && r.ports.all fun p => p.2.1 == 0 || p.2.1 == p.2.2

/-- The counts with a port's mark and rep changed. -/
def Router.onPort (r : Router) (port : Nat) (f : Nat → Nat → Nat × Nat) : Router :=
  let c := (tabGet r.ports port).getD (0, 0)
  { r with ports := tabPut r.ports port (f c.1 c.2) }

/-- The state with a packet sent. -/
def State.send (s : State) (die nbid port : Nat) (kind : NKind) : State :=
  { s with pkts := s.pkts ++ [⟨die, nbid, port, kind⟩] }

/-- The state with a packet sent to the parent of a die's router, if it stands in this package. -/
def State.sendUp (s : State) (die nbid : Nat) (kind : NKind) : State :=
  match parentDie die with
  | some p => s.send p nbid (diePort die) kind
  | none => s

/-- The state with a packet sent from a participant's core to the router of its die. -/
def State.sendFrom (s : State) (core nbid : Nat) (kind : NKind) : State := s.send (dieOf core) nbid core kind

/-- The network barrier of an nbid, when it is in use (R328). -/
def State.nbar? (s : State) (nbid : Nat) : Option NBar := tabGet s.nbars nbid

/-- The state with a network barrier's record. -/
def State.putNbar (s : State) (nbid : Nat) (b : NBar) : State := { s with nbars := tabPut s.nbars nbid b }

/-! ### Participants -/

/-- The participant that a thread belongs to (R328): its bolt, or itself. -/
def participant (t : Thread) : Bool × Nat :=
  match t.spawned, t.bolt with
  | true, some b => (true, b)
  | _, _ => (false, t.tid)

/-- The registration of a participant at a barrier. -/
def NBar.part? (b : NBar) (p : Bool × Nat) : Option NPart := b.parts.find? fun x => (x.isBolt, x.key) == p

/-- The barrier with a participant's registration changed. -/
def NBar.setPart (b : NBar) (x : NPart) : NBar :=
  { b with parts := b.parts.map fun y => if y.isBolt == x.isBolt && y.key == x.key then x else y }

/-- The participation words of a participant (R324, R328). -/
def State.nbWords (s : State) (p : Bool × Nat) : List NbWord :=
  if p.1 then ((s.bolt? p.2).map Bolt.nb).getD [] else ((s.thread? p.2).map Thread.nbReg).getD []

/-- The state with the participation words of a participant. -/
def State.setNbWords (s : State) (p : Bool × Nat) (ws : List NbWord) : State :=
  if p.1 then (s.modBolt p.2 fun b => { b with nb := ws }).touchHeader p.2 else s.modThread p.2 fun t => { t with nbReg := ws }

/-- A participant's word for a barrier. -/
def State.nbWord? (s : State) (p : Bool × Nat) (n : Nat) : Option NbWord := (s.nbWords p).find? fun w => w.nbid == n

/-- The state with a participant's word for a barrier changed. -/
def State.modNbWord (s : State) (p : Bool × Nat) (n : Nat) (f : NbWord → NbWord) : State :=
  s.setNbWords p ((s.nbWords p).map fun w => if w.nbid == n then f w else w)

/-- The core where a participant resides, when it resides on one (R329). -/
def State.partCore (s : State) (p : Bool × Nat) : Option Nat :=
  if p.1 then
    match s.bolt? p.2 with
    | some b => if b.bstate = .saved then none else some b.core
    | none => none
  else (s.thread? p.2).bind Thread.core?

/-- The state with a participant's registration moved to the core where it now resides (R330). -/
def State.moveReg (s : State) (n : Nat) (p : Bool × Nat) : State :=
  match s.nbar? n with
  | none => s
  | some b =>
    match b.part? p, s.partCore p with
    | some x, some core =>
      if x.core = core ∨ x.arrived then s
      else
        ((s.sendFrom x.core n (.mark false)).sendFrom core n (.mark true)).putNbar n (b.setPart { x with core })
    | _, _ => s

/-! ### Registration and departure -/

/-- The state without the arrivals at a barrier that the threads of a participant remember: a registration that ends, and
one that begins, leaves none pending (R333). -/
def State.forgetArrivals (s : State) (n : Nat) (p : Bool × Nat) : State :=
  { s with threads := s.threads.map fun q =>
      if participant q.2 = p ∧ (tabGet q.2.nbArr n).isSome then (q.1, { q.2 with nbArr := tabDel q.2.nbArr n }) else q }

/-- The state with a participant registered at a barrier of a total (R332). -/
def State.register (s : State) (n owner total core : Nat) (p : Bool × Nat) : State :=
  let s := s.forgetArrivals n p
  let b := (s.nbar? n).getD ⟨owner, total, 0, 0, 0, []⟩
  let s := s.putNbar n { b with reg := b.reg + 1, parts := b.parts ++ [⟨p.1, p.2, core, false⟩] }
  (s.setNbWords p (s.nbWords p ++ [⟨n, b.gen, 0, 0⟩])).sendFrom core n (.mark true)

/-- The state with a participant departed from a barrier (R332): when none is left, it is no longer in use. -/
def State.depart (s : State) (n : Nat) (p : Bool × Nat) : State :=
  match s.nbar? n with
  | none => s
  | some b =>
    match b.part? p with
    | none => s
    | some x =>
      let s := (s.setNbWords p ((s.nbWords p).filter fun w => w.nbid != n)).forgetArrivals n p
      let s := s.sendFrom x.core n (if x.arrived then .leave else .mark false)
      let b := { b with reg := b.reg - 1, gone := b.gone + 1,
                        parts := b.parts.filter fun y => (y.isBolt, y.key) != p }
      if b.reg = 0 then { s with nbars := tabDel s.nbars n } else s.putNbar n b

/-- The state with a participant departed from every barrier (R328, R340). -/
def State.departAll (s : State) (p : Bool × Nat) : State :=
  (s.nbWords p).foldl (fun s w => s.depart w.nbid p) s

/-! ### Arrival and release -/

/-- The state with a participant arrived (R330, R331): its arrival is counted where it is registered. -/
def State.partArrives (s : State) (n : Nat) (p : Bool × Nat) : State :=
  let s := s.moveReg n p
  match s.nbar? n with
  | none => s
  | some b =>
    match b.part? p with
    | none => s
    | some x =>
      let s := s.putNbar n (b.setPart { x with arrived := true })
      (s.modNbWord p n fun w => { w with pstate := 1 }).sendFrom x.core n (.arrive 1)

/-- The state with a bolt arrived at the barriers where every live thread of it has (R331). -/
def State.checkNarr (s : State) (bolt : Nat) : State :=
  match s.bolt? bolt with
  | none => s
  | some b =>
    b.nb.foldl
      (fun s w => if w.pstate ≠ 1 ∧ 0 < w.narr ∧ w.narr = b.live then s.partArrives w.nbid (true, bolt) else s) s

/-- The state with a thread arrived at a network barrier (R333), as a release; a bolt that has arrived already stays so
(R324). -/
def State.nbArrive (s : State) (tid n : Nat) : State :=
  match s.thread? tid with
  | none => s
  | some t =>
    let p := participant t
    match s.nbWord? p n with
    | none => s
    | some w =>
      let s := (s.released tid).modThread tid fun t => { t with nbArr := tabPut t.nbArr n w.gen }
      let s := s.modNbWord p n fun w => { w with narr := w.narr + 1, pstate := if w.pstate = 1 then 1 else 0 }
      if p.1 then s.checkNarr p.2 else s.partArrives n p

/-- The participant as a release finds it (R324, R331). -/
def NbWord.release (w : NbWord) : NbWord := { w with gen := w.gen + 1, pstate := 2, narr := 0 }

/-- Whether a thread has arrived in a generation that has not released for it (R333). -/
def State.nbPending (s : State) (t : Thread) (n : Nat) : Bool :=
  match s.nbWord? (participant t) n, tabGet t.nbArr n with
  | some w, some g => w.gen == g
  | _, _ => false

/-- The state with the wefts of a resident bolt whose lanes have arrived at a network barrier in waves, which their
departures wait out (R326, R331). -/
def State.netWaves (s : State) (n : Nat) (p : Bool × Nat) : State :=
  if !p.1 then s
  else
    match s.bolt? p.2 with
    | some b => if b.bstate = .resident then s.addWaves b (s.slotsAt b fun t => s.nbPending t n) (some n) else s
    | none => s

/-- Whether a lane's weft stands in a wave of a network barrier whose gap has not passed (R326, R331). -/
def State.nbHeld (s : State) (t : Thread) (n : Nat) : Bool :=
  match t.loc with
  | .member core slot _ =>
    let c := s.wcore core
    c.waves.any fun v => v.net == some n && v.slots.contains slot && some v.bolt == t.bolt && decide (c.cyc < v.at_)
  | _ => false

/-- The state with a release delivered at a core (R330, R331): each participant registered there goes on, the wefts of
a bolt in waves, and a registration whose participant has moved moves with it. -/
def State.deliverRelease (s : State) (n core : Nat) : State :=
  match s.nbar? n with
  | none => s
  | some b =>
    (b.parts.filter fun x => x.core == core && x.arrived).foldl
      (fun s x =>
        let p := (x.isBolt, x.key)
        let s := (s.netWaves n p).modNbWord p n NbWord.release
        match s.nbar? n with
        | some b => (s.putNbar n (b.setPart { x with arrived := false })).moveReg n p
        | none => s) s

/-- The state with a release multicast from a die's router on its marked ports (R330); one to another package leaves this
one (R329). -/
def State.releaseAt (s : State) (n die : Nat) : State :=
  let r := s.router n die
  let marked := (r.ports.filter fun p => p.2.1 != 0).map (·.1)
  let s := s.putRouter n die { ports := r.ports.map fun p => (p.1, p.2.1, 0), since := 0 }
  marked.foldl
    (fun s p => if 2000 ≤ p then s else if 1000 ≤ p then s.send (p - 1000) n 0 .release else s.deliverRelease n p) s

/-- Whether a packet reports a registration or a departure. -/
def NKind.marks : NKind → Bool
  | .mark _ => true
  | .leave => true
  | _ => false

/-- The state after a change at a die's router (R330): a complete one forwards its arrivals, for a barrier of the domain to
package 0 in the end (R329), and the root
releases once every participant has registered or gone, and has been counted at the root: every participant
registered at that moment has then arrived (R328). -/
def State.routerCheck (s : State) (n die : Nat) : State :=
  let r := s.router n die
  if !r.complete then s
  else if die ≠ 0 then (s.putRouter n die { r with since := 0 }).sendUp die n (.arrive r.since)
  else if !s.holdsRoot n then s.putRouter n die { r with since := 0 }
  else
    match s.nbar? n with
    | none => s
    | some b =>
      if b.reg + b.gone = b.total ∧ s.pkts.all (fun p => p.nbid != n || !p.kind.marks) then (s.putNbar n { b with gen := b.gen + 1 }).releaseAt n 0 else s

/-! ### Packets -/

/-- The first packet of a kind that no earlier packet of its barrier precedes. -/
def firstPkt (want : NKind → Bool) : List Nat → List NPkt → Option NPkt
  | _, [] => none
  | seen, p :: l =>
    if seen.contains p.nbid then firstPkt want seen l
    else if want p.kind then some p
    else firstPkt want (p.nbid :: seen) l

/-- The state without a packet, its first occurrence. -/
def State.dropPkt (s : State) (p : NPkt) : State := { s with pkts := s.pkts.eraseP fun q => q == p }

/-- NB_ARRIVAL_PACKET (R330). -/
def tryNbArrivalPacket (s : State) : Option State :=
  match firstPkt (fun k => match k with | .arrive _ => true | _ => false) [] s.pkts with
  | none => none
  | some p =>
    match p.kind with
    | .arrive k =>
      let r := (s.router p.nbid p.die).onPort p.port fun m n => (m, n + k)
      some (((s.dropPkt p).putRouter p.nbid p.die { r with since := r.since + k }).routerCheck p.nbid p.die)
    | _ => none

/-- NB_ARRIVAL_PACKET. -/
def execNbArrivalPacket (s : State) : Result := .next ((tryNbArrivalPacket s).getD s)

/-- NB_RELEASE_PACKET (R330). -/
def tryNbReleasePacket (s : State) : Option State :=
  (firstPkt (fun k => k == .release) [] s.pkts).map fun p => (s.dropPkt p).releaseAt p.nbid p.die

/-- NB_RELEASE_PACKET. -/
def execNbReleasePacket (s : State) : Result := .next ((tryNbReleasePacket s).getD s)

/-- A change of registration at a die's router (R330): an arrival that has not gone on is taken back there, and
one that has is taken back at the parent. -/
def State.markAt (s : State) (p : NPkt) : State :=
  let r := s.router p.nbid p.die
  match p.kind with
  | .mark true => (s.putRouter p.nbid p.die (r.onPort p.port fun m n => (m + 1, n))).sendUp p.die p.nbid (.mark true)
  | .leave =>
    let r' := r.onPort p.port fun m n => (m - 1, n - 1)
    if r.since = 0 then (s.putRouter p.nbid p.die r').sendUp p.die p.nbid .leave
    else (s.putRouter p.nbid p.die { r' with since := r.since - 1 }).sendUp p.die p.nbid (.mark false)
  | _ => (s.putRouter p.nbid p.die (r.onPort p.port fun m n => (m - 1, n))).sendUp p.die p.nbid (.mark false)

/-- NB_MARK_UPDATE (R330). -/
def tryNbMarkUpdate (s : State) : Option State :=
  (firstPkt NKind.marks [] s.pkts).map fun p =>
    ((s.dropPkt p).markAt p).routerCheck p.nbid p.die

/-- NB_MARK_UPDATE. -/
def execNbMarkUpdate (s : State) : Result := .next ((tryNbMarkUpdate s).getD s)

/-! ### The other packages (R328, R329) -/

/-- The port of the root's router that leads to another package. -/
def pkgPort (pkg : Nat) : Nat := 2000 + pkg

/-- The state with a release that the root of the domain has sent to this package (R329, R330). -/
def State.netRelease (s : State) (n : Nat) : State :=
  match s.nbar? n with
  | some b => if s.holdsRoot n then s else (s.putNbar n { b with gen := b.gen + 1 }).send 0 n 0 .release
  | none => s

/-- The state with what another package reports of a barrier of the domain (R328, R330): every package counts its
registrations and departures, and the root takes its packets. -/
def State.netRemote (s : State) (n pkg owner total : Nat) (kind : NKind) : State :=
  if n < 192 ∨ 256 ≤ n then s
  else
    let b := (s.nbar? n).getD ⟨owner, total, 0, 0, 0, []⟩
    let k :=
      match kind with
      | .mark true => s.putNbar n { b with reg := b.reg + 1 }
      | .mark false | .leave =>
        if b.reg ≤ 1 then { s with nbars := tabDel s.nbars n }
        else s.putNbar n { b with reg := b.reg - 1, gone := b.gone + 1 }
      | _ => s
    match s.holdsRoot n, kind with
    | _, .release => s
    | true, _ => k.send 0 n (pkgPort pkg) kind
    | false, _ => k

/-! ### Instructions -/

/-- The checks of NBINIT on a number and a configuration word (R332). -/
def nbinitTrap (s : State) (t : Thread) (n : Int) (cfg : Word) : Option Trap :=
  let bad := Trap.int .prot n
  let total := bitsAt cfg.toNat 0 24
  if n < 0 ∨ 255 < n then some bad
  else if bitsAt cfg.toNat 24 40 ≠ 0 ∨ total = 0 then some (Trap.plain .prot cfg.toNat)
  else
    let p := participant t
    let full : Option Trap := if p.1 && 4 ≤ (s.nbWords p).length then some bad else none
    match s.nbar? n.toNat with
    | none => full
    | some b =>
      if (b.part? p).isSome then none
      else if b.owner ≠ spaceOf t.pid ∨ b.total ≠ total ∨ b.reg + b.gone = b.total then some bad
      else full

/-- NBINIT (R332). -/
def execNbinit (f : Fields) (s : State) : Result :=
  issue rThdl f false (fun _ => none) false
    (fun s l =>
      let n := l.addr f
      match nbinitTrap s l.thread n l.b with
      | some t => .trap t false
      | none =>
        let p := participant l.thread
        if (((s.nbar? n.toNat).bind fun b => b.part? p)).isSome then .done s
        else
          .done (s.register n.toNat (spaceOf l.thread.pid) (bitsAt l.b.toNat 0 24)
            ((s.partCore p).getD s.cur.core) p)) s

/-- Whether a participant has arrived in a generation that is not yet released (R332). -/
def State.partPending (s : State) (n : Nat) (p : Bool × Nat) : Bool :=
  match s.nbWord? p n with
  | some w => w.pstate == 1
  | none => false

/-- A thread whose instruction waits for an earlier release of a network barrier, during which it takes no signal
(R392). -/
def nbWaits (tid : Nat) (s : State) : State := s.modThread tid fun t => { t with wait := .earlier }

/-- A thread past an instruction that waited for an earlier release. -/
def Thread.nbEnd (t : Thread) : Thread := if t.wait = .earlier then { t with wait := .none } else t

/-- NBINIT.c (R332): no participant is registered at a number outside 0 to 255, where it has no effect. -/
def execNbinitC (f : Fields) (s : State) : Result :=
  issue rClfl f false (fun _ => none) false
    (fun s l =>
      let n := l.addr f
      let p := participant l.thread
      if n < 0 ∨ 255 < n then .done s
      else if s.partPending n.toNat p then .wait (nbWaits l.tid)
      else .done ((s.depart n.toNat p).modThread l.tid Thread.nbEnd)) s

/-- The checks of an arrival (R333, R397, R415): a number in range, a registration, every package reachable, and, since
it is a release, no lost store. -/
def nbarTrap (s : State) (t : Thread) (n : Int) (arrives : Bool) : Option Trap :=
  if n < 0 ∨ 255 < n then some (Trap.int .prot n)
  else if (s.nbWord? (participant t) n.toNat).isNone then some (Trap.int .prot n)
  else if arrives && 192 ≤ n && !s.domainLinked then some (Trap.plain .mchk 5)
  else if arrives then lostTrap t
  else none

/-- The end of a thread's wait for a release, as an acquire (R331). -/
def nbLeave (s : State) (tid : Nat) : State := (s.acquired tid).modThread tid fun t => { t with wait := .none }

/-- A trap of a network barrier's instruction, which waits no more. -/
def nbTrap (l : Lane) (t : Trap) : Act :=
  if l.thread.wait = .earlier then .trapAfter (fun s => s.modThread l.tid Thread.nbEnd) t else .trap t false

/-- NBAR (R333): the arrival stands while the lane waits for the release. -/
def execNbar (f : Fields) (s : State) : Result :=
  issue rClfl f true (fun _ => none) false
    (fun s l =>
      match l.thread.wait with
      | .nbar n _ => if s.nbPending l.thread n || s.nbHeld l.thread n then .wait id else .done (nbLeave s l.tid)
      | _ =>
        let n := l.addr f
        match nbarTrap s l.thread n true with
        | some t => nbTrap l t
        | none =>
          if !s.performed l.tid || s.nbPending l.thread n.toNat then .wait (nbWaits l.tid)
          else
            .wait fun k => (k.nbArrive l.tid n.toNat).modThread l.tid fun t =>
              { t with wait := .nbar n.toNat (((k.nbWord? (participant t) n.toNat).map NbWord.gen).getD 0) }) s

/-- NBAR.a (R333). -/
def execNbarA (f : Fields) (s : State) : Result :=
  issue rClfl f true (fun _ => none) false
    (fun s l =>
      let n := l.addr f
      match nbarTrap s l.thread n true with
      | some t => nbTrap l t
      | none =>
        if !s.performed l.tid || s.nbPending l.thread n.toNat then .wait (nbWaits l.tid)
        else .done ((s.nbArrive l.tid n.toNat).modThread l.tid Thread.nbEnd)) s

/-- NBAR.w (R333). -/
def execNbarW (f : Fields) (s : State) : Result :=
  issue rClfl f true (fun _ => none) false
    (fun s l =>
      let n := l.addr f
      match nbarTrap s l.thread n false with
      | some t => .trap t false
      | none =>
        if s.nbPending l.thread n.toNat || s.nbHeld l.thread n.toNat then .wait id else .done (s.acquired l.tid)) s

end Sys2Proof.Machine
end

