-- ==== Sys2Proof/Machine/Placement.lean ====
section
/-! DEFINITION. Flocks as they are placed, evicted, saved and restored (R336 to R338, R345, R398 to R403). -/

namespace Sys2Proof.Machine

/-! ### Room on cores -/

/-- The cores of a quad, in increasing number (R12). -/
def quadCores (q : Nat) : List Nat :=
  let base := 36 * (q / 9) + 12 * (q % 9 / 3) + 2 * (q % 3)
  [base, base + 1, base + 6, base + 7]

/-- How many bolts of a spawn fit a core (R337), when the bolts listed are left out of account. -/
def State.roomOn (s : State) (d : Desc) (without : List Nat) (core : Nat) : Nat :=
  if !s.coreOpen core then 0
  else
    let w := s.wcore core
    let used := (w.slots.filter fun x => !without.contains x.2.bolt).length
    let bolts := (s.boltsOn core).filter fun b => !without.contains b.id
    d.room (48 - used) (768 - bolts.foldl (fun n b => n + b.rows) 0) (64 - bolts.foldl (fun n b => n + b.nslice) 0)

/-- Pairs of core and room with one put before every pair of less room. -/
def roomInsert (x : Nat × Nat) : List (Nat × Nat) → List (Nat × Nat)
  | [] => [x]
  | y :: l => if y.2 < x.2 then x :: y :: l else y :: roomInsert x l

/-- Pairs of core and room, most room first. -/
def roomSort (l : List (Nat × Nat)) : List (Nat × Nat) := l.foldr roomInsert []

/-- The cores of a quad with the room that is left on each once the cores listed have taken bolts. -/
def State.quadRoom (s : State) (d : Desc) (without used : List Nat) (q : Nat) : List (Nat × Nat) :=
  ((quadCores q).map fun c => (c, s.roomOn d without c - (used.filter (· == c)).length)).filter fun p => 0 < p.2

/-- Cores of one quad for one flock, if some quad has room for it (R337). -/
def State.placeOne (s : State) (d : Desc) (without used : List Nat) : Option (List Nat) :=
  (List.range 36).findSome? fun q =>
    let l := s.quadRoom d without used q
    if d.f ≤ l.length then some (((roomSort l).take d.f).map (·.1)) else none

/-- Cores for n flocks, if the package has room for all of them at once (R337, R38). -/
def State.placeMany (s : State) (d : Desc) (without : List Nat) : Nat → List Nat → Option (List Nat)
  | 0, used => some used
  | n + 1, used =>
    match s.placeOne d without used with
    | some cs => s.placeMany d without n (used ++ cs)
    | none => none

/-- Whether cores serve n flocks: each flock on distinct cores of one quad with room (R337). -/
def State.coresOk (s : State) (d : Desc) : Nat → List Nat → List Nat → Bool
  | 0, _, cores => cores.isEmpty
  | n + 1, used, cores =>
    let mine := cores.take d.f
    mine.length == d.f && (distinct mine).length == d.f
      && (mine.all fun c => isWeft c && some (quadOf c) == (mine.head?).map quadOf
            && (used.filter (· == c)).length < s.roomOn d [] c)
      && s.coresOk d n (used ++ mine) (cores.drop d.f)

/-! ### The waiting set -/

/-- The spawn of an id. -/
def State.spawn? (s : State) (id : Nat) : Option Spawn := tabGet s.spawnU.spawns id

/-- The state with a spawn's record. -/
def State.putSpawn (s : State) (sp : Spawn) : State :=
  { s with spawnU := { s.spawnU with spawns := tabPut s.spawnU.spawns sp.id sp } }

/-- The state with the waiting set. -/
def State.putWaiting (s : State) (l : List WaitFlock) : State := { s with spawnU := { s.spawnU with waiting := l } }

/-- Whether one waiting flock stands before another (R336): priority, then the age of the spawn, then fcoord. -/
def WaitFlock.before (a b : WaitFlock) : Bool :=
  b.prio < a.prio || (a.prio == b.prio && pairLt (a.order, a.fcoord) (b.order, b.fcoord))

/-- The flocks that stand before one in the waiting set. -/
def State.ahead (s : State) (w : WaitFlock) : List WaitFlock := s.spawnU.waiting.filter fun x => x.before w

/-- The first flock of the waiting set (R336). -/
def State.headFlock (s : State) : Option WaitFlock := s.spawnU.waiting.find? fun w => (s.ahead w).isEmpty

/-- Whether a waiting flock has not started yet. -/
def WaitFlock.isNew (w : WaitFlock) : Bool := w.bolts.isEmpty

/-- The waiting flocks that are placed with one (R336, R38): for a concurrent spawn, all of its. -/
def State.placedWith (s : State) (d : Desc) (w : WaitFlock) : List WaitFlock :=
  if d.pclass = 0 then s.spawnU.waiting.filter fun x => x.spawn == w.spawn else [w]

/-- Whether every flock of a concurrent spawn that has not ended waits, so that the spawn is offered whole (R38, R336). -/
def State.wholeWaits (s : State) (d : Desc) (w : WaitFlock) : Bool :=
  d.pclass != 0 || s.bolts.all fun b => b.2.pack || b.2.spawn != w.spawn || b.2.bstate != .resident

/-- What waiting flocks demand of their cores (R337): what the descriptor says, and for evicted bolts what they hold, since
a successor keeps the rows and slices that it inherited (R37). -/
def State.demand (s : State) (d : Desc) (ws : List WaitFlock) : Desc :=
  let bs := ws.flatMap fun w => w.bolts.filterMap s.bolt?
  bs.foldl (fun d b => { d with spbytes := max d.spbytes (2048 * b.rows), nslice := max d.nslice b.nslice }) d

/-- The queue of the thread pool (R386). -/
def State.threadPool (s : State) : Nat := bitsAt s.fw.pools.toNat 0 13

/-- The words in the thread pool (R403). -/
def State.poolWords (s : State) : Nat := (s.queue s.threadPool).words.length

/-- Whether the thread pool holds the blocks that flocks need (R403) and serves the device (R335). -/
def State.threadsFor (s : State) (d : Desc) (ws : List WaitFlock) : Bool :=
  let n := (ws.filter WaitFlock.isNew).length * d.flockThreads
  n ≤ s.poolWords && (n == 0 || s.freeFor s.threadPool true)

/-- Whether a waiting flock is offered for placement (R336): a parallel spawn's new flock after every lower one
has started. -/
def State.offered (s : State) (d : Desc) (w : WaitFlock) : Bool :=
  !(d.pclass == 1 && w.isNew
      && s.spawnU.waiting.any fun x => x.spawn == w.spawn && x.isNew && x.fcoord < w.fcoord)
    && s.wholeWaits d w && s.threadsFor d (s.placedWith d w)

/-- The cores that a waiting flock would take, if it is offered and the package has room (R337). -/
def State.wouldPlace (s : State) (w : WaitFlock) : Option (List Nat) :=
  match s.spawn? w.spawn with
  | none => none
  | some sp =>
    let ws := s.placedWith sp.desc w
    if s.offered sp.desc w then s.placeMany (s.demand sp.desc ws) [] ws.length [] else none

/-- The oldest flock of the highest waiting priority, once it has waited out the limit of R336. -/
def State.agedFlock (s : State) : Option WaitFlock :=
  match s.headFlock with
  | some w => if w.since + 65536 ≤ s.gtick ∨ s.spawnU.aged = some (w.spawn, w.fcoord) then some w else none
  | none => none

/-- Whether the age limit keeps a flock from placement (R336): a younger one of no higher priority. -/
def State.heldByAge (s : State) (w : WaitFlock) : Bool :=
  match s.agedFlock with
  | some a => pairLt (a.order, a.fcoord) (w.order, w.fcoord) && w.prio ≤ a.prio
  | none => false

/-- PLACEMENT_AGE_LIMIT (R336). -/
def tryPlacementAgeLimit (s : State) : Option State :=
  match s.headFlock with
  | some w =>
    if w.since + 65536 ≤ s.gtick ∧ s.spawnU.aged ≠ some (w.spawn, w.fcoord) then
      some { s with spawnU := { s.spawnU with aged := some (w.spawn, w.fcoord) } }
    else none
  | none => none

/-- PLACEMENT_AGE_LIMIT. -/
def execPlacementAgeLimit (s : State) : Result := .next ((tryPlacementAgeLimit s).getD s)

/-! ### New bolts -/

/-- The age of a bolt: that of its flock (R336). -/
def boltOrder (order fcoord bcoord : Nat) : Nat := order * 2 ^ 34 + fcoord * 4 + bcoord

/-- A barrier word that waits for a number of threads (R322). -/
def BarWord.fresh (expect : Nat) : BarWord := ⟨false, expect, 0⟩

/-- The threads of a stage of a bolt of T threads (R19). -/
def stageThreads (t nstage stage : Nat) : Nat :=
  ((List.range ((t + 31) / 32)).filter fun i => i % nstage == stage).foldl (fun n i => n + min 32 (t - 32 * i)) 0

/-- A new bolt (R20, R180, R290, R321 to R323). -/
def Bolt.fresh (id : Nat) (sp : Spawn) (fcoord bcoord core : Nat) : Bolt :=
  let d := sp.desc
  { id, pack := false, spawn := sp.id, fcoord, bcoord, pid := sp.pid, core,
    order := boltOrder sp.order fcoord bcoord, prio := d.prio, pclass := d.pclass, nweft := d.nweft, live := d.t,
    nslice := d.nslice, rows := d.rows, nstage := d.nstage, bstate := .resident, evicting := false,
    barWord := BarWord.fresh d.t,
    stWords := Vector.ofFn fun i => BarWord.fresh (stageThreads d.t d.nstage i.val),
    flWord := BarWord.fresh (if bcoord = 0 then d.flockThreads else 0), nb := [], merr := 0,
    elog := List.replicate 8 0, chans := d.channels, handles := [], spad := [], spPoison := [], acc := [],
    accErr := [], decl := none, failed := 0, saveArea := 0, savedCrook := none, blocks0 := d.blocks }

/-- A thread that SPWN creates (R345). -/
def newThread (sp : Spawn) (b : Bolt) (tid tblk i : Nat) : Thread :=
  let d := sp.desc
  let t := Thread.fresh tid sp.pid d.entry sp.level
  let t := (List.range 4).foldl (fun t k => t.setReg (k + 1) ⟨(d.args[k]?).getD 0, true, false⟩) t
  { t with
    tblk, spawn := sp.id, fcoord := b.fcoord, bcoord := b.bcoord, tcoord := i, weft := i / 32, lane := i % 32,
    stage := i / 32 % d.nstage, nstage := d.nstage, blocks := d.blocks, nw := true, home := b.core,
    bolt := some b.id, vstamp := sp.vf }

/-- The lanes of weft i of a bolt whose threads are given by coordinate. -/
def lanesOf (tids : List Nat) (i : Nat) : Vector (Option Nat) 32 := Vector.ofFn fun l => tids[32 * i + l.val]?

/-- The state with the header slot of a bolt fixed, that of its lowest-indexed weft present (R318). -/
def State.fixHeader (s : State) (id : Nat) : State :=
  s.modBolt id fun b => { b with hslot := ((s.weftsOf b).head?.map (·.1)).getD 48 }

/-- The state with the wefts of a new bolt in slots (R152), and its threads in them. -/
def State.seatBolt (s : State) (b : Bolt) (ts : List Thread) : State :=
  ((List.range b.nweft).foldl
    (fun s i =>
      match s.freeSlots b.core with
      | [] => s
      | slot :: _ =>
        let w := { (Weft.fresh b.id i b.blocks0 s.seq).waiting with lanes := lanesOf (ts.map Thread.tid) i }
        let s := s.takeSlot b.core slot w
        ((ts.drop (32 * i)).take 32).foldl
          (fun s t =>
            let t := s.checkPid { t with loc := .member b.core slot t.lane }
            let s := (s.putThread t).writeBlock t
            if t.sub = .faultParked then s.postReport b.core slot t.lane t else s) s) s).fixHeader b.id

/-- The state with a bolt of a spawn seated with new threads, from the thread pool (R345, R403): its core takes the
spawner's view and drops its copies. -/
def State.seatNew (s : State) (sp : Spawn) (b : Bolt) : State :=
  let blocks := ((s.queue s.threadPool).words.take b.live).map fun w => w.1.toNat
  let s := s.takeWords (.base s.threadPool) (List.range b.live)
  let ts := (List.range blocks.length).map fun i =>
    let a := (blocks[i]?).getD 0
    newThread sp b (s.valueAt a 8) a i
  let s := s.putBolt b
  let c := s.wcore b.core
  ((s.dropCode b.core).putW b.core
    { c with vfloor := stampMax c.vfloor sp.vf, seen := stampMax c.seen sp.vf, ro := [], l1 := [] }).seatBolt b ts

/-- The state with a bolt of a spawn created on a core (R345). -/
def State.createBolt (s : State) (sp : Spawn) (fcoord bcoord core : Nat) : State :=
  let id := s.spawnU.nextBolt
  ({ s with spawnU := { s.spawnU with nextBolt := id + 1 } }).seatNew sp (Bolt.fresh id sp fcoord bcoord core)

/-! ### Restore -/

/-- The queue of the save pool (R386). -/
def State.savePool (s : State) : Nat := bitsAt s.fw.pools.toNat 32 13

/-- The address of a lane's record in a save area (R400). -/
def laneArea (area i l : Nat) : Nat := area + 0x2000 + 0x4000 * i + 512 * l

/-- The address of slice k in a save area, and of the allotment (R400). -/
def sliceArea (area nweft k : Nat) : Nat := area + 0x2000 + 0x4000 * (nweft + k)

/-- The sub-state in which a lane returns, from the code of its record (R402). -/
def restoredSub (t : Thread) (code : Nat) : Sub :=
  match code, t.sub with
  | 0, _ => .active
  | 1, .barrier k => .barrier k
  | 2, _ => .faultParked
  | _, _ => .active

/-- The view stamp of a record that was saved at a tick (R240, R247): one as old as 2^18 ticks is re-based as the sweep
re-bases a floor. -/
def State.savedStamp (s : State) (since v : Nat) : Nat :=
  if since + 2 ^ 18 ≤ s.gtick then (s.now + 2 ^ 20 - 2 ^ 17) % 2 ^ 20 else v

/-- A saved thread as its record, saved at a tick, and its thread block give it (R176, R201, R402), at clock request 16
(R368): an invalid record makes it take a machine check (R175). -/
def State.fromArea (s : State) (t : Thread) (pa since : Nat) : Thread :=
  let ws := s.dwordsAt pa 64
  let u := t.fromRecord ws fun i => s.poisonAt (pa + 8 * i) 8
  let u : Thread := { s.readBlock u with
    sub := restoredSub t (bitsAt (dwordAt ws 62) 57 3), age := 0, clock := 16, vstamp := s.savedStamp since u.vstamp }
  if !recordValid ws then u.invalid
  else s.checkPid (if u.sub = .faultParked then s.readTrapBlock u else u)

/-- The saved threads of a weft of a bolt, in lane order. -/
def State.savedLanes (s : State) (b : Bolt) (i : Nat) : List Thread :=
  (List.range 32).filterMap fun l =>
    (s.threads.find? fun p => p.2.bolt == some b.id && p.2.loc == .saved && p.2.weft == i && p.2.lane == l).map (·.2)

/-- The state of a weft as it is restored (R402). -/
def restoredWeft (w : Weft) (ts : List Thread) : Weft :=
  if ts.isEmpty then w
  else if ts.all Thread.hasArrived then { w with wstate := .atBarrier }
  else w.waiting

/-- The state with weft i of a bolt, saved at a tick, restored in a free slot (R402). -/
def State.restoreWeft (s : State) (b : Bolt) (since i : Nat) : State :=
  match s.freeSlots b.core with
  | [] => s
  | slot :: _ =>
    let ts := (s.savedLanes b i).map fun t => s.fromArea t (laneArea b.saveArea i t.lane) since
    let blocks := ((ts.head?).map Thread.blocks).getD b.blocks0
    let w := (Weft.fresh b.id i blocks s.seq).fromEntry (s.dwordsAt (b.saveArea + 0x1000 + 64 * i) 8)
    let w := ts.foldl (fun w t => { w.setLane t.lane (some t.tid) with next := max w.next t.nextBlocks }) w
    let s := s.takeSlot b.core slot (restoredWeft w ts)
    let s := ts.foldl
      (fun s t => (s.takeView b.core t.vstamp).putThread { t with loc := .member b.core slot t.lane }) s
    let s := (ts.filter fun t => t.sub == .faultParked).foldl (fun s t => s.postReport b.core slot t.lane t) s
    s.settle b.core slot

/-- The contents of a slice in a save area (R400), element (i, j) under its number in Bolt.acc, and the
poisoned ones. -/
def State.sliceFrom (s : State) (pa k : Nat) : List (Nat × BitVec 32) × List Nat :=
  (List.range 4096).foldl
    (fun r e =>
      (spPut 0 r.1 (4096 * k + e) (BitVec.ofNat 32 (s.valueAt (pa + 4 * e) 4)),
        if s.poisonAt (pa + 4 * e) 4 then addrAdd r.2 (4096 * k + e) else r.2)) ([], [])

/-- The bolt with its slices and its allotment as its save area holds them (R400, R402). -/
def State.loadArea (s : State) (b : Bolt) : Bolt :=
  let slices := (List.range b.nslice).map fun k => s.sliceFrom (sliceArea b.saveArea b.nweft k) k
  let base := sliceArea b.saveArea b.nweft b.nslice
  { b.loadHeader (s.dwordsAt b.saveArea 512) with
    acc := slices.flatMap (·.1), accErr := slices.flatMap (·.2)
    spad := memStore [] 0 (s.bytesAt base b.size)
    spPoison := (List.range (b.size / 4)).filter fun w => s.poisonAt (base + 4 * w) 4 }

/-- The state with the threads of a bolt told the core where it is restored; their thread blocks, in whose core field
R176 lets the device write nothing, keep what they say (DESIGN CHOICE: log entry 83). -/
def State.rehome (s : State) (id core : Nat) : State :=
  (s.threads.filter fun p => p.2.bolt == some id).foldl (fun s p => s.putThread { p.2 with home := core }) s

/-- The state with a bolt saved at a tick restored on a core (R402): its wefts that were saved, or an empty weft 0. -/
def State.restoreBolt (s : State) (id core since : Nat) : State :=
  match s.bolt? id with
  | none => s
  | some b0 =>
    let b := { s.loadArea b0 with core, bstate := .resident, evicting := false, decl := none }
    let present := (List.range b.nweft).filter fun i => bitAt (s.valueAt (b.saveArea + 0x1000 + 64 * i + 24) 8) 63
    let s := s.putBolt b
    let s := s.rehome id core
    let c := s.wcore core
    let s := s.putW core { c with ro := [], l1 := [] }
    let s := ((if present.isEmpty then [0] else present).foldl (fun s i => s.restoreWeft b since i) s).fixHeader id
    let s := (s.restoreCrook core id b0.savedCrook).modBolt id fun b => { b with savedCrook := none, saveArea := 0 }
    let s := b.nb.foldl (fun s w => s.moveReg w.nbid (true, id)) s
    s.devicePush s.savePool (BitVec.ofNat 64 b0.saveArea)

/-! ### Placement -/

/-- The state with one waiting flock placed on its cores (R337). -/
def State.placeFlock (s : State) (w : WaitFlock) (cores : List Nat) : State :=
  let s := s.putWaiting (s.spawnU.waiting.filter fun x => x != w)
  match s.spawn? w.spawn with
  | none => s
  | some sp =>
    let core (i : Nat) : Nat := (cores[i]?).getD 0
    let s := if w.isNew then
        (s.putSpawn { sp with started := sp.started ++ [w.fcoord] }) else s
    let s := if s.spawnU.aged = some (w.spawn, w.fcoord) then { s with spawnU := { s.spawnU with aged := none } } else s
    if w.isNew then (List.range sp.desc.f).foldl (fun s i => s.createBolt sp w.fcoord i (core i)) s
    else (List.range w.bolts.length).foldl (fun s i => s.restoreBolt ((w.bolts[i]?).getD 0) (core i) w.since) s

/-- The state with flocks placed in turn, each on its share of the cores. -/
def State.placeFlocks (f : Nat) : State → List WaitFlock → List Nat → State
  | s, [], _ => s
  | s, w :: ws, cores => (s.placeFlock w (cores.take f)).placeFlocks f ws (cores.drop f)

/-- The bolts whose eviction has begun. -/
def State.leavingBolts (s : State) : List Nat := (s.bolts.filter fun b => b.2.evicting).map (·.1)

/-- Whether the head flock of the waiting set has room once the evictions under way are done (R338). -/
def State.headFits (s : State) : Bool :=
  match s.headFlock with
  | some w => match s.spawn? w.spawn with
    | some sp =>
      let ws := s.placedWith sp.desc w
      (s.placeMany (s.demand sp.desc ws) s.leavingBolts ws.length []).isSome
    | none => false
  | none => false

/-- Whether a placement leaves the head flock the room that evictions under way make for it (R338). -/
def State.keepsRoom (s k : State) : Bool :=
  s.leavingBolts.isEmpty || !s.headFits || k.headFlock != s.headFlock || k.headFits

/-- FLOCK_PLACEMENT (R336, R337): the flock is offered, no flock ahead of it could be placed, the cores
chosen serve it, and it takes no room that partial eviction makes for another (R338). -/
def tryFlockPlacement (spawn fcoord : Nat) (cores : List Nat) (s : State) : Option State :=
  match s.spawnU.waiting.find? fun w => w.spawn == spawn && w.fcoord == fcoord, s.spawn? spawn with
  | some w, some sp =>
    let ws := s.placedWith sp.desc w
    if s.offered sp.desc w && !s.heldByAge w
        && ((s.ahead w).all fun x => ws.contains x || s.heldByAge x || (s.wouldPlace x).isNone)
        && s.coresOk (s.demand sp.desc ws) ws.length [] cores then
      let k := s.placeFlocks sp.desc.f ws cores
      if s.keepsRoom k then some k else none
    else none
  | _, _ => none

/-- FLOCK_PLACEMENT. -/
def execFlockPlacement (spawn fcoord : Nat) (cores : List Nat) (s : State) : Result :=
  .next ((tryFlockPlacement spawn fcoord cores s).getD s)

/-! ### Eviction -/

/-- The bolts of a flock that have not ended. -/
def State.flockBolts (s : State) (spawn fcoord : Nat) : List Bolt :=
  (s.bolts.filter fun b =>
    !b.2.pack && b.2.spawn == spawn && b.2.fcoord == fcoord && b.2.bstate != .done).map (·.2)

/-- The resident flocks, each once, as spawn and fcoord. -/
def State.residentFlocks (s : State) : List (Nat × Nat) :=
  s.bolts.foldl
    (fun l b =>
      let k := (b.2.spawn, b.2.fcoord)
      if b.2.pack || b.2.bstate != .resident || l.contains k then l else l ++ [k]) []

/-- The flocks that are evicted with one (R38): for a concurrent spawn, all of its. -/
def State.evictedWith (s : State) (k : Nat × Nat) : List (Nat × Nat) :=
  match s.spawn? k.1 with
  | some sp => if sp.desc.pclass = 0 then s.residentFlocks.filter fun x => x.1 == k.1 else [k]
  | none => [k]

/-- The state with the eviction of a flock begun (R398): its wefts issue nothing more. -/
def State.beginEvict (s : State) (k : Nat × Nat) : State :=
  (s.flockBolts k.1 k.2).foldl (fun s b => s.modBolt b.id fun b => { b with evicting := true }) s

/-- The state with the eviction of a flock, and of those that go with it, begun. -/
def State.evictFlock (s : State) (k : Nat × Nat) : State := (s.evictedWith k).foldl State.beginEvict s

/-- A resident flock as partial eviction ranks it (R338): priority, order of its spawn. -/
def State.flockKey (s : State) (k : Nat × Nat) : Nat × Nat × Nat :=
  match s.spawn? k.1 with
  | some sp => (sp.desc.prio, sp.order, sp.desc.pclass)
  | none => (0, 0, 2)

/-- Whether a flock is a victim for an incoming one (R338). -/
def State.isVictim (s : State) (w : WaitFlock) (k : Nat × Nat) : Bool :=
  let (prio, order, cls) := s.flockKey k
  prio < w.prio || (prio == w.prio && cls == 2 && pairLt (w.order, w.fcoord) (order, k.2))

/-- Whether one victim ranks before another (R338): lowest priority first, then youngest first. -/
def State.ranksBefore (s : State) (a b : Nat × Nat) : Bool :=
  let x := s.flockKey a
  let y := s.flockKey b
  x.1 < y.1 || (x.1 == y.1 && pairLt (y.2.1, b.2) (x.2.1, a.2))

/-- Flocks with one put in its rank. -/
def State.rankInsert (s : State) (a : Nat × Nat) : List (Nat × Nat) → List (Nat × Nat)
  | [] => [a]
  | b :: l => if s.ranksBefore a b then a :: b :: l else b :: s.rankInsert a l

/-- The victims for an incoming flock among some flocks, in rank (R338). -/
def State.victims (s : State) (w : WaitFlock) (l : List (Nat × Nat)) : List (Nat × Nat) :=
  (l.filter (s.isVictim w)).foldr s.rankInsert []

/-- The bolts of flocks and of those that are evicted with them. -/
def State.boltsOf (s : State) (ks : List (Nat × Nat)) : List Nat :=
  (ks.flatMap s.evictedWith).flatMap fun k => (s.flockBolts k.1 k.2).map Bolt.id

/-- The quad on which a flock's bolts stand. -/
def State.flockQuad (s : State) (k : Nat × Nat) : Option Nat := ((s.flockBolts k.1 k.2).head?).map fun b => quadOf b.core

/-- The shortest prefix of a ranking after whose eviction a condition on the bolts left out holds. -/
def shortestPrefix (ok : List (Nat × Nat) → Bool) (l : List (Nat × Nat)) : Option (List (Nat × Nat)) :=
  ((List.range (l.length + 1)).find? fun n => ok (l.take n)).map fun n => l.take n

/-- What partial eviction takes for a flock on one quad (R338). -/
def State.quadVictims (s : State) (d : Desc) (w : WaitFlock) (q : Nat) : Option (List (Nat × Nat)) :=
  shortestPrefix
    (fun ks => d.f ≤ (s.quadRoom d (s.leavingBolts ++ s.boltsOf ks) [] q).length)
    (s.victims w (s.residentFlocks.filter fun k => s.flockQuad k == some q))

/-- What partial eviction takes for a concurrent spawn: victims anywhere, until all its flocks fit. -/
def State.wholeVictims (s : State) (d : Desc) (w : WaitFlock) : Option (List (Nat × Nat)) :=
  shortestPrefix
    (fun ks => (s.placeMany d (s.leavingBolts ++ s.boltsOf ks) (s.placedWith d w).length []).isSome)
    (s.victims w s.residentFlocks)

/-- The shortest of some choices, the first on a tie. -/
def shortestOf : List (List (Nat × Nat)) → Option (List (Nat × Nat))
  | [] => none
  | a :: l => match shortestOf l with
    | some b => if b.length < a.length then some b else some a
    | none => some a

/-- The flocks that partial eviction takes for the head flock (R338), none while it can be placed once the
evictions under way are done, or not at all. -/
def State.partialEviction (s : State) : List (Nat × Nat) :=
  match s.headFlock with
  | none => []
  | some w =>
    match s.spawn? w.spawn with
    | none => []
    | some sp =>
      let d := s.demand sp.desc (s.placedWith sp.desc w)
      if !s.offered sp.desc w then []
      else if sp.desc.pclass = 0 then (s.wholeVictims d w).getD []
      else (shortestOf ((List.range 36).filterMap (s.quadVictims d w))).getD []

/-- EVICTION (R338, R398): a flock that partial eviction takes stops issuing. -/
def tryEviction (spawn fcoord : Nat) (s : State) : Option State :=
  if (s.partialEviction.any fun k => (s.evictedWith k).contains (spawn, fcoord))
      && (s.flockBolts spawn fcoord).any fun b => !b.evicting then
    some (s.evictFlock (spawn, fcoord))
  else none

/-- EVICTION. -/
def execEviction (spawn fcoord : Nat) (s : State) : Result := .next ((tryEviction spawn fcoord s).getD s)

/-! ### The save -/

/-- Whether a bolt's outstanding work is done (R398): no lane about to leave, loads delivered, no operation of
the array and no job that uses what it gives up. -/
def State.evictReady (s : State) (b : Bolt) : Bool :=
  ((s.weftsOf b).all fun x => (s.memberThreads x.2).all fun t =>
      t.sub != .extractParked && s.loadsDone t.tid && s.performed t.tid)
    && !s.boltInUse b.id && (s.wcore b.core).aq.all fun o => o.bolt != b.id

/-- A thread as eviction takes it from its lane (R398, R400): what it waited for is done again, but for what
has arrived or has been accepted. -/
def Thread.evicted (t : Thread) : Thread :=
  let t := t.dropMonitor
  let t := match t.sub with
    | .rejoin _ => { t with sub := .active }
    | .barrier _ => if t.arriving then { t with sub := .active, wait := .none } else t
    | _ => t
  match t.wait with
  | .jobs _ => { t with wait := .none }
  | .submitted => { t with wait := .none }
  | .crook _ => { t with wait := .none }
  | _ => t

/-- The code of a saved lane's sub-state (R400). -/
def Thread.subCode (t : Thread) : Nat :=
  match t.sub with
  | .barrier _ => 1
  | .faultParked => 2
  | _ => 0

/-- The state with one lane of a weft saved (R398, R400). -/
def State.saveLane (s : State) (b : Bolt) (w : Weft) (area : Nat) (t : Thread) : State :=
  let t := { t.evicted with blocks := w.blocks, vstamp := (s.wcore b.core).vfloor }
  let t := if t.inBarrier then t.carryOnly w.carry else t
  let s := { s with subq := s.subq.filter fun x => x.job.tid != t.tid }
  let s := s.writeArea (laneArea area w.widx t.lane) (dwordBytes (t.record t.subCode w.blocks w.widx t.lane)) t.regPoison
  let s := if t.sub = .faultParked then s.writeTrapBlock t else s
  s.putThread { t with loc := .saved }

/-- The bytes of slice k of a bolt as a save holds them (R400), with their poison marks. -/
def Bolt.sliceBytes (b : Bolt) (k : Nat) : List Byte × List Bool :=
  let es := (List.range 4096).map fun e => 4096 * k + e
  (es.flatMap fun e => leBytes 4 (spGet 0 b.acc e).toNat, es.flatMap fun e => List.replicate 4 (b.accErr.contains e))

/-- The state with a bolt's save area written (R400). -/
def State.writeSave (s : State) (b : Bolt) (area : Nat) : State :=
  let ws := s.weftsOf b
  let s := s.writeArea area (List.replicate (0x2000 + 0x4000 * b.nweft) 0) []
  let s := s.writeArea area (dwordBytes (b.header (s.crookOf b))) []
  let s := ws.foldl
    (fun s x =>
      let ts := s.memberThreads x.2
      if ts.isEmpty then s
      else
        let s := s.writeArea (area + 0x1000 + 64 * x.2.widx) (dwordBytes (x.2.entry (ts.map Thread.evicted))) []
        ts.foldl (fun s t => s.saveLane b x.2 area t) s) s
  let s := (List.range b.nslice).foldl
    (fun s k => s.writeArea (sliceArea area b.nweft k) (b.sliceBytes k).1 (b.sliceBytes k).2) s
  s.writeArea (sliceArea area b.nweft b.nslice) (b.bytes 0 b.size)
    ((List.range b.size).map fun i => b.spPoison.contains (i / 4))

/-- The state with a bolt saved to an area and its resources freed (R398): its threads leave their core, which its
release count and the privatised lines there follow (R237, R251). -/
def State.saveBolt (s : State) (id area : Nat) : State :=
  match s.bolt? id with
  | none => s
  | some b =>
    let s := s.coreRelease b.core
    let crook := s.crookOf b
    let ws := s.weftsOf b
    let s := s.writeSave b area
    let s := ws.foldl (fun s x => s.dropSlot b.core x.1) s
    let s := s.putW b.core { s.wcore b.core with waves := (s.wcore b.core).waves.filter fun v => v.bolt != id }
    let s := s.putBolt
      { b with bstate := .saved, evicting := false, saveArea := area, savedCrook := crook, decl := none,
               spad := [], spPoison := [], acc := [], accErr := [] }
    s.dropCrook b.core id

/-- The state with a save area taken for each of the bolts given that has none yet, as far as the save pool has
addresses (R398). -/
def State.takeAreas (s : State) : List Nat → State
  | [] => s
  | id :: rest =>
    if ((s.bolt? id).map Bolt.saveArea).getD 0 ≠ 0 then s.takeAreas rest
    else
      match (s.queue s.savePool).words with
      | [] => s
      | w :: _ =>
        ((s.takeWords (.base s.savePool) [0]).modBolt id fun b => { b with saveArea := w.1.toNat }).takeAreas rest

/-- The state with the bolts given saved, each to the area that it has taken. -/
def State.saveBolts (s : State) (ids : List Nat) : State :=
  ids.foldl (fun s id => s.saveBolt id (((s.bolt? id).map Bolt.saveArea).getD 0)) s

/-- EVICTION_SAVE (R398 to R400): once the work of every bolt of the flock is done, each takes an address from the save
pool, as the pool gives them (R335); with the last of them the flock is saved and returns to the waiting set. -/
def tryEvictionSave (spawn fcoord : Nat) (s : State) : Option State :=
  let bs := s.flockBolts spawn fcoord
  if !bs.isEmpty && (bs.all fun b => b.evicting && b.bstate == .resident && s.evictReady b) then
    let ids := bs.map Bolt.id
    let want := (bs.filter fun b => b.saveArea == 0).length
    let have_ := (s.queue s.savePool).words.length
    if want ≠ 0 ∧ (have_ = 0 ∨ s.freeFor s.savePool true = false) then none
    else
      let s := s.takeAreas ids
      if have_ < want then some s
      else
        let s := s.saveBolts ids
        let prio := ((bs.head?).map Bolt.prio).getD 0
        let order := ((s.spawn? spawn).map Spawn.order).getD 0
        some (s.putWaiting (s.spawnU.waiting ++ [⟨spawn, fcoord, prio, order, s.gtick, ids⟩]))
  else none

/-- EVICTION_SAVE. -/
def execEvictionSave (spawn fcoord : Nat) (s : State) : Result := .next ((tryEvictionSave spawn fcoord s).getD s)

/-- SPAWN_UNIT_FAILOVER (R336): the mirror goes on from the same waiting set. -/
def trySpawnUnitFailover (s : State) : Option State :=
  if s.spawnU.onMirror then none else some { s with spawnU := { s.spawnU with onMirror := true } }

/-- SPAWN_UNIT_FAILOVER. -/
def execSpawnUnitFailover (s : State) : Result := .next ((trySpawnUnitFailover s).getD s)

end Sys2Proof.Machine
end

