-- ==== Sys2Proof/Machine/Respawn.lean ====
section
/-! DEFINITION. Spawns, traced regions and respawn (R345 to R362): the instructions of R356, completion and the
rounds of a respawn. -/

namespace Sys2Proof.Machine

/-! ### Completion words -/

/-- The state with the ownership transfer requested that the completion word of a spawn must wait for, if its page stands
in a region that the host owns (R215). -/
def State.wordXfer (s : State) (sp : Spawn) : Option State :=
  match walk s sp.pid (vaNat sp.desc.done.toInt) .write sp.level with
  | .error _ => none
  | .ok (k, t, _) =>
    match k.place t.pa with
    | .ram p => match k.ownCheck p with
      | .wait k => some k
      | _ => none
    | _ => none

/-- The state with the completion word of a spawn written, as a release (R347); one whose page cannot be reached
is lost. -/
def State.completionWord (s : State) (sp : Spawn) (refused : Bool) : State :=
  match deviceAddr s sp.pid sp.level sp.desc.done.toInt .write with
  | some (s, pa) =>
    s.portWrite s.maxGuard sp.vf pa (leBytes 8 (sp.seq.toNat % 2 ^ 63 + (if refused then 2 ^ 63 else 0))) []
  | none => s

/-! ### Trace areas -/

/-- The tiles of a region (R348). -/
def TRegion.tiles (r : TRegion) : Nat := r.len / 2 ^ r.tlog

/-- The bytes that bolt records take (R349). -/
def recordBytes (nbolt ebolt : Nat) : Nat := 192 + nbolt * (16 + 8 * ebolt)

/-- Regions with the offsets of their bitmaps, the first at `off` (R349). -/
def withBitmaps : Nat → List TRegion → List (TRegion × Nat)
  | _, [] => []
  | off, r :: rs => (r, off) :: withBitmaps (off + 8 * ((r.tiles + 63) / 64)) rs

/-- The bytes that a trace area needs (R349). -/
def areaBytes (nbolt ebolt : Nat) (rs : List TRegion) : Nat :=
  rs.foldl (fun n r => n + 8 * ((r.tiles + 63) / 64)) (recordBytes nbolt ebolt)

/-- The traced regions of a space (R348). -/
def State.regionsOf (s : State) (space : Nat) : List TRegion := (tabGet s.regions space).getD []

/-- The open traces of a space (R349). -/
def State.tracesOf (s : State) (space : Nat) : List Trace := s.traces.filter fun t => spaceOf t.pid == space && !t.shut

/-- The trace state word (R350). -/
def Trace.word (t : Trace) (isOpen : Bool) (rounds : Nat) : Nat :=
  t.nrerun % 2 ^ 32 + t.regions.length * 2 ^ 32 + rounds * 2 ^ 40 + flag t.unsettled * 2 ^ 61 + flag t.busy * 2 ^ 62
    + flag isOpen * 2 ^ 63

/-- A region list entry (R349). -/
def regionEntry (r : TRegion × Nat) : Nat := r.2 + r.1.num * 2 ^ 32 + 2 ^ 63

/-- The state with a trace opened and its whole area written (R349, R350). -/
def State.openTrace (s : State) (tr : Trace) : State :=
  let s := { s with traces := s.traces ++ [tr] }
  let need := areaBytes tr.nbolt tr.ebolt (tr.regions.map (·.1))
  let s := (List.range (need / 8)).foldl (fun s i => if (s.trace? tr.spawn).isSome then s.areaWrite tr (8 * i) 0 else s) s
  let s := ((s.areaWrite tr 0 (tr.word true 0)).areaWrite tr 8 tr.spawn).areaWrite tr 16 (tr.ebolt + tr.nbolt * 2 ^ 32)
  (List.range tr.regions.length).foldl
    (fun s j => match tr.regions[j]? with
      | some r => s.areaWrite tr (0x40 + 8 * j) (regionEntry r)
      | none => s) s

/-! ### SPWN -/

/-- The refusal of a spawn, the first in the order of R346. -/
def State.spawnRefusal (s : State) (t : Thread) (w : List Nat) : Option Nat :=
  let d := descOf w
  let space := spaceOf t.pid
  let regions := s.regionsOf space
  let need := areaBytes d.nbolt d.ebolt regions
  if !descValid w then some 1
  else if d.trace && 8 ≤ (s.tracesOf space).length then some 3
  else if d.trace && (2 ^ 20 < d.nbolt || d.tlen < need
      || regions.any fun r => vaMeets d.tarea.toNat need r.base r.len) then some 4
  else if d.pclass = 0 ∧ (s.placeMany d (s.bolts.map (·.1)) d.nflock []).isNone then some 2
  else if s.poolWords < d.flockThreads then some 5
  else none

/-- A refusal as an instruction returns it (R346). -/
def refusal (code : Nat) : Word := BitVec.ofNat 64 (2 ^ 63 + code)

/-- The state with flocks of a spawn added to the waiting set (R336). -/
def State.addFlocks (s : State) (sp : Spawn) (fcoords : List Nat) : State :=
  s.putWaiting (s.spawnU.waiting ++ fcoords.map fun k => ⟨sp.id, k, sp.desc.prio, sp.order, s.gtick, []⟩)

/-- The trace of a new spawn (R349). -/
def newTrace (s : State) (t : Thread) (sp : Spawn) (d : Desc) : Trace :=
  { spawn := sp.id, pid := t.pid, level := t.plvl, tarea := d.tarea, nbolt := d.nbolt, ebolt := d.ebolt,
    regions := withBitmaps (recordBytes d.nbolt d.ebolt) (s.regionsOf (spaceOf t.pid)), busy := true,
    broken := false, shut := false, unsettled := false, round := 0, nrerun := 0, sel := [], old := [] }

/-- The state with a spawn admitted (R345), under the id that it returns. -/
def State.admitSpawn (s : State) (t : Thread) (d : Desc) : State :=
  let u := s.spawnU
  let sp : Spawn :=
    { id := u.nextId, pid := t.pid, level := t.plvl, desc := d, order := u.nextOrder, seq := d.seq,
      boltsLeft := d.nbolt, started := [], running := true, broke := false, vf := s.viewOf t }
  let s := s.released t.tid
  let s := { s with spawnU := { u with
    nextId := if u.nextId = 2 ^ 32 - 1 then 1 else u.nextId + 1, nextOrder := u.nextOrder + 1 } }
  let s := (s.putSpawn sp).addFlocks sp (List.range d.nflock)
  if d.trace then
    s.openTrace (newTrace s t sp d)
  else s

/-- The checks of R217 for a store that a device makes later; those of a device register end with the translation (log
entry 94). -/
def chkStore (s : State) (t : Thread) (core : Nat) (v : Int) (align : Nat) : Chk Unit :=
  match checkAccess s t core v align true false 1 false with
  | .ok k _ => .ok k ()
  | .trap k tr => .trap k tr
  | .wait k => .wait k
  | .device k _ _ => .ok k ()

/-- The checks of SPWN (R356, R357): the descriptor, then the completion word, then the trace area. -/
def checkSpawn (s : State) (t : Thread) (core : Nat) (v : Int) : Chk (List Nat) :=
  (chkDesc s t core v).bind fun s w =>
    let d := descOf w
    (chkStore s t core d.done.toInt 8).bind fun s _ =>
      if d.trace then (chkStore s t core d.tarea.toInt 64).bind fun s _ => .ok s w else .ok s w

/-- SPWN (R357). -/
def execSpwn (f : Fields) (s : State) : Result :=
  issue rDst1 f true (fun _ => none) false
    (fun s l =>
      if !s.performed l.tid then .wait fun k => k
      else
        Chk.act (fun k => checkSpawn k l.thread k.cur.core l.a.toInt) s fun k w =>
          match k.spawnRefusal l.thread w with
          | some c => .value k (refusal c)
          | none => .value (k.admitSpawn l.thread (descOf w)) (BitVec.ofNat 64 k.spawnU.nextId)) s

/-! ### Tile sets -/

/-- A set of tiles: those listed, or with `true` every captured tile but those listed. -/
abbrev TileSet := Bool × List Nat

/-- Whether two tile sets meet, among `total` captured tiles. -/
def TileSet.meets (total : Nat) (a b : TileSet) : Bool :=
  match a.1, b.1 with
  | false, false => a.2.any b.2.contains
  | false, true => a.2.any fun x => !b.2.contains x
  | true, false => b.2.any fun x => !a.2.contains x
  | true, true => (distinct (a.2 ++ b.2)).length < total

/-- The tiles of one set that are not in another. -/
def TileSet.minus (a b : TileSet) : TileSet :=
  match a.1, b.1 with
  | false, false => (false, a.2.filter fun x => !b.2.contains x)
  | false, true => (false, a.2.filter b.2.contains)
  | true, false => (true, a.2 ++ b.2)
  | true, true => (false, b.2.filter fun x => !a.2.contains x)

/-- The union of two tile sets. -/
def TileSet.union (a b : TileSet) : TileSet :=
  match a.1, b.1 with
  | false, false => (false, a.2 ++ b.2)
  | false, true => (true, b.2.filter fun x => !a.2.contains x)
  | true, false => (true, a.2.filter fun x => !b.2.contains x)
  | true, true => (true, a.2.filter b.2.contains)

/-- The captured tiles of a trace. -/
def Trace.total (t : Trace) : Nat := t.regions.foldl (fun n r => n + r.1.tiles) 0

/-- The tiles that bolt b read or wrote by its record (R350, R351, R353). -/
def State.tilesOf (s : State) (t : Trace) (b : Nat) (write : Bool) : TileSet :=
  let off := t.boltOff b
  let h := (s.areaRead t off).2
  if bitAt h 32 then (true, [])
  else
    (false, (List.range (bitsAt h 0 32)).filterMap fun i =>
      let e := (s.areaRead t (off + 16 + 8 * i)).2
      if bitAt e 63 == write then some (e % 2 ^ 36) else none)

/-- The number of bits set in the bitmaps of a trace (R361). -/
def State.dirtyBits (s : State) (t : Trace) : Nat :=
  (t.regions.map fun r => ((List.range ((r.1.tiles + 63) / 64)).map fun i =>
    ((List.range 64).filter fun k => bitAt (s.areaRead t (r.2 + 8 * i)).2 k).length).sum).sum

/-- The tiles whose bits are set in the bitmaps of a trace (R352). -/
def State.dirtyTiles (s : State) (t : Trace) : List Nat :=
  t.regions.flatMap fun r => (List.range r.1.tiles).filterMap fun k =>
    if bitAt (s.areaRead t (r.2 + 8 * (k / 64))).2 (k % 64) then some (r.1.num * 2 ^ 32 + k) else none

/-- The bolts of a trace that read a tile of a set. -/
def State.readers (s : State) (t : Trace) (d : TileSet) : List Nat :=
  (List.range t.nbolt).filter fun b => (s.tilesOf t b false).meets t.total d

/-- A selection grown by the readers of what it wrote and to whole flocks of f bolts (R353). -/
def State.growSel (s : State) (t : Trace) (f : Nat) (sel : List Nat) : List Nat :=
  let hit (b : Nat) : Bool :=
    sel.contains b || sel.any fun a => (s.tilesOf t b false).meets t.total (s.tilesOf t a true)
  let grown := (List.range t.nbolt).filter hit
  (List.range t.nbolt).filter fun b => grown.any fun a => a / f == b / f

/-- The static closure of a selection (R353). -/
def State.closeSel (s : State) (t : Trace) (f : Nat) : Nat → List Nat → List Nat
  | 0, sel => sel
  | fuel + 1, sel =>
    let g := s.growSel t f sel
    if g.length = sel.length then sel else s.closeSel t f fuel g

/-- The bolts that a round runs when it starts from the readers of a set (R353). -/
def State.roundSel (s : State) (t : Trace) (f : Nat) (d : TileSet) : List Nat :=
  let sel := s.readers t d
  if sel.isEmpty then [] else s.closeSel t f (t.nbolt + 1) (s.growSel t f sel)

/-! ### Respawn -/

/-- The state with the head of each bolt record changed. -/
def State.modHeads (s : State) (t : Trace) (bs : List Nat) (g : Nat → Nat → Nat) : State :=
  bs.foldl (fun s b => s.areaWrite t (t.boltOff b) (g b (s.areaRead t (t.boltOff b)).2)) s

/-- A head without its ran bit (R353). -/
def headIdle (h : Nat) : Nat := h - bitsAt h 33 1 * 2 ^ 33

/-- A head as a round starts its bolt: no entries, ran and the round set, sel kept (R350, R353). -/
def headRun (round h : Nat) : Nat := round * 2 ^ 40 + bitsAt h 34 1 * 2 ^ 34 + 2 ^ 33

/-- A head with its sel bit set or cleared (R358). -/
def headSel (on : Bool) (h : Nat) : Nat := h - bitsAt h 34 1 * 2 ^ 34 + flag on * 2 ^ 34

/-- The state with every bitmap dword of a trace swapped to 0 (R353). -/
def State.swapBitmaps (s : State) (t : Trace) : State :=
  t.regions.foldl
    (fun s r => (List.range ((r.1.tiles + 63) / 64)).foldl (fun s i => s.areaWrite t (r.2 + 8 * i) 0) s) s

/-- The state with a round of a respawn begun (R353). -/
def State.startRound (s : State) (sp : Spawn) (t : Trace) (round : Nat) (sel : List Nat) : State :=
  let t := { t with
    round, sel, nrerun := t.nrerun + sel.length, busy := true, old := sel.map fun b => (b, s.tilesOf t b true) }
  let s := (s.modTrace t.spawn fun u => { t with broken := u.broken })
  let s := s.modHeads t sel fun _ h => headRun round h
  let s := s.areaWrite t 0 (t.word true (round - 1))
  (s.putSpawn { sp with boltsLeft := sel.length, started := [], running := true }).addFlocks sp
    (distinct (sel.map fun b => b / sp.desc.f))

/-- The trace, open or closed, of the spawn that a descriptor's trace area names (R358): the latest one. -/
def State.tracedBy (s : State) (t : Thread) (d : Desc) : Option Trace :=
  if d.tarea = 0 then none
  else
    match deviceAddr s t.pid t.plvl (d.tarea.toInt + 8) .read with
    | none => none
    | some (k, pa) =>
      s.traces.reverse.find? fun tr =>
        tr.spawn == leNat (k.portRead pa 8).2 % 2 ^ 32 && spaceOf tr.pid == spaceOf t.pid

/-- The open trace of the spawn that a descriptor's trace area names (R358). -/
def State.traceOf (s : State) (t : Thread) (d : Desc) : Option Trace :=
  (s.tracedBy t d).filter fun tr => !tr.shut

/-- The refusal of a respawn, the first in the order of R346; `run` for RSPWN. -/
def State.respawnRefusal (s : State) (t : Thread) (w : List Nat) (run : Bool) : Option Nat :=
  if !descValid w then some 1
  else
    match s.traceOf t (descOf w) with
    | none => some 7
    | some tr =>
      if tr.busy then some 6
      else
        match s.spawn? tr.spawn with
        | none => some 7
        | some sp =>
          if run && !(s.roundSel tr sp.desc.f (false, s.dirtyTiles tr)).isEmpty && s.poolWords < sp.desc.flockThreads
          then some 5 else none

/-- The state with a run or a respawn of a spawn at its end (R347, R349, R353): its state word and its completion
word are written, and a broken trace closes; one that the exit of its process closed first counts as broken too. -/
def State.endRun (s : State) (sp : Spawn) (refused : Bool) : State :=
  let done := { sp with running := false, started := [] }
  match s.traces.find? fun t => t.spawn == sp.id && !t.shut with
  | none =>
    let s := s.completionWord sp (refused || sp.broke || s.traces.any fun t => t.spawn == sp.id && t.broken)
    { s with spawnU := { s.spawnU with spawns := tabDel s.spawnU.spawns sp.id } }
  | some t =>
    let t' := { t with busy := false, round := 0, sel := [], old := [] }
    if t.broken then
      let s := (s.completionWord sp true).putSpawn done
      s.closeTrace t'
    else
      let s := (s.modTrace sp.id fun _ => t').areaWrite t' 0 (t'.word true t.round)
      let broken := (s.trace? sp.id).isNone
      let s := (s.completionWord sp (refused || broken)).putSpawn done
      if broken then s.closeTrace { t' with broken := true } else s

/-- RSPWN as the spawn unit starts it (R353, R358), with the bolts that round 1 runs. -/
def State.respawn (s : State) (t : Thread) (sp : Spawn) (tr : Trace) (seq : Word) : State × Nat :=
  let sp := { sp with seq, vf := stampMax sp.vf (s.viewOf t) }
  let tr := { tr with nrerun := 0, unsettled := false, busy := true }
  let s := (s.released t.tid).modTrace tr.spawn fun _ => tr
  let s := s.modHeads tr (List.range tr.nbolt) fun _ h => headIdle h
  let d := s.dirtyTiles tr
  let s := s.swapBitmaps tr
  let sel := s.roundSel tr sp.desc.f (false, d)
  if !sel.isEmpty then (s.startRound sp tr 1 sel, sel.length)
  else if (s.wordXfer sp).isNone then (s.endRun sp false, 0)
  else ((s.areaWrite tr 0 (tr.word true 0)).putSpawn { sp with boltsLeft := 0, started := [], running := true }, 0)

/-- RSPWN (R358). -/
def execRspwn (f : Fields) (s : State) : Result :=
  issue rDst2 f true (fun _ => none) false
    (fun s l =>
      if !s.performed l.tid then .wait fun k => k
      else if l.b.getLsbD 63 then .trap ⟨.prot, l.b, false⟩ false
      else
        Chk.act (fun k => chkDesc k l.thread k.cur.core l.a.toInt) s fun k w =>
          match k.respawnRefusal l.thread w true, k.traceOf l.thread (descOf w) with
          | some c, _ => .value k (refusal c)
          | none, some tr => match k.spawn? tr.spawn with
            | some sp => let r := k.respawn l.thread sp tr l.b; .value r.1 (BitVec.ofNat 64 r.2)
            | none => .value k (refusal 7)
          | none, none => .value k (refusal 7)) s

/-- RSPWN.d (R356, R358): the selection of round 1 from the bits as read, once earlier accesses are performed. -/
def execRspwnD (f : Fields) (s : State) : Result :=
  issue rDst1 f false (fun _ => none) false
    (fun s l =>
      if !s.performed l.tid then .wait fun k => k
      else Chk.act (fun k => chkDesc k l.thread k.cur.core l.a.toInt) s fun k w =>
        match k.respawnRefusal l.thread w false, k.traceOf l.thread (descOf w) with
        | some c, _ => .value k (refusal c)
        | none, some tr => match k.spawn? tr.spawn with
          | some sp =>
            let sel := k.roundSel tr sp.desc.f (false, k.dirtyTiles tr)
            .value (k.modHeads tr (List.range tr.nbolt) fun b h => headSel (sel.contains b) h)
              (BitVec.ofNat 64 sel.length)
          | none => .value k (refusal 7)
        | none, none => .value k (refusal 7)) s

/-! ### Ends of runs and rounds -/

/-- Whether a run's or a round's bolts have all ended. -/
def State.ranOut (s : State) (sp : Spawn) : Bool :=
  sp.running && sp.boltsLeft == 0 && !s.spawnU.waiting.any fun w => w.spawn == sp.id

/-- Whether a round of a respawn is still to be followed up (R353). -/
def Trace.inRound (t : Trace) : Bool := !t.broken && !t.shut && t.round != 0 && !t.sel.isEmpty

/-- Whether a concurrent spawn that has not started can be placed neither now nor after partial eviction (R336,
R347). -/
def State.unplaceable (s : State) (sp : Spawn) : Bool :=
  match s.headFlock with
  | none => false
  | some w =>
    w.spawn == sp.id && sp.desc.pclass == 0 && w.isNew && s.offered sp.desc w && s.leavingBolts.isEmpty
      && (s.wouldPlace w).isNone && (s.wholeVictims sp.desc w).isNone

/-! ### The end of a process -/

/-- Whether a process still lives: a thread of it does, or a flock of its spawns waits (log entry 73). -/
def State.processLives (s : State) (space : Nat) : Bool :=
  (s.threads.any fun p => p.2.loc != .exited && spaceOf p.2.pid == space)
    || s.spawnU.waiting.any fun w => match s.spawn? w.spawn with
      | some sp => spaceOf sp.pid == space
      | none => false

/-- The state after the exit of a process, if its last thread has gone: its traces close and its traced regions go
(R348, R349, R362). -/
def State.processEnd (s : State) (pid : Nat) : State :=
  let space := spaceOf pid
  if s.processLives space then s
  else
    let s := (s.tracesOf space).foldl State.closeTrace s
    { s with regions := tabDel s.regions space }

/-! ### Completion and rounds -/

/-- SPAWN_COMPLETION (R347); the ownership transfer that the completion word needs comes first (R215). A process whose last
flocks cannot be placed has come to its end with them (log entry 73). -/
def trySpawnCompletion (spawn : Nat) (s : State) : Option State :=
  match s.spawn? spawn with
  | none => none
  | some sp =>
    let follow := s.traces.any fun t => t.spawn == spawn && t.inRound
    let finish (k : State) : Option State := match s.wordXfer sp with
      | some x => newRequest s x
      | none => some k
    if s.ranOut sp && !follow then finish (s.endRun sp false)
    else if s.unplaceable sp then
      finish (((s.putWaiting (s.spawnU.waiting.filter fun w => w.spawn != spawn)).endRun sp true).processEnd sp.pid)
    else none

/-- SPAWN_COMPLETION. -/
def execSpawnCompletion (spawn : Nat) (s : State) : Result := .next ((trySpawnCompletion spawn s).getD s)

/-- RESPAWN_ROUND (R353): the tiles written anew select the next round, at most the eighth; with none left to run,
the respawn comes to its end. -/
def tryRespawnRound (spawn : Nat) (s : State) : Option State :=
  match s.spawn? spawn, s.trace? spawn with
  | some sp, some t =>
    if s.ranOut sp && t.inRound then
      let new := t.old.foldl (fun n o => TileSet.union n ((s.tilesOf t o.1 true).minus o.2)) (false, [])
      let sel := s.readers t new
      if sel.isEmpty ∨ 8 ≤ t.round then
        some (s.modTrace spawn fun t => { t with sel := [], unsettled := !sel.isEmpty })
      else some (s.startRound sp t (t.round + 1) (s.closeSel t sp.desc.f (t.nbolt + 1) (s.growSel t sp.desc.f sel)))
    else none
  | _, _ => none

/-- RESPAWN_ROUND. -/
def execRespawnRound (spawn : Nat) (s : State) : Result := .next ((tryRespawnRound spawn s).getD s)

/-! ### Traced regions -/

/-- A traced region record of 4 dwords (R348), if it keeps the limits. -/
def regionRecord (w : List Nat) (num : Nat) : Option TRegion :=
  let base := dwordAt w 0
  let len := dwordAt w 1
  let tlog := dwordAt w 2
  if canonicalWord (BitVec.ofNat 64 base) ∧ tlog < 64 ∧ 8 ≤ tlog ∧ tlog ≤ 21 ∧ dwordAt w 3 = 0 ∧ base % 2 ^ tlog = 0 ∧
      len ≠ 0 ∧ len % 2 ^ tlog = 0 ∧ len ≤ 2 ^ 40 then
    some ⟨num, base, len, tlog⟩
  else none

/-- The lowest free region number of a space. -/
def freeRegion (rs : List TRegion) : Option Nat := (List.range 16).find? fun n => !rs.any fun r => r.num == n

/-- The regions with one put in its place by number. -/
def regionInsert (r : TRegion) : List TRegion → List TRegion
  | [] => [r]
  | x :: l => if r.num < x.num then r :: x :: l else x :: regionInsert r l

/-- The state with the traced regions of a space (R348). -/
def State.putRegions (s : State) (space : Nat) (rs : List TRegion) : State :=
  { s with regions := tabPut s.regions space rs }

/-- TRK.a (R359). -/
def execTrkA (f : Fields) (s : State) : Result :=
  issue rDst1 f false (fun _ => none) false
    (fun s l =>
      Chk.act (fun k => chkRecord k l.thread k.cur.core l.a.toInt 32) s fun k bs =>
        let space := spaceOf l.thread.pid
        let rs := k.regionsOf space
        match regionRecord (dwords bs) ((freeRegion rs).getD 0) with
        | none => .value k (refusal 8)
        | some r =>
          if (freeRegion rs).isNone ∨ rs.any fun x => vaMeets x.base x.len r.base r.len then .value k (refusal 9)
          else .value (k.putRegions space (regionInsert r rs)) (BitVec.ofNat 64 r.num)) s

/-- TRK.r (R359). -/
def execTrkR (f : Fields) (s : State) : Result :=
  issue rDst1 f false (fun _ => none) false
    (fun s l =>
      let space := spaceOf l.thread.pid
      let n := l.a.toNat
      if 16 ≤ n then .trap ⟨.prot, l.a, false⟩ false
      else if !(s.regionsOf space).any fun r => r.num == n then .value s (refusal 11)
      else if (s.tracesOf space).any fun t => t.regions.any fun r => r.1.num == n then .value s (refusal 10)
      else .value (s.putRegions space ((s.regionsOf space).filter fun r => r.num != n)) 0) s

/-- TRKC (R360). -/
def execTrkc (f : Fields) (s : State) : Result :=
  issue rDst1 f false (fun _ => none) false
    (fun s l =>
      Chk.act (fun k => chkDesc k l.thread k.cur.core l.a.toInt) s fun k w =>
        match k.traceOf l.thread (descOf w) with
        | none => .value k (refusal 7)
        | some t => if t.busy then .wait fun k => k else .value (k.closeTrace t) 0) s

/-- TRKQ.s (R361), of a closed trace too: its word says so (R350). -/
def execTrkqS (f : Fields) (s : State) : Result :=
  issue rDst1 f false (fun _ => none) false
    (fun s l =>
      Chk.act (fun k => chkDesc k l.thread k.cur.core l.a.toInt) s fun k w =>
        match k.tracedBy l.thread (descOf w) with
        | none => .value k 0
        | some t => .value k (BitVec.ofNat 64 (k.areaRead t 0).2)) s

/-- The state in which the stores that a thread has in flight have marked their tiles: a mark precedes its write (R352). -/
def State.markQueued (s : State) (t : Thread) : State :=
  (s.storesOf t.tid).foldl (fun s p => s.markDirty (spaceOf t.pid) p.va.toNat t.spawn) s

/-- TRKQ.d (R361): it does not wait, so that its thread's earlier stores mark their tiles before it counts (R428; log
entry 40). -/
def execTrkqD (f : Fields) (s : State) : Result :=
  issue rDst1 f false (fun _ => none) false
    (fun s l =>
      Chk.act (fun k => chkDesc k l.thread k.cur.core l.a.toInt) s fun k w =>
        match k.tracedBy l.thread (descOf w) with
        | none => .value k 0
        | some t => let k := k.markQueued l.thread; .value k (BitVec.ofNat 64 (k.dirtyBits t))) s

end Sys2Proof.Machine
end

