-- ==== Sys2Proof/Machine/Members.lean ====
section
/-! DEFINITION. How threads end, travel and are resumed: EXIT and the end of a bolt (R37, R339, R340), arrivals
(R35, R36, R172, R175 to R177), resume words (R388, R389), signals (R392, R393) and dispatch on a latency core. -/

namespace Sys2Proof.Machine

/-! ### The end of a thread -/

/-- A thread that has ended (R39): nothing of it is left to observe. -/
def Thread.ended (t : Thread) : Thread :=
  { t.dropMonitor with
    loc := .exited, sub := .active, wait := .none, ports := Vector.replicate 8 .unbound, inbox := [], bwait := none,
    entry := none, leave := none, lost := none }

/-- The state without a thread's undelivered results and unaccepted jobs. -/
def State.forget (s : State) (tid : Nat) : State :=
  { s with pend := s.pend.filter fun p => p.tid != tid, subq := s.subq.filter fun x => x.job.tid != tid }

/-- The state with a thread gone from where it stands (R43, R172). -/
def State.unseat (s : State) (t : Thread) : State :=
  match t.loc with
  | .latency c => s.putL c { s.lcore c with cur := none }
  | .member c slot lane => s.vacate c slot lane
  | _ => s

/-- The state with a thread ended, its block retired and its own network registrations gone (R331, R403). -/
def State.endThread (s : State) (t : Thread) : State :=
  (((((s.forget t.tid).departAll (false, t.tid)).putThread t.ended).unseat t).retire t)

/-- The state with a word of a barrier lowered by an exit in its scope (R325). -/
def State.lowerExpect (s : State) (b : Bolt) (k : BarKind) (stage : Nat) : State :=
  let holder := s.barHolder b k
  (s.modBolt holder.id fun x => x.setBar k stage { x.bar k stage with expect := (x.bar k stage).expect - 1 }).touchHeader
    holder.id

/-- The state with the view of a spawn raised to what a thread of it has done (R347). -/
def State.raiseSpawn (s : State) (t : Thread) : State :=
  match s.spawn? t.spawn with
  | some sp => s.putSpawn { sp with vf := stampMax sp.vf (s.viewOf t) }
  | none => s

/-- The state with a thread of a spawn exited (R339), as a release: its barriers and its bolt count it no more. -/
def State.exitThread (s : State) (t : Thread) (b : Bolt) : State :=
  let s := (s.released t.tid).raiseSpawn t
  let s := ((s.lowerExpect b .bar t.stage).lowerExpect b .barSt t.stage).lowerExpect b .fbar t.stage
  let s := (s.modBolt b.id fun x => { x with live := x.live - 1 }).touchHeader b.id
  let s := s.endThread t
  let s := s.checkNarr b.id
  ((s.checkBarrier b.id .bar t.stage).checkBarrier b.id .barSt t.stage).checkBarrier b.id .fbar t.stage

/-! ### The end of a bolt -/

/-- The state with the flock's barrier word passed on by a bolt that ends (R325). -/
def State.passFlockWord (s : State) (b : Bolt) : State :=
  match s.flockOf b with
  | x :: y :: _ => if x.id = b.id then (s.modBolt y.id fun z => { z with flWord := b.flWord }).touchHeader y.id else s
  | _ => s

/-- The state with a saved bolt that ends gone from the waiting set, its save area returned (R336, R400); one that ends
while its flock is being evicted gives back the address that it has taken. -/
def State.leaveWaiting (s : State) (b : Bolt) : State :=
  if b.bstate ≠ .saved then
    if b.saveArea = 0 then s else s.devicePush s.savePool (BitVec.ofNat 64 b.saveArea)
  else
    let l := s.spawnU.waiting.map fun w => { w with bolts := w.bolts.filter fun i => i != b.id }
    let gone (w : WaitFlock) : Bool :=
      w.bolts.isEmpty && s.spawnU.waiting.any fun x => x.spawn == w.spawn && x.fcoord == w.fcoord && x.bolts == [b.id]
    (s.putWaiting (l.filter fun w => !gone w)).devicePush s.savePool (BitVec.ofNat 64 b.saveArea)

/-- The state with the weft slots of a bolt freed. -/
def State.freeWefts (s : State) (b : Bolt) : State :=
  let s := (s.weftsOf b).foldl (fun s x => s.dropSlot b.core x.1) s
  s.putW b.core { s.wcore b.core with waves := (s.wcore b.core).waves.filter fun v => v.bolt != b.id }

/-- The state with what R340 ends at the end of a bolt ended, its rows and slices apart. -/
def State.closeBolt (s : State) (id : Nat) : State :=
  match s.bolt? id with
  | none => s
  | some b =>
    let s := (s.passFlockWord b).leaveWaiting b
    let s := if b.bstate = .resident then s.freeWefts b else s
    let s := if b.bstate = .resident then s.dropCrook b.core id else s
    let s := s.departAll (true, id)
    let s := match s.spawn? b.spawn with
      | some sp => s.putSpawn { sp with boltsLeft := sp.boltsLeft - 1 }
      | none => s
    s.modBolt id fun b => { b with handles := [], chans := [], decl := none, bstate := .done, evicting := false }

/-- The state with a bolt whose last thread has exited ended (R340): its rows and slices go once nothing uses
them. -/
def State.endBolt (s : State) (id : Nat) : State := (s.closeBolt id).reap

/-- Whether a bolt has no live thread left. -/
def State.boltOver (s : State) (id : Nat) : Bool :=
  match s.bolt? id with
  | some b => b.live == 0 && b.bstate != .done && !b.pack
  | none => false

/-- The state with a thread of a spawn exited, and its bolt ended if it was the last, with no successor; its process
exits with its last thread. -/
def State.exitOf (s : State) (t : Thread) : State :=
  match t.bolt.bind s.bolt? with
  | none => (s.endThread t).processEnd t.pid
  | some b =>
    let s := s.exitThread t b
    (if s.boltOver b.id then s.endBolt b.id else s).processEnd t.pid

/-! ### Successors -/

/-- Whether a descriptor describes a bolt that the resources of an ending one serve (R37, R340). A bolt that is saved as
its last thread exits on a latency core has no resources to pass on: its successor does not fit (DESIGN CHOICE: the rules
do not speak of it; log entry 85). -/
def State.successorFits (s : State) (t : Thread) (b : Bolt) (w : List Nat) : Bool :=
  let d := descOf w
  descValid w && d.nflock == 1 && d.f == 1 && d.rows ≤ b.rows && d.nslice ≤ b.nslice && b.bstate == .resident
    && d.nweft ≤ (s.freeSlots b.core).length + (s.weftsOf b).length && d.t ≤ s.poolWords
    && (!d.trace || (s.spawnRefusal t w).isNone)

/-- A successor of a bolt (R37): a new bolt in the place of the ending one, with its rows, slices and age. -/
def Bolt.successor (b : Bolt) (sp : Spawn) : Bolt :=
  { Bolt.fresh b.id sp 0 0 b.core with
    order := b.order, rows := b.rows, nslice := b.nslice, spad := b.spad, spPoison := b.spPoison, acc := b.acc,
    accErr := b.accErr }

/-- The state with the jobs of a bolt that has a successor no longer counted as its own. -/
def State.orphanJobs (s : State) (id : Nat) : State :=
  { s with jobs := s.jobs.map fun j => if j.bolt = some id then { j with bolt := some 0 } else j }

/-- The state with a successor started in the place of a bolt that has ended (R37). -/
def State.startSuccessor (s : State) (t : Thread) (b : Bolt) (d : Desc) (order : Nat) : State :=
  let u := s.spawnU
  let sp : Spawn :=
    { id := u.nextId, pid := t.pid, level := t.plvl, desc := d, order, seq := d.seq, boltsLeft := 1, started := [0],
      running := true, broke := false, vf := s.viewOf t }
  let s := ({ s with spawnU := { u with nextId := if u.nextId = 2 ^ 32 - 1 then 1 else u.nextId + 1 } }).putSpawn sp
  let s := if d.trace then s.openTrace (newTrace s t sp d) else s
  (s.orphanJobs b.id).seatNew sp (b.successor sp)

/-- The spawn that a successor's descriptor stands for, as its refusal reports it (R340, R347). -/
def State.refusedSpawn (s : State) (t : Thread) (d : Desc) : Spawn :=
  { id := 0, pid := t.pid, level := t.plvl, desc := d, order := 0, seq := d.seq, boltsLeft := 0, started := [],
    running := false, broke := true, vf := s.viewOf t }

/-- The state with a successor that a bolt's resources do not serve refused (R340, R347). -/
def State.refuseSuccessor (s : State) (t : Thread) (d : Desc) : State := s.completionWord (s.refusedSpawn t d) true

/-- The state with the last thread of a bolt exited under a successor's name (R37, R340). -/
def State.exitTo (s : State) (t : Thread) (b : Bolt) (w : List Nat) : State :=
  let fits := s.successorFits t b w
  let order := ((s.spawn? b.spawn).map Spawn.order).getD 0
  let s := (s.exitThread t b).closeBolt b.id
  if fits then s.startSuccessor t b (descOf w) order
  else ((s.refuseSuccessor t (descOf w)).reap).processEnd t.pid

/-! ### EXIT -/

/-- n dwords from an address read as loads of their own (R217). -/
def chkDwords (t : Thread) (core : Nat) : Nat → State → Int → Chk (List Nat)
  | 0, s, _ => .ok s []
  | n + 1, s, v =>
    (chkRecord s t core v 8).bind fun s bs => (chkDwords t core n s (v + 8)).bind fun s l => .ok s (leNat bs :: l)

/-- Whether the array still holds operations of a bolt. -/
def State.arrayBusy (s : State) (id : Nat) : Bool := s.allArrOps.any fun o => o.bolt == id

/-- EXIT for one lane (R339, R340): `next` is the successor's descriptor, if one is named. A thread that SPWN did
not create takes it as a system call. -/
def exitLane (next : Lane → Option Int) : Body := fun s l =>
  if !l.thread.spawned then .trap (Trap.plain .sysc 1) false
  else
    match lostStore l with
    | some t => .trap t false
    | none =>
      if !s.performed l.tid then .wait fun k => k
      else
        match s.thread? l.tid, l.thread.bolt.bind s.bolt?, next l with
        | some t, some b, some v =>
          if b.live ≠ 1 then .placed (s.exitOf t)
          else if s.arrayBusy b.id then .wait fun k => k
          else Chk.act (fun k => chkDwords l.thread k.cur.core 32 k v) s fun k w =>
            match if k.successorFits t b w then none else k.wordXfer (k.refusedSpawn t (descOf w)) with
            | some _ => .wait fun k => (k.wordXfer (k.refusedSpawn t (descOf w))).getD k
            | none => .placed (k.exitTo t b w)
        | some t, _, _ => .placed (s.exitOf t)
        | none, _, _ => .done s

/-- EXIT (R339). -/
def execExit (f : Fields) (s : State) : Result :=
  settled (issue rNone f true (fun _ => none) false (exitLane fun _ => none) s)

/-- EXIT.s (R339, R340). -/
def execExitS (f : Fields) (s : State) : Result :=
  settled (issue rSrc1 f true (fun _ => none) false (exitLane fun l => some l.a.toInt) s)

/-! ### Arrivals -/

/-- Whether a thread in transit may arrive at a latency core (R172): one that is not halted, and the one that is
named if one is. -/
def State.latencyTakes (s : State) (t : Thread) (core : Nat) : Bool :=
  isLat core && !(s.lcore core).halted
    && (match t.loc with
        | .transit (.latency none) => true
        | .transit (.latency (some c)) => c == core
        | _ => false)

/-- The state with a thread given to the scheduler of a latency core (R172, R175): an invalid record, or a space
entry of another pid (R201), makes it take a machine check. It runs at clock request 16 (R368), and what its thread block
gives is read (R176). -/
def State.arriveLatency (s : State) (t : Thread) (core : Nat) (valid : Bool) : State :=
  let t := s.readBlock t
  let entry := if !valid then some (18, 1) else if s.pidMismatch t.pid then some (18, 2) else t.entry
  let t := { t with loc := .latency core, clock := 16, age := 0, entry }
  (s.putThread t).putL core { s.lcore core with run := (s.lcore core).run ++ [t.tid] }

/-- A thread at a weft core as its record leaves it (R175, R368): one whose record is invalid takes the machine check as it
joins. -/
def Thread.received (t : Thread) (valid : Bool) : Thread :=
  if valid then { t with clock := 16 } else { t with clock := 16, entry := some (18, 1), sub := .active, wait := .none }

/-- Whether a thread in transit is bound for a weft core. -/
def Thread.weftBound (t : Thread) : Bool :=
  match t.loc with
  | .transit (.weft _) => true
  | .transit .anyWeft => true
  | _ => false

/-- The state with a thread of a spawned bolt joined on its bolt's core (R35), once the bolt is resident. -/
def State.returnToBolt (s : State) (t : Thread) (core : Nat) (valid : Bool) : Option State :=
  match t.bolt.bind s.bolt? with
  | none => none
  | some b =>
    if b.core ≠ core ∨ b.bstate ≠ .resident ∨ b.evicting then none
    else
      let u := t.received valid
      (s.joinPlace b u).map fun p => p.1.joinWeft u core p.2.1 p.2.2

/-- SHUTTLE_ARRIVAL (R35, R36, R172, R175): a thread in transit reaches a core that takes it. -/
def tryShuttleArrival (tid core : Nat) (valid : Bool) (s : State) : Option State :=
  match s.thread? tid with
  | none => none
  | some t =>
    if s.latencyTakes t core then some (s.arriveLatency t core valid)
    else if !t.weftBound || !s.takesThreads core then none
    else if t.spawned then s.returnToBolt t core valid
    else if !t.poolBound core then none
    else
      match s.packPlace t core with
      | some slot => some (s.joinWeft (t.received valid) core slot t.lane)
      | none => if (s.wcore core).pool.length < 64 then some (s.enterPool (t.received valid) core) else none

/-- SHUTTLE_ARRIVAL. -/
def execShuttleArrival (tid core : Nat) (valid : Bool) (s : State) : Result :=
  .next ((tryShuttleArrival tid core valid s).getD s)

/-! ### Dispatch on a latency core -/

/-- A thread as it stands when a signal takes it from an instruction that waits (R392): the instruction has had no
effect, unless its effect cannot be taken back (R395); at a barrier its arrival stands, and it keeps the registers of its own carry mask only. -/
def Thread.interrupted (t : Thread) : Thread :=
  match t.sub with
  | .mwait => { t with sub := .active, wait := .none }
  | .barrier _ => { t.carryOnly t.carry with sub := .active, retPoint := t.pc }
  | _ => { t with wait := t.wait.kept }

/-- The state with a thread that begins to run on a latency core in the handler that its arrival asks for (R169,
R175, R393), or at its pc; it runs there whatever it waited in before. A machine check comes after an instruction that has
had its effect already (R395). -/
def State.startRun (s : State) (core : Nat) (t : Thread) : State :=
  let t' := { t.interrupted with entry := none, sub := .active }
  match t.entry with
  | some (code, v) =>
    if t.begun then s
    else enterHandler s core t' ⟨if code = 14 then .sysc else .mchk, BitVec.ofNat 64 v.toNat, false⟩ t.pc
  | none =>
    if t.sub = .faultParked then
      let u := s.readTrapBlock { t with entry := none }
      enterVector s core { u with sub := .active, trappc := u.retPoint } (bitsAt u.trapcause.toNat 0 8 == 18)
    else s

/-- The state with a thread that waits for the scheduler of a latency core running there, if the core is free. -/
def State.dispatch (s : State) (core tid : Nat) : State :=
  let l := s.lcore core
  if l.cur.isSome || l.halted || !l.run.contains tid then s
  else
    match s.thread? tid with
    | none => s
    | some t =>
      ((s.dropCode core).putL core { l with cur := some tid, run := l.run.filter fun x => x != tid }).startRun core t

/-! ### Resume words -/

/-- A resume word (R388): its die's core, its slot, action, epoch and mask, when it is valid. -/
structure ResumeWord where
  core : Nat
  slot : Nat
  action : Nat
  mask : Nat
  deriving DecidableEq, Repr

/-- The resume word that a word spells on a die; none if it is discarded (R389). -/
def State.resumeOf (s : State) (die : Nat) (w : Word) : Option ResumeWord :=
  let v := w.toNat
  let core := bitsAt v 56 8
  let slot := bitsAt v 50 6
  let epoch := (tabGet (s.wcore core).epochs slot).getD 0
  if isWeft core ∧ dieOf core = die ∧ slot < 48 ∧ bitsAt v 40 8 = 0 ∧ bitsAt v 48 2 ≠ 3 ∧ bitsAt v 32 8 = epoch then
    some ⟨core, slot, bitsAt v 48 2, bitsAt v 0 32⟩
  else none

/-- The fault-parked lanes that a resume word selects, each with its thread. -/
def State.selected (s : State) (r : ResumeWord) : List Thread :=
  (List.range 32).filterMap fun l => if bitAt r.mask l then s.parkedAt r.core r.slot l else none

/-- The state with a fault-parked lane active again (R29, R166), unless it owes a machine check from its arrival
(R201). -/
def State.resumeLane (s : State) (r : ResumeWord) (t : Thread) : State :=
  (s.modWeft r.core r.slot fun w => { w with waitQ := w.waitQ.filter fun q => q.leader != t.tid }).goOn
    { t with sub := .active, age := 0 }

/-- The state with a fault-parked thread ended (R389, action 2); one in no spawn leaves its core, which counts (R237). -/
def State.terminateLane (s : State) (t : Thread) : State :=
  match s.thread? t.tid with
  | some t => if t.spawned then s.exitOf t else ((s.released t.tid).endThread t).processEnd t.pid
  | none => s

/-- The head of a die's resume queue popped, as an acquire of the core that it names, and what it does if it is valid and
of one of the actions given; the pop waits behind requests that wait at the queue (R335). -/
def State.popResume (s : State) (die : Nat) (act : ResumeWord → Option (State → State)) (discard : Bool) : Option State :=
  let q := s.resumeQueue die
  match (s.queue q).words with
  | [] => none
  | w :: _ =>
    if !s.freeFor q true then none else
    let k := s.takeWords (.base q) [0]
    match s.resumeOf die w.1 with
    | none => if discard then some k else none
    | some r => (act r).map fun g => g (k.takeView r.core k.viewCeil)

/-- RESUME (R389, action 0), which also discards words that are not valid. -/
def tryResume (die : Nat) (s : State) : Option State :=
  s.popResume die
    (fun r => if r.action = 0 then some fun k => (s.selected r).foldl (fun k t => k.resumeLane r t) k else none) true

/-- EXTRACT (R389, action 1). -/
def tryExtract (die : Nat) (s : State) : Option State :=
  s.popResume die
    (fun r => if r.action = 1 then
        some fun k => (s.selected r).foldl (fun k t => k.extractParked r.core r.slot t.lane) k
      else none) false

/-- TERMINATE (R389, action 2): it waits until the accesses of the threads that exit have been performed (R339). -/
def tryTerminate (die : Nat) (s : State) : Option State :=
  s.popResume die
    (fun r => if r.action = 2 ∧ (s.selected r).all (fun t => s.performed t.tid) then
        some fun k => (s.selected r).foldl State.terminateLane k
      else none) false

/-- RESUME. -/
def execResume (die : Nat) (s : State) : Result := .next ((tryResume die s).getD s)
/-- EXTRACT. -/
def execExtract (die : Nat) (s : State) : Result := .next ((tryExtract die s).getD s)
/-- TERMINATE. -/
def execTerminate (die : Nat) (s : State) : Result := .next ((tryTerminate die s).getD s)

/-! ### Signals -/

/-- The number of a signal word (R391). -/
def signalNum (w : Word) : Nat := bitsAt w.toNat 0 6

/-- Whether a thread's mask does not block a word (R96, R392). -/
def Thread.unblocked (t : Thread) (w : Word) : Bool := !t.sigmask.getLsbD (signalNum w)

/-- The oldest takeable word of a thread, with its index (R392). -/
def Thread.takeable (t : Thread) : Option (Nat × Word) :=
  if t.plvl ≠ .user then none
  else
    (List.range t.inbox.length).findSome? fun i => match t.inbox[i]? with
      | some w => if t.unblocked w then some (i, w) else none
      | none => none

/-- Whether a thread waits in an instruction that takes no signal until it completes (R392). -/
def Thread.deaf (t : Thread) : Bool :=
  match t.wait with
  | .submitted => true
  | .accepted _ => true
  | .nbar _ _ => true
  | .earlier => true
  | .arriving _ _ _ => true
  | .wfi _ _ _ => true
  | .wfiPort _ _ => true
  | _ => false

/-- SIGNAL_TAKE (R392): the running thread of a latency core takes its oldest takeable word, once its earlier
instructions have completed (R385). -/
def trySignalTake (core : Nat) (s : State) : Option State :=
  if (s.lcore core).halted then none
  else
    match (s.lcore core).cur.bind s.thread? with
    | none => none
    | some t =>
      match t.takeable with
      | none => none
      | some (i, w) =>
        if t.deaf || !s.loadsDone t.tid then none
        else
          let t := { t.interrupted with inbox := dropAt [i] 0 t.inbox }
          some (enterHandler s core t ⟨.signal, w, false⟩ t.pc)

/-- SIGNAL_TAKE. -/
def execSignalTake (core : Nat) (s : State) : Result := .next ((trySignalTake core s).getD s)

/-- The sub-state in which a lane that a signal extracts travels (R43, R175). -/
def Thread.travelSub (t : Thread) : Sub :=
  match t.sub with
  | .faultParked => .faultParked
  | .barrier k => .barrier k
  | _ => .active

/-- Whether the bolt of a thread is being evicted. -/
def State.evicting (s : State) (t : Thread) : Bool := ((t.bolt.bind s.bolt?).map Bolt.evicting).getD false

/-- Whether a thread of a weft is to leave for a latency core because of a signal (R393). -/
def State.called (s : State) (t : Thread) : Bool :=
  t.sub != .extractParked && t.takeable.isSome && !t.deaf && !s.evicting t

/-- A lane that a signal takes from its weft (R34, R393). -/
def Thread.called (t : Thread) : Thread :=
  { parkExtract { t with wait := .none } (.latency none) t.travelSub with xr := true }

/-- The state with the lanes of a weft that a signal takes extraction-parked, before any of them issues (R178, R393). -/
def State.callLanes (s : State) (w : Weft) : State :=
  ((s.memberThreads w).filter s.called).foldl (fun s t => s.putThread t.called) s

/-- SIGNAL_EXTRACTION (R393): a member with a takeable signal is to leave for a latency core. -/
def trySignalExtraction (core slot lane : Nat) (s : State) : Option State :=
  match ((s.weft? core slot).bind fun w => (w.lanes.toList[lane]?).getD none).bind s.thread? with
  | none => none
  | some t =>
    if s.called t then some (s.putThread t.called) else none

/-- SIGNAL_EXTRACTION. -/
def execSignalExtraction (core slot lane : Nat) (s : State) : Result :=
  .next ((trySignalExtraction core slot lane s).getD s)

/-- SIGMASK_WRITE (R111): the supervisor's or the thread's own write of sigmask. -/
def execSigmaskWrite (tid : Nat) (v : Word) (s : State) : Result :=
  .next (s.modThread tid fun t => { t with sigmask := v &&& ~~~1#64 })

end Sys2Proof.Machine
end

