-- ==== Sys2Proof/Machine/Events.lean ====
section
/-! DEFINITION. The steps that complete what instructions began, as constructors of Instr: each acts when it is due, and
changes nothing otherwise. -/

namespace Sys2Proof.Machine

/-- LOAD_COMPLETION (R88). -/
def execLoadCompletion (id : Nat) (s : State) : Result := .next ((tryLoadCompletion id s).getD s)

/-- LOAD_FAULT (R218). -/
def execLoadFault (id : Nat) (s : State) : Result := .next ((tryLoadFault id s).getD s)

/-- PAGE_WALK (R205, R207): a walk that finds a device register without behaviour for its load goes no further. -/
def execPageWalk (id : Nat) (s : State) : Result :=
  match walkDevice s id with
  | some pa => .refused (.deviceRegister pa)
  | none => .next ((tryPageWalk id s).getD s)

/-- HR (R249). -/
def execHr (id : Nat) (s : State) : Result := .next ((tryHr id s).getD s)

/-- GETS (R249). -/
def execGets (agent line : Nat) (s : State) : Result := .next ((tryGets agent line s).getD s)

/-- GETM (R249). -/
def execGetm (agent line : Nat) (mask : BitVec 128) (s : State) : Result := .next ((tryGetm agent line mask s).getD s)

/-- WT (R249). -/
def execWt (tid : Nat) (s : State) : Result := .next ((tryWt tid s).getD s)

/-- MWAIT_TIMEOUT (R261). -/
def execMwaitTimeout (tid : Nat) (s : State) : Result := .next ((tryMwaitTimeout tid s).getD s)

/-- BARRIER_ARRIVAL (R32). -/
def execBarrierArrival (tid : Nat) (s : State) : Result := .next ((tryBarrierArrival tid s).getD s)

/-- RELEASE_WAVE (R326). -/
def execReleaseWave (core bolt : Nat) (s : State) : Result := .next ((tryReleaseWave core bolt s).getD s)

/-- BLOCK_ALLOTMENT (R33). -/
def execBlockAllotment (core : Nat) (s : State) : Result := .next ((tryBlockAllotment core s).getD s)

/-- RECLAIM (R33). -/
def execReclaim (core : Nat) (s : State) : Result := .next ((tryReclaim core s).getD s)

/-- PWAIT_EXPIRY (R23). -/
def execPwaitExpiry (core : Nat) (s : State) : Result := .next ((tryPwaitExpiry core s).getD s)

/-- POOL_ENTRY (R22). -/
def execPoolEntry (tid core : Nat) (s : State) : Result := .next ((tryPoolEntry tid core s).getD s)

/-- LANE_EXTRACTION (R34). -/
def execLaneExtraction (core slot lane : Nat) (s : State) : Result := .next ((tryLaneExtraction core slot lane s).getD s)

/-- FAULT_REPORT (R387). -/
def execFaultReport (core slot lane : Nat) (s : State) : Result := .next ((tryFaultReport core slot lane s).getD s)

end Sys2Proof.Machine
end

