-- ==== Sys2Proof/Machine/FloatOps.lean ====
section
/-! DEFINITION. The float group (R133 to R143). -/

namespace Sys2Proof.Machine

/-- An operation of two operands (R133). -/
def float2 (fm : FFmt) (op : FFmt → RMode → FVal → FVal → FRes) (f : Fields) (s : State) : Result :=
  issueFloat rFloat2 f (fun l => op fm (l.thread.rmode f) (fm.val l.a) (fm.val l.b)) s

/-- FADD.d (R133). -/
def execFaddD (f : Fields) (s : State) : Result := float2 fp64 FFmt.add f s
/-- FADD.s (R133). -/
def execFaddS (f : Fields) (s : State) : Result := float2 fp32 FFmt.add f s

/-- a − b (R133): a NaN operand keeps its kind. -/
def FFmt.sub (f : FFmt) (mode : RMode) (a b : FVal) : FRes := f.add mode a b.flip

/-- FSUB.d (R133). -/
def execFsubD (f : Fields) (s : State) : Result := float2 fp64 FFmt.sub f s
/-- FSUB.s (R133). -/
def execFsubS (f : Fields) (s : State) : Result := float2 fp32 FFmt.sub f s
/-- FMUL.d (R133). -/
def execFmulD (f : Fields) (s : State) : Result := float2 fp64 FFmt.mul f s
/-- FMUL.s (R133). -/
def execFmulS (f : Fields) (s : State) : Result := float2 fp32 FFmt.mul f s

/-- FFMA in a format (R133). -/
def ffma (fm : FFmt) (f : Fields) (s : State) : Result :=
  issueFloat rFfma f (fun l => fm.fma (l.thread.rmode f) (fm.val l.a) (fm.val l.b) (fm.val l.c)) s

/-- FFMA.d (R133). -/
def execFfmaD (f : Fields) (s : State) : Result := ffma fp64 f s
/-- FFMA.s (R133). -/
def execFfmaS (f : Fields) (s : State) : Result := ffma fp32 f s
/-- FDIV.d (R133). -/
def execFdivD (f : Fields) (s : State) : Result := float2 fp64 FFmt.div f s
/-- FDIV.s (R133). -/
def execFdivS (f : Fields) (s : State) : Result := float2 fp32 FFmt.div f s

/-- An operation of one operand (R133, R141). -/
def float1 (fm : FFmt) (op : FFmt → RMode → FVal → FRes) (f : Fields) (s : State) : Result :=
  issueFloat rFloat1 f (fun l => op fm (l.thread.rmode f) (fm.val l.a)) s

/-- FSQRT.d (R133). -/
def execFsqrtD (f : Fields) (s : State) : Result := float1 fp64 FFmt.sqrt f s
/-- FSQRT.s (R133). -/
def execFsqrtS (f : Fields) (s : State) : Result := float1 fp32 FFmt.sqrt f s

/-- Whether a orders below b, −0 below +0 (R134). -/
def FVal.below (a b : FVal) : Bool :=
  match a.rel b with
  | .lt => true
  | .eq => a.neg && !b.neg
  | _ => false

/-- FMIN and FMAX (R134): the result keeps an operand's bits. -/
def minMax (fm : FFmt) (least : Bool) (a b : Word) : FRes :=
  let x := a.toNat % 2 ^ fm.width
  let y := b.toNat % 2 ^ fm.width
  let u := fm.val a
  let v := fm.val b
  let res :=
    if u.isNan && v.isNan then fm.nan
    else if u.isNan then y
    else if v.isNan then x
    else if least then if v.below u then y else x
    else if u.below v then y else x
  (res, sigX [u, v])

/-- FMIN.d (R134). -/
def execFminD (f : Fields) (s : State) : Result := issueFloat rFmin f (fun l => minMax fp64 true l.a l.b) s
/-- FMIN.s (R134). -/
def execFminS (f : Fields) (s : State) : Result := issueFloat rFmin f (fun l => minMax fp32 true l.a l.b) s
/-- FMAX.d (R134). -/
def execFmaxD (f : Fields) (s : State) : Result := issueFloat rFmin f (fun l => minMax fp64 false l.a l.b) s
/-- FMAX.s (R134). -/
def execFmaxS (f : Fields) (s : State) : Result := issueFloat rFmin f (fun l => minMax fp32 false l.a l.b) s

/-- FCMP in a format (R135). -/
def fcmp (fm : FFmt) (f : Fields) (s : State) : Result :=
  issueFloat rFcmp f
    (fun l =>
      let u := fm.val l.a
      let v := fm.val l.b
      let quiet := 3 ≤ f.cond && f.cond ≤ 6
      ((if condFloat f.cond (u.rel v) then 1 else 0),
        if f.cond = 0 then 0 else if u.isSig || v.isSig || (quiet && (u.isNan || v.isNan)) then xNV else 0)) s

/-- FCMP.d (R135). -/
def execFcmpD (f : Fields) (s : State) : Result := fcmp fp64 f s
/-- FCMP.s (R135). -/
def execFcmpS (f : Fields) (s : State) : Result := fcmp fp32 f s

/-- The class bit of a pattern (R136). -/
def fclass (fm : FFmt) (v : Word) : Nat :=
  match fm.val v with
  | .nan s => if s then 8 else 9
  | .inf n => if n then 0 else 7
  | .fin n m _ =>
    if m = 0 then if n then 3 else 4
    else if m < 2 ^ fm.fb then if n then 2 else 5
    else if n then 1 else 6

/-- FCLASS (R136). -/
def execFclass (f : Fields) (s : State) : Result :=
  issueValue rFclass f (fun l => BitVec.ofNat 64 (2 ^ fclass (fmtOf (f.mod.toNat / 16 % 4)) l.a)) s

/-- The sign that FSGN gives (R137). -/
def newSign (code : Nat) (sa sb : Bool) : Bool := if code = 0 then sb else if code = 1 then !sb else sa != sb

/-- FSGN (R137). -/
def execFsgn (f : Fields) (s : State) : Result :=
  issueValue rFsgn f
    (fun l =>
      let fm := fmtOf (f.mod.toNat / 16 % 4)
      let top := fm.eb + fm.fb
      BitVec.ofNat 64 (fm.signed (newSign (f.mod.toNat / 64) (bitAt l.a.toNat top) (bitAt l.b.toNat top))
        (bitsAt l.a.toNat 0 top))) s

/-- FCVT to a format (R138). -/
def fcvt (code : Nat) (f : Fields) (s : State) : Result :=
  issueFloat (rFcvt code) f
    (fun l => (fmtOf code).convert (l.thread.rmode f) ((fmtOf (f.mod.toNat / 16 % 4)).val l.a)) s

/-- FCVT.d (R138). -/
def execFcvtD (f : Fields) (s : State) : Result := fcvt 0 f s
/-- FCVT.s (R138). -/
def execFcvtS (f : Fields) (s : State) : Result := fcvt 1 f s
/-- FCVT.h (R138). -/
def execFcvtH (f : Fields) (s : State) : Result := fcvt 2 f s
/-- FCVT.bf (R138). -/
def execFcvtBf (f : Fields) (s : State) : Result := fcvt 3 f s

/-- The bounds of the integer that FCVTI makes (R139). -/
def cvtBounds (unsigned w : Bool) : Int × Int :=
  match unsigned, w with
  | false, false => (-(2 ^ 63), 2 ^ 63 - 1)
  | true, false => (0, 2 ^ 64 - 1)
  | false, true => (-(2 ^ 31), 2 ^ 31 - 1)
  | true, true => (0, 2 ^ 32 - 1)

/-- FCVTI and FCVTIU from a format (R139). -/
def fcvti (fm : FFmt) (unsigned : Bool) (f : Fields) (s : State) : Result :=
  issuePlain rFcvti f
    (fun s l =>
      let b := cvtBounds unsigned f.fw
      let r := toInteger (l.thread.rmode f) b.1 b.2 (fm.val l.a)
      flagged s l (res f.fw r.1) r.2) s

/-- FCVTI.d (R139). -/
def execFcvtiD (f : Fields) (s : State) : Result := fcvti fp64 false f s
/-- FCVTI.s (R139). -/
def execFcvtiS (f : Fields) (s : State) : Result := fcvti fp32 false f s
/-- FCVTIU.d (R139). -/
def execFcvtiuD (f : Fields) (s : State) : Result := fcvti fp64 true f s
/-- FCVTIU.s (R139). -/
def execFcvtiuS (f : Fields) (s : State) : Result := fcvti fp32 true f s

/-- ICVTF and ICVTFU to a format (R140). -/
def icvtf (fm : FFmt) (unsigned : Bool) (f : Fields) (s : State) : Result :=
  issueFloat rFcvti f
    (fun l => fm.roundDy (l.thread.rmode f) false ⟨if unsigned then uval f.fw l.a else sval f.fw l.a, 0⟩) s

/-- ICVTF.d (R140). -/
def execIcvtfD (f : Fields) (s : State) : Result := icvtf fp64 false f s
/-- ICVTF.s (R140). -/
def execIcvtfS (f : Fields) (s : State) : Result := icvtf fp32 false f s
/-- ICVTFU.d (R140). -/
def execIcvtfuD (f : Fields) (s : State) : Result := icvtf fp64 true f s
/-- ICVTFU.s (R140). -/
def execIcvtfuS (f : Fields) (s : State) : Result := icvtf fp32 true f s

/-- FRND.d (R141). -/
def execFrndD (f : Fields) (s : State) : Result := float1 fp64 FFmt.integral f s
/-- FRND.s (R141). -/
def execFrndS (f : Fields) (s : State) : Result := float1 fp32 FFmt.integral f s

/-- An approximate function of an FP32 value (R142). -/
def approx1 (op : Nat → FRes) (f : Fields) (s : State) : Result :=
  issueFloat rMov f (fun l => op (l.a.toNat % 2 ^ 32)) s

/-- FRCP (R142). -/
def execFrcp (f : Fields) (s : State) : Result := approx1 rcp f s
/-- FRSQ (R142). -/
def execFrsq (f : Fields) (s : State) : Result := approx1 rsq f s
/-- FEXP2 (R142). -/
def execFexp2 (f : Fields) (s : State) : Result := approx1 exp2 f s
/-- FLOG2 (R142). -/
def execFlog2 (f : Fields) (s : State) : Result := approx1 log2 f s
/-- FSIN (R142). -/
def execFsin (f : Fields) (s : State) : Result := approx1 (trig .sin fun n => fp32.signed n 0) f s
/-- FCOS (R142). -/
def execFcos (f : Fields) (s : State) : Result := approx1 (trig .cos fun _ => 0x3F800000) f s

end Sys2Proof.Machine
end

