-- ==== Sys2Proof/Machine/Integer.lean ====
section
/-! DEFINITION. The integer instructions (R98 to R107). -/

namespace Sys2Proof.Machine

/-- An issue whose result is a function of the operands a and b and of .w. -/
def issueBin (r : OpRule) (f : Fields) (v : Bool → Word → Word → Word) (s : State) : Result :=
  issueValue r f (fun l => v f.w l.a (l.opB r f)) s

/-- Quotient of R100, signed, with its borderline cases. -/
def divSigned (a b : Int) : Int := if b = 0 then -1 else a.tdiv b

/-- Remainder of R100, signed. -/
def remSigned (a b : Int) : Int := if b = 0 then a else a.tmod b

/-- The width of an operation (R98). -/
def opBits (w : Bool) : Nat := if w then 32 else 64

/-- Shifts and rotates of R102 on an n-bit operand x by k. -/
def rotl (n x k : Nat) : Nat := if k = 0 then x else (x * 2 ^ k + x / 2 ^ (n - k)) % 2 ^ n

/-- Number of zero bits above the highest set bit (R103). -/
def clzN (n x : Nat) : Nat := if x = 0 then n else n - 1 - x.log2

/-- Number of zero bits below the lowest set bit (R103). -/
def ctzN (n x : Nat) : Nat := if x = 0 then n else (x ^^^ (x &&& (x - 1))).log2

/-- Number of set bits among the low n (R103). -/
def popcN (n x : Nat) : Nat := ((List.range n).filter fun i => bitAt x i).length

/-- The low n bits in reverse order (R103). -/
def brevN (n x : Nat) : Nat := (List.range n).foldl (fun r i => 2 * r + bitsAt x i 1) 0

/-- The low n bits with their bytes in reverse order (R103). -/
def bswapN (n x : Nat) : Nat := leNat (leBytes (n / 8) x).reverse

/-- ADD (R99). -/
def execAdd (f : Fields) (s : State) : Result :=
  issueBin rAlu f (fun w a b => res w (sval w a + sval w b)) s

/-- SUB (R99). -/
def execSub (f : Fields) (s : State) : Result :=
  issueBin rAlu f (fun w a b => res w (sval w a - sval w b)) s

/-- ADDI (R99). -/
def execAddi (f : Fields) (s : State) : Result :=
  issueValue rAddi f (fun l => res f.w (sval f.w l.a + f.simm)) s

/-- LI (R99). -/
def execLi (f : Fields) (s : State) : Result := issueValue rLi f (fun _ => wordOfInt f.simm) s

/-- LIH (R99). -/
def execLih (f : Fields) (s : State) : Result :=
  issueValue rLih f (fun l => BitVec.ofNat 64 (f.imm.toNat * 2 ^ 32 + l.a.toNat % 2 ^ 32)) s

/-- ADDPC (R99). -/
def execAddpc (f : Fields) (s : State) : Result :=
  issueValue rLi f (fun l => l.thread.pc + wordOfInt f.simm) s

/-- MUL (R100). -/
def execMul (f : Fields) (s : State) : Result :=
  issueBin rAlu f (fun w a b => res w (sval w a * sval w b)) s

/-- MULH (R100). -/
def execMulh (f : Fields) (s : State) : Result :=
  issueBin rAlu f (fun w a b => res w (sval w a * sval w b / 2 ^ opBits w)) s

/-- MULHU (R100). -/
def execMulhu (f : Fields) (s : State) : Result :=
  issueBin rAlu f (fun w a b => res w (uval w a * uval w b / 2 ^ opBits w : Nat)) s

/-- MULHSU (R100). -/
def execMulhsu (f : Fields) (s : State) : Result :=
  issueBin rAlu f (fun w a b => res w (sval w a * (uval w b : Nat) / 2 ^ opBits w)) s

/-- DIV (R100). -/
def execDiv (f : Fields) (s : State) : Result :=
  issueBin rAlu f (fun w a b => res w (divSigned (sval w a) (sval w b))) s

/-- DIVU (R100): division by zero gives all ones. -/
def execDivu (f : Fields) (s : State) : Result :=
  issueBin rAlu f (fun w a b => res w (if uval w b = 0 then -1 else (uval w a / uval w b : Nat))) s

/-- REM (R100). -/
def execRem (f : Fields) (s : State) : Result :=
  issueBin rAlu f (fun w a b => res w (remSigned (sval w a) (sval w b))) s

/-- REMU (R100). -/
def execRemu (f : Fields) (s : State) : Result :=
  issueBin rAlu f (fun w a b => res w (uval w a % uval w b : Nat)) s

/-- AND (R101). -/
def execAnd (f : Fields) (s : State) : Result := issueBin rLogic f (fun _ a b => a &&& b) s

/-- OR (R101). -/
def execOr (f : Fields) (s : State) : Result := issueBin rLogic f (fun _ a b => a ||| b) s

/-- XOR (R101). -/
def execXor (f : Fields) (s : State) : Result := issueBin rLogic f (fun _ a b => a ^^^ b) s

/-- ANDN (R101). -/
def execAndn (f : Fields) (s : State) : Result := issueBin rLogic f (fun _ a b => a &&& ~~~b) s

/-- ORN (R101). -/
def execOrn (f : Fields) (s : State) : Result := issueBin rLogic f (fun _ a b => a ||| ~~~b) s

/-- XNOR (R101). -/
def execXnor (f : Fields) (s : State) : Result := issueBin rLogic f (fun _ a b => ~~~(a ^^^ b)) s

/-- The count of a shift (R102). -/
def shiftCount (w : Bool) (b : Word) : Nat := b.toNat % opBits w

/-- SHL (R102). -/
def execShl (f : Fields) (s : State) : Result :=
  issueBin rShift f (fun w a b => res w (uval w a * 2 ^ shiftCount w b : Nat)) s

/-- SHR (R102). -/
def execShr (f : Fields) (s : State) : Result :=
  issueBin rShift f (fun w a b => res w (uval w a / 2 ^ shiftCount w b : Nat)) s

/-- SRA (R102). -/
def execSra (f : Fields) (s : State) : Result :=
  issueBin rShift f (fun w a b => res w (sval w a / 2 ^ shiftCount w b)) s

/-- ROL (R102). -/
def execRol (f : Fields) (s : State) : Result :=
  issueBin rShift f (fun w a b => res w (rotl (opBits w) (uval w a) (shiftCount w b))) s

/-- ROR (R102): a rotate right by k is a rotate left by n - k. -/
def execRor (f : Fields) (s : State) : Result :=
  issueBin rShift f
    (fun w a b => res w (rotl (opBits w) (uval w a) ((opBits w - shiftCount w b) % opBits w))) s

/-- CLZ (R103). -/
def execClz (f : Fields) (s : State) : Result :=
  issueValue rUnary f (fun l => res f.w (clzN (opBits f.w) (uval f.w l.a))) s

/-- CTZ (R103). -/
def execCtz (f : Fields) (s : State) : Result :=
  issueValue rUnary f (fun l => res f.w (ctzN (opBits f.w) (uval f.w l.a))) s

/-- POPC (R103). -/
def execPopc (f : Fields) (s : State) : Result :=
  issueValue rUnary f (fun l => res f.w (popcN (opBits f.w) (uval f.w l.a))) s

/-- BREV (R103). -/
def execBrev (f : Fields) (s : State) : Result :=
  issueValue rUnary f (fun l => res f.w (brevN (opBits f.w) (uval f.w l.a))) s

/-- BSWAP (R103). -/
def execBswap (f : Fields) (s : State) : Result :=
  issueValue rUnary f (fun l => res f.w (bswapN (opBits f.w) (uval f.w l.a))) s

/-- The position of a bit field (R104). -/
def fieldPos (r : OpRule) (f : Fields) (l : Lane) : Nat :=
  if immForS2 r f then f.imm.toNat % 64 else l.b.toNat % 64

/-- The width of a bit field, clipped at bit 63 (R104). -/
def fieldWidth (r : OpRule) (f : Fields) (l : Lane) : Nat :=
  min (if immForS2 r f then f.imm.toNat / 64 % 128 else l.c.toNat % 128) (64 - fieldPos r f l)

/-- BFX (R104). -/
def execBfx (f : Fields) (s : State) : Result :=
  issueValue rBfx f
    (fun l =>
      let w := fieldWidth rBfx f l
      if w = 0 then 0 else wordOfInt (sextN (bitsAt l.a.toNat (fieldPos rBfx f l) w) w)) s

/-- BFXU (R104). -/
def execBfxu (f : Fields) (s : State) : Result :=
  issueValue rBfx f
    (fun l => BitVec.ofNat 64 (bitsAt l.a.toNat (fieldPos rBfx f l) (fieldWidth rBfx f l))) s

/-- A base word with w bits at p replaced by the low bits of a (R104). -/
def insertField (base a : Nat) (p w : Nat) : Nat :=
  base - bitsAt base p w * 2 ^ p + a % 2 ^ w * 2 ^ p

/-- BFI (R104): it reads its base from rd. -/
def execBfi (f : Fields) (s : State) : Result :=
  issuePlain rBfi f
    (fun s l =>
      let base := l.thread.reg f.rd
      if base.poison then .trap (Trap.plain .poison f.rd) false
      else
        .value s (BitVec.ofNat 64
          (insertField base.val.toNat l.a.toNat (fieldPos rBfi f l) (fieldWidth rBfi f l)))) s

/-- MIN (R105). -/
def execMin (f : Fields) (s : State) : Result :=
  issueBin rAlu f (fun w a b => res w (min (sval w a) (sval w b))) s

/-- MAX (R105). -/
def execMax (f : Fields) (s : State) : Result :=
  issueBin rAlu f (fun w a b => res w (max (sval w a) (sval w b))) s

/-- MINU (R105). -/
def execMinu (f : Fields) (s : State) : Result :=
  issueBin rAlu f (fun w a b => res w (min (uval w a) (uval w b) : Nat)) s

/-- MAXU (R105). -/
def execMaxu (f : Fields) (s : State) : Result :=
  issueBin rAlu f (fun w a b => res w (max (uval w a) (uval w b) : Nat)) s

/-- ABS (R105). -/
def execAbs (f : Fields) (s : State) : Result :=
  issueValue rUnary f (fun l => res f.w (sval f.w l.a).natAbs) s

/-- SEL (R105). -/
def execSel (f : Fields) (s : State) : Result :=
  issueValue rSel f (fun l => if l.c ≠ 0 then l.a else l.b) s

/-- CMP (R106). -/
def execCmp (f : Fields) (s : State) : Result :=
  issueValue rCmp f (fun l => wordOfBool (condWords f.cond f.w l.a l.b)) s

/-- CMPI (R106): its immediate is sign-extended before any comparison. -/
def execCmpi (f : Fields) (s : State) : Result :=
  issueValue rCmpi f (fun l => wordOfBool (condWords f.cond f.w l.a (wordOfInt f.simm))) s

/-- MOV (R107). -/
def execMov (f : Fields) (s : State) : Result := issueValue rMov f (fun l => l.a) s

/-- SEXT.b (R107). -/
def execSextB (f : Fields) (s : State) : Result := issueValue rMov f (fun l => wordOfInt (sextN l.a.toNat 8)) s

/-- SEXT.h (R107). -/
def execSextH (f : Fields) (s : State) : Result := issueValue rMov f (fun l => wordOfInt (sextN l.a.toNat 16)) s

/-- SEXT.w (R107). -/
def execSextW (f : Fields) (s : State) : Result := issueValue rMov f (fun l => wordOfInt (sextN l.a.toNat 32)) s

/-- ZEXT.b (R107). -/
def execZextB (f : Fields) (s : State) : Result :=
  issueValue rMov f (fun l => BitVec.ofNat 64 (l.a.toNat % 2 ^ 8)) s

/-- ZEXT.h (R107). -/
def execZextH (f : Fields) (s : State) : Result :=
  issueValue rMov f (fun l => BitVec.ofNat 64 (l.a.toNat % 2 ^ 16)) s

/-- ZEXT.w (R107). -/
def execZextW (f : Fields) (s : State) : Result :=
  issueValue rMov f (fun l => BitVec.ofNat 64 (l.a.toNat % 2 ^ 32)) s

end Sys2Proof.Machine
end

