-- ==== Sys2Proof/WellFormed.lean ====
section
/-! DEFINITION. Which terms of Instr the machine has: an instruction whose fields pass R52 in its form,
or a further step whose core, slot, lane, die, queue, slice and sensor numbers exist (R11, R12, R152,
R318, R334). -/

namespace Sys2Proof

open Machine

/-- A weft core number (R12). -/
def isWeftCore (c : Nat) : Bool := c < 144

/-- A latency core number (R12). -/
def isLatency (c : Nat) : Bool := 256 ≤ c && c < 304

/-- A core number (R12). -/
def isCore (c : Nat) : Bool := isWeftCore c || isLatency c

/-- The number of a W-die (R11). -/
def isWDie (d : Nat) : Bool := 2 ≤ d && d < 6

/-- A cause of a fetch fault (R54): PAGE, PROT or POISON. -/
def isFetchCause (c : Nat) : Bool := c == 6 || c == 7 || c == 10

/-- Whether an instruction's fields are an encoding (R52): those of a C form are some compact code's
(R85), and those of another form are not rejected. -/
def fieldsOk (op : Nat) (f : Fields) : Bool :=
  match opRule op with
  | none => false
  | some r => if f.form == .c then (compactOf op f).isSome else (reject? op r f).isNone

/-- Whether the machine has this step. -/
def Instr.wellFormed : Instr → Bool
  | .add f => fieldsOk 0x000 f
  | .sub f => fieldsOk 0x001 f
  | .addi f => fieldsOk 0x002 f
  | .li f => fieldsOk 0x003 f
  | .lih f => fieldsOk 0x004 f
  | .addpc f => fieldsOk 0x005 f
  | .mul f => fieldsOk 0x006 f
  | .mulh f => fieldsOk 0x007 f
  | .mulhu f => fieldsOk 0x008 f
  | .mulhsu f => fieldsOk 0x009 f
  | .div f => fieldsOk 0x00A f
  | .divu f => fieldsOk 0x00B f
  | .rem f => fieldsOk 0x00C f
  | .remu f => fieldsOk 0x00D f
  | .and f => fieldsOk 0x00E f
  | .or f => fieldsOk 0x00F f
  | .xor f => fieldsOk 0x010 f
  | .andn f => fieldsOk 0x011 f
  | .orn f => fieldsOk 0x012 f
  | .xnor f => fieldsOk 0x013 f
  | .shl f => fieldsOk 0x014 f
  | .shr f => fieldsOk 0x015 f
  | .sra f => fieldsOk 0x016 f
  | .rol f => fieldsOk 0x017 f
  | .ror f => fieldsOk 0x018 f
  | .clz f => fieldsOk 0x019 f
  | .ctz f => fieldsOk 0x01A f
  | .popc f => fieldsOk 0x01B f
  | .brev f => fieldsOk 0x01C f
  | .bswap f => fieldsOk 0x01D f
  | .bfx f => fieldsOk 0x01E f
  | .bfxu f => fieldsOk 0x01F f
  | .bfi f => fieldsOk 0x020 f
  | .min f => fieldsOk 0x021 f
  | .max f => fieldsOk 0x022 f
  | .minu f => fieldsOk 0x023 f
  | .maxu f => fieldsOk 0x024 f
  | .abs f => fieldsOk 0x025 f
  | .sel f => fieldsOk 0x026 f
  | .cmp f => fieldsOk 0x027 f
  | .cmpi f => fieldsOk 0x028 f
  | .mov f => fieldsOk 0x029 f
  | .sextB f => fieldsOk 0x02A f
  | .sextH f => fieldsOk 0x02B f
  | .sextW f => fieldsOk 0x02C f
  | .zextB f => fieldsOk 0x02D f
  | .zextH f => fieldsOk 0x02E f
  | .zextW f => fieldsOk 0x02F f
  | .empt f => fieldsOk 0x030 f
  | .fill f => fieldsOk 0x031 f
  | .tstf f => fieldsOk 0x032 f
  | .qbind f => fieldsOk 0x033 f
  | .qunb f => fieldsOk 0x034 f
  | .qstat f => fieldsOk 0x035 f
  | .srd f => fieldsOk 0x036 f
  | .swr f => fieldsOk 0x037 f
  | .faddD f => fieldsOk 0x040 f
  | .faddS f => fieldsOk 0x041 f
  | .fsubD f => fieldsOk 0x042 f
  | .fsubS f => fieldsOk 0x043 f
  | .fmulD f => fieldsOk 0x044 f
  | .fmulS f => fieldsOk 0x045 f
  | .ffmaD f => fieldsOk 0x046 f
  | .ffmaS f => fieldsOk 0x047 f
  | .fdivD f => fieldsOk 0x048 f
  | .fdivS f => fieldsOk 0x049 f
  | .fsqrtD f => fieldsOk 0x04A f
  | .fsqrtS f => fieldsOk 0x04B f
  | .fminD f => fieldsOk 0x04C f
  | .fminS f => fieldsOk 0x04D f
  | .fmaxD f => fieldsOk 0x04E f
  | .fmaxS f => fieldsOk 0x04F f
  | .fcmpD f => fieldsOk 0x050 f
  | .fcmpS f => fieldsOk 0x051 f
  | .fclass f => fieldsOk 0x052 f
  | .fsgn f => fieldsOk 0x053 f
  | .fcvtD f => fieldsOk 0x054 f
  | .fcvtS f => fieldsOk 0x055 f
  | .fcvtH f => fieldsOk 0x056 f
  | .fcvtBf f => fieldsOk 0x057 f
  | .fcvtiD f => fieldsOk 0x058 f
  | .fcvtiS f => fieldsOk 0x059 f
  | .fcvtiuD f => fieldsOk 0x05A f
  | .fcvtiuS f => fieldsOk 0x05B f
  | .icvtfD f => fieldsOk 0x05C f
  | .icvtfS f => fieldsOk 0x05D f
  | .icvtfuD f => fieldsOk 0x05E f
  | .icvtfuS f => fieldsOk 0x05F f
  | .frndD f => fieldsOk 0x060 f
  | .frndS f => fieldsOk 0x061 f
  | .frcp f => fieldsOk 0x062 f
  | .frsq f => fieldsOk 0x063 f
  | .fexp2 f => fieldsOk 0x064 f
  | .flog2 f => fieldsOk 0x065 f
  | .fsin f => fieldsOk 0x066 f
  | .fcos f => fieldsOk 0x067 f
  | .padd f => fieldsOk 0x080 f
  | .paddu f => fieldsOk 0x081 f
  | .psub f => fieldsOk 0x082 f
  | .psubu f => fieldsOk 0x083 f
  | .pmul f => fieldsOk 0x084 f
  | .pmin f => fieldsOk 0x085 f
  | .pminu f => fieldsOk 0x086 f
  | .pmax f => fieldsOk 0x087 f
  | .pmaxu f => fieldsOk 0x088 f
  | .pavg f => fieldsOk 0x089 f
  | .pabs f => fieldsOk 0x08A f
  | .pcmp f => fieldsOk 0x08B f
  | .pshuf f => fieldsOk 0x08C f
  | .ppack f => fieldsOk 0x08D f
  | .punpkl f => fieldsOk 0x08E f
  | .punpkh f => fieldsOk 0x08F f
  | .punpklu f => fieldsOk 0x090 f
  | .punpkhu f => fieldsOk 0x091 f
  | .pdot f => fieldsOk 0x092 f
  | .pdotu f => fieldsOk 0x093 f
  | .pdotfE4 f => fieldsOk 0x094 f
  | .pdotfE5 f => fieldsOk 0x095 f
  | .pdotfF4 f => fieldsOk 0x096 f
  | .pscl f => fieldsOk 0x097 f
  | .br f => fieldsOk 0x0A0 f
  | .brz f => fieldsOk 0x0A1 f
  | .brnz f => fieldsOk 0x0A2 f
  | .jmp f => fieldsOk 0x0A3 f
  | .jal f => fieldsOk 0x0A4 f
  | .jalr f => fieldsOk 0x0A5 f
  | .rejoin f => fieldsOk 0x0A6 f
  | .yld f => fieldsOk 0x0A7 f
  | .waitf f => fieldsOk 0x0A8 f
  | .waitfE f => fieldsOk 0x0A9 f
  | .nop f => fieldsOk 0x0AA f
  | .migL f => fieldsOk 0x0AB f
  | .migW f => fieldsOk 0x0AC f
  | .migC f => fieldsOk 0x0AD f
  | .rgn f => fieldsOk 0x0AE f
  | .sysc f => fieldsOk 0x0AF f
  | .trap f => fieldsOk 0x0B0 f
  | .brk f => fieldsOk 0x0B1 f
  | .eretS f => fieldsOk 0x0B2 f
  | .eretF f => fieldsOk 0x0B3 f
  | .ldsB f => fieldsOk 0x0C0 f
  | .ldsH f => fieldsOk 0x0C1 f
  | .ldsW f => fieldsOk 0x0C2 f
  | .ldsD f => fieldsOk 0x0C3 f
  | .ldsQ f => fieldsOk 0x0C4 f
  | .stsB f => fieldsOk 0x0C5 f
  | .stsH f => fieldsOk 0x0C6 f
  | .stsW f => fieldsOk 0x0C7 f
  | .stsD f => fieldsOk 0x0C8 f
  | .stsQ f => fieldsOk 0x0C9 f
  | .samoAdd f => fieldsOk 0x0CA f
  | .samoMax f => fieldsOk 0x0CB f
  | .samoSwap f => fieldsOk 0x0CC f
  | .scas f => fieldsOk 0x0CD f
  | .ldB f => fieldsOk 0x0E0 f
  | .ldBu f => fieldsOk 0x0E1 f
  | .ldH f => fieldsOk 0x0E2 f
  | .ldHu f => fieldsOk 0x0E3 f
  | .ldW f => fieldsOk 0x0E4 f
  | .ldWu f => fieldsOk 0x0E5 f
  | .ldD f => fieldsOk 0x0E6 f
  | .ldQ f => fieldsOk 0x0E7 f
  | .stB f => fieldsOk 0x0E8 f
  | .stH f => fieldsOk 0x0E9 f
  | .stW f => fieldsOk 0x0EA f
  | .stD f => fieldsOk 0x0EB f
  | .stQ f => fieldsOk 0x0EC f
  | .ldaqW f => fieldsOk 0x0ED f
  | .ldaqD f => fieldsOk 0x0EE f
  | .strlW f => fieldsOk 0x0EF f
  | .strlD f => fieldsOk 0x0F0 f
  | .ldroW f => fieldsOk 0x0F1 f
  | .ldroD f => fieldsOk 0x0F2 f
  | .ldroQ f => fieldsOk 0x0F3 f
  | .roinv f => fieldsOk 0x0F4 f
  | .ldvW f => fieldsOk 0x0F5 f
  | .ldvD f => fieldsOk 0x0F6 f
  | .ldvQ f => fieldsOk 0x0F7 f
  | .stvW f => fieldsOk 0x0F8 f
  | .stvD f => fieldsOk 0x0F9 f
  | .stvQ f => fieldsOk 0x0FA f
  | .prefL2 f => fieldsOk 0x0FB f
  | .prefV f => fieldsOk 0x0FC f
  | .clfl f => fieldsOk 0x0FD f
  | .amoAdd f => fieldsOk 0x110 f
  | .amoAnd f => fieldsOk 0x111 f
  | .amoOr f => fieldsOk 0x112 f
  | .amoXor f => fieldsOk 0x113 f
  | .amoMin f => fieldsOk 0x114 f
  | .amoMax f => fieldsOk 0x115 f
  | .amoMinu f => fieldsOk 0x116 f
  | .amoMaxu f => fieldsOk 0x117 f
  | .amoSwap f => fieldsOk 0x118 f
  | .amoFadd f => fieldsOk 0x119 f
  | .redAdd f => fieldsOk 0x11A f
  | .redAnd f => fieldsOk 0x11B f
  | .redOr f => fieldsOk 0x11C f
  | .redXor f => fieldsOk 0x11D f
  | .redMin f => fieldsOk 0x11E f
  | .redMax f => fieldsOk 0x11F f
  | .redMinu f => fieldsOk 0x120 f
  | .redMaxu f => fieldsOk 0x121 f
  | .redFadd f => fieldsOk 0x122 f
  | .cas f => fieldsOk 0x123 f
  | .fence f => fieldsOk 0x124 f
  | .marm f => fieldsOk 0x125 f
  | .mwait f => fieldsOk 0x126 f
  | .mwaitT f => fieldsOk 0x127 f
  | .tcpy f => fieldsOk 0x130 f
  | .tcst f => fieldsOk 0x131 f
  | .twaitO f => fieldsOk 0x132 f
  | .twaitA f => fieldsOk 0x133 f
  | .thdlB f => fieldsOk 0x134 f
  | .thdlU f => fieldsOk 0x135 f
  | .sioR f => fieldsOk 0x136 f
  | .sioW f => fieldsOk 0x137 f
  | .sioD f => fieldsOk 0x138 f
  | .sflu f => fieldsOk 0x139 f
  | .mmq f => fieldsOk 0x140 f
  | .mmqs f => fieldsOk 0x141 f
  | .mzero f => fieldsOk 0x142 f
  | .mldaF32 f => fieldsOk 0x143 f
  | .mldaBf f => fieldsOk 0x144 f
  | .mstaF32 f => fieldsOk 0x145 f
  | .mstaBf f => fieldsOk 0x146 f
  | .mstaH f => fieldsOk 0x147 f
  | .mstaE4 f => fieldsOk 0x148 f
  | .mstaE5 f => fieldsOk 0x149 f
  | .crookT f => fieldsOk 0x14A f
  | .crookP f => fieldsOk 0x14B f
  | .crookR f => fieldsOk 0x14C f
  | .crookQ f => fieldsOk 0x14D f
  | .merrR f => fieldsOk 0x14E f
  | .merrC f => fieldsOk 0x14F f
  | .bar f => fieldsOk 0x160 f
  | .barSt f => fieldsOk 0x161 f
  | .fbar f => fieldsOk 0x162 f
  | .nbar f => fieldsOk 0x163 f
  | .nbarA f => fieldsOk 0x164 f
  | .nbarW f => fieldsOk 0x165 f
  | .nbinit f => fieldsOk 0x166 f
  | .nbinitC f => fieldsOk 0x167 f
  | .exit f => fieldsOk 0x168 f
  | .exitS f => fieldsOk 0x169 f
  | .spwn f => fieldsOk 0x170 f
  | .rspwn f => fieldsOk 0x171 f
  | .rspwnD f => fieldsOk 0x172 f
  | .trkA f => fieldsOk 0x173 f
  | .trkR f => fieldsOk 0x174 f
  | .trkc f => fieldsOk 0x175 f
  | .trkqS f => fieldsOk 0x176 f
  | .trkqD f => fieldsOk 0x177 f
  | .phs f => fieldsOk 0x180 f
  | .phsx f => fieldsOk 0x181 f
  | .spl f => fieldsOk 0x182 f
  | .pqryP f => fieldsOk 0x183 f
  | .pqryB f => fieldsOk 0x184 f
  | .pqryC f => fieldsOk 0x185 f
  | .sig f => fieldsOk 0x190 f
  | .sigG f => fieldsOk 0x191 f
  | .sigB f => fieldsOk 0x192 f
  | .evctB f => fieldsOk 0x193 f
  | .evctF f => fieldsOk 0x194 f
  | .evctS f => fieldsOk 0x195 f
  | .evctC f => fieldsOk 0x196 f
  | .tlbiVa f => fieldsOk 0x197 f
  | .tlbiVas f => fieldsOk 0x198 f
  | .tlbiAs f => fieldsOk 0x199 f
  | .tlbiAll f => fieldsOk 0x19A f
  | .tlbiL f => fieldsOk 0x19B f
  | .halt f => fieldsOk 0x19C f
  | .haltP f => fieldsOk 0x19D f
  | .wfi f => fieldsOk 0x19E f
  | .wfiT f => fieldsOk 0x19F f
  | .ctxsG f => fieldsOk 0x1A0 f
  | .ctxsS f => fieldsOk 0x1A1 f
  | .ctxsQ f => fieldsOk 0x1A2 f
  | .ctxsM f => fieldsOk 0x1A3 f
  | .ctxsSp f => fieldsOk 0x1A4 f
  | .ctxsH f => fieldsOk 0x1A5 f
  | .ctxsT f => fieldsOk 0x1A6 f
  | .ctxlG f => fieldsOk 0x1A7 f
  | .ctxlS f => fieldsOk 0x1A8 f
  | .ctxlQ f => fieldsOk 0x1A9 f
  | .ctxlM f => fieldsOk 0x1AA f
  | .ctxlSp f => fieldsOk 0x1AB f
  | .ctxlH f => fieldsOk 0x1AC f
  | .ctxlT f => fieldsOk 0x1AD f
  | .stallYield core slot => isWeftCore core && slot < 48
  | .overrideLimit core slot => isWeftCore core && slot < 48
  | .loadCompletion _ => true
  | .loadFault _ => true
  | .faultReport core slot lane => isWeftCore core && slot < 48 && lane < 32
  | .resume die => isWDie die
  | .extract die => isWDie die
  | .terminate die => isWDie die
  | .laneExtraction core slot lane => isWeftCore core && slot < 48 && lane < 32
  | .shuttleArrival _ core _ => isCore core
  | .poolEntry _ core => isWeftCore core
  | .pwaitExpiry core => isWeftCore core
  | .barrierArrival _ => true
  | .releaseWave core _ => isWeftCore core
  | .blockAllotment core => isWeftCore core
  | .reclaim core => isWeftCore core
  | .signalTake core => isLatency core
  | .signalExtraction core slot lane => isWeftCore core && slot < 48 && lane < 32
  | .flockPlacement _ _ cores => cores.all isWeftCore
  | .placementAgeLimit => true
  | .eviction _ _ => true
  | .evictionSave _ _ => true
  | .spawnCompletion _ => true
  | .spawnUnitFailover => true
  | .respawnRound _ => true
  | .pageWalk _ => true
  | .translationDrop core _ _ => isCore core
  | .gets _ _ => true
  | .getm _ _ _ => true
  | .wt _ => true
  | .hr _ => true
  | .putm _ _ => true
  | .puto _ _ => true
  | .puts _ _ => true
  | .pute _ _ => true
  | .directoryEntryDrop _ => true
  | .mwaitTimeout _ => true
  | .droverSweep _ => true
  | .vfloorRebase core => isWeftCore core
  | .ownershipTransferHToD _ => true
  | .ownershipTransferDToH _ => true
  | .ownershipTimeout _ => true
  | .regionDwellExpiry _ => true
  | .hostMemAccess _ _ _ => true
  | .memoryScrub _ => true
  | .queueRequestServe queue => queue < 8192
  | .queueConfigWrite queue word _ => queue < 8192 && word < 4
  | .jobAccept _ => true
  | .jobStart _ => true
  | .jobRetire _ => true
  | .jobFail _ => true
  | .handleFill core slot => isWeftCore core && slot < 48
  | .streamComplete _ => true
  | .streamFail _ _ => true
  | .flushComplete _ _ => true
  | .nvmeCompletion _ _ _ _ => true
  | .quarterAccept core slot => isWeftCore core && slot < 48
  | .passStart core => isWeftCore core
  | .passComplete core => isWeftCore core
  | .mstaAccept core slot => isWeftCore core && slot < 48
  | .mstaWrite core => isWeftCore core
  | .crookExpiry core => isWeftCore core
  | .burstStartGrant quadrant => quadrant < 16
  | .activityWindowEnd core => isWeftCore core
  | .intervalBoundary => true
  | .declarationOnset _ => true
  | .declarationEnd _ => true
  | .sliceRatioChange core slice => isWeftCore core && slice < 6
  | .sensorUpdate sensor _ => sensor < 312
  | .thermalTripClear _ => true
  | .trip3HaltTimeout core => isLatency core
  | .ucieFlitReceive _ _ => true
  | .lingotonFlitReceive _ _ _ => true
  | .lingotonNak _ _ => true
  | .nbArrivalPacket => true
  | .nbReleasePacket => true
  | .nbMarkUpdate => true
  | .storageLinkDown _ => true
  | .packageReset _ _ => true
  | .attestationRequest _ => true
  | .pkgrst _ => true
  | .corctlRestart => true
  | .corctlClosed _ => true
  | .corctlRfblk _ => true
  | .suspectClear => true
  | .regionOwnerWrite _ _ => true
  | .regionPinWrite _ _ => true
  | .permWrite _ _ => true
  | .merrWrite _ _ => true
  | .sigmaskWrite _ _ => true
  | .systemRegisterWrite _ _ _ => true
  | .wfiTimeout _ => true
  | .illegalInstruction _ => true
  | .fetchFault cause _ => isFetchCause cause
  | .mldaPerform core => isWeftCore core
  | .storagePortRetrain _ => true

end Sys2Proof
end

