-- ==== Sys2Proof/Decode.lean ====
section
/-! DEFINITION. The decoder, total on any bytes (R44 to R53), and the encoder. The decoder finds the
form, takes the fields apart and checks them against the opcode map; an encoding that R52 excludes is
rejected by name. What builds an Instr is marked noncomputable only because the compiled code of Lean
has no room for an inductive type of so many constructors; the kernel evaluates it. -/

namespace Sys2Proof

open Machine

/-- The instructions of R66, from opcode 0x000. -/
def ctorsInteger : List (Fields → Instr) :=
  [.add, .sub, .addi, .li, .lih, .addpc, .mul, .mulh, .mulhu, .mulhsu, .div, .divu, .rem, .remu, .and, .or,
   .xor, .andn, .orn, .xnor, .shl, .shr, .sra, .rol, .ror, .clz, .ctz, .popc, .brev, .bswap, .bfx, .bfxu,
   .bfi, .min, .max, .minu, .maxu, .abs, .sel, .cmp, .cmpi, .mov, .sextB, .sextH, .sextW, .zextB, .zextH,
   .zextW, .empt, .fill, .tstf, .qbind, .qunb, .qstat, .srd, .swr]

/-- The instructions of R67, from opcode 0x040. -/
def ctorsFloat : List (Fields → Instr) :=
  [.faddD, .faddS, .fsubD, .fsubS, .fmulD, .fmulS, .ffmaD, .ffmaS, .fdivD, .fdivS, .fsqrtD, .fsqrtS,
   .fminD, .fminS, .fmaxD, .fmaxS, .fcmpD, .fcmpS, .fclass, .fsgn, .fcvtD, .fcvtS, .fcvtH, .fcvtBf,
   .fcvtiD, .fcvtiS, .fcvtiuD, .fcvtiuS, .icvtfD, .icvtfS, .icvtfuD, .icvtfuS, .frndD, .frndS, .frcp,
   .frsq, .fexp2, .flog2, .fsin, .fcos]

/-- The instructions of R68, from opcode 0x080. -/
def ctorsPacked : List (Fields → Instr) :=
  [.padd, .paddu, .psub, .psubu, .pmul, .pmin, .pminu, .pmax, .pmaxu, .pavg, .pabs, .pcmp, .pshuf, .ppack,
   .punpkl, .punpkh, .punpklu, .punpkhu, .pdot, .pdotu, .pdotfE4, .pdotfE5, .pdotfF4, .pscl]

/-- The instructions of R69, from opcode 0x0A0. -/
def ctorsControl : List (Fields → Instr) :=
  [.br, .brz, .brnz, .jmp, .jal, .jalr, .rejoin, .yld, .waitf, .waitfE, .nop, .migL, .migW, .migC, .rgn,
   .sysc, .trap, .brk, .eretS, .eretF]

/-- The instructions of R70, from opcode 0x0C0. -/
def ctorsScratch : List (Fields → Instr) :=
  [.ldsB, .ldsH, .ldsW, .ldsD, .ldsQ, .stsB, .stsH, .stsW, .stsD, .stsQ, .samoAdd, .samoMax, .samoSwap,
   .scas]

/-- The instructions of R71, from opcode 0x0E0. -/
def ctorsMemory : List (Fields → Instr) :=
  [.ldB, .ldBu, .ldH, .ldHu, .ldW, .ldWu, .ldD, .ldQ, .stB, .stH, .stW, .stD, .stQ, .ldaqW, .ldaqD, .strlW,
   .strlD, .ldroW, .ldroD, .ldroQ, .roinv, .ldvW, .ldvD, .ldvQ, .stvW, .stvD, .stvQ, .prefL2, .prefV, .clfl]

/-- The instructions of R72, from opcode 0x110. -/
def ctorsAtomic : List (Fields → Instr) :=
  [.amoAdd, .amoAnd, .amoOr, .amoXor, .amoMin, .amoMax, .amoMinu, .amoMaxu, .amoSwap, .amoFadd, .redAdd,
   .redAnd, .redOr, .redXor, .redMin, .redMax, .redMinu, .redMaxu, .redFadd, .cas, .fence, .marm, .mwait,
   .mwaitT]

/-- The instructions of R73, from opcode 0x130. -/
def ctorsCopy : List (Fields → Instr) :=
  [.tcpy, .tcst, .twaitO, .twaitA, .thdlB, .thdlU, .sioR, .sioW, .sioD, .sflu]

/-- The instructions of R74, from opcode 0x140. -/
noncomputable def ctorsMatrix : List (Fields → Instr) :=
  [.mmq, .mmqs, .mzero, .mldaF32, .mldaBf, .mstaF32, .mstaBf, .mstaH, .mstaE4, .mstaE5, .crookT, .crookP,
   .crookR, .crookQ, .merrR, .merrC]

/-- The instructions of R75, from opcode 0x160. -/
noncomputable def ctorsPhase : List (Fields → Instr) :=
  [.bar, .barSt, .fbar, .nbar, .nbarA, .nbarW, .nbinit, .nbinitC, .exit, .exitS]

/-- The instructions of R76, from opcode 0x170. -/
noncomputable def ctorsSpawn : List (Fields → Instr) :=
  [.spwn, .rspwn, .rspwnD, .trkA, .trkR, .trkc, .trkqS, .trkqD]

/-- The instructions of R77, from opcode 0x180. -/
noncomputable def ctorsPower : List (Fields → Instr) :=
  [.phs, .phsx, .spl, .pqryP, .pqryB, .pqryC]

/-- The instructions of R78, from opcode 0x190. -/
noncomputable def ctorsSystem : List (Fields → Instr) :=
  [.sig, .sigG, .sigB, .evctB, .evctF, .evctS, .evctC, .tlbiVa, .tlbiVas, .tlbiAs, .tlbiAll, .tlbiL, .halt,
   .haltP, .wfi, .wfiT, .ctxsG, .ctxsS, .ctxsQ, .ctxsM, .ctxsSp, .ctxsH, .ctxsT, .ctxlG, .ctxlS, .ctxlQ,
   .ctxlM, .ctxlSp, .ctxlH, .ctxlT]

/-- The groups of R64, by first opcode. -/
noncomputable def ctorGroups : List (Nat × List (Fields → Instr)) :=
  [(0x000, ctorsInteger), (0x040, ctorsFloat), (0x080, ctorsPacked), (0x0A0, ctorsControl),
   (0x0C0, ctorsScratch), (0x0E0, ctorsMemory), (0x110, ctorsAtomic), (0x130, ctorsCopy),
   (0x140, ctorsMatrix), (0x160, ctorsPhase), (0x170, ctorsSpawn), (0x180, ctorsPower),
   (0x190, ctorsSystem)]

/-- The instruction of an opcode with its operand fields; none for the reserved values of R64. -/
noncomputable def instrOf (op : Nat) (f : Fields) : Option Instr :=
  (ctorGroups.findSome? fun g => if g.1 ≤ op then g.2[op - g.1]? else none).map (· f)

/-- The form that the low bits of byte 0 name (R44). -/
def formOf (b0 : Nat) : Option Form :=
  if b0 % 2 == 0 then some .c
  else if b0 % 4 == 1 then some .s
  else if b0 % 8 == 3 then some .m
  else if b0 % 16 == 7 then some .l
  else if b0 % 32 == 15 then some .x
  else none

/-- The length of a form in bytes (R44). -/
def Form.bytes : Form → Nat
  | .c => 2
  | .s => 4
  | .m => 6
  | .l => 8
  | .x => 12

/-- The length in bytes of the instruction whose first byte is given; 2 for a reserved prefix (R44, R54). -/
def lengthOf (b0 : Nat) : Nat := ((formOf b0).map Form.bytes).getD 2

/-- A 6-bit field from bit lo. -/
def field6 (v lo : Nat) : Fin 64 := ⟨v / 2 ^ lo % 64, Nat.mod_lt _ (by omega)⟩

/-- The opcode of an S, M, L or X form. -/
def opcodeAt (form : Form) (v : Nat) : Nat :=
  match form with
  | .c => 0
  | .s => bitsAt v 2 9
  | .m => bitsAt v 3 9
  | .l => bitsAt v 4 9
  | .x => bitsAt v 5 9

/-- The operand fields of an S, M, L or X form (R47 to R50, R53). -/
def fieldsAt (form : Form) (v : Nat) : Fields :=
  match form with
  | .s | .c =>
    { form, rd := field6 v 11, s1 := field6 v 17, s2 := field6 v 23, s3 := 0, e1 := bitAt v 29,
      e2 := bitAt v 30, e3 := false, mod := 0, pol := 0, imm := 0 }
  | .m =>
    { form, rd := field6 v 12, s1 := field6 v 18, s2 := field6 v 24, s3 := field6 v 30, e1 := bitAt v 36,
      e2 := bitAt v 37, e3 := bitAt v 38, mod := BitVec.ofNat 8 (bitsAt v 39 8), pol := 0, imm := 0 }
  | .l =>
    { form, rd := field6 v 13, s1 := field6 v 19, s2 := field6 v 25, s3 := 0, e1 := bitAt v 31,
      e2 := bitAt v 32, e3 := false, mod := BitVec.ofNat 8 (bitsAt v 33 8), pol := 0,
      imm := (BitVec.ofNat 23 (bitsAt v 41 23)).signExtend 32 }
  | .x =>
    { form, rd := field6 v 14, s1 := field6 v 20, s2 := field6 v 26, s3 := field6 v 32, e1 := bitAt v 38,
      e2 := bitAt v 39, e3 := bitAt v 40, mod := BitVec.ofNat 8 (bitsAt v 41 8), pol := field6 v 58,
      imm := BitVec.ofNat 32 (bitsAt v 64 32) }

/-- The opcode and fields of the instruction whose form and bits are given, or why there is none (R52). -/
def decodeBits (form : Form) (v : Nat) : Except DecodeError (Nat × Fields) :=
  match form with
  | .c =>
    match compactRows[bitsAt v 1 7 - 1]? with
    | some row =>
      if bitsAt v 1 7 == 0 || !compactUnused row (bitsAt v 12 4) (bitsAt v 8 4) then
        .error (.compactCode (bitsAt v 1 7))
      else .ok (row.op, compactFields row (bitsAt v 12 4) (bitsAt v 8 4))
    | none => .error (.compactCode (bitsAt v 1 7))
  | form =>
    match opRule (opcodeAt form v) with
    | none => .error (.reservedOpcode (opcodeAt form v))
    | some r =>
      if (form == .s && bitAt v 31) || (form == .m && bitAt v 47) then .error .topBit
      else if form == .x && bitsAt v 49 9 != 0 then .error .extFlags
      else
        match reject? (opcodeAt form v) r (fieldsAt form v) with
        | some e => .error e
        | none => .ok (opcodeAt form v, fieldsAt form v)

/-- The opcode and fields of the instruction that the bytes begin with, and the bytes after it. -/
def decodeFields (bs : List Byte) : Except DecodeError (Nat × Fields × List Byte) :=
  match bs with
  | [] => .error .short
  | b :: _ =>
    match formOf b.toNat with
    | none => .error .reservedPrefix
    | some form =>
      if bs.length < form.bytes then .error .short
      else
        match decodeBits form (leNat (bs.take form.bytes)) with
        | .error e => .error e
        | .ok p => .ok (p.1, p.2, bs.drop form.bytes)

/-- The instruction that the bytes begin with, and the bytes after it, or why there is none. -/
noncomputable def decode (bs : List Byte) : Except DecodeError (Instr × List Byte) :=
  match decodeFields bs with
  | .error e => .error e
  | .ok (op, f, rest) =>
    match instrOf op f with
    | some i => .ok (i, rest)
    | none => .error (.reservedOpcode op)

/-- A bit as a number. -/
def bitNat (b : Bool) : Nat := if b then 1 else 0

/-- The bits of an S, M, L or X form (R47 to R50). -/
def encodeBits (op : Nat) (f : Fields) : Nat :=
  match f.form with
  | .c | .s =>
    1 + 2 ^ 2 * op + 2 ^ 11 * f.rd.val + 2 ^ 17 * f.s1.val + 2 ^ 23 * f.s2.val + 2 ^ 29 * bitNat f.e1
      + 2 ^ 30 * bitNat f.e2
  | .m =>
    3 + 2 ^ 3 * op + 2 ^ 12 * f.rd.val + 2 ^ 18 * f.s1.val + 2 ^ 24 * f.s2.val + 2 ^ 30 * f.s3.val
      + 2 ^ 36 * bitNat f.e1 + 2 ^ 37 * bitNat f.e2 + 2 ^ 38 * bitNat f.e3 + 2 ^ 39 * f.mod.toNat
  | .l =>
    7 + 2 ^ 4 * op + 2 ^ 13 * f.rd.val + 2 ^ 19 * f.s1.val + 2 ^ 25 * f.s2.val + 2 ^ 31 * bitNat f.e1
      + 2 ^ 32 * bitNat f.e2 + 2 ^ 33 * f.mod.toNat + 2 ^ 41 * (f.imm.toNat % 2 ^ 23)
  | .x =>
    15 + 2 ^ 5 * op + 2 ^ 14 * f.rd.val + 2 ^ 20 * f.s1.val + 2 ^ 26 * f.s2.val + 2 ^ 32 * f.s3.val
      + 2 ^ 38 * bitNat f.e1 + 2 ^ 39 * bitNat f.e2 + 2 ^ 40 * bitNat f.e3 + 2 ^ 41 * f.mod.toNat
      + 2 ^ 58 * f.pol.val + 2 ^ 64 * f.imm.toNat

/-- The bits of a C form (R46): the first compact code that stands for the fields. -/
def encodeCompact (op : Nat) (f : Fields) : Option Nat :=
  (compactOf op f).map fun c => 2 * c.1 + 2 ^ 8 * c.2.2 + 2 ^ 12 * c.2.1

/-- The bytes of an instruction; none for a term that is no instruction or is not well formed as one. -/
def encode (i : Instr) : Option (List Byte) :=
  match instrFields i with
  | none => none
  | some (op, f) =>
    if f.form == .c then (encodeCompact op f).map (leBytes 2)
    else some (leBytes f.form.bytes (encodeBits op f))

/-- The instruction that the decoder reads from nbits bits of value w, numbered as the opcode table
numbers them, with zeros above. The hardware stores them little-endian (R4). -/
noncomputable def decodeTableWord (nbits w : Nat) : Option Instr :=
  match decode (leBytes 12 (w % 2 ^ nbits)) with
  | .ok (i, _) => some i
  | .error _ => none

end Sys2Proof
end

