-- ==== Sys2Proof/Machine/IssueRule.lean ====
section
/-! DEFINITION. How a weft chooses what it issues and how its lanes age (R25, R26), how an instruction's bytes
are fetched, and the traps of fetch (R44, R54, R55). -/

namespace Sys2Proof.Machine

/-! ### The issue choice -/

/-- The active member lanes of a weft, each with its thread (R25). -/
def State.activeLanes (s : State) (w : Weft) : List (Nat × Thread) :=
  (w.members.filterMap fun p => (s.thread? p.2).map fun t => (p.1, t)).filter fun p => p.2.active

/-- The lowest program counter of some lanes. -/
def lowestPc (ls : List (Nat × Thread)) : Option Word := (leastOf (ls.map fun p => p.2.pc.toNat)).map (BitVec.ofNat 64)

/-- The lanes of an override set among some lanes. -/
def overridden (w : Weft) (ls : List (Nat × Thread)) : List (Nat × Thread) := ls.filter fun p => w.ovr.getLsbD p.1

/-- The issue address of a weft (R26): the lowest of its override set, else the lowest of its active lanes. -/
def State.issueAddress (s : State) (w : Weft) : Option Word :=
  let act := s.activeLanes w
  let o := overridden w act
  lowestPc (if o.isEmpty then act else o)

/-- The set of lanes as a mask. -/
def laneMask (ls : List Nat) : BitVec 32 := ls.foldl (fun m i => m ||| BitVec.ofNat 32 (2 ^ i)) 0

/-- The greatest age of some lanes. -/
def greatestAge (ls : List (Nat × Thread)) : Nat := ls.foldl (fun m p => max m p.2.age) 0

/-- The oldest waiting group of a weft (R26): of the active lanes that are not among those given, the group
whose greatest age is largest, the lower address on a tie. -/
def State.oldestWaiting (s : State) (w : Weft) (others : List Nat) : List (Nat × Thread) :=
  let act := s.activeLanes w
  let rest := act.filter fun p => !others.contains p.1
  let best := greatestAge rest
  match lowestPc (rest.filter fun p => p.2.age == best) with
  | none => []
  | some a => act.filter fun p => p.2.pc == a

/-- The threshold of a weft (R25): the least yage of its member lanes. -/
def State.yageOf (s : State) (w : Weft) : Nat := (leastOf ((s.memberThreads w).map Thread.yage)).getD 256

/-- A weft with an override set, its issue count 0. -/
def Weft.override (w : Weft) (ls : List (Nat × Thread)) : Weft := { w with ovr := laneMask (ls.map (·.1)), ocount := 0 }

/-- Whether a weft stalls at its issue address: it was found blocked there at 16 opportunities (R26). -/
def State.stalled (s : State) (w : Weft) : Bool :=
  16 ≤ w.stall && (match s.issueAddress w with | some a => a == w.stallPc | none => false)

/-- STALL_YIELD (R26): the override passes to the oldest waiting group; nothing issues and no age changes. -/
def tryStallYield (core slot : Nat) (s : State) : Option State :=
  match s.weft? core slot with
  | none => none
  | some w =>
    if s.stalled w then
      let here := (s.activeLanes w).filter fun p => p.2.pc == w.stallPc
      some (s.putWeft core slot { w.override (s.oldestWaiting w (here.map (·.1))) with stall := 0 })
    else none

/-- STALL_YIELD. -/
def execStallYield (core slot : Nat) (s : State) : Result := .next ((tryStallYield core slot s).getD s)

/-- OVERRIDE_LIMIT (R26): the override set ends at its 64th issue. -/
def tryOverrideLimit (core slot : Nat) (s : State) : Option State :=
  match s.weft? core slot with
  | none => none
  | some w => if w.ovr ≠ 0 ∧ 64 ≤ w.ocount then some (s.putWeft core slot { w with ovr := 0 }) else none

/-- OVERRIDE_LIMIT. -/
def execOverrideLimit (core slot : Nat) (s : State) : Result := .next ((tryOverrideLimit core slot s).getD s)

/-! ### After an issue -/

/-- The age of a lane after an issue at an address, from its age and pc before (R26). -/
def agedLane (a : Word) (t : Thread) : Nat := if t.pc = a then 0 else min (t.age + 1) 65535

/-- The state with the lanes that were active before an issue aged. -/
def State.ageLanes (s : State) (a : Word) (before : List (Nat × Thread)) : State :=
  before.foldl (fun s p => s.modThread p.2.tid fun t => { t with age := agedLane a p.2 }) s

/-- A weft after an opportunity at which its instruction was blocked (R26). -/
def Weft.blockedAt (w : Weft) (a : Word) : Weft :=
  if w.stallPc = a then { w with stall := w.stall + 1 } else { w with stall := 1, stallPc := a }

/-- The override of a weft after an issue (R26): `ran` holds the lanes that issued. -/
def State.overrideAfter (s : State) (w : Weft) (ran : List Nat) : Weft :=
  let n := s.note
  if w.ovr ≠ 0 then
    { w with ocount := w.ocount + 1, ovr := if n.back || n.rejoin || n.yld then 0 else w.ovr }
  else
    let g := s.oldestWaiting w ran
    if n.yld || (n.back && s.yageOf w ≤ greatestAge g) then w.override g else w

/-- The state after the issue of a weft at an address (R26): `before` holds its active lanes as they were. A wait for
the matrix array's queue, a shared unit, counts no stall (R153); a submission that waits for room does (R263). -/
def State.afterIssue (s : State) (core slot : Nat) (a : Word) (before : List (Nat × Thread)) : State :=
  match s.weft? core slot with
  | none => s
  | some w =>
    if s.note.blocked then
      if s.note.unit then s else s.putWeft core slot (w.blockedAt a)
    else
      let s := s.ageLanes a before
      let s := s.putWeft core slot { s.overrideAfter w ((before.filter fun p => p.2.pc == a).map (·.1)) with stall := 0 }
      (tryOverrideLimit core slot s).getD s

/-! ### Fetch -/

/-- What fetching an instruction comes to: its bytes, a trap of the fault tag, or a wait for an ownership
transfer. -/
inductive Fetched where
  | code (s : State) (bs : List Byte)
  | fault (s : State) (t : Trap)
  | wait (s : State)

/-- The smallest page (R202). -/
def pageSize : Nat := 65536

/-- The bytes from an address to the end of its page (R54, R202), as the translation that a core holds gives it. -/
def State.pageRest (s : State) (core pid va : Nat) : Nat :=
  match (s.tlbOf core).find? fun e => e.covers (spaceOf pid) va with
  | some e => 2 ^ e.bits - va % 2 ^ e.bits
  | none => pageSize - va % pageSize

/-- The bytes of instruction memory that a core executes (R55): those that memory holds, or, of 2-byte units that it has
kept, the kept ones. -/
def State.codeAt (s : State) (core pa n : Nat) : List Byte :=
  match tabGet s.code core with
  | none => s.bytesAt pa n
  | some us => (List.range n).map fun i => match tabGet us ((pa + i) / 2) with
    | some u => (u[(pa + i) % 2]?).getD 0
    | none => s.byteAt (pa + i)

/-- The physical address that n instruction bytes of one page are fetched from (R54, R205, R217). -/
def fetchPlace (s : State) (core pid va n : Nat) (l : Level) : Chk Nat :=
  if !canonicalWord (BitVec.ofNat 64 va) then .trap s (Trap.at .page va)
  else
    match translate s core pid va .fetch l with
    | .error t => .trap s t
    | .ok (k, t) =>
      match k.place t.pa with
      | .ram p => match k.ownCheck p, k.ownCheck (p + (n - 1)) with
        | .ok, .ok => .ok k p
        | .refused k, _ => .trap k (Trap.at .ownx va)
        | _, .refused k => .trap k (Trap.at .ownx va)
        | .wait k, _ => .wait k
        | _, .wait k => .wait k
      | .remote p => if k.linked (pkgOf p) then .ok k p else .trap k (Trap.at .mchk va)
      | _ => .trap k (Trap.at .mchk va)

/-- n bytes fetched at one page (R54): poison in any of them faults at the page's first byte of the
instruction. -/
def fetchPart (s : State) (core pid va n : Nat) (l : Level) : Fetched :=
  match fetchPlace s core pid va n l with
  | .trap k t => .fault k t
  | .wait k => .wait k
  | .device _ => .fault s (Trap.at .mchk va)
  | .ok k pa =>
    if k.poisonAt pa n then .fault k (Trap.at .poison va) else .code (k.afterRead pa n) (k.codeAt core pa n)

/-- Instruction fetch (R44, R54): byte 0 first, then as many bytes as it asks for, at its own page and then
at a second one. -/
def fetchAt (s : State) (core pid : Nat) (pc : Word) (l : Level) : Fetched :=
  let va := pc.toNat
  match fetchPart s core pid va 1 l with
  | .code s (b :: _) =>
    let n := lengthOf b.toNat
    let first := min n (s.pageRest core pid va)
    match fetchPart s core pid va first l with
    | .code s bs =>
      if first = n then .code s bs
      else
        match fetchPart s core pid (va + first) (n - first) l with
        | .code s cs => .code s (bs ++ cs)
        | r => r
    | r => r
  | r => r

/-- trapval of an illegal encoding (R54). -/
def rawOf (bs : List Byte) : Word := BitVec.ofNat 64 (leNat (bs.take 8))

/-- A trap taken by every lane that issues. -/
def trapAll (tr : Trap) (s : State) : Result :=
  let ls := s.issueLanes
  if ls.any fun p => trapWaits s p.2.tid tr then .next s.block
  else
    .next ((ls.foldl
      (fun s p => takeTrap s p.2.tid ⟨.s, 0, 0, 0, 0, false, false, false, 0, 0, 0⟩ tr false false) s).bump)

/-- ILLEGAL_INSTRUCTION (R52, R54). -/
def execIllegalInstruction (raw : Word) (s : State) : Result := trapAll ⟨.ill, raw, false⟩ s

/-- The cause of a fault tag (R54). -/
def fetchCause (c : Nat) : Cause := if c = 6 then .page else if c = 7 then .prot else .poison

/-- FETCH_FAULT (R54). -/
def execFetchFault (cause : Nat) (adr : Word) (s : State) : Result := trapAll ⟨fetchCause cause, adr, true⟩ s

end Sys2Proof.Machine
end

