-- ==== Sys2Proof/Machine/Clearing.lean ====
section
/-! DEFINITION. How a core is emptied: the eviction of the flocks on it (R398) and the clearing of its pack wefts and
its packing pool (R399). -/

namespace Sys2Proof.Machine

/-- The flocks with a bolt on a core, each once. -/
def State.flocksOn (s : State) (core : Nat) : List (Nat × Nat) :=
  s.residentFlocks.filter fun k => (s.flockBolts k.1 k.2).any fun b => b.core == core && b.bstate == .resident

/-- A lane of a pack weft that leaves for a latency core (R399): what an instruction of it has done already stands
(R395). -/
def Thread.cleared (t : Thread) : Thread :=
  if t.sub = .extractParked then t
  else { parkExtract { t with wait := t.wait.kept } (.latency none) t.travelSub with xr := false }

/-- The state with the member lanes of a pack bolt on their way to latency cores (R399). -/
def State.clearPack (s : State) (b : Bolt) : State :=
  (s.weftsOf b).foldl
    (fun s x => (s.memberThreads x.2).foldl (fun s t => (s.unsubmit t.tid).modThread t.tid Thread.cleared) s) s

/-- The state with the pooled threads of a core that satisfy a condition on their way to latency cores (R399); each that
leaves counts (R237). -/
def State.clearPool (s : State) (core : Nat) (which : Thread → Bool) : State :=
  let gone := (s.pooled core).filter fun p => which p.1
  let c := s.wcore core
  let s := s.putW core { c with pool := c.pool.filter fun e => !gone.any fun p => p.1.tid == e.1 }
  gone.foldl
    (fun s p => (s.bumpRel core).putThread
      { p.1.dropMonitor with loc := .transit (.latency none), sub := .active, xr := false }) s

/-- The state with the pack bolts of a core that satisfy a condition cleared (R399). -/
def State.clearPacks (s : State) (core : Nat) (which : Bolt → Bool) : State :=
  ((s.boltsOn core).filter fun b => b.pack && which b).foldl State.clearPack s

/-- The state with everything that stands on a weft core on its way out, and the core halted and closed to
placement (R374, R408; log entry 11). -/
def State.emptyCore (s : State) (core : Nat) : State :=
  let s := (s.flocksOn core).foldl State.evictFlock s
  let s := (s.clearPacks core fun _ => true).clearPool core fun _ => true
  s.putW core { s.wcore core with halted := true, closed := true }

/-- The state with a latency core halted, its thread in place (R408). -/
def State.haltLatency (s : State) (core : Nat) : State :=
  s.putL core { s.lcore core with halted := true, trip3At := none }

/-- The state with every core of the package halted (R408). -/
def State.haltPackage (s : State) : State :=
  (List.range 48).foldl (fun s i => s.haltLatency (256 + i)) ((List.range 144).foldl State.emptyCore s)

/-- A thread that owes a machine check of a code: it takes it before it executes its next instruction (R413). -/
def Thread.owing (t : Thread) (code : Nat) : Thread := { t with entry := some (18, BitVec.ofNat 64 code) }

/-- The state with a machine check raised in a lane of a weft: it parks at its instruction, wherever it stands in its weft.
One that is parked already, has arrived at a barrier or has done what its instruction does takes it before the next. -/
def State.checkLane (s : State) (core slot lane : Nat) (t : Thread) (code : Nat) : State :=
  if t.parked || t.atBarrier || t.begun then s.putThread (t.owing code)
  else parkFault s core slot lane t.interrupted (Trap.plain .mchk code) t.pc t.pc

/-- The state with a machine check raised in every thread on either kind of core (R413): the lanes of its wefts and the
threads of its pool, and on a latency core the running thread, which takes it once its earlier instructions have
completed (R385), and those that wait for its scheduler. -/
def State.checkAll (s : State) (code : Nat) : State :=
  let owe (s : State) (tids : List Nat) : State := tids.foldl (fun s tid => s.modThread tid fun t => t.owing code) s
  let s := s.wcores.foldl
    (fun s p =>
      let s := p.2.slots.foldl
        (fun s x => x.2.members.foldl
          (fun s m => match s.thread? m.2 with
            | some t => s.checkLane p.1 x.1 m.1 t code
            | none => s) s) s
      owe s (p.2.pool.map (·.1))) s
  s.lcores.foldl (fun s p => owe s (p.2.cur.toList ++ p.2.run)) s

end Sys2Proof.Machine
end

