-- ==== Sys2Proof/Machine/Standards.lean ====
section
/-! DEFINITION. The standards of R10 that give values: AES-256 with GCM and XTS (FIPS 197, SP 800-38D and 38E), SHA-256
(FIPS 180-4), RSASSA-PSS over RSA-3072 (RFC 8017), and LZ4 blocks. What a standard leaves to its user is in log entry
13. -/

namespace Sys2Proof.Machine

/-! ### Bytes -/

/-- The number that bytes give, the first most significant. -/
def beNat (bs : List Byte) : Nat := bs.foldl (fun n b => n * 256 + b.toNat) 0

/-- n bytes of a number, the first most significant. -/
def beBytes (n v : Nat) : List Byte := (leBytes n v).reverse

/-- Bytes cut or padded with zeros to a length. -/
def fitted (n : Nat) (bs : List Byte) : List Byte := bs.take n ++ List.replicate (n - bs.length) 0

/-- Bytes in groups of n, the last as it is. -/
def grouped (n : Nat) : Nat → List Byte → List (List Byte)
  | 0, _ => []
  | fuel + 1, bs => if bs.isEmpty then [] else bs.take n :: grouped n fuel (bs.drop n)

/-- Two runs of bytes added bit by bit, as long as the first. -/
def xorBytes (a b : List Byte) : List Byte := (List.range a.length).map fun i => (a[i]?).getD 0 ^^^ (b[i]?).getD 0

/-! ### AES-256 -/

/-- A byte of GF(2^8) times x. -/
def xtime (a : Nat) : Nat := if a < 128 then 2 * a else (2 * a) ^^^ 0x11B

/-- A product in GF(2^8). -/
def gfMul (a b : Nat) : Nat :=
  ((List.range 8).foldl (fun p i => (if bitAt b i then p.1 ^^^ p.2 else p.1, xtime p.2)) (0, a)).1

/-- An inverse in GF(2^8), 0 for 0: the 254th power. -/
def gfInv (a : Nat) : Nat :=
  ((List.range 7).foldl (fun p _ => let q := gfMul p.2 p.2; (gfMul p.1 q, q)) (1, a)).1

/-- A byte turned left by k bits. -/
def rotByte (a k : Nat) : Nat := (a * 2 ^ k + a / 2 ^ (8 - k)) % 256

/-- The substitution of a byte, and its inverse. -/
def subByte (a : Nat) : Nat :=
  let b := gfInv a
  b ^^^ rotByte b 1 ^^^ rotByte b 2 ^^^ rotByte b 3 ^^^ rotByte b 4 ^^^ 0x63
def invSubByte (a : Nat) : Nat := gfInv (rotByte a 1 ^^^ rotByte a 3 ^^^ rotByte a 6 ^^^ 0x05)

/-- Element i of a list of numbers. -/
def numAt (l : List Nat) (i : Nat) : Nat := (l[i]?).getD 0

/-- Two states added. -/
def addKey (a b : List Nat) : List Nat := (List.range 16).map fun i => numAt a i ^^^ numAt b i

/-- The rows of a state turned by their number, to the left, and to the right. -/
def shiftRows (s : List Nat) : List Nat := (List.range 16).map fun i => numAt s (4 * ((i / 4 + i % 4) % 4) + i % 4)
def unshiftRows (s : List Nat) : List Nat := (List.range 16).map fun i => numAt s (4 * ((i / 4 + 4 - i % 4) % 4) + i % 4)

/-- The columns of a state multiplied by a matrix whose rows are turns of the four bytes given. -/
def mixWith (m s : List Nat) : List Nat :=
  (List.range 16).map fun i =>
    (List.range 4).foldl (fun n k => n ^^^ gfMul (numAt m k) (numAt s (4 * (i / 4) + (i % 4 + k) % 4))) 0

/-- The 60 words of a key of 32 bytes, in order, as one list of bytes. -/
def keyWords (key : List Nat) : List Nat :=
  ((List.range 52).foldl
    (fun (p : List Nat × Nat) i =>
      let n := i + 8
      let w := (p.1.drop (4 * (n - 1))).take 4
      let t :=
        if n % 8 = 0 then
          (List.range 4).map fun k => subByte (numAt w ((k + 1) % 4)) ^^^ (if k = 0 then p.2 else 0)
        else if n % 8 = 4 then w.map subByte
        else w
      (p.1 ++ (List.range 4).map (fun k => numAt p.1 (4 * (n - 8) + k) ^^^ numAt t k),
        if n % 8 = 0 then xtime p.2 else p.2)) (key, 1)).1

/-- The key of round r. -/
def roundKey (ws : List Nat) (r : Nat) : List Nat := (ws.drop (16 * r)).take 16

/-- A block enciphered under expanded key words. -/
def cipher (ws b : List Nat) : List Nat :=
  let s := (List.range 13).foldl
    (fun s r => addKey (mixWith [2, 3, 1, 1] (shiftRows (s.map subByte))) (roundKey ws (r + 1))) (addKey b (roundKey ws 0))
  addKey (shiftRows (s.map subByte)) (roundKey ws 14)

/-- A block deciphered under expanded key words. -/
def decipher (ws b : List Nat) : List Nat :=
  let s := (List.range 13).foldl
    (fun s r => mixWith [14, 11, 13, 9] (addKey ((unshiftRows s).map invSubByte) (roundKey ws (13 - r))))
    (addKey b (roundKey ws 14))
  addKey ((unshiftRows s).map invSubByte) (roundKey ws 0)

/-- Numbers as bytes, and bytes as numbers. -/
def asBytes (l : List Nat) : List Byte := l.map (BitVec.ofNat 8)
def asNums (l : List Byte) : List Nat := l.map BitVec.toNat

/-- AES-256 on a block of 16 bytes, and its inverse. -/
def aes (key b : List Byte) : List Byte := asBytes (cipher (keyWords (asNums key)) (asNums b))
def aesInv (key b : List Byte) : List Byte := asBytes (decipher (keyWords (asNums key)) (asNums b))

/-! ### GCM -/

/-- A product of two blocks in GF(2^128), whose most significant bit is the coefficient of 1. -/
def ghashMul (x y : Nat) : Nat :=
  ((List.range 128).foldl
    (fun p i => (if bitAt x (127 - i) then p.1 ^^^ p.2 else p.1, if bitAt p.2 0 then p.2 / 2 ^^^ (0xE1 * 2 ^ 120) else p.2 / 2))
    (0, y)).1

/-- GHASH of a ciphertext without further data. -/
def ghash (h : Nat) (c : List Byte) : Nat :=
  let blocks := (grouped 16 c.length c).map fun b => beNat (fitted 16 b)
  (blocks ++ [8 * c.length]).foldl (fun y b => ghashMul (y ^^^ b) h) 0

/-- Bytes enciphered or deciphered in counter mode from counter 2 of a nonce of 12 bytes. -/
def gcmCtr (key nonce bs : List Byte) : List Byte :=
  let parts := grouped 16 bs.length bs
  (List.range parts.length).flatMap fun i =>
    xorBytes ((parts[i]?).getD []) (aes key (nonce ++ beBytes 4 ((i + 2) % 2 ^ 32)))

/-- The tag of a ciphertext. -/
def gcmTag (key nonce c : List Byte) : List Byte :=
  xorBytes (beBytes 16 (ghash (beNat (aes key (List.replicate 16 0))) c)) (aes key (nonce ++ beBytes 4 1))

/-- The ciphertext with its tag that GCM gives. -/
def sealGcm (key nonce bs : List Byte) : List Byte :=
  let c := gcmCtr key nonce bs
  c ++ gcmTag key nonce c

/-- The plaintext that GCM gives of a ciphertext with its tag, whose 16 bytes come last, and whether the tag verifies. -/
def openGcm (key nonce bs : List Byte) : List Byte × Bool :=
  let c := bs.take (bs.length - 16)
  (gcmCtr key nonce c, 16 ≤ bs.length && gcmTag key nonce c == bs.drop (bs.length - 16))

/-! ### XTS -/

/-- The tweak of the next block of 16 bytes. -/
def tweakNext (t : Nat) : Nat := if t < 2 ^ 127 then 2 * t else (2 * t % 2 ^ 128) ^^^ 0x87

/-- A run of 16-byte blocks under XTS from a tweak. -/
def xtsRun (one : List Byte → List Byte) : Nat → List (List Byte) → List Byte
  | _, [] => []
  | t, b :: bs => xorBytes (one (xorBytes (fitted 16 b) (leBytes 16 t))) (leBytes 16 t) ++ xtsRun one (tweakNext t) bs

/-- A logical block under XTS, its tweak its address; `key` is the data key with the tweak key after it. A logical block is
a multiple of 16 bytes. -/
def xtsBlock (enc : Bool) (key : List Byte) (lba : Nat) (b : List Byte) : List Byte :=
  xtsRun (if enc then aes (key.take 32) else aesInv (key.take 32)) (leNat (aes (key.drop 32) (leBytes 16 lba)))
    (grouped 16 b.length b)

/-- Logical blocks of bs bytes from an address under XTS. -/
def xts (enc : Bool) (key : List Byte) (lba bs : Nat) (data : List Byte) : List Byte :=
  let parts := grouped bs data.length data
  (List.range parts.length).flatMap fun i => xtsBlock enc key (lba + i) ((parts[i]?).getD [])

/-! ### SHA-256 -/

/-- The constants of the rounds. -/
def shaK : List Nat :=
  [0x428A2F98, 0x71374491, 0xB5C0FBCF, 0xE9B5DBA5, 0x3956C25B, 0x59F111F1, 0x923F82A4, 0xAB1C5ED5,
   0xD807AA98, 0x12835B01, 0x243185BE, 0x550C7DC3, 0x72BE5D74, 0x80DEB1FE, 0x9BDC06A7, 0xC19BF174,
   0xE49B69C1, 0xEFBE4786, 0x0FC19DC6, 0x240CA1CC, 0x2DE92C6F, 0x4A7484AA, 0x5CB0A9DC, 0x76F988DA,
   0x983E5152, 0xA831C66D, 0xB00327C8, 0xBF597FC7, 0xC6E00BF3, 0xD5A79147, 0x06CA6351, 0x14292967,
   0x27B70A85, 0x2E1B2138, 0x4D2C6DFC, 0x53380D13, 0x650A7354, 0x766A0ABB, 0x81C2C92E, 0x92722C85,
   0xA2BFE8A1, 0xA81A664B, 0xC24B8B70, 0xC76C51A3, 0xD192E819, 0xD6990624, 0xF40E3585, 0x106AA070,
   0x19A4C116, 0x1E376C08, 0x2748774C, 0x34B0BCB5, 0x391C0CB3, 0x4ED8AA4A, 0x5B9CCA4F, 0x682E6FF3,
   0x748F82EE, 0x78A5636F, 0x84C87814, 0x8CC70208, 0x90BEFFFA, 0xA4506CEB, 0xBEF9A3F7, 0xC67178F2]

/-- The first hash value. -/
def shaH : List Nat :=
  [0x6A09E667, 0xBB67AE85, 0x3C6EF372, 0xA54FF53A, 0x510E527F, 0x9B05688C, 0x1F83D9AB, 0x5BE0CD19]

/-- A 32-bit word turned right, and a sum of words. -/
def rotr (x k : Nat) : Nat := x / 2 ^ k + x % 2 ^ k * 2 ^ (32 - k)
def add32 (l : List Nat) : Nat := l.foldl (· + ·) 0 % 2 ^ 32

/-- The 64 words of a block's schedule. -/
def shaWords (b : List Byte) : List Nat :=
  (List.range 48).foldl
    (fun w i =>
      let t := i + 16
      let a := numAt w (t - 15)
      let c := numAt w (t - 2)
      w ++ [add32 [numAt w (t - 16), rotr a 7 ^^^ rotr a 18 ^^^ (a / 8), numAt w (t - 7), rotr c 17 ^^^ rotr c 19 ^^^ (c / 1024)]])
    ((List.range 16).map fun i => beNat ((b.drop (4 * i)).take 4))

/-- One round on the eight working variables. -/
def shaRound (v : List Nat) (k w : Nat) : List Nat :=
  let e := numAt v 4
  let a := numAt v 0
  let ch := (e &&& numAt v 5) ^^^ ((0xFFFFFFFF ^^^ e) &&& numAt v 6)
  let maj := (a &&& numAt v 1) ^^^ (a &&& numAt v 2) ^^^ (numAt v 1 &&& numAt v 2)
  let t1 := add32 [numAt v 7, rotr e 6 ^^^ rotr e 11 ^^^ rotr e 25, ch, k, w]
  let t2 := add32 [rotr a 2 ^^^ rotr a 13 ^^^ rotr a 22, maj]
  [add32 [t1, t2], a, numAt v 1, numAt v 2, add32 [numAt v 3, t1], e, numAt v 5, numAt v 6]

/-- The hash value after a block. -/
def shaBlock (h : List Nat) (b : List Byte) : List Nat :=
  let w := shaWords b
  let v := (List.range 64).foldl (fun v i => shaRound v (numAt shaK i) (numAt w i)) h
  (List.range 8).map fun i => add32 [numAt h i, numAt v i]

/-- SHA-256. -/
def sha256 (bs : List Byte) : List Byte :=
  let pad := (119 - bs.length % 64) % 64
  let m := bs ++ [0x80] ++ List.replicate pad 0 ++ beBytes 8 (8 * bs.length)
  ((grouped 64 m.length m).foldl shaBlock shaH).flatMap (beBytes 4)

/-! ### RSASSA-PSS with RSA-3072 -/

/-- A power modulo n, for the bits of an exponent, the most significant first. -/
def powBits (n b : Nat) : List Bool → Nat → Nat
  | [], a => a
  | e :: l, a => powBits n b l (if e then a * a % n * b % n else a * a % n)

/-- b to the power e modulo n, for an exponent of at most 3,072 bits. -/
def powMod (b e n : Nat) : Nat := powBits n (b % n) ((List.range 3072).reverse.map (bitAt e)) 1

/-- n bytes that MGF1 makes of a seed. -/
def mgf1 (seed : List Byte) (n : Nat) : List Byte :=
  ((List.range ((n + 31) / 32)).flatMap fun i => sha256 (seed ++ beBytes 4 i)).take n

/-- The hash that a PSS encoding binds to a digest and a salt. -/
def pssHash (digest salt : List Byte) : List Byte := sha256 (List.replicate 8 0 ++ digest ++ salt)

/-- The encoding of a digest under a salt of 32 bytes, for a modulus of 3,072 bits. -/
def pssEncode (digest salt : List Byte) : List Byte :=
  let h := pssHash digest salt
  let db := xorBytes (List.replicate 318 0 ++ [1] ++ salt) (mgf1 h 351)
  (db.take 1).map (· &&& 0x7F) ++ db.drop 1 ++ h ++ [0xBC]

/-- Whether an encoding is one of a digest. -/
def pssOk (digest em : List Byte) : Bool :=
  let h := (em.drop 351).take 32
  let db := xorBytes (em.take 351) (mgf1 h 351)
  let db := (db.take 1).map (· &&& 0x7F) ++ db.drop 1
  let salt := db.drop 319
  em.length == 384 && (em.take 1).all (fun b => b.toNat < 128) && em.drop 383 == [0xBC]
    && db.take 319 == List.replicate 318 0 ++ [1] && h == pssHash digest salt

/-- Whether a signature verifies over a digest under a public modulus with exponent 65,537. -/
def rsaVerify (modulus signature : Nat) (digest : List Byte) : Bool :=
  2 ^ 3071 ≤ modulus && modulus < 2 ^ 3072 && signature < modulus
    && pssOk digest (beBytes 384 (powMod signature 65537 modulus))

/-- The signature over a digest with a private exponent and a salt. -/
def rsaSign (modulus exponent : Nat) (salt digest : List Byte) : List Byte :=
  beBytes 384 (powMod (beNat (pssEncode digest salt)) exponent modulus)

/-! ### LZ4 blocks -/

/-- What a decompressor has given when it stops, and whether it came to the end of well-formed data. -/
abbrev Given := List Byte × Bool

/-- A length that goes on over bytes of 255. -/
def lz4More : List Byte → Nat → Option (Nat × List Byte)
  | [], _ => none
  | b :: bs, n => if b.toNat = 255 then lz4More bs (n + 255) else some (n + b.toNat, bs)

/-- The length that four bits of a token begin. -/
def lz4Length (n : Nat) (bs : List Byte) : Option (Nat × List Byte) := if n = 15 then lz4More bs 15 else some (n, bs)

/-- Bytes with n more, each a copy of the one at an offset before it. -/
def copyBack (off : Nat) : Nat → List Byte → List Byte
  | 0, out => out
  | n + 1, out => copyBack off n (out ++ [(out[out.length - off]?).getD 0])

/-- The sequences of an LZ4 block, the last of literals alone. -/
def lz4Block : Nat → List Byte → List Byte → Given
  | 0, _, out => (out, false)
  | _, [], out => (out, false)
  | fuel + 1, t :: bs, out =>
    match lz4Length (t.toNat / 16) bs with
    | none => (out, false)
    | some (n, bs) =>
      if bs.length < n then (out, false)
      else
        let out := out ++ bs.take n
        match bs.drop n with
        | [] => (out, true)
        | [_] => (out, false)
        | a :: b :: bs =>
          let off := a.toNat + 256 * b.toNat
          if off = 0 ∨ out.length < off then (out, false)
          else
            match lz4Length (t.toNat % 16) bs with
            | none => (out, false)
            | some (m, bs) => lz4Block fuel bs (copyBack off (m + 4) out)

/-- An LZ4 block of literals alone. -/
def lz4Stored (bs : List Byte) : List Byte :=
  let n := bs.length
  if n < 15 then BitVec.ofNat 8 (16 * n) :: bs
  else 0xF0 :: (List.replicate ((n - 15) / 255) 0xFF ++ [BitVec.ofNat 8 ((n - 15) % 255)] ++ bs)

end Sys2Proof.Machine
end

