-- ==== Sys2Proof/Machine/Zstd.lean ====
section
/-! DEFINITION. Zstandard frames (R10, RFC 8878) without dictionaries and with windows up to 8 MiB: the decoder, and a
frame of raw blocks. -/

namespace Sys2Proof.Machine

/-! ### Bit streams -/

/-- A bit stream read backwards: its bytes as a number, and how many bits are left below its end mark. -/
structure BitsBack where
  v : Nat
  left : Nat
  deriving DecidableEq, Repr

/-- The stream of some bytes, whose last holds the end mark in its highest bit set. -/
def BitsBack.of (bs : List Byte) : Option BitsBack :=
  match bs.getLast? with
  | none => none
  | some b => if b = 0 then none else some ⟨leNat bs, Nat.log2 (leNat bs)⟩

/-- The next n bits; zeros stand below the first. -/
def BitsBack.peek (b : BitsBack) (n : Nat) : Nat :=
  if n ≤ b.left then bitsAt b.v (b.left - n) n else b.v % 2 ^ b.left * 2 ^ (n - b.left)

/-- The next n bits taken, if so many are left. -/
def BitsBack.take (b : BitsBack) (n : Nat) : Option (Nat × BitsBack) :=
  if n ≤ b.left then some (b.peek n, { b with left := b.left - n }) else none

/-! ### FSE tables -/

/-- A table of finite state entropy: the bits of a state, and for each state its symbol, the bits that the next state
takes, and the base they are added to. -/
structure Fse where
  log : Nat
  rows : List (Nat × Nat × Nat)
  deriving DecidableEq, Repr

/-- A state's row. -/
def Fse.row (t : Fse) (i : Nat) : Nat × Nat × Nat := (t.rows[i]?).getD (0, 0, 0)

/-- The places that a symbol of a probability takes among states, from a position: below `top`, in the order of the
standard's step. -/
def fsePlaces (log top : Nat) : Nat → Nat → List Nat → List Nat × Nat
  | 0, pos, acc => (acc, pos)
  | n + 1, pos, acc =>
    let size := 2 ^ log
    let next (p : Nat) : Nat := (p + size / 2 + size / 8 + 3) % size
    let skip : Nat := (List.range size).foldl (fun p _ => if p < top then p else next p) (next pos)
    fsePlaces log top n skip (acc ++ [pos])

/-- The table of a distribution: probabilities by symbol, -1 for one of less than 1. -/
def fseTable (log : Nat) (dist : List Int) : Fse :=
  let size := 2 ^ log
  let low := (List.range dist.length).filter fun s => (dist[s]?).getD 0 == -1
  let top := size - low.length
  let spread := (List.range dist.length).foldl
    (fun (p : List (Nat × Nat) × Nat) s =>
      let n := ((dist[s]?).getD 0).toNat
      let r := fsePlaces log top n p.2 []
      (p.1 ++ r.1.map fun i => (i, s), r.2)) ([], 0)
  let held := spread.1 ++ (List.range low.length).map fun i => (size - 1 - i, numAt low i)
  let symbols := (List.range size).map fun i => ((held.find? fun x => x.1 == i).map (·.2)).getD 0
  let rows := (List.range size).foldl
    (fun (p : List (Nat × Nat × Nat) × List Nat) i =>
      let s := numAt symbols i
      let d := numAt p.2 s
      let nb := log - Nat.log2 d
      (p.1 ++ [(s, nb, d * 2 ^ nb - size)], p.2.set s (d + 1)))
    ([], dist.map fun x => if x = -1 then 1 else x.toNat)
  ⟨log, rows.1⟩

/-- Zero probabilities that two-bit counts repeat, from bit `at_` of a number: the count, and where the bits end. -/
def fseZeros (v : Nat) : Nat → Nat → Nat × Nat
  | 0, at_ => (0, at_)
  | fuel + 1, at_ =>
    let n := bitsAt v at_ 2
    if n = 3 then let r := fseZeros v fuel (at_ + 2); (3 + r.1, r.2) else (n, at_ + 2)

/-- The probabilities that a description spells from bit `at_`, while `left` of the table remains; none for a malformed
one. -/
def fseDist (v most : Nat) : Nat → Nat → Nat → List Int → Option (List Int × Nat)
  | 0, _, _, _ => none
  | fuel + 1, at_, left, acc =>
    if left = 0 then some (acc, at_)
    else if most ≤ acc.length then none
    else
      let n := Nat.log2 (left + 1) + 1
      let x := bitsAt v at_ n
      let low := x % 2 ^ (n - 1)
      let cut := 2 ^ n - 1 - (left + 1)
      let (x, used) := if low < cut then (low, n - 1) else if 2 ^ (n - 1) ≤ x then (x - cut, n) else (x, n)
      let p : Int := (x : Int) - 1
      let z := if p = 0 then fseZeros v fuel (at_ + used) else (0, at_ + used)
      if left < p.natAbs then none
      else fseDist v most fuel z.2 (left - p.natAbs) (acc ++ [p] ++ List.replicate z.1 0)

/-- A table described by bytes, of at most `most` symbols and `deep` bits, and the bytes that follow. -/
def fseRead (most deep : Nat) (bs : List Byte) : Option (Fse × List Byte) :=
  let v := leNat (bs.take 512)
  let log := bitsAt v 0 4 + 5
  if deep < log then none
  else
    match fseDist v most (4 * bs.length + 8) 4 (2 ^ log) [] with
    | none => none
    | some (d, at_) =>
      let n := (at_ + 7) / 8
      if bs.length < n ∨ most < d.length then none else some (fseTable log d, bs.drop n)

/-- A table of one symbol. -/
def fseOne (s : Nat) : Fse := ⟨0, [(s, 0, 0)]⟩

/-! ### Huffman trees -/

/-- A Huffman table: the bits of its longest code, and for each value of so many bits the symbol and its length. -/
structure Huf where
  log : Nat
  rows : List (Nat × Nat)
  deriving DecidableEq, Repr

/-- The table of some weights, to which the last is added that makes them a power of two. -/
def hufTable (ws : List Nat) : Option Huf :=
  let sum := ws.foldl (fun n w => n + if w = 0 then 0 else 2 ^ (w - 1)) 0
  if sum = 0 then none
  else
    let log := Nat.log2 sum + 1
    let rest := 2 ^ log - sum
    if rest ≠ 2 ^ Nat.log2 rest ∨ 11 < log then none
    else
      let ws := ws ++ [Nat.log2 rest + 1]
      some ⟨log, (List.range log).flatMap fun i =>
        (List.range ws.length).flatMap fun s =>
          if numAt ws s = i + 1 then List.replicate (2 ^ i) (s, log - i) else []⟩

/-- The weights that two states take turns to give. -/
def hufWeights (t : Fse) : Nat → Nat → Nat → BitsBack → List Nat → Option (List Nat)
  | 0, _, _, _, _ => none
  | fuel + 1, a, b, bits, acc =>
    let r := t.row a
    let acc := acc ++ [r.1]
    match bits.take r.2.1 with
    | none => some (acc ++ [(t.row b).1])
    | some (x, bits) => hufWeights t fuel b (r.2.2 + x) bits acc

/-- A tree description, and the bytes that follow. -/
def hufRead (bs : List Byte) : Option (Huf × List Byte) :=
  match bs with
  | [] => none
  | b :: bs =>
    let n := b.toNat
    if 128 ≤ n then
      let m := (n - 127 + 1) / 2
      if bs.length < m then none
      else
        let ws := (List.range (n - 127)).map fun i =>
          let x := ((bs[i / 2]?).getD 0).toNat
          if i % 2 = 0 then x / 16 else x % 16
        (hufTable ws).map fun t => (t, bs.drop m)
    else if bs.length < n then none
    else
      match fseRead 256 6 (bs.take n) with
      | none => none
      | some (t, rest) =>
        match BitsBack.of rest with
        | none => none
        | some bits =>
          match bits.take t.log with
          | none => none
          | some (a, bits) =>
            match bits.take t.log with
            | none => none
            | some (c, bits) =>
              match hufWeights t 256 a c bits [] with
              | none => none
              | some ws => (hufTable ws).map fun h => (h, bs.drop n)

/-- n symbols of a stream. -/
def hufSymbols (t : Huf) : Nat → BitsBack → List Byte → Option (List Byte)
  | 0, bits, acc => if bits.left = 0 then some acc.reverse else none
  | n + 1, bits, acc =>
    let r := (t.rows[bits.peek t.log]?).getD (0, 0)
    match bits.take r.2 with
    | none => none
    | some (_, bits) => hufSymbols t n bits (BitVec.ofNat 8 r.1 :: acc)

/-- n symbols of a stream's bytes. -/
def hufStream (t : Huf) (n : Nat) (bs : List Byte) : Option (List Byte) :=
  (BitsBack.of bs).bind fun bits => hufSymbols t n bits []

/-! ### Blocks -/

/-- What a frame keeps from block to block: the offsets used last, and the tables. -/
structure ZState where
  reps : List Nat
  huf : Option Huf
  ll : Option Fse
  of : Option Fse
  ml : Option Fse
  deriving DecidableEq, Repr

/-- A frame's beginning. -/
def ZState.start : ZState := ⟨[1, 4, 8], none, none, none, none⟩

/-- n symbols of four streams whose sizes a jump table gives. -/
def hufFour (t : Huf) (n : Nat) (bs : List Byte) : Option (List Byte) :=
  let size (i : Nat) : Nat := leNat ((bs.drop (2 * i)).take 2)
  let m := (n + 3) / 4
  let body := bs.drop 6
  if body.length < size 0 + size 1 + size 2 ∨ n < 3 * m then none
  else
    match hufStream t m (body.take (size 0)), hufStream t m ((body.drop (size 0)).take (size 1)),
        hufStream t m ((body.drop (size 0 + size 1)).take (size 2)),
        hufStream t (n - 3 * m) (body.drop (size 0 + size 1 + size 2)) with
    | some a, some b, some c, some d => some (a ++ b ++ c ++ d)
    | _, _, _, _ => none

/-- The literals of a block, and the bytes that follow. -/
def zLiterals (z : ZState) (bs : List Byte) : Option (List Byte × ZState × List Byte) :=
  let v := leNat (bs.take 5)
  let kind := bitsAt v 0 2
  let sf := bitsAt v 2 2
  if kind < 2 then
    let (n, h) := if sf % 2 = 0 then (bitsAt v 3 5, 1) else if sf = 1 then (bitsAt v 4 12, 2) else (bitsAt v 4 20, 3)
    let m := if kind = 0 then n else 1
    if bs.length < h + m then none
    else
      let body := (bs.drop h).take m
      some (if kind = 0 then body else List.replicate n ((body.head?).getD 0), z, bs.drop (h + m))
  else
    let (w, h) := if sf < 2 then (10, 3) else if sf = 2 then (14, 4) else (18, 5)
    let n := bitsAt v 4 w
    let m := bitsAt v (4 + w) w
    if bs.length < h + m then none
    else
      let body := (bs.drop h).take m
      match if kind = 2 then hufRead body else z.huf.map fun t => (t, body) with
      | none => none
      | some (t, body) =>
        (if sf = 0 then hufStream t n body else hufFour t n body).map fun l =>
          (l, { z with huf := some t }, bs.drop (h + m))

/-- The distributions that the standard predefines: of literal lengths, match lengths and offsets. -/
def zDistLl : List Int :=
  [4, 3, 2, 2, 2, 2, 2, 2, 2, 2, 2, 2, 2, 1, 1, 1, 2, 2, 2, 2, 2, 2, 2, 2, 2, 3, 2, 1, 1, 1, 1, 1, -1, -1, -1, -1]
def zDistMl : List Int := [1, 4, 3, 2, 2, 2, 2, 2, 2] ++ List.replicate 37 1 ++ List.replicate 7 (-1)
def zDistOf : List Int := List.replicate 6 1 ++ [2, 2, 2] ++ List.replicate 15 1 ++ List.replicate 5 (-1)

/-- The base and the further bits of a literal length code. -/
def zLength (c : Nat) : Nat × Nat :=
  if c < 16 then (c, 0)
  else (([(16, 1), (18, 1), (20, 1), (22, 1), (24, 2), (28, 2), (32, 3), (40, 3), (48, 4), (64, 6)] : List (Nat × Nat))[c - 16]?).getD
    (2 ^ (c - 19), c - 19)

/-- The base and the further bits of a match length code. -/
def zMatch (c : Nat) : Nat × Nat :=
  if c < 32 then (c + 3, 0)
  else (([(35, 1), (37, 1), (39, 1), (41, 1), (43, 2), (47, 2), (51, 3), (59, 3), (67, 4), (83, 4), (99, 5)] :
    List (Nat × Nat))[c - 32]?).getD (2 ^ (c - 36) + 3, c - 36)

/-- The table that a mode of RFC 8878 names, and the bytes that follow: predefined, of one symbol, described, or repeated. -/
def zTable (mode most deep : Nat) (given : Fse) (last : Option Fse) (bs : List Byte) : Option (Fse × List Byte) :=
  match mode with
  | 0 => some (given, bs)
  | 1 => match bs with
    | b :: bs => if b.toNat < most then some (fseOne b.toNat, bs) else none
    | [] => none
  | 2 => fseRead most deep bs
  | _ => last.map fun t => (t, bs)

/-- The offset that an offset value stands for, and the offsets used last after it. -/
def zOffset (reps : List Nat) (value ll : Nat) : Nat × List Nat :=
  let a := numAt reps 0
  let b := numAt reps 1
  let c := numAt reps 2
  if 3 < value then (value - 3, [value - 3, a, b])
  else
    match value - 1 + (if ll = 0 then 1 else 0) with
    | 0 => (a, reps)
    | 1 => (b, [b, a, c])
    | 2 => (c, [c, a, b])
    | _ => (a - 1, [a - 1, a, b])

/-- The sequences of a block, n of them, carried out on what the frame has given; `window` bounds the offsets. -/
def zSequences (ll ml of_ : Fse) (window : Nat) :
    Nat → (Nat × Nat × Nat) → BitsBack → List Nat → List Byte → List Byte → Option (List Nat × List Byte × List Byte)
  | 0, _, bits, reps, lits, out => if bits.left = 0 then some (reps, lits, out) else none
  | n + 1, (a, b, c), bits, reps, lits, out =>
    let oc := (of_.row c).1
    let lc := zLength (ll.row a).1
    let mc := zMatch (ml.row b).1
    (bits.take oc).bind fun (x, bits) =>
    (bits.take mc.2).bind fun (y, bits) =>
    (bits.take lc.2).bind fun (w, bits) =>
      let l := lc.1 + w
      let m := mc.1 + y
      let o := zOffset reps (2 ^ oc + x) l
      let out := out ++ lits.take l
      if lits.length < l ∨ o.1 = 0 ∨ out.length < o.1 ∨ window < o.1 then none
      else
        let out := copyBack o.1 m out
        if n = 0 then zSequences ll ml of_ window 0 (a, b, c) bits o.2 (lits.drop l) out
        else
          (bits.take (ll.row a).2.1).bind fun (x, bits) =>
          (bits.take (ml.row b).2.1).bind fun (y, bits) =>
          (bits.take (of_.row c).2.1).bind fun (w, bits) =>
            zSequences ll ml of_ window n ((ll.row a).2.2 + x, (ml.row b).2.2 + y, (of_.row c).2.2 + w) bits o.2
              (lits.drop l) out

/-- The number of sequences, and the bytes that follow. -/
def zCount (bs : List Byte) : Option (Nat × List Byte) :=
  match bs with
  | a :: bs =>
    if a.toNat < 128 then some (a.toNat, bs)
    else
      match bs with
      | b :: bs =>
        if a.toNat < 255 then some ((a.toNat - 128) * 256 + b.toNat, bs)
        else
          match bs with
          | c :: bs => some (b.toNat + c.toNat * 256 + 0x7F00, bs)
          | [] => none
      | [] => none
  | [] => none

/-- A compressed block carried out on what the frame has given. -/
def zBlock (window : Nat) (z : ZState) (bs out : List Byte) : Option (ZState × List Byte) :=
  (zLiterals z bs).bind fun (lits, z, bs) =>
  (zCount bs).bind fun (n, bs) =>
    if n = 0 then if bs.isEmpty then some (z, out ++ lits) else none
    else
      match bs with
      | [] => none
      | m :: bs =>
        if bitsAt m.toNat 0 2 ≠ 0 then none
        else
          (zTable (bitsAt m.toNat 6 2) 36 9 (fseTable 6 zDistLl) z.ll bs).bind fun (ll, bs) =>
          (zTable (bitsAt m.toNat 4 2) 32 8 (fseTable 5 zDistOf) z.of bs).bind fun (of_, bs) =>
          (zTable (bitsAt m.toNat 2 2) 53 9 (fseTable 6 zDistMl) z.ml bs).bind fun (ml, bs) =>
          (BitsBack.of bs).bind fun bits =>
          (bits.take ll.log).bind fun (a, bits) =>
          (bits.take of_.log).bind fun (c, bits) =>
          (bits.take ml.log).bind fun (b, bits) =>
          (zSequences ll ml of_ window n (a, b, c) bits z.reps lits out).map fun r =>
            ({ z with reps := r.1, ll := some ll, of := some of_, ml := some ml }, r.2.2 ++ r.2.1)

/-- The blocks of a frame carried out: what they give, and the bytes after the last, none for malformed data. -/
def zBlocks (window : Nat) : Nat → ZState → List Byte → List Byte → List Byte × Option (List Byte)
  | 0, _, _, out => (out, none)
  | fuel + 1, z, bs, out =>
    let h := leNat (bs.take 3)
    let n := bitsAt h 3 21
    let body := bs.drop 3
    let kind := bitsAt h 1 2
    let m := if kind = 1 then 1 else n
    if bs.length < 3 ∨ body.length < m ∨ kind = 3 ∨ min window (2 ^ 17) < n then (out, none)
    else
      let done : Option (ZState × List Byte) :=
        if kind = 0 then some (z, out ++ body.take n)
        else if kind = 1 then some (z, out ++ List.replicate n ((body.head?).getD 0))
        else zBlock window z (body.take n) out
      match done with
      | none => (out, none)
      | some (z, out) => if bitAt h 0 then (out, some (body.drop m)) else zBlocks window fuel z (body.drop m) out

/-! ### The checksum of a frame -/

/-- The primes of XXH64. -/
def xxP : List Nat :=
  [0, 0x9E3779B185EBCA87, 0xC2B2AE3D27D4EB4F, 0x165667B19E3779F9, 0x85EBCA77C2B2AE63, 0x27D4EB2F165667C5]

/-- A 64-bit word turned left. -/
def rotl64 (x k : Nat) : Nat := (x * 2 ^ k + x / 2 ^ (64 - k)) % 2 ^ 64

/-- A round of XXH64, and the merging of an accumulator. -/
def xxRound (acc x : Nat) : Nat := rotl64 ((acc + x * numAt xxP 2) % 2 ^ 64) 31 * numAt xxP 1 % 2 ^ 64
def xxMerge (h v : Nat) : Nat := ((h ^^^ xxRound 0 v) * numAt xxP 1 + numAt xxP 4) % 2 ^ 64

/-- XXH64 of what is left after the last 32 bytes. -/
def xxTail : Nat → Nat → List Byte → Nat
  | 0, h, _ => h
  | fuel + 1, h, bs =>
    if 8 ≤ bs.length then
      xxTail fuel ((rotl64 (h ^^^ xxRound 0 (leNat (bs.take 8))) 27 * numAt xxP 1 + numAt xxP 4) % 2 ^ 64) (bs.drop 8)
    else if 4 ≤ bs.length then
      xxTail fuel ((rotl64 (h ^^^ (leNat (bs.take 4) * numAt xxP 1 % 2 ^ 64)) 23 * numAt xxP 2 + numAt xxP 3) % 2 ^ 64)
        (bs.drop 4)
    else
      match bs with
      | [] => h
      | b :: bs => xxTail fuel (rotl64 (h ^^^ (b.toNat * numAt xxP 5 % 2 ^ 64)) 11 * numAt xxP 1 % 2 ^ 64) bs

/-- The four accumulators of XXH64 after whole groups of 32 bytes. -/
def xxGroups : Nat → List Nat → List Byte → List Nat
  | 0, v, _ => v
  | n + 1, v, bs =>
    xxGroups n ((List.range 4).map fun i => xxRound (numAt v i) (leNat ((bs.drop (8 * i)).take 8))) (bs.drop 32)

/-- XXH64 with seed 0. -/
def xxh64 (bs : List Byte) : Nat :=
  let n := bs.length / 32
  let h :=
    if n = 0 then numAt xxP 5
    else
      let v := xxGroups n
        [(numAt xxP 1 + numAt xxP 2) % 2 ^ 64, numAt xxP 2, 0, 2 ^ 64 - numAt xxP 1] bs
      v.foldl xxMerge ((rotl64 (numAt v 0) 1 + rotl64 (numAt v 1) 7 + rotl64 (numAt v 2) 12 + rotl64 (numAt v 3) 18) % 2 ^ 64)
  let h := xxTail bs.length ((h + bs.length) % 2 ^ 64) (bs.drop (32 * n))
  let h := (h ^^^ (h / 2 ^ 33)) * numAt xxP 2 % 2 ^ 64
  let h := (h ^^^ (h / 2 ^ 29)) * numAt xxP 3 % 2 ^ 64
  h ^^^ (h / 2 ^ 32)

/-! ### Frames -/

/-- The greatest window (R10). -/
def zWindow : Nat := 2 ^ 23

/-- One frame after its magic number: what it gives, and the bytes that follow it; none for a malformed one, one with a
dictionary, or one with a window above 8 MiB (R10, R273). -/
def zFrame (bs : List Byte) : List Byte × Option (List Byte) :=
  match bs with
  | [] => ([], none)
  | d :: bs =>
    let v := d.toNat
    let single := bitAt v 5
    let sizes (a b c e n : Nat) : Nat := if n = 0 then a else if n = 1 then b else if n = 2 then c else e
    let wn := if single then 0 else 1
    let dn := sizes 0 1 2 4 (bitsAt v 0 2)
    let cn := sizes (if single then 1 else 0) 2 4 8 (bitsAt v 6 2)
    let w := ((bs.head?).getD 0).toNat
    let dict := leNat ((bs.drop wn).take dn)
    let content := leNat ((bs.drop (wn + dn)).take cn) + (if cn = 2 then 256 else 0)
    let window := if single then content else 2 ^ (10 + w / 8) + 2 ^ (10 + w / 8) / 8 * (w % 8)
    let body := bs.drop (wn + dn + cn)
    if bs.length < wn + dn + cn ∨ bitAt v 3 ∨ dict ≠ 0 ∨ zWindow < window then ([], none)
    else
      match zBlocks window (body.length + 1) ZState.start body [] with
      | (out, none) => (out, none)
      | (out, some rest) =>
        let sum := if bitAt v 2 then 4 else 0
        if (cn ≠ 0 ∧ out.length ≠ content) ∨ rest.length < sum
            ∨ (sum ≠ 0 ∧ leNat (rest.take 4) ≠ xxh64 out % 2 ^ 32) then (out, none)
        else (out, some (rest.drop sum))

/-- Zstandard frames one after another, with frames to be skipped among them. -/
def zFrames : Nat → List Byte → List Byte → Given
  | 0, _, out => (out, false)
  | fuel + 1, bs, out =>
    let magic := leNat (bs.take 4)
    if bs.length < 4 then (out, false)
    else if magic / 16 = 0x184D2A5 then
      let n := leNat ((bs.drop 4).take 4)
      let rest := bs.drop (8 + n)
      if bs.length < 8 + n then (out, false) else if rest.isEmpty then (out, true) else zFrames fuel rest out
    else if magic ≠ 0xFD2FB528 then (out, false)
    else
      match zFrame (bs.drop 4) with
      | (more, none) => (out ++ more, false)
      | (more, some rest) => if rest.isEmpty then (out ++ more, true) else zFrames fuel rest (out ++ more)

/-- The raw blocks of some bytes, at most 128 KiB each. -/
def zRaw : Nat → List Byte → List Byte
  | 0, _ => []
  | fuel + 1, bs =>
    let n := min bs.length (2 ^ 17)
    let last := bs.length ≤ 2 ^ 17
    leBytes 3 (8 * n + if last then 1 else 0) ++ bs.take n ++ if last then [] else zRaw fuel (bs.drop n)

/-- A Zstandard frame of raw blocks, with a window of 8 MiB. -/
def zStored (bs : List Byte) : List Byte := leBytes 4 0xFD2FB528 ++ [0, 0x68] ++ zRaw (bs.length + 1) bs

/-! ### The two algorithms of R279 -/

/-- What a stored form gives: an LZ4 block's bytes for algorithm 1, those of Zstandard frames for algorithm 2 (R279,
R280). -/
def decompress (comp : Nat) (bs : List Byte) : Given :=
  if comp = 1 then lz4Block (bs.length + 1) bs [] else zFrames (bs.length + 1) bs []

/-- A stored form of bytes that gives them back: the stream unit's own choice where it does, else one without compression
(R280; log entry 13). -/
def compressed (comp : Nat) (bs : List Byte) : List Byte :=
  let own := Config.compress comp bs
  if decompress comp own = (bs, true) then own else if comp = 1 then lz4Stored bs else zStored bs

end Sys2Proof.Machine
end

