-- ==== Sys2Proof/Machine/Links.lean ====
section
/-! DEFINITION. The links between dies and packages (R413, R415), scrubbing (R421), package reset (R423) and
attestation (R425). -/

namespace Sys2Proof.Machine

/-! ### Reset -/

/-- The bytes of a firmware image that its signature covers: all but the signature (R424; log entry 13). -/
def imageSigned (i : Config.FwImage) : List Byte := leBytes 8 i.version ++ leBytes 8 i.length ++ beBytes 384 i.key ++ i.rest

/-- The bytes of a firmware image (R424; log entry 13). -/
def imageBytes (i : Config.FwImage) : List Byte :=
  leBytes 8 i.version ++ leBytes 8 i.length ++ beBytes 384 i.key ++ beBytes 384 i.signature ++ i.rest

/-- Whether the boot ROM accepts an image (R424): its key is the fused one, its signature verifies, and its version is
not below fwver. -/
def State.accepts (s : State) (i : Config.FwImage) : Bool :=
  sha256 (beBytes 384 i.key) == Config.fusedDigest && rsaVerify i.key i.signature (sha256 (imageSigned i))
    && s.fw.fwver.toNat ≤ i.version

/-- Whether the only current data of a line stand in a cache (R249). -/
def Dir.dirty (d : Dir) : Bool := d.st == .modified || d.st == .owned || d.st == .priv

/-- DRAM as a reset of the caches leaves it (R423): a line whose current data stood in one has those last written back. -/
def State.keptMem (s : State) : Memory :=
  s.dirs.foldl
    (fun m d => if d.2.dirty then
        memStore m (128 * d.1) ((List.range 128).map fun i => Config.staleByte (128 * d.1 + i) s.fresh)
      else m) s.mem

/-- A weft core as package reset leaves it: the register blocks that no longer work stay out of service (R422, R423). -/
def WCore.afterReset (c : WCore) : WCore :=
  { WCore.halted0 with working := c.working, rfblk := c.working, closed := decide (c.working < 7) }

/-- The machine as step 1 of package reset leaves it (R423): DRAM keeps its contents, the fuses, the blocks that do not
work and a lowered trip 4 stand (R374, R422), and the sensors keep their values without their marks (R375). -/
def State.packageReset (s : State) : State :=
  let trip4 := min (bitsAt s.fw.tlim.toNat 24 8) (bitsAt FwRegs.reset.tlim.toNat 24 8)
  { State.reset with
    mem := s.keptMem
    memPoison := s.memPoison
    wcores := (s.wcores.filter fun p => p.2.working != 336).map fun p => (p.1, p.2.afterReset)
    fw := { FwRegs.reset with
      tlim := BitVec.ofNat 64 (bitsAt FwRegs.reset.tlim.toNat 0 24 + trip4 * 2 ^ 24)
      fwver := s.fw.fwver }
    sensors := s.sensors.map fun p => (p.1, { p.2 with suspect := false, since := 0 })
    off := s.off
    fresh := s.fresh + 1 }

/-- The state with bytes in the mailbox BAR, from an offset (R418). -/
def State.putMail (s : State) (off : Nat) (bs : List Byte) : State :=
  { s with outside := { s.outside with mailbox := memStore s.outside.mailbox off bs } }

/-- The state after steps 2 and 3 of package reset (R423): the boot ROM has read an image, and halts the package with a
failure code in the mailbox when it does not accept it. -/
def State.boot (s : State) (i : Config.FwImage) (code : Nat) : State :=
  let k := { s with outside := { s.outside with image := some i } }
  if s.accepts i then k else (k.haltLatency 256).putMail 0 (leBytes 8 code)

/-- The package reset with an image, and the code of a failure (R423). -/
def State.resetWith (s : State) (i : Config.FwImage) (code : Nat) : State := s.packageReset.boot i code

/-- The package reset with the image that its boot drive holds (R422, R423). -/
def State.rebooted (s : State) : State := s.resetWith (s.outside.image.getD Config.bootImage) Config.bootFailure

/-- PACKAGE_RESET (R423, R424), with the image that the boot drive holds and the code that the boot ROM gives a failure. -/
def execPackageReset (image : Config.FwImage) (code : Nat) (s : State) : Result := .next (s.resetWith image code)

/-- PKGRST (R422). -/
def execPkgrst (value : Word) (s : State) : Result :=
  .next (if value.toNat % 256 = 0xA5 then s.rebooted else s)

/-- Steps 4 and 5 of R423: firmware opens every column and starts system software at supervisor level on latency core
256. -/
def State.bringUp (s : State) (entry : Word) : State :=
  match (s.lcore 256).cur.bind s.thread? with
  | none => s
  | some t =>
    if t.plvl ≠ .firmware then s
    else
      let s : State := { s with wcores := s.wcores.map fun p => (p.1, { p.2 with closed := decide (p.2.working < 7) }) }
      s.putThread { t with plvl := .supervisor, pc := entry, rgn := entry }

/-- The state with the minimum firmware version raised (R424): it is never lowered. -/
def State.raiseVersion (s : State) (v : Nat) : State :=
  { s with fw := { s.fw with fwver := BitVec.ofNat 64 (max s.fw.fwver.toNat (min v (2 ^ 64 - 1))) } }

/-- The state with bytes written to the mailbox BAR, of 64 KiB (R418). -/
def State.mailWrite (s : State) (off : Nat) (bs : List Byte) : State :=
  if off + bs.length ≤ 65536 then s.putMail off bs else s

/-- An attestation report without its signature (R425). -/
def State.reportBody (s : State) (nonce : List Byte) : List Byte :=
  let i := s.outside.image.getD Config.bootImage
  nonce ++ sha256 (imageBytes i) ++ sha256 i.system ++ leBytes 8 s.fw.fwver.toNat ++ leBytes 8 s.fw.pkgid.toNat

/-- The signature of a report with the identity key (R425). -/
def State.reportSign (s : State) (body : List Byte) : List Byte :=
  rsaSign Config.identityModulus Config.identityExponent (leBytes 32 (Config.salt s.fresh)) (sha256 body)

/-- ATTESTATION_REQUEST (R425): the report is in the mailbox, from its first byte (log entry 13). -/
def execAttestationRequest (nonce : List Byte) (s : State) : Result :=
  .next (if nonce.length = 32 then
      let body := s.reportBody nonce
      (s.putMail 0 (body ++ s.reportSign body)).bumpFresh
    else s)

/-- MEMORY_SCRUB (R421): single-bit errors are no state of the model (log entry 14). -/
def execMemoryScrub (_unit : Nat) (s : State) : Result := .next s

/-! ### Die-to-die links -/

/-- The UCIe links of the package (R11): the four edges of the block of W-dies, and two for each L-die, numbered 0 to 7
(log entry 72). -/
def ucieLinks : Nat := 8

/-- UCIE_FLIT_RECEIVE (R413): a flit whose CRC fails is replayed; a link whose replay of one flit fails 8 times in
a row is declared down, and the package halts. -/
def execUcieFlitReceive (link : Nat) (crcOk : Bool) (s : State) : Result :=
  let o := s.outside
  .next (if o.linkDown || ucieLinks ≤ link then s
    else if crcOk then { s with outside := { o with ucie := tabDel o.ucie link } }
    else
      let n := (tabGet o.ucie link).getD 0 + 1
      if n ≤ 8 then { s with outside := { o with ucie := tabPut o.ucie link n } }
      else (({ s with outside := { o with linkDown := true } }.logMck).checkAll 4).haltPackage)

/-! ### Lingoton -/

/-- Bytes 0 to 231 of a flit with an acknowledgement (R414): its header and its payload. -/
def LFlit.data (f : LFlit) (ack : Nat) : List Byte :=
  leBytes 8 (f.credit % 2 ^ 32 + f.kind % 32 * 2 ^ 32 + f.vc % 8 * 2 ^ 37 + ack % 4096 * 2 ^ 40 + f.seq % 4096 * 2 ^ 52)
    ++ fitted 224 f.payload

/-- The 256 bytes of a flit (R414): its data, their CRC, and the parity over both. -/
def LFlit.bytes (f : LFlit) (ack : Nat) : List Byte :=
  let d := f.data ack
  let e := d ++ leBytes 8 (Config.flitCrc d)
  e ++ leBytes 16 (Config.flitParity e)

/-- A flit as FEC leaves it (R415): one that its parity agrees with stays as it came. -/
def flitMended (b : List Byte) : List Byte :=
  if leBytes 16 (Config.flitParity (b.take 240)) = b.drop 240 then b else leBytes 256 (Config.flitMend b)

/-- Whether the CRC of a flit holds (R414). -/
def flitGood (b : List Byte) : Bool := leBytes 8 (Config.flitCrc (b.take 232)) == (b.drop 232).take 8

/-- The seq and the ack of a flit (R414). -/
def flitSeq (b : List Byte) : Nat := bitsAt (leNat (b.take 8)) 52 12
def flitAck (b : List Byte) : Nat := bitsAt (leNat (b.take 8)) 40 12

/-- A port with waiting flits sent as far as its window of 1,024 unacknowledged flits allows (R415). -/
def LPort.pump (x : LPort) : LPort :=
  let n := min (1024 - x.unacked.length) x.waiting.length
  let out := (List.range n).filterMap fun i => (x.waiting[i]?).map fun f => { f with seq := (x.next + i) % 4096 }
  { x with next := (x.next + n) % 4096, unacked := x.unacked ++ out, waiting := x.waiting.drop n }

/-- A port with a flit to send. -/
def LPort.enqueue (x : LPort) (f : LFlit) : LPort := { x with waiting := x.waiting ++ [f] }.pump

/-- A port that learns which seq its peer expects next: every flit before it is acknowledged, the resends of one of them
succeeded (R415; log entry 87). -/
def LPort.acked (x : LPort) (seq : Nat) : LPort :=
  if seq = x.next ∨ x.unacked.any (fun f => f.seq == seq) then
    let left := x.unacked.dropWhile fun f => f.seq != seq
    { x with unacked := left, resends := if left.any fun f => f.seq == x.resendSeq then x.resends else 0 }.pump
  else x

/-- The state with flits resent on other ports that reach their packages, once each (R415, R426); one whose package no
port reaches is lost with its traffic. -/
def State.reroute (s : State) (fs : List LFlit) : State :=
  fs.foldl
    (fun s f => match (s.routeTo f.dest).find? fun p => (s.lport p).up with
      | some p => s.putPort p ((s.lport p).enqueue f)
      | none => s) s

/-- LINGOTON_FLIT_RECEIVE (R414, R415): FEC, then CRC; the expected flit is accepted, and its acknowledgement taken; one
whose CRC fails is discarded with every later one, and answered with a NAK of the seq expected. -/
def execLingotonFlitReceive (port : Nat) (data check : List Byte) (s : State) : Result :=
  let x := s.lport port
  let flit := data ++ check
  let b := flitMended flit
  .next (if !x.up || 24 ≤ port || flit.length != 256 then s
    else if !flitGood b then s.putPort port { x with nak := some x.expect }
    else if flitSeq b = x.expect then
      s.putPort port ({ x with expect := (x.expect + 1) % 4096, nak := none }.acked (flitAck b))
    else s)

/-- LINGOTON_NAK (R415): what comes before the seq named is acknowledged, and the sender resends from it; after 16 failed
resends of one seq the port goes down, and its traffic moves to other ports. -/
def execLingotonNak (port seq : Nat) (s : State) : Result :=
  let x := (s.lport port).acked seq
  .next (if !(s.lport port).up || 24 ≤ port then s
    else if !x.unacked.any (fun f => f.seq == seq) then s.putPort port x
    else
      let n := if x.resends ≠ 0 ∧ x.resendSeq = seq then x.resends + 1 else 1
      if n ≤ 16 then s.putPort port { x with resends := n, resendSeq := seq }
      else
        (s.putPort port { x with resends := n, resendSeq := seq, up := false, unacked := [], waiting := [] }).reroute
          (x.unacked ++ x.waiting))

/-- The state with a flit for a package sent by a port that reaches it (R414, R415). -/
def State.sendFlit (s : State) (port : Nat) (f : LFlit) : State :=
  let x := s.lport port
  if x.up && port < 24 && (s.routeTo f.dest).contains port then s.putPort port (x.enqueue f) else s

/-- The state with the ports that reach a package set by firmware (R414). -/
def State.setRoute (s : State) (pkg : Nat) (ports : List Nat) : State :=
  { s with outside := { s.outside with routes := tabPut s.outside.routes pkg (ports.filter (· < 24)) } }

/-! ### Errors that no check corrects (R421) -/

/-- The state with an uncorrectable error in a byte of an agent's copy of a line: of its only current data, or of a copy
that home can still replace. -/
def State.strikeCopy (s : State) (a pa : Nat) : State :=
  let line := pa / 128
  let d := s.dir line
  if !d.holds a then s
  else if d.st = .modified ∨ d.st = .owned ∨ d.st = .priv then { s with memPoison := addrAdd s.memPoison pa }
  else s.putDir line { d with bad := (a, pa % 128) :: d.bad }

/-- The state with an uncorrectable error in a byte of a weft core's L1. -/
def State.strikeL1 (s : State) (core pa : Nat) : State :=
  let w := s.wcore core
  s.putW core { w with
    l1 := w.l1.map fun c => if c.line == pa / 128 then { c with bad := c.bad ||| byteMask pa 1 } else c
    roBad := if (tabGet w.ro (pa / 128)).isSome then addrAdd w.roBad pa else w.roBad }

/-- The state with register blocks of a weft core that no longer work (R422): they leave service. -/
def State.retireBlocks (s : State) (core n : Nat) : State :=
  let w := s.wcore core
  if !isWeft core || w.working < n then s
  else
    let left := w.working - n
    let k := s.putW core { w with working := left, rfblk := min w.rfblk left }
    if left < 7 then k.emptyCore core else k

end Sys2Proof.Machine
end

