-- ==== Sys2Proof/Machine/Tiles.lean ====
section
/-! DEFINITION. Canonical plane tiles as the array reads them (R121 to R124), the error substitutions and the
error log (R305 to R307), and what each operation of the array does to a slice (R293, R310 to R313). -/

namespace Sys2Proof.Machine

/-! ### Headers -/

/-- The fields of a tile header that the array uses (R122). -/
def hdrDepth (h : Nat) : Nat := bitsAt h 8 8
def hdrSparse (h : Nat) : Bool := bitAt h 16
def hdrNdup (h : Nat) : Nat := bitsAt h 17 3
def hdrNsp (h : Nat) : Nat := bitsAt h 24 8
def hdrDup (h : Nat) : Nat := bitsAt h 32 64
def hdrPois (h : Nat) : Bool := bitAt h 96

/-- Whether a header is valid (R123). -/
def headerOk (h : Nat) : Bool :=
  bitsAt h 100 412 == 0 && bitsAt h 20 4 == 0 && 1 ≤ hdrDepth h && hdrDepth h ≤ 24 && bitsAt h 0 8 ≤ 13
    && (if hdrSparse h then 1 ≤ hdrNsp h && hdrNsp h ≤ 31 else hdrNsp h == 0) && dupValid (hdrDup h) (hdrNdup h)

/-! ### Elements -/

/-- The header of a tile as it was read. -/
def SpData.header (d : SpData) : Nat := leNat (d.bytes.take 64)

/-- Whether word w of what was read carries poison. -/
def SpData.struck (d : SpData) (w : Nat) : Bool := d.poison.contains w

/-- A byte of what was read. -/
def SpData.byte (d : SpData) (o : Nat) : Nat := ((d.bytes[o]?).getD 0).toNat

/-- The exponent code of group g of row i; a poisoned word of codes makes zero groups (R121, R305). -/
def SpData.code (d : SpData) (i g : Nat) : Nat := if d.struck (16 + i) then 0 else d.byte (64 + 4 * i + g)

/-- The words of the sign plane and of the magnitude planes that hold group g of row i (R121). -/
def planeWords (depth i g : Nat) : List Nat :=
  (48 + 4 * i + g) :: (List.range depth).map fun j => 176 + 128 * j + 4 * i + g

/-- Whether a word of a plane of group g of row i carries poison (R305). -/
def SpData.lostGroup (d : SpData) (depth i g : Nat) : Bool := (planeWords depth i g).any d.struck

/-- Whether the group of a row is special (R124). -/
def SpData.special (d : SpData) (i g : Nat) : Bool := d.code i g == 255

/-- The magnitude of element k of row i (R121). -/
def SpData.mag (d : SpData) (depth i k : Nat) : Nat :=
  (List.range depth).foldl (fun m j => 2 * m + d.byte (704 + 512 * j + 16 * i + k / 8) / 2 ^ (k % 8) % 2) 0

/-- The value of element k of row i of a tile (R124, R305). -/
def SpData.elem (d : SpData) (depth i k : Nat) : Dy :=
  let c := d.code i (k / 32)
  if c = 0 ∨ c = 255 ∨ d.lostGroup depth i (k / 32) then ⟨0, 0⟩
  else
    let m : Int := d.mag depth i k
    ⟨if d.byte (192 + 16 * i + k / 8) / 2 ^ (k % 8) % 2 = 1 then -m else m, (c : Int) - 126 - depth⟩

/-- The index that element k of a B row is read at, under the pairs of an A tile's header (R293, R300). -/
def dupIndex (h k : Nat) : Nat :=
  (((List.range (hdrNdup h)).map (dupPair (hdrDup h))).find? fun p => pairSpare p == k).map pairOrig |>.getD k

/-- Element (i, j) of a slice after a quarter operation (R127, R128): a is the A tile, b the B tile with r its row,
da and db their depths, and c the old element. -/
def quarterElem (a : SpData) (da : Nat) (b : SpData) (db i r c : Nat) : Nat :=
  if (List.range 4).any fun g => a.special i g || b.special r g then fp32.nan
  else
    match fp32.decode c with
    | .nan _ => fp32.nan
    | .inf _ => c
    | x =>
      let p := Dy.sum ((List.range 128).map fun k => (a.elem da i k).mul (b.elem db r (dupIndex a.header k)))
      if p.m = 0 then c else (fp32.roundDy .rne false (x.dy.add p)).1

/-! ### The error log -/

/-- An event of the matrix error log (R307), its weft apart. -/
structure MErr where
  kind : Nat
  opnd : Nat
  tile : Nat
  row : Nat
  kidx : Nat
  addr : Nat
  deriving DecidableEq, Repr

/-- A log entry (R307). -/
def MErr.entry (e : MErr) (slice weft : Nat) : Word :=
  BitVec.ofNat 64 (2 ^ 63 + e.kind * 2 ^ 60 + e.opnd * 2 ^ 58 + e.tile * 2 ^ 56 + slice * 2 ^ 52 + e.row * 2 ^ 47
    + e.kidx * 2 ^ 40 + weft * 2 ^ 23 + e.addr % 2 ^ 23)

/-- The flag of merr that an event of a kind sets (R306). -/
def merrFlag (kind : Nat) : Nat := if kind = 5 then 2 ^ 20 else if kind = 4 then 2 ^ 19 else 2 ^ (15 + kind)

/-- The bolt with an event in its error log (R306). -/
def Bolt.logErr (b : Bolt) (slice weft : Nat) (e : MErr) : Bolt :=
  let v := b.merr.toNat
  let count := min (bitsAt v 32 16 + 1) 65535
  let n := bitsAt v 0 4
  let flags := bitsAt v 4 28 * 16 ||| merrFlag e.kind
  if n < 8 then
    { b with
      merr := BitVec.ofNat 64 (count * 2 ^ 32 + flags + (n + 1))
      elog := (List.range 8).map fun i => if i = n then e.entry slice weft else (b.elog[i]?).getD 0 }
  else { b with merr := BitVec.ofNat 64 (count * 2 ^ 32 + (flags ||| 16) + n) }

/-- The bolt with events in its error log, in order. -/
def Bolt.logErrs (b : Bolt) (slice weft : Nat) (es : List MErr) : Bolt :=
  es.foldl (fun b e => b.logErr slice weft e) b

/-- The errors of one tile of a quarter operation as it was read (R305): a failed fill, POIS, and each poisoned word
of its exponent codes and planes. -/
def tileErrs (t : Tile) (d : SpData) (opnd n : Nat) : List MErr :=
  (if t.fill.isSome then [⟨5, opnd, n, 0, 0, t.addr⟩] else [])
    ++ (if hdrPois d.header then [⟨3, opnd, n, 0, 0, t.addr⟩] else [])
    ++ ((List.range 32).filterMap fun i => if d.struck (16 + i) then some ⟨1, opnd, n, i, 0, t.addr⟩ else none)
    ++ (List.range 32).flatMap fun i => (List.range 4).flatMap fun g =>
        ((planeWords t.depth i g).filter d.struck).map fun _ => ⟨1, opnd, n, i, 32 * g, t.addr⟩

/-- The rows of a B tile whose value at a spare index is not zero (R293). -/
def clashRow (b : SpData) (depth ks : Nat) : Option Nat :=
  (List.range 32).find? fun r => (b.elem depth r ks).m != 0 || b.special r (ks / 32)

/-- The DUPCLASH events of one tile of a B set under an A tile's header (R293, R300). -/
def clashErrs (h : Nat) (t : Tile) (d : SpData) (n : Nat) : List MErr :=
  (List.range (hdrNdup h)).filterMap fun j =>
    let ks := pairSpare (dupPair (hdrDup h) j)
    (clashRow d t.depth ks).map fun r => ⟨4, 1, n, r, ks, t.addr⟩

/-! ### Slices -/

/-- The number of element (i, j) of slice k among a bolt's accumulator elements. -/
def accIndex (k i j : Nat) : Nat := 4096 * k + 128 * i + j

/-- An element of a slice as an operation reads it: one that an error struck reads +0 (R305). -/
def Bolt.accElem (b : Bolt) (n : Nat) : Nat := if b.accErr.contains n then 0 else (spGet 0 b.acc n).toNat

/-- The bolt with an element of a slice written, which clears an error of it (R305). -/
def Bolt.setAcc (b : Bolt) (n v : Nat) : Bolt :=
  { b with acc := spPut 0 b.acc n (BitVec.ofNat 32 v), accErr := b.accErr.filter fun x => x != n }

/-- The ACCERR events of a slice in row order (R305). -/
def Bolt.accErrs (b : Bolt) (k : Nat) : List MErr :=
  (List.range 4096).filterMap fun e =>
    if b.accErr.contains (4096 * k + e) then some ⟨2, 2, 0, e / 128, e % 128, 0⟩ else none

/-- The bolt after a quarter operation on slice k (R293): its A tile and its B set with what was read of each. -/
def Bolt.quarter (b : Bolt) (k weft : Nat) (a : Tile × SpData) (bs : List (Tile × SpData)) : Bolt :=
  let errs := tileErrs a.1 a.2 0 0
    ++ ((List.range bs.length).flatMap fun t => match bs[t]? with
        | some x => tileErrs x.1 x.2 1 t
        | none => [])
    ++ (List.range bs.length).flatMap fun t => match bs[t]? with
        | some x => clashErrs a.2.header x.1 x.2 t
        | none => []
  let new := (List.range 4096).map fun e => match bs[e % 128 / 32]? with
    | some x => quarterElem a.2 a.1.depth x.2 x.1.depth (e / 128) (e % 32) (b.accElem (4096 * k + e))
    | none => b.accElem (4096 * k + e)
  let b' := b.logErrs k weft (errs ++ b.accErrs k)
  (List.range 4096).foldl (fun b e => b.setAcc (4096 * k + e) ((new[e]?).getD 0)) b'

/-- The bolt with slice k zeroed (R310). -/
def Bolt.zeroSlice (b : Bolt) (k : Nat) : Bolt :=
  { b with
    acc := b.acc.filter fun p => p.1 / 4096 != k
    accErr := b.accErr.filter fun n => n / 4096 != k }

/-- The poisoned words of an MLDA's source that hold elements, each at its row and its first column (R305). -/
def loadErrs (d : SpData) (addr pitch z : Nat) : List MErr :=
  (List.range 32).flatMap fun i => (List.range (128 * z / 4)).filterMap fun w =>
    if d.struck (i * pitch / 4 + w) then some ⟨1, 2, 0, i, 4 * w / z, addr⟩ else none

/-- The element that MLDA loads from a pattern (R312). -/
def loadElem (bf : Bool) (v : Nat) : Nat :=
  let x := if bf then v * 65536 else v
  if (fp32.decode x).isNan then fp32.nan else x

/-- The bolt after an MLDA into slice k (R312), from what was read of its source. -/
def Bolt.loadSlice (b : Bolt) (k weft : Nat) (d : SpData) (addr pitch : Nat) (bf : Bool) : Bolt :=
  let z := if bf then 2 else 4
  let b' := b.logErrs k weft (loadErrs d addr pitch z)
  (List.range 4096).foldl
    (fun b e =>
      let o := e / 128 * pitch + e % 128 * z
      let v := if d.struck (o / 4) then 0 else loadElem bf (leNat ((d.bytes.drop o).take z))
      b.setAcc (4096 * k + e) v) b'

/-- The bytes of an element of a storage format (R116). -/
def elemBytes (fmt : Nat) : Nat := storeBits fmt / 8

/-- The bytes that MSTA stores for an element (R313): its value in the storage format, where a NaN is the canonical one
(R118). -/
def storeElem (fmt v : Nat) : List Byte :=
  leBytes (elemBytes fmt) (encodeElem fmt (decodeElem 0 v))

/-- Row i of slice k as MSTA stores it. -/
def Bolt.sliceRow (b : Bolt) (k fmt i : Nat) : List Byte :=
  (List.range 128).flatMap fun j => storeElem fmt (b.accElem (accIndex k i j))

/-- The bolt after an MSTA has read slice k: elements that an error struck are +0 (R305, R313). -/
def Bolt.storedSlice (b : Bolt) (k weft : Nat) : Bolt :=
  let hit := b.accErr.filter fun n => n / 4096 == k
  hit.foldl (fun b n => b.setAcc n 0) (b.logErrs k weft (b.accErrs k))

end Sys2Proof.Machine
end

