-- ==== Sys2Proof/Machine/Matrix.lean ====
section
/-! DEFINITION. The matrix array (R290 to R317): its operations from issue to acceptance, handle fills, passes, and
the instructions MMQ, MMQS, MZERO, MLDA, MSTA and MERR. -/

namespace Sys2Proof.Machine

/-! ### Operands as an instruction names them -/

/-- The slice that an offset names (R90, R292, R308). -/
def sliceOf (b : Bolt) (k0 off : Nat) : Except Trap Nat :=
  if b.nslice ≤ k0 + off then .error (Trap.plain .prot (k0 + off)) else .ok (k0 + off)

/-- The slice that an offset in a register names; its other bits must be 0 (R292, R310). -/
def sliceBy (b : Bolt) (f : Fields) (v : Word) : Except Trap Nat :=
  if bitsAt v.toNat 4 60 ≠ 0 then .error ⟨.prot, v, false⟩ else sliceOf b f.rd (bitsAt v.toNat 0 4)

/-- The handle and the source offset that a word names (R292). -/
def handleWord (v : Word) : Nat := bitsAt v.toNat 0 4
def offsetWord (v : Word) : Int := sextN (v.toNat / 256) 56

/-- Operand A of a quarter (R292, R309). -/
def operandA (s : State) (b : Bolt) (f : Fields) (v : Word) : Except Trap Opnd :=
  if f.mod.getLsbD 0 then
    if bitsAt v.toNat 4 4 ≠ 0 ∨ (b.handle? (handleWord v)).isNone then .error ⟨.prot, v, false⟩
    else .ok (.use (handleWord v) (offsetWord v + f.simm) none)
  else
    let a := v.toInt + f.simm
    match spCheck s b a 64 64 with
    | .error t => .error t
    | .ok _ => .ok (.spad a.toNat)

/-- The B set of a quarter (R292, R309). A use of a handle takes its offset from the register alone: `disp` is added for A
only (log entry 91). -/
def operandB (s : State) (b : Bolt) (f : Fields) (v : Word) : Except Trap (List Opnd) :=
  if f.mod.getLsbD 1 then
    let h := handleWord v
    if bitsAt v.toNat 4 4 ≠ 0 ∨ 15 < h + 3 ∨ ((List.range 4).any fun t => (b.handle? (h + t)).isNone) then
      .error ⟨.prot, v, false⟩
    else .ok ((List.range 4).map fun t => .use (h + t) (offsetWord v) none)
  else
    match spCheck s b v.toInt 64 64 with
    | .error t => .error t
    | .ok _ => .ok [.spad v.toNat]

/-- The checks of a quarter at issue, in the order of R309, the crook apart. -/
def quarterChecks (s : State) (b : Bolt) (f : Fields) (l : Lane) : Except Trap (Nat × Opnd × List Opnd) :=
  match sliceBy b f l.c with
  | .error t => .error t
  | .ok k =>
    match operandA s b f l.a with
    | .error t => .error t
    | .ok a =>
      match operandB s b f l.b with
      | .error t => .error t
      | .ok bs => .ok (k, a, bs)

/-! ### Tiles as they become readable -/

/-- What looking at an operand comes to: not readable yet, a trap, or a tile. -/
inductive Look where
  | wait
  | trap (t : Trap)
  | tile (t : Tile)

/-- The tile at a scratchpad address, once its bytes may be read (R294, R309). -/
def lookAt (s : State) (b : Bolt) (addr : Int) (buf : Option (Nat × Nat)) : Look :=
  match spCheck s b addr 64 64 with
  | .error _ => .trap (Trap.int .prot addr)
  | .ok p =>
    if s.scoreboard p.bolt.id p.offset 64 then .wait
    else if p.bolt.poisoned p.offset 64 then .trap (Trap.int .poison addr)
    else
      let h := leNat (p.bolt.bytes p.offset 64)
      if !headerOk h || p.bolt.size < p.offset + tileBytes (hdrDepth h) then .trap (Trap.int .prot addr)
      else if s.scoreboard p.bolt.id p.offset (tileBytes (hdrDepth h)) then .wait
      else .tile ⟨p.bolt.id, p.offset, addr.toNat, hdrDepth h, buf, none⟩

/-- The tile of a buffer of a handle, once its fill has retired (R278, R292, R305). -/
def lookBuffer (s : State) (b : Bolt) (h j : Nat) : Look :=
  match b.handle? h with
  | none => .wait
  | some x =>
    let addr := x.card.dst.toNat + j * x.card.dpitch
    match (x.fills[j]?).getD none with
    | none => lookAt s b addr (some (h, j))
    | some id =>
      match s.job? id with
      | some job =>
        if !job.retired then .wait
        else .tile ⟨b.id, addr % 2 ^ 21, addr, x.card.depth, some (h, j), some id⟩
      | none => .tile ⟨b.id, addr % 2 ^ 21, addr, x.card.depth, some (h, j), some id⟩

/-- The tile of an operand. -/
def lookOpnd (s : State) (b : Bolt) (o : Opnd) : Look :=
  match o with
  | .spad a => lookAt s b a none
  | .use h _ (some j) => lookBuffer s b h j
  | .use _ _ none => .wait

/-- What looking at a list of operands comes to. -/
inductive Looks where
  | wait
  | trap (t : Trap)
  | tiles (ts : List Tile)

/-- The tiles of a B set after the first, whose depth is d (R309). -/
def lookRest (s : State) (b : Bolt) (d : Nat) : List Opnd → Looks
  | [] => .tiles []
  | o :: os =>
    match lookOpnd s b o with
    | .wait => .wait
    | .trap t => .trap t
    | .tile t =>
      if t.depth ≠ d then .trap (Trap.plain .prot t.addr)
      else match lookRest s b d os with
        | .tiles ts => .tiles (t :: ts)
        | r => r

/-- The tiles of a B set (R292, R309): in the scratchpad its later tiles follow the first at its depth. -/
def lookSet (s : State) (b : Bolt) (bs : List Opnd) : Looks :=
  match bs with
  | [] => .wait
  | o :: os =>
    match lookOpnd s b o with
    | .wait => .wait
    | .trap t => .trap t
    | .tile t0 =>
      let rest := match o with
        | .spad a => (List.range 3).map fun t => Opnd.spad (a + (t + 1) * tileBytes t0.depth)
        | .use _ _ _ => os
      match lookRest s b t0.depth rest with
      | .tiles ts => .tiles (t0 :: ts)
      | r => r

/-! ### Acceptance -/

/-- The operations that the array of a core holds at most (R296). -/
def arrayRoom : Nat := 32

/-- Whether the array of a core has room. -/
def State.arrayFree (s : State) (core : Nat) : Bool := (s.wcore core).aq.length < arrayRoom

/-- The state with an operation accepted by the array of a bolt's core (R296). -/
def State.acceptOp (s : State) (b : Bolt) (weft stage slice : Nat) (kind : ArrKind) : State :=
  let c := s.wcore b.core
  let o : ArrOp :=
    { id := s.seq, bolt := b.id, widx := weft, stage, pid := b.pid, slice, cycle := c.cyc, kind, data := none }
  (s.putW b.core { c with aq := c.aq ++ [o] }).bump

/-- What accepting a waiting operation comes to: it must wait, it traps, or the state that holds it accepted. -/
inductive Accept where
  | wait
  | trap (t : Trap)
  | ok (s : State)

/-- The acceptance of a quarter of a weft (R294, R304, R309): it waits for the crook once its tiles have passed their
checks. -/
def State.acceptQuarter (s : State) (b : Bolt) (widx slice : Nat) (sparse : Bool) (a : Opnd) (bs : List Opnd) : Accept :=
  let st := widx % b.nstage
  match lookOpnd s b a with
  | .wait => .wait
  | .trap t => .trap t
  | .tile ta =>
    match lookSet s b bs with
    | .wait => .wait
    | .trap t => .trap t
    | .tiles tb =>
      if !s.holds b st || !s.arrayFree b.core then .wait
      else
        .ok ((s.acceptOp b widx st slice (.quarter ta tb sparse)).modCrook b.core fun c =>
          { c with lastAcc := some (s.wcore b.core).cyc })

/-- The acceptance of an MSTA (R295). -/
def State.acceptStore (s : State) (b : Bolt) (widx slice : Nat) (dst : SpRange) (addr pitch fmt : Nat) : Accept :=
  let n := dst.hi - dst.lo
  if s.scoreboard dst.bolt dst.lo n || s.storeGuard dst.bolt dst.lo n || !s.arrayFree b.core then .wait
  else .ok (s.acceptOp b widx (widx % b.nstage) slice (.store dst addr pitch fmt))

/-- The acceptance of what a wait holds. -/
def State.acceptWait (s : State) (b : Bolt) (widx : Nat) (q : QWait) : Accept :=
  match q.kind with
  | .quarter _ sparse a bs => s.acceptQuarter b widx q.slice sparse a bs
  | .store dst addr pitch fmt => s.acceptStore b widx q.slice dst addr pitch fmt

/-! ### Waits -/

/-- The quarter of a wait; an MSTA's stands for the whole weft. -/
def QWait.quarter? (q : QWait) : Option Nat :=
  match q.kind with
  | .quarter n _ _ _ => some n
  | .store _ _ _ _ => none

/-- The lanes of a weft that stand at a wait's instruction and share its outcome (R291), lowest first. -/
def State.sharers (s : State) (w : Weft) (q : QWait) : List Nat :=
  (w.members.filter fun p =>
    (match q.quarter? with | some n => p.1 / 8 == n | none => true)
      && (match s.thread? p.2 with | some t => t.active && t.pc == q.pc | none => false)).map (·.2)

/-- Whether a wait still stands for the lanes that issued it: its leader is the lowest of them. -/
def State.waitStands (s : State) (w : Weft) (q : QWait) : Bool := (s.sharers w q).head? == some q.leader

/-- The kind of a wait without the buffers it has been given. -/
def WaitKind.plain (k : WaitKind) : WaitKind :=
  let bare (o : Opnd) : Opnd := match o with | .use h x _ => .use h x none | o => o
  match k with
  | .quarter n sp a bs => .quarter n sp (bare a) (bs.map bare)
  | k => k

/-- Whether two waits are one instruction's for the same lanes. -/
def QWait.same (p q : QWait) : Bool :=
  p.leader == q.leader && p.pc == q.pc && p.f == q.f && p.slice == q.slice && p.kind.plain == q.kind.plain

/-- The weft with a wait in its queue: one that stands there already keeps its place and its buffers; others at the
same instruction for the same lanes go. -/
def Weft.enqueue (w : Weft) (q : QWait) : Weft :=
  if w.waitQ.any fun p => p.same q then { w with waitQ := w.waitQ.filter fun p => p.same q || p.pc != q.pc || p.quarter? != q.quarter? }
  else { w with waitQ := (w.waitQ.filter fun p => p.pc != q.pc || p.quarter? != q.quarter?) ++ [q] }

/-- The weft without a wait. -/
def Weft.dequeue (w : Weft) (q : QWait) : Weft := { w with waitQ := w.waitQ.filter fun p => !p.same q }

/-- The buffer of a handle that holds an offset (R278). -/
def Handle.hit (x : Handle) (o : Int) : Option Nat := (List.range x.nbuf).find? fun j => (x.offs[j]?).getD none == some o

/-- Operands with the buffers that hits give them, up to the first use that needs a fill (R278). -/
def giveBuffers (b : Bolt) : List Opnd → List Opnd
  | [] => []
  | .use h o none :: os =>
    match (b.handle? h).bind fun x => x.hit o with
    | some j => .use h o (some j) :: giveBuffers b os
    | none => .use h o none :: os
  | o :: os => o :: giveBuffers b os

/-- A wait whose uses have the buffers that hits give them. -/
def QWait.give (b : Bolt) (q : QWait) : QWait :=
  match q.kind with
  | .quarter n sp a bs =>
    match giveBuffers b (a :: bs) with
    | a :: bs => { q with kind := .quarter n sp a bs }
    | [] => q
  | .store _ _ _ _ => q

/-- Whether a use of a wait has no buffer yet. -/
def QWait.lacks (q : QWait) : Bool := q.opnds.any fun o => match o with | .use _ _ none => true | _ => false

/-- Waits with buffers given in order: none to a wait behind one that lacks a buffer. -/
def giveAll (b : Bolt) : List QWait → List QWait
  | [] => []
  | q :: qs =>
    let q := q.give b
    if q.lacks then q :: qs else q :: giveAll b qs

/-- The state with a weft's waits given the buffers that hits give them, those that no longer stand apart. -/
def State.giveWaits (s : State) (core slot : Nat) (b : Bolt) : State :=
  s.modWeft core slot fun w => { w with waitQ := giveAll b (w.waitQ.filter fun q => s.waitStands w q) }

/-- Whether a wait is the first of its weft: the operations of a weft are accepted in issue order (R296). -/
def Weft.firstAt (w : Weft) (q : QWait) : Bool := w.waitQ.head? == some q

/-- The outcome of the first wait of a weft that still stands: its lanes complete or trap. -/
def State.tryWait (s : State) (core slot : Nat) (w : Weft) (b : Bolt) (q : QWait) : Option State :=
  if (w.waitQ.find? fun p => s.waitStands w p) != some q then none
  else
    let tids := s.sharers w q
    match s.acceptWait b w.widx q with
    | .wait => none
    | .trap t => some ((trapTids s q.f tids t).modWeft core slot fun w => w.dequeue q)
    | .ok k => some ((doneTids k q.f tids none).modWeft core slot fun w => w.dequeue q)

/-- The first wait of a weft, of a kind, that is accepted or traps. -/
def State.tryWaits (s : State) (core slot : Nat) (kind : QWait → Bool) : Option State :=
  match s.weft? core slot with
  | none => none
  | some w =>
    match s.bolt? w.bolt with
    | none => none
    | some b => if b.evicting then none else (w.waitQ.filter kind).findSome? fun q => s.tryWait core slot w b q

/-- QUARTER_ACCEPT (R294, R304, R309). -/
def tryQuarterAccept (core slot : Nat) (s : State) : Option State := s.tryWaits core slot fun q => q.quarter?.isSome

/-- QUARTER_ACCEPT. -/
def execQuarterAccept (core slot : Nat) (s : State) : Result := .next ((tryQuarterAccept core slot s).getD s)

/-- MSTA_ACCEPT (R295). -/
def tryMstaAccept (core slot : Nat) (s : State) : Option State := s.tryWaits core slot fun q => q.quarter?.isNone

/-- MSTA_ACCEPT. -/
def execMstaAccept (core slot : Nat) (s : State) : Result := .next ((tryMstaAccept core slot s).getD s)

/-! ### Handle fills -/

/-- A region with its start advanced by some bytes (R278). -/
def Region.advance (r : Region) (o : Int) : Region := { r with lo := ((r.lo : Int) + o).toNat }

/-- A template's card for a use at a source offset into buffer j (R278). -/
def Card.forUse (c : Card) (o : Int) (j : Nat) : Card :=
  { c with
    src := c.src + wordOfInt o, sca := if c.satt = 0 then c.sca else c.sca + wordOfInt o
    dst := c.dst + BitVec.ofNat 64 (j * c.dpitch), reads := c.reads.map fun r => r.advance o }

/-- The buffer of a handle that a fill takes: one without a pending reader, the least recently filled (R278). -/
def State.fillBuffer (s : State) (b : Bolt) (h : Nat) (x : Handle) : Option Nat :=
  let free := (List.range x.nbuf).filter fun j => s.readersOf b h j == 0
  if free.contains x.oldest then some x.oldest else free.head?

/-- The job that fills buffer j of a handle for a use at offset o (R278). -/
def State.fillJob (s : State) (t : Thread) (b : Bolt) (h : Nat) (x : Handle) (o : Int) (j : Nat) : Job :=
  let c := x.card.forUse o j
  { t.newJob s (.fill c b.id h j) ((resolveAll s t (some b) false c.reads).getD [])
      ((resolveAll s t (some b) true c.writes).getD []) with seq := c.seq }

/-- The handle with a fill of buffer j under way (R278). -/
def Handle.filling (x : Handle) (o : Int) (j job : Nat) : Handle :=
  { x with offs := x.offs.set j (some o), fills := x.fills.set j (some job), oldest := if x.nbuf = 2 then 1 - j else 0 }

/-- The first use without a buffer in the queue of a weft, with the thread that issued it. -/
def firstLack (qs : List QWait) : Option (Nat × Nat × Int) :=
  qs.findSome? fun q => q.opnds.findSome? fun o => match o with
    | .use h x none => some (q.leader, h, x)
    | _ => none

/-- HANDLE_FILL (R278): the first use of a weft without a buffer submits a fill, once a buffer has no pending
reader and the core's engine has room. -/
def tryHandleFill (core slot : Nat) (s : State) : Option State :=
  match (s.weft? core slot).bind fun w => (s.bolt? w.bolt).map fun b => (w, b) with
  | none => none
  | some (_, b) =>
    let s := s.giveWaits core slot b
    match ((s.weft? core slot).map Weft.waitQ).bind firstLack with
    | none => none
    | some (tid, h, o) =>
      match s.thread? tid, b.handle? h with
      | some t, some x =>
        match s.fillBuffer b h x with
        | none => none
        | some j =>
          let job := s.fillJob t b h x o j
          if b.evicting || !s.acceptsNow core job || !s.performed tid then none
          else
            let k := s.acceptJob core job
            let k := k.modBolt b.id fun b =>
              { b with handles := tabPut b.handles h (x.filling o j (s.nextHandle core)) }
            some (match k.bolt? b.id with | some b => k.giveWaits core slot b | none => k)
      | _, _ => none

/-- HANDLE_FILL. -/
def execHandleFill (core slot : Nat) (s : State) : Result := .next ((tryHandleFill core slot s).getD s)

/-! ### Issue -/

/-- The state with the note that an instruction waits for the array's queue, if it is full (R153, R296). -/
def State.noteArray (s : State) (core : Nat) : State :=
  if s.arrayFree core then s else { s with note := { s.note with unit := true } }

/-- The slot of a lane's weft. -/
def Thread.slot (t : Thread) : Nat := match t.loc with | .member _ slot _ => slot | _ => 0

/-- An operation of a lane submitted to the array: accepted at once, trapped, or waiting (R294, R295). -/
def submitWait (s : State) (l : Lane) (b : Bolt) (q : QWait) : Act :=
  let slot := l.thread.slot
  let queue (k : State) : State := (k.modWeft b.core slot fun w => w.enqueue q).giveWaits b.core slot b
  let k := queue s
  match k.weft? b.core slot with
  | none => .wait queue
  | some w =>
    match w.waitQ.find? fun p => p.same q with
    | none => .wait queue
    | some p =>
      if !w.firstAt p then .wait queue
      else
        match k.acceptWait b w.widx p with
        | .ok k => .done (k.modWeft b.core slot fun w => w.dequeue p)
        | .trap t => .trapAfter (fun s => s.modWeft b.core slot fun w => w.dequeue p) t
        | .wait => .wait fun s => (queue s).noteArray b.core

/-- MMQ and MMQS for the leader of a quarter (R304, R309). -/
def mmqLane (f : Fields) (sparse : Bool) : Body := fun s l => onArray s l fun b =>
  let st := l.thread.weftStage b
  if !s.holds b st && !s.due b st then .trap ⟨.crook, s.crookStatus b, false⟩ false
  else
    match quarterChecks s b f l with
    | .error t => .trap t false
    | .ok (k, a, bs) => submitWait s l b ⟨l.tid, l.thread.pc, f, k, .quarter (l.lane / 8) sparse a bs⟩

/-- The leaders of the active quarters of an issue (R291). -/
def State.quarterLeads (s : State) : List Lead :=
  (List.range 4).filterMap fun q => match s.issueLanes.filter fun p => p.1 / 8 == q with
    | [] => none
    | (i, t) :: rest => some ⟨i, t, t.tid :: rest.map fun p => p.2.tid⟩

/-- MMQ (R309). -/
def execMmq (f : Fields) (s : State) : Result := issueLeads rMmq f s.quarterLeads (mmqLane f false) s
/-- MMQS (R309). -/
def execMmqs (f : Fields) (s : State) : Result := issueLeads rMmq f s.quarterLeads (mmqLane f true) s

/-- An operation that waits for nothing but the earlier operations of its weft and room in the array's queue (R294,
R296). -/
def submitNow (s : State) (l : Lane) (b : Bolt) (slice : Nat) (kind : ArrKind) : Act :=
  if s.matrixWaits b l.thread.weft then .wait fun k => k
  else if s.arrayFree b.core then .done (s.acceptOp b l.thread.weft (l.thread.weftStage b) slice kind)
  else .wait fun k => k.noteArray b.core

/-- MZERO (R310). -/
def execMzero (f : Fields) (s : State) : Result :=
  issueOnce rMzero f
    (fun s l => onArray s l fun b =>
      match sliceBy b f l.a with
      | .error t => .trap t false
      | .ok k => submitNow s l b k .zero) s

/-- What the checks of MLDA and MSTA give (R311): the slice, the scratchpad range, its address and the pitch. -/
structure Move where
  slice : Nat
  range : SpRange
  addr : Nat
  pitch : Nat
  deriving DecidableEq, Repr

/-- The checks of MLDA and MSTA on elements of z bytes (R311). -/
def moveCheck (s : State) (b : Bolt) (f : Fields) (l : Lane) (z : Nat) : Except Trap Move :=
  let a := l.addr f
  let w := l.b.toNat
  let p := bitsAt w 0 16
  let n := 31 * p + 128 * z
  if a % 16 ≠ 0 then .error (Trap.int .align a)
  else if bitsAt w 20 44 ≠ 0 ∨ p % 16 ≠ 0 ∨ p < 128 * z then .error ⟨.prot, l.b, false⟩
  else
    match spCheck s b a 16 n with
    | .error _ => .error (Trap.int .prot a)
    | .ok r =>
      match sliceOf b f.rd (bitsAt w 16 4) with
      | .error t => .error t
      | .ok k => .ok ⟨k, ⟨r.bolt.id, r.offset, r.offset + n⟩, a.toNat, p⟩

/-- MLDA (R294, R312). -/
def issueMlda (bf : Bool) (f : Fields) (s : State) : Result :=
  issueOnce rMlda f
    (fun s l => onArray s l fun b =>
      match moveCheck s b f l (if bf then 2 else 4) with
      | .error t => .trap t false
      | .ok m =>
        if s.scoreboard m.range.bolt m.range.lo (m.range.hi - m.range.lo) then .wait fun k => k
        else submitNow s l b m.slice (.load m.range m.addr m.pitch bf)) s

/-- MLDA.f32 (R312). -/
def execMldaF32 (f : Fields) (s : State) : Result := issueMlda false f s
/-- MLDA.bf (R312). -/
def execMldaBf (f : Fields) (s : State) : Result := issueMlda true f s

/-- MSTA (R295, R313) into a storage format. -/
def issueMsta (fmt : Nat) (f : Fields) (s : State) : Result :=
  issueOnce rMlda f
    (fun s l => onArray s l fun b =>
      match moveCheck s b f l (elemBytes fmt) with
      | .error t => .trap t false
      | .ok m => submitWait s l b ⟨l.tid, l.thread.pc, f, m.slice, .store m.range m.addr m.pitch fmt⟩) s

/-- MSTA.f32 (R313). -/
def execMstaF32 (f : Fields) (s : State) : Result := issueMsta 0 f s
/-- MSTA.bf (R313). -/
def execMstaBf (f : Fields) (s : State) : Result := issueMsta 2 f s
/-- MSTA.h (R313). -/
def execMstaH (f : Fields) (s : State) : Result := issueMsta 1 f s
/-- MSTA.e4 (R313). -/
def execMstaE4 (f : Fields) (s : State) : Result := issueMsta 3 f s
/-- MSTA.e5 (R313). -/
def execMstaE5 (f : Fields) (s : State) : Result := issueMsta 4 f s

/-- Whether operations of a lane's weft wait for the array or are held by it (R316). -/
def weftBusy (s : State) (l : Lane) (b : Bolt) : Bool :=
  ((s.wcore b.core).aq.any fun o => o.bolt == b.id && o.widx == l.thread.weft) || s.matrixWaits b l.thread.weft

/-- The entry of a bolt's error log as it reads (R306, R316). -/
def Bolt.logEntry (b : Bolt) (e : Nat) : Word := if e < bitsAt b.merr.toNat 0 4 then (b.elog[e]?).getD 0 else 0

/-- MERR.r (R316). -/
def execMerrR (f : Fields) (s : State) : Result :=
  issueOnce rMerr f
    (fun s l => onArray s l fun b =>
      if weftBusy s l b then .wait fun k => k
      else if bitsAt l.a.toNat 3 61 ≠ 0 then .trap ⟨.prot, l.a, false⟩ false
      else .value s (b.logEntry (bitsAt l.a.toNat 0 3))) s

/-- MERR.c (R316). -/
def execMerrC (f : Fields) (s : State) : Result :=
  issueOnce rNone f
    (fun s l => onArray s l fun b =>
      if weftBusy s l b then .wait fun k => k
      else .done (s.modBolt b.id fun b => { b with merr := 0, elog := List.replicate 8 0 })) s

/-! ### Performing -/

/-- Bytes of an allotment with their poisoned words, as the array reads them (R305). -/
def State.spRead (s : State) (bolt lo n : Nat) : SpData :=
  match s.bolt? bolt with
  | some b =>
    ⟨b.bytes lo n, b.spPoison.filterMap fun w => if lo / 4 ≤ w ∧ 4 * w < lo + n then some (w - lo / 4) else none⟩
  | none => ⟨List.replicate n 0, []⟩

/-- A tile as the array reads it: zero groups where its fill failed (R305). -/
def State.tileRead (s : State) (t : Tile) : SpData :=
  if t.fill.isSome then ⟨List.replicate (tileBytes t.depth) 0, []⟩ else s.spRead t.bolt t.offset (tileBytes t.depth)

/-- What an operation reads of the scratchpad. -/
def ArrOp.sources (o : ArrOp) (s : State) : List SpData :=
  match o.kind with
  | .quarter a bs _ => (a :: bs).map s.tileRead
  | .load src _ _ _ => [s.spRead src.bolt src.lo (src.hi - src.lo)]
  | _ => []

/-- An operation that has read its sources, which ends its guards (R294). -/
def ArrOp.read (o : ArrOp) (s : State) : ArrOp := if o.data.isSome then o else { o with data := some (o.sources s) }

/-- The bolt that owns a slice after an operation on it; an MSTA's writes apart. -/
def ArrOp.run (o : ArrOp) (b : Bolt) : Bolt :=
  let d := o.data.getD []
  match o.kind, d with
  | .quarter a bs _, da :: db => b.quarter o.slice o.widx (a, da) (bs.zip db)
  | .load _ addr pitch bf, src :: _ => b.loadSlice o.slice o.widx src addr pitch bf
  | .zero, _ => b.zeroSlice o.slice
  | .store _ _ _ _, _ => b.storedSlice o.slice o.widx
  | _, _ => b

/-- The state with an operation performed on its slice and gone from the array of its core (R296). -/
def State.perform (s : State) (core : Nat) (o : ArrOp) : State :=
  let c := s.wcore core
  let s := s.putW core { c with aq := c.aq.filter fun x => x.id != o.id }
  (s.modBolt o.bolt (o.read s).run).reap

/-- Whether an older operation on the slice of an operation is still to be performed (R296). -/
def WCore.slicePending (c : WCore) (o : ArrOp) : Bool :=
  c.aq.any fun x => x.id < o.id && x.bolt == o.bolt && x.slice == o.slice

/-- Whether an operation is a quarter operation. -/
def ArrOp.isQuarter (o : ArrOp) : Bool := match o.kind with | .quarter _ _ _ => true | _ => false

/-- The tiles of a quarter operation. -/
def ArrOp.tiles (o : ArrOp) : Option (Tile × List Tile × Bool) :=
  match o.kind with
  | .quarter a bs sparse => some (a, bs, sparse)
  | _ => none

/-- Whether two quarter operations name the same B set (R299). -/
def sameSet (o p : ArrOp) : Bool :=
  match o.tiles, p.tiles with
  | some (_, x, _), some (_, y, _) =>
    x.map (fun t => (t.bolt, t.offset, t.depth, t.buf)) == y.map fun t => (t.bolt, t.offset, t.depth, t.buf)
  | _, _ => false

/-- Whether an older quarter operation of another holder stands before an operation (R302). -/
def WCore.behindHolder (c : WCore) (o : ArrOp) : Bool :=
  c.aq.any fun x => x.isQuarter && x.id < o.id && !(x.bolt == o.bolt && x.stage == o.stage)

/-- The oldest quarter operation that a pass may begin with (R299, R302): no older one of another holder stands. -/
def WCore.passLead (c : WCore) : Option ArrOp :=
  c.aq.find? fun o => o.isQuarter && !c.slicePending o && !c.behindHolder o

/-- The group of quarter operations that a lead begins (R299); none passes one of another holder (R302). -/
def WCore.passGroup (c : WCore) (q0 : ArrOp) : List ArrOp :=
  c.aq.foldl
    (fun g o =>
      if q0.id < o.id && o.isQuarter && o.bolt == q0.bolt && o.stage == q0.stage && sameSet o q0
          && o.cycle ≤ q0.cycle + 4 && g.length < 8 && !c.slicePending o && !c.behindHolder o then g ++ [o] else g) [q0]

/-- Whether a pass that starts now is a burst start (R367). -/
def WCore.burstStart (c : WCore) : Bool := c.cluster.lastEnd + 256 ≤ c.cyc

/-- The lead of the pass that a core could start now, the burst grant apart (R299, R366). -/
def WCore.ready (c : WCore) : Option ArrOp :=
  if c.pass.isSome then none
  else c.passLead.filter fun o => o.cycle + 4 ≤ c.cyc && c.cluster.nextPass ≤ c.cyc

/-- The quarter operation whose burst start waits for its grant (R367). -/
def WCore.burstWaits (c : WCore) : Option ArrOp := if c.burstStart && !c.cluster.burstOk then c.ready else none

/-- Whether an operation is a store. -/
def ArrOp.isStore (o : ArrOp) : Bool := match o.kind with | .store _ _ _ _ => true | _ => false

/-- MLDA_PERFORM (R296, R310, R312): not while a burst start waits, to whose group the wait adds nothing (R367). -/
def tryMldaPerform (core : Nat) (s : State) : Option State :=
  let c := s.wcore core
  if c.burstWaits.isSome then none
  else (c.aq.find? fun o => !o.isQuarter && !o.isStore && !c.slicePending o).map fun o => s.perform core o

/-- MLDA_PERFORM. -/
def execMldaPerform (core : Nat) (s : State) : Result := .next ((tryMldaPerform core s).getD s)

/-- An operation that reads its sources when they meet a range. -/
def ArrOp.readIfMeets (s : State) (r : SpRange) (o : ArrOp) : ArrOp :=
  if (o.reads.any fun x => x.meets r.bolt r.lo (r.hi - r.lo)) = true then o.read s else o

/-- The state in which every array has read the sources of its operations that meet a range (R294). -/
def State.readMeeting (s : State) (r : SpRange) : State :=
  { s with wcores := s.wcores.map fun p => (p.1, { p.2 with aq := p.2.aq.map (ArrOp.readIfMeets s r) }) }

/-- The state with the rows of a slice stored (R313). -/
def State.storeRows (s : State) (b : Bolt) (o : ArrOp) (dst : SpRange) (pitch fmt : Nat) : State :=
  (List.range 32).foldl
    (fun s i => s.modBolt dst.bolt fun t => t.write (dst.lo + i * pitch) (b.sliceRow o.slice fmt i)) s

/-- MSTA_WRITE (R295, R296, R313): the sources that its writes meet are read first. It waits as MLDA_PERFORM does. -/
def tryMstaWrite (core : Nat) (s : State) : Option State :=
  let c := s.wcore core
  match if c.burstWaits.isSome then none else c.aq.find? fun o => o.isStore && !c.slicePending o with
  | none => none
  | some o =>
    match o.kind, s.bolt? o.bolt with
    | .store dst _ pitch fmt, some b => some (((s.readMeeting dst).storeRows b o dst pitch fmt).perform core o)
    | _, _ => none

/-- MSTA_WRITE. -/
def execMstaWrite (core : Nat) (s : State) : Result := .next ((tryMstaWrite core s).getD s)

/-! ### Passes -/

/-- ⌈a / b⌉. -/
def ceilDiv (a b : Nat) : Nat := (a + b - 1) / b

/-- The cycles of a pass (R298), from what its operations have read. -/
def passLength (g : List ArrOp) : Nat :=
  let a (o : ArrOp) : Nat := (o.tiles.map fun t => t.1.depth).getD 0
  let db := ((g.head?.bind ArrOp.tiles).bind fun t => t.2.1.head?).map Tile.depth |>.getD 0
  let da := g.foldl (fun m o => max m (a o)) 0
  let header (o : ArrOp) : Nat := ((o.data.getD []).head?.map SpData.header).getD 0
  let sparse := g.all fun o => (o.tiles.map fun t => t.2.2).getD false && hdrSparse (header o)
  let n := if sparse then g.foldl (fun m o => max m (hdrNsp (header o))) 0 else 32
  ceilDiv (16 * db * ceilDiv da 8 * max n 8) 32

/-- The operations of the pass that a lead begins (R299): at a burst start, none but those that it had when its grant
came (R367). -/
def WCore.passOps (c : WCore) (q0 : ArrOp) : List Nat :=
  ((c.passGroup q0).filter fun o => o.id == q0.id || !c.burstStart || c.cluster.burstOps.contains o.id).map ArrOp.id

/-- PASS_START (R299, R367): the pass's operations read their sources. -/
def tryPassStart (core : Nat) (s : State) : Option State :=
  let c := s.wcore core
  match c.ready with
  | none => none
  | some q0 =>
    if c.burstStart && !c.cluster.burstOk then none
    else
      let ids := c.passOps q0
      let aq := c.aq.map fun o => if ids.contains o.id then o.read s else o
      let g := aq.filter fun o => ids.contains o.id
      let p : Pass :=
        { ops := ids, start := c.cyc, len := passLength g, quarters := g.length, pid := q0.pid, bolt := q0.bolt }
      some ({ s with intervalPids := addrAdd s.intervalPids q0.pid }.putW core
        { c with aq, pass := some p, cluster := { c.cluster with burstOk := false, burstOps := [] } })

/-- PASS_START. -/
def execPassStart (core : Nat) (s : State) : Result := .next ((tryPassStart core s).getD s)

/-- The idle cycles that follow a pass under a throttle limit (R366). -/
def throttleIdle (limit : Option Nat) (q c : Nat) : Nat :=
  match limit with
  | some l => if l < 2 * q then ceilDiv (c * (2 * q - l)) l else 0
  | none => 0

/-- The throttle limit in force on a cluster: that of a window that exceeded, and that of trip 2 (R366, R374). -/
def State.throttleLimit (s : State) (core : Nat) : Option Nat :=
  match (s.wcore core).cluster.throttle, s.hot core with
  | some l, true => some (min l 8)
  | some l, false => some l
  | none, true => some 8
  | none, false => none

/-- PASS_COMPLETE (R293, R299): the pass's operations are performed in order. -/
def tryPassComplete (core : Nat) (s : State) : Option State :=
  let c := s.wcore core
  match c.pass with
  | none => none
  | some p =>
    if c.cyc < p.start + p.len then none
    else
      let stop := p.start + p.len
      let cl := { c.cluster with lastEnd := stop, nextPass := stop + throttleIdle (s.throttleLimit core) p.quarters p.len }
      let s := s.putW core { c with pass := none, cluster := cl }
      some ((c.aq.filter fun o => p.ops.contains o.id).foldl (fun s o => s.perform core o) s)

/-- PASS_COMPLETE. -/
def execPassComplete (core : Nat) (s : State) : Result := .next ((tryPassComplete core s).getD s)

/-! ### Burst grants -/

/-- The weft cores of a quadrant (R12). -/
def quadrantCores (q : Nat) : List Nat := (List.range 144).filter fun c => quadrantOf c == q

/-- The onset of the active declaration of a bolt, in ticks (R364). -/
def State.activeOnset (s : State) (bolt : Nat) : Option Nat :=
  ((s.bolt? bolt).bind Bolt.decl).bind fun d => if d.active then some d.since else none

/-- Whether one waiting burst start precedes another (R367): by onset, those without one last, then by core. -/
def startBefore (a b : Option Nat × Nat) : Bool :=
  match a.1, b.1 with
  | some x, some y => x < y || (x == y && a.2 < b.2)
  | some _, none => true
  | none, some _ => false
  | none, none => a.2 < b.2

/-- The core whose burst start a quadrant grants next (R367). -/
def State.nextBurst (s : State) (quadrant : Nat) : Option Nat :=
  ((quadrantCores quadrant).filterMap fun c =>
    let w := s.wcore c
    w.burstWaits.map fun o => (s.activeOnset o.bolt, c)).foldl
    (fun m x => match m with
      | none => some x
      | some y => if startBefore x y then some x else some y) none |>.map (·.2)

/-- The group of a burst start (R299, R367): an operation accepted in the last cycle of the window belongs to it only when
the start has not waited beyond that cycle. -/
def WCore.burstGroup (c : WCore) (q0 : ArrOp) : List Nat :=
  ((c.passGroup q0).filter fun o => c.cyc == q0.cycle + 4 || o.cycle < q0.cycle + 4).map ArrOp.id

/-- BURST_START_GRANT (R367): at least 121.9 ns after the quadrant's previous grant. The model's clock for it is the
global tick, so it takes four ticks of 32 ns (log entry 89). -/
def tryBurstStartGrant (quadrant : Nat) (s : State) : Option State :=
  let due := match tabGet s.grants quadrant with
    | some g => g + 4 ≤ s.gtick
    | none => true
  if !due then none
  else
    (s.nextBurst quadrant).map fun c =>
      let w := s.wcore c
      { s.putW c { w with cluster := { w.cluster with
          burstOk := true, burstOps := (w.ready.map w.burstGroup).getD [] } } with
        grants := tabPut s.grants quadrant s.gtick }

/-- BURST_START_GRANT. -/
def execBurstStartGrant (quadrant : Nat) (s : State) : Result := .next ((tryBurstStartGrant quadrant s).getD s)

end Sys2Proof.Machine
end

