-- ==== Sys2Proof/Machine/Packed.lean ====
section
/-! DEFINITION. The packed group (R144 to R151). -/

namespace Sys2Proof

/-- Modifier .n in layout P (R79). -/
def Fields.pn (f : Fields) : Bool := f.mod.getLsbD 0

/-- Modifier .sat in layout P (R79). -/
def Fields.psat (f : Fields) : Bool := f.mod.getLsbD 1

end Sys2Proof

namespace Sys2Proof.Machine

/-- Element width and count (R144). -/
def elemBits (n : Bool) : Nat := if n then 4 else 8
def elemCount (n : Bool) : Nat := if n then 16 else 8

/-- Element i of width w, unsigned and signed (R144). -/
def elemU (w v i : Nat) : Nat := bitsAt v (w * i) w
def elemS (w v i : Nat) : Int := sextN (elemU w v i) w

/-- A register from k elements of width w, of which the low w bits are kept (R144). -/
def packElems (w k : Nat) (g : Nat → Int) : Word :=
  BitVec.ofNat 64 ((List.range k).foldl (fun acc i => acc + (g i % 2 ^ w).toNat * 2 ^ (w * i)) 0)

/-- sat of R144. -/
def satTo (v lo hi : Int) : Int := if v < lo then lo else if hi < v then hi else v

/-- The bounds of elements of a width (R144). -/
def signedLo (w : Nat) : Int := -(2 ^ (w - 1))
def signedHi (w : Nat) : Int := 2 ^ (w - 1) - 1
def unsignedHi (w : Nat) : Int := 2 ^ w - 1

/-- An issue of an element-wise instruction (R145): the exact value of each element from the operands'
elements, and the bounds it saturates to with .sat. -/
def elementwise (r : OpRule) (f : Fields) (signed : Bool) (op : Int → Int → Int) (s : State) : Result :=
  issueValue r f
    (fun l =>
      let w := elemBits f.pn
      let at_ (v : Word) (i : Nat) : Int := if signed then elemS w v.toNat i else (elemU w v.toNat i : Int)
      let lo := if signed then signedLo w else 0
      let hi := if signed then signedHi w else unsignedHi w
      packElems w (elemCount f.pn) fun i =>
        let v := op (at_ l.a i) (at_ l.b i)
        if f.psat then satTo v lo hi else v) s

/-- PADD (R145). -/
def execPadd (f : Fields) (s : State) : Result := elementwise rPackSat f true (· + ·) s
/-- PADDU (R145). -/
def execPaddu (f : Fields) (s : State) : Result := elementwise rPackSat f false (· + ·) s
/-- PSUB (R145). -/
def execPsub (f : Fields) (s : State) : Result := elementwise rPackSat f true (· - ·) s
/-- PSUBU (R145). -/
def execPsubu (f : Fields) (s : State) : Result := elementwise rPackSat f false (· - ·) s
/-- PMUL (R145). -/
def execPmul (f : Fields) (s : State) : Result := elementwise rPackSat f true (· * ·) s
/-- PMIN (R145). -/
def execPmin (f : Fields) (s : State) : Result := elementwise rPack f true min s
/-- PMINU (R145). -/
def execPminu (f : Fields) (s : State) : Result := elementwise rPack f false min s
/-- PMAX (R145). -/
def execPmax (f : Fields) (s : State) : Result := elementwise rPack f true max s
/-- PMAXU (R145). -/
def execPmaxu (f : Fields) (s : State) : Result := elementwise rPack f false max s
/-- PAVG (R145). -/
def execPavg (f : Fields) (s : State) : Result := elementwise rPack f false (fun a b => (a + b + 1) / 2) s
/-- PABS (R145). -/
def execPabs (f : Fields) (s : State) : Result := elementwise rPack1 f true (fun a _ => (a.natAbs : Int)) s

/-- PCMP (R146). -/
def execPcmp (f : Fields) (s : State) : Result :=
  issueValue rPcmp f
    (fun l =>
      let w := elemBits f.pn
      packElems w (elemCount f.pn) fun i =>
        if condHolds f.pcond (elemS w l.a.toNat i) (elemS w l.b.toNat i) (elemU w l.a.toNat i)
            (elemU w l.b.toNat i) then -1 else 0) s

/-- The selector of PSHUF (R147). -/
def shufSelector (f : Fields) (b : Word) : Nat :=
  if f.form = .x then
    let v := f.imm.toNat
    if f.pn then v + (v ^^^ 0x88888888) * 2 ^ 32 else v
  else b.toNat

/-- PSHUF (R147). -/
def execPshuf (f : Fields) (s : State) : Result :=
  issueValue rPshuf f
    (fun l =>
      let w := elemBits f.pn
      let v := shufSelector f l.b
      packElems w (elemCount f.pn) fun i =>
        let x := bitsAt v (4 * i) 4
        if f.pn then (elemU w l.a.toNat x : Int)
        else if bitAt x 3 then 0 else (elemU w l.a.toNat (x % 8) : Int)) s

/-- PPACK (R148). -/
def execPpack (f : Fields) (s : State) : Result :=
  issueValue rPackSat f
    (fun l =>
      let w := elemBits f.pn
      let k := elemCount f.pn
      packElems w k fun i =>
        let v := if i < k / 2 then elemS (2 * w) l.a.toNat i else elemS (2 * w) l.b.toNat (i - k / 2)
        if f.psat then satTo v (signedLo w) (signedHi w) else v) s

/-- PUNPKL to PUNPKHU (R148). -/
def unpack (high signed : Bool) (f : Fields) (s : State) : Result :=
  issueValue rPack1 f
    (fun l =>
      let w := elemBits f.pn
      let k := elemCount f.pn / 2
      packElems (2 * w) k fun i =>
        let j := if high then i + k else i
        if signed then elemS w l.a.toNat j else (elemU w l.a.toNat j : Int)) s

/-- PUNPKL (R148). -/
def execPunpkl (f : Fields) (s : State) : Result := unpack false true f s
/-- PUNPKH (R148). -/
def execPunpkh (f : Fields) (s : State) : Result := unpack true true f s
/-- PUNPKLU (R148). -/
def execPunpklu (f : Fields) (s : State) : Result := unpack false false f s
/-- PUNPKHU (R148). -/
def execPunpkhu (f : Fields) (s : State) : Result := unpack true false f s

/-- Sum of the values of k indexes. -/
def sumTo (k : Nat) (g : Nat → Int) : Int := (List.range k).foldl (fun acc i => acc + g i) 0

/-- PDOT and PDOTU (R149). -/
def dot (signed : Bool) (f : Fields) (s : State) : Result :=
  issueValue rPdot f
    (fun l =>
      let w := elemBits f.pn
      let at_ (v : Word) (i : Nat) : Int := if signed then elemS w v.toNat i else (elemU w v.toNat i : Int)
      let v := sval true l.c + sumTo (elemCount f.pn) fun i => at_ l.a i * at_ l.b i
      res true (if f.psat then satTo v (-(2 ^ 31)) (2 ^ 31 - 1) else v)) s

/-- PDOT (R149). -/
def execPdot (f : Fields) (s : State) : Result := dot true f s
/-- PDOTU (R149). -/
def execPdotu (f : Fields) (s : State) : Result := dot false f s

/-- The product of two elements as a value: an infinity, or a finite value; NaN for Inf × 0 (R150). -/
def prodVal (a b : FVal) : FVal :=
  let neg := a.neg != b.neg
  match a, b with
  | .nan _, _ | _, .nan _ => .nan false
  | .fin _ m e, .fin _ n g => .fin neg (m * n) (e + g)
  | x, y => if x.isZero || y.isZero then .nan false else .inf neg

/-- PDOTF (R150) on elements of a storage format. -/
def dotFloat (code : Nat) (a b c : Nat) : FRes :=
  let k := 64 / storeBits code
  let as := (List.range k).map fun i => decodeElem code (elemAt code a i)
  let bs := (List.range k).map fun i => decodeElem code (elemAt code b i)
  let cv := fp32.decode (c % 2 ^ 32)
  let ps := List.zipWith prodVal as bs
  let infs := (cv :: ps).filter FVal.isInf
  if cv.isNan || as.any FVal.isNan || bs.any FVal.isNan then fp32.nanRes (if cv.isSig then xNV else 0)
  else if ps.any FVal.isNan || (infs.any FVal.neg && infs.any fun v => !v.neg) then fp32.nanRes xNV
  else
    match infs with
    | v :: _ => (fp32.signed v.neg fp32.infMag, 0)
    | [] =>
      let p := Dy.sum (ps.map FVal.dy)
      if p.m = 0 then (c % 2 ^ 32, 0) else fp32.roundDy .rne false (cv.dy.add p)

/-- PDOTF of a storage format (R150). -/
def pdotf (code : Nat) (f : Fields) (s : State) : Result :=
  issueFloat rSel f (fun l => dotFloat code l.a.toNat l.b.toNat l.c.toNat) s

/-- PDOTF.e4 (R150). -/
def execPdotfE4 (f : Fields) (s : State) : Result := pdotf 3 f s
/-- PDOTF.e5 (R150). -/
def execPdotfE5 (f : Fields) (s : State) : Result := pdotf 4 f s
/-- PDOTF.f4 (R150). -/
def execPdotfF4 (f : Fields) (s : State) : Result := pdotf 7 f s

/-- PSCL (R151). -/
def scaleInt (mode : RMode) (i : Int) (sc : FVal) : FRes :=
  let neg := (i < 0) != sc.neg
  match sc with
  | .nan sig => fp32.nanRes (if sig then xNV else 0)
  | .inf _ => if i = 0 then fp32.nanRes xNV else (fp32.signed neg fp32.infMag, 0)
  | v => fp32.roundDy mode neg (Dy.mul ⟨i, 0⟩ v.dy)

/-- PSCL (R151). -/
def execPscl (f : Fields) (s : State) : Result :=
  issueFloat rPscl f (fun l => scaleInt (l.thread.rmode f) (sval true l.a) (fp32.val l.b)) s

end Sys2Proof.Machine
end

