-- ==== Sys2Proof/Machine/PowerOps.lean ====
section
/-! DEFINITION. Declared bursts and activity windows (R363 to R367, R376 to R380), clock requests (R368, R369),
permits and boost (R370, R371) and the thermal ladder (R373 to R375). -/

namespace Sys2Proof.Machine

/-! ### Declarations -/

/-- The intensity that a bolt declares now (R364). -/
def Bolt.intensity (b : Bolt) : Nat :=
  match b.decl with
  | some d => if d.active then d.intensity else 0
  | none => 0

/-- The bolts resident on a core. -/
def State.residents (s : State) (core : Nat) : List Bolt := (s.boltsOn core).filter fun b => b.bstate == .resident

/-- The declared intensity of some bolts together (R364). -/
def declared (bs : List Bolt) : Nat := min 16 (bs.foldl (fun n b => n + b.intensity) 0)

/-- What PHS imm declares (R377), from a core's cluster cycle. -/
def declOf (imm cyc : Nat) : Decl :=
  let onset := cyc + 256 * bitsAt imm 0 8
  let length := bitsAt imm 13 8
  { onset, intensity := bitsAt imm 8 5, stop := if length = 0 then none else some (onset + 4096 * length),
    active := false, since := 0 }

/-- What PHS and PHSX do for the bolt of the issuing weft: nothing on a latency core or in a pack bolt (R376). -/
def declare (s : State) (l : Lane) (d : Bolt → Option Decl) : Act :=
  if l.thread.onLatency then .done s
  else
    match l.thread.bolt.bind s.bolt? with
    | none => .done s
    | some b => .done (if b.pack then s else s.putBolt { b with decl := d b })

/-- PHS (R377). -/
def execPhs (f : Fields) (s : State) : Result :=
  issueOnce rPhs f (fun s l => declare s l fun b => some (declOf f.imm.toNat (s.wcore b.core).cyc)) s

/-- PHSX (R378). -/
def execPhsx (f : Fields) (s : State) : Result := issueOnce rNone f (fun s l => declare s l fun _ => none) s

/-- DECLARATION_ONSET (R364). -/
def tryDeclarationOnset (bolt : Nat) (s : State) : Option State :=
  match s.bolt? bolt with
  | none => none
  | some b =>
    match b.decl with
    | none => none
    | some d =>
      if !d.active && d.onset ≤ (s.wcore b.core).cyc then
        some (s.putBolt { b with decl := some { d with active := true, since := s.gtick } })
      else none

/-- DECLARATION_ONSET. -/
def execDeclarationOnset (bolt : Nat) (s : State) : Result := .next ((tryDeclarationOnset bolt s).getD s)

/-- DECLARATION_END (R364). -/
def tryDeclarationEnd (bolt : Nat) (s : State) : Option State :=
  match s.bolt? bolt with
  | none => none
  | some b =>
    match b.decl with
    | none => none
    | some d =>
      match d.stop with
      | some e => if d.active && e ≤ (s.wcore b.core).cyc then some (s.putBolt { b with decl := none }) else none
      | none => none

/-- DECLARATION_END. -/
def execDeclarationEnd (bolt : Nat) (s : State) : Result := .next ((tryDeclarationEnd bolt s).getD s)

/-! ### Activity -/

/-- The sixteenths of activity of a pass in each of its cycles (R298). -/
def Pass.activity (p : Pass) : Nat := min 16 (2 * p.quarters)

/-- The cycles from c to c + n in which a pass occupies the array. -/
def Pass.overlap (p : Pass) (c n : Nat) : Nat := min (c + n) (p.start + p.len) - max c p.start

/-- A value added to the entry of a key. -/
def tabAdd (t : Tab Nat) (k v : Nat) : Tab Nat := tabPut t k ((tabGet t k).getD 0 + v)

/-- Cluster cycles until the next change of declared intensity or end of a window on a core (R364, R366). -/
def State.cycleRoom (s : State) (core : Nat) : Nat :=
  let c := s.wcore core
  (s.residents core).foldl
    (fun m b => match b.decl with
      | none => m
      | some d =>
        if !d.active then min m (d.onset - c.cyc)
        else match d.stop with
          | some e => min m (e - c.cyc)
          | none => m) (c.cluster.wstart + 256 - c.cyc)

/-- The contexts with bolts among some, each once. -/
def contextsOf (bs : List Bolt) : List Nat := bs.foldl (fun l b => addrAdd l b.pid) []

/-- Tenths of a cluster cycle in one tick of 32 ns: 33.6 cycles at 1.05 GHz, and 3.2 more for each step of boost (R13,
R363). -/
def Cluster.perTick (cl : Cluster) : Nat := 336 + 32 * cl.b

/-- The state with cluster cycles passed on a core, as many as the ticks that have passed still hold for it (R13) and as
far as its next deadline; the window counts its activity and its allowance (R366; log entry 6). -/
def State.passCycles (s : State) (core n : Nat) : State :=
  let c := s.wcore core
  let m := min (min n (c.part / 10)) (s.cycleRoom core)
  if m = 0 then s
  else
    let bs := s.residents core
    let d := declared bs
    let cl := c.cluster
    let cl := match c.pass with
      | some p =>
        let a := p.overlap c.cyc m * p.activity
        { cl with act := cl.act + a, ctxAct := if a = 0 then cl.ctxAct else tabAdd cl.ctxAct p.pid a }
      | none => cl
    let own := (contextsOf bs).foldl
      (fun t pid => tabAdd t pid (m * declared (bs.filter fun b => b.pid == pid))) cl.ctxD
    s.putW core { c with cyc := c.cyc + m, part := c.part - 10 * m, cluster := { cl with dsum := cl.dsum + m * d, dlast := d, ctxD := own } }

/-- The state with an undeclared burst counted for a context (R366). -/
def State.countBurst (s : State) (pid : Nat) : State :=
  let x := s.ctx pid
  s.putCtx pid { x with ubcount := min (x.ubcount + 1) (2 ^ 32 - 1) }

/-- The contexts whose own activity in a window exceeds what they declared (R366). -/
def Cluster.overdrawn (cl : Cluster) : List Nat :=
  (cl.ctxAct.filter fun p => (tabGet cl.ctxD p.1).getD 0 < p.2).map (·.1)

/-- ACTIVITY_WINDOW_END (R366). -/
def tryActivityWindowEnd (core : Nat) (s : State) : Option State :=
  let c := s.wcore core
  let cl := c.cluster
  if c.cyc < cl.wstart + 256 then none
  else
    let exceeds := cl.dsum + 256 < cl.act
    let throttle := if exceeds then some (if cl.dlast = 0 then 4 else cl.dlast) else cl.throttle
    let cl' := { cl with wstart := cl.wstart + 256, throttle, dsum := 0, act := 0, ctxAct := [], ctxD := [] }
    let s := s.putW core { c with cluster := cl' }
    some (if exceeds then cl.overdrawn.foldl State.countBurst s else s)

/-- ACTIVITY_WINDOW_END. -/
def execActivityWindowEnd (core : Nat) (s : State) : Result := .next ((tryActivityWindowEnd core s).getD s)

/-! ### Clock requests -/

/-- SPL (R379). -/
def execSpl (f : Fields) (s : State) : Result :=
  issue rClfl f false (fun _ => none) false
    (fun s l => .done (s.modThread l.tid fun t => { t with clock := (max 4 (min 19 (l.addr f))).toNat })) s

/-- SLICE_RATIO_CHANGE (R368). -/
def trySliceRatioChange (core slice : Nat) (s : State) : Option State :=
  let c := s.wcore core
  if h : slice < 6 then
    if c.ratios[slice] = s.sliceTarget core slice then none
    else some (s.putW core { c with ratios := c.ratios.set slice (s.sliceTarget core slice) })
  else none

/-- SLICE_RATIO_CHANGE. -/
def execSliceRatioChange (core slice : Nat) (s : State) : Result := .next ((trySliceRatioChange core slice s).getD s)

/-! ### Permits and boost -/

/-- Whether a context takes a cluster from another that would hold it (R370): a greater request, or an older bolt. -/
def holdsOver (a b : Nat × Nat × Nat) : Bool := b.1 < a.1 || (a.1 == b.1 && a.2.1 < b.2.1)

/-- The holder of a cluster with its boost request (R370). -/
def State.holder (s : State) (core : Nat) : Option (Nat × Nat) :=
  ((s.residents core).foldl
    (fun m b =>
      let x := (s.boostRequest b.pid core, b.order, b.pid)
      match m with
      | none => some x
      | some y => if holdsOver x y then some x else some y) none).map fun x => (x.2.2, x.1)

/-- The tick from which the active declaration of a context on a core runs, the earliest of several (R371). -/
def State.holderOnset (s : State) (core pid : Nat) : Option Nat :=
  leastOf ((s.residents core).filterMap fun b => if b.pid = pid then s.activeOnset b.id else none)

/-- What a cluster asks for at a boundary (R371): its holder, the holder's onset, the level it wants and that it
keeps, and whether its next interval is one of grace. -/
structure Want where
  core : Nat
  holder : Option Nat
  onset : Option Nat
  want : Nat
  kept : Nat
  grace : Bool
  deriving DecidableEq, Repr

/-- The wants of R371 for one cluster. -/
def State.wantOf (s : State) (core : Nat) : Want :=
  let cl := (s.wcore core).cluster
  let h := (s.holder core).map (·.1)
  let r := ((s.holder core).map (·.2)).getD 0
  let held := (h.map fun p => (s.ctx p).held).getD 0
  let onset := h.bind (s.holderOnset core)
  if cl.grace then ⟨core, h, onset, 0, 0, false⟩
  else if 0 < cl.b ∧ 0 < r ∧ held = 0 then ⟨core, h, onset, cl.b / 2, cl.b / 2, true⟩
  else ⟨core, h, onset, min r held, min (min r held) cl.b, false⟩

/-- Whether one cluster ranks before another (R371): by declared onset, then by core number. -/
def Want.before (a b : Want) : Bool := startBefore (a.onset, a.core) (b.onset, b.core)

/-- The steps that some clusters keep together. -/
def keptSum (l : List Want) : Nat := l.foldl (fun n w => n + w.kept) 0

/-- Whether a cluster loses a step before another (R371): the later declared onset, then the higher number. -/
def Want.lastOf (w x : Want) : Bool :=
  match x.onset, w.onset with
  | none, none => x.core < w.core
  | none, some _ => false
  | some _, none => true
  | some a, some b => a < b || (a == b && x.core < w.core)

/-- The kept cluster that loses a step first (R371). -/
def lastKept (l : List Want) : Option Want :=
  (l.filter fun w => w.kept != 0).foldl
    (fun m w => match m with
      | none => some w
      | some x => if w.lastOf x then some w else some x) none

/-- The wants with one step after another taken away until they keep no more than a headroom (R371). -/
def trimKept (h : Nat) : Nat → List Want → List Want
  | 0, l => l
  | fuel + 1, l =>
    if keptSum l ≤ h then l
    else match lastKept l with
      | none => l
      | some x => trimKept h fuel (l.map fun w => if w.core = x.core then { w with kept := w.kept - 1 } else w)

/-- A want at its place in the order of grants. -/
def wantInsert (w : Want) : List Want → List Want
  | [] => [w]
  | x :: l => if w.before x then w :: x :: l else x :: wantInsert w l

/-- The levels that clusters run at, granted in order from what is free (R371). -/
def grantWants (free : Nat) : List Want → List (Nat × Nat)
  | [] => []
  | w :: l =>
    let g := min (w.want - w.kept) free
    (w.core, w.kept + g) :: grantWants (free - g) l

/-- The contexts' permits refilled at a boundary (R371). -/
def State.refill (s : State) : State :=
  { s with contexts := s.contexts.map fun p =>
      if s.boosted.contains p.1 || s.intervalPids.contains p.1 then p
      else (p.1, { p.2 with held := min p.2.cap (p.2.held + 1) }) }

/-- The state with a cluster at its granted level, and its holder charged for it unless the interval is one of
grace (R371). -/
def State.charge (s : State) (w : Want) (g : Nat) : State :=
  let c := s.wcore w.core
  let set (b : Nat) : State :=
    s.putW w.core { c with cluster := { c.cluster with b, grace := w.grace, throttle := none } }
  if w.grace || g = 0 then set g
  else match w.holder with
    | none => set 0
    | some pid =>
      let x := s.ctx pid
      let pay := min g x.held
      (set pay).putCtx pid { x with held := x.held - pay }

/-- The contexts that hold boosted clusters; a grace interval counts as boosted (R371). -/
def State.boostedPids (s : State) : List Nat :=
  s.wcores.foldl
    (fun l p => if p.2.cluster.b = 0 ∧ !p.2.cluster.grace then l else match s.holder p.1 with
      | some (pid, _) => addrAdd l pid
      | none => l) []

/-- INTERVAL_BOUNDARY (R371). -/
def tryIntervalBoundary (s : State) : Option State :=
  if s.gtick / 250 = s.interval then none
  else
    let s := s.refill
    let wants := s.wcores.map fun p => s.wantOf p.1
    let h := s.fw.hdroom.toNat
    let wants := trimKept h (keptSum wants) wants
    let levels := grantWants (h - keptSum wants) (wants.foldr wantInsert [])
    let s := wants.foldl (fun s w => s.charge w (((levels.find? fun x => x.1 == w.core).map (·.2)).getD 0)) s
    some { s with
      boosted := s.boostedPids
      interval := s.gtick / 250
      intervalPids := s.wcores.foldl (fun l p => match p.2.pass with | some q => addrAdd l q.pid | none => l) [] }

/-- INTERVAL_BOUNDARY. -/
def execIntervalBoundary (s : State) : Result := .next ((tryIntervalBoundary s).getD s)

/-! ### Queries -/

/-- A context's perm word (R370). -/
def Ctx.perm (x : Ctx) : Nat := x.held + x.cap * 256

/-- PQRY.p (R380). -/
def execPqryP (f : Fields) (s : State) : Result :=
  issue rDst f false (fun _ => none) false
    (fun s l => .value s (BitVec.ofNat 64 (s.ctx l.thread.pid).perm)) s

/-- Whether a context holds a cluster that is boosted or that it asks to boost (R370). -/
def State.holdsCluster (s : State) (core pid : Nat) : Bool :=
  match s.holder core with
  | some (p, r) => p == pid && (0 < r || 0 < (s.wcore core).cluster.b)
  | none => false

/-- PQRY.b (R380). -/
def execPqryB (f : Fields) (s : State) : Result :=
  issue rDst f false (fun _ => none) false
    (fun s l =>
      if l.thread.onLatency then .value s 0
      else
        let core := s.cur.core
        let cl := (s.wcore core).cluster
        .value s (BitVec.ofNat 64 (cl.b + flag cl.grace * 4 + flag (s.holdsCluster core l.thread.pid) * 8
          + flag (s.throttleLimit core).isSome * 16 + flag (s.hot core) * 32))) s

/-- PQRY.c (R380). -/
def execPqryC (f : Fields) (s : State) : Result :=
  issue rDst f false (fun _ => none) false
    (fun s l => match l.thread.loc with
      | .member core slot _ =>
        let n := ((s.wcore core).ratios.toList[slot / 8]?).getD 16
        let req := ((s.weft? core slot).map s.weftRequest).getD 16
        .value s (BitVec.ofNat 64 (n + req * 256))
      | _ => .value s 0) s

/-! ### The thermal ladder -/

/-- The limit of a trip in sixteenths of a degree (R374). -/
def State.tripLimit (s : State) (trip : Nat) : Int := 16 * (bitsAt s.fw.tlim.toNat (8 * (trip - 1)) 8 : Int)

/-- The level of the ladder that a reading asks for, trip 4 apart (R374). -/
def State.ladder (s : State) (col : Nat) : Nat :=
  let r := s.reading col
  if s.tripLimit 3 ≤ r then 3
  else if s.tripLimit 2 ≤ r then 2
  else if s.tripLimit 1 ≤ r then 1
  else 0

/-- The tick from which a reading has stayed 3 degrees below a trip (R374). -/
def State.lowSince (s : State) (col trip : Nat) (was : Option Nat) : Option Nat :=
  if s.reading col ≤ s.tripLimit trip - 48 then some (was.getD s.gtick) else none

/-- The state with a column at trip 2: boost ends and grace with it (R374, R381). -/
def State.dropBoost (s : State) (col : Nat) : State :=
  if isWeft col then
    let c := s.wcore col
    s.putW col { c with cluster := { c.cluster with b := 0, grace := false } }
  else s

/-- A latency core of a die at trip 3: its running thread is to take a machine check, and it halts in 65,536 ticks
(R374). -/
def State.tripLatency (s : State) (core : Nat) : State :=
  let l := s.lcore core
  if l.halted then s
  else
    let s := s.putL core { l with trip3At := some (s.gtick + 65536) }
    match l.cur with
    | some tid => s.modThread tid fun t => { t with entry := some (18, 3) }
    | none => s

/-- The latency cores of an L-die (R12). -/
def latencyCores (die : Nat) : List Nat := (List.range 24).map fun i => 256 + 24 * die + i

/-- The state with a column or L-die at trip 3 (R374). -/
def State.trip3 (s : State) (col : Nat) : State :=
  if isWeft col then s.emptyCore col else (latencyCores (col - 256)).foldl State.tripLatency s

/-- The state with a column or L-die held against the ladder (R374), where its trips stood before: trips rise at once,
and only THERMAL_TRIP_CLEAR or firmware ends them; trip 4 acts on the raw values of the sensors. -/
def State.climb (before s : State) (col : Nat) : State :=
  let t := s.ownTrip col
  let was := (before.trip col).level
  let s := { s with
    trips := tabPut s.trips col ⟨max t.level (s.ladder col), s.lowSince col 1 t.low1, s.lowSince col 2 t.low2⟩ }
  let lvl := (s.trip col).level
  let s := if was < 1 ∧ 1 ≤ lvl then s.deviceEvent 1 col else s
  let s := if was < 2 ∧ 2 ≤ lvl then s.dropBoost col else s
  let s := if was < 3 ∧ 3 ≤ lvl then s.trip3 col else s
  if (sensorsOf col).any fun k => s.tripLimit 4 ≤ (s.sensor k).raw then { s with off := true } else s

/-- The magnitude of a difference. -/
def apart (a b : Int) : Int := if a ≤ b then b - a else a - b

/-- Whether a sensor's value makes it suspect (R375). -/
def State.suspicious (s : State) (k : Nat) : Bool :=
  let x := s.sensor k
  let n := (s.sensor (neighbours k).1).raw
  let m := (s.sensor (neighbours k).2).raw
  x.raw < -640 || 2400 < x.raw || (240 < apart x.raw n && 240 < apart x.raw m)
    || (x.since + 1024 ≤ s.gtick && 32 < apart n x.atSince.1 && 32 < apart m x.atSince.2)

/-- The state with a sensor marked suspect, if its value makes it so: the firmware sensor log and a device event say so,
and its column is closed to placement (R375, R394). -/
def State.judge (s : State) (k : Nat) : State :=
  if (s.sensor k).suspect || !s.suspicious k then s
  else
    let s := { s with
      sensors := tabPut s.sensors k { s.sensor k with suspect := true }, sensorLog := s.sensorLog ++ [k] }.deviceEvent 2 k
    if k < 288 then s.putW (k / 2) { s.wcore (k / 2) with closed := true } else s

/-- The columns and L-dies whose readings a sensor and its neighbours decide. -/
def columnsNear (k : Nat) : List Nat :=
  let n := neighbours k
  addrAdd (addrAdd [columnOf k] (columnOf n.1)) (columnOf n.2)

/-- SENSOR_UPDATE (R373 to R375): the sensor and its neighbours are judged, then the columns held against the ladder. -/
def execSensorUpdate (sensor : Nat) (value : Int) (s : State) : Result :=
  if !isSensor sensor then .next s
  else
    let x := s.sensor sensor
    let n := neighbours sensor
    let at_ := ((s.sensor n.1).raw, (s.sensor n.2).raw)
    let x := if x.raw = value then x else { x with raw := value, since := s.gtick, atSince := at_ }
    let s := { s with sensors := tabPut s.sensors sensor x }
    let j := ((s.judge sensor).judge n.1).judge n.2
    .next ((columnsNear sensor).foldl s.climb j)

/-- Whether a trip's reading has stayed low for 1,024 ticks (R374). -/
def State.stayedLow (s : State) (since : Option Nat) : Bool :=
  match since with
  | some t => t + 1024 ≤ s.gtick
  | none => false

/-- THERMAL_TRIP_CLEAR (R374): trip 2 falls to trip 1, or trip 1 ends. -/
def tryThermalTripClear (col : Nat) (s : State) : Option State :=
  let t := s.ownTrip col
  if t.level = 2 ∧ s.stayedLow t.low2 then
    some { s with trips := tabPut s.trips col { t with level := 1 } }
  else if t.level = 1 ∧ s.stayedLow t.low1 then some { s with trips := tabPut s.trips col { t with level := 0 } }
  else none

/-- THERMAL_TRIP_CLEAR. -/
def execThermalTripClear (column : Nat) (s : State) : Result := .next ((tryThermalTripClear column s).getD s)

/-- The state with trip 3 of a column or L-die ended by firmware (R374): trips 1 and 2 end by themselves. -/
def State.reopen (s : State) (col : Nat) : State :=
  let t := s.ownTrip col
  if t.level = 3 then { s with trips := tabPut s.trips col { t with level := 2 } } else s

/-- TRIP3_HALT_TIMEOUT (R374). -/
def tryTrip3HaltTimeout (core : Nat) (s : State) : Option State :=
  match (s.lcore core).trip3At with
  | some t => if t ≤ s.gtick then some (s.haltLatency core) else none
  | none => none

/-- TRIP3_HALT_TIMEOUT. -/
def execTrip3HaltTimeout (core : Nat) (s : State) : Result := .next ((tryTrip3HaltTimeout core s).getD s)

/-- The state after the firmware has written tlim: every column and L-die is held against the new limits (R374). -/
def State.climbAll (s : State) : State := (List.range 144 ++ [256, 257]).foldl s.climb s

end Sys2Proof.Machine
end

