-- ==== Sys2Proof/Machine/Registers.lean ====
section
/-! DEFINITION. Full bits and queue bindings (R108 to R110). -/

namespace Sys2Proof.Machine

/-- Whether an asynchronous result aims at a register of a thread (R89). -/
def State.aimsAt (s : State) (tid n : Nat) : Bool :=
  (s.pendOf tid).any fun p => p.rd == n || (p.pair && p.rd + 1 == n && p.rd != 0)

/-- The thread with the full bit of a register set or cleared (R88). -/
def Thread.setFull (t : Thread) (n : Nat) (full : Bool) : Thread := t.setReg n { t.reg n with full }

/-- EMPT and FILL for one lane (R108): they wait for asynchronous results to the register. -/
def fullBody (f : Fields) (full : Bool) : Body := fun s l =>
  if s.aimsAt l.tid f.s1 then .wait id else .done (s.modThread l.tid fun t => t.setFull f.s1 full)

/-- EMPT (R108). -/
def execEmpt (f : Fields) (s : State) : Result := issuePlain rEmpt f (fullBody f false) s

/-- FILL (R108). -/
def execFill (f : Fields) (s : State) : Result := issuePlain rEmpt f (fullBody f true) s

/-- TSTF (R108). -/
def execTstf (f : Fields) (s : State) : Result :=
  issueValue rTstf f (fun l => wordOfBool (l.thread.reg f.s1).full) s

/-- The binding that QBIND makes for a lane, or its trap (R94, R109); NEEDW names the port's register (log entry 74). -/
def bindTarget (s : State) (f : Fields) (l : Lane) : Except Trap Port :=
  let id := f.imm.toNat % 8192
  match f.imm.toNat / 8192 with
  | 1 =>
    let q := (id + l.a.toNat % 8192) % 8192
    if (s.queue q).granted l.thread.pid then .ok (.base q) else .error (Trap.plain .prot q)
  | 2 =>
    let n := (id + l.a.toNat % 32) % 32
    if l.thread.onLatency then .error (Trap.plain .needw f.rd)
    else
      match ((l.thread.bolt.bind s.bolt?).bind fun b => b.chan? n) with
      | some _ => .ok (.chan n)
      | none => .error (Trap.plain .prot (8192 + n))
  | _ => .ok .inbox

/-- QBIND (R109). -/
def execQbind (f : Fields) (s : State) : Result :=
  issue rQbind f false (fun _ => none) false
    (fun s l =>
      match bindTarget s f l with
      | .error t => .trap t false
      | .ok p => .done (s.modThread l.tid fun t => t.setPort (f.rd.val - 56) p)) s

/-- QUNB (R110). -/
def execQunb (f : Fields) (s : State) : Result :=
  issuePlain rQunb f (fun s l => .done (s.modThread l.tid fun t => t.setPort (f.s1.val - 56) .unbound)) s

/-- A status word (R110). -/
def statusWord (kind id cap occ : Nat) : Word :=
  BitVec.ofNat 64 (occ + (cap - 1) * 2 ^ 25 + id * 2 ^ 49 + kind * 2 ^ 62)

/-- The status of the queue bound to a port (R110). -/
def portStatus (s : State) (t : Thread) (p : Port) : Word :=
  match p with
  | .unbound => 0
  | .base q =>
    if (s.queue q).granted t.pid then statusWord 1 q (s.queueCap (.base q)) (s.queueWords (.base q)).length
    else statusWord 1 q 1 0
  | .chan n =>
    match t.bolt with
    | some b => statusWord 2 n (s.queueCap (.chan b n)) (s.queueWords (.chan b n)).length
    | none => statusWord 2 n 1 0
  | .inbox => statusWord 3 0 64 t.inbox.length

/-- QSTAT (R110); NEEDW names the port's register (log entry 74). -/
def execQstat (f : Fields) (s : State) : Result :=
  issuePlain rQstat f
    (fun s l =>
      let p := l.thread.port (f.s1.val - 56)
      match p, l.thread.onLatency with
      | .chan _, true => .trap (Trap.plain .needw f.s1) false
      | _, _ => .value s (portStatus s l.thread p)) s

end Sys2Proof.Machine
end

