-- ==== Sys2Proof/Machine/Streams.lean ====
section
/-! DEFINITION. Storage streams (R279 to R281, R287, R288, R420): SIO, SFLU, the jobs of the storage stream units,
and the steps of the drives; and the steps that jobs of every engine share (R273 to R276). -/

namespace Sys2Proof.Machine

/-! ### Stream cards -/

/-- What SIO does (R287). -/
inductive SioOp where
  | read | write | dealloc
  deriving DecidableEq, Repr

/-- A stream card of 16 dwords, taken apart (R279). -/
def scardOf (w : List Nat) : SCard :=
  let d (i : Nat) : Nat := (w[i]?).getD 0
  let c := d 0
  { kslot := bitsAt c 48 8, cipher := bitsAt c 46 2, comp := bitsAt c 44 2, mfmt := bitsAt c 36 8,
    sfmt := bitsAt c 28 8, port := bitsAt c 0 2, ns := bitsAt (d 1) 0 32, lba := d 2, clen := bitsAt (d 3) 32 32,
    nblk := bitsAt (d 3) 0 32, buf := BitVec.ofNat 64 (d 4), blen := bitsAt (d 5) 0 32,
    nonce := d 6 + bitsAt (d 7) 0 32 * 2 ^ 64 }

/-- Whether reserved fields of a stream card and bit 63 of its seq are zero (R279). -/
def scardReserved (w : List Nat) : Bool :=
  let d (i : Nat) : Nat := (w[i]?).getD 0
  bitsAt (d 0) 56 8 == 0 && bitsAt (d 0) 2 26 == 0 && bitsAt (d 1) 32 32 == 0 && bitsAt (d 5) 32 32 == 0
    && bitsAt (d 7) 32 32 == 0 && !bitAt (d 9) 63 && (List.range 6).all fun i => d (10 + i) == 0

/-- Whether the fields of a stream card serve its operation (R279, R287); clen is 0 but for a read. -/
def SCard.fieldsOk (c : SCard) (op : SioOp) : Bool :=
  c.cipher != 3 && c.comp != 3 && 1 ≤ c.nblk && canonicalWord c.buf && c.blen ≤ 2 ^ 31
    && ((c.mfmt == 0xFF && c.sfmt == 0xFF) || (c.mfmt ≤ 13 && c.sfmt ≤ 13))
    && (op == .read || c.clen == 0)
    && (op != .dealloc || (c.cipher == 0 && c.comp == 0 && c.blen == 0 && c.mfmt == 0xFF))

/-- The buffer of a stream as its footprint (R280). -/
def SCard.buffer (c : SCard) (t : Thread) : Nat × Nat × Nat × Nat := (0, spaceOf t.pid, jobAddr 0 c.buf, c.blen)

/-- The blocks of a stream, compared as a footprint of their own by namespace (R280). -/
def SCard.blocks (c : SCard) : Nat × Nat × Nat × Nat := (3, c.ns, c.lba, c.nblk)

/-- The job of a stream card (R279, R280). -/
def SCard.job (c : SCard) (op : SioOp) (s : State) (t : Thread) : Job :=
  match op with
  | .read => t.newJob s (.sread c) [c.blocks] [c.buffer t]
  | .write => t.newJob s (.swrite c) [c.buffer t] [c.blocks]
  | .dealloc => t.newJob s (.sdealloc c) [] [c.blocks]

/-- The checks of a stream card at v, in the order of R287. -/
def checkStream (s : State) (t : Thread) (core : Nat) (op : SioOp) (v : Int) : Chk Job :=
  if v % 128 ≠ 0 then .trap s (Trap.intAt .align v)
  else
    (chkRecord s t core v 128).bind fun s bs =>
    let w := dwords bs
    let stamp := BitVec.ofNat 64 ((w[8]?).getD 0)
    (chkThat s (stamp.toNat % 16 == 0) ⟨.align, stamp, true⟩).bind fun s _ =>
    (chkThat s (scardReserved w && (scardOf w).fieldsOk op) (Trap.intAt .prot v)).bind fun s _ =>
    (chkAccess s t core stamp.toInt 16 true).bind fun s a =>
      .ok s { (scardOf w).job op s t with
        stmp := true, stampVa := stamp, stampPa := a.pa, seq := BitVec.ofNat 64 ((w[9]?).getD 0) }

/-- The stream card of a job. -/
def Job.scard? (j : Job) : Option SCard :=
  match j.kind with
  | .sread c | .swrite c | .sdealloc c => some c
  | _ => none

/-- The engine of a stream or a flush: the unit of its port, for a flush that of port 0 (R263). -/
def streamEngine (j : Job) : Nat := 0x400 + (j.scard?.map SCard.port).getD 0

/-- SIO for each lane (R287). -/
def execSio (op : SioOp) (f : Fields) (s : State) : Result :=
  issue rMarm f true (fun _ => none) false
    (submitLane streamEngine fun k l => checkStream k l.thread k.cur.core op (l.addr f)) s

/-- SIO.r (R287). -/
def execSioR (f : Fields) (s : State) : Result := execSio .read f s

/-- SIO.w (R287). -/
def execSioW (f : Fields) (s : State) : Result := execSio .write f s

/-- SIO.d (R287). -/
def execSioD (f : Fields) (s : State) : Result := execSio .dealloc f s

/-- The checks of SFLU (R288). -/
def checkFlush (s : State) (t : Thread) (core : Nat) (stamp seq : Word) : Chk Job :=
  (chkAccess s t core stamp.toInt 8 true).bind fun s a =>
  (chkThat s (!seq.getLsbD 63) ⟨.prot, seq, false⟩).bind fun s _ =>
    .ok s { t.newJob s .flush [] [] with stmp := true, stampVa := stamp, stampPa := a.pa, seq }

/-- SFLU (R288). -/
def execSflu (f : Fields) (s : State) : Result :=
  issue rDst2 f true (fun _ => none) false
    (submitLane streamEngine fun k l => checkFlush k l.thread k.cur.core l.a l.b) s

/-! ### The chain of a stream (R280) -/

/-- Bytes with their elements converted from one storage format to another; code 0xFF converts nothing. -/
def convertBytes (from_ to_ : Nat) (bs : List Byte) : List Byte :=
  if from_ = 0xFF then bs
  else
    let n := 8 * bs.length / storeBits from_
    let v := leNat bs
    leBytes (bytesFor (storeBits to_) n)
      ((List.range n).foldl
        (fun acc i => acc + encodeElem to_ (decodeElem from_ (elemAt from_ v i)) * 2 ^ (storeBits to_ * i)) 0)

/-! ### The two ends of the chain -/

/-- The key of a stream's key slot and the nonce of its card, whose bytes stand as they do in memory (R279; log entry
13). -/
def SCard.key (c : SCard) : List Byte := leBytes 64 (Config.slotKey c.kslot)
def SCard.iv (c : SCard) : List Byte := leBytes 12 c.nonce

/-- The blocks that a write hands to its drive: encrypted, then padded (R280, steps 3 and 4). -/
def SCard.toDrive (c : SCard) (bs : Nat) (data : List Byte) : List Byte :=
  let sealed :=
    if c.cipher = 1 then sealGcm (c.key.take 32) c.iv data
    else if c.cipher = 2 then
      let n := (data.length + bs - 1) / bs * bs
      xts true c.key c.lba bs (fitted n data)
    else data
  if c.nblk * bs < sealed.length then [] else fitted (c.nblk * bs) sealed

/-- The plaintext of the blocks that a read takes from its drive, and whether its tag verifies (R280, steps 2 and 3). The
rule gives no meaning to a GCM read whose clen is 0, which takes all of the blocks, nor to a clen above what the blocks
hold, which is cut to it (log entry 90). -/
def SCard.plain (c : SCard) (bs : Nat) (raw : List Byte) : Given :=
  if c.cipher = 1 then openGcm (c.key.take 32) c.iv (if c.clen = 0 then raw else raw.take c.clen)
  else
    let whole := if c.cipher = 2 then xts false c.key c.lba bs raw else raw
    (if c.clen = 0 then whole else whole.take c.clen, true)

/-- The data of a write after conversion and compression: C of R280. -/
def SCard.encode (c : SCard) (bs : List Byte) : List Byte :=
  let d := convertBytes c.mfmt c.sfmt bs
  if c.comp = 0 then d else compressed c.comp d

/-- The result length of a write (R280). -/
def SCard.written (c : SCard) (data : List Byte) : Nat := data.length + if c.cipher = 1 then 16 else 0

/-- What the chain of a read gives its buffer (R280), as far as it comes, and the error of R273 that it ends in. -/
def SCard.chain (c : SCard) (bs : Nat) (blocks : List Byte) : List Byte × Option Nat :=
  let p := c.plain bs (fitted (c.nblk * bs) blocks)
  let d : Given := if c.comp = 0 then (p.1, true) else decompress c.comp p.1
  let out := convertBytes c.sfmt c.mfmt d.1
  (out.take c.blen, if !p.2 then some 5 else if !d.2 then some 9 else if c.blen < out.length then some 6 else none)

/-- The bytes that a read writes to its buffer, or the error of R273 that its chain ends in (R280). -/
def SCard.decode (c : SCard) (bs : Nat) (blocks : List Byte) : Except Nat (List Byte) :=
  match c.chain bs blocks with
  | (_, some e) => .error e
  | (out, none) => .ok out

/-- Whether a stream's storage port is down, or its link went down under the stream, which then fails although the port is
trained again (R420). -/
def State.portDown (s : State) (j : Job) : Bool :=
  j.doomed || s.outside.storageDown.contains (streamEngine j - 0x400)

/-- The buffer of a stream from byte n as one run of bytes to write. -/
def SCard.chunk (c : SCard) (n : Nat) (bs : List Byte) : Chunk := ⟨0, jobAddr 0 c.buf + n, bs, []⟩

/-- What a queued stream comes to at its start, once nothing holds it up: what it hands to the drive, before
encryption and padding (R280; log entry 12). -/
def startStream (s : State) (j : Job) : Option (JRun (List Chunk)) :=
  if j.state != .queued || s.heldUp j || s.portDown j then none
  else
    match j.kind with
    | .swrite c =>
      some ((jobRead j 0 (c.blen + 1) s (jobAddr 0 c.buf) c.blen).bind fun s bs =>
        .ok s [⟨3, c.lba, c.encode (bs.map (·.1)), []⟩])
    | .sread _ | .sdealloc _ => some (.ok s [])
    | _ => none

/-- Whether a stream that a flush covers has not retired (R281). -/
def State.flushWaits (s : State) (j : Job) : Bool :=
  s.jobs.any fun x => !x.retired && x.num < j.num && x.pid == j.pid && (match x.kind with
    | .swrite _ | .sdealloc _ => true
    | _ => false)

/-- A stream or a flush started (R280, R281): a flush once the streams that it covers have retired. -/
def runStream (j : Job) (s : State) : Option State :=
  match j.kind with
  | .flush =>
    if j.state != .queued || s.flushWaits j then none
    else some (s.putJob { j with state := .running, wstamp := stampMax j.wstamp s.now })
  | _ =>
    match startStream s j with
    | some (.ok k out) => some (k.putJob { j with state := .running, out, wstamp := stampMax j.wstamp k.now })
    | some (.wait k) => newRequest s k
    | _ => none

/-- The state with a job's result length written at its stamp address plus 8 (R280). -/
def State.writeLength (s : State) (j : Job) (n : Nat) : State × Job :=
  let s := s.markDirty (spaceOf j.pid) (jobVa (jobAddr 0 j.stampVa + 8)) j.spawn
  let s := s.portWrite (s.engineGuard (engineOf j.handle)) s.now (j.stampPa + 8) (leBytes 8 n) [] (j.level == .firmware)
  let s := if j.records then s.record j.spawn j.bidx (jobVa (jobAddr 0 j.stampVa + 8)) true else s
  (s, { j with wstamp := stampMax j.wstamp (s.stampOf (j.stampPa / 128)).wts })

/-- The state with a stream retired: its result length, then its stamp (R280). -/
def State.endStream (s : State) (j : Job) (n err va : Nat) : State :=
  let p := s.writeLength j n
  p.1.finishJob p.2 err va

/-- The zeros that a failed read writes over its whole buffer, for the errors that R280 names, once its output has
started. -/
def Job.zeros (j : Job) (err : Nat) : Option Chunk :=
  match j.kind with
  | .sread c => if 5 ≤ err ∧ err ≠ 8 ∧ 0 < j.begun then some (c.chunk 0 (List.replicate c.blen 0)) else none
  | _ => none

/-- The state with the whole buffer of a failed read at zero, as far as it can be written (R280). -/
def State.zeroBuffer (s : State) (j : Job) (c : Chunk) : State × Job :=
  match jobWrite s j c with
  | .ok k j => (k, j)
  | .fail k j _ _ => (k, j)
  | .wait k => (k, j)

/-- The state with a stream failed: a read zeroes its buffer first, after the ownership transfers that this needs
(R215, R289). R280 gives no result length of a stream that fails: it is 0 here (log entry 90). -/
def State.failStream (s : State) (j : Job) (err va : Nat) : Option State :=
  match j.zeros err with
  | none => some (s.endStream j 0 err va)
  | some c =>
    match jobNeedsXfer s j c with
    | some r => r
    | none => let p := s.zeroBuffer j c; some (p.1.endStream p.2 0 err va)

/-- A read's output from the byte that it has come to, written to its buffer (R280). -/
def writeOutput (s : State) (j : Job) (c : SCard) (out : List Byte) : JRun Job :=
  jobWrite s j (c.chunk j.begun (out.drop j.begun))

/-- The state with the output of a read under way as far as byte n, before its chain has come to its end (R280); while it
needs an ownership transfer, or cannot be written, it does not start. -/
def State.streamOutput (s : State) (h n : Nat) : State :=
  match s.job? h with
  | none => s
  | some j =>
    match j.kind, j.drive with
    | .sread c, some (true, bs, data) =>
      let out := (c.chain bs data).1.take n
      if j.state != .running || s.portDown j || out.length ≤ j.begun
          || (jobNeedsXfer s j (c.chunk j.begun (out.drop j.begun))).isSome then s
      else
        match writeOutput s j c out with
        | .ok k j => k.putJob { j with begun := out.length }
        | _ => s
    | _, _ => s

/-- What a running stream comes to once its drive has answered: its result length (R280). -/
def finishRun (s : State) (j : Job) : Option (JRun (Job × Nat)) :=
  if j.state != .running || s.portDown j then none
  else
    match j.kind, j.drive with
    | _, some (false, _, _) => some (.fail s j 7 0)
    | .swrite c, some (true, bs, _) =>
      let data := (j.out.head?.map Chunk.bytes).getD []
      if c.nblk * bs < c.written data then some (.fail s j 6 0) else some (.ok s (j, c.written data))
    | .sread c, some (true, bs, data) =>
      match c.decode bs data with
      | .error e => some (.fail s j e 0)
      | .ok out => match jobNeedsXfer s j (c.chunk j.begun (out.drop j.begun)) with
        | some (some k) => some (.wait k)
        | some none => none
        | none => some ((writeOutput s j c out).bind fun s j => .ok s (j, out.length))
    | .sdealloc _, some (true, _, _) => some (.ok s (j, 0))
    | _, _ => none

/-- STREAM_COMPLETE (R280): the chain is run to its end, then the result length and the stamp are written. -/
def tryStreamComplete (handle : Nat) (s : State) : Option State :=
  match s.job? handle with
  | none => none
  | some j =>
    match finishRun s j with
    | some (.ok k (j, n)) => some (k.endStream j n 0 0)
    | some (.wait k) => newRequest s k
    | _ => none

/-- STREAM_COMPLETE. -/
def execStreamComplete (handle : Nat) (s : State) : Result := .next ((tryStreamComplete handle s).getD s)

/-- STREAM_FAIL (R273, R280, R287, R420): with KEY for a stream with a cipher, whose key slot firmware may not have
filled or granted (log entry 13); with DEV when the port's link is down or the drive reports an error or has no
such namespace; with the error in which its chain ends. -/
def tryStreamFail (handle err : Nat) (s : State) : Option State :=
  match s.job? handle with
  | none => none
  | some j =>
    match j.scard? with
    | none => none
    | some c =>
      if j.retired || s.heldUp j then none
      else if err = 8 then
        if c.cipher ≠ 0 ∧ j.state = .queued then s.failStream { j with wstamp := stampMax j.wstamp s.now } 8 0 else none
      else if err = 7 ∧ s.portDown j then s.failStream { j with wstamp := stampMax j.wstamp s.now } 7 0
      else
        match startStream s j, finishRun s j with
        | some (.fail k j e va), _ => if e = err then k.failStream { j with wstamp := stampMax j.wstamp k.now } e va else none
        | none, some (.fail k j e va) => if e = err then k.failStream j e va else none
        | _, _ => none

/-- STREAM_FAIL. -/
def execStreamFail (handle err : Nat) (s : State) : Result := .next ((tryStreamFail handle err s).getD s)

/-- FLUSH_COMPLETE (R281): every Flush has completed; bit 63 of the stamp tells of one that failed. -/
def tryFlushComplete (handle : Nat) (ok : Bool) (s : State) : Option State :=
  match s.job? handle with
  | none => none
  | some j =>
    match j.kind, j.state with
    | .flush, .running => some (s.finishJob j (if ok then 0 else 7) 0)
    | _, _ => none

/-- FLUSH_COMPLETE. -/
def execFlushComplete (handle : Nat) (ok : Bool) (s : State) : Result :=
  .next ((tryFlushComplete handle ok s).getD s)

/-- Whether the data that a drive returns fit what a stream asked for: whole blocks for a read (R280). -/
def answerFits (j : Job) (ok : Bool) (bs : Nat) (data : List Byte) : Bool :=
  match j.kind with
  | .sread c => !ok || data.length == c.nblk * bs
  | .swrite _ | .sdealloc _ => data.isEmpty
  | _ => false

/-- The blocks that pass between a stream and its drive: those read, or those written (R280). -/
def Job.blocks (j : Job) (bs : Nat) (data : List Byte) : List Byte :=
  match j.kind with
  | .swrite c => c.toDrive bs ((j.out.head?.map Chunk.bytes).getD [])
  | _ => data

/-- NVME_COMPLETION (R420): the drive answers a stream's command, with its block size and the blocks read. -/
def tryNvmeCompletion (handle : Nat) (ok : Bool) (bs : Nat) (data : List Byte) (s : State) : Option State :=
  match s.job? handle with
  | none => none
  | some j =>
    if j.state = .running ∧ j.drive = none ∧ !s.portDown j ∧ answerFits j ok bs data then
      some (s.putJob { j with drive := some (ok, bs, j.blocks bs data) })
    else none

/-- NVME_COMPLETION. -/
def execNvmeCompletion (handle : Nat) (ok : Bool) (blockSize : Nat) (data : List Byte) (s : State) : Result :=
  .next ((tryNvmeCompletion handle ok blockSize data s).getD s)

/-- A stream of a port whose link has gone down (R420). -/
def Job.onDead (j : Job) (port : Nat) : Job :=
  if j.isStream && streamEngine j == 0x400 + port && !j.retired then { j with doomed := true } else j

/-- STORAGE_LINK_DOWN (R420): every stream of the port can from now on only fail. -/
def execStorageLinkDown (port : Nat) (s : State) : Result :=
  .next (if port < 4 then
      { s with
        jobs := s.jobs.map fun j => j.onDead port
        outside := { s.outside with storageDown := addrAdd s.outside.storageDown port } }
    else s)

/-- STORAGE_PORT_RETRAIN (R420). -/
def execStoragePortRetrain (port : Nat) (s : State) : Result :=
  .next { s with outside := { s.outside with storageDown := s.outside.storageDown.filter (· != port) } }

/-! ### Jobs of every engine -/

/-- JOB_ACCEPT (R263). -/
def execJobAccept (engine : Nat) (s : State) : Result := .next ((tryJobAccept engine s).getD s)

/-- JOB_START (R274). -/
def tryJobStart (handle : Nat) (s : State) : Option State :=
  match s.job? handle with
  | none => none
  | some j => if j.card?.isSome then startCopy j s else runStream j s

/-- JOB_START. -/
def execJobStart (handle : Nat) (s : State) : Result := .next ((tryJobStart handle s).getD s)

/-- JOB_RETIRE (R275): a copy engine's job; a stream retires by STREAM_COMPLETE, a flush by FLUSH_COMPLETE. -/
def tryJobRetire (handle : Nat) (s : State) : Option State :=
  match s.job? handle with
  | none => none
  | some j => if j.card?.isSome then retireCopy j s else none

/-- JOB_RETIRE. -/
def execJobRetire (handle : Nat) (s : State) : Result := .next ((tryJobRetire handle s).getD s)

/-- JOB_FAIL (R273): a copy engine's job; a stream fails by STREAM_FAIL. -/
def tryJobFail (handle : Nat) (s : State) : Option State :=
  match s.job? handle with
  | none => none
  | some j => if j.card?.isSome then failCopy j s else none

/-- JOB_FAIL. -/
def execJobFail (handle : Nat) (s : State) : Result := .next ((tryJobFail handle s).getD s)

end Sys2Proof.Machine
end

