-- ==== Sys2Proof/Machine/SysRegs.lean ====
section
/-! DEFINITION. The system registers (R95 to R97, R111, R386, R422): SRD, SWR, and the steps that a write of a register
is; queue configuration (R334) and the region owner table (R418). -/

namespace Sys2Proof.Machine

/-! ### Levels -/

/-- The least level that may read a register; none if it is never read (R96, R386, R422). -/
def sysReadLevel (n : Nat) : Option Nat :=
  if n = 0x818 then none
  else if n ≤ 0x01A ∨ n = 0x103 ∨ n = 0x104 then some 0
  else if n = 0x801 ∨ n = 0x806 ∨ n = 0x80D ∨ n = 0x80E ∨ n = 0x811 ∨ n = 0x812 ∨ n = 0x819 then some 2
  else some 1

/-- The least level that may write a register; none if it is never written. -/
def sysWriteLevel (n : Nat) : Option Nat :=
  if n ≤ 0x00B ∨ n = 0x00F ∨ (0x017 ≤ n ∧ n ≤ 0x019) ∨ n = 0x819 then none
  else if n = 0x00D ∨ (0x011 ≤ n ∧ n ≤ 0x014) then some 0
  else if n = 0x00E ∨ n = 0x010 ∨ n = 0x015 ∨ n = 0x016 ∨ n = 0x01A ∨ (0x100 ≤ n ∧ n ≤ 0x102) ∨ n = 0x104
      ∨ n = 0x800 ∨ n = 0x802 ∨ n = 0x803 then some 1
  else some 2

/-- Whether a register has thread scope (R96). -/
def threadScope (n : Nat) : Bool :=
  n ≤ 0x009 || n = 0x00D || n = 0x00F || n = 0x010 || (0x011 ≤ n && n ≤ 0x014) || n = 0x017
    || (0x100 ≤ n && n ≤ 0x102)

/-! ### Masks -/

/-- A number clamped to a range (R95). -/
def clamp (lo hi v : Nat) : Nat := max lo (min hi v)

/-- slope as a write leaves it (R96, R372). -/
def slopeMask (v : Nat) : Nat := bitsAt v 8 8 * 256 + clamp 1 48 (bitsAt v 0 6)

/-- rdctl as a write leaves it (R422). -/
def rdctlMask (v : Nat) : Nat := bitsAt v 12 40 * 2 ^ 12 + clamp 4 20 (bitsAt v 1 5) * 2 + bitsAt v 0 1

/-- tlim as a write leaves it (R374): no limit above its default, and a lowered trip 4 stays. -/
def tlimMask (old v : Nat) : Nat :=
  let part (i : Nat) : Nat := min (bitsAt v (8 * i) 8) (bitsAt FwRegs.reset.tlim.toNat (8 * i) 8)
  part 0 + part 1 * 2 ^ 8 + part 2 * 2 ^ 16 + min (part 3) (bitsAt old 24 8) * 2 ^ 24

/-- A package register as a write leaves it, by number; those with an effect of their own apart. -/
def FwRegs.write (r : FwRegs) (n : Nat) (v : Word) : FwRegs :=
  let w (m : Nat) : Word := BitVec.ofNat 64 m
  let x := v.toNat
  match n with
  | 0x800 => { r with svec := v &&& ~~~1#64 }
  | 0x801 => { r with fvec := v &&& ~~~1#64 }
  | 0x803 => { r with evtid := v }
  | 0x804 => { r with svcq := w (bitsAt x 0 13) }
  | 0x805 => { r with pools := w (bitsAt x 0 13 + bitsAt x 16 13 * 2 ^ 16 + bitsAt x 32 13 * 2 ^ 32) }
  | 0x806 => { r with spcbase := w (bitsAt x 5 47 * 32) }
  | 0x807 => { r with rdctl := w (rdctlMask x) }
  | 0x808 => { r with rdovf := w (min x (2 ^ 32 - 1)) }
  | 0x809 => { r with plceil := v }
  | 0x80A => { r with hdroom := w (min 432 x) }
  | 0x80B => { r with slfloor := w (min 255 x) }
  | 0x80C => { r with tlim := w (tlimMask r.tlim.toNat x) }
  | 0x80D => { r with snsel := w (min 311 x) }
  | 0x80F => { r with evdrop := v }
  | 0x810 => { r with mcklog := w (bitsAt x 12 40 * 2 ^ 12 + bitsAt x 0 5) }
  | 0x811 => { r with corsel := v }
  | 0x813 => { r with pkgid := w (bitsAt x 0 6 + bitsAt x 8 6 * 256) }
  | 0x814 => { r with swbase := w (bitsAt x 30 11 * 2 ^ 30) }
  | 0x815 => { r with swlen := v }
  | 0x816 => { r with rotbase := v }
  | 0x817 => { r with hdm := w (bitsAt x 0 52) }
  | 0x81A => { r with rtdrop := w (min x (2 ^ 32 - 1)) }
  | _ => r

/-- A package register by number. -/
def FwRegs.read (r : FwRegs) (n : Nat) : Word :=
  match n with
  | 0x800 => r.svec
  | 0x801 => r.fvec
  | 0x803 => r.evtid
  | 0x804 => r.svcq
  | 0x805 => r.pools
  | 0x806 => r.spcbase
  | 0x807 => r.rdctl
  | 0x808 => r.rdovf
  | 0x809 => r.plceil
  | 0x80A => r.hdroom
  | 0x80B => r.slfloor
  | 0x80C => r.tlim
  | 0x80D => r.snsel
  | 0x80F => r.evdrop
  | 0x810 => r.mcklog
  | 0x811 => r.corsel
  | 0x813 => r.pkgid
  | 0x814 => r.swbase
  | 0x815 => r.swlen
  | 0x816 => r.rotbase
  | 0x817 => r.hdm
  | 0x819 => r.fwver
  | 0x81A => r.rtdrop
  | _ => 0

/-! ### Core control -/

/-- corctl of a core (R422); a latency core has no register blocks and is closed at trip 3. -/
def State.corctl (s : State) (core : Nat) : Nat :=
  if isWeft core then
    let c := s.wcore core
    flag c.halted + flag c.closed * 4 + c.rfblk * 8
  else if isLat core then flag (s.lcore core).halted + flag ((s.trip (heatColumn core)).level == 3) * 4
  else 0

/-- The state with a core restarted (R422): a weft core with fewer than 7 working blocks stays halted. -/
def State.restart (s : State) (core : Nat) : State :=
  if isWeft core then
    if (s.wcore core).working < 7 then s else s.putW core { s.wcore core with halted := false }
  else if isLat core then s.putL core { s.lcore core with halted := false, trip3At := none }
  else s

/-- The state with a core closed or opened to placement (R374, R422): opening it ends its trip 3. -/
def State.setClosed (s : State) (core : Nat) (closed : Bool) : State :=
  if isWeft core then
    let s := if closed then s else s.reopen core
    s.putW core { s.wcore core with closed := closed || (s.wcore core).working < 7 }
  else if isLat core && !closed then s.reopen (heatColumn core)
  else s

/-- The state with the register blocks in service on a weft core lowered, or raised again as far as blocks work (R422). -/
def State.setBlocks (s : State) (core n : Nat) : State :=
  if isWeft core then
    s.putW core { s.wcore core with rfblk := min (clamp 7 336 n) (s.wcore core).working }
  else s

/-- The state with corctl written for a core. -/
def State.setCorctl (s : State) (core v : Nat) : State :=
  let s := (s.setBlocks core (bitsAt v 3 9)).setClosed core (bitAt v 2)
  if bitAt v 1 then s.restart core else s

/-- CORCTL_RESTART (R422), for the core that corsel names. -/
def execCorctlRestart (s : State) : Result := .next (s.restart s.fw.corsel.toNat)

/-- CORCTL_CLOSED (R422). -/
def execCorctlClosed (closed : Bool) (s : State) : Result := .next (s.setClosed s.fw.corsel.toNat closed)

/-- CORCTL_RFBLK (R422). -/
def execCorctlRfblk (count : Nat) (s : State) : Result := .next (s.setBlocks s.fw.corsel.toNat count)

/-! ### Sensors -/

/-- The state with the suspect mark of a sensor cleared by firmware: the readings that its substitution gave and a
forced trip end with it (R375). -/
def State.clearSuspect (s : State) (k : Nat) : State :=
  (columnsNear k).foldl s.climb { s with sensors := tabPut s.sensors k { s.sensor k with suspect := false } }

/-- SUSPECT_CLEAR (R375), for the sensor that snsel names. -/
def execSuspectClear (s : State) : Result := .next (s.clearSuspect s.fw.snsel.toNat)

/-- snstat (R422). -/
def State.snstat (s : State) : Nat :=
  let x := s.sensor s.fw.snsel.toNat
  (x.raw % 2 ^ 16).toNat + flag x.suspect * 2 ^ 16

/-- temp of a core (R96): its compute sensor, or the hottest sensor of an L-die. -/
def State.temp (s : State) (core : Nat) : Int := if isWeft core then s.heat (2 * core) else s.reading (heatColumn core)

/-! ### Reading -/

/-- The weft that a thread is a member of. -/
def State.weftOf (s : State) (t : Thread) : Option Weft :=
  match t.loc with
  | .member c slot _ => s.weft? c slot
  | _ => none

/-- A system register as a thread on a core reads it (R96, R386, R422); spass of a thread that is no member of a weft, and
merr of one without a bolt, read 0 and ignore writes (log entry 69). -/
def State.sysRead (s : State) (t : Thread) (core n : Nat) : Word :=
  let w (m : Nat) : Word := BitVec.ofNat 64 m
  match n with
  | 0x000 => w t.tid
  | 0x001 => w t.pid
  | 0x002 => w (if t.onLatency then 0 else t.lane)
  | 0x003 => w (if t.onLatency then 0 else t.weft)
  | 0x004 => w t.stage
  | 0x005 => w t.nstage
  | 0x006 => w t.tcoord
  | 0x007 => w t.bcoord
  | 0x008 => w t.fcoord
  | 0x009 => w t.spawn
  | 0x00A => w core
  | 0x00B => w (dieOf core)
  | 0x00C => w s.gtick
  | 0x00D => t.fmode
  | 0x00E => ((s.weftOf t).map Weft.spass).getD 0
  | 0x00F => t.pc
  | 0x010 => t.rgn
  | 0x011 => t.pkey
  | 0x012 => w t.pwait
  | 0x013 => w t.yage
  | 0x014 => t.sigmask
  | 0x015 => w (s.ctx t.pid).ubcount
  | 0x016 => w (s.ctx t.pid).perm
  | 0x017 => w t.plvl.code
  | 0x018 => wordOfInt (s.temp core)
  | 0x019 => w (if isWeft core then (s.wcore core).vfloor else 0)
  | 0x01A => ((t.bolt.bind s.bolt?).map Bolt.merr).getD 0
  | 0x100 => t.trapcause
  | 0x101 => t.trapval
  | 0x102 => t.trappc
  | 0x103 => w (s.guardOf core)
  | 0x104 => (s.ctx t.pid).slope
  | 0x802 => if isWeft core then (s.wcore core).sscr else (s.lcore core).sscr
  | 0x80E => w s.snstat
  | 0x812 => w (s.corctl s.fw.corsel.toNat)
  | _ => s.fw.read n

/-- SRD (R95, R111). -/
def execSrd (f : Fields) (s : State) : Result :=
  let n := f.imm.toNat
  let pre (t : Thread) : Option Trap := match sysReadLevel n with
    | some l => if t.plvl.code < l then some (Trap.plain .priv 0) else none
    | none => none
  issue rSrd f false pre true
    (fun s l =>
      if (sysReadLevel n).isNone then .trapAfter State.bumpFresh ⟨.prot, Config.openTrapval s.fresh, false⟩
      else .value s (s.sysRead l.thread s.cur.core n)) s

/-! ### Writing -/

/-- The state with a bolt's merr written (R306): entries numbered nlog and above read as 0 afterwards. -/
def State.writeMerr (s : State) (bolt v : Nat) : State :=
  s.modBolt bolt fun b =>
    { b with merr := BitVec.ofNat 64 (merrMask v), elog := b.elog.take (bitsAt (merrMask v) 0 4) }

/-- The state with a context's perm written (R370). -/
def State.writePerm (s : State) (pid v : Nat) : State :=
  let cap := bitsAt v 8 8
  s.putCtx pid { s.ctx pid with cap, held := min cap (bitsAt v 0 8) }

/-- The state with hdm written: every region of the range stands at its owner table's reset value, which is H
(R418, log entry 16). -/
def State.resetOwners (s : State) : State :=
  (List.range (bitsAt s.fw.hdm.toNat 0 21)).foldl (fun s r => s.setOwnerByte r 1) s

/-- The state with a package register written, and with what the write does besides. -/
def State.writeFw (s : State) (n : Nat) (v : Word) : State :=
  let k := { s with fw := s.fw.write n v }
  match n with
  | 0x807 => { k with raceLogged := 0 }
  | 0x80C => k.climbAll
  | 0x80E => if v.getLsbD 16 then k else k.clearSuspect s.fw.snsel.toNat
  | 0x812 => k.setCorctl s.fw.corsel.toNat v.toNat
  | 0x817 => k.resetOwners
  | 0x818 => if v.toNat % 256 = 0xA5 then s.rebooted else k
  | _ => k

/-- The state with a register of thread scope written for a thread. R96 gives rgn no reserved bits and no range: bit 0, which
no instruction address has, is cleared, and the rest is taken as it is (log entry 88). -/
def Thread.sysWrite (t : Thread) (n : Nat) (v : Word) : Thread :=
  let x := v.toNat
  match n with
  | 0x00D => { t with fmode := BitVec.ofNat 64 (fmodeMask x) }
  | 0x010 => { t with rgn := v &&& ~~~1#64 }
  | 0x011 => { t with pkey := v }
  | 0x012 => { t with pwait := min x 65535 }
  | 0x013 => { t with yage := clamp 16 65535 x }
  | 0x014 => { t with sigmask := v &&& ~~~1#64 }
  | 0x100 => { t with trapcause := BitVec.ofNat 64 (bitsAt x 0 11) }
  | 0x101 => { t with trapval := v }
  | 0x102 => { t with trappc := v }
  | _ => t

/-- The state with a system register written by a thread on a core (R95, R96, R386, R422). -/
def State.sysWrite (s : State) (t : Thread) (core n : Nat) (v : Word) : State :=
  let x := v.toNat
  if threadScope n then s.modThread t.tid fun t => t.sysWrite n v
  else
    match n with
    | 0x00C => { s with gtick := x, interval := x / 250 }
    | 0x00E => match t.loc with
      | .member c slot _ => s.modWeft c slot fun w => { w with spass := v }
      | _ => s
    | 0x015 => s.putCtx t.pid { s.ctx t.pid with ubcount := min x (2 ^ 32 - 1) }
    | 0x016 => s.writePerm t.pid x
    | 0x01A => match t.bolt with
      | some b => s.writeMerr b x
      | none => s
    | 0x103 =>
      if isWeft core then s.putW core { s.wcore core with gset := clamp 1 255 x }
      else s.putL core { s.lcore core with gset := clamp 1 255 x }
    | 0x104 => s.putCtx t.pid { s.ctx t.pid with slope := BitVec.ofNat 64 (slopeMask x) }
    | 0x802 =>
      if isWeft core then s.putW core { s.wcore core with sscr := v } else s.putL core { s.lcore core with sscr := v }
    | _ => s.writeFw n v

/-- The check of SWR at the place of PRIV (R95). -/
def swrCheck (n : Nat) (t : Thread) : Option Trap :=
  match sysWriteLevel n with
  | some l => if t.plvl.code < l then some (Trap.plain .priv 0) else none
  | none => none

/-- The lane whose value a register of wider scope takes: the highest-numbered one that executes the SWR (R97). -/
def State.lastWriter (s : State) (f : Fields) (n : Nat) : Option Nat :=
  let un := dryClaims s rSwr f (swrCheck n) s.issueLanes
  let lanes := s.issueLanes.filter fun p => (laneTrap s p.2 rSwr f (swrCheck n p.2) un).isNone
  let cs := claimsOf s rSwr f (lanes.map fun p => (p.1, p.2.tid))
  let poisoned := fun pops : List (Nat × Popped) => (lanes.filter fun p =>
    (poisonTrap p.2 rSwr f false ((pops.filter fun q => q.1 == p.2.tid).map (·.2))).isSome).map fun p => p.2.tid
  let out := poisoned (settlePops s poisoned cs.length cs [])
  ((lanes.filter fun p => !out.contains p.2.tid).getLast?).map fun p => p.2.tid

/-- SWR (R95, R97, R111). -/
def execSwr (f : Fields) (s : State) : Result :=
  let n := f.imm.toNat
  let last := s.lastWriter f n
  issue rSwr f false (swrCheck n) false
    (fun s l =>
      if (sysWriteLevel n).isNone then .trapAfter State.bumpFresh ⟨.prot, Config.openTrapval s.fresh, false⟩
      else if threadScope n ∨ last = some l.tid then
        let k := s.sysWrite l.thread s.cur.core n l.a
        if n = 0x818 ∧ l.a.toNat % 256 = 0xA5 then .placed k else .done k
      else .done s) s

/-- SYSTEM_REGISTER_WRITE (R95): a write for a thread that stands on a core, of a register that can be written. -/
def execSystemRegisterWrite (tid number : Nat) (value : Word) (s : State) : Result :=
  .next (match s.thread? tid with
    | some t => match t.core? with
      | some core => if (sysWriteLevel number).isSome then s.sysWrite t core number value else s
      | none => s
    | none => s)

/-- PERM_WRITE (R370). -/
def execPermWrite (pid : Nat) (value : Word) (s : State) : Result := .next (s.writePerm pid value.toNat)

/-- MERR_WRITE (R306). -/
def execMerrWrite (bolt : Nat) (value : Word) (s : State) : Result := .next (s.writeMerr bolt value.toNat)

/-! ### Queues and regions -/

/-- QUEUE_CONFIG_WRITE (R334). -/
def execQueueConfigWrite (queue word : Nat) (value : Word) (s : State) : Result :=
  .next (if queue < 8192 ∧ word < 2 then s.setQueueWord queue word value.toNat else s)

/-- QUEUE_REQUEST_SERVE (R335): the base die keeps the requests that still wait, in their order; the one at the head is
served as its instruction issues again. -/
def execQueueRequestServe (queue : Nat) (s : State) : Result :=
  let q := s.queue queue
  .next (if q.waiters.all s.stillWaits then s
    else (s.putQueue queue { q with waiters := q.waiters.filter s.stillWaits }).settleQueue queue q.owed.length)

/-- Whether a region is one of the HDM range (R418). -/
def State.inHdm (s : State) (region : Nat) : Bool := region < bitsAt s.fw.hdm.toNat 0 21

/-- REGION_OWNER_WRITE (R418): a firmware write of own. -/
def execRegionOwnerWrite (region : Nat) (host : Bool) (s : State) : Result :=
  .next (if s.inHdm region then s.writeOwn region host else s)

/-- REGION_PIN_WRITE (R418): only while own is 1; one made while a transfer is in progress waits for its end (R426). -/
def execRegionPinWrite (region : Nat) (pin : Bool) (s : State) : Result :=
  .next (if s.inHdm region then s.writePin region pin else s)

end Sys2Proof.Machine
end

