-- ==== Sys2Proof/Machine/System.lean ====
section
/-! DEFINITION. The system instructions (R404 to R411): SIG, EVCT, TLBI, HALT, WFI, CTXS and CTXL. -/

namespace Sys2Proof.Machine

/-! ### SIG (R405) -/

/-- A refusal of the system instructions (R404). -/
def sysRefusal (code : Nat) : Word := BitVec.ofNat 64 (2 ^ 63 + code)

/-- Whether a thread lives (R39). -/
def Thread.live (t : Thread) : Bool := t.loc != .exited

/-- The threads that SIG, SIG.g and SIG.b name. -/
inductive SigTarget where
  | thread | group | bolt
  deriving DecidableEq, Repr

/-- Whether a thread is of the bolt that a word names: its spawn, and its bolt's index there (R405). -/
def State.inBoltWord (s : State) (v : Nat) (t : Thread) : Bool :=
  t.spawned && t.spawn == v / 2 ^ 32 && s.boltIndex t.spawn t.fcoord t.bcoord == v % 2 ^ 32

/-- The live threads that a target names. -/
def State.sigThreads (s : State) (k : SigTarget) (v : Nat) : List Thread :=
  (s.threads.map (·.2)).filter fun t => t.live && (match k with
    | .thread => t.tid == v
    | .group => t.pid == v
    | .bolt => s.inBoltWord v t)

/-- Whether a word is a valid signal word (R391). -/
def signalValid (w : Word) : Bool := signalNum w != 0 && bitsAt w.toNat 6 10 == 0

/-- The refusal of a SIG, first that holds in the order of R405. -/
def sigRefusal (k : SigTarget) (me : Thread) (ts : List Thread) (w : Word) : Option Nat :=
  if !signalValid w then some 3
  else if ts.isEmpty then some 1
  else if me.plvl = .user ∧ ts.any fun t => t.pid != me.pid then some 2
  else if k = .thread ∧ ts.all fun t => 64 ≤ t.inbox.length then some 4
  else none

/-- SIG for one lane: the post is a release. -/
def sigLane (k : SigTarget) : Body := fun s l =>
  match lostTrap l.thread with
  | some t => .trap t false
  | none =>
  if !s.performed l.tid then .wait id
  else
    let ts := s.sigThreads k l.a.toNat
    match sigRefusal k l.thread ts l.b with
    | some c => .value s (sysRefusal c)
    | none =>
      let open_ := ts.filter fun t => t.inbox.length < 64
      .value (open_.foldl (fun s t => s.postSignal t.tid l.b) (s.released l.tid)) (BitVec.ofNat 64 open_.length)

/-- SIG (R405). -/
def execSig (f : Fields) (s : State) : Result := issue rDst2 f true (fun _ => none) false (sigLane .thread) s
/-- SIG.g (R405). -/
def execSigG (f : Fields) (s : State) : Result := issue rDst2 f true (fun _ => none) false (sigLane .group) s
/-- SIG.b (R405). -/
def execSigB (f : Fields) (s : State) : Result := issue rDst2 f true (fun _ => none) false (sigLane .bolt) s

/-! ### EVCT (R406) -/

/-- What EVCT.b, EVCT.f, EVCT.s and EVCT.c name. -/
inductive EvctTarget where
  | bolt | flock | spawn | context
  deriving DecidableEq, Repr

/-- Whether a flock of a spawn exists: it has bolts that have not ended, or it waits. -/
def State.flockExists (s : State) (spawn fcoord : Nat) : Bool :=
  !(s.flockBolts spawn fcoord).isEmpty || s.spawnU.waiting.any fun w => w.spawn == spawn && w.fcoord == fcoord

/-- The bolts of each flock of a spawn. -/
def State.flockSize (s : State) (spawn : Nat) : Nat := ((s.spawn? spawn).map fun sp => sp.desc.fm1 + 1).getD 1

/-- Whether a bolt of a spawn exists: it has not ended, or its flock waits to be placed for the first time. -/
def State.boltExists (s : State) (spawn fcoord bcoord : Nat) : Bool :=
  ((s.flockBolts spawn fcoord).any fun b => b.bcoord == bcoord)
    || s.spawnU.waiting.any fun w => w.spawn == spawn && w.fcoord == fcoord && w.bolts.isEmpty

/-- Whether an EVCT's target exists: a context does while a thread of it lives or a flock of it waits. -/
def State.evctExists (s : State) (k : EvctTarget) (v : Nat) : Bool :=
  match k with
  | .bolt =>
    let f := s.flockSize (v / 2 ^ 32)
    s.boltExists (v / 2 ^ 32) (v % 2 ^ 32 / f) (v % 2 ^ 32 % f)
  | .flock => s.flockExists (v / 2 ^ 32) (v % 2 ^ 32)
  | .spawn => (s.spawn? (v % 2 ^ 32)).isSome
  | .context => (s.threads.any fun p => p.2.live && p.2.pid == v)
      || s.spawnU.waiting.any fun w => (s.spawn? w.spawn).any fun sp => sp.pid == v

/-- Whether a flock is among an EVCT's target. -/
def State.evctHits (s : State) (k : EvctTarget) (v : Nat) (key : Nat × Nat) : Bool :=
  match k with
  | .bolt => key == (v / 2 ^ 32, v % 2 ^ 32 / s.flockSize (v / 2 ^ 32))
  | .flock => key == (v / 2 ^ 32, v % 2 ^ 32)
  | .spawn => key.1 == v % 2 ^ 32
  | .context => (s.flockBolts key.1 key.2).any fun b => b.pid == v

/-- The resident flocks that an EVCT evicts, each once, with those that go along (R38). -/
def State.evctFlocks (s : State) (k : EvctTarget) (v : Nat) : List (Nat × Nat) :=
  ((s.residentFlocks.filter (s.evctHits k v)).flatMap s.evictedWith).eraseDups

/-- The state with the pack wefts and pooled threads of a context cleared on every core (R399). -/
def State.clearContext (s : State) (pid : Nat) : State :=
  s.wcores.foldl
    (fun s p => (s.clearPacks p.1 fun b => b.pid == pid).clearPool p.1 fun t => t.pid == pid) s

/-- The state with an EVCT's eviction begun. -/
def State.beginEvct (s : State) (k : EvctTarget) (v : Nat) : State :=
  let s := (s.evctFlocks k v).foldl State.evictFlock s
  if k = .context then s.clearContext v else s

/-- Whether a flock is still being evicted. -/
def State.leavingFlock (s : State) (key : Nat × Nat) : Bool := (s.flockBolts key.1 key.2).any Bolt.evicting

/-- EVCT for one lane: it completes when every save area has been written. -/
def evctLane (k : EvctTarget) : Body := fun s l =>
  match l.thread.wait with
  | .evct ks =>
    if ks.any s.leavingFlock then .wait id
    else .value (s.modThread l.tid fun t => { t with wait := .none }) (BitVec.ofNat 64 ks.length)
  | _ =>
    let v := l.a.toNat
    if !s.evctExists k v then .value s (sysRefusal 1)
    else
      let ks := s.evctFlocks k v
      if ks.isEmpty then .value (s.beginEvct k v) 0
      else .wait fun z => (z.beginEvct k v).modThread l.tid fun t => { t with wait := .evct ks }

/-- EVCT.b (R406). -/
def execEvctB (f : Fields) (s : State) : Result := issue (rDst1.at 1) f false (fun _ => none) false (evctLane .bolt) s
/-- EVCT.f (R406). -/
def execEvctF (f : Fields) (s : State) : Result := issue (rDst1.at 1) f false (fun _ => none) false (evctLane .flock) s
/-- EVCT.s (R406). -/
def execEvctS (f : Fields) (s : State) : Result := issue (rDst1.at 1) f false (fun _ => none) false (evctLane .spawn) s
/-- EVCT.c (R406). -/
def execEvctC (f : Fields) (s : State) : Result := issue (rDst1.at 1) f false (fun _ => none) false (evctLane .context) s

/-! ### TLBI (R407) -/

/-- What a TLBI drops: the translations of an address in every space, of an address in a space, of a space, all, or
those of one core. -/
inductive Drop where
  | va (va : Nat)
  | vaIn (va space : Nat)
  | space (space : Nat)
  | all
  | core (core : Nat)
  deriving DecidableEq, Repr

/-- Whether a TLBI drops a translation that a core holds. -/
def Drop.hits (d : Drop) (core : Nat) (e : Tlb) : Bool :=
  match d with
  | .va v => v / 2 ^ e.bits == e.vbase
  | .vaIn v n => e.covers n v
  | .space n => !e.glob && e.space == n
  | .all => true
  | .core c => c == core

/-- Whether an access of a thread of a space, at an address, from a core, may use a translation that a TLBI drops: one
of the same 1 GiB page at most. -/
def Drop.meets (d : Drop) (core space va : Nat) : Bool :=
  match d with
  | .va v => va / 2 ^ 30 == v / 2 ^ 30
  | .vaIn v n => n == space && va / 2 ^ 30 == v / 2 ^ 30
  | .space n => n == space
  | .all => true
  | .core c => c == core

/-- The state with every translation that a TLBI names dropped, from the cores' TLBs and from those that the dies share;
TLBI.l drops its own core's only. -/
def State.dropTlb (s : State) (d : Drop) : State :=
  { s with
    wcores := s.wcores.map fun p => (p.1, { p.2 with tlb := p.2.tlb.filter fun e => !d.hits p.1 e })
    lcores := s.lcores.map fun p => (p.1, { p.2 with tlb := p.2.tlb.filter fun e => !d.hits p.1 e })
    dtlb := s.dtlb.map fun p => (p.1, p.2.filter fun e => !d.hits 1000 e) }

/-- Whether an access or a job from before a mark may still use a dropped translation. -/
def State.usesDropped (s : State) (d : Drop) (mark : Nat) : Bool :=
  (s.pend.any fun p => p.id < mark && !p.unchecked && !p.bound && (match s.thread? p.tid with
      | some t => d.meets (t.core?.getD 0) (spaceOf t.pid) p.va.toNat
      | none => false))
    || (s.stores.any fun p => p.id < mark && d.meets p.core p.space p.va.toNat)
    || s.jobs.any fun j => !j.retired && j.num < mark && j.stmp
        && d.meets (engineOf j.handle) (spaceOf j.pid) j.stampVa.toNat

/-- TLBI for one lane: after its thread's earlier stores, it drops the translations and then waits for what uses
them. -/
def tlbiLane (d : Lane → Drop) : Body := fun s l =>
  match l.thread.wait with
  | .jobs m =>
    if s.usesDropped (d l) m then .wait id
    else .done ((s.dropTlb (d l)).modThread l.tid fun t => { t with wait := .none })
  | _ =>
    if !(s.storesOf l.tid).isEmpty then .wait id
    else if s.usesDropped (d l) s.seq then
      .wait fun k => (k.dropTlb (d l)).modThread l.tid fun t => { t with wait := .jobs s.seq }
    else .done (s.dropTlb (d l))

/-- TLBI.va (R407). -/
def execTlbiVa (f : Fields) (s : State) : Result :=
  issue (rSrc1.at 1) f false (fun _ => none) false (tlbiLane fun l => .va l.a.toNat) s
/-- TLBI.vas (R407). -/
def execTlbiVas (f : Fields) (s : State) : Result :=
  issue (rSrc2.at 1) f false (fun _ => none) false (tlbiLane fun l => .vaIn l.a.toNat (bitsAt l.b.toNat 0 16)) s
/-- TLBI.as (R407). -/
def execTlbiAs (f : Fields) (s : State) : Result :=
  issue (rSrc1.at 1) f false (fun _ => none) false (tlbiLane fun l => .space (bitsAt l.a.toNat 0 16)) s
/-- TLBI.all (R407). -/
def execTlbiAll (f : Fields) (s : State) : Result :=
  issue (rNone.at 1) f false (fun _ => none) false (tlbiLane fun _ => .all) s
/-- TLBI.l (R407). -/
def execTlbiL (f : Fields) (s : State) : Result :=
  issue (rNone.at 1) f false (fun _ => none) false (tlbiLane fun _ => .core s.cur.core) s

/-! ### HALT (R408) -/

/-- HALT (R408): a latency core stops once the issuer's earlier accesses are performed; a weft core is emptied. -/
def execHalt (f : Fields) (s : State) : Result :=
  issue (rNone.at 1) f false (fun _ => none) false
    (fun s l =>
      if !l.thread.onLatency then .done (s.emptyCore s.cur.core)
      else if !s.performed l.tid then .wait id
      else .done (s.haltLatency s.cur.core)) s

/-- HALT.p (R408). -/
def execHaltP (f : Fields) (s : State) : Result :=
  issue (rNone.at 2) f false (fun _ => none) false
    (fun s l => if !s.performed l.tid then .wait id else .done s.haltPackage) s

/-! ### WFI (R409) -/

/-- WFI for one lane, with the bound of WFI.t; one whose bound is a word of a queue ends at its issue, which pops the
word (R58). -/
def wfiLane (f : Fields) (bound : Lane → Option Nat) : Body := fun s l =>
  if !l.thread.onLatency then .trapAfter State.bumpFresh ⟨.needw, Config.openTrapval s.fresh, false⟩
  else if l.thread.inbox.any l.thread.unblocked then .value (s.modThread l.tid fun t => { t with wait := .none }) 0
  else
    match l.thread.wait with
    | .wfi _ _ _ => .wait id
    | .wfiPort t0 n =>
      if t0 + n ≤ s.gtick then .value (s.modThread l.tid fun t => { t with wait := .none }) 1 else .wait id
    | _ => .wait fun k => k.modThread l.tid fun t => { t with
        wait := match bound l with
          | some n => if f.s1.val < 56 then .wfi f.rd.val k.gtick (some n) else .wfiPort k.gtick n
          | none => .wfi f.rd.val k.gtick none }

/-- WFI (R409). -/
def execWfi (f : Fields) (s : State) : Result :=
  issue (rDst.at 1) f false (fun _ => none) false (wfiLane f fun _ => none) s

/-- WFI.t (R409). -/
def execWfiT (f : Fields) (s : State) : Result :=
  issue (rDst1.at 1) f false (fun _ => none) false (wfiLane f fun l => some (bitsAt l.a.toNat 0 32)) s

/-- WFI_TIMEOUT (R409): the thread goes on with 1, past the instruction, which is 4 bytes long. -/
def tryWfiTimeout (tid : Nat) (s : State) : Option State :=
  match s.thread? tid with
  | none => none
  | some t =>
    match t.wait with
    | .wfi rd t0 (some n) =>
      if s.gtick < t0 + n then none
      else some (s.putThread { t.setReg rd ⟨1, true, false⟩ with wait := .none, pc := t.pc + 4 })
    | _ => none

/-- WFI_TIMEOUT. -/
def execWfiTimeout (tid : Nat) (s : State) : Result := .next ((tryWfiTimeout tid s).getD s)

/-! ### Spans of memory for CTXS and CTXL (R410) -/

/-- A piece of a span: its access, its offset in the span and its length. -/
abbrev Piece := Access × Nat × Nat

/-- The checks of a span of n bytes at v, piece by piece up to each 32-byte boundary, in order, so that a piece lies in one
watched sector (R237); `i` is the offset of the next piece. An empty span is checked at v (R410). -/
def chkSpan (t : Thread) (core : Nat) (write : Bool) (v : Int) (n align : Nat) : Nat → Nat → State → Chk (List Piece)
  | 0, _, s => .ok s []
  | fuel + 1, i, s =>
    if n = 0 then (chkAccess s t core v align write).bind fun s _ => .ok s []
    else if n ≤ i then .ok s []
    else
      let a := v + i
      let m := min (n - i) (32 - (a % 32).toNat)
      (chkAccess s t core a (if i = 0 then align else 8) write).bind fun s x =>
        (chkSpan t core write v n align fuel (i + m) s).bind fun s l => .ok s ((x, i, m) :: l)

/-- A span of n bytes at v, checked. -/
def checkSpan (s : State) (t : Thread) (core : Nat) (write : Bool) (v : Int) (n align : Nat) : Chk (List Piece) :=
  chkSpan t core write v n align (n / 32 + 2) 0 s

/-- The state with one piece of a span written, with its poison marks (R396); queue registers are written as such
(R334), their tile marked first and the access recorded (R351, R352). -/
def State.writePiece (s : State) (t : Thread) (core : Nat) (bs : List Byte) (pz : List Bool) (p : Piece) : State :=
  let a := p.1
  let mtype := leafMtype a.leaf
  let mine := (bs.drop p.2.1).take p.2.2
  if (queueReg a.pa).isSome then
    ((s.markDirty (spaceOf t.pid) a.va t.spawn).regStore a.pa mine mine.length).recordFor t a.va true
  else
  let s := s.performWrite t core a.pa a.va mine (leafCls a.leaf) mtype (leafRace a.leaf) false
    (isWeft core || mtype != 0)
  let marks := (List.range p.2.2).foldl
    (fun l i => if (pz[p.2.1 + i]?).getD false then addrMark l (a.pa + i) 1 true else l) s.memPoison
  { s with memPoison := marks }

/-- One piece of a span read at home: its bytes with their poison marks. -/
def State.readPiece (s : State) (t : Thread) (p : Piece) : State × Marked :=
  let a := p.1
  if (queueReg a.pa).isSome then
    let r := s.portRead a.pa p.2.2
    (r.1, r.2.map fun b => (b, false))
  else
  let s := if leafMtype a.leaf = 0 then s.dirHR (a.pa / 128) else s
  let bs := (List.range p.2.2).map fun i => (s.byteAt (a.pa + i), s.poisonAt (a.pa + i) 1)
  let s := (s.noteSeen t.tid (s.stampOf (a.pa / 128)).wts).recordFor t a.va false
  (s.afterRead a.pa p.2.2, bs)

/-- A span read, piece by piece. -/
def State.readSpan (s : State) (t : Thread) (l : List Piece) : State × Marked :=
  l.foldl (fun r p => let x := r.1.readPiece t p; (x.1, r.2 ++ x.2)) (s, [])

/-- Whether a lane's context instruction must wait for its thread's outstanding results and accesses (R410). -/
def ctxWaits (s : State) (l : Lane) : Bool := !s.loadsDone l.tid || !s.performed l.tid

/-- A CTXS of n bytes for one lane: `data` gives the bytes with their poison marks. -/
def saveSpan (f : Fields) (l : Lane) (s : State) (n align : Nat) (bs : List Byte) (pz : List Bool) : Act :=
  let core := s.cur.core
  Chk.act (fun k => checkSpan k l.thread core true (l.addr f) n align) s fun k ps =>
    .done (ps.foldl (fun k p => k.writePiece l.thread core bs pz p) k)

/-- A CTXL of n bytes for one lane: `put` takes what is read. -/
def loadPart (f : Fields) (l : Lane) (s : State) (n align : Nat) (put : State → Marked → Act) : Act :=
  let core := s.cur.core
  Chk.act (fun k => checkSpan k l.thread core false (l.addr f) n align) s fun k ps =>
    let r := k.readSpan l.thread ps
    put r.1 r.2

/-- The bytes of marked bytes, and their marks. -/
def Marked.bytes (b : Marked) : List Byte := b.map (·.1)
def Marked.marks (b : Marked) : List Bool := b.map (·.2)

/-- One issue of a context instruction. -/
def issueCtx (f : Fields) (body : Body) (s : State) : Result :=
  issue (rClfl.at 1) f false (fun _ => none) false (fun s l => if ctxWaits s l then .wait id else body s l) s

/-! ### The parts -/

/-- CTXS.g (R410). -/
def execCtxsG (f : Fields) (s : State) : Result :=
  issueCtx f (fun s l =>
    let t := l.thread
    saveSpan f l s 448 8
      (dwordBytes ((List.range 55).map (fun i => (t.reg (i + 1)).val.toNat) ++ [t.fullWord 0])) t.regPoison) s

/-- CTXL.g (R410): every register, the address register included; it ignores the reserved bits of the full dword (log
entry 68). -/
def execCtxlG (f : Fields) (s : State) : Result :=
  issueCtx f (fun s l => loadPart f l s 448 8 fun k b =>
    let w := dwords b.bytes
    .done (k.modThread l.tid fun t =>
      t.withRegs w (dwordAt w 55) fun i => (b.marks.drop (8 * i)).take 8 |>.any id)) s

/-- The word of a pending barrier wait and the clock request (R411). -/
def Thread.clockWord (t : Thread) : Nat :=
  t.clock + (match t.bwait with | some k => 32 + k.code * 64 | none => 0)

/-- The s part of a thread's context (R411). -/
def State.sPart (s : State) (t : Thread) : List Nat :=
  let t := { t with vstamp := s.viewOf t }
  [t.tid, t.pid, t.tblk, t.trapcause.toNat, t.trapval.toNat, t.trappc.toNat, t.rgn.toNat, t.pkey.toNat,
    t.sigmask.toNat, t.controlWord 0 (s.blockCount t), t.viewWord,
    t.retPoint.toNat - bitsAt t.retPoint.toNat 0 1 + flag t.xr, t.clockWord, 0, 0, 0]

/-- CTXS.s (R411). -/
def execCtxsS (f : Fields) (s : State) : Result :=
  issueCtx f (fun s l => saveSpan f l s 128 8 (dwordBytes (s.sPart l.thread)) []) s

/-- A thread that system software has made, from its thread block (R176): one that the package does not know. -/
def State.blockThread (s : State) (tid pid tblk : Nat) : Thread :=
  let c := s.valueAt (tblk + 0x18) 8
  s.readCoords { Thread.fresh tid pid 0 .user with tblk, weft := bitsAt c 12 5, lane := bitsAt c 0 10 % 32 }

/-- The thread that a thread block stands for: the one that the package knows, or a new one. -/
def State.incoming (s : State) (tid pid tblk : Nat) : Thread :=
  match s.thread? tid with
  | some t => if t.live ∧ t.pid = pid then s.readCoords { t with tblk } else s.blockThread tid pid tblk
  | none => s.blockThread tid pid tblk

/-- Whether the package knows a thread: a live one of its tid and process. -/
def State.knows (s : State) (t : Thread) : Bool := (s.thread? t.tid).any fun x => x.live && x.pid == t.pid

/-- The incoming thread with what of its s part the package knows better (R240, R392): the view stamp is re-based as the
sweep re-bases one (the age of a saved copy is not known; log entry 86), and a barrier wait that has ended since the
part was saved is not pending again. -/
def State.refreshed (s : State) (t u : Thread) : Thread :=
  { u with
    vstamp := stampMax (s.rebase u.vstamp) (if s.knows t then t.vstamp else s.rebase u.vstamp)
    bwait := if s.knows t ∧ u.bwait ≠ t.bwait then none else u.bwait }

/-- The incoming thread with its s part loaded (R411); level and sub-state are ignored, and so are reserved fields, whose
bits read as 0 (R6; log entry 68). -/
def Thread.withSPart (t : Thread) (w : List Nat) : Thread :=
  let d (i : Nat) : Nat := dwordAt w i
  let word (i : Nat) : Word := BitVec.ofNat 64 (d i)
  { t.withControl (d 9) with
    trapcause := BitVec.ofNat 64 (bitsAt (d 3) 0 11), trapval := word 4, trappc := word 5, rgn := word 6 &&& ~~~1#64,
    pkey := word 7, sigmask := word 8 &&& ~~~1#64,
    blocks := bitsAt (d 9) 49 3, vstamp := bitsAt (d 10) 44 20,
    retPoint := word 11 &&& ~~~1#64, xr := bitAt (d 11) 0, clock := max 4 (min 19 (bitsAt (d 12) 0 5)),
    bwait := if bitAt (d 12) 5 then some (BarKind.ofCode (bitsAt (d 12) 6 2)) else none }

/-- The state with a latency core switched from its running thread to an incoming one, which goes on at pc with the
core's registers, ports and level (R411); the outgoing thread leaves the core, which its release count and the
privatised lines there follow (R237, R251). -/
def State.switchThread (s : State) (core : Nat) (out inc : Thread) (pc : Word) : State :=
  let inc := { inc with
    regs := out.regs, ports := out.ports, pc, plvl := out.plvl, sub := .active, wait := .none, leave := none,
    loc := .latency core, monitor := Monitor.idle }
  if inc.tid = out.tid then s.putThread { inc with monitor := out.monitor }
  else
    let s := match s.thread? inc.tid with
      | some t => s.unseat t
      | none => s
    let s := (s.coreRelease core).putThread { out.dropMonitor with loc := .saved }
    let l := s.lcore core
    ((s.putThread inc).dropCode core).putL core { l with cur := some inc.tid, run := l.run.filter fun x => x != inc.tid }

/-- CTXL.s (R410, R411): on a latency core only; a space entry of another pid is a machine check (R201). -/
def execCtxlS (f : Fields) (s : State) : Result :=
  issueCtx f (fun s l =>
    if !l.thread.onLatency then .trap (Trap.intAt .prot (l.addr f)) false
    else loadPart f l s 128 8 fun k b =>
      let w := dwords b.bytes
      if k.pidMismatch (dwordAt w 1) then .trap Trap.pid false
      else
        let t := k.incoming (dwordAt w 0) (dwordAt w 1) (dwordAt w 2)
        let inc := k.refreshed t (t.withSPart w)
        .placed (k.switchThread k.cur.core ((k.thread? l.tid).getD l.thread) inc (nextPc f l.thread.pc))) s

/-- CTXS.q (R410). -/
def execCtxsQ (f : Fields) (s : State) : Result :=
  issueCtx f (fun s l => saveSpan f l s 16 8 (dwordBytes [l.thread.bindWord 0, l.thread.bindWord 4]) []) s

/-- CTXL.q (R410); it ignores the reserved bit of each binding (log entry 68). -/
def execCtxlQ (f : Fields) (s : State) : Result :=
  issueCtx f (fun s l => loadPart f l s 16 8 fun k b =>
    let w := dwords b.bytes
    .done (k.modThread l.tid fun t => t.withBinds (dwordAt w 0) (dwordAt w 1))) s

/-- A part of a bolt for one lane (R410): NEEDW on a latency core. -/
def boltPart (s : State) (l : Lane) (body : Bolt → Act) : Act :=
  if l.thread.onLatency then .trapAfter State.bumpFresh ⟨.needw, Config.openTrapval s.fresh, false⟩
  else
    match l.thread.bolt.bind s.bolt? with
    | some b => body b
    | none => .done s

/-- CTXS.m (R410): once the array has performed what it holds of the bolt. -/
def execCtxsM (f : Fields) (s : State) : Result :=
  issueCtx f (fun s l => boltPart s l fun b =>
    if s.arrayBusy b.id then .wait id
    else
      let parts := (List.range b.nslice).map b.sliceBytes
      saveSpan f l s (16384 * b.nslice) 64 (parts.flatMap (·.1)) (parts.flatMap (·.2))) s

/-- The state with the slices of a bolt taken from bytes (R400). -/
def State.loadSlices (s : State) (bolt n : Nat) (b : Marked) : State :=
  let el (e : Nat) : Marked := (b.drop (4 * e)).take 4
  s.modBolt bolt fun t =>
    { t with
      acc := (List.range (4096 * n)).filterMap fun e =>
        let v := BitVec.ofNat 32 (leNat (el e).bytes)
        if v = 0 then none else some (e, v)
      accErr := (List.range (4096 * n)).filter fun e => (el e).marks.any id }

/-- CTXL.m (R410). -/
def execCtxlM (f : Fields) (s : State) : Result :=
  issueCtx f (fun s l => boltPart s l fun b =>
    if s.arrayBusy b.id then .wait id
    else loadPart f l s (16384 * b.nslice) 64 fun k m => .done (k.loadSlices b.id b.nslice m)) s

/-- CTXS.sp (R410), as one scratchpad instruction of the weft (R187). -/
def execCtxsSp (f : Fields) (s : State) : Result :=
  issueCtx f (fun s l => boltPart s l fun b =>
    if s.spWaits b.id 0 b.size false then .wait id
    else saveSpan f l s b.size 64 (b.bytes 0 b.size) ((List.range b.size).map fun i => b.spPoison.contains (i / 4))) s

/-- CTXL.sp (R410). -/
def execCtxlSp (f : Fields) (s : State) : Result :=
  issueCtx f (fun s l => boltPart s l fun b =>
    if s.spWaits b.id 0 b.size true then .wait id
    else loadPart f l s b.size 64 fun k m =>
      .done (k.modBolt b.id fun b =>
        let b := b.write 0 m.bytes
        { b with spPoison := (poisonWords 0 m.marks).foldl addrAdd b.spPoison })) s

/-- The header of a bolt and its 32 weft table entries (R410). -/
def State.hPart (s : State) (b : Bolt) : List Nat :=
  b.header (s.crookOf b) ++ (List.range 32).flatMap fun i =>
    match (s.weftsOf b).find? fun x => x.2.widx == i with
    | some x => x.2.entry (s.memberThreads x.2)
    | none => List.replicate 8 0

/-- CTXS.h (R410). -/
def execCtxsH (f : Fields) (s : State) : Result :=
  issueCtx f (fun s l => boltPart s l fun b =>
    if b.pack then .trap (Trap.intAt .prot (l.addr f)) false
    else saveSpan f l s 6144 64 (dwordBytes (s.hPart b)) []) s

/-- CTXL.h (R410): merr, the error log, channel heads and tails, and handle state. -/
def execCtxlH (f : Fields) (s : State) : Result :=
  issueCtx f (fun s l => boltPart s l fun b =>
    if b.pack then .trap (Trap.intAt .prot (l.addr f)) false
    else loadPart f l s 6144 64 fun k m => .done (k.modBolt b.id fun b => b.loadHeader (dwords m.bytes))) s

/-- CTXS.t (R410): the monitor and the failed-job count. -/
def execCtxsT (f : Fields) (s : State) : Result :=
  issueCtx f (fun s l =>
    let m := l.thread.monitor
    saveSpan f l s 16 8
      (dwordBytes [m.line % 2 ^ 45 * 128 + flag m.fired * 2 ^ 62 + flag m.armed * 2 ^ 63, s.failedFor l.thread]) []) s

/-- CTXL.t (R410): the monitor is armed again with fired set; reserved bits are ignored (log entry 68). -/
def execCtxlT (f : Fields) (s : State) : Result :=
  issueCtx f (fun s l => loadPart f l s 16 8 fun k b =>
    let w := dwords b.bytes
    let m : Monitor :=
      if bitAt (dwordAt w 0) 63 then ⟨bitsAt (dwordAt w 0) 7 45, true, true, false⟩ else Monitor.idle
    .done ((k.modThread l.tid fun t => { t with monitor := m }).setFailed l.thread (dwordAt w 1))) s

end Sys2Proof.Machine
end

