-- ==== Sys2Proof/Machine/Dispatch.lean ====
section
/-! DEFINITION. One arm for each constructor of Instr: a direct call of its meaning. -/

namespace Sys2Proof.Machine

def exec (i : Instr) (s : State) : Host.Outcome State Fault Refusal :=
  match i with
  | .add f => Sys2Proof.Machine.execAdd f s
  | .sub f => Sys2Proof.Machine.execSub f s
  | .addi f => Sys2Proof.Machine.execAddi f s
  | .li f => Sys2Proof.Machine.execLi f s
  | .lih f => Sys2Proof.Machine.execLih f s
  | .addpc f => Sys2Proof.Machine.execAddpc f s
  | .mul f => Sys2Proof.Machine.execMul f s
  | .mulh f => Sys2Proof.Machine.execMulh f s
  | .mulhu f => Sys2Proof.Machine.execMulhu f s
  | .mulhsu f => Sys2Proof.Machine.execMulhsu f s
  | .div f => Sys2Proof.Machine.execDiv f s
  | .divu f => Sys2Proof.Machine.execDivu f s
  | .rem f => Sys2Proof.Machine.execRem f s
  | .remu f => Sys2Proof.Machine.execRemu f s
  | .and f => Sys2Proof.Machine.execAnd f s
  | .or f => Sys2Proof.Machine.execOr f s
  | .xor f => Sys2Proof.Machine.execXor f s
  | .andn f => Sys2Proof.Machine.execAndn f s
  | .orn f => Sys2Proof.Machine.execOrn f s
  | .xnor f => Sys2Proof.Machine.execXnor f s
  | .shl f => Sys2Proof.Machine.execShl f s
  | .shr f => Sys2Proof.Machine.execShr f s
  | .sra f => Sys2Proof.Machine.execSra f s
  | .rol f => Sys2Proof.Machine.execRol f s
  | .ror f => Sys2Proof.Machine.execRor f s
  | .clz f => Sys2Proof.Machine.execClz f s
  | .ctz f => Sys2Proof.Machine.execCtz f s
  | .popc f => Sys2Proof.Machine.execPopc f s
  | .brev f => Sys2Proof.Machine.execBrev f s
  | .bswap f => Sys2Proof.Machine.execBswap f s
  | .bfx f => Sys2Proof.Machine.execBfx f s
  | .bfxu f => Sys2Proof.Machine.execBfxu f s
  | .bfi f => Sys2Proof.Machine.execBfi f s
  | .min f => Sys2Proof.Machine.execMin f s
  | .max f => Sys2Proof.Machine.execMax f s
  | .minu f => Sys2Proof.Machine.execMinu f s
  | .maxu f => Sys2Proof.Machine.execMaxu f s
  | .abs f => Sys2Proof.Machine.execAbs f s
  | .sel f => Sys2Proof.Machine.execSel f s
  | .cmp f => Sys2Proof.Machine.execCmp f s
  | .cmpi f => Sys2Proof.Machine.execCmpi f s
  | .mov f => Sys2Proof.Machine.execMov f s
  | .sextB f => Sys2Proof.Machine.execSextB f s
  | .sextH f => Sys2Proof.Machine.execSextH f s
  | .sextW f => Sys2Proof.Machine.execSextW f s
  | .zextB f => Sys2Proof.Machine.execZextB f s
  | .zextH f => Sys2Proof.Machine.execZextH f s
  | .zextW f => Sys2Proof.Machine.execZextW f s
  | .empt f => Sys2Proof.Machine.execEmpt f s
  | .fill f => Sys2Proof.Machine.execFill f s
  | .tstf f => Sys2Proof.Machine.execTstf f s
  | .qbind f => Sys2Proof.Machine.execQbind f s
  | .qunb f => Sys2Proof.Machine.execQunb f s
  | .qstat f => Sys2Proof.Machine.execQstat f s
  | .srd f => Sys2Proof.Machine.execSrd f s
  | .swr f => Sys2Proof.Machine.execSwr f s
  | .faddD f => Sys2Proof.Machine.execFaddD f s
  | .faddS f => Sys2Proof.Machine.execFaddS f s
  | .fsubD f => Sys2Proof.Machine.execFsubD f s
  | .fsubS f => Sys2Proof.Machine.execFsubS f s
  | .fmulD f => Sys2Proof.Machine.execFmulD f s
  | .fmulS f => Sys2Proof.Machine.execFmulS f s
  | .ffmaD f => Sys2Proof.Machine.execFfmaD f s
  | .ffmaS f => Sys2Proof.Machine.execFfmaS f s
  | .fdivD f => Sys2Proof.Machine.execFdivD f s
  | .fdivS f => Sys2Proof.Machine.execFdivS f s
  | .fsqrtD f => Sys2Proof.Machine.execFsqrtD f s
  | .fsqrtS f => Sys2Proof.Machine.execFsqrtS f s
  | .fminD f => Sys2Proof.Machine.execFminD f s
  | .fminS f => Sys2Proof.Machine.execFminS f s
  | .fmaxD f => Sys2Proof.Machine.execFmaxD f s
  | .fmaxS f => Sys2Proof.Machine.execFmaxS f s
  | .fcmpD f => Sys2Proof.Machine.execFcmpD f s
  | .fcmpS f => Sys2Proof.Machine.execFcmpS f s
  | .fclass f => Sys2Proof.Machine.execFclass f s
  | .fsgn f => Sys2Proof.Machine.execFsgn f s
  | .fcvtD f => Sys2Proof.Machine.execFcvtD f s
  | .fcvtS f => Sys2Proof.Machine.execFcvtS f s
  | .fcvtH f => Sys2Proof.Machine.execFcvtH f s
  | .fcvtBf f => Sys2Proof.Machine.execFcvtBf f s
  | .fcvtiD f => Sys2Proof.Machine.execFcvtiD f s
  | .fcvtiS f => Sys2Proof.Machine.execFcvtiS f s
  | .fcvtiuD f => Sys2Proof.Machine.execFcvtiuD f s
  | .fcvtiuS f => Sys2Proof.Machine.execFcvtiuS f s
  | .icvtfD f => Sys2Proof.Machine.execIcvtfD f s
  | .icvtfS f => Sys2Proof.Machine.execIcvtfS f s
  | .icvtfuD f => Sys2Proof.Machine.execIcvtfuD f s
  | .icvtfuS f => Sys2Proof.Machine.execIcvtfuS f s
  | .frndD f => Sys2Proof.Machine.execFrndD f s
  | .frndS f => Sys2Proof.Machine.execFrndS f s
  | .frcp f => Sys2Proof.Machine.execFrcp f s
  | .frsq f => Sys2Proof.Machine.execFrsq f s
  | .fexp2 f => Sys2Proof.Machine.execFexp2 f s
  | .flog2 f => Sys2Proof.Machine.execFlog2 f s
  | .fsin f => Sys2Proof.Machine.execFsin f s
  | .fcos f => Sys2Proof.Machine.execFcos f s
  | .padd f => Sys2Proof.Machine.execPadd f s
  | .paddu f => Sys2Proof.Machine.execPaddu f s
  | .psub f => Sys2Proof.Machine.execPsub f s
  | .psubu f => Sys2Proof.Machine.execPsubu f s
  | .pmul f => Sys2Proof.Machine.execPmul f s
  | .pmin f => Sys2Proof.Machine.execPmin f s
  | .pminu f => Sys2Proof.Machine.execPminu f s
  | .pmax f => Sys2Proof.Machine.execPmax f s
  | .pmaxu f => Sys2Proof.Machine.execPmaxu f s
  | .pavg f => Sys2Proof.Machine.execPavg f s
  | .pabs f => Sys2Proof.Machine.execPabs f s
  | .pcmp f => Sys2Proof.Machine.execPcmp f s
  | .pshuf f => Sys2Proof.Machine.execPshuf f s
  | .ppack f => Sys2Proof.Machine.execPpack f s
  | .punpkl f => Sys2Proof.Machine.execPunpkl f s
  | .punpkh f => Sys2Proof.Machine.execPunpkh f s
  | .punpklu f => Sys2Proof.Machine.execPunpklu f s
  | .punpkhu f => Sys2Proof.Machine.execPunpkhu f s
  | .pdot f => Sys2Proof.Machine.execPdot f s
  | .pdotu f => Sys2Proof.Machine.execPdotu f s
  | .pdotfE4 f => Sys2Proof.Machine.execPdotfE4 f s
  | .pdotfE5 f => Sys2Proof.Machine.execPdotfE5 f s
  | .pdotfF4 f => Sys2Proof.Machine.execPdotfF4 f s
  | .pscl f => Sys2Proof.Machine.execPscl f s
  | .br f => Sys2Proof.Machine.execBr f s
  | .brz f => Sys2Proof.Machine.execBrz f s
  | .brnz f => Sys2Proof.Machine.execBrnz f s
  | .jmp f => Sys2Proof.Machine.execJmp f s
  | .jal f => Sys2Proof.Machine.execJal f s
  | .jalr f => Sys2Proof.Machine.execJalr f s
  | .rejoin f => Sys2Proof.Machine.execRejoin f s
  | .yld f => Sys2Proof.Machine.execYld f s
  | .waitf f => Sys2Proof.Machine.execWaitf f s
  | .waitfE f => Sys2Proof.Machine.execWaitfE f s
  | .nop f => Sys2Proof.Machine.execNop f s
  | .migL f => Sys2Proof.Machine.execMigL f s
  | .migW f => Sys2Proof.Machine.execMigW f s
  | .migC f => Sys2Proof.Machine.execMigC f s
  | .rgn f => Sys2Proof.Machine.execRgn f s
  | .sysc f => Sys2Proof.Machine.execSysc f s
  | .trap f => Sys2Proof.Machine.execTrap f s
  | .brk f => Sys2Proof.Machine.execBrk f s
  | .eretS f => Sys2Proof.Machine.execEretS f s
  | .eretF f => Sys2Proof.Machine.execEretF f s
  | .ldsB f => Sys2Proof.Machine.execLdsB f s
  | .ldsH f => Sys2Proof.Machine.execLdsH f s
  | .ldsW f => Sys2Proof.Machine.execLdsW f s
  | .ldsD f => Sys2Proof.Machine.execLdsD f s
  | .ldsQ f => Sys2Proof.Machine.execLdsQ f s
  | .stsB f => Sys2Proof.Machine.execStsB f s
  | .stsH f => Sys2Proof.Machine.execStsH f s
  | .stsW f => Sys2Proof.Machine.execStsW f s
  | .stsD f => Sys2Proof.Machine.execStsD f s
  | .stsQ f => Sys2Proof.Machine.execStsQ f s
  | .samoAdd f => Sys2Proof.Machine.execSamoAdd f s
  | .samoMax f => Sys2Proof.Machine.execSamoMax f s
  | .samoSwap f => Sys2Proof.Machine.execSamoSwap f s
  | .scas f => Sys2Proof.Machine.execScas f s
  | .ldB f => Sys2Proof.Machine.execLdB f s
  | .ldBu f => Sys2Proof.Machine.execLdBu f s
  | .ldH f => Sys2Proof.Machine.execLdH f s
  | .ldHu f => Sys2Proof.Machine.execLdHu f s
  | .ldW f => Sys2Proof.Machine.execLdW f s
  | .ldWu f => Sys2Proof.Machine.execLdWu f s
  | .ldD f => Sys2Proof.Machine.execLdD f s
  | .ldQ f => Sys2Proof.Machine.execLdQ f s
  | .stB f => Sys2Proof.Machine.execStB f s
  | .stH f => Sys2Proof.Machine.execStH f s
  | .stW f => Sys2Proof.Machine.execStW f s
  | .stD f => Sys2Proof.Machine.execStD f s
  | .stQ f => Sys2Proof.Machine.execStQ f s
  | .ldaqW f => Sys2Proof.Machine.execLdaqW f s
  | .ldaqD f => Sys2Proof.Machine.execLdaqD f s
  | .strlW f => Sys2Proof.Machine.execStrlW f s
  | .strlD f => Sys2Proof.Machine.execStrlD f s
  | .ldroW f => Sys2Proof.Machine.execLdroW f s
  | .ldroD f => Sys2Proof.Machine.execLdroD f s
  | .ldroQ f => Sys2Proof.Machine.execLdroQ f s
  | .roinv f => Sys2Proof.Machine.execRoinv f s
  | .ldvW f => Sys2Proof.Machine.execLdvW f s
  | .ldvD f => Sys2Proof.Machine.execLdvD f s
  | .ldvQ f => Sys2Proof.Machine.execLdvQ f s
  | .stvW f => Sys2Proof.Machine.execStvW f s
  | .stvD f => Sys2Proof.Machine.execStvD f s
  | .stvQ f => Sys2Proof.Machine.execStvQ f s
  | .prefL2 f => Sys2Proof.Machine.execPrefL2 f s
  | .prefV f => Sys2Proof.Machine.execPrefV f s
  | .clfl f => Sys2Proof.Machine.execClfl f s
  | .amoAdd f => Sys2Proof.Machine.execAmoAdd f s
  | .amoAnd f => Sys2Proof.Machine.execAmoAnd f s
  | .amoOr f => Sys2Proof.Machine.execAmoOr f s
  | .amoXor f => Sys2Proof.Machine.execAmoXor f s
  | .amoMin f => Sys2Proof.Machine.execAmoMin f s
  | .amoMax f => Sys2Proof.Machine.execAmoMax f s
  | .amoMinu f => Sys2Proof.Machine.execAmoMinu f s
  | .amoMaxu f => Sys2Proof.Machine.execAmoMaxu f s
  | .amoSwap f => Sys2Proof.Machine.execAmoSwap f s
  | .amoFadd f => Sys2Proof.Machine.execAmoFadd f s
  | .redAdd f => Sys2Proof.Machine.execRedAdd f s
  | .redAnd f => Sys2Proof.Machine.execRedAnd f s
  | .redOr f => Sys2Proof.Machine.execRedOr f s
  | .redXor f => Sys2Proof.Machine.execRedXor f s
  | .redMin f => Sys2Proof.Machine.execRedMin f s
  | .redMax f => Sys2Proof.Machine.execRedMax f s
  | .redMinu f => Sys2Proof.Machine.execRedMinu f s
  | .redMaxu f => Sys2Proof.Machine.execRedMaxu f s
  | .redFadd f => Sys2Proof.Machine.execRedFadd f s
  | .cas f => Sys2Proof.Machine.execCas f s
  | .fence f => Sys2Proof.Machine.execFence f s
  | .marm f => Sys2Proof.Machine.execMarm f s
  | .mwait f => Sys2Proof.Machine.execMwait f s
  | .mwaitT f => Sys2Proof.Machine.execMwaitT f s
  | .tcpy f => Sys2Proof.Machine.execTcpy f s
  | .tcst f => Sys2Proof.Machine.execTcst f s
  | .twaitO f => Sys2Proof.Machine.execTwaitO f s
  | .twaitA f => Sys2Proof.Machine.execTwaitA f s
  | .thdlB f => Sys2Proof.Machine.execThdlB f s
  | .thdlU f => Sys2Proof.Machine.execThdlU f s
  | .sioR f => Sys2Proof.Machine.execSioR f s
  | .sioW f => Sys2Proof.Machine.execSioW f s
  | .sioD f => Sys2Proof.Machine.execSioD f s
  | .sflu f => Sys2Proof.Machine.execSflu f s
  | .mmq f => Sys2Proof.Machine.execMmq f s
  | .mmqs f => Sys2Proof.Machine.execMmqs f s
  | .mzero f => Sys2Proof.Machine.execMzero f s
  | .mldaF32 f => Sys2Proof.Machine.execMldaF32 f s
  | .mldaBf f => Sys2Proof.Machine.execMldaBf f s
  | .mstaF32 f => Sys2Proof.Machine.execMstaF32 f s
  | .mstaBf f => Sys2Proof.Machine.execMstaBf f s
  | .mstaH f => Sys2Proof.Machine.execMstaH f s
  | .mstaE4 f => Sys2Proof.Machine.execMstaE4 f s
  | .mstaE5 f => Sys2Proof.Machine.execMstaE5 f s
  | .crookT f => Sys2Proof.Machine.execCrookT f s
  | .crookP f => Sys2Proof.Machine.execCrookP f s
  | .crookR f => Sys2Proof.Machine.execCrookR f s
  | .crookQ f => Sys2Proof.Machine.execCrookQ f s
  | .merrR f => Sys2Proof.Machine.execMerrR f s
  | .merrC f => Sys2Proof.Machine.execMerrC f s
  | .bar f => Sys2Proof.Machine.execBar f s
  | .barSt f => Sys2Proof.Machine.execBarSt f s
  | .fbar f => Sys2Proof.Machine.execFbar f s
  | .nbar f => Sys2Proof.Machine.execNbar f s
  | .nbarA f => Sys2Proof.Machine.execNbarA f s
  | .nbarW f => Sys2Proof.Machine.execNbarW f s
  | .nbinit f => Sys2Proof.Machine.execNbinit f s
  | .nbinitC f => Sys2Proof.Machine.execNbinitC f s
  | .exit f => Sys2Proof.Machine.execExit f s
  | .exitS f => Sys2Proof.Machine.execExitS f s
  | .spwn f => Sys2Proof.Machine.execSpwn f s
  | .rspwn f => Sys2Proof.Machine.execRspwn f s
  | .rspwnD f => Sys2Proof.Machine.execRspwnD f s
  | .trkA f => Sys2Proof.Machine.execTrkA f s
  | .trkR f => Sys2Proof.Machine.execTrkR f s
  | .trkc f => Sys2Proof.Machine.execTrkc f s
  | .trkqS f => Sys2Proof.Machine.execTrkqS f s
  | .trkqD f => Sys2Proof.Machine.execTrkqD f s
  | .phs f => Sys2Proof.Machine.execPhs f s
  | .phsx f => Sys2Proof.Machine.execPhsx f s
  | .spl f => Sys2Proof.Machine.execSpl f s
  | .pqryP f => Sys2Proof.Machine.execPqryP f s
  | .pqryB f => Sys2Proof.Machine.execPqryB f s
  | .pqryC f => Sys2Proof.Machine.execPqryC f s
  | .sig f => Sys2Proof.Machine.execSig f s
  | .sigG f => Sys2Proof.Machine.execSigG f s
  | .sigB f => Sys2Proof.Machine.execSigB f s
  | .evctB f => Sys2Proof.Machine.execEvctB f s
  | .evctF f => Sys2Proof.Machine.execEvctF f s
  | .evctS f => Sys2Proof.Machine.execEvctS f s
  | .evctC f => Sys2Proof.Machine.execEvctC f s
  | .tlbiVa f => Sys2Proof.Machine.execTlbiVa f s
  | .tlbiVas f => Sys2Proof.Machine.execTlbiVas f s
  | .tlbiAs f => Sys2Proof.Machine.execTlbiAs f s
  | .tlbiAll f => Sys2Proof.Machine.execTlbiAll f s
  | .tlbiL f => Sys2Proof.Machine.execTlbiL f s
  | .halt f => Sys2Proof.Machine.execHalt f s
  | .haltP f => Sys2Proof.Machine.execHaltP f s
  | .wfi f => Sys2Proof.Machine.execWfi f s
  | .wfiT f => Sys2Proof.Machine.execWfiT f s
  | .ctxsG f => Sys2Proof.Machine.execCtxsG f s
  | .ctxsS f => Sys2Proof.Machine.execCtxsS f s
  | .ctxsQ f => Sys2Proof.Machine.execCtxsQ f s
  | .ctxsM f => Sys2Proof.Machine.execCtxsM f s
  | .ctxsSp f => Sys2Proof.Machine.execCtxsSp f s
  | .ctxsH f => Sys2Proof.Machine.execCtxsH f s
  | .ctxsT f => Sys2Proof.Machine.execCtxsT f s
  | .ctxlG f => Sys2Proof.Machine.execCtxlG f s
  | .ctxlS f => Sys2Proof.Machine.execCtxlS f s
  | .ctxlQ f => Sys2Proof.Machine.execCtxlQ f s
  | .ctxlM f => Sys2Proof.Machine.execCtxlM f s
  | .ctxlSp f => Sys2Proof.Machine.execCtxlSp f s
  | .ctxlH f => Sys2Proof.Machine.execCtxlH f s
  | .ctxlT f => Sys2Proof.Machine.execCtxlT f s
  | .stallYield core slot => Sys2Proof.Machine.execStallYield core slot s
  | .overrideLimit core slot => Sys2Proof.Machine.execOverrideLimit core slot s
  | .loadCompletion id => Sys2Proof.Machine.execLoadCompletion id s
  | .loadFault id => Sys2Proof.Machine.execLoadFault id s
  | .faultReport core slot lane => Sys2Proof.Machine.execFaultReport core slot lane s
  | .resume die => Sys2Proof.Machine.execResume die s
  | .extract die => Sys2Proof.Machine.execExtract die s
  | .terminate die => Sys2Proof.Machine.execTerminate die s
  | .laneExtraction core slot lane => Sys2Proof.Machine.execLaneExtraction core slot lane s
  | .shuttleArrival tid core valid => Sys2Proof.Machine.execShuttleArrival tid core valid s
  | .poolEntry tid core => Sys2Proof.Machine.execPoolEntry tid core s
  | .pwaitExpiry core => Sys2Proof.Machine.execPwaitExpiry core s
  | .barrierArrival tid => Sys2Proof.Machine.execBarrierArrival tid s
  | .releaseWave core bolt => Sys2Proof.Machine.execReleaseWave core bolt s
  | .blockAllotment core => Sys2Proof.Machine.execBlockAllotment core s
  | .reclaim core => Sys2Proof.Machine.execReclaim core s
  | .signalTake core => Sys2Proof.Machine.execSignalTake core s
  | .signalExtraction core slot lane => Sys2Proof.Machine.execSignalExtraction core slot lane s
  | .flockPlacement spawn fcoord cores => Sys2Proof.Machine.execFlockPlacement spawn fcoord cores s
  | .placementAgeLimit => Sys2Proof.Machine.execPlacementAgeLimit s
  | .eviction spawn fcoord => Sys2Proof.Machine.execEviction spawn fcoord s
  | .evictionSave spawn fcoord => Sys2Proof.Machine.execEvictionSave spawn fcoord s
  | .spawnCompletion spawn => Sys2Proof.Machine.execSpawnCompletion spawn s
  | .spawnUnitFailover => Sys2Proof.Machine.execSpawnUnitFailover s
  | .respawnRound spawn => Sys2Proof.Machine.execRespawnRound spawn s
  | .pageWalk id => Sys2Proof.Machine.execPageWalk id s
  | .translationDrop core space va => Sys2Proof.Machine.execTranslationDrop core space va s
  | .gets agent line => Sys2Proof.Machine.execGets agent line s
  | .getm agent line mask => Sys2Proof.Machine.execGetm agent line mask s
  | .wt tid => Sys2Proof.Machine.execWt tid s
  | .hr id => Sys2Proof.Machine.execHr id s
  | .putm agent line => Sys2Proof.Machine.execPutm agent line s
  | .puto agent line => Sys2Proof.Machine.execPuto agent line s
  | .puts agent line => Sys2Proof.Machine.execPuts agent line s
  | .pute agent line => Sys2Proof.Machine.execPute agent line s
  | .directoryEntryDrop line => Sys2Proof.Machine.execDirectoryEntryDrop line s
  | .mwaitTimeout tid => Sys2Proof.Machine.execMwaitTimeout tid s
  | .droverSweep line => Sys2Proof.Machine.execDroverSweep line s
  | .vfloorRebase core => Sys2Proof.Machine.execVfloorRebase core s
  | .ownershipTransferHToD region => Sys2Proof.Machine.execOwnershipTransferHToD region s
  | .ownershipTransferDToH region => Sys2Proof.Machine.execOwnershipTransferDToH region s
  | .ownershipTimeout region => Sys2Proof.Machine.execOwnershipTimeout region s
  | .regionDwellExpiry region => Sys2Proof.Machine.execRegionDwellExpiry region s
  | .hostMemAccess pa write data => Sys2Proof.Machine.execHostMemAccess pa write data s
  | .memoryScrub unit => Sys2Proof.Machine.execMemoryScrub unit s
  | .queueRequestServe queue => Sys2Proof.Machine.execQueueRequestServe queue s
  | .queueConfigWrite queue word value => Sys2Proof.Machine.execQueueConfigWrite queue word value s
  | .jobAccept engine => Sys2Proof.Machine.execJobAccept engine s
  | .jobStart handle => Sys2Proof.Machine.execJobStart handle s
  | .jobRetire handle => Sys2Proof.Machine.execJobRetire handle s
  | .jobFail handle => Sys2Proof.Machine.execJobFail handle s
  | .handleFill core slot => Sys2Proof.Machine.execHandleFill core slot s
  | .streamComplete handle => Sys2Proof.Machine.execStreamComplete handle s
  | .streamFail handle err => Sys2Proof.Machine.execStreamFail handle err s
  | .flushComplete handle ok => Sys2Proof.Machine.execFlushComplete handle ok s
  | .nvmeCompletion handle ok blockSize data => Sys2Proof.Machine.execNvmeCompletion handle ok blockSize data s
  | .quarterAccept core slot => Sys2Proof.Machine.execQuarterAccept core slot s
  | .passStart core => Sys2Proof.Machine.execPassStart core s
  | .passComplete core => Sys2Proof.Machine.execPassComplete core s
  | .mstaAccept core slot => Sys2Proof.Machine.execMstaAccept core slot s
  | .mstaWrite core => Sys2Proof.Machine.execMstaWrite core s
  | .crookExpiry core => Sys2Proof.Machine.execCrookExpiry core s
  | .burstStartGrant quadrant => Sys2Proof.Machine.execBurstStartGrant quadrant s
  | .activityWindowEnd core => Sys2Proof.Machine.execActivityWindowEnd core s
  | .intervalBoundary => Sys2Proof.Machine.execIntervalBoundary s
  | .declarationOnset bolt => Sys2Proof.Machine.execDeclarationOnset bolt s
  | .declarationEnd bolt => Sys2Proof.Machine.execDeclarationEnd bolt s
  | .sliceRatioChange core slice => Sys2Proof.Machine.execSliceRatioChange core slice s
  | .sensorUpdate sensor value => Sys2Proof.Machine.execSensorUpdate sensor value s
  | .thermalTripClear column => Sys2Proof.Machine.execThermalTripClear column s
  | .trip3HaltTimeout core => Sys2Proof.Machine.execTrip3HaltTimeout core s
  | .ucieFlitReceive link crcOk => Sys2Proof.Machine.execUcieFlitReceive link crcOk s
  | .lingotonFlitReceive port data check => Sys2Proof.Machine.execLingotonFlitReceive port data check s
  | .lingotonNak port seq => Sys2Proof.Machine.execLingotonNak port seq s
  | .nbArrivalPacket => Sys2Proof.Machine.execNbArrivalPacket s
  | .nbReleasePacket => Sys2Proof.Machine.execNbReleasePacket s
  | .nbMarkUpdate => Sys2Proof.Machine.execNbMarkUpdate s
  | .storageLinkDown port => Sys2Proof.Machine.execStorageLinkDown port s
  | .packageReset image code => Sys2Proof.Machine.execPackageReset image code s
  | .attestationRequest nonce => Sys2Proof.Machine.execAttestationRequest nonce s
  | .pkgrst value => Sys2Proof.Machine.execPkgrst value s
  | .corctlRestart => Sys2Proof.Machine.execCorctlRestart s
  | .corctlClosed closed => Sys2Proof.Machine.execCorctlClosed closed s
  | .corctlRfblk count => Sys2Proof.Machine.execCorctlRfblk count s
  | .suspectClear => Sys2Proof.Machine.execSuspectClear s
  | .regionOwnerWrite region host => Sys2Proof.Machine.execRegionOwnerWrite region host s
  | .regionPinWrite region pin => Sys2Proof.Machine.execRegionPinWrite region pin s
  | .permWrite pid value => Sys2Proof.Machine.execPermWrite pid value s
  | .merrWrite bolt value => Sys2Proof.Machine.execMerrWrite bolt value s
  | .sigmaskWrite tid value => Sys2Proof.Machine.execSigmaskWrite tid value s
  | .systemRegisterWrite tid number value => Sys2Proof.Machine.execSystemRegisterWrite tid number value s
  | .wfiTimeout tid => Sys2Proof.Machine.execWfiTimeout tid s
  | .illegalInstruction raw => Sys2Proof.Machine.execIllegalInstruction raw s
  | .fetchFault cause adr => Sys2Proof.Machine.execFetchFault cause adr s
  | .mldaPerform core => Sys2Proof.Machine.execMldaPerform core s
  | .storagePortRetrain port => Sys2Proof.Machine.execStoragePortRetrain port s

end Sys2Proof.Machine
end

