-- ==== Sys2Proof/Machine/Schedule.lean ====
section
/-! DEFINITION. What moves next (log entry 1): the turns of the agenda, and the turn the machine takes by itself. -/

namespace Sys2Proof.Machine

/-! ### An issue -/

/-- The thread whose program counter, privilege and process an issue fetches with: the first lane. -/
def State.issueHead (s : State) : Option Thread := (s.issueLanes.head?).map (·.2)

/-- The state ready for an issue: the issuer set and the note of the last issue cleared. -/
def State.ready (s : State) (cur : Issuer) : State := { s with cur, note := Note.clear }

/-- What an issue runs: the instruction that the fetched bytes spell, in the state that fetch leaves; or the
result of a fetch that gives none. -/
inductive Prepared where
  | run (i : Instr) (s : State)
  | stop (r : Result)

/-- The instruction at the issue address (R44, R54). -/
noncomputable def prepare (s : State) : Prepared :=
  match s.issueHead with
  | none => .stop (.next s)
  | some t =>
    match fetchAt s s.cur.core t.pid t.pc t.plvl with
    | .wait k => .stop (.next k.block)
    | .fault k tr => .stop (trapAll tr k)
    | .code k bs =>
      match decode bs with
      | .ok (i, _) => .run i k
      | .error _ => .stop (execIllegalInstruction (rawOf bs) k)

/-- One issue of the issuer that the state names. -/
noncomputable def runIssue (s : State) : Result :=
  match prepare s with
  | .run i k => exec i k
  | .stop r => r

/-- Whether the running thread of a latency core is to take a machine check that the device raised, and may: its
earlier instructions have completed, one that has had its effect among them (R385, R395). -/
def State.takesEntry (s : State) (t : Thread) : Bool := t.entry.isSome && !t.begun && s.loadsDone t.tid

/-- One issue of a latency core (R155): first a machine check or a signal that its thread takes, then an instruction
if the thread is not waiting and none of the two is to be taken once its loads have completed (R392). -/
noncomputable def issueLatency (core : Nat) (s : State) : Result :=
  let l := s.lcore core
  match l.cur.bind s.thread? with
  | none => .next s
  | some t =>
    if l.halted then .next s
    else if s.takesEntry t then .next (s.startRun core t)
    else
      match trySignalTake core s with
      | some k => .next k
      | none =>
        if t.active && (t.entry.isNone || t.begun) && !(t.takeable.isSome && !t.deaf) then runIssue (s.ready (.latency core))
        else .next s

/-- Whether a weft may issue: it runs and holds its blocks, its bolt is not being evicted, and its core is not
halted (R33, R41, R398). -/
def State.weftRuns (s : State) (core : Nat) (w : Weft) : Bool :=
  w.wstate == .running && w.held && !(s.wcore core).halted
    && (match s.bolt? w.bolt with
        | some b => b.bstate == .resident && !b.evicting
        | none => false)

/-- The weft with an override set that no active lane is left of ended (R26). -/
def State.trimOverride (s : State) (w : Weft) : Weft :=
  if (overridden w (s.activeLanes w)).isEmpty then { w with ovr := 0 } else w

/-- The state with the slot of a weft that issued noted in its slice (R153). -/
def State.noteSlot (s : State) (core slot : Nat) : State :=
  if h : slot / 8 < 6 then
    s.putW core { s.wcore core with last := (s.wcore core).last.set (slot / 8) slot }
  else s

/-- What a slice finds when it examines a slot (R153): its weft issues, with this result; or it is passed over, in this
state. -/
inductive Examined where
  | issues (r : Result)
  | passed (s : State)

/-- The examination of a slot by its slice, which is one issue opportunity of its weft (R26, R153); lanes that a signal
takes leave the weft first (R178, R393). -/
noncomputable def examine (core slot : Nat) (s : State) : Examined :=
  match s.weft? core slot with
  | none => .passed s
  | some w0 =>
    if !s.weftRuns core w0 then .passed s
    else
      let s := s.callLanes w0
      let w := s.trimOverride w0
      let s := s.putWeft core slot w
      match tryStallYield core slot s, s.issueAddress w with
      | some k, _ => .passed k
      | none, none => .passed s
      | none, some a =>
        match runIssue (s.ready (.weft core slot a)) with
        | .next k =>
          if k.note.blocked then .passed (k.afterIssue core slot a (s.activeLanes w))
          else .issues (.next ((k.noteSlot core slot).afterIssue core slot a (s.activeLanes w)))
        | r => .issues r

/-- The slots of a slice in the order in which its next cycle examines them: from the one after that which issued most
recently (R153). -/
def State.sliceOrder (s : State) (core k : Nat) : List Nat :=
  (List.range 8).map fun i => 8 * k + ((s.wcore core).last.toList.getD k 0 + 1 + i) % 8

/-- The first slot of a list whose weft issues; those before it are passed over (R153). -/
noncomputable def issueFirst (core : Nat) : List Nat → State → Result
  | [], s => .next s
  | slot :: slots, s =>
    match examine core slot s with
    | .issues r => r
    | .passed k => issueFirst core slots k

/-- One slice cycle (R153, R154). -/
noncomputable def issueSlice (core k : Nat) (s : State) : Result := issueFirst core (s.sliceOrder core k) s

/-! ### Errors and losses (log entries 7, 11 and 14)

An error that no check corrects is logged, with an event since no thread traps for it then (R394, R421). -/

/-- The state with the oldest store of a thread lost to an error (R397): its bytes are poisoned at home. -/
def State.loseStore (s : State) (tid : Nat) : State :=
  match s.storesOf tid with
  | [] => s
  | p :: _ =>
    if !storeReady s p then s
    else
      let s := { s with
        stores := s.stores.filter fun q => !(q.id == p.id && q.tid == p.tid)
        memPoison := addrMark s.memPoison p.pa p.data.length true }
      s.modThread tid fun t => { t with lost := some p.va }

/-- The state with an uncorrectable error in a register (R396). -/
def State.poisonReg (s : State) (tid n : Nat) : State :=
  s.modThread tid fun t => if n = 0 then t else t.setReg n { t.reg n with poison := true }

/-- The state with a 2-byte unit of instruction memory kept by a core, as memory now holds it (R55; log entry 33). -/
def State.holdCode (s : State) (core pa : Nat) : State :=
  let us := (tabGet s.code core).getD []
  { s with code := tabPut s.code core (tabPut us (pa / 2) (s.bytesAt (pa / 2 * 2) 2)) }

/-! ### Time (log entry 6) -/

/-- A stamp table re-based (R240, R247). -/
def State.rebaseStamps (s : State) : Tab Stamp := s.stamps.map fun p => (p.1, s.keepStamp p.2)

/-- A weft core with its stamps re-based, and without the copies that fell behind (R247). -/
def State.rebaseCore (s : State) (c : WCore) : WCore :=
  { c with
    vfloor := s.rebase c.vfloor, seen := s.rebase c.seen, l1 := c.l1.filter fun x => s.rebase x.rts == x.rts }

/-- The state with every stamp that fell too far behind re-based, before it wraps (R247). -/
def State.rebaseAll (s : State) : State :=
  { s with
    stamps := s.rebaseStamps
    wcores := s.wcores.map fun p => (p.1, s.rebaseCore p.2)
    lcores := s.lcores.map fun p => (p.1, { p.2 with seen := s.rebase p.2.seen })
    threads := s.threads.map fun p => (p.1, { p.2 with vstamp := s.rebase p.2.vstamp })
    jobs := s.jobs.map fun j => { j with wstamp := s.rebase j.wstamp }
    spawnU := { s.spawnU with spawns := s.spawnU.spawns.map fun p => (p.1, { p.2 with vf := s.rebase p.2.vf }) } }

/-- The state with a global tick passed, and with its cycles added to what every cluster's clock has to run through, at
the boost level that the cluster had in it (R13). No tick passes while a boundary's work is due, nor before every cluster
has run through the cycles of the ticks before. -/
def State.passTick (s : State) : State :=
  if s.gtick / 250 ≠ s.interval || s.wcores.any fun p => decide (10 ≤ p.2.part) then s
  else ({ s with
    gtick := s.gtick + 1
    wcores := s.wcores.map fun p => (p.1, { p.2 with part := p.2.part + p.2.cluster.perTick }) } : State).rebaseAll

/-- The state with global ticks passed, as far as its clusters and the next interval boundary let them (R13). -/
def State.passTicks (s : State) : Nat → State
  | 0 => s
  | n + 1 => s.passTick.passTicks n

/-! ### Turns -/

/-- One turn. A turn for an instruction's event is none for an instruction of a program: those are only issued. -/
noncomputable def runTurn (t : Turn) (s : State) : Result :=
  match t with
  | .issueL c => issueLatency c s
  | .slice c k => issueSlice c k s
  | .event i => if (instrFields i).isSome then .next s else exec i s
  | .ticks n => .next (s.passTicks n)
  | .cycles c n => .next (s.passCycles c n)
  | .dispatch c tid => .next (s.dispatch c tid)
  | .poisonMem pa => .next ({ s with memPoison := addrAdd s.memPoison pa } : State).logMckEvent
  | .poisonSpad b w => .next (s.modBolt b fun b => { b with spPoison := addrAdd b.spPoison w }).logMckEvent
  | .poisonVault w => .next ({ s with vPoison := addrAdd s.vPoison w } : State).logMckEvent
  | .poisonReg tid n => .next (s.poisonReg tid n).logMckEvent
  | .poisonQueue q i => .next (s.poisonQueue q i).logMckEvent
  | .poisonCopy a pa => .next (s.strikeCopy a pa).logMckEvent
  | .poisonL1 c pa => .next (s.strikeL1 c pa).logMckEvent
  | .accError b e => .next (s.modBolt b fun b => { b with accErr := addrAdd b.accErr e }).logMckEvent
  | .holdCode c pa => .next (s.holdCode c pa)
  | .readChunk h i => .next (s.readChunk h i)
  | .writeChunk h i k => .next (s.writeChunk h i k)
  | .dropL1 c line => .next (s.putW c { s.wcore c with l1 := (s.wcore c).l1.filter fun x => x.line != line })
  | .dropShadow sector => .next { s with shadow := tabDel s.shadow sector }
  | .loseMonitor tid => .next (s.modThread tid fun t => if t.monitor.armed then t.loseMonitor else t)
  | .loseStore tid => .next (s.loseStore tid).logMckEvent
  | .retireBlocks c n => .next (s.retireBlocks c n)
  | .setRoute p ports => .next (s.setRoute p ports)
  | .sendFlit p dest vc kind credit payload => .next (s.sendFlit p ⟨0, dest, vc, kind, credit, payload⟩)
  | .mailboxWrite off bs => .next (s.mailWrite off bs)
  | .raiseVersion v => .next (s.raiseVersion v)
  | .bringUp entry => .next (s.bringUp entry)
  | .streamOutput h n => .next (s.streamOutput h n)
  | .netRelease n => .next (s.netRelease n)
  | .netRemote n pkg owner total kind => .next (s.netRemote n pkg owner total kind)

/-! ### The turn that the machine takes by itself (log entry 1) -/

/-- The first result of some functions on a state. -/
def firstOf (s : State) (l : List (State → Option State)) : Option State := l.findSome? fun f => f s

/-- A list begun at its k-th element, so that the turns of what it lists come round. -/
def rotated {α : Type} (k : Nat) (l : List α) : List α := l.drop (k % l.length) ++ l.take (k % l.length)

/-- Loads and atomics under way. -/
def loadTurn (s : State) : Option State :=
  s.pend.findSome? fun p => firstOf s [tryLoadCompletion p.id, tryPageWalk p.id, tryLoadFault p.id, tryHr p.id]

/-- Lines that weft cores ask for. -/
def leaseTurn (s : State) : Option State :=
  s.pend.findSome? fun p => match p.phase, (s.thread? p.tid).bind Thread.core? with
    | .home pa _ _, some c => tryGets c (pa / 128) s
    | _, _ => none

/-- Stores to be performed. -/
def storeTurn (s : State) : Option State :=
  s.stores.findSome? fun p => firstOf s [tryWt p.tid, tryGetm p.core (p.pa / 128) (byteMask p.pa p.data.length)]

/-- Accesses under way: another kind of them comes first at each turn. -/
def accessTurn (s : State) : Option State := firstOf s (rotated (s.phase / 2) [loadTurn, storeTurn, leaseTurn])

/-- Jobs and streams under way, as far as no drive is needed. -/
def jobTurn (s : State) : Option State :=
  (s.subq.findSome? fun x => tryJobAccept x.engine s)
    <|> s.jobs.findSome? fun j =>
      if j.retired then none
      else
        let h := j.handle
        firstOf s [tryJobStart h, tryJobRetire h, tryJobFail h, tryStreamComplete h, tryStreamFail h 7, tryStreamFail h 6,
          tryStreamFail h 5, tryStreamFail h 9, tryStreamFail h 4, tryStreamFail h 3, tryStreamFail h 2, tryStreamFail h 1]

/-- The positions of a weft's lanes, with their slot. -/
def slotLanes (c : WCore) : List (Nat × Nat) := c.slots.flatMap fun x => x.2.members.map fun m => (x.1, m.1)

/-- What a weft core does besides issuing. -/
def coreTurn (s : State) (k : Nat) (c : WCore) : Option State :=
  (c.reports.head?.bind fun r => tryFaultReport k r.slot r.lane s)
    <|> ((slotLanes c).findSome? fun x => firstOf s [tryLaneExtraction k x.1 x.2, trySignalExtraction k x.1 x.2])
    <|> firstOf s [tryReclaim k, tryBlockAllotment k, tryCrookExpiry k, tryPassComplete k, tryMldaPerform k, tryMstaWrite k,
      tryPassStart k, tryBurstStartGrant (quadrantOf k), tryActivityWindowEnd k]
    <|> (c.slots.findSome? fun x => firstOf s [tryQuarterAccept k x.1, tryMstaAccept k x.1, tryHandleFill k x.1])
    <|> (c.waves.findSome? fun w => tryReleaseWave k w.bolt s)
    <|> (if c.pool.isEmpty then none else tryPwaitExpiry k s)
    <|> (List.range 6).findSome? fun i => trySliceRatioChange k i s

/-- A latency core to which system software's dispatch takes a thread: the least loaded of those that run. -/
def State.freeLatency (s : State) : Option Nat :=
  s.lcores.foldl
    (fun m p => if p.2.halted then m else match m with
      | none => some p.1
      | some c => if p.2.run.length + flag p.2.cur.isSome < (s.lcore c).run.length + flag (s.lcore c).cur.isSome
          then some p.1 else some c) none

/-- The arrival of a thread in transit. -/
def arriveTurn (s : State) (t : Thread) : Option State :=
  match t.loc with
  | .transit (.latency (some c)) => tryShuttleArrival t.tid c true s
  | .transit (.latency none) => s.freeLatency.bind fun c => tryShuttleArrival t.tid c true s
  | .transit (.weft c) => tryShuttleArrival t.tid c true s
  | .transit .anyWeft => s.wcores.findSome? fun p => tryShuttleArrival t.tid p.1 true s
  | _ => none

/-- Threads on their way, at barriers and in timed waits. -/
def threadTurn (s : State) : Option State :=
  s.threads.findSome? fun p =>
    (arriveTurn s p.2) <|> firstOf s [tryBarrierArrival p.1, tryMwaitTimeout p.1, tryWfiTimeout p.1]

/-- A thread that a free latency core dispatches. -/
def dispatchTurn (s : State) : Option State :=
  s.lcores.findSome? fun p => match p.2.cur, p.2.run with
    | none, tid :: _ => if p.2.halted then none else some (s.dispatch p.1 tid)
    | _, _ => none

/-- What the spawn unit does. -/
def spawnTurn (s : State) : Option State :=
  (s.spawnU.waiting.findSome? fun w => (s.wouldPlace w).bind fun cs => tryFlockPlacement w.spawn w.fcoord cs s)
    <|> (if s.spawnU.waiting.isEmpty then none else
      (tryPlacementAgeLimit s) <|> s.residentFlocks.findSome? fun k => tryEviction k.1 k.2 s)
    <|> (s.residentFlocks.findSome? fun k => tryEvictionSave k.1 k.2 s)
    <|> s.spawnU.spawns.findSome? fun p => firstOf s [trySpawnCompletion p.1, tryRespawnRound p.1]

/-- Power, heat, barriers of the network, resume words and ownership transfers. -/
def packageTurn (s : State) : Option State :=
  (tryIntervalBoundary s)
    <|> firstOf s [tryNbArrivalPacket, tryNbReleasePacket, tryNbMarkUpdate]
    <|> (s.bolts.findSome? fun p => firstOf s [tryDeclarationOnset p.1, tryDeclarationEnd p.1])
    <|> (s.trips.findSome? fun p => tryThermalTripClear p.1 s)
    <|> (s.lcores.findSome? fun p => tryTrip3HaltTimeout p.1 s)
    <|> ([2, 3, 4, 5].findSome? fun d => firstOf s [tryResume d, tryExtract d, tryTerminate d])
    <|> (s.xfers.findSome? fun x => firstOf s [tryOwnershipTransferHToD x.region, tryOwnershipTransferDToH x.region,
      tryOwnershipTimeout x.region])
    <|> s.dwell.findSome? fun p => tryRegionDwellExpiry p.1 s

/-- What the weft cores do besides issuing, another core first at each turn. -/
def coresTurn (s : State) : Option State := (rotated (s.phase / 2) s.wcores).findSome? fun p => coreTurn s p.1 p.2

/-- A step of the device that is due: another part of the device comes first at each turn. -/
def deviceTurn (s : State) : Option State :=
  firstOf s (rotated (s.phase / 2)
    [accessTurn, jobTurn, coresTurn, threadTurn, dispatchTurn, spawnTurn, packageTurn])

/-- The issuers that may do something: latency cores with a running thread, and slices with a weft that runs. -/
def State.issuers (s : State) : List Turn :=
  (s.lcores.filterMap fun p => if p.2.cur.isSome && !p.2.halted then some (.issueL p.1) else none)
    ++ s.wcores.flatMap fun p => (List.range 6).filterMap fun k =>
      if p.2.slots.any fun x => x.1 / 8 == k && s.weftRuns p.1 x.2 then some (.slice p.1 k) else none

/-- The state with a tick passed where it may, and every cluster's clock run through the cycles that it holds, as far as
its deadlines let it (R13). -/
def State.passTime (s : State) : State := s.wcores.foldl (fun s p => s.passCycles p.1 (p.2.part + p.2.cluster.perTick)) s.passTick

/-- The turn that the machine takes when its agenda is empty: by turns a step of the device that is due, an issue of
the next issuer, and now and then the passing of a tick. -/
noncomputable def defaultTurn (s0 : State) : Result :=
  let s := { s0 with phase := s0.phase + 1 }
  let issueNext : Result := match s.issuers[(s0.phase / 2) % s.issuers.length]? with
    | some t => runTurn t s
    | none => .next s.passTime
  match s.pend.findSome? fun p => walkDevice s p.id with
  | some pa => .refused (.deviceRegister pa)
  | none =>
    if s0.phase % 64 = 63 then .next s.passTime
    else if s0.phase % 2 = 1 then
      match deviceTurn s with
      | some k => .next k
      | none => issueNext
    else issueNext

/-- One step of a package that has power. -/
noncomputable def runStep (s : State) : Result :=
  match s.agenda with
  | t :: rest => runTurn t { s with agenda := rest }
  | [] => defaultTurn s

/-! ### Placing an instruction (log entry 4) -/

/-- A translation that maps a page for fetch by every level. -/
def placedTlb (space vbase frame : Nat) : Tlb :=
  { space, glob := true, vbase, bits := 16, frame, leaf := BitVec.ofNat 64 (0x1BD + frame) }

/-- The state with n bits of value w standing where latency core 256 fetches next: 12 bytes in memory, the
core's translations of their pages, no bytes of instruction memory kept, and its turn to issue. -/
def placeWord (s : State) (nbits w : Nat) : State :=
  match (s.lcore 256).cur.bind s.thread? with
  | none => s
  | some t =>
    let va := t.pc.toNat
    let page := va / pageSize
    let pa := 0x10000 + va % pageSize
    let l := s.lcore 256
    let tlb := [placedTlb (spaceOf t.pid) page 0x10000, placedTlb (spaceOf t.pid) (page + 1) 0x20000]
    { (s.dropCode 256).putL 256 { l with tlb } with
      mem := memStore s.mem pa (leBytes 12 (w % 2 ^ nbits))
      memPoison := addrMark s.memPoison pa 12 false
      agenda := .issueL 256 :: s.agenda }

end Sys2Proof.Machine
end

