-- ==== Sys2Proof/Machine/Step.lean ====
section
/-! DEFINITION. One step of the package, and the placing of an instruction where it fetches next. -/

namespace Sys2Proof.Machine

/-- One step: nothing runs without power (R374). -/
noncomputable def step (s : State) : Host.Outcome State Fault Refusal :=
  if s.off then .fault .poweredOff else runStep s

/-- The state with an instruction standing where step fetches next (log entry 4). -/
def State.withFetchWord (s : State) (nbits w : Nat) : State := placeWord s nbits w

end Sys2Proof.Machine
end

