-- ==== Sys2Proof/Safety.lean ====
section
/-! DEFINITION. What counts as a safe state and a safe run, and the terms that claims about instructions use: a
group of lanes that issue together, what makes nothing stop it, and what its issue leaves. -/

namespace Sys2Proof.Machine

/-- The model's form of a state: every sparse memory is canonical, so that equal memories are equal data (log
entry 2). -/
def State.Canonical (s : State) : Prop := Memory.wf s.mem ∧ Memory.wf s.vmem

/-- A step that the model refuses is one that it says nothing about; a package without power is stopped, not
unsafe. -/
def stepAnswers (s : State) : Prop := ∀ r, step s ≠ .refused r

/-- A run of n steps that the model answers for all the way. -/
def SafeFor : Nat → State → Prop
  | 0, _ => True
  | n + 1, s => stepAnswers s ∧ ∀ t, step s = .next t → SafeFor n t

/-- A state from which every run is one that the model answers for. -/
def Safe (s : State) : Prop := ∀ n, SafeFor n s

/-! ### Groups of lanes -/

/-- The lanes that issue together (R7, R26): their positions with their threads, as the state holds them. -/
structure LaneGroup (s : State) (ls : List (Nat × Thread)) : Prop where
  lanes : s.issueLanes = ls
  inhabited : ls ≠ []
  nodup : (ls.map fun p => p.2.tid).Nodup
  held : ∀ p ∈ ls, s.thread? p.2.tid = some p.2

/-- The general registers that an instruction reads: those of its source fields, and its policy register. -/
def readRegs (r : OpRule) (f : Fields) : List Nat :=
  (usesOf r f).flatMap Use.regs ++ if r.pol then [f.pol.val] else []

/-- The general registers that an instruction's rd names. -/
def writeRegs (r : OpRule) (f : Fields) : List Nat :=
  match r.rd with
  | .reg | .gen | .pair => namedRegs r.rd f.rd
  | _ => []

/-- A lane whose general registers stop nothing: its level (R384), its block count (R31), its full bits (R57) and
poison marks (R396), and, before an irrevocable instruction, no load whose checks are pending (R218). -/
structure LaneReady (s : State) (r : OpRule) (f : Fields) (irrev : Bool) (t : Thread) : Prop where
  level : r.level ≤ t.plvl.code
  blocks : ∀ n ∈ allNamed r f, n < 8 * s.blockCount t
  sources : ∀ n ∈ readRegs r f, (t.reg n).full = true ∧ (t.reg n).poison = false
  target : ∀ n ∈ writeRegs r f, (t.reg n).full = true
  checked : irrev = true → s.hasUnchecked t.tid = false

/-- A group that nothing stops, of an instruction that names no queue port as an operand. -/
structure Ready (s : State) (r : OpRule) (f : Fields) (irrev : Bool) (ls : List (Nat × Thread)) : Prop where
  group : LaneGroup s ls
  ports : touchesPort r f = false
  lane : ∀ p ∈ ls, LaneReady s r f irrev p.2

/-- The thread past an instruction; rgn moves along when the instruction is irrevocable (R165). -/
def Thread.past (t : Thread) (f : Fields) (irrev : Bool) : Thread :=
  { t with pc := nextPc f t.pc, rgn := if irrev then nextPc f t.pc else t.rgn }

/-- The thread with a result in rd, full and clean (R88, R396), past the instruction. -/
def Thread.got (t : Thread) (f : Fields) (irrev : Bool) (v : Word) : Thread :=
  (t.setReg f.rd ⟨v, true, false⟩).past f irrev

/-- The state with the records of some threads, and of nothing else. -/
def State.putThreads (s : State) (l : List Thread) : State := l.foldl State.putThread s

/-- The state after a group whose lanes change nothing but their own threads. -/
def State.lanesTo (s : State) (ls : List (Nat × Thread)) (h : Nat → Thread → Thread) : State :=
  (s.putThreads (ls.map fun p => h p.1 p.2)).bump

/-! ### Queue ports as operands -/

/-- The claims of a group on queues (R92). -/
def State.groupClaims (s : State) (r : OpRule) (f : Fields) (ls : List (Nat × Thread)) : List Claim :=
  claimsOf s r f (ls.map fun p => (p.1, p.2.tid))

/-- The words that a group pops, by thread. -/
def State.groupPops (s : State) (r : OpRule) (f : Fields) (ls : List (Nat × Thread)) : List (Nat × Popped) :=
  popsOf s (s.groupClaims r f ls)

/-- The words that one lane of a group pops. -/
def State.lanePops (s : State) (r : OpRule) (f : Fields) (ls : List (Nat × Thread)) (tid : Nat) : List Popped :=
  ((s.groupPops r f ls).filter fun p => p.1 == tid).map (·.2)

/-- A group that nothing stops, of an instruction in any form: every port reaches a queue that has a word for each
claim and room for each push, and no request at it came earlier (R57, R91, R92, R164, R335); the earlier acquires of a
thread that pops are done (R228, R232), and one that pushes has performed its accesses and has lost no store (R397). -/
structure PortsReady (s : State) (r : OpRule) (f : Fields) (irrev carries : Bool) (ls : List (Nat × Thread)) : Prop where
  group : LaneGroup s ls
  lane : ∀ p ∈ ls, LaneReady s r f (irrev || touchesPort r f) p.2
  bound : ∀ p ∈ ls, ∀ u ∈ usesOf r f, u.isPort = true → ∃ q, s.portQueue p.2 u.reg = .ok q
  words : ∀ q, ((s.groupClaims r f ls).filter fun c => c.q == q).length ≤ (s.queueWords q).length
  acquires : ∀ c ∈ s.groupClaims r f ls, s.mustWait c.tid = false
  target : pushesRd r f = true → ∀ p ∈ ls, s.performed p.2.tid = true ∧ p.2.lost = none ∧
    ∃ q, s.portQueue p.2 f.rd = .ok q ∧ ∀ n, q ≠ .inbox n
  room : pushesFit s (pushesOf s r f ls) = true
  turn : ∀ u ∈ baseUses (s.groupClaims r f ls) (pushesOf s r f ls),
    s.behind u.1 (s.cur.waiter (((ls.head?).map fun p => p.2.pc).getD 0) u.2) = false
  clean : carries = true ∨ ∀ p ∈ s.groupPops r f ls, p.2.poison = false

/-- A lane of a group as an instruction sees it: its operands read from registers or from the words it pops. -/
def State.laneOf (s : State) (r : OpRule) (f : Fields) (ls : List (Nat × Thread)) (p : Nat × Thread) : Lane :=
  readLane r f p.1 p.2 (s.lanePops r f ls p.2.tid)

/-- The word that a lane pushes, where rd is a port: its value v, with the poison of the words it popped. -/
def pushOf (k : State) (r : OpRule) (f : Fields) (l : Lane) (v : Word) : List (QId × Word × Bool) :=
  if pushesRd r f then
    match k.portQueue l.thread f.rd with
    | .ok q => [(q, v, l.poison)]
    | .error _ => []
  else []

/-- The state with the requests of a group at base-die queues no longer waiting (R335). -/
def State.unqueued (s : State) (r : OpRule) (f : Fields) (ls : List (Nat × Thread)) (k : State) : State :=
  (baseUses (s.groupClaims r f ls) (pushesOf s r f ls)).foldl
    (fun k u => k.waitDone u.1 (s.cur.waiter (((ls.head?).map fun p => p.2.pc).getD 0) u.2)) k

/-- What a group leaves once its lanes' own effects stand in k (R58, R92, R325): the claimed words leave their
queues, then the words to push are appended; a pop is an acquire and a push a release; its requests no longer
wait. -/
def State.settled (s : State) (r : OpRule) (f : Fields) (ls : List (Nat × Thread)) (pushes : List (QId × Word × Bool))
    (k : State) : State :=
  let pops := s.groupPops r f ls
  let tids := ls.map fun p => p.2.tid
  let k := moveWords k pops tids pushes
  let k := pops.foldl (fun k p => k.acquired p.1) k
  let k := if pushes.isEmpty then k else tids.foldl (fun k t => k.released t) k
  (s.unqueued r f ls k).bump

/-- Lanes in turn (R8): the state after each has made its effect on what the lanes before it left, and the words
they push. -/
def inTurn (r : OpRule) (f : Fields) (eff : State → Lane → State) (val : State → Lane → Word) :
    State → List Lane → State × List (QId × Word × Bool)
  | k, [] => (k, [])
  | k, l :: ls =>
    let rest := inTurn r f eff val (eff k l) ls
    (rest.1, pushOf (eff k l) r f l (val k l) ++ rest.2)

/-- A condition that each lane meets in the state that the lanes before it left, its own thread untouched. -/
def needInTurn (need : State → Lane → Prop) (eff : State → Lane → State) : State → List Lane → Prop
  | _, [] => True
  | k, l :: ls => (k.thread? l.tid = some l.thread ∧ need k l) ∧ needInTurn need eff (eff k l) ls

/-! ### What an instruction does -/

/-- What a group leaves whose lanes make their effects in turn. -/
def State.after (s : State) (r : OpRule) (f : Fields) (ls : List (Nat × Thread)) (eff : State → Lane → State)
    (val : State → Lane → Word) : State :=
  let out := inTurn r f eff val s (ls.map (s.laneOf r f ls))
  s.settled r f ls out.2 out.1

/-- An instruction completes for every group that nothing stops and whose lanes meet `need`, in every form: each
lane makes the effect `eff`, and pushes `val` if rd is a port. -/
def Runs (i : Instr) (r : OpRule) (f : Fields) (irrev carries : Bool) (need : State → Lane → Prop)
    (eff : State → Lane → State) (val : State → Lane → Word) : Prop :=
  ∀ s ls, PortsReady s r f irrev carries ls → needInTurn need eff s (ls.map (s.laneOf r f ls)) →
    exec i s = .next (s.after r f ls eff val)

/-- The thread of a lane past an instruction, with a result in rd unless rd is a port (R58, R88, R396). -/
def Lane.got (l : Lane) (r : OpRule) (f : Fields) (irrev : Bool) (v : Word) : Thread :=
  (if pushesRd r f then l.thread else l.thread.setReg f.rd ⟨v, true, l.poison⟩).past f (irrev || touchesPort r f)

/-- An instruction that leaves one value in rd and nothing else: v of each lane's operands. In a form without queue
ports only the threads' records change, in rd and pc (rgn too where the instruction is irrevocable); where ports
are operands their words move besides, and the value carries the poison of the words popped. -/
def Yields (i : Instr) (r : OpRule) (f : Fields) (irrev : Bool) (v : Lane → Word) : Prop :=
  (∀ s ls, Ready s r f irrev ls →
    exec i s = .next (s.lanesTo ls fun n t => t.got f irrev (v (readLane r f n t [])))) ∧
  Runs i r f irrev true (fun _ _ => True) (fun k l => k.putThread (l.got r f irrev (v l))) fun _ l => v l

/-- A lane alone at an instruction that traps it (R58, R384): it takes the trap, no word moves, and nothing else
happens. -/
def TrapsAlone (i : Instr) (r : OpRule) (f : Fields) (irrev carries : Bool) (why : State → Lane → Option Trap)
    (next : Bool) : Prop :=
  ∀ s n t tr, PortsReady s r f irrev carries [(n, t)] → why s (s.laneOf r f [(n, t)] (n, t)) = some tr →
    trapWaits s t.tid tr = false →
    exec i s = .next (s.unqueued r f [(n, t)] (takeTrap s t.tid f tr (irrev || touchesPort r f) next)).bump

/-- A lane alone that waits (R57): nothing happens, and the issue counts as blocked. -/
def WaitsAlone (i : Instr) (r : OpRule) (f : Fields) (irrev carries : Bool) (why : State → Lane → Prop) : Prop :=
  ∀ s n t, PortsReady s r f irrev carries [(n, t)] → why s (s.laneOf r f [(n, t)] (n, t)) → exec i s = .next s.block

end Sys2Proof.Machine
end

