-- ==== Sys2Proof/Certificates/Slice0/Obligations.lean ====
section
/-! DEFINITION. The statements for the provers, each with the vocabulary it uses. A statement that rests on a choice of the
model names its log entry. -/
/-! ### Integer and register instructions (R98 to R111) -/

namespace Sys2Proof.Claims

open Sys2Proof.Machine

/-- An n-bit operation on two words: on all 64 bits, or with .w on their low halves, with the 32-bit result
sign-extended (R98). -/
def atWidth (w : Bool) (op : (n : Nat) → BitVec n → BitVec n → BitVec n) (a b : Word) : Word :=
  if w then (op 32 (a.setWidth 32) (b.setWidth 32)).signExtend 64 else op 64 a b

/-- The second operand (R65, R98): s2, or the sign-extended immediate in the forms in which it stands in place of
s2. -/
def secondOf (r : OpRule) (f : Fields) (l : Lane) : Word :=
  if immForS2 r f then f.imm.signExtend 64 else l.b

/-- An instruction that yields an n-bit operation of its two operands. -/
def YieldsOp (i : Instr) (r : OpRule) (f : Fields) (op : (n : Nat) → BitVec n → BitVec n → BitVec n) : Prop :=
  Yields i r f false fun l => atWidth f.w op l.a (secondOf r f l)

/-- The high half of the product of two n-bit numbers, each widened as its signedness says (R100). -/
def mulHigh (sa sb : Bool) (n : Nat) (a b : BitVec n) : BitVec n :=
  let x : BitVec (2 * n) := if sa then a.signExtend (2 * n) else a.setWidth (2 * n)
  let y : BitVec (2 * n) := if sb then b.signExtend (2 * n) else b.setWidth (2 * n)
  (x * y).extractLsb' n n

/-- The number of bits at the top of x, bit n - 1 first, that are 0 before a 1 stands. -/
def leadingZeros (n : Nat) (x : BitVec n) : Nat := ((List.range n).takeWhile fun i => !x.getMsbD i).length

/-- The number of bits at the bottom of x that are 0 before a 1 stands. -/
def trailingZeros (n : Nat) (x : BitVec n) : Nat := ((List.range n).takeWhile fun i => !x.getLsbD i).length

/-- The number of bits of x that are 1. -/
def onesIn (n : Nat) (x : BitVec n) : Nat := ((List.range n).filter fun i => x.getLsbD i).length

/-- A condition of R81 between two words of n bits. -/
def condOn (code : Nat) (n : Nat) (a b : BitVec n) : Bool :=
  match code with
  | 0 => true
  | 1 => a == b
  | 2 => a != b
  | 3 => a.slt b
  | 4 => !a.slt b
  | 5 => !b.slt a
  | 6 => b.slt a
  | 7 => a.ult b
  | 8 => !a.ult b
  | 9 => !b.ult a
  | 10 => b.ult a
  | _ => false

/-- A condition of R81 between two words, with .w between their low halves. -/
def condAt (code : Nat) (w : Bool) (a b : Word) : Bool :=
  if w then condOn code 32 (a.setWidth 32) (b.setWidth 32) else condOn code 64 a b

/-- How an instruction is encoded (R52, R66): its opcode, the forms it takes beside a compact one, and what its fields
must be there. -/
def Encodes (c : Fields → Instr) (op : Nat) (forms : List Form) (fits : Fields → Prop) : Prop :=
  (∀ f, instrFields (c f) = some (op, f) ∧
    ((c f).wellFormed = true → f.form ≠ .c → f.form ∈ forms ∧ fits f)) ∧
  ∀ fm ∈ forms, ∃ f, f.form = fm ∧ (c f).wellFormed = true

/-- Bytes that spell an instruction and nothing after it. -/
def Spells (bs : List Byte) (i : Instr) : Prop := decode bs = .ok (i, [])

/-- The fields of an S form (R47). -/
def sForm (rd s1 s2 : Fin 64) : Fields :=
  { form := .s, rd, s1, s2, s3 := 0, e1 := false, e2 := false, e3 := false, mod := 0, pol := 0, imm := 0 }

/-- The fields of an M form (R48). -/
def mForm (rd s1 s2 s3 : Fin 64) (mod : BitVec 8) : Fields :=
  { form := .m, rd, s1, s2, s3, e1 := false, e2 := false, e3 := false, mod, pol := 0, imm := 0 }

/-- The fields of an L form (R49). -/
def lForm (rd s1 s2 : Fin 64) (mod : BitVec 8) (imm : BitVec 32) : Fields :=
  { form := .l, rd, s1, s2, s3 := 0, e1 := false, e2 := false, e3 := false, mod, pol := 0, imm }

/-- The fields of an instruction without operands. -/
def Bare (f : Fields) : Prop := f = sForm 0 0 0

/-- Integer arithmetic and shifts with their rules. -/
def integerResults (f : Fields) : List (Instr × OpRule) :=
  [(.add f, rAlu), (.sub f, rAlu), (.addi f, rAddi), (.li f, rLi), (.lih f, rLih), (.addpc f, rLi), (.mul f, rAlu),
   (.mulh f, rAlu), (.mulhu f, rAlu), (.mulhsu f, rAlu), (.div f, rAlu), (.divu f, rAlu), (.rem f, rAlu), (.remu f,
   rAlu), (.and f, rLogic), (.or f, rLogic), (.xor f, rLogic), (.andn f, rLogic), (.orn f, rLogic), (.xnor f,
   rLogic), (.shl f, rShift), (.shr f, rShift), (.sra f, rShift), (.rol f, rShift), (.ror f, rShift)]

/-- Bit counts, fields, selections, comparisons and moves with their rules. -/
def bitResults (f : Fields) : List (Instr × OpRule) :=
  [(.clz f, rUnary), (.ctz f, rUnary), (.popc f, rUnary), (.brev f, rUnary), (.bswap f, rUnary), (.bfx f, rBfx),
   (.bfxu f, rBfx), (.min f, rAlu), (.max f, rAlu), (.minu f, rAlu), (.maxu f, rAlu), (.abs f, rUnary), (.sel f,
   rSel), (.cmp f, rCmp), (.cmpi f, rCmpi), (.mov f, rMov), (.sextB f, rMov), (.sextH f, rMov), (.sextW f, rMov),
   (.zextB f, rMov), (.zextH f, rMov), (.zextW f, rMov), (.tstf f, rTstf), (.fclass f, rFclass), (.fsgn f, rFsgn)]

/-- Packed instructions with their rules. -/
def packedResults (f : Fields) : List (Instr × OpRule) :=
  [(.padd f, rPackSat), (.paddu f, rPackSat), (.psub f, rPackSat), (.psubu f, rPackSat), (.pmul f, rPackSat), (.pmin
   f, rPack), (.pminu f, rPack), (.pmax f, rPack), (.pmaxu f, rPack), (.pavg f, rPack), (.pabs f, rPack1), (.pcmp f,
   rPcmp), (.pshuf f, rPshuf), (.ppack f, rPackSat), (.punpkl f, rPack1), (.punpkh f, rPack1), (.punpklu f, rPack1),
   (.punpkhu f, rPack1), (.pdot f, rPdot), (.pdotu f, rPdot)]

/-- Floating-point arithmetic and selection with their rules. -/
def flaggedArithmetic (f : Fields) : List (Instr × OpRule) :=
  [(.faddD f, rFloat2), (.faddS f, rFloat2), (.fsubD f, rFloat2), (.fsubS f, rFloat2), (.fmulD f, rFloat2), (.fmulS
   f, rFloat2), (.fdivD f, rFloat2), (.fdivS f, rFloat2), (.ffmaD f, rFfma), (.ffmaS f, rFfma), (.fsqrtD f,
   rFloat1), (.fsqrtS f, rFloat1), (.frndD f, rFloat1), (.frndS f, rFloat1), (.fminD f, rFmin), (.fminS f, rFmin),
   (.fmaxD f, rFmin), (.fmaxS f, rFmin), (.fcmpD f, rFcmp), (.fcmpS f, rFcmp)]

/-- Conversions, approximate functions and packed floating point with their rules. -/
def flaggedOthers (f : Fields) : List (Instr × OpRule) :=
  [(.fcvtD f, rFcvt 0), (.fcvtS f, rFcvt 1), (.fcvtH f, rFcvt 2), (.fcvtBf f, rFcvt 3), (.fcvtiD f, rFcvti),
   (.fcvtiS f, rFcvti), (.fcvtiuD f, rFcvti), (.fcvtiuS f, rFcvti), (.icvtfD f, rFcvti), (.icvtfS f, rFcvti),
   (.icvtfuD f, rFcvti), (.icvtfuS f, rFcvti), (.frcp f, rMov), (.frsq f, rMov), (.fexp2 f, rMov), (.flog2 f, rMov),
   (.fsin f, rMov), (.fcos f, rMov), (.pdotfE4 f, rSel), (.pdotfE5 f, rSel), (.pdotfF4 f, rSel), (.pscl f, rPscl)]

end Sys2Proof.Claims

open Sys2Proof Sys2Proof.Machine Sys2Proof.Claims

/-- R99: ADD, SUB, ADDI, LI, LIH and ADDPC, with their encodings. -/
def Obligations.AdditionAndConstants : Prop :=
  (∀ e ∈ [(Instr.add, 0x000), (.sub, 0x001)],
    Encodes e.1 e.2 [.s, .m] fun f => (f.form = .s → f.w = false) ∧ (f.form = .m → f.s3 = 0)) ∧
  Encodes .addi 0x002 [.l, .x] (fun _ => True) ∧ Encodes .li 0x003 [.l, .x] (fun f => f.s1 = 0 ∧ f.s2 = 0) ∧
  Encodes .lih 0x004 [.x] (fun _ => True) ∧ Encodes .addpc 0x005 [.l, .x] (fun _ => True) ∧
  ∀ f : Fields,
    YieldsOp (.add f) rAlu f (fun _ a b => a + b) ∧
    YieldsOp (.sub f) rAlu f (fun _ a b => a - b) ∧
    Yields (.addi f) rAddi f false (fun l => atWidth f.w (fun _ a b => a + b) l.a (f.imm.signExtend 64)) ∧
    Yields (.li f) rLi f false (fun _ => f.imm.signExtend 64) ∧
    Yields (.lih f) rLih f false (fun l => f.imm ++ l.a.setWidth 32) ∧
    Yields (.addpc f) rLi f false (fun l => l.thread.pc + f.imm.signExtend 64)

/-- R100: MUL to REMU, with their opcodes and their borderline cases. -/
def Obligations.MultiplicationAndDivision : Prop :=
  (∀ e ∈ [(Instr.mul, 0x006), (.mulh, 0x007), (.mulhu, 0x008), (.mulhsu, 0x009), (.div, 0x00A), (.divu, 0x00B),
      (.rem, 0x00C), (.remu, 0x00D)],
    Encodes e.1 e.2 [.s, .m] fun f => f.s3 = 0) ∧
  ∀ f : Fields,
    YieldsOp (.mul f) rAlu f (fun _ a b => a * b) ∧
    YieldsOp (.mulh f) rAlu f (mulHigh true true) ∧
    YieldsOp (.mulhu f) rAlu f (mulHigh false false) ∧
    YieldsOp (.mulhsu f) rAlu f (mulHigh true false) ∧
    YieldsOp (.div f) rAlu f (fun n a b => if b = 0#n then BitVec.allOnes n else a.sdiv b) ∧
    YieldsOp (.divu f) rAlu f (fun n a b => if b = 0#n then BitVec.allOnes n else a.udiv b) ∧
    YieldsOp (.rem f) rAlu f (fun n a b => if b = 0#n then a else a.srem b) ∧
    YieldsOp (.remu f) rAlu f (fun n a b => if b = 0#n then a else a.umod b)

/-- R101, R102: bitwise logic, shifts and rotates, with their encodings; a count is taken modulo the width, and an
immediate count beyond it is no encoding. -/
def Obligations.LogicAndShifts : Prop :=
  (∀ e ∈ [(Instr.and, 0x00E), (.or, 0x00F), (.xor, 0x010), (.andn, 0x011), (.orn, 0x012), (.xnor, 0x013)],
    Encodes e.1 e.2 [.s, .l, .x] fun f => f.mod = 0 ∧ (f.form = .l ∨ f.form = .x → f.s2 = 0)) ∧
  (∀ e ∈ [(Instr.shl, 0x014), (.shr, 0x015), (.sra, 0x016), (.rol, 0x017), (.ror, 0x018)],
    Encodes e.1 e.2 [.s, .m, .l] fun f => f.form = .l → f.s2 = 0 ∧ f.imm.toNat < if f.w then 32 else 64) ∧
  ∀ f : Fields,
    Yields (.and f) rLogic f false (fun l => l.a &&& secondOf rLogic f l) ∧
    Yields (.or f) rLogic f false (fun l => l.a ||| secondOf rLogic f l) ∧
    Yields (.xor f) rLogic f false (fun l => l.a ^^^ secondOf rLogic f l) ∧
    Yields (.andn f) rLogic f false (fun l => l.a &&& ~~~secondOf rLogic f l) ∧
    Yields (.orn f) rLogic f false (fun l => l.a ||| ~~~secondOf rLogic f l) ∧
    Yields (.xnor f) rLogic f false (fun l => ~~~(l.a ^^^ secondOf rLogic f l)) ∧
    YieldsOp (.shl f) rShift f (fun n a b => a <<< (b.toNat % n)) ∧
    YieldsOp (.shr f) rShift f (fun n a b => a >>> (b.toNat % n)) ∧
    YieldsOp (.sra f) rShift f (fun n a b => a.sshiftRight (b.toNat % n)) ∧
    YieldsOp (.rol f) rShift f (fun n a b => a.rotateLeft (b.toNat % n)) ∧
    YieldsOp (.ror f) rShift f (fun n a b => a.rotateRight (b.toNat % n))

/-- R103: CLZ, CTZ, POPC, BREV and BSWAP, with their encodings. Bit i of a reversed word is bit n - 1 - i, and byte i of
a word with its bytes reversed is byte n / 8 - 1 - i. -/
def Sys2Proof.Claims.BitCounting : Prop :=
  (∀ e ∈ [(Instr.clz, 0x019), (.ctz, 0x01A), (.popc, 0x01B), (.brev, 0x01C), (.bswap, 0x01D)],
    Encodes e.1 e.2 [.s, .m] fun f => f.s2 = 0) ∧
  ∀ f : Fields,
    YieldsOp (.clz f) rUnary f (fun n a _ => BitVec.ofNat n (leadingZeros n a)) ∧
    YieldsOp (.ctz f) rUnary f (fun n a _ => BitVec.ofNat n (trailingZeros n a)) ∧
    YieldsOp (.popc f) rUnary f (fun n a _ => BitVec.ofNat n (onesIn n a)) ∧
    (∃ op : (n : Nat) → BitVec n → BitVec n → BitVec n, YieldsOp (.brev f) rUnary f op ∧
      ∀ n ∈ [32, 64], ∀ (a b : BitVec n) (i : Nat), i < n → (op n a b).getLsbD i = a.getLsbD (n - 1 - i)) ∧
    ∃ op : (n : Nat) → BitVec n → BitVec n → BitVec n, YieldsOp (.bswap f) rUnary f op ∧
      ∀ n ∈ [32, 64], ∀ (a b : BitVec n) (i j : Nat), i < n / 8 → j < 8 →
        (op n a b).getLsbD (8 * i + j) = a.getLsbD (8 * (n / 8 - 1 - i) + j)

/-- R104: BFX, BFXU and BFI, with their encodings, bit by bit: the field stands at p, and its width is clipped at bit 63.
BFI traps POISON when the base it reads from rd carries poison (R396); otherwise the bits of rd outside the field
stay. -/
def Sys2Proof.Claims.BitFields : Prop :=
  (∀ e ∈ [(Instr.bfx, 0x01E), (.bfxu, 0x01F), (.bfi, 0x020)], Encodes e.1 e.2 [.m, .l] fun f =>
    (e.2 = 0x020 → f.rd.val < 56) ∧
    (f.form = .l → f.s2 = 0 ∧ f.s3 = 0 ∧ f.imm.toNat < 2 ^ 13 ∧ f.imm.toNat / 64 ≠ 0 ∧ f.imm.toNat / 64 ≤ 64 ∧
      f.imm.toNat % 64 + f.imm.toNat / 64 ≤ 64)) ∧
  ∀ f : Fields,
    let pos (l : Lane) : Nat := if f.form = .l then f.imm.toNat % 64 else l.b.toNat % 64
    let wide (l : Lane) : Nat := min (if f.form = .l then f.imm.toNat / 64 % 128 else l.c.toNat % 128) (64 - pos l)
    (f.form = .l ∨ f.form = .m) →
    (∃ v : Lane → Word, Yields (.bfx f) rBfx f false v ∧ ∀ l i, i < 64 →
      (v l).getLsbD i = (decide (0 < wide l) && l.a.getLsbD (pos l + min i (wide l - 1)))) ∧
    (∃ v : Lane → Word, Yields (.bfxu f) rBfx f false v ∧ ∀ l i, i < 64 →
      (v l).getLsbD i = (decide (i < wide l) && l.a.getLsbD (pos l + i))) ∧
    (∃ v : Lane → Word,
      Runs (.bfi f) rBfi f false true (fun _ l => (l.thread.reg f.rd).poison = false)
        (fun k l => k.putThread (l.got rBfi f false (v l))) (fun _ l => v l) ∧
      ∀ l i, i < 64 → (v l).getLsbD i =
        if pos l ≤ i ∧ i < pos l + wide l then l.a.getLsbD (i - pos l) else (l.thread.reg f.rd).val.getLsbD i) ∧
    TrapsAlone (.bfi f) rBfi f false true
      (fun _ l => if (l.thread.reg f.rd).poison then some (Trap.plain .poison f.rd) else none) false

/-- R103: CLZ, CTZ, POPC, BREV and BSWAP, with their encodings. Bit i of a reversed word is bit n - 1 - i, and byte i
of a word with its bytes reversed is byte n / 8 - 1 - i. R104: BFX, BFXU and BFI, with their encodings, bit by bit:
the field stands at p, and its width is clipped at bit 63. BFI traps POISON when the base it reads from rd carries
poison (R396); otherwise the bits of rd outside the field stay. -/
def Obligations.BitCountingAndFields : Prop := Claims.BitCounting ∧ Claims.BitFields

/-- R105: MIN, MAX, MINU, MAXU, ABS and SEL, with their encodings. -/
def Sys2Proof.Claims.MinimumMaximumSelection : Prop :=
  (∀ e ∈ [(Instr.min, 0x021), (.max, 0x022), (.minu, 0x023), (.maxu, 0x024)],
    Encodes e.1 e.2 [.s, .m] fun f => f.s3 = 0) ∧
  Encodes .abs 0x025 [.s, .m] (fun f => f.s2 = 0) ∧ Encodes .sel 0x026 [.m] (fun f => f.mod = 0) ∧
  ∀ f : Fields,
    YieldsOp (.min f) rAlu f (fun _ a b => if a.slt b then a else b) ∧
    YieldsOp (.max f) rAlu f (fun _ a b => if b.slt a then a else b) ∧
    YieldsOp (.minu f) rAlu f (fun _ a b => if a.ult b then a else b) ∧
    YieldsOp (.maxu f) rAlu f (fun _ a b => if b.ult a then a else b) ∧
    YieldsOp (.abs f) rUnary f (fun n a _ => if a.slt 0#n then -a else a) ∧
    Yields (.sel f) rSel f false (fun l => if l.c = 0 then l.b else l.a)

/-- R106, R107: CMP, CMPI, MOV and the extensions, with their encodings; condition codes 11 to 15 are none, and a
condition 0 reads no source. -/
def Sys2Proof.Claims.ComparisonAndMoves : Prop :=
  Encodes .cmp 0x027 [.s, .m] (fun f => f.mod.toNat % 16 ≤ 10 ∧ (f.form = .s → f.mod = 0) ∧
    (f.mod.toNat % 16 = 0 → f.s1 = 0 ∧ f.s2 = 0)) ∧
  Encodes .cmpi 0x028 [.l, .x] (fun f => f.mod.toNat % 16 ≤ 10 ∧
    (f.mod.toNat % 16 = 0 → f.s1 = 0 ∧ f.s2 = 0 ∧ f.imm = 0)) ∧
  (∀ e ∈ [(Instr.mov, 0x029), (.sextB, 0x02A), (.sextH, 0x02B), (.sextW, 0x02C), (.zextB, 0x02D), (.zextH, 0x02E),
      (.zextW, 0x02F)],
    Encodes e.1 e.2 [.s] fun f => f.s2 = 0) ∧
  ∀ f : Fields,
    Yields (.cmp f) rCmp f false (fun l => if condAt (f.mod.toNat % 16) f.w l.a l.b then 1 else 0) ∧
    Yields (.cmpi f) rCmpi f false
      (fun l => if condAt (f.mod.toNat % 16) f.w l.a (f.imm.signExtend 64) then 1 else 0) ∧
    Yields (.mov f) rMov f false (fun l => l.a) ∧
    Yields (.sextB f) rMov f false (fun l => (l.a.setWidth 8).signExtend 64) ∧
    Yields (.sextH f) rMov f false (fun l => (l.a.setWidth 16).signExtend 64) ∧
    Yields (.sextW f) rMov f false (fun l => (l.a.setWidth 32).signExtend 64) ∧
    Yields (.zextB f) rMov f false (fun l => (l.a.setWidth 8).setWidth 64) ∧
    Yields (.zextH f) rMov f false (fun l => (l.a.setWidth 16).setWidth 64) ∧
    Yields (.zextW f) rMov f false (fun l => (l.a.setWidth 32).setWidth 64)

/-- R105: MIN, MAX, MINU, MAXU, ABS and SEL, with their encodings. R106, R107: CMP, CMPI, MOV and the extensions,
with their encodings; condition codes 11 to 15 are none, and a condition 0 reads no source. -/
def Obligations.SelectionComparisonAndMoves : Prop := Claims.MinimumMaximumSelection ∧ Claims.ComparisonAndMoves

/-- R162, R163: NOP only goes on, and RGN moves rgn to the instruction that follows it; both have no operand, in the S form
and in a halfword. -/
def Obligations.NopAndRegionMark : Prop :=
  Encodes .nop 0x0AA [.s] Bare ∧ Encodes .rgn 0x0AE [.s] Bare ∧
  Spells [0x02, 0x00] (.nop { sForm 0 0 0 with form := .c }) ∧
  Spells [0x70, 0x00] (.rgn { sForm 0 0 0 with form := .c }) ∧
  ∀ f : Fields,
    Runs (.nop f) rNone f false true (fun _ _ => True) (fun k l => k.putThread (l.thread.past f false)) (fun _ _ => 0) ∧
    Runs (.rgn f) rNone f false true (fun _ _ => True)
      (fun k l => k.putThread { l.thread.past f false with rgn := nextPc f l.thread.pc }) (fun _ _ => 0)

/-- What an instruction that only computes a result leaves as it was (R8, R58, R98). It completes for every group that
nothing stops, in every form. Every lane is past it, and of its record only rd differs besides, and rgn and, for a pop,
its inbox and view where a port is an operand; g0 stays. Where the instruction raises floating-point flags and none of
them is to trap, fmode differs besides, in its sticky flags alone. Every other thread, every byte of memory and of the
vaults, every context, every firmware register and every access in flight stay; in a form without queue ports the
scratchpads, accumulators, queues, and everything else in the machine stay too. -/
def Obligations.ResultsChangeNothingElse : Prop :=
  ∀ (f : Fields) (s : State) (ls : List (Nat × Thread)),
    let kept (t : State) : Prop :=
      (∀ a, t.byteAt a = s.byteAt a) ∧ (∀ a, t.vaultByte a = s.vaultByte a) ∧ t.fw = s.fw ∧ t.contexts = s.contexts ∧
      t.pend = s.pend ∧ t.stores = s.stores ∧ ∀ n, (∀ p ∈ ls, p.2.tid ≠ n) → t.thread? n = s.thread? n
    let whole (t : State) : Prop :=
      t.bolts = s.bolts ∧ t.queues = s.queues ∧ t.wcores = s.wcores ∧ t.lcores = s.lcores ∧
      t = { s.bump with threads := t.threads }
    let lane (t : State) (g : Thread → Thread → Thread) : Prop :=
      ∀ p ∈ ls, ∃ u, t.thread? p.2.tid = some u ∧ (∀ n, n ≠ f.rd.val ∨ n = 0 → u.reg n = p.2.reg n) ∧
        (∀ k, k < 4 ∨ 9 ≤ k → u.fmode.getLsbD k = p.2.fmode.getLsbD k) ∧
        u = { g p.2 u with regs := u.regs, pc := nextPc f p.2.pc }
    let ports (r : OpRule) (t u : Thread) : Thread :=
      { t with rgn := if touchesPort r f then nextPc f t.pc else t.rgn, inbox := u.inbox, vstamp := u.vstamp }
    (∀ e ∈ integerResults f ++ bitResults f ++ packedResults f,
      (Ready s e.2 f false ls → ∃ t, exec e.1 s = .next t ∧ kept t ∧ whole t ∧ lane t fun t _ => t) ∧
      (PortsReady s e.2 f false true ls → ∃ t, exec e.1 s = .next t ∧ kept t ∧ lane t (ports e.2))) ∧
    ∀ e ∈ flaggedArithmetic f ++ flaggedOthers f, (∀ p ∈ ls, p.2.fmode.toNat / 2 ^ 12 % 32 = 0) →
      (Ready s e.2 f false ls → ∃ t, exec e.1 s = .next t ∧ kept t ∧ whole t ∧
        lane t fun t u => { t with fmode := u.fmode }) ∧
      (PortsReady s e.2 f false true ls → ∃ t, exec e.1 s = .next t ∧ kept t ∧
        lane t fun t u => { ports e.2 t u with fmode := u.fmode })

/-! ### Full bits, queue ports and system registers (R87 to R97, R108 to R111) -/

namespace Sys2Proof.Claims

open Sys2Proof.Machine

/-- Whether no asynchronous result aims at a register of a thread (R88, R89). -/
def NothingAims (s : State) (tid n : Nat) : Prop :=
  ∀ x ∈ s.pend, x.tid = tid → x.rd ≠ n ∧ (x.pair = true → x.rd ≠ 0 → x.rd + 1 ≠ n)

/-- The thread with the full bit of a register as given (R88). -/
def withFull (t : Thread) (n : Nat) (full : Bool) : Thread := t.setReg n { t.reg n with full }

/-- The binding of R109 that a QBIND makes for a lane, where R94 allows it. -/
def bindingOf (s : State) (f : Fields) (l : Lane) : Option Port :=
  match (f.imm >>> 13).toNat % 4 with
  | 1 =>
    let q := (f.imm.setWidth 13 + l.a.setWidth 13 : BitVec 13).toNat
    if (s.queue q).granted l.thread.pid then some (.base q) else none
  | 2 =>
    let n := (f.imm.setWidth 5 + l.a.setWidth 5 : BitVec 5).toNat
    if l.thread.onLatency then none
    else if (((l.thread.bolt.bind s.bolt?).bind fun b => tabGet b.chans n).map Chan.dcode).getD 0 = 0 then none
    else some (.chan n)
  | 3 => some .inbox
  | _ => none

/-- The trap of a QBIND where R94 allows no binding. That NEEDW names the port's register is the model's choice (log entry
74). -/
def bindTrapOf (s : State) (f : Fields) (l : Lane) : Option Trap :=
  match (f.imm >>> 13).toNat % 4 with
  | 1 =>
    let q := (f.imm.setWidth 13 + l.a.setWidth 13 : BitVec 13).toNat
    if (s.queue q).granted l.thread.pid then none else some (Trap.plain .prot q)
  | 2 =>
    let n := (f.imm.setWidth 5 + l.a.setWidth 5 : BitVec 5).toNat
    if l.thread.onLatency then some (Trap.plain .needw f.rd)
    else if (((l.thread.bolt.bind s.bolt?).bind fun b => tabGet b.chans n).map Chan.dcode).getD 0 = 0 then
      some (Trap.plain .prot (8192 + n))
    else none
  | _ => none

/-- The status word of R110 for the queue bound to a port. -/
def statusOf (s : State) (t : Thread) (p : Port) : Word :=
  let word (kind id cap occ : Nat) : Word := BitVec.ofNat 64 (kind * 2 ^ 62 + id * 2 ^ 49 + (cap - 1) * 2 ^ 25 + occ)
  match p with
  | .unbound => 0
  | .base q =>
    if (s.queue q).granted t.pid then word 1 q (2 ^ (s.queue q).lsz) (s.queue q).words.length else word 1 q 1 0
  | .chan n =>
    match ((t.bolt.bind s.bolt?).bind fun b => b.chan? n) with
    | some c => word 2 n (2 ^ c.dcode) c.occ
    | none => word 2 n 1 0
  | .inbox => word 3 0 64 t.inbox.length

/-- The system registers (R96, R386, R422): number, least level that may read it and least level that may write it;
none where the column says none. -/
def systemRegisters : List (Nat × Option Nat × Option Nat) :=
  [(0x000, some 0, none), (0x001, some 0, none), (0x002, some 0, none), (0x003, some 0, none),
   (0x004, some 0, none), (0x005, some 0, none), (0x006, some 0, none), (0x007, some 0, none),
   (0x008, some 0, none), (0x009, some 0, none), (0x00A, some 0, none), (0x00B, some 0, none),
   (0x00C, some 0, some 2), (0x00D, some 0, some 0), (0x00E, some 0, some 1), (0x00F, some 0, none),
   (0x010, some 0, some 1), (0x011, some 0, some 0), (0x012, some 0, some 0), (0x013, some 0, some 0),
   (0x014, some 0, some 0), (0x015, some 0, some 1), (0x016, some 0, some 1), (0x017, some 0, none),
   (0x018, some 0, none), (0x019, some 0, none), (0x01A, some 0, some 1), (0x100, some 1, some 1)] ++
  [(0x101, some 1, some 1), (0x102, some 1, some 1), (0x103, some 0, some 2), (0x104, some 0, some 1),
   (0x800, some 1, some 1), (0x801, some 2, some 2), (0x802, some 1, some 1), (0x803, some 1, some 1),
   (0x804, some 1, some 2), (0x805, some 1, some 2), (0x806, some 2, some 2), (0x807, some 1, some 2),
   (0x808, some 1, some 2), (0x809, some 1, some 2), (0x80A, some 1, some 2), (0x80B, some 1, some 2),
   (0x80C, some 1, some 2), (0x80D, some 2, some 2), (0x80E, some 2, some 2), (0x80F, some 1, some 2),
   (0x810, some 1, some 2), (0x811, some 2, some 2), (0x812, some 2, some 2), (0x813, some 1, some 2),
   (0x814, some 1, some 2), (0x815, some 1, some 2), (0x816, some 1, some 2), (0x817, some 1, some 2),
   (0x818, none, some 2), (0x819, some 2, none), (0x81A, some 1, some 2)]

/-- The registers of thread scope that can be written (R96), with what a write of v leaves (R95, R131). -/
def threadWrites (v : Word) : List (Nat × (Thread → Thread)) :=
  [(0x00D, fun t => { t with fmode := (v &&& 0x1F1F0#64) ||| (if 5 < (v &&& 7#64).toNat then 5#64 else v &&& 7#64) }),
   (0x010, fun t => { t with rgn := v &&& ~~~1#64 }),
   (0x011, fun t => { t with pkey := v }),
   (0x012, fun t => { t with pwait := if 65535 < v.toNat then 65535 else v.toNat }),
   (0x013, fun t => { t with yage := if v.toNat < 16 then 16 else if 65535 < v.toNat then 65535 else v.toNat }),
   (0x014, fun t => { t with sigmask := v &&& ~~~1#64 }),
   (0x100, fun t => { t with trapcause := v &&& 0x7FF#64 }),
   (0x101, fun t => { t with trapval := v }),
   (0x102, fun t => { t with trappc := v })]

/-- The package registers that can be written (R386, R422), with what a write of v leaves (R6, R95); tlim, snstat, corctl
and pkgrst apart. -/
def packageWrites (v : Word) : List (Nat × (FwRegs → FwRegs)) :=
  let low (most : Nat) : Word := BitVec.ofNat 64 (min most v.toNat)
  let ring : Nat := if v.toNat / 2 % 32 < 4 then 4 else min 20 (v.toNat / 2 % 32)
  [(0x800, fun r => { r with svec := v &&& ~~~1#64 }), (0x801, fun r => { r with fvec := v &&& ~~~1#64 }),
   (0x803, fun r => { r with evtid := v }), (0x804, fun r => { r with svcq := v &&& 0x1FFF#64 }),
   (0x805, fun r => { r with pools := v &&& 0x1FFF1FFF1FFF#64 }),
   (0x806, fun r => { r with spcbase := v &&& 0xFFFFFFFFFFFE0#64 }),
   (0x807, fun r => { r with rdctl := (v &&& 0xFFFFFFFFFF001#64) ||| BitVec.ofNat 64 (2 * ring) }),
   (0x808, fun r => { r with rdovf := low (2 ^ 32 - 1) }), (0x809, fun r => { r with plceil := v }),
   (0x80A, fun r => { r with hdroom := low 432 }), (0x80B, fun r => { r with slfloor := low 255 }),
   (0x80D, fun r => { r with snsel := low 311 }), (0x80F, fun r => { r with evdrop := v }),
   (0x810, fun r => { r with mcklog := v &&& 0xFFFFFFFFFF01F#64 }), (0x811, fun r => { r with corsel := v }),
   (0x813, fun r => { r with pkgid := v &&& 0x3F3F#64 }), (0x814, fun r => { r with swbase := v &&& 0x1FFC0000000#64 }),
   (0x815, fun r => { r with swlen := v }), (0x816, fun r => { r with rotbase := v }),
   (0x817, fun r => { r with hdm := v &&& 0xFFFFFFFFFFFFF#64 }), (0x81A, fun r => { r with rtdrop := low (2 ^ 32 - 1) })]

end Sys2Proof.Claims

/-- R108: EMPT and FILL change the full bit of the register named in s1, once no asynchronous result aims at it, and
wait until then; TSTF reads the bit. The register's value stays. -/
def Sys2Proof.Claims.FullBits : Prop :=
  ∀ f : Fields,
    Runs (.empt f) rEmpt f false true (fun s l => NothingAims s l.tid f.s1)
      (fun k l => k.putThread ((withFull l.thread f.s1 false).past f (touchesPort rEmpt f))) (fun _ _ => 0) ∧
    Runs (.fill f) rEmpt f false true (fun s l => NothingAims s l.tid f.s1)
      (fun k l => k.putThread ((withFull l.thread f.s1 true).past f (touchesPort rEmpt f))) (fun _ _ => 0) ∧
    Yields (.tstf f) rTstf f false (fun l => if (l.thread.reg f.s1).full then 1 else 0) ∧
    ∀ s ls, Ready s rEmpt f false ls → (∃ p ∈ ls, ¬ NothingAims s p.2.tid f.s1) →
      exec (.empt f) s = .next s.block ∧ exec (.fill f) s = .next s.block

/-- R94, R109, R110: QBIND binds the port named in rd where R94 allows it, and traps where it does not; QUNB unbinds the
port named in s1, each leaving every queue as it is; QSTAT gives the status word and pops nothing, and traps NEEDW for a
channel on a latency core. That NEEDW names the port's register is the model's choice (log entry 74). -/
def Sys2Proof.Claims.QueueBindings : Prop :=
  ∀ f : Fields, f.imm.toNat < 2 ^ 15 →
    TrapsAlone (.qbind f) rQbind f false false (fun s l => bindTrapOf s f l) false ∧
    TrapsAlone (.qstat f) rQstat f false true (fun _ l =>
      match l.thread.port (f.s1.val - 56) with
      | .chan _ => if l.thread.onLatency then some (Trap.plain .needw f.s1) else none
      | _ => none) false ∧
    Runs (.qbind f) rQbind f false false (fun s l => (bindingOf s f l).isSome)
      (fun k l => k.putThread ((l.thread.setPort (f.rd.val - 56) ((bindingOf k f l).getD .unbound)).past f
        (touchesPort rQbind f))) (fun _ _ => 0) ∧
    Runs (.qunb f) rQunb f false true (fun _ _ => True)
      (fun k l => k.putThread ((l.thread.setPort (f.s1.val - 56) .unbound).past f (touchesPort rQunb f)))
      (fun _ _ => 0) ∧
    Runs (.qstat f) rQstat f false true
      (fun _ l => l.thread.onLatency = false ∨ ∀ n, l.thread.port (f.s1.val - 56) ≠ .chan n)
      (fun k l => k.putThread
        (l.got rQstat f false (statusOf k l.thread (l.thread.port (f.s1.val - 56))))) (fun _ _ => 0)

/-- R92, R58: a pop takes the head words of a base-die queue, a channel or an inbox, and a push appends at the tail of a
base-die queue or a channel; neither touches another queue. A channel keeps its words in its bolt's scratchpad, in a
ring of its depth (R323). Words that waiting pushes of the device owe a base-die queue follow a pop into its room, as far
as they are first in the line of its waiting pushes (R335). -/
def Sys2Proof.Claims.QueueWords : Prop :=
  (∀ (s : State) (n k : Nat), 0 < k → k ≤ (s.queue n).words.length →
    let room := (if (s.queue n).lsz = 0 then 0 else 2 ^ (s.queue n).lsz) - ((s.queue n).words.length - k)
    let line := (s.queue n).waiters.filter fun w => !w.pop && s.stillWaits w
    let first := (line.takeWhile fun w => decide (w = Waiter.device)).length
    let t := s.takeWords (.base n) (List.range k)
    t.queueWords (.base n) =
      (s.queueWords (.base n)).drop k ++ ((s.queue n).owed.take (min room first)).map (fun w => (w, false)) ∧
    (∀ m, m ≠ n → t.queueWords (.base m) = s.queueWords (.base m)) ∧ t = { s with queues := t.queues }) ∧
  (∀ (s : State) (n : Nat) (w : Word) (p : Bool),
    let t := s.pushWord (.base n) w p
    t.queueWords (.base n) = s.queueWords (.base n) ++ [(w, p)] ∧
    (∀ m, m ≠ n → t.queueWords (.base m) = s.queueWords (.base m)) ∧ t = { s with queues := t.queues }) ∧
  (∀ (s : State) (n k : Nat) (u : Thread), s.thread? n = some u → u.tid = n →
    let t := s.takeWords (.inbox n) (List.range k)
    t.thread? n = some { u with inbox := u.inbox.drop k } ∧
    (∀ m, m ≠ n → t.thread? m = s.thread? m) ∧ t = { s with threads := t.threads }) ∧
  ∀ (s : State) (b : Bolt) (n : Nat) (c : Chan), Memory.wf b.spad = true → s.bolt? b.id = some b →
    b.chan? n = some c → c.dcode < 15 →
    (∀ k, 0 < k → k ≤ c.occ →
      let t := s.takeWords (.chan b.id n) (List.range k)
      ∃ b' : Bolt, t.bolt? b.id = some b' ∧ (∀ a, memByte b'.spad a = memByte b.spad a) ∧
        b'.chan? n = some { c with head := (c.head + k) % 2 ^ 15 } ∧ (∀ m, m ≠ n → b'.chan? m = b.chan? m) ∧
        (∀ m, m ≠ b.id → t.bolt? m = s.bolt? m) ∧ t = { s with bolts := t.bolts }) ∧
    ∀ w, c.occ < 2 ^ c.dcode →
      let t := s.pushWord (.chan b.id n) w false
      ∃ b' : Bolt, t.bolt? b.id = some b' ∧
        memBytes b'.spad (c.base * 256 + 8 * (c.tail % 2 ^ c.dcode)) 8 = leBytes 8 w.toNat ∧
        (∀ a, a < c.base * 256 + 8 * (c.tail % 2 ^ c.dcode) ∨ c.base * 256 + 8 * (c.tail % 2 ^ c.dcode) + 8 ≤ a →
          memByte b'.spad a = memByte b.spad a) ∧
        b'.chan? n = some { c with tail := (c.tail + 1) % 2 ^ 15 } ∧ (∀ m, m ≠ n → b'.chan? m = b.chan? m) ∧
        (∀ m, m ≠ b.id → t.bolt? m = s.bolt? m) ∧ t = { s with bolts := t.bolts }

/-- R108: EMPT and FILL change the full bit of the register named in s1, once no asynchronous result aims at it, and
wait until then; TSTF reads the bit. The register's value stays. R94, R109, R110: QBIND binds the port named in rd
where R94 allows it, and QUNB unbinds the port named in s1, each leaving every queue as it is; QSTAT gives the status
word and pops nothing. R92, R58: a pop takes the head words of a queue, a push appends at its tail, and neither
touches another queue; for base-die queues, channels and inboxes. A channel keeps its words in its bolt's scratchpad,
in a ring of its depth (R323). -/
def Obligations.FullBitsAndQueues : Prop := Claims.FullBits ∧ Claims.QueueBindings ∧ Claims.QueueWords

/-- R95, R96, R111: SRD of an assigned register, by a lane whose level may read it, gives the register's value and
changes nothing else. The table says which level each number needs; the second part, what each register reads. That
spass of a thread without a slot and merr of one without a bolt read 0 is the model's choice (log entry 69). -/
def Sys2Proof.Claims.SystemRegisterReads : Prop :=
  (∀ e ∈ systemRegisters, sysReadLevel e.1 = e.2.1 ∧ sysWriteLevel e.1 = e.2.2) ∧
  (∀ (f : Fields) (s : State) (ls : List (Nat × Thread)), PortsReady s rSrd f false true ls →
    (∃ lvl, sysReadLevel f.imm.toNat = some lvl ∧ ∀ p ∈ ls, lvl ≤ p.2.plvl.code) →
    exec (.srd f) s = .next (s.after rSrd f ls
      (fun k l => k.putThread (l.got rSrd f false (s.sysRead l.thread s.cur.core f.imm.toNat)))
      fun _ l => s.sysRead l.thread s.cur.core f.imm.toNat)) ∧
  ∀ (s : State) (t : Thread) (core : Nat), ∀ e ∈
    [(0x000, BitVec.ofNat 64 t.tid), (0x001, BitVec.ofNat 64 t.pid),
     (0x002, if t.onLatency then 0 else BitVec.ofNat 64 t.lane),
     (0x003, if t.onLatency then 0 else BitVec.ofNat 64 t.weft), (0x004, BitVec.ofNat 64 t.stage), (0x005, BitVec.ofNat 64 t.nstage), (0x006, BitVec.ofNat 64 t.tcoord),
     (0x007, BitVec.ofNat 64 t.bcoord), (0x008, BitVec.ofNat 64 t.fcoord), (0x009, BitVec.ofNat 64 t.spawn),
     (0x00A, BitVec.ofNat 64 core), (0x00B, BitVec.ofNat 64 (dieOf core)), (0x00C, BitVec.ofNat 64 s.gtick),
     (0x00D, t.fmode), (0x00F, t.pc), (0x010, t.rgn), (0x011, t.pkey), (0x012, BitVec.ofNat 64 t.pwait),
     (0x013, BitVec.ofNat 64 t.yage), (0x014, t.sigmask), (0x015, BitVec.ofNat 64 (s.ctx t.pid).ubcount),
     (0x016, BitVec.ofNat 64 (s.ctx t.pid).perm), (0x017, BitVec.ofNat 64 t.plvl.code),
     (0x019, if core < 144 then BitVec.ofNat 64 (s.wcore core).vfloor else 0), (0x100, t.trapcause),
     (0x101, t.trapval), (0x102, t.trappc), (0x103, BitVec.ofNat 64 (s.guardOf core))] ++
    [(0x00E, match t.loc with
       | .member c slot _ => ((s.weft? c slot).map Weft.spass).getD 0
       | _ => 0),
     (0x018, BitVec.ofInt 64 (if core < 144 then s.heat (2 * core) else s.reading (heatColumn core))),
     (0x01A, ((t.bolt.bind s.bolt?).map Bolt.merr).getD 0),
     (0x802, if core < 144 then (s.wcore core).sscr else (s.lcore core).sscr),
     (0x80E, BitVec.ofNat 64 (((s.sensor s.fw.snsel.toNat).raw % 2 ^ 16).toNat +
       if (s.sensor s.fw.snsel.toNat).suspect then 2 ^ 16 else 0)),
     (0x812, BitVec.ofNat 64 (s.corctl s.fw.corsel.toNat))] ++
    [(0x104, (s.ctx t.pid).slope), (0x800, s.fw.svec), (0x801, s.fw.fvec), (0x803, s.fw.evtid), (0x804, s.fw.svcq),
     (0x805, s.fw.pools), (0x806, s.fw.spcbase), (0x807, s.fw.rdctl), (0x808, s.fw.rdovf), (0x809, s.fw.plceil),
     (0x80A, s.fw.hdroom), (0x80B, s.fw.slfloor), (0x80C, s.fw.tlim), (0x80D, s.fw.snsel), (0x80F, s.fw.evdrop),
     (0x810, s.fw.mcklog), (0x811, s.fw.corsel), (0x813, s.fw.pkgid), (0x814, s.fw.swbase), (0x815, s.fw.swlen),
     (0x816, s.fw.rotbase), (0x817, s.fw.hdm), (0x819, s.fw.fwver), (0x81A, s.fw.rtdrop)],
    s.sysRead t core e.1 = e.2

/-- R95 to R97, R111: SWR by lanes whose level may write. A register of thread scope is written for each lane, clamped
and masked as its row says; one of wider scope takes the value of the highest lane, and the others only move past
the instruction. The second part gives what a write leaves in each register but spass, perm, merr, tlim, snstat and
corctl. (A write of 0xA5 to pkgrst resets the package and is stated with the reset.) That a write of gtick moves the
interval with it is the model's choice (log entry 48), and so is that rgn drops bit 0 (log entry 88). -/
def Sys2Proof.Claims.SystemRegisterWrites : Prop :=
  (∀ (f : Fields) (s : State) (ls : List (Nat × Thread)), PortsReady s rSwr f false false ls →
    (∃ lvl, sysWriteLevel f.imm.toNat = some lvl ∧ ∀ p ∈ ls, lvl ≤ p.2.plvl.code) →
    (∀ l ∈ ls.map (s.laneOf rSwr f ls), ∀ e ∈ threadWrites l.a, e.1 = f.imm.toNat →
      l.thread.sysWrite f.imm.toNat l.a = e.2 l.thread) ∧
    ((∃ e ∈ threadWrites 0, e.1 = f.imm.toNat) →
      exec (.swr f) s = .next (s.after rSwr f ls
        (fun k l => k.putThread ((l.thread.sysWrite f.imm.toNat l.a).past f (touchesPort rSwr f))) fun _ _ => 0)) ∧
    ∀ ms p, ls = ms ++ [p] → (∀ e ∈ threadWrites 0, e.1 ≠ f.imm.toNat) → f.imm.toNat ≠ 0x818 →
      exec (.swr f) s = .next (s.after rSwr f ls
        (fun k l => (if l.tid = p.2.tid then k.sysWrite l.thread s.cur.core f.imm.toNat l.a else k).advance l.tid f
          (touchesPort rSwr f)) fun _ _ => 0)) ∧
  ∀ (s : State) (t : Thread) (core : Nat) (v : Word),
    s.sysWrite t core 0x00C v = { s with gtick := v.toNat, interval := v.toNat / 250 } ∧
    s.sysWrite t core 0x015 v = s.putCtx t.pid { s.ctx t.pid with ubcount := min v.toNat (2 ^ 32 - 1) } ∧
    (∀ e ∈ packageWrites v, (s.sysWrite t core e.1 v).fw = e.2 s.fw ∧
      (e.1 ≠ 0x807 → e.1 ≠ 0x817 → s.sysWrite t core e.1 v = { s with fw := e.2 s.fw })) ∧
    (core < 144 → s.sysWrite t core 0x802 v = s.putW core { s.wcore core with sscr := v }) ∧
    (256 ≤ core → core < 304 → s.sysWrite t core 0x802 v = s.putL core { s.lcore core with sscr := v }) ∧
    (core < 144 → s.sysWrite t core 0x103 v =
      s.putW core { s.wcore core with gset := if v.toNat < 1 then 1 else min 255 v.toNat }) ∧
    (256 ≤ core → core < 304 → s.sysWrite t core 0x103 v =
      s.putL core { s.lcore core with gset := if v.toNat < 1 then 1 else min 255 v.toNat }) ∧
    s.sysWrite t core 0x104 v = s.putCtx t.pid { s.ctx t.pid with
      slope := BitVec.ofNat 64 (v.toNat / 256 % 256 * 256 + max 1 (min 48 (v.toNat % 64))) }


/-- R95, R96, R111: SRD of an assigned register, by a lane whose level may read it, gives the register's value and
changes nothing else. The table says which level each number needs; the second part, what each register reads. R95 to
R97, R111: SWR by lanes whose level may write. A register of thread scope is written for each lane, clamped and
masked as its row says; one of wider scope takes the value of the highest lane, and the others only move past the
instruction; then what a write leaves in each register but spass, perm, merr, tlim, snstat and corctl. (A write of 0xA5 to
pkgrst resets the package and is stated with the reset.) The model's choices in it: a write of gtick moves the interval
with it (log entry 48); spass of a thread without a slot and merr of one without a bolt read 0 (log entry 69); a write of
rgn drops bit 0 (log entry 88). -/
def Obligations.SystemRegisters : Prop := Claims.SystemRegisterReads ∧ Claims.SystemRegisterWrites

/-! ### Floating point (R112 to R115, R130 to R143) -/

namespace Sys2Proof.Claims

open Sys2Proof.Machine

/-- The real value of a finite float. -/
noncomputable def realOf : FVal → Option ℝ
  | .fin neg m e => some ((if neg then -1 else 1) * (m : ℝ) * (2 : ℝ) ^ e)
  | _ => none

/-- A finite pattern of a format stands for a real number (R112). -/
def Stands (fm : FFmt) (p : Nat) (x : ℝ) : Prop := p < 2 ^ fm.width ∧ realOf (fm.decode p) = some x

/-- The bound at which rounding to nearest overflows: half a unit above the largest finite value (R114, R115). -/
noncomputable def overflowsAt (fm : FFmt) : ℝ := (2 - (2 : ℝ) ^ (-(fm.fb : ℤ) - 1)) * (2 : ℝ) ^ fm.bias

/-- The largest finite value of a format (R112). -/
noncomputable def greatest (fm : FFmt) : ℝ := (2 - (2 : ℝ) ^ (-(fm.fb : ℤ))) * (2 : ℝ) ^ fm.bias

/-- The pattern p is the nonzero real x rounded once to a format in a mode (R114): the nearest finite value, ties as
the mode says, or the next one in the mode's direction; infinity or the largest finite value on overflow; and the
sign of x in any case. -/
def IsRounded (fm : FFmt) (mode : RMode) (x : ℝ) (p : Nat) : Prop :=
  bitAt p (fm.eb + fm.fb) = decide (x < 0) ∧
  match mode with
  | .rne | .rmm =>
    if |x| < overflowsAt fm then
      ∃ v, Stands fm p v ∧ ∀ q r, Stands fm q r → |x - v| ≤ |x - r| ∧
        (|x - v| = |x - r| → r ≠ v → if mode = .rne then p % 2 = 0 else |r| < |v|)
    else p = fm.signed (decide (x < 0)) fm.infMag
  | .rtz => ∃ v, Stands fm p v ∧ |v| ≤ |x| ∧ ∀ q r, Stands fm q r → 0 ≤ r * x → |r| ≤ |x| → |r| ≤ |v|
  | .rdn =>
    if x < -greatest fm then p = fm.signed true fm.infMag
    else ∃ v, Stands fm p v ∧ v ≤ x ∧ ∀ q r, Stands fm q r → r ≤ x → r ≤ v
  | .rup =>
    if greatest fm < x then p = fm.signed false fm.infMag
    else ∃ v, Stands fm p v ∧ x ≤ v ∧ ∀ q r, Stands fm q r → x ≤ r → v ≤ r

/-- Whether x, rounded with unbounded exponent, exceeds the largest finite value (R115). -/
def Overflows (fm : FFmt) (mode : RMode) (x : ℝ) : Prop :=
  match mode with
  | .rne | .rmm => overflowsAt fm ≤ |x|
  | .rtz => (2 : ℝ) ^ (fm.bias + 1) ≤ |x|
  | .rdn => x < -greatest fm ∨ (2 : ℝ) ^ (fm.bias + 1) ≤ x
  | .rup => greatest fm < x ∨ x ≤ -(2 : ℝ) ^ (fm.bias + 1)

/-- An operation's result for the exact real x (R114, R115): a zero without a flag when x is 0; otherwise x rounded
once, with NX just when the result is not x, OF just when it overflows, UF only below the smallest normal magnitude,
and neither DZ nor NV. -/
def Delivers (fm : FFmt) (mode : RMode) (x : ℝ) (r : FRes) : Prop :=
  (x = 0 → (r.1 = fm.signed false 0 ∨ r.1 = fm.signed true 0) ∧ r.2 = 0) ∧
  (x ≠ 0 → IsRounded fm mode x r.1 ∧ r.2 < 8 ∧
    (r.2 &&& xNX ≠ 0 ↔ ¬ Stands fm r.1 x) ∧ (r.2 &&& xOF ≠ 0 ↔ Overflows fm mode x) ∧
    (r.2 &&& xUF ≠ 0 → r.2 &&& xNX ≠ 0 ∧ |x| < (2 : ℝ) ^ fm.emin) ∧
    (r.2 &&& xNX ≠ 0 → |x| ≤ (1 - (2 : ℝ) ^ (-(fm.fb : ℤ) - 1)) * (2 : ℝ) ^ fm.emin → r.2 &&& xUF ≠ 0))

/-- The rounding mode of an instruction for a thread (R82, R131): its rnd field, or frm where that is 0. -/
def modeFor (f : Fields) (t : Thread) : RMode :=
  let code := if f.mod.toNat % 8 = 0 then t.fmode.toNat % 8 else f.mod.toNat % 8
  if code = 2 then .rtz else if code = 3 then .rdn else if code = 4 then .rup else if code = 5 then .rmm else .rne

/-- The value of a word in a format (R130): the bits that the format occupies. -/
def valueIn (fm : FFmt) (w : Word) : FVal := fm.decode (w.toNat % 2 ^ fm.width)

/-- An instruction that raises flags (R132): a lane whose traps are not enabled for the raised set gets the result in
rd, and the set joins the sticky flags of its own fmode; nothing else changes. -/
def YieldsFlagged (i : Instr) (r : OpRule) (f : Fields) (op : Lane → FRes) : Prop :=
  Runs i r f false true (fun _ l => l.thread.fmode.toNat / 2 ^ 12 % 32 &&& (op l).2 = 0)
    (fun k l => k.putThread
      ({ l with thread := { l.thread with fmode := l.thread.fmode ||| BitVec.ofNat 64 (16 * (op l).2) } }.got r f false
        (BitVec.ofNat 64 (op l).1)))
    fun _ l => BitVec.ofNat 64 (op l).1

/-- MATH where a raised set meets an enabled trap (R132). -/
def mathTrap (op : Lane → FRes) (l : Lane) : Option Trap :=
  if l.thread.fmode.toNat / 2 ^ 12 % 32 &&& (op l).2 = 0 then none
  else some ⟨.math, BitVec.ofNat 64 (op l).2, false⟩

/-- The arithmetic of R133 to R135 and R141 with its results and raised sets. -/
def floatArithmetic (f : Fields) : List (Instr × OpRule × (Lane → FRes)) :=
  let two (fm : FFmt) (op : RMode → FVal → FVal → FRes) (l : Lane) : FRes :=
    op (modeFor f l.thread) (valueIn fm l.a) (valueIn fm l.b)
  let one (fm : FFmt) (op : RMode → FVal → FRes) (l : Lane) : FRes := op (modeFor f l.thread) (valueIn fm l.a)
  let three (fm : FFmt) (l : Lane) : FRes :=
    fm.fma (modeFor f l.thread) (valueIn fm l.a) (valueIn fm l.b) (valueIn fm l.c)
  [(.faddD f, rFloat2, two fp64 fp64.add), (.faddS f, rFloat2, two fp32 fp32.add),
   (.fsubD f, rFloat2, two fp64 fp64.sub), (.fsubS f, rFloat2, two fp32 fp32.sub),
   (.fmulD f, rFloat2, two fp64 fp64.mul), (.fmulS f, rFloat2, two fp32 fp32.mul),
   (.fdivD f, rFloat2, two fp64 fp64.div), (.fdivS f, rFloat2, two fp32 fp32.div),
   (.ffmaD f, rFfma, three fp64), (.ffmaS f, rFfma, three fp32),
   (.fsqrtD f, rFloat1, one fp64 fp64.sqrt), (.fsqrtS f, rFloat1, one fp32 fp32.sqrt),
   (.frndD f, rFloat1, one fp64 fp64.integral), (.frndS f, rFloat1, one fp32 fp32.integral)]

/-- FMIN and FMAX by the lines of R134; -0 orders below +0. -/
def selected (fm : FFmt) (least : Bool) (a b : Word) : FRes :=
  let x := valueIn fm a
  let y := valueIn fm b
  let first : Bool := match x.rel y with
    | .lt => least
    | .gt => !least
    | _ => if least then x.neg || !y.neg else !x.neg || y.neg
  (if x.isNan && y.isNan then fm.nan
    else if x.isNan then b.toNat % 2 ^ fm.width
    else if y.isNan then a.toNat % 2 ^ fm.width
    else if first then a.toNat % 2 ^ fm.width else b.toNat % 2 ^ fm.width,
   if x.isSig || y.isSig then xNV else 0)

/-- FCMP (R81, R135). -/
def compared (fm : FFmt) (code : Nat) (a b : Word) : FRes :=
  let x := valueIn fm a
  let y := valueIn fm b
  let rel := x.rel y
  (match code with
    | 0 => 1
    | 1 => if rel = .eq then 1 else 0
    | 2 => if rel = .eq then 0 else 1
    | 3 => if rel = .lt then 1 else 0
    | 4 => if rel = .gt ∨ rel = .eq then 1 else 0
    | 5 => if rel = .lt ∨ rel = .eq then 1 else 0
    | 6 => if rel = .gt then 1 else 0
    | 11 => if rel = .un then 1 else 0
    | 12 => if rel = .un then 0 else 1
    | _ => 0,
   if code = 0 then 0
   else if x.isSig ∨ y.isSig ∨ ((code = 3 ∨ code = 4 ∨ code = 5 ∨ code = 6) ∧ (x.isNan ∨ y.isNan)) then xNV else 0)

/-- The selections, comparisons, conversions and approximate functions of R134, R135 and R138 to R142, and the packed
instructions that raise flags (R150, R151), with their results and raised sets. -/
def floatOthers (f : Fields) : List (Instr × OpRule × (Lane → FRes)) :=
  let src := fmtOf (f.mod.toNat / 16 % 4)
  let cvt (fm : FFmt) (l : Lane) : FRes := fm.convert (modeFor f l.thread) (valueIn src l.a)
  let ofInt (fm : FFmt) (unsigned : Bool) (l : Lane) : FRes :=
    let x : Int := if f.fw then (if unsigned then ((l.a.setWidth 32).toNat : Int) else (l.a.setWidth 32).toInt)
      else if unsigned then (l.a.toNat : Int) else l.a.toInt
    fm.roundDy (modeFor f l.thread) false ⟨x, 0⟩
  let low (op : Nat → FRes) (l : Lane) : FRes := op (l.a.toNat % 2 ^ 32)
  [(.fminD f, rFmin, fun l => selected fp64 true l.a l.b), (.fminS f, rFmin, fun l => selected fp32 true l.a l.b),
   (.fmaxD f, rFmin, fun l => selected fp64 false l.a l.b), (.fmaxS f, rFmin, fun l => selected fp32 false l.a l.b),
   (.fcmpD f, rFcmp, fun l => compared fp64 (f.mod.toNat % 16) l.a l.b),
   (.fcmpS f, rFcmp, fun l => compared fp32 (f.mod.toNat % 16) l.a l.b),
   (.fcvtD f, rFcvt 0, cvt fp64), (.fcvtS f, rFcvt 1, cvt fp32), (.fcvtH f, rFcvt 2, cvt fp16),
   (.fcvtBf f, rFcvt 3, cvt bf16),
   (.icvtfD f, rFcvti, ofInt fp64 false), (.icvtfS f, rFcvti, ofInt fp32 false),
   (.icvtfuD f, rFcvti, ofInt fp64 true), (.icvtfuS f, rFcvti, ofInt fp32 true)] ++
  [(.frcp f, rMov, low rcp), (.frsq f, rMov, low rsq), (.fexp2 f, rMov, low exp2), (.flog2 f, rMov, low log2),
   (.fsin f, rMov, low (trig .sin fun n => fp32.signed n 0)), (.fcos f, rMov, low (trig .cos fun _ => 0x3F800000)),
   (.pdotfE4 f, rSel, fun l => dotFloat 3 l.a.toNat l.b.toNat l.c.toNat),
   (.pdotfE5 f, rSel, fun l => dotFloat 4 l.a.toNat l.b.toNat l.c.toNat),
   (.pdotfF4 f, rSel, fun l => dotFloat 7 l.a.toNat l.b.toNat l.c.toNat),
   (.pscl f, rPscl, fun l => scaleInt (modeFor f l.thread) (l.a.setWidth 32).toInt (valueIn fp32 l.b))]

/-- The integer that a real rounds to in a mode (R114). -/
def RoundsToInt (mode : RMode) (x : ℝ) (z : Int) : Prop :=
  match mode with
  | .rtz => |(z : ℝ)| ≤ |x| ∧ |x| < |(z : ℝ)| + 1 ∧ 0 ≤ z * x
  | .rdn => z = ⌊x⌋
  | .rup => z = ⌈x⌉
  | .rne => 2 * |x - z| ≤ 1 ∧ (2 * |x - z| = 1 → z % 2 = 0)
  | .rmm => 2 * |x - z| ≤ 1 ∧ (2 * |x - z| = 1 → |x| < |(z : ℝ)|)

/-- The bounds of the integer that FCVTI and FCVTIU make (R139). -/
def intBoundsFor (unsigned w : Bool) : Int × Int :=
  if unsigned then (0, if w then 2 ^ 32 - 1 else 2 ^ 64 - 1)
  else if w then (-(2 ^ 31), 2 ^ 31 - 1) else (-(2 ^ 63), 2 ^ 63 - 1)

/-- The result of FCVTI: the integer as R98 writes it, with the raised set. -/
def integerOf (fm : FFmt) (unsigned : Bool) (f : Fields) (l : Lane) : Word × Nat :=
  let b := intBoundsFor unsigned f.fw
  let r := toInteger (modeFor f l.thread) b.1 b.2 (valueIn fm l.a)
  (if f.fw then (BitVec.ofInt 32 r.1).signExtend 64 else BitVec.ofInt 64 r.1, r.2)

end Sys2Proof.Claims

/-- R132, R133, R141: FADD to FSQRT and FRND put their result in rd and their raised set into fmode, or trap MATH when
the set meets an enabled trap, with trapval equal to the set and rd, ports and fmode unchanged. -/
def Sys2Proof.Claims.FloatArithmetic : Prop :=
  ∀ f : Fields, ∀ e ∈ floatArithmetic f,
    YieldsFlagged e.1 e.2.1 f e.2.2 ∧ TrapsAlone e.1 e.2.1 f false true (fun _ l => mathTrap e.2.2 l) false

/-- R132, R134, R135, R138, R140, R142, R150, R151: the other instructions that raise flags do the same; FMIN, FMAX
and FCMP by the lines of their rules. (The values of FRCP to FCOS outside their exact cases are free values, log
entry 5.) -/
def Sys2Proof.Claims.FloatSelectionAndConversion : Prop :=
  ∀ f : Fields, ∀ e ∈ floatOthers f,
    YieldsFlagged e.1 e.2.1 f e.2.2 ∧ TrapsAlone e.1 e.2.1 f false true (fun _ l => mathTrap e.2.2 l) false

/-- R132, R133, R141: FADD to FSQRT and FRND put their result in rd and their raised set into fmode, or trap MATH
when the set meets an enabled trap, with trapval equal to the set and rd, ports and fmode unchanged. R132, R134,
R135, R138, R140, R142, R150, R151: the other instructions that raise flags do the same; FMIN, FMAX and FCMP by the
lines of their rules. (The values of FRCP to FCOS outside their exact cases are free values, log entry 5.) -/
def Obligations.FloatingPointInstructions : Prop := Claims.FloatArithmetic ∧ Claims.FloatSelectionAndConversion

/-- R113, R133: sums, products, fused sums, and conversions of finite operands are their exact result rounded once;
a NaN operand, an infinity without a useful result, and an infinity otherwise give what their lines say. -/
def Sys2Proof.Claims.SumsAndProductsRoundOnce : Prop :=
  ∀ fm ∈ [fp64, fp32], ∀ (mode : RMode) (p q r : Nat),
    let a := fm.decode p
    let b := fm.decode q
    let c := fm.decode r
    (∀ x y, realOf a = some x → realOf b = some y →
      Delivers fm mode (x + y) (fm.add mode a b) ∧ Delivers fm mode (x - y) (fm.sub mode a b) ∧
      Delivers fm mode (x * y) (fm.mul mode a b) ∧
      ∀ z, realOf c = some z → Delivers fm mode (x * y + z) (fm.fma mode a b c)) ∧
    (∀ x, realOf a = some x → ∀ dst ∈ [fp64, fp32, fp16, bf16], Delivers dst mode x (dst.convert mode a)) ∧
    (∀ z : Int, z.natAbs < 2 ^ 64 → Delivers fm mode z (fm.roundDy mode false ⟨z, 0⟩)) ∧
    (a.isNan = true ∨ b.isNan = true → ∀ o ∈ [fm.add mode a b, fm.sub mode a b, fm.mul mode a b, fm.div mode a b],
      o = (fm.nan, if a.isSig || b.isSig then xNV else 0)) ∧
    (a.isInf = true → b.isInf = true →
      fm.add mode a b = (if a.neg = b.neg then (fm.signed a.neg fm.infMag, 0) else (fm.nan, xNV)) ∧
      fm.mul mode a b = (fm.signed (a.neg != b.neg) fm.infMag, 0) ∧ fm.div mode a b = (fm.nan, xNV)) ∧
    (a.isInf = true → b.isZero = true → fm.mul mode a b = (fm.nan, xNV) ∧ fm.mul mode b a = (fm.nan, xNV))

/-- R133: quotients and square roots of finite operands are their exact result rounded once; a finite nonzero value
divided by zero gives an infinity with DZ, 0 / 0 and the root of a negative number give NaN with NV, and the root of
-0 is -0. -/
def Sys2Proof.Claims.QuotientsAndRootsRoundOnce : Prop :=
  ∀ fm ∈ [fp64, fp32], ∀ (mode : RMode) (p q : Nat),
    let a := fm.decode p
    let b := fm.decode q
    (∀ x y, realOf a = some x → realOf b = some y → y ≠ 0 → Delivers fm mode (x / y) (fm.div mode a b)) ∧
    (∀ x, realOf a = some x → 0 < x → Delivers fm mode (Real.sqrt x) (fm.sqrt mode a)) ∧
    (∀ x, realOf a = some x → x ≠ 0 → b.isZero = true →
      fm.div mode a b = (fm.signed (a.neg != b.neg) fm.infMag, xDZ)) ∧
    (a.isZero = true → b.isZero = true → fm.div mode a b = (fm.nan, xNV)) ∧
    (∀ x, realOf a = some x → x < 0 → fm.sqrt mode a = (fm.nan, xNV)) ∧
    (a.isZero = true → fm.sqrt mode a = (fm.signed a.neg 0, 0))

/-- R113, R114, R133, R138: an infinity with a finite operand, the difference of infinities, the special operands of the
fused sum, the root and the conversions; and the sign of an exact zero, which in a sum of opposite signs is that of the
mode. -/
def Sys2Proof.Claims.SpecialOperands : Prop :=
  ∀ fm ∈ [fp64, fp32], ∀ (mode : RMode) (p q r : Nat),
    let a := fm.decode p
    let b := fm.decode q
    let c := fm.decode r
    let inf (neg : Bool) : FRes := (fm.signed neg fm.infMag, 0)
    let zero (neg : Bool) : Nat := fm.signed neg 0
    let sum (x y : Bool) : Bool := if x = y then x else mode == .rdn
    (a.isInf = true → b.isInf = true → fm.sub mode a b = if a.neg = b.neg then (fm.nan, xNV) else inf a.neg) ∧
    (∀ y, a.isInf = true → realOf b = some y →
      fm.add mode a b = inf a.neg ∧ fm.add mode b a = inf a.neg ∧ fm.sub mode a b = inf a.neg ∧
      fm.sub mode b a = inf (!a.neg) ∧ fm.div mode a b = inf (a.neg != b.neg) ∧
      fm.div mode b a = (zero (a.neg != b.neg), 0) ∧
      (y ≠ 0 → fm.mul mode a b = inf (a.neg != b.neg) ∧ fm.mul mode b a = inf (a.neg != b.neg))) ∧
    (a.isSig = true ∨ b.isSig = true ∨ c.isSig = true → fm.fma mode a b c = (fm.nan, xNV)) ∧
    (a.isInf = true ∧ b.isZero = true ∨ a.isZero = true ∧ b.isInf = true → fm.fma mode a b c = (fm.nan, xNV)) ∧
    (a.isSig = false → b.isSig = false → c.isSig = false → a.isNan = true ∨ b.isNan = true ∨ c.isNan = true →
      ¬ (a.isInf = true ∧ b.isZero = true ∨ a.isZero = true ∧ b.isInf = true) → fm.fma mode a b c = (fm.nan, 0)) ∧
    (a.isNan = false → b.isNan = false → c.isNan = false → a.isInf = true ∨ b.isInf = true →
      a.isZero = false → b.isZero = false →
      fm.fma mode a b c =
        if c.isInf = true ∧ c.neg ≠ (a.neg != b.neg) then (fm.nan, xNV) else inf (a.neg != b.neg)) ∧
    (∀ x y, realOf a = some x → realOf b = some y → c.isInf = true → fm.fma mode a b c = inf c.neg) ∧
    (a.isNan = true → fm.sqrt mode a = (fm.nan, if a.isSig then xNV else 0)) ∧
    (a.isInf = true → fm.sqrt mode a = if a.neg then (fm.nan, xNV) else inf false) ∧
    (∀ dst ∈ [fp64, fp32, fp16, bf16],
      (a.isNan = true → dst.convert mode a = (dst.nan, if a.isSig then xNV else 0)) ∧
      (a.isInf = true → dst.convert mode a = (dst.signed a.neg dst.infMag, 0)) ∧
      (a.isZero = true → dst.convert mode a = (dst.signed a.neg 0, 0))) ∧
    ∀ x y, realOf a = some x → realOf b = some y →
      (x + y = 0 → (fm.add mode a b).1 = zero (sum a.neg b.neg)) ∧
      (x - y = 0 → (fm.sub mode a b).1 = zero (sum a.neg (!b.neg))) ∧
      (x * y = 0 → (fm.mul mode a b).1 = zero (a.neg != b.neg)) ∧
      (x = 0 → y ≠ 0 → (fm.div mode a b).1 = zero (a.neg != b.neg)) ∧
      ∀ z, realOf c = some z → x * y + z = 0 → (fm.fma mode a b c).1 = zero (sum (a.neg != b.neg) c.neg)

/-- The spacing of FP32 at a magnitude (R142). -/
noncomputable def Sys2Proof.Claims.ulp (z : ℝ) : ℝ := (2 : ℝ) ^ (max (Int.log 2 |z|) (-126) - 23)

/-- R142: the special and the exact cases of FRCP, FRSQ, FEXP2, FLOG2, FSIN and FCOS with their flags, the bounds of FRCP
and FRSQ, and that no other finite argument raises a flag. (The values outside these cases are free values within the
bounds, log entry 5; the bounds of FEXP2, FLOG2, FSIN and FCOS are not stated.) -/
def Sys2Proof.Claims.ApproximateFunctions : Prop :=
  ∀ v : Nat,
    let a := fp32.decode v
    let sine := trig .sin (fun n => fp32.signed n 0) v
    let cosine := trig .cos (fun _ => 0x3F800000) v
    (a.isNan = true → ∀ o ∈ [rcp v, rsq v, exp2 v, log2 v, sine, cosine], o = (0x7FC00000, if a.isSig then xNV else 0)) ∧
    (a.isInf = true → rcp v = (fp32.signed a.neg 0, 0) ∧ rsq v = (if a.neg then (0x7FC00000, xNV) else (0, 0)) ∧
      exp2 v = (if a.neg then (0, 0) else (0x7F800000, 0)) ∧
      log2 v = (if a.neg then (0x7FC00000, xNV) else (0x7F800000, 0)) ∧
      sine = (0x7FC00000, xNV) ∧ cosine = (0x7FC00000, xNV)) ∧
    (a.isZero = true → rcp v = (fp32.signed a.neg fp32.infMag, xDZ) ∧ rsq v = (fp32.signed a.neg fp32.infMag, xDZ) ∧
      exp2 v = (0x3F800000, 0) ∧ log2 v = (0xFF800000, xDZ) ∧ sine = (fp32.signed a.neg 0, 0) ∧
      cosine = (0x3F800000, 0)) ∧
    ∀ x, realOf a = some x →
      (x ≠ 0 → |x| ≤ (2 : ℝ) ^ (-128 : ℤ) → rcp v = (fp32.signed a.neg fp32.infMag, xOF)) ∧
      ((2 : ℝ) ^ (-128 : ℤ) < |x| →
        (∃ y, Stands fp32 (rcp v).1 y ∧ |y - 1 / x| ≤ ulp (1 / x)) ∧ (rcp v).2 = 0) ∧
      (∀ k : ℤ, -127 ≤ k → k ≤ 127 → |x| = (2 : ℝ) ^ k → Stands fp32 (rcp v).1 (1 / x)) ∧
      (x < 0 → rsq v = (0x7FC00000, xNV) ∧ log2 v = (0x7FC00000, xNV)) ∧
      (0 < x → (∃ y, Stands fp32 (rsq v).1 y ∧ |y - 1 / Real.sqrt x| ≤ ulp (1 / Real.sqrt x)) ∧ (rsq v).2 = 0 ∧
        (log2 v).2 = 0) ∧
      (∀ k : ℤ, x = (2 : ℝ) ^ (2 * k) → Stands fp32 (rsq v).1 ((2 : ℝ) ^ (-k))) ∧
      (128 ≤ x → exp2 v = (0x7F800000, xOF)) ∧
      (x < 128 → (exp2 v).2 = 0) ∧
      (∀ k : ℤ, -149 ≤ k → k ≤ 127 → x = k → Stands fp32 (exp2 v).1 ((2 : ℝ) ^ k)) ∧
      (∀ k : ℤ, x = (2 : ℝ) ^ k → Stands fp32 (log2 v).1 k ∧ (k = 0 → (log2 v).1 = 0)) ∧
      sine.2 = 0 ∧ cosine.2 = 0

/-- R113, R133: sums, products, fused sums, and conversions of finite operands are their exact result rounded once; a
NaN operand, an infinity without a useful result, and an infinity otherwise give what their lines say. R133:
quotients and square roots of finite operands are their exact result rounded once; a finite nonzero value divided by
zero gives an infinity with DZ, 0 / 0 and the root of a negative number give NaN with NV, and the root of -0 is -0.
R114, R138: the special operands of differences, fused sums, roots and conversions, and the sign of an exact zero. R142:
the special and exact cases of the approximate functions with their flags, and the bounds of FRCP and FRSQ; the bounds of
FEXP2, FLOG2, FSIN and FCOS are not stated, and the values between are free (log entry 5). -/
def Obligations.ResultsRoundOnce : Prop :=
  Claims.SumsAndProductsRoundOnce ∧ Claims.QuotientsAndRootsRoundOnce ∧ Claims.SpecialOperands ∧
  Claims.ApproximateFunctions

/-- R139, R141: FCVTI and FCVTIU round a finite value to an integer in the mode and saturate with NV alone; FRND keeps
the sign, and neither raises another flag than R139 and R141 name. -/
def Sys2Proof.Claims.ConversionToIntegers : Prop :=
  (∀ f : Fields, ∀ e ∈ [(Instr.fcvtiD f, fp64, false), (.fcvtiS f, fp32, false), (.fcvtiuD f, fp64, true),
      (.fcvtiuS f, fp32, true)],
    Runs e.1 rFcvti f false true
      (fun _ l => l.thread.fmode.toNat / 2 ^ 12 % 32 &&& (integerOf e.2.1 e.2.2 f l).2 = 0)
      (fun k l => k.putThread
        ({ l with thread := { l.thread with
            fmode := l.thread.fmode ||| BitVec.ofNat 64 (16 * (integerOf e.2.1 e.2.2 f l).2) } }.got rFcvti f false
          (integerOf e.2.1 e.2.2 f l).1))
      (fun _ l => (integerOf e.2.1 e.2.2 f l).1) ∧
    TrapsAlone e.1 rFcvti f false true (fun _ l => mathTrap (fun l => (0, (integerOf e.2.1 e.2.2 f l).2)) l) false) ∧
  ∀ fm ∈ [fp64, fp32], ∀ (mode : RMode) (p : Nat) (lo hi : Int), lo ≤ 0 → 0 < hi →
    let a := fm.decode p
    (a.isNan = true → toInteger mode lo hi a = (0, xNV)) ∧
    (a.isInf = true → toInteger mode lo hi a = (if a.neg then lo else hi, xNV)) ∧
    ∀ x, realOf a = some x → ∃ z : Int, RoundsToInt mode x z ∧
      (toInteger mode lo hi a =
        if z < lo ∨ hi < z then (if x < 0 then lo else hi, xNV) else (z, if (z : ℝ) = x then 0 else xNX)) ∧
      (fm.integral mode a).2 = 0 ∧ Stands fm (fm.integral mode a).1 z ∧
      bitAt (fm.integral mode a).1 (fm.eb + fm.fb) = a.neg

/-- R136, R137: FCLASS sets one bit of the class, and FSGN gives a new sign to the magnitude bits of a, NaN payloads
included; neither raises a flag. -/
def Sys2Proof.Claims.ClassAndSign : Prop :=
  ∀ f : Fields,
    let fm := fmtOf (f.mod.toNat / 16 % 4)
    Yields (.fclass f) rFclass f false (fun l =>
      BitVec.ofNat 64 (match valueIn fm l.a with
        | .inf neg => if neg then 1 else 128
        | .nan sig => if sig then 256 else 512
        | .fin neg m _ =>
          if m = 0 then if neg then 8 else 16
          else if m < 2 ^ fm.fb then if neg then 4 else 32
          else if neg then 2 else 64)) ∧
    Yields (.fsgn f) rFsgn f false (fun l =>
      let top := fm.width - 1
      let sign : Bool := match f.mod.toNat / 64 with
        | 0 => l.b.getLsbD top
        | 1 => !l.b.getLsbD top
        | _ => l.a.getLsbD top != l.b.getLsbD top
      BitVec.ofNat 64 (l.a.toNat % 2 ^ top + sign.toNat * 2 ^ top))


/-- R139, R141: FCVTI and FCVTIU round a finite value to an integer in the mode and saturate with NV alone; FRND
keeps the sign, and neither raises another flag than R139 and R141 name. R136, R137: FCLASS sets one bit of the
class, and FSGN gives a new sign to the magnitude bits of a, NaN payloads included; neither raises a flag. -/
def Obligations.FloatToIntegerClassAndSign : Prop := Claims.ConversionToIntegers ∧ Claims.ClassAndSign

/-! ### Packed instructions (R144 to R151) -/

namespace Sys2Proof.Claims

open Sys2Proof.Machine

/-- Element i of width w of a packed word (R144). -/
def element (w : Nat) (v : Word) (i : Nat) : BitVec w := v.extractLsb' (w * i) w

/-- The width of elements, 4 bits with .n and 8 without (R144). -/
def elementWidth (f : Fields) : Nat := if f.mod.getLsbD 0 then 4 else 8

/-- Whether .sat is given (R79). -/
def saturates (f : Fields) : Bool := f.mod.getLsbD 1

/-- An exact value brought to w bits (R144): the low bits, or with .sat the nearest value within bounds. -/
def fitted (f : Fields) (w : Nat) (lo hi : Int) (x : Int) : BitVec w :=
  BitVec.ofInt w (if saturates f then max lo (min x hi) else x)

/-- An exact value brought to a signed or to an unsigned element of w bits. -/
def fittedS (f : Fields) (w : Nat) (x : Int) : BitVec w := fitted f w (-(2 ^ (w - 1))) (2 ^ (w - 1) - 1) x
def fittedU (f : Fields) (w : Nat) (x : Int) : BitVec w := fitted f w 0 (2 ^ w - 1) x

/-- An instruction that leaves a packed word in rd, element by element. -/
def YieldsElements (i : Instr) (r : OpRule) (f : Fields) (w : Nat) (d : Lane → Nat → BitVec w) : Prop :=
  ∃ v : Lane → Word, Yields i r f false v ∧ ∀ l j, j < 64 / w → element w (v l) j = d l j

/-- The element-wise instructions of R145 with their element values. -/
def elementwiseTable (f : Fields) : List (Instr × OpRule × ((w : Nat) → BitVec w → BitVec w → BitVec w)) :=
  [(.padd f, rPackSat, fun w a b => fittedS f w (a.toInt + b.toInt)),
   (.paddu f, rPackSat, fun w a b => fittedU f w (a.toNat + b.toNat)),
   (.psub f, rPackSat, fun w a b => fittedS f w (a.toInt - b.toInt)),
   (.psubu f, rPackSat, fun w a b => fittedU f w (a.toNat - b.toNat : Int)),
   (.pmul f, rPackSat, fun w a b => fittedS f w (a.toInt * b.toInt)),
   (.pmin f, rPack, fun _ a b => if a.slt b then a else b), (.pminu f, rPack, fun _ a b => if a.ult b then a else b),
   (.pmax f, rPack, fun _ a b => if a.slt b then b else a), (.pmaxu f, rPack, fun _ a b => if a.ult b then b else a),
   (.pavg f, rPack, fun w a b => BitVec.ofNat w ((a.toNat + b.toNat + 1) / 2))]

/-- The selector field of PSHUF for element j (R147). -/
def shuffleField (f : Fields) (l : Lane) (j : Nat) : BitVec 4 :=
  if f.form = .x then
    if j < 8 then f.imm.extractLsb' (4 * j) 4 else f.imm.extractLsb' (4 * (j - 8)) 4 ^^^ 8#4
  else l.b.extractLsb' (4 * j) 4

/-- Elements and accumulator of a floating-point dot product, as values (R116, R150). -/
def dotA (code : Nat) (l : Lane) (i : Nat) : FVal := decodeElem code (elemAt code l.a.toNat i)
def dotB (code : Nat) (l : Lane) (i : Nat) : FVal := decodeElem code (elemAt code l.b.toNat i)

/-- An infinite product, or an infinite accumulator, of one sign (R150). -/
def InfiniteTerm (code k : Nat) (l : Lane) (neg : Bool) : Prop :=
  valueIn fp32 l.c = .inf neg ∨
    ∃ i < k, ((dotA code l i).isInf ∨ (dotB code l i).isInf) ∧ ((dotA code l i).neg != (dotB code l i).neg) = neg

/-- A product of an infinity and a zero (R150). -/
def InfTimesZero (code k : Nat) (l : Lane) : Prop :=
  ∃ i < k, ((dotA code l i).isInf ∧ (dotB code l i).isZero) ∨ ((dotA code l i).isZero ∧ (dotB code l i).isInf)

/-- The result and raised set of PDOTF on k elements of a storage format, case by case (R150). -/
def DotFloat (code k : Nat) (l : Lane) (r : FRes) : Prop :=
  let c := valueIn fp32 l.c
  let nan := c.isNan ∨ ∃ i < k, (dotA code l i).isNan ∨ (dotB code l i).isNan
  (nan → r = (0x7FC00000, if c.isSig then xNV else 0)) ∧
  (¬ nan → (InfTimesZero code k l ∨ InfiniteTerm code k l true ∧ InfiniteTerm code k l false) →
    r = (0x7FC00000, xNV)) ∧
  (¬ nan → ¬ InfTimesZero code k l → ∀ neg, InfiniteTerm code k l neg → ¬ InfiniteTerm code k l (!neg) →
    r = (if neg then 0xFF800000 else 0x7F800000, 0)) ∧
  ∀ (x y : Nat → ℝ) (z : ℝ), (∀ i < k, realOf (dotA code l i) = some (x i) ∧ realOf (dotB code l i) = some (y i)) →
    realOf c = some z →
    ((∑ i ∈ Finset.range k, x i * y i) = 0 → r = (l.c.toNat % 2 ^ 32, 0)) ∧
    ((∑ i ∈ Finset.range k, x i * y i) ≠ 0 → Delivers fp32 .rne (z + ∑ i ∈ Finset.range k, x i * y i) r)

end Sys2Proof.Claims

/-- R144, R145: the element-wise instructions, element by element, exact values wrapped or with .sat saturated;
PABS has no .sat. -/
def Sys2Proof.Claims.PackedElementwise : Prop :=
  ∀ f : Fields,
    (∀ e ∈ elementwiseTable f, YieldsElements e.1 e.2.1 f (elementWidth f) fun l j =>
      e.2.2 (elementWidth f) (element (elementWidth f) l.a j) (element (elementWidth f) l.b j)) ∧
    (saturates f = false → YieldsElements (.pabs f) rPack1 f (elementWidth f) fun l j =>
      let a := element (elementWidth f) l.a j
      if a.slt 0 then -a else a)

/-- R146 to R149: PCMP (codes 0 to 10), PSHUF, PPACK, the four unpacking instructions, PDOT and PDOTU. -/
def Sys2Proof.Claims.PackedRearrangement : Prop :=
  ∀ f : Fields,
    let w := elementWidth f
    let k := 64 / w
    (f.mod.toNat / 4 % 16 ≤ 10 → YieldsElements (.pcmp f) rPcmp f w fun l j =>
      if condOn (f.mod.toNat / 4 % 16) w (element w l.a j) (element w l.b j) then BitVec.allOnes w else 0) ∧
    YieldsElements (.pshuf f) rPshuf f w (fun l j =>
      let x := shuffleField f l j
      if w = 8 ∧ x.getLsbD 3 then 0 else element w l.a (x.toNat % k)) ∧
    YieldsElements (.ppack f) rPackSat f w (fun l j =>
      fittedS f w (if j < k / 2 then (element (2 * w) l.a j).toInt else (element (2 * w) l.b (j - k / 2)).toInt)) ∧
    YieldsElements (.punpkl f) rPack1 f (2 * w) (fun l j => (element w l.a j).signExtend (2 * w)) ∧
    YieldsElements (.punpkh f) rPack1 f (2 * w) (fun l j => (element w l.a (j + k / 2)).signExtend (2 * w)) ∧
    YieldsElements (.punpklu f) rPack1 f (2 * w) (fun l j => (element w l.a j).setWidth (2 * w)) ∧
    YieldsElements (.punpkhu f) rPack1 f (2 * w) (fun l j => (element w l.a (j + k / 2)).setWidth (2 * w)) ∧
    Yields (.pdot f) rPdot f false (fun l =>
      (fitted f 32 (-(2 ^ 31)) (2 ^ 31 - 1) ((l.c.setWidth 32).toInt +
        ((List.range k).map fun i => (element w l.a i).toInt * (element w l.b i).toInt).sum)).signExtend 64) ∧
    Yields (.pdotu f) rPdot f false (fun l =>
      (fitted f 32 (-(2 ^ 31)) (2 ^ 31 - 1) ((l.c.setWidth 32).toInt +
        ((List.range k).map fun i => ((element w l.a i).toNat * (element w l.b i).toNat : Int)).sum)).signExtend 64)

/-- R150, R151: PDOTF rounds the exact sum of its products and the accumulator once, to nearest even; PSCL rounds
its exact product once in the instruction's mode; with their NaNs, infinities and zeros. -/
def Sys2Proof.Claims.PackedFloat : Prop :=
  ∀ f : Fields,
    (∀ e ∈ [(Instr.pdotfE4 f, 3, 8), (Instr.pdotfE5 f, 4, 8), (Instr.pdotfF4 f, 7, 16)], ∃ op : Lane → FRes,
      YieldsFlagged e.1 rSel f op ∧ ∀ l, DotFloat e.2.1 e.2.2 l (op l)) ∧
    ∃ op : Lane → FRes, YieldsFlagged (.pscl f) rPscl f op ∧ ∀ l : Lane,
      let i := (l.a.setWidth 32).toInt
      let v := valueIn fp32 l.b
      let neg := (decide (i < 0)) != v.neg
      (v.isNan → op l = (0x7FC00000, if v.isSig then xNV else 0)) ∧
      (v.isInf → i = 0 → op l = (0x7FC00000, xNV)) ∧
      (v.isInf → i ≠ 0 → op l = (if neg then 0xFF800000 else 0x7F800000, 0)) ∧
      ∀ x, realOf v = some x →
        (i * x = 0 → op l = (if neg then 0x80000000 else 0, 0)) ∧
        (i * x ≠ 0 → Delivers fp32 (modeFor f l.thread) (i * x) (op l))


/-- R144, R145: the element-wise instructions, element by element, exact values wrapped or with .sat saturated; PABS
has no .sat. R146 to R149: PCMP (codes 0 to 10), PSHUF, PPACK, the four unpacking instructions, PDOT and PDOTU. R150,
R151: PDOTF rounds the exact sum of its products and the accumulator once, to nearest even; PSCL rounds its exact
product once in the instruction's mode; with their NaNs, infinities and zeros. -/
def Obligations.PackedInstructions : Prop := Claims.PackedElementwise ∧ Claims.PackedRearrangement ∧ Claims.PackedFloat

/-! ### Control, traps and moves (R26 to R29, R156 to R173, R382 to R387) -/

namespace Sys2Proof.Claims

open Sys2Proof.Machine

/-- The thread at a target (R156); rgn follows an instruction that popped a word (R165). -/
def landed (t : Thread) (pc : Word) (irrev : Bool) : Thread := { t with pc, rgn := if irrev then pc else t.rgn }

/-- A lane at a target, with a backward branch noted for the issue choice (R26, R156). -/
def branchTo (r : OpRule) (f : Fields) (k : State) (l : Lane) (t : Thread) (pc : Word) : State :=
  let k := k.putThread (landed t pc (touchesPort r f))
  if pc.toNat < l.thread.pc.toNat then { k with note := { k.note with back := true } } else k

/-- A control instruction: each lane for which `taken` holds goes to its target, with the link in rd where there is
one; the others go on; a target with bit 0 set traps ALIGN instead, and writes no link. -/
def Branching (i : Instr) (r : OpRule) (f : Fields) (taken : Lane → Bool) (target : Lane → Word) (links : Bool) : Prop :=
  Runs i r f false (decide (r = rJmp ∨ r = rJal)) (fun _ l => taken l = true → (target l).getLsbD 0 = false)
    (fun k l =>
      if taken l then
        branchTo r f k l (if links then l.thread.setReg f.rd ⟨nextPc f l.thread.pc, true, false⟩ else l.thread) (target l)
      else k.putThread (l.thread.past f (touchesPort r f))) (fun _ _ => 0) ∧
  TrapsAlone i r f false (decide (r = rJmp ∨ r = rJal)) (fun _ l => if taken l ∧ (target l).getLsbD 0 then some ⟨.align, target l, true⟩ else none) false

/-- The record of a thread that a trap sends to a handler on a latency core (R383, R385). -/
def handled (s : State) (t : Thread) (tr : Trap) (trappc : Word) (firmware : Bool) : Thread :=
  { t with
    trapcause := BitVec.ofNat 64 (tr.cause.code + 2 ^ 8 * t.plvl.code + if tr.adr then 2 ^ 10 else 0)
    trapval := tr.val
    trappc
    lost := if tr.cause = .mchk ∧ tr.adr = true ∧ t.lost = some tr.val then none else t.lost
    plvl := if firmware then .firmware else .supervisor
    pc := if firmware then s.fw.fvec else s.fw.svec }

/-- A group on a latency core, which has one lane, or in a weft. -/
def OneOrWeft (ls : List (Nat × Thread)) : Prop := ls.length = 1 ∨ ∀ p ∈ ls, p.2.onLatency = false

/-- An instruction that raises a trap on purpose (R169, R170): every lane of a group that nothing stops takes it, in
turn, and completes by it. -/
def TrapsEach (i : Instr) (r : OpRule) (f : Fields) (irrev : Bool) (tr : Trap) : Prop :=
  ∀ s ls, Ready s r f irrev ls → OneOrWeft ls → (∀ p ∈ ls, trapWaits s p.2.tid tr = false) →
    exec i s = .next (ls.foldl (fun k p => takeTrap k p.2.tid f tr irrev true) s).bump

/-- The causes of R382 with their codes. -/
def causeCodes : List (Cause × Nat) :=
  [(.ill, 1), (.priv, 2), (.empty, 3), (.qempty, 4), (.align, 5), (.page, 6), (.prot, 7), (.ownx, 8), (.race, 9),
   (.poison, 10), (.needw, 11), (.crook, 12), (.math, 13), (.sysc, 14), (.brk, 15), (.trapi, 16), (.signal, 17),
   (.mchk, 18)]

/-- A lane of a weft that a trap parks at its region entry (R29, R387): trapcause holds the cause, its level and
whether trapval is a virtual address; trapval and trappc are as given; pc and rgn take the region entry. -/
def faultParked (t : Thread) (tr : Trap) (trappc entry : Word) : Thread :=
  { t with
    trapcause := BitVec.ofNat 64 (tr.cause.code + 2 ^ 8 * t.plvl.code + if tr.adr then 2 ^ 10 else 0)
    trapval := tr.val
    trappc
    lost := if tr.cause = .mchk ∧ tr.adr = true ∧ t.lost = some tr.val then none else t.lost
    sub := .faultParked
    pc := entry
    rgn := entry }

/-- The fault report of a lane (R388): thread number, slot epoch, cause, lane, slot and core, then trapval and
trappc. -/
def reportOf (s : State) (core slot lane : Nat) (t : Thread) (tr : Trap) (trappc : Word) : Report :=
  { word0 := BitVec.ofNat 64 (t.tid % 2 ^ 32 + 2 ^ 32 * ((tabGet (s.wcore core).epochs slot).getD 0)
      + 2 ^ 40 * tr.cause.code + 2 ^ 45 * lane + 2 ^ 50 * slot + 2 ^ 56 * core)
    value := tr.val
    pc := trappc
    told := false }

end Sys2Proof.Claims

/-- R156 to R158: BR, BRZ, BRNZ, JMP, JAL and JALR. Displacements are bytes from the instruction's first byte; JALR
reads its base before it writes the link. -/
def Obligations.BranchesAndJumps : Prop :=
  ∀ f : Fields,
    let rel (l : Lane) : Word := l.thread.pc + f.imm.signExtend 64
    Branching (.br f) rBr f (fun l => condAt (f.mod.toNat % 16) f.w l.a l.b) rel false ∧
    Branching (.brz f) rBrz f (fun l => l.a == 0) rel false ∧
    Branching (.brnz f) rBrz f (fun l => l.a != 0) rel false ∧
    Branching (.jmp f) rJmp f (fun _ => true) rel false ∧
    Branching (.jal f) rJal f (fun _ => true) rel true ∧
    Branching (.jalr f) rJalr f (fun _ => true) (fun l => l.a + f.imm.signExtend 64) true

/-- R159 to R163: YLD, NOP and RGN complete at once; WAITF and WAITF.e complete once their register is full, their
queue holds a word or has room, pop and push nothing, and wait until then. -/
def Sys2Proof.Claims.YieldingAndWaiting : Prop :=
  ∀ f : Fields,
    let ready (s : State) (l : Lane) : Prop :=
      (f.s1.val < 56 → (l.thread.reg f.s1).full = true) ∧
      (56 ≤ f.s1.val → ∃ q, s.portQueue l.thread f.s1 = .ok q ∧ s.queueWords q ≠ [])
    let room (s : State) (l : Lane) : Prop :=
      ∃ q, s.portQueue l.thread f.s1 = .ok q ∧ (s.queueWords q).length < s.queueCap q
    Runs (.nop f) rNone f false true (fun _ _ => True) (fun k l => k.putThread (l.thread.past f false)) (fun _ _ => 0) ∧
    Runs (.yld f) rNone f false true (fun _ _ => True)
      (fun k l => { k with note := { k.note with yld := true } }.putThread (l.thread.past f false)) (fun _ _ => 0) ∧
    Runs (.rgn f) rNone f false true (fun _ _ => True)
      (fun k l => k.putThread { l.thread.past f false with rgn := nextPc f l.thread.pc }) (fun _ _ => 0) ∧
    Runs (.waitf f) rWaitf f false true ready (fun k l => k.putThread (l.thread.past f (touchesPort rWaitf f)))
      (fun _ _ => 0) ∧
    Runs (.waitfE f) rQunb f false true room (fun k l => k.putThread (l.thread.past f (touchesPort rQunb f)))
      (fun _ _ => 0) ∧
    WaitsAlone (.waitf f) rWaitf f false true (fun s l => ¬ ready s l ∧
      (56 ≤ f.s1.val → ∃ q, s.portQueue l.thread f.s1 = .ok q)) ∧
    WaitsAlone (.waitfE f) rQunb f false true (fun s l => ¬ room s l ∧ ∃ q, s.portQueue l.thread f.s1 = .ok q) ∧
    TrapsAlone (.waitf f) rWaitf f false true (fun s l => if f.s1.val < 56 then none else
      match s.portQueue l.thread f.s1 with | .error tr => some tr | .ok _ => none) false ∧
    TrapsAlone (.waitfE f) rQunb f false true (fun s l =>
      match s.portQueue l.thread f.s1 with | .error tr => some tr | .ok _ => none) false

/-- R28, R159: on a latency core REJOIN only goes on. A lane of a weft that issues it waits at its address, and while
another member does not wait at a REJOIN no lane leaves one; when all do, those at the lowest address go on together,
and no others. -/
def Sys2Proof.Claims.RejoinWaitsForAll : Prop :=
  ∀ f : Fields,
    (∀ s n k t, s.cur = .latency n → Ready s rNone f false [(k, t)] → t.onLatency = true →
      exec (.rejoin f) s = .next (s.putThread (t.past f false)).bump) ∧
    ∀ (s : State) (ls : List (Nat × Thread)) (c slot : Nat) (a : Word) (w : Weft) (others : List Thread),
      s.cur = .weft c slot a → Ready s rNone f false ls → (∀ p ∈ ls, p.2.onLatency = false) →
      s.weft? c slot = some w → (s.memberThreads w).Perm (others ++ ls.map (·.2)) →
      ((s.memberThreads w).map Thread.tid).Nodup → (∀ t ∈ others, s.thread? t.tid = some t) →
      let waiting (t : Thread) : Thread := { t with sub := .rejoin (formLen f.form) }
      let parked := (({ s with note := { s.note with rejoin := true } } : State).putThreads
        (ls.map fun p => waiting p.2)).bump
      ((∃ t ∈ others, t.atRejoin = false) → exec (.rejoin f) s = .next parked) ∧
      ((∀ t ∈ others, t.atRejoin = true) → ∃ t', exec (.rejoin f) s = .next t' ∧
        (∀ u, u ∈ others ∨ (∃ p ∈ ls, u = waiting p.2) →
          let lowest := ∀ v, v ∈ others ∨ (∃ p ∈ ls, v = waiting p.2) → u.pc.toNat ≤ v.pc.toNat
          (lowest → t'.thread? u.tid = some u.leaveRejoin) ∧ (¬ lowest → t'.thread? u.tid = some u)) ∧
        t' = { parked with threads := t'.threads })

/-- R159 to R163: YLD, NOP and RGN complete at once; WAITF and WAITF.e complete once their register is full, their
queue holds a word or has room, pop and push nothing, and wait until then. R28, R159: on a latency core REJOIN only
goes on. A lane of a weft that issues it waits at its address, and while another member does not wait at a REJOIN no
lane leaves one; when all do, those at the lowest address go on together, and no others. -/
def Obligations.YieldingWaitingAndRejoining : Prop := Claims.YieldingAndWaiting ∧ Claims.RejoinWaitsForAll

/-- R169 to R171: SYSC and BRK trap every lane that issues, completing by it, and TRAP every lane whose condition holds;
its other lanes only go on. ERET returns to trappc at the level that it names, and traps ALIGN where trappc is odd. -/
def Sys2Proof.Claims.TrapsOnPurpose : Prop :=
  ∀ f : Fields,
    TrapsEach (.sysc f) rNone f true ⟨.sysc, 0, false⟩ ∧
    TrapsEach (.brk f) rBrk f true ⟨.brk, f.imm.signExtend 64, false⟩ ∧
    (∀ s ls, Ready s rTrap f false ls → OneOrWeft ls → (∀ p ∈ ls, s.hasUnchecked p.2.tid = false) →
      (∀ p ∈ ls, trapWaits s p.2.tid ⟨.trapi, f.imm.signExtend 64, false⟩ = false) →
      exec (.trap f) s = .next (ls.foldl (fun k p =>
        let l := readLane rTrap f p.1 p.2 []
        if condAt (f.mod.toNat % 16) f.w l.a l.b then
          takeTrap k p.2.tid f ⟨.trapi, f.imm.signExtend 64, false⟩ false true
        else k.putThread (p.2.past f false)) s).bump) ∧
    TrapsAlone (.trap f) rTrap f false false (fun s l =>
      if condAt (f.mod.toNat % 16) f.w l.a l.b ∧ s.hasUnchecked l.tid = false then
        some ⟨.trapi, f.imm.signExtend 64, false⟩ else none) true ∧
    Runs (.trap f) rTrap f false false (fun _ l => condAt (f.mod.toNat % 16) f.w l.a l.b = false)
      (fun k l => k.putThread (l.thread.past f (touchesPort rTrap f))) (fun _ _ => 0) ∧
    Runs (.eretS f) (rNone.at 1) f false true
      (fun _ l => l.thread.trappc.getLsbD 0 = false ∧
        (l.thread.onLatency = true → l.thread.trappc ≠ l.thread.retPoint))
      (fun k l => k.putThread { l.thread with plvl := .user, pc := l.thread.trappc }) (fun _ _ => 0) ∧
    Runs (.eretF f) (rSrc1.at 2) f false false (fun _ l => l.thread.trappc.getLsbD 0 = false)
      (fun k l =>
        let k := match l.thread.loc with
          | .latency c => k.putL c { k.lcore c with busy := false }
          | _ => k
        k.putThread { l.thread with
          plvl := if l.a.getLsbD 0 then .supervisor else .user
          pc := l.thread.trappc }) (fun _ _ => 0) ∧
    TrapsAlone (.eretS f) (rNone.at 1) f false true
      (fun _ l => if l.thread.trappc.getLsbD 0 then some ⟨.align, l.thread.trappc, true⟩ else none) false ∧
    TrapsAlone (.eretF f) (rSrc1.at 2) f false false
      (fun _ l => if l.thread.trappc.getLsbD 0 then some ⟨.align, l.thread.trappc, true⟩ else none) false

/-- R171, R392, R393, R397: ERET.s to the return point of an extracted thread takes it back to its weft core once its
accesses are performed and its loads delivered; it is then in transit to its bolt's core, or to a pack weft. A store
that an error lost raises MCHK there instead. -/
def Sys2Proof.Claims.ReturnOfExtractedThread : Prop :=
  ∀ (f : Fields) (s : State) (n c : Nat) (t : Thread), t.loc = .latency c → t.trappc.getLsbD 0 = false →
    Ready s (rNone.at 1) f false [(n, t)] → t.trappc = t.retPoint →
    (∀ v, t.xr = true → t.lost = some v → trapWaits s t.tid ⟨.mchk, v, true⟩ = false →
      exec (.eretS f) s = .next (takeTrap s t.tid f ⟨.mchk, v, true⟩ false false).bump) ∧
    (t.xr = true → t.lost = none → s.performed t.tid = true → s.loadsDone t.tid = true → ∃ t' u, exec (.eretS f) s = .next t' ∧
      t'.thread? t.tid = some u ∧ u.loc = .transit (match t.boltCore with | some b => .weft b | none => .anyWeft) ∧
      u.pc = t.trappc ∧ u.plvl = .user ∧ u.regs = t.regs ∧ u.rgn = t.rgn ∧ (t'.lcore c).cur = none ∧ t'.fw = s.fw) ∧
    (t.xr = true → t.lost = none → (s.performed t.tid = false ∨ s.loadsDone t.tid = false) → exec (.eretS f) s = .next s.block) ∧
    (t.xr = false → exec (.eretS f) s = .next (s.putThread
      { t with plvl := .user, pc := t.trappc, sub := match t.bwait with | some k => .barrier k | none => .active }).bump)

/-- R169 to R171: SYSC and BRK trap every lane that issues, completing by it, and TRAP every lane whose condition holds;
its other lanes only go on. ERET returns to trappc at the level that it names, and traps ALIGN where trappc is odd.
R171, R392, R393, R397:
ERET.s to the return point of an extracted thread takes it back to its weft core once its accesses are performed and
its loads delivered; it is then in transit to its bolt's core, or to a pack weft. A store that an error lost raises
MCHK there instead. -/
def Obligations.TrapsOnPurposeAndReturns : Prop := Claims.TrapsOnPurpose ∧ Claims.ReturnOfExtractedThread

/-- R172, R173, R393, R397: where MIG has nowhere to go it completes in place and clears the mark of a called thread;
otherwise a store that an error lost raises MCHK at it, and the thread moves once every earlier access of it is
performed, and from a latency core once its loads are delivered, and waits until then. It is past the instruction and
has rgn there: from a latency core in transit to its destination, on a weft core extraction-parked. -/
def Obligations.Migration : Prop :=
  (∀ (f : Fields) (i : Instr) (r : OpRule) (dest : State → Lane → Option Dest),
    ((i = .migL f ∧ r = rNone ∧ dest = fun _ l => if l.thread.onLatency then none else some (.latency none)) ∨
     (i = .migW f ∧ r = rNone ∧ dest = fun _ l => if l.thread.onLatency then some (match l.thread.boltCore with
       | some c => .weft c | none => .anyWeft) else none) ∨
     (i = .migC f ∧ r = rSrc1 ∧ dest = fun s l =>
       let c := l.a.toNat % 2 ^ 16
       if c = s.cur.core then none else if 256 ≤ c then some (.latency (some c)) else some (.weft c))) →
    let allowed (s : State) (l : Lane) : Prop :=
      i = .migC f → let c := l.a.toNat % 2 ^ 16
        c = s.cur.core ∨ (256 ≤ c ∧ c < 304) ∨ (c < 144 ∧ (l.thread.boltCore = none ∨ l.thread.boltCore = some c))
    Runs i r f true false
      (fun s l => allowed s l ∧ ∀ d, dest s l = some d → l.thread.lost = none ∧ s.performed l.tid = true ∧
        (l.thread.onLatency = true → s.loadsDone l.tid = true))
      (fun k l => match dest k l with
        | none => k.putThread { l.thread.past f true with xr := false }
        | some d => moveThread k l.tid f d) (fun _ _ => 0) ∧
    (∀ s n t v, PortsReady s r f true false [(n, t)] → allowed s (s.laneOf r f [(n, t)] (n, t)) →
      dest s (s.laneOf r f [(n, t)] (n, t)) ≠ none → t.lost = some v → trapWaits s t.tid ⟨.mchk, v, true⟩ = false →
      exec i s = .next (s.unqueued r f [(n, t)] (takeTrap s t.tid f ⟨.mchk, v, true⟩ true false)).bump) ∧
    WaitsAlone i r f true false (fun s l => allowed s l ∧ l.thread.lost = none ∧ dest s l ≠ none ∧
      (s.performed l.tid = false ∨ l.thread.onLatency = true ∧ s.loadsDone l.tid = false)) ∧
    (i = .migC f → TrapsAlone i r f true false (fun s l =>
      let c := l.a.toNat % 2 ^ 16
      if c = s.cur.core ∨ (256 ≤ c ∧ c < 304) ∨ (c < 144 ∧ (l.thread.boltCore = none ∨ l.thread.boltCore = some c))
      then none else some ⟨.prot, l.a, false⟩) false)) ∧
  ∀ (s : State) (t : Thread) (f : Fields) (d : Dest), s.thread? t.tid = some t →
    (∀ c, t.loc = .latency c → ∃ u, (moveThread s t.tid f d).thread? t.tid = some u ∧ u.loc = .transit d ∧
      u.pc = nextPc f t.pc ∧ u.rgn = nextPc f t.pc ∧ u.regs = t.regs ∧ u.plvl = t.plvl ∧ u.fmode = t.fmode ∧
      ((moveThread s t.tid f d).lcore c).cur = none ∧ (moveThread s t.tid f d).fw = s.fw) ∧
    (∀ c slot lane, t.loc = .member c slot lane → moveThread s t.tid f d =
      s.putThread { t.past f true with sub := .extractParked, leave := some d, asSub := .active, xr := false })

/-- R382, R383, R385: a trap on a latency core sets trapcause, trapval and trappc and enters the supervisor's handler
from user level, else the firmware's, which marks it busy; a trap of the firmware while busy halts the core. -/
def Sys2Proof.Claims.TrapEntryOnLatencyCore : Prop :=
  (∀ p ∈ causeCodes, p.1.code = p.2) ∧
  ∀ (s : State) (t : Thread) (c : Nat) (f : Fields) (tr : Trap) (irrev next : Bool),
    s.thread? t.tid = some t → t.loc = .latency c → ¬ (tr.cause = .needw ∧ t.nw = true) →
    let trappc := if next then nextPc f t.pc else t.pc
    let t1 := if next ∨ tr.cause = .sysc then { t with rgn := trappc } else t
    (tr.cause ≠ .mchk → t.plvl = .user →
      takeTrap s t.tid f tr irrev next = s.putThread (handled s t1 tr trappc false)) ∧
    ((tr.cause = .mchk ∨ t.plvl ≠ .user) → ¬ (t.plvl = .firmware ∧ (s.lcore c).busy = true) →
      takeTrap s t.tid f tr irrev next =
        (s.putThread (handled s t1 tr trappc true)).putL c { s.lcore c with busy := true }) ∧
    (t.plvl = .firmware → (s.lcore c).busy = true → takeTrap s t.tid f tr irrev next =
      ((s.putThread { handled s t1 tr trappc true with plvl := t.plvl, pc := t.pc }).putL c
        { s.lcore c with halted := true }).logMck)

/-- R29, R168, R387, R388: a trap of a weft's lane parks that lane alone and queues its report; it stands at its region
entry, at the instruction itself where that is irrevocable or the cause is MCHK, or past it where trapping completes
it. A lane that calls the system goes to a latency core instead, past the call (R169). -/
def Sys2Proof.Claims.TrapEntryOnWeftCore : Prop :=
  ∀ (s : State) (t : Thread) (c slot lane : Nat) (f : Fields) (tr : Trap) (irrev next : Bool),
    s.thread? t.tid = some t → t.loc = .member c slot lane →
    let trappc := if next then nextPc f t.pc else t.pc
    let entry := if next then trappc else if irrev ∨ tr.cause = .mchk then t.pc else t.rgn
    (tr.cause ≠ .sysc → takeTrap s t.tid f tr irrev next = (s.putThread (faultParked t tr trappc entry)).putW c
      { s.wcore c with reports := (s.wcore c).reports ++ [reportOf s c slot lane t tr trappc] }) ∧
    (tr.cause = .sysc → takeTrap s t.tid f tr irrev next =
      s.putThread { t with
        pc := trappc
        rgn := trappc
        sub := .extractParked
        leave := some (.latency none)
        asSub := .active
        xr := true
        entry := some (14, tr.val) })

/-- R382, R383, R385: a trap on a latency core sets trapcause, trapval and trappc and enters the supervisor's handler
from user level, else the firmware's, which marks it busy; a trap of the firmware while busy halts the core. R29,
R168, R387, R388: a trap of a weft's lane parks that lane alone and queues its report; it stands at its region entry,
at the instruction itself where that is irrevocable or the cause is MCHK, or past it where trapping completes it. A
lane that calls the system goes to a latency core instead, past the call (R169). -/
def Obligations.TrapEntry : Prop := Claims.TrapEntryOnLatencyCore ∧ Claims.TrapEntryOnWeftCore

/-- R31, R57, R92, R384, R396: before an instruction's own effect a lane alone is checked in this order: its level, its
block count, its sources from s1 to s3, an empty one trapping where e is 1; then, once its empty registers with e at 0
and earlier checks no longer block it, poison. Each check that fails is the only effect. Said of four instructions
without queue ports: ADD, LD.d, ERET.f and TSTF. -/
def Sys2Proof.Claims.ChecksBeforeIssue : Prop :=
  ∀ (f : Fields) (s : State) (n : Nat) (t : Thread) (i : Instr) (r : OpRule), LaneGroup s [(n, t)] →
    touchesPort r f = false →
    (i = .add f ∧ r = rAlu ∨ i = .ldD f ∧ r = rLd ∨ i = .eretF f ∧ r = rSrc1.at 2 ∨ i = .tstf f ∧ r = rTstf) →
    let traps (tr : Trap) : Prop := trapWaits s t.tid tr = false →
      exec i s = .next (takeTrap s t.tid f tr false false).bump
    (t.plvl.code < r.level → traps ⟨.priv, 0, false⟩) ∧
    (r.level ≤ t.plvl.code →
      (∀ m ∈ allNamed r f, 8 * s.blockCount t ≤ m → (∀ k ∈ allNamed r f, 8 * s.blockCount t ≤ k → m ≤ k) →
        traps ⟨.prot, BitVec.ofNat 64 m, false⟩) ∧
      ((∀ m ∈ allNamed r f, m < 8 * s.blockCount t) →
        (∀ us u vs, usesOf r f = us ++ u :: vs → u.e = true → (∃ m ∈ u.regs, (t.reg m).full = false) →
          (∀ v ∈ us, v.e = true → ∀ m ∈ v.regs, (t.reg m).full = true) →
          traps ⟨.empty, BitVec.ofNat 64 u.field, false⟩) ∧
        ((∀ u ∈ usesOf r f, u.e = true → ∀ m ∈ u.regs, (t.reg m).full = true) →
          ((∃ u ∈ usesOf r f, ∃ m ∈ u.regs, (t.reg m).full = false) ∨
            (∃ m ∈ writeRegs r f, (t.reg m).full = false) → exec i s = .next s.block) ∧
          ((∀ m ∈ readRegs r f ++ writeRegs r f, (t.reg m).full = true) →
            ∀ ms m ns, readRegs r f = ms ++ m :: ns → (t.reg m).poison = true → (∀ k ∈ ms, (t.reg k).poison = false) →
              traps ⟨.poison, BitVec.ofNat 64 m, false⟩))))

/-- R57, R92: a lane alone at an instruction with queue ports, its sources from s1 to s3. A port that reaches no queue traps
PROT, or NEEDW for a channel on a latency core, with the port's number; a claim beyond the words of a queue whose
claims all have e at 1 traps QEMPTY with its field; the first of these is taken. Then a claim with e at 0 beyond the
words, a claim behind an earlier acquire that is still pending (R228, R232), and a push without room, wait; last, a port in rd that reaches no queue traps as a source does, and an inbox
there PROT. -/
def Sys2Proof.Claims.PortsThatStopALane : Prop :=
  (∀ (s : State) (t : Thread) (reg : Nat),
    (t.port (reg - 56) = .unbound → s.portQueue t reg = .error ⟨.prot, BitVec.ofNat 64 reg, false⟩) ∧
    (∀ q, t.port (reg - 56) = .base q → s.portQueue t reg =
      if (s.queue q).granted t.pid then .ok (.base q) else .error ⟨.prot, BitVec.ofNat 64 reg, false⟩) ∧
    (t.port (reg - 56) = .inbox → s.portQueue t reg = .ok (.inbox t.tid)) ∧
    (∀ n, t.port (reg - 56) = .chan n → t.onLatency = true →
      s.portQueue t reg = .error ⟨.needw, BitVec.ofNat 64 reg, false⟩) ∧
    ∀ n b, t.port (reg - 56) = .chan n → t.onLatency = false → t.bolt = some b →
      s.portQueue t reg = .ok (.chan b n)) ∧
  ∀ (f : Fields) (s : State) (n : Nat) (t : Thread), LaneGroup s [(n, t)] → LaneReady s rAlu f true t →
    let uses := (usesOf rAlu f).filter Use.isPort
    let reaches (u : Use) (q : QId) : Prop := s.portQueue t u.reg = .ok q
    let claims := uses.takeWhile fun u => (s.portQueue t u.reg).isOk
    let served (us : List Use) (u : Use) : Prop := ∀ q, reaches u q →
      (∃ v ∈ claims, reaches v q ∧ v.e = false) ∨ (us.filter fun v => reaches v q).length < (s.queueWords q).length
    let stop (tr : Trap) : Prop := trapWaits s t.tid tr = false →
      exec (.add f) s = .next (takeTrap s t.tid f tr true false).bump
    let late (tr : Trap) : Prop := trapWaits s t.tid tr = false →
      exec (.add f) s = .next (s.unqueued rAlu f [(n, t)] (takeTrap s t.tid f tr true false)).bump
    let words : Prop := ∀ q, (claims.filter fun u => reaches u q).length ≤ (s.queueWords q).length
    touchesPort rAlu f = true →
    (∀ us u vs, claims = us ++ u :: vs → ¬ served us u → (∀ xs v ys, us = xs ++ v :: ys → served xs v) →
      stop ⟨.qempty, BitVec.ofNat 64 u.field, false⟩) ∧
    ((∀ us u vs, claims = us ++ u :: vs → served us u) →
      (∀ u vs tr, uses = claims ++ u :: vs → s.portQueue t u.reg = .error tr → stop tr) ∧
      (claims = uses →
        ((¬ words ∨ (uses ≠ [] ∧ s.mustWait t.tid = true) ∨ ∃ q, pushesRd rAlu f = true ∧ s.portQueue t f.rd = .ok q ∧ (∀ m, q ≠ .inbox m) ∧
            s.queueCap q ≤ (s.queueWords q).length) →
          ∃ t', exec (.add f) s = .next t' ∧ t' = { s.block with queues := t'.queues } ∧
            ∀ q, t'.queueWords q = s.queueWords q) ∧
        (words → pushesRd rAlu f = true → (uses = [] ∨ s.mustWait t.tid = false) → (∀ u ∈ baseUses (s.groupClaims rAlu f [(n, t)]) [],
            s.behind u.1 (s.cur.waiter t.pc u.2) = false) →
          (∀ tr, s.portQueue t f.rd = .error tr → late tr) ∧
          ∀ m, s.portQueue t f.rd = .ok (.inbox m) → late ⟨.prot, BitVec.ofNat 64 f.rd, false⟩)))

/-- R31, R57, R92, R384, R396: before an instruction's own effect a lane alone is checked in this order: its level,
its block count, its sources from s1 to s3, an empty one trapping where e is 1; then, once its empty registers with e
at 0 and earlier checks no longer block it, poison. Each check that fails is the only effect. Said of four
instructions without queue ports: ADD, LD.d, ERET.f and TSTF. R57, R92: a lane alone at
an instruction with queue ports, its sources from s1 to s3. A port that reaches no queue traps PROT, or NEEDW for a
channel on a latency core, with the port's number; a claim beyond the words of a queue whose claims all have e at 1
traps QEMPTY with its field; the first of these is taken. Then a claim with e at 0 beyond the words, a claim behind an
earlier acquire that is still pending (R228, R232), and a push without room, wait; last, a port in rd that reaches no queue traps as a source does, and an inbox there PROT. -/
def Obligations.ChecksBeforeIssueAndAtPorts : Prop := Claims.ChecksBeforeIssue ∧ Claims.PortsThatStopALane

/-! ### The scratchpad (R88, R179 to R195) -/

namespace Sys2Proof.Claims

open Sys2Proof.Machine

/-- The exact address of an access: the base as a signed number, and the displacement (R65). -/
def addressOf (f : Fields) (l : Lane) : Int := l.a.toInt + f.imm.toInt

/-- Where a scratchpad access of z bytes at v stands (R182, R183): the target bolt and the offset in its allotment;
none where a check fails. -/
def spadAt (s : State) (l : Lane) (v : Int) (z : Nat) : Option (Bolt × Nat) :=
  if l.thread.onLatency ∨ v < 0 ∨ 2 ^ 23 ≤ v ∨ v % z ≠ 0 then none
  else
    ((l.thread.bolt.bind s.bolt?).bind fun b => s.foldBolt b (v.toNat / 2 ^ 21)).bind fun b =>
      if v.toNat % 2 ^ 21 + z ≤ 2048 * b.rows then some (b, v.toNat % 2 ^ 21) else none

/-- The trap of a scratchpad access (R183), its checks in order; none where the access stands. -/
def spadTrap (s : State) (l : Lane) (v : Int) (z : Nat) : Option Trap :=
  if l.thread.onLatency ∨ (l.thread.bolt.bind s.bolt?).isNone then some ⟨.needw, l.thread.pc, false⟩
  else if v < 0 ∨ 2 ^ 23 ≤ v then some ⟨.prot, BitVec.ofInt 64 v, false⟩
  else if v % z ≠ 0 then some ⟨.align, BitVec.ofInt 64 v, false⟩
  else if (spadAt s l v z).isNone then some ⟨.prot, BitVec.ofInt 64 v, false⟩
  else none

/-- A lane whose scratchpad access stands and waits for nothing (R187, R189, R218, R294, R295). -/
def SpadFree (s : State) (l : Lane) (v : Int) (z : Nat) (writes : Bool) : Prop :=
  ∃ b o, spadAt s l v z = some (b, o) ∧ s.acquirePending l.tid = false ∧ s.spWaits b.id o z writes = false

/-- A scratchpad access that stands and waits: for an acquire of its thread, or for a copy or the array. -/
def SpadWaits (s : State) (l : Lane) (v : Int) (z : Nat) (writes : Bool) : Prop :=
  ∃ b o, spadAt s l v z = some (b, o) ∧ (s.acquirePending l.tid = true ∨ s.spWaits b.id o z writes = true)

/-- A scratchpad instruction completes for every group that nothing stops, each lane with its effect; `fin` is what the
issue does besides. -/
def RunsCounted (i : Instr) (r : OpRule) (f : Fields) (irrev : Bool) (fin : State → State)
    (need : State → Lane → Prop) (eff : State → Lane → State) : Prop :=
  ∀ s ls, PortsReady s r f irrev false ls → needInTurn need eff s (ls.map (s.laneOf r f ls)) →
    exec i s = .next (fin (s.after r f ls eff fun _ _ => 0))

/-- A lane alone that traps, or that waits, at a scratchpad instruction. -/
def StopsCounted (i : Instr) (r : OpRule) (f : Fields) (irrev : Bool) (fin : State → State)
    (why : State → Lane → Option Trap) (waits : State → Lane → Prop) : Prop :=
  ∀ s n t, PortsReady s r f irrev false [(n, t)] →
    (∀ tr, why s (s.laneOf r f [(n, t)] (n, t)) = some tr → trapWaits s t.tid tr = false →
      exec i s = .next (fin (s.unqueued r f [(n, t)]
        (takeTrap s t.tid f tr (irrev || touchesPort r f) false)).bump)) ∧
    (waits s (s.laneOf r f [(n, t)] (n, t)) → exec i s = .next (fin s.block))

/-- What a lane leaves that loads from the scratchpad: a result in flight with the words at its place (the second one
for a pair), marked with poison where a word it read is. -/
def loadsSpad (f : Fields) (z : Nat) (irrev : Bool) (v : Int) (words : List Byte → Word × Word) (poison : Bool)
    (pair : Bool) (k : State) (l : Lane) : State :=
  match spadAt k l v z with
  | none => k
  | some (b, o) =>
    let w := words (memBytes b.spad o z)
    ((k.addReady l f.rd pair w.1 w.2 (poison && b.spPoison.any fun p => 4 * p < o + z && o < 4 * p + 4)).noteWords l.lane
      b.core o z).advance l.tid f irrev

/-- What a lane leaves that stores bytes to the scratchpad. -/
def storesSpad (f : Fields) (irrev : Bool) (v : Int) (bs : List Byte) (k : State) (l : Lane) : State :=
  match spadAt k l v bs.length with
  | none => k
  | some (b, o) =>
    (((k.modBolt b.id fun b => b.write o bs).noteWords l.lane b.core o bs.length).noteStored b.id o
      bs.length).advance l.tid f irrev

/-- What a lane of SAMO or SCAS leaves: the new element written, and the old one in flight to rd. -/
def swapsSpad (f : Fields) (v : Int) (new : Nat → Option Nat) (k : State) (l : Lane) : State :=
  let z := if f.w then 4 else 8
  match spadAt k l v z with
  | none => k
  | some (b, o) =>
    let old := leNat (memBytes b.spad o z)
    let k := match new old with
      | some n => k.modBolt b.id fun b => b.write o (leBytes z n)
      | none => k
    let got : Word := if f.w then (BitVec.ofNat 32 old).signExtend 64 else BitVec.ofNat 64 old
    ((k.addReady l f.rd false got 0 false).noteWords l.lane b.core o z).advance l.tid f true

/-- The elements of an atomic's operands: 32 bits with .w (R194). -/
def lowBits (f : Fields) (w : Word) : Nat := if f.w then w.toNat % 2 ^ 32 else w.toNat

end Sys2Proof.Claims

/-- R88: an asynchronous result empties its register, or both of a pair, and leaves every value; its completion fills
them with the result, its cancellation with the values they had. g0 stays full and 0. -/
def Obligations.AsynchronousResults : Prop :=
  (∀ (s : State) (t : Thread) (p : Pend), s.thread? t.tid = some t → p.tid = t.tid →
    p.rd < 56 → (p.pair = true → p.rd < 55) →
    let aims (n : Nat) : Prop := n ≠ 0 ∧ (n = p.rd ∨ p.pair = true ∧ p.rd ≠ 0 ∧ n = p.rd + 1)
    (∃ u, (s.addPend p).thread? t.tid = some u ∧ (s.addPend p).pend = s.pend ++ [p] ∧
      (∀ n, (aims n → u.reg n = { t.reg n with full := false }) ∧ (¬ aims n → u.reg n = t.reg n)) ∧
      u = { t with regs := u.regs } ∧
      s.addPend p = (({ s with pend := s.pend ++ [p] } : State).putThread u).bump) ∧
    (∀ lo hi poison, p.phase = .ready lo hi poison → s.pend.find? (fun q => q.id == p.id) = some p →
      ∃ s' u, exec (.loadCompletion p.id) s = .next s' ∧ s'.thread? t.tid = some u ∧
        s'.pend = s.pend.filter (fun q => q.id != p.id) ∧
        (p.rd ≠ 0 → u.reg p.rd = ⟨lo, true, poison⟩) ∧
        (p.pair = true → p.rd ≠ 0 → u.reg (p.rd + 1) = ⟨hi, true, poison⟩) ∧
        (∀ n, ¬ aims n → u.reg n = t.reg n) ∧ u = { t with regs := u.regs } ∧
        s' = { s with pend := s'.pend, threads := s'.threads }) ∧
    ∃ u, (s.cancel p).thread? t.tid = some u ∧
      (∀ n, (aims n → u.reg n = { t.reg n with full := true }) ∧ (¬ aims n → u.reg n = t.reg n))) ∧
  ∀ (s : State) (id : Nat), (∀ p, s.pend.find? (fun q => q.id == id) = some p → ∀ lo hi poison,
    p.phase ≠ .ready lo hi poison) → exec (.loadCompletion id) s = .next s

/-- R182 to R187, R190 to R193: LDS and STS at every size. A load's result is the little-endian bytes at its place,
zero-extended; a store writes the low bytes of its operand there and nothing else, and a poisoned word that the lanes
of one store write whole between them is clean again. The first check of R183 that fails traps a lane; an overlap with a
copy in flight or with a guarded tile, an acquire still pending, and for a store a load whose checks are pending, make
it wait. The weft's spass counts the passes. -/
def Obligations.ScratchpadLoadsAndStores : Prop :=
  (∀ f : Fields,
    (∀ e ∈ [(Instr.ldsB f, rLds, 1, false), (.ldsH f, rLds, 2, false), (.ldsW f, rLds, 4, false),
        (.ldsD f, rLds, 8, false), (.ldsQ f, rLdsQ, 16, true)],
      let z := e.2.2.1
      let fin (k : State) : State := k.countPasses z true
      RunsCounted e.1 e.2.1 f false fin (fun s l => SpadFree s l (addressOf f l) z false)
        (fun k l => loadsSpad f z (touchesPort e.2.1 f) (addressOf f l)
          (fun bs => (BitVec.ofNat 64 (leNat (bs.take 8)), BitVec.ofNat 64 (leNat (bs.drop 8)))) true e.2.2.2 k l) ∧
      StopsCounted e.1 e.2.1 f false fin (fun s l => spadTrap s l (addressOf f l) z)
        (fun s l => SpadWaits s l (addressOf f l) z false)) ∧
    ∀ e ∈ [(Instr.stsB f, rSts, 1), (.stsH f, rSts, 2), (.stsW f, rSts, 4), (.stsD f, rSts, 8), (.stsQ f, rStsQ, 16)],
      let z := e.2.2
      let data (l : Lane) : List Byte := leBytes (min z 8) l.b.toNat ++ leBytes (z - 8) l.b2.toNat
      let fin (k : State) : State := (k.countPasses z true).cleanStored
      RunsCounted e.1 e.2.1 f false fin
        (fun s l => SpadFree s l (addressOf f l) z true ∧ s.hasUnchecked l.tid = false)
        (fun k l => storesSpad f (touchesPort e.2.1 f) (addressOf f l) (data l) k l) ∧
      StopsCounted e.1 e.2.1 f false fin (fun s l => spadTrap s l (addressOf f l) z)
        (fun s l => SpadWaits s l (addressOf f l) z true ∨
          (spadAt s l (addressOf f l) z).isSome = true ∧ s.hasUnchecked l.tid = true)) ∧
  (∀ (b : Bolt) (o : Nat) (bs : List Byte), Memory.wf b.spad = true →
    memBytes (b.write o bs).spad o bs.length = bs ∧
    (∀ a, a < o ∨ o + bs.length ≤ a → memByte (b.write o bs).spad a = memByte b.spad a) ∧
    (∀ w, w ∈ (b.write o bs).spPoison ↔ w ∈ b.spPoison ∧ ¬ (o ≤ 4 * w ∧ 4 * w + 4 ≤ o + bs.length)) ∧
    b.write o bs = { b with spad := (b.write o bs).spad, spPoison := (b.write o bs).spPoison }) ∧
  ∀ (s : State) (n : Nat) (b : Bolt), s.bolt? n = some b → ∃ b', s.cleanStored.bolt? n = some b' ∧
    b' = { b with spPoison := b'.spPoison } ∧
    ∀ w, w ∈ b'.spPoison ↔ w ∈ b.spPoison ∧ ¬ ∀ i < 4, ∃ x ∈ s.note.stored, x.1 = n ∧ x.2.1 ≤ 4 * w + i ∧
      4 * w + i < x.2.1 + x.2.2

/-- R190, R194, R195: SAMO and SCAS. Lanes apply in turn, each on what those before it left; the old element, with .w
sign-extended, is the result; a poisoned element traps at the instruction itself. -/
def Obligations.ScratchpadAtomics : Prop :=
  ∀ f : Fields,
    let z := if f.w then 4 else 8
    let clean (s : State) (l : Lane) (v : Int) : Prop := SpadFree s l v z true ∧
      ∀ b o, spadAt s l v z = some (b, o) → ∀ p ∈ b.spPoison, ¬ (4 * p < o + z ∧ o < 4 * p + 4)
    let poisoned (s : State) (l : Lane) (v : Int) : Option Trap :=
      match spadAt s l v z with
      | none => spadTrap s l v z
      | some (b, o) =>
        if s.acquirePending l.tid || s.spWaits b.id o z true then none
        else if b.spPoison.any fun p => 4 * p < o + z && o < 4 * p + 4 then some ⟨.poison, BitVec.ofInt 64 v, false⟩
        else none
    let waits (s : State) (l : Lane) (v : Int) : Prop := SpadWaits s l v z true
    let fin (k : State) : State := k.countPasses z false
    (∀ e ∈ [(Instr.samoAdd f, fun (_ : Nat) (old b : Nat) => old + b),
        (.samoMax f, fun n old b => if (BitVec.ofNat n old).slt (BitVec.ofNat n b) then b else old),
        (.samoSwap f, fun _ _ b => b)],
      let new (l : Lane) (old : Nat) : Option Nat := some (e.2 (8 * z) old (lowBits f l.b) % 2 ^ (8 * z))
      RunsCounted e.1 rSamo f true fin (fun s l => clean s l (addressOf f l))
        (fun k l => swapsSpad f (addressOf f l) (new l) k l) ∧
      StopsCounted e.1 rSamo f true fin (fun s l => poisoned s l (addressOf f l))
        (fun s l => waits s l (addressOf f l))) ∧
    RunsCounted (.scas f) rScas f true fin (fun s l => clean s l l.a.toInt)
      (fun k l => swapsSpad f l.a.toInt (fun old => if old = lowBits f l.b then some (lowBits f l.c) else none) k l) ∧
    StopsCounted (.scas f) rScas f true fin (fun s l => poisoned s l l.a.toInt) (fun s l => waits s l l.a.toInt)


/-! ### Memory (R196 to R262) -/

namespace Sys2Proof.Claims

open Sys2Proof.Machine

/-- A memory that holds bytes at an address, and otherwise what another holds. -/
def Holds (m m' : Memory) (a : Nat) (bs : List Byte) : Prop :=
  memBytes m' a bs.length = bs ∧ ∀ x, x < a ∨ a + bs.length ≤ x → memByte m' x = memByte m x

/-- A range that holds nothing but plain memory: no byte of a queue's ring or registers (R334) or of the region owner
table (R418). -/
def PlainRange (s : State) (a n : Nat) : Prop :=
  ∀ x, a ≤ x → x < a + n → s.inRing x = false ∧ s.ownerRegion? x = none ∧ queueReg x = none

/-- Every thread stands under its own number. -/
def Keyed (s : State) : Prop := ∀ n t, s.thread? n = some t → t.tid = n

/-- The threads of a state as another left them, but for their monitors and stamps; one in MWAIT may have gone on. -/
def KeepsThreads (s s' : State) : Prop :=
  ∀ n t, s.thread? n = some t → t.sub ≠ .mwait → ∃ u, s'.thread? n = some u ∧
    u = { t with monitor := u.monitor, vstamp := u.vstamp }

/-- A lane alone at an instruction whose checks fail (R58, R217): it takes the trap in the state that the checks leave, in
which a translation that passed stands, and nothing else happens. -/
def TrapsChecked (i : Instr) (r : OpRule) (f : Fields) (irrev : Bool) (check : State → Lane → Option (State × Trap)) :
    Prop :=
  ∀ s n t k tr, PortsReady s r f irrev false [(n, t)] → check s (s.laneOf r f [(n, t)] (n, t)) = some (k, tr) →
    trapWaits k t.tid tr = false →
    exec i s = .next (s.unqueued r f [(n, t)] (takeTrap k t.tid f tr (irrev || touchesPort r f) false)).bump

/-- The trap that the checks of an access end in (R217), with the state that they leave. -/
def checkFails (s : State) (l : Lane) (v : Int) (z : Nat) (write read : Bool) (k : Nat) (sync : Bool) :
    Option (State × Trap) :=
  match checkAccess s l.thread s.cur.core v z write read k sync with
  | .trap k tr => some (k, tr)
  | _ => none

/-- Whether a thread is a lane of a weft. -/
def inWeft (t : Thread) : Bool :=
  match t.loc with
  | .member _ _ _ => true
  | _ => false

/-- The result of a load as it is when the load issues: its checks pending. -/
def loadResult (f : Fields) (l : Lane) (z : Nat) (signed pair : Bool) (kind : PKind) (k : State) : Pend :=
  { id := k.seq
    tid := l.tid
    rd := f.rd
    pair
    kind
    va := BitVec.ofInt 64 (addressOf f l)
    size := z
    signed
    pc := l.thread.pc
    sc := false
    phase := .walk
    policy := if f.pol = 0 then none else some l.policy }

/-- What a load leaves that its checks let pass (R216 to R219): a result in flight. On a weft core without the
translation the checks are still pending (R218), and an SC page is known as one; a page of mtype 2 and a device register
are read at once, after the loads of their thread whose pages are not known (R208);
otherwise the load starts, and is bound at home or from a copy. None where it waits, traps or stops. -/
def loadEffect (f : Fields) (z : Nat) (signed pair : Bool) (kind : PKind) (k : State) (l : Lane) : Option State :=
  let v := addressOf f l
  let core := k.cur.core
  let p := loadResult f l z signed pair kind k
  if k.mustWait l.tid ∨ v < -2 ^ 56 ∨ 2 ^ 56 ≤ v ∨ v % z ≠ 0 then none
  else if core < 144 ∧ k.tlbHit core l.thread.pid (v % 2 ^ 64).toNat .read l.thread.plvl = none then
    some (k.addPend { p with sc := k.scAt core l.thread.pid v })
  else
    match checkAccess k l.thread core v z false true 0 (kind == .acquire) with
    | .ok k a =>
      if leafMtype a.leaf = 2 then
        if k.hasUnchecked l.tid then none
        else some (((k.addPend p).deviceLoad p a.pa (k.valueAt a.pa z) (k.poisonAt a.pa z)).afterRead a.pa z)
      else some ((k.addPend p).startLoad core p a)
    | .device k pa _ =>
      if k.hasUnchecked l.tid then none else (k.deviceRead pa z).map fun x => (k.addPend p).deviceLoad p pa x false
    | _ => none

/-- What a store leaves that its checks let pass (R216 to R220): it waits to be performed, in its thread's order; a
page of mtype 2 and a device register are written at once (R208). -/
def storeEffect (f : Fields) (bs : List Byte) (rel : Bool) (k : State) (l : Lane) : Option State :=
  let v := addressOf f l
  let core := k.cur.core
  if k.mustWait l.tid ∨ k.hasUnchecked l.tid ∨ (rel = true ∧ l.thread.lost ≠ none) then none
  else
    match checkAccess k l.thread core v bs.length true false 1 rel with
    | .ok k a =>
      if leafMtype a.leaf = 2 then
        if rel = true ∧ k.performed l.tid = false then none else some (k.deviceTypeStore f l core a bs rel)
      else some (k.queueStore f l core a bs rel)
    | .device k _ a => if rel = true ∧ k.performed l.tid = false then none else k.deviceRegStore f l core a bs rel
    | _ => none

/-- The byte at an address as an access of a thread reads it (R230): that of the thread's last earlier store to it
that is still to be performed, else memory's. -/
def seenByte (s : State) (tid id a : Nat) : Byte :=
  match s.stores.reverse.find? fun p =>
    p.tid == tid && decide (p.id < id) && decide (p.pa ≤ a) && decide (a < p.pa + p.data.length) with
  | some p => p.data.getD (a - p.pa) 0
  | none => s.byteAt a

/-- Whether the byte at an address as an access of a thread reads it carries poison (R396): the mark of the thread's last
earlier store to it that is still to be performed, else memory's. -/
def seenPoison (s : State) (tid id a : Nat) : Bool :=
  match s.stores.reverse.find? fun p =>
    p.tid == tid && decide (p.id < id) && decide (p.pa ≤ a) && decide (a < p.pa + p.data.length) with
  | some p => p.poison.getD (a - p.pa) false
  | none => s.poisonAt a 1

/-- The result of a load from its bytes: the low ones extended, and for a pair the second word (R219). -/
def loaded (signed : Bool) (z : Nat) (bs : List Byte) : Word × Word :=
  (if signed then (BitVec.ofNat (8 * z) (leNat (bs.take 8))).signExtend 64 else BitVec.ofNat 64 (leNat (bs.take 8)),
   BitVec.ofNat 64 (leNat (bs.drop 8)))

/-- The pending results with one of them ready. -/
def withReady (s : State) (p : Pend) (bs : List Byte) (poison : Bool) : List Pend :=
  let v := loaded p.signed p.size bs
  s.pend.map fun q => if q.id == p.id then { p with phase := .ready v.1 v.2 poison } else q

/-- The line of a CLFL in a region of the host's that is not pinned: the state that its translation leaves, the translation
and the place (R226). -/
def hostLine (f : Fields) (k : State) (l : Lane) : Option (State × Trans × Nat) :=
  let v := addressOf f l
  if v < -2 ^ 56 ∨ 2 ^ 56 ≤ v then none
  else
    match translate k k.cur.core l.thread.pid (v % 2 ^ 64).toNat .read l.thread.plvl with
    | .ok (k', t) => match k'.place t.pa with
      | .ram p => if k'.hostOwns p && !k'.pinned p then some (k', t, p) else none
      | _ => none
    | .error _ => none

/-- What the race detector makes of a CLFL there, which it checks as a read (R217, R226, R238). -/
def raced (f : Fields) (k : State) (l : Lane) (x : State × Trans × Nat) : Except Trap State :=
  x.1.raceCheck l.thread.tid k.cur.core x.2.2 (addressOf f l % 2 ^ 64).toNat 0 x.2.1.leaf false

/-- A load that home may serve now: it waits for home, on a weft core or as an acquire, on an SC page or on a page of
mtype 1; no earlier load of its thread that may meet it is still to be bound, and no earlier RED that meets it to be
performed; an acquire or SC access follows its thread's own stores (R230, R233); and the region is the device's
(R215). -/
def HomeMayServe (s : State) (id : Nat) (p : Pend) (t : Thread) (core pa mtype cls : Nat) : Prop :=
  Keyed s ∧ s.pend.find? (fun q => q.id == id) = some p ∧ s.thread? p.tid = some t ∧ p.phase = .home pa mtype cls ∧
  t.core? = some core ∧ (core < 144 ∨ p.kind = .acquire ∨ p.sc = true ∨ mtype = 1) ∧
  s.earlierLoad p.tid p.id pa p.size = false ∧ s.earlierRed p.tid p.id pa p.size = false ∧
  ((p.kind = .acquire ∨ p.sc = true) → s.earlierStore p.tid p.id pa p.size = false) ∧ s.ownCheck pa = .ok

end Sys2Proof.Claims

/-- R217, R415: the checks of an access, the first that fails trapping: a canonical address, alignment, translation and
permission, memory where the translation leads and a port to it where that is another package's, ownership, and the race
detector. -/
def Sys2Proof.Claims.ChecksOfAnAccess : Prop :=
  ∀ (s : State) (t : Thread) (core : Nat) (v : Int) (z k : Nat) (write read sync : Bool),
    let check := checkAccess s t core v z write read k sync
    let va := (v % 2 ^ 64).toNat
    let canon := -2 ^ 56 ≤ v ∧ v < 2 ^ 56
    (¬ canon → check = .trap s ⟨.page, BitVec.ofInt 64 v, true⟩) ∧
    (canon → v % z ≠ 0 → check = .trap s ⟨.align, BitVec.ofInt 64 v, true⟩) ∧
    (canon → v % z = 0 →
      (∀ e, translate s core t.pid va (if write then .write else .read) t.plvl = .error e → check = .trap s e) ∧
      ∀ s' tr, translate s core t.pid va (if write then .write else .read) t.plvl = .ok (s', tr) →
        let denied := (write = true ∧ read = true ∧ tr.leaf / 4 % 2 = 0) ∨ (k = 2 ∧ tr.leaf / 2 ^ 9 % 4 = 2)
        (denied → check = .trap s' ⟨.prot, BitVec.ofInt 64 v, true⟩) ∧
        (¬ denied →
          (s'.place tr.pa = .hole → check = .trap s' ⟨.mchk, BitVec.ofNat 64 va, true⟩) ∧
          (∀ p, s'.place tr.pa = .remote p → s'.linked (p / 2 ^ 46 % 2 ^ 6) = false →
            check = .trap s' ⟨.mchk, BitVec.ofNat 64 va, true⟩) ∧
          (∀ p, s'.place tr.pa = .ram p →
            (∀ s2, s'.ownCheck p = .refused s2 → check = .trap s2 ⟨.ownx, BitVec.ofNat 64 va, true⟩) ∧
            (∀ s2, s'.ownCheck p = .wait s2 → check = .wait s2) ∧
            (s'.ownCheck p = .ok → tr.leaf / 2 ^ 57 % 2 = 0 → check = .ok s' ⟨p, va, tr.leaf⟩) ∧
            (s'.ownCheck p = .ok → tr.leaf / 2 ^ 57 % 2 = 1 → s'.detected t.tid p sync = none →
              check = .ok s' ⟨p, va, tr.leaf⟩) ∧
            (s'.ownCheck p = .ok → tr.leaf / 2 ^ 57 % 2 = 1 → s'.detected t.tid p sync ≠ none →
              s'.fw.rdctl.getLsbD 0 = false → check = .trap s' ⟨.race, BitVec.ofNat 64 va, true⟩))))

/-- R202 to R205: a walk through five levels of valid tables to a 64 KiB leaf that permits the access translates the
address, sets acc, and dirty for a write, at the entry's home, and the core and its die's shared TLB hold the
translation; a leaf that is not valid gives PAGE, and one that denies the access PROT. A space entry in a hole gives
MCHK (R200). -/
def Sys2Proof.Claims.TranslationWalk : Prop :=
  (∀ (s : State) (core pid va : Nat) (k : AccKind) (lvl : Level), s.tlbHit core pid va k lvl = none →
    (∀ x ∈ s.dtlbOf (dieOf core), x.covers (spaceOf pid) va = false) → s.entryInHole pid = true →
    translate s core pid va k lvl = .error ⟨.mchk, BitVec.ofNat 64 va, true⟩) ∧
  ∀ (s : State) (core pid va : Nat) (k : AccKind) (lvl : Level) (a : Nat → Nat) (e : Nat → Nat),
    s.tlbHit core pid va k lvl = none → (∀ x ∈ s.dtlbOf (dieOf core), x.covers (spaceOf pid) va = false) →
    s.entryInHole pid = false → entryUsable (s.spaceEntry pid) = true → s.spaceEntry pid % 2 ^ 64 = pid →
    a 0 = s.spaceEntry pid / 2 ^ 76 % 2 ^ 40 * 2 ^ 12 →
    (∀ n, n < 5 → ∃ p, s.place (a n + 8 * (if n = 4 then va / 2 ^ 16 % 2 ^ 5 else va / 2 ^ (48 - 9 * n) % 2 ^ 9)) = .ram p ∧
      s.valueAt p 8 = e n) →
    (∀ n, n < 4 → e n % 4 = 3 ∧ e n / 2 ^ 2 % 2 ^ 6 = 0 ∧ e n / 2 ^ 52 = 0 ∧ (n < 3 → e n / 2 ^ 8 % 2 ^ 4 = 0) ∧
      a (n + 1) = e n / 2 ^ 8 % 2 ^ 44 * 2 ^ 8) →
    let leaf := e 4
    let sets := leaf ||| 2 ^ 7 ||| (if k = .write then 2 ^ 8 else 0)
    let allowed := (lvl = .user → leaf / 2 ^ 5 % 2 = 1) ∧ (k = .read → leaf / 2 ^ 2 % 2 = 1) ∧
      (k = .write → leaf / 2 ^ 3 % 2 = 1) ∧ (k = .fetch → leaf / 2 ^ 4 % 2 = 1) ∧
      (leaf / 2 ^ 9 % 4 = 2 → lvl = .firmware)
    let good := leaf % 2 = 1 ∧ leaf / 2 % 2 = 0 ∧ leaf / 2 ^ 60 = 0 ∧ leaf / 2 ^ 52 % 2 ^ 4 = 0 ∧
      leaf / 2 ^ 11 % 2 ^ 5 = 0 ∧ leaf / 2 ^ 9 % 4 ≠ 3 ∧ ¬ (leaf / 2 ^ 3 % 2 = 1 ∧ leaf / 2 ^ 2 % 2 = 0)
    (leaf % 2 = 0 → translate s core pid va k lvl = .error ⟨.page, BitVec.ofNat 64 va, true⟩) ∧
    (good → ¬ allowed → translate s core pid va k lvl = .error ⟨.prot, BitVec.ofNat 64 va, true⟩) ∧
    (good → allowed → ∃ s', translate s core pid va k lvl =
        .ok (s', ⟨leaf / 2 ^ 16 % 2 ^ 36 * 2 ^ 16 + va % 2 ^ 16, sets⟩) ∧
      (s'.tlbOf core).find? (fun x => x.covers (spaceOf pid) va) = some
        { space := spaceOf pid, glob := leaf / 2 ^ 6 % 2 == 1, vbase := va / 2 ^ 16, bits := 16
          frame := leaf / 2 ^ 16 % 2 ^ 36 * 2 ^ 16, leaf := BitVec.ofNat 64 sets } ∧
      (s'.dtlbOf (dieOf core)).head? = (s'.tlbOf core).find? (fun x => x.covers (spaceOf pid) va) ∧
      (∀ p, s.place (a 4 + 8 * (va / 2 ^ 16 % 2 ^ 5)) = .ram p → PlainRange s p 8 →
        Memory.wf s.mem = true → s'.valueAt p 8 = sets))

/-- R217, R415: the checks of an access, the first that fails trapping: a canonical address, alignment, translation and
permission, memory where the translation leads and a port to it where that is another package's, ownership, and the race
detector. R202 to R205: a walk through five
levels of valid tables to a 64 KiB leaf that permits the access translates the address, sets acc, and dirty for a
write, at the entry's home, and the core and its die's shared TLB hold the translation; a leaf that is not valid gives
PAGE, and one that denies the access PROT. A space entry in a hole gives MCHK (R200). -/
def Obligations.AccessChecksAndTranslation : Prop := Claims.ChecksOfAnAccess ∧ Claims.TranslationWalk

/-- R216 to R219, R221, R222: every LD, LDAQ and LDRO whose checks pass completes with a result in flight (or, on a weft
core without the translation, with its checks pending), at each size with its extension. -/
def Sys2Proof.Claims.GlobalLoads : Prop :=
  ∀ f : Fields, ∀ e ∈
    [(Instr.ldB f, rLd, 1, true, false, PKind.load), (.ldBu f, rLd, 1, false, false, .load),
     (.ldH f, rLd, 2, true, false, .load), (.ldHu f, rLd, 2, false, false, .load), (.ldW f, rLd, 4, true, false, .load),
     (.ldWu f, rLd, 4, false, false, .load), (.ldD f, rLd, 8, false, false, .load),
     (.ldQ f, rLdQ, 16, false, true, .load), (.ldaqW f, rLd, 4, true, false, .acquire),
     (.ldaqD f, rLd, 8, false, false, .acquire), (.ldroW f, rLd, 4, true, false, .readOnly),
     (.ldroD f, rLd, 8, false, false, .readOnly), (.ldroQ f, rLdQ, 16, false, true, .readOnly)],
    let effect (k : State) (l : Lane) := loadEffect f e.2.2.1 e.2.2.2.1 e.2.2.2.2.1 e.2.2.2.2.2 k l
    Runs e.1 e.2.1 f false false (fun s l => effect s l ≠ none)
      (fun k l => ((effect k l).getD k).advance l.tid f (touchesPort e.2.1 f)) (fun _ _ => 0) ∧
    WaitsAlone e.1 e.2.1 f false false (fun s l => s.mustWait l.tid = true) ∧
    TrapsAlone e.1 e.2.1 f false false (fun s l =>
      let v := addressOf f l
      if s.mustWait l.tid then none
      else if v < -2 ^ 56 ∨ 2 ^ 56 ≤ v then some ⟨.page, BitVec.ofInt 64 v, true⟩
      else if v % e.2.2.1 ≠ 0 then some ⟨.align, BitVec.ofInt 64 v, true⟩
      else if s.cur.core < 144 ∧ s.tlbHit s.cur.core l.thread.pid (v % 2 ^ 64).toNat .read l.thread.plvl = none then none
      else
        match checkAccess s l.thread s.cur.core v e.2.2.1 false true 0 (e.2.2.2.2.2 == .acquire) with
        | .trap k tr => if k = s then some tr else none
        | _ => none) false

/-- R218, R219, R230, R249, R396: home binds a load when it may, to the bytes that its thread is to see there,
little-endian and extended, and to nothing else, with the poison of those bytes; a request that is not due changes nothing
(the model's reading of such an event: log entry 58). -/
def Sys2Proof.Claims.HomeBindsLoads : Prop :=
  (∀ (s : State) (id : Nat) (p : Pend) (t : Thread) (core pa mtype cls : Nat), HomeMayServe s id p t core pa mtype cls →
    (∀ x, pa ≤ x → x < pa + p.size → s.inRing x = false) → p.size ∈ [1, 2, 4, 8, 16] →
    ∃ s', exec (.hr id) s = .next s' ∧
      s'.pend = withReady s p ((List.range p.size).map fun i => seenByte s p.tid p.id (pa + i)) ((List.range p.size).any fun i => seenPoison s p.tid p.id (pa + i)) ∧
      (s.traces = [] → s'.mem = s.mem) ∧ s'.stores = s.stores ∧ KeepsThreads s s') ∧
  (∀ (s : State) (id : Nat), (∀ p, s.pend.find? (fun q => q.id == id) = some p → ∀ pa mtype cls,
    p.phase ≠ .home pa mtype cls) → exec (.hr id) s = .next s) ∧
  ∀ (s : State) (agent line : Nat) (p : Pend) (t : Thread) (pa mtype cls : Nat), 256 ≤ agent → agent < 304 →
    s.pend = [p] → s.thread? p.tid = some t → t.loc = .latency agent → p.phase = .home pa mtype cls → pa / 128 = line →
    p.kind ≠ .acquire → p.sc = false → mtype ≠ 1 → s.ownCheck (128 * line) = .ok →
    s.earlierRed p.tid p.id pa p.size = false →
    (∀ x, pa ≤ x → x < pa + p.size → s.inRing x = false) → p.size ∈ [1, 2, 4, 8, 16] →
    ∃ s', exec (.gets agent line) s = .next s' ∧
      s'.pend = withReady s p ((List.range p.size).map fun i => seenByte s p.tid p.id (pa + i)) ((List.range p.size).any fun i => seenPoison s p.tid p.id (pa + i)) ∧
      (s.traces = [] →
        s'.dirs = ((s.makeRoom agent line (policyClass p.policy pa p.va.toNat)).dirGetS agent line).dirs ∧ s'.mem = s.mem)

/-- R166, R201, R205, R207, R218, R397: a walk lets a pending load go on once its checks pass; when they fail, the load is
cancelled, its register gets its value back, and the lane parks with trappc at the load, at its rgn, or for MCHK at the
load itself. -/
def Sys2Proof.Claims.LateChecksOfLoads : Prop :=
  ∀ (s : State) (p : Pend) (t : Thread) (core : Nat), s.pend.find? (fun q => q.id == p.id) = some p →
    s.thread? p.tid = some t → t.tid = p.tid → t.core? = some core → p.phase = .walk →
    (∀ k a, checkAccess s t core p.va.toInt p.size false true 0 (p.kind == .acquire) = .ok k a → leafMtype a.leaf ≠ 2 →
      (∀ q ∈ s.pend, q.phase = .walk → q.va.toNat / 65536 = p.va.toNat / 65536 → q = p) →
      (s.pend.filter fun q => q.id == p.id) = [p] →
      exec (.pageWalk p.id) s = .next (k.startLoad core p a)) ∧
    (∀ c slot lane tr, t.loc = .member c slot lane → t.sub = .active → t.asSub ≠ .faultParked →
      checkAccess s t core p.va.toInt p.size false true 0 (p.kind == .acquire) = .trap s tr →
      (∀ q ∈ s.pend, q.phase = .walk → q.va.toNat / 65536 = p.va.toNat / 65536 → q = p) →
      (s.pend.filter fun q => q.id == p.id) = [p] →
      ∃ s' u, exec (.loadFault p.id) s = .next s' ∧ s'.thread? p.tid = some u ∧
        s'.pend = s.pend.filter (fun q => q.id != p.id) ∧ u.sub = .faultParked ∧
        u.pc = (if tr.cause = .mchk then p.pc else t.rgn) ∧ u.rgn = u.pc ∧
        u.trappc = p.pc ∧ u.trapval = tr.val ∧ (∀ n, (u.reg n).val = (t.reg n).val) ∧
        (p.rd < 56 → (u.reg p.rd).full = true) ∧ (s'.wcore c).reports.length = (s.wcore c).reports.length + 1)

/-- R216 to R219, R221, R222: every LD, LDAQ and LDRO whose checks pass completes with a result in flight (or, on a
weft core without the translation, with its checks pending), at each size with its extension. R218, R219, R230, R249, R396:
home binds a load when it may, to the bytes that its thread is to see there, little-endian and extended, and to
nothing else, with the poison of those bytes; a request that is not due changes nothing (log entry 58). R166, R201, R205,
R207, R218, R397: a walk lets a pending load go on once its checks pass; when they fail, the load is cancelled, its
register gets its value back, and the lane parks with trappc at the load, at its rgn, or for MCHK at the load itself. -/
def Obligations.LoadsFromIssueToResult : Prop := Claims.GlobalLoads ∧ Claims.HomeBindsLoads ∧ Claims.LateChecksOfLoads

/-- R216 to R218, R220, R221: every ST and STRL whose checks pass completes at issue; it waits for earlier loads'
checks, an acquire or an SC access, and a release reports a lost store instead. One that fails a check of R217 traps at
issue, on an SC page at the store itself (R168, R236). -/
def Sys2Proof.Claims.GlobalStores : Prop :=
  ∀ f : Fields, ∀ e ∈
    [(Instr.stB f, rSt, 1, false), (.stH f, rSt, 2, false), (.stW f, rSt, 4, false), (.stD f, rSt, 8, false),
     (.stQ f, rStQ, 16, false), (.strlW f, rSt, 4, true), (.strlD f, rSt, 8, true)],
    let z := e.2.2.1
    let data (l : Lane) : List Byte := leBytes (min z 8) l.b.toNat ++ leBytes (z - 8) l.b2.toNat
    let effect (k : State) (l : Lane) := storeEffect f (data l) e.2.2.2 k l
    Runs e.1 e.2.1 f false false (fun s l => effect s l ≠ none)
      (fun k l => ((effect k l).getD k).advance l.tid f (touchesPort e.2.1 f)) (fun _ _ => 0) ∧
    WaitsAlone e.1 e.2.1 f false false (fun s l => s.mustWait l.tid = true ∨ s.hasUnchecked l.tid = true) ∧
    TrapsAlone e.1 e.2.1 f false false (fun s l =>
      if s.mustWait l.tid ∨ s.hasUnchecked l.tid ∨ e.2.2.2 = false then none
      else l.thread.lost.map fun v => ⟨.mchk, v, true⟩) false ∧
    let scWeft (s : State) (l : Lane) : Bool :=
      decide (s.cur.core < 144) && s.scAt s.cur.core l.thread.pid (addressOf f l)
    let fails (s : State) (l : Lane) : Option (State × Trap) :=
      if s.mustWait l.tid ∨ s.hasUnchecked l.tid ∨ (e.2.2.2 = true ∧ l.thread.lost ≠ none) then none
      else checkFails s l (addressOf f l) z true false 1 e.2.2.2
    TrapsChecked e.1 e.2.1 f false (fun s l => (fails s l).filter fun x => !scWeft x.1 l) ∧
    TrapsChecked e.1 e.2.1 f true (fun s l => (fails s l).filter fun x => scWeft x.1 l && inWeft l.thread)

/-- R218, R232, R243, R249, R260: home performs the oldest store of a thread by WT, or grants the line to a latency
core by GETM; memory then holds its bytes at its place and is otherwise as it was. -/
def Sys2Proof.Claims.HomePerformsStores : Prop :=
  (∀ (s : State) (tid : Nat) (p : PStore) (rest : List PStore), s.storesOf tid = p :: rest →
    (p.core < 144 ∨ p.mtype ≠ 0) → p.red = none → storeReady s p = true → s.ownCheck p.pa = .ok → PlainRange s p.pa p.data.length →
    s.traces = [] → Memory.wf s.mem = true → (∀ q ∈ rest, q.id ≠ p.id) → Keyed s →
    ∃ s', exec (.wt tid) s = .next s' ∧ s'.storesOf tid = rest ∧ Holds s.mem s'.mem p.pa p.data ∧ KeepsThreads s s' ∧
      s'.pend = s.pend) ∧
  (∀ (s : State) (tid : Nat), s.storesOf tid = [] → exec (.wt tid) s = .next s) ∧
  ∀ (s : State) (agent line : Nat) (mask : BitVec 128) (p : PStore), 256 ≤ agent → agent < 304 → s.stores = [p] →
    p.core = agent → p.pa / 128 = line → byteMask p.pa p.data.length = mask → p.mtype = 0 → p.red = none → storeReady s p = true →
    s.ownCheck p.pa = .ok → PlainRange s p.pa p.data.length → s.traces = [] → Memory.wf s.mem = true →
    (s.thread? p.tid).isSome = true → Keyed s →
    ∃ s', exec (.getm agent line mask) s = .next s' ∧ s'.stores = [] ∧ Holds s.mem s'.mem p.pa p.data ∧
      (p.rel = false → s'.dirs =
        (((s.makeRoom agent line p.cls).spillBad agent line).dirGetM agent line mask).dirs) ∧ KeepsThreads s s'

/-- R216 to R218, R220, R221: every ST and STRL whose checks pass completes at issue; it waits for earlier loads'
checks, an acquire or an SC access, and a release reports a lost store instead; one that fails a check of R217 traps at
issue, on an SC page at the store itself. R218, R232, R243, R249, R260: home
performs the oldest store of a thread by WT, or grants the line to a latency core by GETM; memory then holds its
bytes at its place and is otherwise as it was. -/
def Obligations.StoresFromIssueToMemory : Prop := Claims.GlobalStores ∧ Claims.HomePerformsStores

/-- R210, R211, R224: LDV and STV at every size, checked in order; a load's result is the vault's bytes there, a store
writes the low bytes of its operand there and nothing else in the 240 pages that hold data; a copy in flight at the
place makes either wait. -/
def Obligations.VaultLoadsAndStores : Prop :=
  ∀ f : Fields,
    (∀ e ∈ [(Instr.ldvW f, rLdv, 4, true, false), (.ldvD f, rLdv, 8, false, false), (.ldvQ f, rLdvQ, 16, false, true)],
      let z := e.2.2.1
      let fails (s : State) (l : Lane) := vaultCheck s l.thread.pid l.thread.plvl (addressOf f l) z false
      Runs e.1 e.2.1 f false false
        (fun s l => s.mustWait l.tid = false ∧ fails s l = none ∧ s.vaultBoard (addressOf f l).toNat z = false)
        (fun k l =>
          let v := loaded e.2.2.2.1 z ((List.range z).map fun i => k.vaultRead ((addressOf f l).toNat + i))
          (k.addReady l f.rd e.2.2.2.2 v.1 v.2 (k.vaultPoisoned (addressOf f l).toNat z)).advance l.tid f
            (touchesPort e.2.1 f)) (fun _ _ => 0) ∧
      TrapsAlone e.1 e.2.1 f false false (fun s l => if s.mustWait l.tid then none else fails s l) false ∧
      WaitsAlone e.1 e.2.1 f false false (fun s l => s.mustWait l.tid = true ∨
        fails s l = none ∧ s.vaultBoard (addressOf f l).toNat z = true)) ∧
    (∀ e ∈ [(Instr.stvW f, rStv, 4), (.stvD f, rStv, 8), (.stvQ f, rStvQ, 16)],
      let z := e.2.2
      let fails (s : State) (l : Lane) := vaultCheck s l.thread.pid l.thread.plvl (addressOf f l) z true
      Runs e.1 e.2.1 f false false
        (fun s l => s.mustWait l.tid = false ∧ s.hasUnchecked l.tid = false ∧ fails s l = none ∧
          s.vaultBoard (addressOf f l).toNat z = false)
        (fun k l => (k.vaultWrite (addressOf f l).toNat
          (leBytes (min z 8) l.b.toNat ++ leBytes (z - 8) l.b2.toNat)).advance l.tid f (touchesPort e.2.1 f))
        (fun _ _ => 0) ∧
      TrapsAlone e.1 e.2.1 f false false
        (fun s l => if s.mustWait l.tid ∨ s.hasUnchecked l.tid then none else fails s l) false ∧
      WaitsAlone e.1 e.2.1 f false false (fun s l => s.mustWait l.tid = true ∨ s.hasUnchecked l.tid = true ∨
        fails s l = none ∧ s.vaultBoard (addressOf f l).toNat z = true)) ∧
    (∀ (s : State) (pid : Nat) (lvl : Level) (v : Int) (z : Nat) (write : Bool),
      let prot : Option Trap := some ⟨.prot, BitVec.ofInt 64 v, false⟩
      let page := v.toNat % 2 ^ 24 / 2 ^ 16
      let entry := s.vaultEntry (v.toNat / 2 ^ 24) page
      (v < 0 ∨ 144 * 2 ^ 24 ≤ v → vaultCheck s pid lvl v z write = prot) ∧
      (0 ≤ v → v < 144 * 2 ^ 24 → v % z ≠ 0 →
        vaultCheck s pid lvl v z write = some ⟨.align, BitVec.ofInt 64 v, false⟩) ∧
      (0 ≤ v → v < 144 * 2 ^ 24 → v % z = 0 →
        let cached := s.vaultCached (v.toNat / 2 ^ 24) page
        let permits := page < 240 ∧ entry % 2 = 1 ∧ entry / 2 ^ 16 % 2 ^ 16 = spaceOf pid ∧
          entry / (if write then 4 else 2) % 2 = 1
        (cached = true → vaultCheck s pid lvl v z write = prot) ∧
        (cached = false → lvl ≠ .user → vaultCheck s pid lvl v z write = none) ∧
        (cached = false → lvl = .user → permits → vaultCheck s pid lvl v z write = none) ∧
        (cached = false → lvl = .user → ¬ permits → vaultCheck s pid lvl v z write = prot) ∧
        (s.vcacheHolds (v.toNat / 2 ^ 24) = false → cached = decide (entry / 8 % 2 = 1)))) ∧
    (∀ (s : State) (a : Nat), a % 2 ^ 24 < 0xF00000 → s.vaultRead a = memByte s.vmem a) ∧
    ∀ (s : State) (a : Nat) (bs : List Byte), a % 2 ^ 24 + bs.length ≤ 0xF00000 → Memory.wf s.vmem = true →
      Holds s.vmem (s.vaultWrite a bs).vmem a bs ∧
      s.vaultWrite a bs = { s with vmem := (s.vaultWrite a bs).vmem, vPoison := (s.vaultWrite a bs).vPoison }

/-- R212, R217, R223, R225, R226, R232: ROINV drops its weft core's read-only copies and has no other effect, once no earlier
acquire of its thread is pending; a prefetch never traps or
waits, and where its core holds the translation PREF.l2 changes only the directory, and PREF.v besides it what its vault
keeps as a cache; CLFL leaves every value, and drops the core's own copies of its line; on a page of mtype 2, at a device
register, and in a region of the host's, where one that is not pinned starts no transfer, it does nothing beyond its checks,
and where they fail it traps. -/
def Obligations.CopiesAndPrefetches : Prop :=
  ∀ f : Fields,
    WaitsAlone (.roinv f) rNone f false true (fun s l => s.mustWait l.tid = true) ∧
    Runs (.roinv f) rNone f false true (fun s l => s.mustWait l.tid = false)
      (fun k l =>
        (if k.cur.core < 144 then k.putW k.cur.core { k.wcore k.cur.core with ro := [] } else k).putThread
          (l.thread.past f false)) (fun _ _ => 0) ∧
    (∀ e ∈ [(Instr.prefL2 f, false), (.prefV f, true)], ∃ eff : State → Lane → State,
      Runs e.1 rPref f false false (fun _ _ => True)
        (fun k l => (eff k l).advance l.tid f (touchesPort rPref f)) (fun _ _ => 0) ∧
      ∀ k l, (eff k l).pend = k.pend ∧ (eff k l).stores = k.stores ∧
        ((∃ x, k.tlbHit k.cur.core l.thread.pid (addressOf f l % 2 ^ 64).toNat .read l.thread.plvl = some x) ∨
          addressOf f l < -2 ^ 56 ∨ 2 ^ 56 ≤ addressOf f l →
          (e.2 = false → eff k l = { k with dirs := (eff k l).dirs }) ∧
          eff k l = { k with dirs := (eff k l).dirs, vmem := (eff k l).vmem, wcores := (eff k l).wcores })) ∧
    TrapsChecked (.clfl f) rClfl f false (fun s l =>
      if s.mustWait l.tid then none
      else
        match hostLine f s l with
        | some x => match raced f s l x with
          | .error e => some (x.1, e)
          | .ok _ => none
        | none => checkFails s l (addressOf f l) 1 false true 0 false) ∧
    ∃ eff : State → Lane → State,
      let check (k : State) (l : Lane) := checkAccess k l.thread k.cur.core (addressOf f l) 1 false true 0 false
      let host (k : State) (l : Lane) (k' : State) : Prop := ∃ x, hostLine f k l = some x ∧ raced f k l x = .ok k'
      Runs (.clfl f) rClfl f false false
        (fun s l => s.mustWait l.tid = false ∧ ((∃ k, host s l k) ∨
          hostLine f s l = none ∧ ((∃ k a, check s l = .ok k a) ∨ ∃ k p a, check s l = .device k p a)))
        (fun k l => (eff k l).advance l.tid f (touchesPort rClfl f)) (fun _ _ => 0) ∧
      (∀ k l k', host k l k' → eff k l = k') ∧
      ∀ k l, hostLine f k l = none →
        (∀ k' p a, check k l = .device k' p a → eff k l = k') ∧
        ∀ k' a, check k l = .ok k' a →
          (eff k l).mem = k'.mem ∧ (eff k l).threads = k'.threads ∧
          (leafMtype a.leaf = 2 ∨ k'.hostOwns a.pa = true → eff k l = k') ∧
          (leafMtype a.leaf ≠ 2 → k'.hostOwns a.pa = false →
            (eff k l).dirs = tabPut k'.dirs (a.pa / 128)
              ((k'.dir (a.pa / 128)).flushed k'.cur.core (2000 + k'.cur.core)) ∧
            (k'.cur.core < 144 → ∀ c ∈ ((eff k l).wcore k'.cur.core).l1, c.line ≠ a.pa / 128))


/-! ### Atomics, fences, monitors and the directory (R240 to R262) -/

namespace Sys2Proof.Claims

open Sys2Proof.Machine

/-- AMO and RED of R255 with their operation at home and what it makes of n-bit elements. -/
def amoOps : List ((Fields → Instr) × (Fields → Instr) × AOp × ((n : Nat) → BitVec n → BitVec n → BitVec n)) :=
  [(.amoAdd, .redAdd, .add, fun _ old b => old + b), (.amoAnd, .redAnd, .and, fun _ old b => old &&& b),
   (.amoOr, .redOr, .or, fun _ old b => old ||| b), (.amoXor, .redXor, .xor, fun _ old b => old ^^^ b),
   (.amoMin, .redMin, .min, fun _ old b => if b.slt old then b else old),
   (.amoMax, .redMax, .max, fun _ old b => if old.slt b then b else old),
   (.amoMinu, .redMinu, .minu, fun _ old b => if b.ult old then b else old),
   (.amoMaxu, .redMaxu, .maxu, fun _ old b => if old.ult b then b else old)]

/-- What a lane of an AMO or CAS leaves whose checks pass (R254, R255, R257): the element read and, where there is a new
one, written at once, as one access; the old one in flight to rd. None where it waits or traps. -/
def atomicEffect (f : Fields) (release : Bool) (v : Lane → Int) (new : Lane → Nat → Option Nat)
    (result : Nat → Word) (k : State) (l : Lane) : Option State :=
  let z := if f.w then 4 else 8
  if k.mustWait l.tid ∨ release = true ∧ (k.performed l.tid = false ∨ l.thread.lost ≠ none) then none
  else
    match checkAccess k l.thread k.cur.core (v l) z true true 2 true with
    | .ok k' a =>
      if k'.earlierStore l.tid k'.seq a.pa z ∨ k'.earlierLoad l.tid k'.seq a.pa z then none
      else
        let old := leNat (k'.bytesAt a.pa z)
        let j := k'.recordFor l.thread a.va false
        let j := (j.performAtomic l k.cur.core a z (new l old) release).afterRead a.pa z
        some (j.addReady l f.rd false (result old) 0 (k'.poisonAt a.pa z))
    | _ => none

/-- What a lane of a RED leaves whose checks pass (R256): its update waits to be performed at home, in its thread's order.
None where it waits or traps. -/
def redEffect (f : Fields) (op : AOp) (release : Bool) (k : State) (l : Lane) : Option State :=
  let z := if f.w then 4 else 8
  if k.mustWait l.tid ∨ release = true ∧ l.thread.lost ≠ none then none
  else
    match checkAccess k l.thread k.cur.core (addressOf f l) z true false 2 true with
    | .ok k' a => some { k' with stores := k'.stores ++ [
        { id := k'.seq, tid := l.tid, core := k.cur.core, pa := a.pa, va := BitVec.ofNat 64 a.va
          space := spaceOf l.thread.pid, data := List.replicate z 0, poison := [], lcls := leafCls a.leaf
          mtype := leafMtype a.leaf, race := leafRace a.leaf, rel := release, sc := leafSc a.leaf
          red := some ⟨op, 8 * z, lowBits f l.b⟩, fw := l.thread.plvl == .firmware }] }
    | _ => none

/-- An AMO or CAS: it completes with that effect, waits where its thread's accesses make it, and a release reports a lost
store (R397); one that fails a check of R217 or R254 traps at issue. -/
def Atomic (i : Instr) (r : OpRule) (f : Fields) (release : Bool) (v : Lane → Int)
    (new : Lane → Nat → Option Nat) (result : Nat → Word) : Prop :=
  Runs i r f true false (fun s l => atomicEffect f release v new result s l ≠ none)
    (fun k l => ((atomicEffect f release v new result k l).getD k).advance l.tid f true) (fun _ _ => 0) ∧
  WaitsAlone i r f true false (fun s l => s.mustWait l.tid = true ∨ release = true ∧ s.performed l.tid = false) ∧
  TrapsAlone i r f true false (fun s l =>
    if s.mustWait l.tid ∨ release = false ∨ s.performed l.tid = false then none
    else l.thread.lost.map fun v => ⟨.mchk, v, true⟩) false ∧
  TrapsChecked i r f true fun s l =>
    if s.mustWait l.tid ∨ release = true ∧ (s.performed l.tid = false ∨ l.thread.lost ≠ none) then none
    else checkFails s l (v l) (if f.w then 4 else 8) true true 2 true

/-- A RED: it completes once its checks pass, and waits only for an acquire or an SC access of its thread; one that fails a
check of R217 or R254 traps at issue. -/
def Reduces (i : Instr) (f : Fields) (op : AOp) (release : Bool) : Prop :=
  Runs i rRed f true false (fun s l => redEffect f op release s l ≠ none)
    (fun k l => ((redEffect f op release k l).getD k).advance l.tid f true) (fun _ _ => 0) ∧
  WaitsAlone i rRed f true false (fun s l => s.mustWait l.tid = true) ∧
  TrapsAlone i rRed f true false (fun s l =>
    if s.mustWait l.tid ∨ release = false then none else l.thread.lost.map fun v => ⟨.mchk, v, true⟩) false ∧
  TrapsChecked i rRed f true fun s l =>
    if s.mustWait l.tid ∨ release = true ∧ l.thread.lost ≠ none then none
    else checkFails s l (addressOf f l) (if f.w then 4 else 8) true false 2 true

/-- Home performs a RED, the oldest store of its thread: the element becomes what `op` makes of it and the operand. -/
def PerformsRed (op : AOp) (apply : Nat → Nat → Nat → Nat) : Prop :=
  ∀ (s : State) (tid : Nat) (p : PStore) (rest : List PStore) (n arg : Nat), s.storesOf tid = p :: rest →
    p.red = some ⟨op, n, arg⟩ → n ∈ [32, 64] → arg < 2 ^ n → p.data.length = n / 8 → storeReady s p = true →
    s.ownCheck p.pa = .ok → PlainRange s p.pa p.data.length → s.traces = [] → Memory.wf s.mem = true →
    (∀ q ∈ rest, q.id ≠ p.id) → Keyed s →
    ∃ s', exec (.wt tid) s = .next s' ∧ s'.storesOf tid = rest ∧ KeepsThreads s s' ∧ s'.pend = s.pend ∧
      Holds s.mem s'.mem p.pa (leBytes (n / 8) (apply n (leNat (memBytes s.mem p.pa (n / 8))) arg))

/-- The old element as R98 gives it. -/
def oldOf (f : Fields) (old : Nat) : Word :=
  if f.w then (BitVec.ofNat 32 old).signExtend 64 else BitVec.ofNat 64 old

/-- Whether a stamp lies more than 2^18 ticks before the present one (R247). -/
def FarBehind (s : State) (a : Nat) : Prop :=
  2 ^ 18 < (s.gtick % 2 ^ 20 + 2 ^ 20 - a % 2 ^ 20) % 2 ^ 20 ∧
    (s.gtick % 2 ^ 20 + 2 ^ 20 - a % 2 ^ 20) % 2 ^ 20 < 2 ^ 20 - 2 ^ 18

end Sys2Proof.Claims

/-- R217, R254 to R257: AMO, RED and CAS, each operation on 32-bit or 64-bit elements, lanes in turn; AMO.fadd and RED.fadd
round the IEEE sum once, to nearest even. An AMO or CAS reads and writes its element as one access when it issues; a RED
completes once its checks pass, and home performs it later in its thread's order. The element's bytes change as the
operation says, and no other byte. One that fails a check traps at issue. -/
def Obligations.AtomicOperations : Prop :=
  (∀ f : Fields,
    let n := if f.w then 32 else 64
    let rl := f.mod.getLsbD 1
    (∀ e ∈ amoOps,
      let new (l : Lane) (old : Nat) : Option Nat :=
        some (e.2.2.2 n (BitVec.ofNat n old) (BitVec.ofNat n l.b.toNat)).toNat
      Atomic (e.1 f) rAmo f rl (addressOf f) new (oldOf f) ∧ Reduces (e.2.1 f) f e.2.2.1 rl) ∧
    Atomic (.amoSwap f) rAmo f rl (addressOf f) (fun l _ => some (lowBits f l.b)) (oldOf f) ∧
    Reduces (.redFadd f) f .fadd rl ∧
    Atomic (.cas f) rCas f rl (addressOf f)
      (fun l old => if old = lowBits f l.b then some (lowBits f l.c) else none) (oldOf f)) ∧
  (∀ e ∈ amoOps, PerformsRed e.2.2.1 fun n old b => (e.2.2.2 n (BitVec.ofNat n old) (BitVec.ofNat n b)).toNat) ∧
  (∃ sum : Nat → Nat → Nat → FRes,
    (∀ f : Fields, Atomic (.amoFadd f) rAmo f (f.mod.getLsbD 1) (addressOf f)
      (fun l old => some (sum (if f.w then 32 else 64) old (lowBits f l.b)).1) (fun old => BitVec.ofNat 64 old)) ∧
    PerformsRed .fadd (fun n old b => (sum n old b).1) ∧
    ∀ n ∈ [32, 64], ∀ old b, old < 2 ^ n → b < 2 ^ n →
      let fm := if n = 32 then fp32 else fp64
      ((fm.decode old).isNan ∨ (fm.decode b).isNan →
        (sum n old b).1 = if n = 32 then 0x7FC00000 else 0x7FF8000000000000) ∧
      ∀ x y, realOf (fm.decode old) = some x → realOf (fm.decode b) = some y → Delivers fm .rne (x + y) (sum n old b)) ∧
  ∀ (s : State) (l : Lane) (core z : Nat) (a : Access) (release : Bool), s.traces = [] → Memory.wf s.mem = true →
    (∀ v, PlainRange s a.pa z → Holds s.mem (s.performAtomic l core a z (some v) release).mem a.pa (leBytes z v)) ∧
    (s.performAtomic l core a z none release).mem = s.mem

/-- R232, R237, R244, R251, R258: FENCE waits until every earlier access of its thread is performed; it then raises a
weft core's floor over every stamp it has seen and past every copy it holds, or a latency core's view of the thread,
merges what its core holds privatised, and changes no memory. -/
def Sys2Proof.Claims.FenceOrders : Prop :=
  (∀ f : Fields,
    Runs (.fence f) rNone f false true (fun s l => l.thread.lost = none ∧ s.performed l.tid = true)
      (fun k l => (k.fence l.tid k.cur.core).advance l.tid f false) (fun _ _ => 0) ∧
    WaitsAlone (.fence f) rNone f false true (fun s l => l.thread.lost = none ∧ s.performed l.tid = false) ∧
    TrapsAlone (.fence f) rNone f false true (fun _ l => l.thread.lost.map fun v => ⟨.mchk, v, true⟩) false) ∧
  ∀ (s : State) (t : Thread) (core : Nat), s.thread? t.tid = some t →
    (s.fence t.tid core).mem = s.mem ∧ (s.fence t.tid core).pend = s.pend ∧
    (∀ line, (s.dir line).st = .priv → (s.dir line).holders.any (fun h => h.1 == core) = true →
      ((s.fence t.tid core).dir line).st = .none) ∧
    (core < 144 →
      let w := s.wcore core
      ((s.fence t.tid core).wcore core).vfloor =
        (match w.leaseEnd with
          | some x => stampMax (stampMax w.vfloor w.seen) x
          | none => stampMax w.vfloor w.seen) ∧
      ((s.fence t.tid core).wcore core).rel = (w.rel + 1) % 2 ^ 32 ∧ (s.fence t.tid core).threads = s.threads) ∧
    (t.loc = .latency core → 144 ≤ core → ∃ u, (s.fence t.tid core).thread? t.tid = some u ∧
      u = { t with vstamp := stampMax t.vstamp (s.lcore core).seen } ∧
      ((s.fence t.tid core).lcore core).rel = ((s.lcore core).rel + 1) % 2 ^ 32)

/-- R259 to R262: MARM arms its thread's monitor on the line and loads as an acquire; a write to the line fires it;
MWAIT returns 0 once it has fired, 2 when it is lost or was never armed, 1 once the tick of its bound has passed, and waits
until then. R261 writes gtick - t0 >= bound; that the tick of the bound itself still gives nothing is the model's reading
of R262, by which a monitor that fires in that tick ends the wait with 0 (log entry 93). -/
def Sys2Proof.Claims.Monitors : Prop :=
  (∀ f : Fields,
    let status (m : Monitor) (late : Bool) : Option Nat :=
      if m.fired then some 0 else if m.armed = false then some 2 else if late then some 1 else none
    let waiting (bound : Lane → Option Nat) (irrev : Bool) (r : OpRule) (k : State) (l : Lane) : State :=
      match status l.thread.monitor (bound l == some 0) with
      | some v => k.putThread
        ({ l with thread := { l.thread with monitor := ⟨0, false, false, false⟩ } }.got r f irrev (BitVec.ofNat 64 v))
      | none => k.putThread { l.thread with sub := .mwait, wait := .mwait f.rd k.gtick (bound l) }
    Runs (.mwait f) rDst f false true (fun _ _ => True) (waiting (fun _ => none) false rDst) (fun _ _ => 0) ∧
    Runs (.mwaitT f) rDst1 f false false (fun _ _ => True)
      (waiting (fun l => some (l.a.toNat % 2 ^ 32)) false rDst1) (fun _ _ => 0) ∧
    (∃ effect : State → Lane → Option State,
      Runs (.marm f) rMarm f false false (fun s l => effect s l ≠ none)
        (fun k l => ((effect k l).getD k).advance l.tid f (touchesPort rMarm f)) (fun _ _ => 0) ∧
      ∀ k l k' a, k.mustWait l.tid = false → l.tid = l.thread.tid → k.thread? l.tid = some l.thread →
        k'.thread? l.tid = some l.thread → k'.seq = k.seq →
        checkAccess k l.thread k.cur.core (addressOf f l) 8 false true 0 true = .ok k' a → leafMtype a.leaf ≠ 2 →
        effect k l = some (((k'.putThread { l.thread with monitor := ⟨a.pa / 128, true, false, false⟩ }).addPend
          { loadResult f l 8 false false .acquire k with policy := none }).startLoad k.cur.core
            { loadResult f l 8 false false .acquire k with policy := none } a)) ∧
    TrapsAlone (.marm f) rMarm f false false (fun s l =>
      let v := addressOf f l
      if s.mustWait l.tid then none
      else if v < -2 ^ 56 ∨ 2 ^ 56 ≤ v then some ⟨.page, BitVec.ofInt 64 v, true⟩
      else if v % 8 ≠ 0 then some ⟨.align, BitVec.ofInt 64 v, true⟩ else none) false) ∧
  (∀ (s : State) (pa n : Nat) (t : Thread), s.thread? n = some t →
    let fired : Monitor := { t.monitor with fired := true }
    (t.monitor.armed = true → t.monitor.line = pa / 128 → t.sub ≠ .mwait →
      (s.fireMonitors pa).thread? n = some { t with monitor := fired }) ∧
    (t.monitor.armed = false ∨ t.monitor.line ≠ pa / 128 → (s.fireMonitors pa).thread? n = some t) ∧
    ∀ rd t0 b, t.monitor.armed = true → t.monitor.line = pa / 128 → t.sub = .mwait → t.wait = .mwait rd t0 b →
      (s.fireMonitors pa).thread? n = some { t.setReg rd ⟨0, true, false⟩ with
        sub := .active, wait := .none, pc := t.pc + 4, monitor := ⟨0, false, false, false⟩ }) ∧
  ∀ (s : State) (t : Thread), s.thread? t.tid = some t →
    (∀ rd t0 b, t.sub = .mwait → t.wait = .mwait rd t0 (some b) → t0 + b < s.gtick →
      exec (.mwaitTimeout t.tid) s = .next (s.putThread { t.setReg rd ⟨1, true, false⟩ with
        sub := .active, wait := .none, pc := t.pc + 4, monitor := ⟨0, false, false, false⟩ })) ∧
    ((∀ rd t0 b, ¬ (t.sub = .mwait ∧ t.wait = .mwait rd t0 (some b) ∧ b < s.gtick - t0)) →
      exec (.mwaitTimeout t.tid) s = .next s)

/-- R232, R237, R244, R251, R258: FENCE waits until every earlier access of its thread is performed; it then raises a
weft core's floor over every stamp it has seen and past every copy it holds, or a latency core's view of the thread,
merges what its core holds privatised, and changes no memory. R259 to R262: MARM arms its thread's monitor on the
line and loads as an acquire; a write to the line fires it; MWAIT returns 0 once it has fired, 2 when it is lost or
was never armed, 1 once the tick of its bound has passed (the model's reading of R262 beside R261's >=: log entry 93), and
waits until then. -/
def Obligations.FencesAndMonitors : Prop := Claims.FenceOrders ∧ Claims.Monitors

/-- R206, R247, R249, R250: a write-back or a drop of an agent's copy changes the line's directory entry as the table says
for the holder that asks, and no value; home may forget an entry in E or M; the sweep re-bases stamps that fell far behind; a
core and its die may drop a translation. Each of these completes in every state; one by an agent that does not hold the line,
or that nothing calls for, changes nothing (the model's reading of an event that is not due: log entry 58). -/
def Obligations.DirectoryAndSweep : Prop :=
  (∀ (s : State) (agent line : Nat),
    let d := s.dir line
    let holds := d.holders.any (fun h => h.1 == agent) = true
    let owner := d.holders.head?.map (·.1) = some agent
    let rest := d.holders.filter fun h => h.1 != agent
    let gone : Dir := { d with st := .none, holders := [], dropped := false }
    let left : Dir := { d with st := if rest.isEmpty then .none else .shared, holders := rest }
    let changesEntry (i : Instr) : Prop := ∃ t, exec i s = .next t ∧ t = { s with dirs := t.dirs }
    (∀ i ∈ [Instr.putm agent line, .puto agent line],
      changesEntry i ∧
      (holds → (d.st = .shared ∨ d.st = .exclusive ∨ d.st = .modified ∨ d.st = .priv) →
        exec i s = .next (s.putDir line gone)) ∧
      (owner → d.st = .owned → exec i s = .next (s.putDir line left)) ∧
      (¬ holds → exec i s = .next s)) ∧
    (∀ i ∈ [Instr.puts agent line, .pute agent line],
      changesEntry i ∧
      (holds → d.st = .shared → exec i s = .next (s.putDir line left)) ∧
      (holds → (d.st = .exclusive ∨ d.st = .modified ∨ d.st = .priv) → exec i s = .next (s.putDir line gone)) ∧
      (holds → d.st = .owned → ¬ owner → exec i s = .next (s.putDir line { d with holders := rest })) ∧
      (¬ holds → exec i s = .next s)) ∧
    ((d.st = .exclusive ∨ d.st = .modified) → d.dropped = false →
      exec (.directoryEntryDrop line) s = .next (s.putDir line { d with dropped := true })) ∧
    (¬ ((d.st = .exclusive ∨ d.st = .modified) ∧ d.dropped = false) → exec (.directoryEntryDrop line) s = .next s)) ∧
  (∀ (s : State) (line : Nat), ∃ t, exec (.droverSweep line) s = .next t ∧ t = { s with stamps := t.stamps } ∧
    (tabGet s.stamps line = none → t = s)) ∧
  (∀ (s : State) (core : Nat), ∃ t, exec (.vfloorRebase core) s = .next t ∧ t = { s with wcores := t.wcores }) ∧
  (∀ (s : State) (line : Nat) (x : Stamp), tabGet s.stamps line = some x →
    let based := (s.gtick % 2 ^ 20 + 2 ^ 20 - 2 ^ 17) % 2 ^ 20
    (FarBehind s x.rts → exec (.droverSweep line) s = .next (s.putStamp line ⟨based, based⟩)) ∧
    (¬ FarBehind s x.rts → x.rts < 2 ^ 20 → exec (.droverSweep line) s = .next s)) ∧
  (∀ (s : State) (core : Nat),
    (FarBehind s (s.wcore core).vfloor → ∃ w, exec (.vfloorRebase core) s = .next (s.putW core w) ∧
      w.vfloor = (s.gtick % 2 ^ 20 + 2 ^ 20 - 2 ^ 17) % 2 ^ 20 ∧ (∀ c ∈ w.l1, ¬ FarBehind s c.rts) ∧
      w = { s.wcore core with vfloor := w.vfloor, seen := w.seen, l1 := w.l1 }) ∧
    (¬ FarBehind s (s.wcore core).vfloor → (s.wcore core).vfloor < 2 ^ 20 →
      exec (.vfloorRebase core) s = .next s)) ∧
  ∀ (s : State) (core space va : Nat), ∃ t, exec (.translationDrop core space va) s = .next t ∧
    let stays (e : Tlb) : Bool := !((e.glob || e.space == space) && va / 2 ^ e.bits == e.vbase)
    t.tlbOf core = (s.tlbOf core).filter stays ∧ t.dtlbOf (dieOf core) = (s.dtlbOf (dieOf core)).filter stays ∧
    t = { s with wcores := t.wcores, lcores := t.lcores, dtlb := t.dtlb }


/-! ### Copy jobs and storage streams (R263 to R288, R420) -/

namespace Sys2Proof.Claims

open Sys2Proof.Machine

/-- An instruction that submits a job (R263, R264, R277, R282). Once the earlier accesses of the issue's lanes are
performed and its checks pass, a lane's job is accepted at once where its engine has room and no submission is before
it, and the handle is its result; otherwise the job waits at its engine, and the lane goes on with the handle once
JOB_ACCEPT has accepted it. A store that an error lost raises MCHK at the submission, which is a release (R277, R397). -/
def Submits (i : Instr) (r : OpRule) (f : Fields) (engine : State → Job → Nat) (check : State → Lane → Chk Job) : Prop :=
  Runs i r f true false
    (fun s l =>
      (∃ h, l.thread.wait = .accepted h) ∨
      l.thread.wait ≠ .submitted ∧ l.thread.lost = none ∧ s.groupPerformed = true ∧
        ∃ k j, check s l = .ok k j ∧ k.acceptsNow (engine s j) j = true)
    (fun k l =>
      match l.thread.wait with
      | .accepted h =>
        k.putThread ({ l with thread := { l.thread with wait := .none } }.got r f true h)
      | _ =>
        match check k l with
        | .ok k' j =>
          ((k'.acceptJob (engine k j) j).setReg l.tid f.rd
            ⟨BitVec.ofNat 64 (k'.nextHandle (engine k j)), true, l.poison⟩).advance l.tid f true
        | _ => k) (fun _ _ => 0) ∧
  WaitsAlone i r f true false (fun s l =>
    l.thread.wait = .submitted ∨
      (∀ h, l.thread.wait ≠ .accepted h) ∧ l.thread.lost = none ∧ s.groupPerformed = false) ∧
  TrapsAlone i r f true false (fun s l =>
    match l.thread.wait with
    | .accepted _ | .submitted => none
    | _ =>
      match l.thread.lost with
      | some v => some ⟨.mchk, v, true⟩
      | none =>
        if s.groupPerformed then
          match check s l with
          | .trap k tr => if k = s then some tr else none
          | _ => none
        else none) false ∧
  ∀ s n t k j, PortsReady s r f true false [(n, t)] →
    let l := s.laneOf r f [(n, t)] (n, t)
    t.wait ≠ .submitted → (∀ h, t.wait ≠ .accepted h) → t.lost = none → s.groupPerformed = true → check s l = .ok k j →
    k.acceptsNow (engine s j) j = false → exec i s = .next (k.submit (engine s j) j).block

/-- The job of a TCPY: its card, checked in the order of R272. -/
def copyJob (f : Fields) (k : State) (l : Lane) : Chk Job :=
  (checkCard k l.thread k.cur.core (addressOf f l)).bind fun k c =>
    .ok k { l.thread.newJob k (.copy c.card) c.reads c.writes with
      stmp := c.card.stmp
      stampVa := c.card.stamp
      stampPa := c.stampPa
      seq := c.card.seq }

/-- The status word of R284 for a process: fpage, err and state, or 7. -/
def jobWord (s : State) (pid : Nat) (h : Word) : Word :=
  match s.jobs.find? fun j => j.handle == h.toNat with
  | some j =>
    if j.pid = pid ∧ (tabGet s.serials (j.handle / 2 ^ 48)).getD 0 ≤ j.handle % 2 ^ 48 + 4096 then
      BitVec.ofNat 64 (j.fpage * 2 ^ 16 + j.err * 2 ^ 8 +
        match j.state with | .queued => 0 | .running => 1 | .done => 2 | .failed => 3)
    else 7
  | none => 7

/-- The job that a status word speaks of. -/
def knownJob (s : State) (pid : Nat) (h : Word) : Option Job :=
  (s.jobs.find? fun j => j.handle == h.toNat).filter fun j =>
    j.pid == pid && decide ((tabGet s.serials (j.handle / 2 ^ 48)).getD 0 ≤ j.handle % 2 ^ 48 + 4096)

/-- The view that a job carries from the release that its acceptance is: its thread's (R277). -/
def viewFor (s : State) (j : Job) : Nat := ((s.thread? j.tid).map s.viewOf).getD j.wstamp

/-- Whether a job is a storage stream (R279). -/
def ofStream (j : Job) : Bool :=
  match j.kind with
  | .sread _ | .swrite _ | .sdealloc _ => true
  | _ => false

/-- A job as its acceptance records it: its handle, its place in the order of acceptance, and its view (R263, R264); a
stream of a port that is down can then only fail (R420). -/
def acceptedAs (s : State) (e : Nat) (j : Job) : Job :=
  { j with
    handle := s.nextHandle e
    num := s.seq
    state := .queued
    wstamp := viewFor s j
    doomed := ofStream j && s.outside.storageDown.contains (e - 0x400) }

/-- A job over: done, or failed with an error of R273, its record otherwise as it was. -/
def Over (s' : State) (j : Job) (err fpage : Nat) : Prop :=
  ∃ k ∈ s'.jobs, k.handle = j.handle ∧ k.state = (if err = 0 then .done else .failed) ∧ k.err = err ∧
    k.fpage = fpage ∧ k.kind = j.kind ∧ k.tid = j.tid ∧ k.pid = j.pid

end Sys2Proof.Claims

/-- R263, R264, R272, R283: TCPY, with its job card; a misaligned card traps first. An acceptance gives the job its
handle and its place in the order of acceptance, and changes no thread, memory or bolt. JOB_ACCEPT accepts the first
job that waits at an engine, once it fits and no lower lane of its issue waits at another. -/
def Sys2Proof.Claims.CopySubmission : Prop :=
  (∀ f : Fields, Submits (.tcpy f) rTcpy f
    (fun s _ => if s.cur.core < 144 then s.cur.core else 0x200 + dieOf s.cur.core) (copyJob f)) ∧
  (∀ (s : State) (t : Thread) (core : Nat) (v : Int), v % 128 ≠ 0 →
    ∃ tr, checkCard s t core v = .trap s tr ∧ tr = ⟨.align, BitVec.ofInt 64 v, true⟩) ∧
  (∀ (s : State) (e : Nat) (j : Job),
    let serial := (tabGet s.serials e).getD 0
    let h := e * 2 ^ 48 + serial % 2 ^ 48
    s.nextHandle e = h ∧ acceptedAs s e j ∈ (s.acceptJob e j).jobs ∧
    (s.acceptJob e j).nextSerial e = serial + 1 ∧ (s.acceptJob e j).threads = s.threads ∧
    (s.acceptJob e j).mem = s.mem ∧ (s.acceptJob e j).bolts = s.bolts) ∧
  ∀ (s : State) (e : Nat),
    let ahead (x : Submission) : Prop :=
      ∃ y ∈ s.subq.takeWhile (fun y => y.engine != e), s.before y e x.job.tid = true
    (∀ x, s.subq.find? (fun x => x.engine == e) = some x → s.jobFits e x.job = true → ¬ ahead x →
      ∃ s', exec (.jobAccept e) s = .next s' ∧ acceptedAs s e x.job ∈ s'.jobs ∧
        s'.subq = s.subq.eraseP (fun y => y == x) ∧
        ∀ t, s.thread? x.job.tid = some t → t.tid = x.job.tid →
          s'.thread? t.tid = some { t with wait := .accepted (BitVec.ofNat 64 (s.nextHandle e)) }) ∧
    ((∀ x, s.subq.find? (fun x => x.engine == e) = some x → s.jobFits e x.job = false ∨ ahead x) →
      exec (.jobAccept e) s = .next s)

/-- R284, R285: TCST reads a job's status at once; TWAIT.o waits until its job is over or unknown and gives the same
word, with the job's writes then visible; TWAIT.a waits for the jobs accepted before it and counts those that failed,
once for all its lanes. -/
def Sys2Proof.Claims.JobStatusAndWaits : Prop :=
  ∀ f : Fields,
    Runs (.tcst f) rDst1 f false false (fun _ _ => True)
      (fun k l => k.putThread (l.got rDst1 f false (jobWord k l.thread.pid l.a))) (fun _ _ => 0) ∧
    Runs (.twaitO f) rDst1 f false false
      (fun s l => ∀ j, knownJob s l.thread.pid l.a = some j → j.state = .done ∨ j.state = .failed)
      (fun k l =>
        match knownJob k l.thread.pid l.a with
        | some j => ((k.acquireView l.tid j.wstamp).setReg l.tid f.rd
            ⟨jobWord k l.thread.pid l.a, true, l.poison⟩).advance l.tid f (touchesPort rDst1 f)
        | none => k.putThread (l.got rDst1 f false 7)) (fun _ _ => 0) ∧
    WaitsAlone (.twaitO f) rDst1 f false false (fun s l =>
      ∃ j, knownJob s l.thread.pid l.a = some j ∧ (j.state = .queued ∨ j.state = .running)) ∧
    ∀ (s : State) (ls : List (Nat × Thread)) (n : Nat) (t : Thread) (rest : List (Nat × Thread)),
      Ready s rDst f false ls → ls = (n, t) :: rest → s.note.blocked = false →
      let mark := match t.wait with | .jobs m => m | _ => s.seq
      let mine := s.jobs.filter fun j =>
        if t.onLatency then j.bolt.isNone && j.tid == t.tid else j.bolt.isSome && j.bolt == t.bolt
      let before := mine.filter fun j => decide (j.num < mark)
      let laterFailed := (mine.filter fun j => decide (mark ≤ j.num) && j.state == .failed && !j.told).length
      let failed := if t.onLatency then t.failed else ((t.bolt.bind s.bolt?).map Bolt.failed).getD 0
      ((∀ j ∈ before, j.state = .done ∨ j.state = .failed) → ∃ s', exec (.twaitA f) s = .next s' ∧
        (∀ p ∈ ls, ∃ u, s'.thread? p.2.tid = some u ∧ u.pc = nextPc f p.2.pc ∧ u.wait = .none ∧
          (f.rd.val ≠ 0 → f.rd.val < 56 →
            u.reg f.rd = ⟨BitVec.ofNat 64 (min (failed - laterFailed) (2 ^ 32 - 1)), true, false⟩) ∧
          ∀ m, m ≠ f.rd.val → u.reg m = p.2.reg m) ∧
        (∀ b bolt, t.onLatency = false → t.bolt = some b → s.bolt? b = some bolt →
          bolt.id = b → (s'.bolt? b).map Bolt.failed = some laterFailed) ∧
        s'.mem = s.mem ∧ (∀ j ∈ before, j.state = .failed → { j with told := true } ∈ s'.jobs) ∧
        s'.jobs.map (fun j => { j with told := false }) = s.jobs.map (fun j => { j with told := false })) ∧
      ((∃ j ∈ before, j.state = .queued ∨ j.state = .running) → ∃ s', exec (.twaitA f) s = .next s' ∧
        s'.note.blocked = true ∧ (∀ p ∈ ls, s'.thread? p.2.tid = some { p.2 with wait := .jobs mark }) ∧
        s' = { s with threads := s'.threads, note := s'.note })

/-- R263, R264, R272, R283: TCPY, with its job card; a misaligned card traps first. An acceptance gives the job its
handle and its place in the order of acceptance, and changes no thread, memory or bolt. JOB_ACCEPT accepts the first
job that waits at an engine, once it fits and no lower lane of its issue waits at another. R284, R285: TCST reads a job's
status at once; TWAIT.o waits until its job is over or unknown and gives the same word, with the job's writes then
visible; TWAIT.a waits for the jobs accepted before it and counts those that failed, once for all its lanes. -/
def Obligations.CopySubmissionAndWaits : Prop := Claims.CopySubmission ∧ Claims.JobStatusAndWaits

/-- R278, R286: THDL.b binds a tile handle to a checked template with its buffers empty, and THDL.u unbinds it, each
once every queued use has read its buffer; a latency core traps NEEDW, with the address as trapval, which is the model's
choice (log entry 10), and a number out of range PROT. -/
def Sys2Proof.Claims.TileHandles : Prop :=
  ∀ f : Fields,
    let bolt (s : State) (l : Lane) : Option Bolt := if l.thread.onLatency then none else l.thread.bolt.bind s.bolt?
    let handle (l : Lane) : Nat := l.b.toNat % 16
    let buffers (l : Lane) : Nat := l.b.toNat / 16 % 4
    Runs (.thdlB f) rThdl f false false
      (fun s l => ∃ b k c, bolt s l = some b ∧ checkCard s l.thread s.cur.core (addressOf f l) = .ok k c ∧
        l.b.toNat / 64 = 0 ∧ 1 ≤ buffers l ∧ buffers l ≤ 2 ∧ templateOk c.card (buffers l) = true ∧
        k.handleBusy b (handle l) = false)
      (fun k l =>
        match bolt k l, checkCard k l.thread k.cur.core (addressOf f l) with
        | some b, .ok k' c =>
          let new : Handle :=
            { card := c.card
              raw := c.raw.map (BitVec.ofNat 64)
              nbuf := buffers l
              offs := List.replicate (buffers l) none
              fills := List.replicate (buffers l) none
              oldest := 0 }
          (k'.modBolt b.id fun b => { b with handles := tabPut b.handles (handle l) new }).advance l.tid f
            (touchesPort rThdl f)
        | _, _ => k) (fun _ _ => 0) ∧
    Runs (.thdlU f) rClfl f false false
      (fun s l => ∃ b, bolt s l = some b ∧ 0 ≤ addressOf f l ∧ addressOf f l < 16 ∧
        s.handleBusy b (addressOf f l).toNat = false)
      (fun k l =>
        match bolt k l with
        | some b =>
          (k.modBolt b.id fun b => { b with handles := tabDel b.handles (addressOf f l).toNat }).advance l.tid f
            (touchesPort rClfl f)
        | none => k) (fun _ _ => 0) ∧
    TrapsAlone (.thdlB f) rThdl f false false (fun s l =>
      if (bolt s l).isNone then some ⟨.needw, BitVec.ofInt 64 (addressOf f l), false⟩ else none) false ∧
    TrapsAlone (.thdlU f) rClfl f false false (fun s l =>
      if (bolt s l).isNone then some ⟨.needw, BitVec.ofInt 64 (addressOf f l), false⟩
      else if addressOf f l < 0 ∨ 16 ≤ addressOf f l then some ⟨.prot, BitVec.ofInt 64 (addressOf f l), false⟩
      else none) false

/-- R269, R273 to R276: a copy engine's job starts once no earlier job of its engine that it overlaps and no guard of
the array holds it up, and reads its source; it retires once its writes are performed; it fails with the error it
meets. A copy within an allotment that has read no chunk
earlier moves every byte of its rows, as they stood when it started. -/
def Sys2Proof.Claims.CopyJobs : Prop :=
  (∀ (s : State) (j : Job) (c : Card), s.jobs.find? (fun x => x.handle == j.handle) = some j → j.kind = .copy c →
    (j.state = .queued → s.heldUp j = false → s.guardsJob j = false →
      (∀ k out, c.run s j = .ok k out →
        exec (.jobStart j.handle) s = .next
          (k.putJob { j with state := .running, out, wstamp := stampMax j.wstamp k.now })) ∧
      (∀ k j' err va, c.run s j = .fail k j' err va →
        exec (.jobFail j.handle) s = .next (k.finishJob { j' with wstamp := stampMax j'.wstamp k.now } err va) ∧
        exec (.jobStart j.handle) s = .next s)) ∧
    (j.state = .queued → (s.heldUp j = true ∨ s.guardsJob j = true) → exec (.jobStart j.handle) s = .next s) ∧
    (j.state = .running → s.guardsJob j = false →
      (∀ k j', (∀ ch ∈ j.out, jobNeedsXfer s j ch = none) → jobWrites s j j.out = .ok k j' →
        exec (.jobRetire j.handle) s = .next (k.finishJob j' 0 0)) ∧
      (∀ k j' err va, jobWrites s j j.out = .fail k j' err va →
        exec (.jobFail j.handle) s = .next (k.finishJob j' err va))) ∧
    (j.state ≠ .queued → exec (.jobStart j.handle) s = .next s) ∧
    (j.state ≠ .running → exec (.jobRetire j.handle) s = .next s)) ∧
  (∀ (s : State) (j : Job) (err va : Nat), s.jobs.find? (fun x => x.handle == j.handle) = some j →
    Over (s.finishJob j err va) j err (if 1 ≤ err ∧ err ≤ 4 then va / 2 ^ 16 % 2 ^ 41 else 0) ∧
    (j.stmp = true → PlainRange s j.stampPa 8 → Memory.wf s.mem = true →
      Holds s.mem (s.finishJob j err va).mem j.stampPa
        (leBytes 8 (j.seq.toNat % 2 ^ 63 + if err = 0 then 0 else 2 ^ 63))) ∧
    (j.stmp = false → (s.finishJob j err va).mem = s.mem)) ∧
  ∀ (s : State) (j : Job) (c : Card) (b : Bolt), s.jobs.find? (fun x => x.handle == j.handle) = some j →
    j.kind = .copy c → j.state = .queued → s.heldUp j = false → s.guardsJob j = false → j.stmp = false → j.early = [] →
    c.op = 0 → c.swb = 0 → c.satt = 0 → c.sspace = 1 → c.dspace = 1 → c.cols ≤ c.dpitch →
    c.src.toNat + c.rows * c.spitch + c.cols ≤ 2 ^ 21 → c.dst.toNat + c.rows * c.dpitch + c.cols ≤ 2 ^ 21 →
    j.spBolts.head? = some (some b.id) → s.bolt? b.id = some b → b.bstate ≠ .done → Memory.wf b.spad = true →
    ∃ s1 s2 b', exec (.jobStart j.handle) s = .next s1 ∧ exec (.jobRetire j.handle) s1 = .next s2 ∧
      Over s2 j 0 0 ∧ s2.bolt? b.id = some b' ∧
      (∀ r x, r < c.rows → x < c.cols →
        memByte b'.spad (c.dst.toNat + r * c.dpitch + x) = memByte b.spad (c.src.toNat + r * c.spitch + x)) ∧
      (∀ a, (∀ r, r < c.rows → a < c.dst.toNat + r * c.dpitch ∨ c.dst.toNat + r * c.dpitch + c.cols ≤ a) →
        memByte b'.spad a = memByte b.spad a) ∧ s2.mem = s.mem

/-- R278, R286: THDL.b binds a tile handle to a checked template with its buffers empty, and THDL.u unbinds it, each
once every queued use has read its buffer; a latency core traps NEEDW, with the address as trapval (log entry 10), and a
number out of range PROT. R269, R273 to R276: a copy engine's job starts once no earlier job of its engine that it overlaps and no guard of the array holds
it up, and reads its source; it retires once its writes are performed; it fails with the error it meets. A copy
within an allotment that has read no chunk earlier moves every byte of its rows, as they stood when it started. -/
def Obligations.TileHandlesAndCopyJobs : Prop := Claims.TileHandles ∧ Claims.CopyJobs

/-- R273, R279 to R281, R287, R288, R420: SIO and SFLU submit to the unit of their port; a drive's answer, a link that
goes down, under which every stream of its port can only fail, or comes back, and the end of each stream and flush. An event
that is not due changes nothing (the model's reading: log entry 58). -/
def Obligations.StorageStreams : Prop :=
  (∀ f : Fields,
    (∀ e ∈ [(Instr.sioR f, SioOp.read), (.sioW f, .write), (.sioD f, .dealloc)],
      Submits e.1 rMarm f (fun _ j => 0x400 + (j.scard?.map SCard.port).getD 0)
        (fun k l => checkStream k l.thread k.cur.core e.2 (addressOf f l))) ∧
    Submits (.sflu f) rDst2 f (fun _ j => 0x400 + (j.scard?.map SCard.port).getD 0)
      (fun k l => checkFlush k l.thread k.cur.core l.a l.b)) ∧
  (∀ (s : State) (t : Thread) (core : Nat) (op : SioOp) (v : Int), v % 128 ≠ 0 →
    ∃ tr, checkStream s t core op v = .trap s tr ∧ tr = ⟨.align, BitVec.ofInt 64 v, true⟩) ∧
  (∀ (s : State) (port : Nat), ∃ s', exec (.storageLinkDown port) s = .next s' ∧
    (∀ p, p ∈ s'.outside.storageDown ↔ p ∈ s.outside.storageDown ∨ port < 4 ∧ p = port) ∧
    s'.jobs = (if port < 4 then s.jobs.map fun j =>
        if ofStream j ∧ streamEngine j = 0x400 + port ∧ j.state ≠ .done ∧ j.state ≠ .failed then { j with doomed := true }
        else j
      else s.jobs) ∧
    s' = { s with outside := s'.outside, jobs := s'.jobs }) ∧
  (∀ (s : State) (port : Nat), ∃ s', exec (.storagePortRetrain port) s = .next s' ∧
    (∀ p, p ∈ s'.outside.storageDown ↔ p ∈ s.outside.storageDown ∧ p ≠ port) ∧ s' = { s with outside := s'.outside }) ∧
  ∀ (s : State) (j : Job), s.jobs.find? (fun x => x.handle == j.handle) = some j →
    let up := j.doomed = false ∧ s.outside.storageDown.contains (streamEngine j - 0x400) = false
    (∀ ok bs data, (j.state = .running ∧ j.drive = none ∧ up ∧ answerFits j ok bs data = true →
        exec (.nvmeCompletion j.handle ok bs data) s =
          .next (s.putJob { j with drive := some (ok, bs, j.blocks bs data) })) ∧
      (¬ (j.state = .running ∧ j.drive = none ∧ up ∧ answerFits j ok bs data = true) →
        exec (.nvmeCompletion j.handle ok bs data) s = .next s)) ∧
    (∀ ok, (j.kind = .flush → j.state = .running →
        exec (.flushComplete j.handle ok) s = .next (s.finishJob j (if ok then 0 else 7) 0)) ∧
      (¬ (j.kind = .flush ∧ j.state = .running) → exec (.flushComplete j.handle ok) s = .next s)) ∧
    (∀ c bs data, j.kind = .sdealloc c → j.state = .running → up → j.drive = some (true, bs, data) →
      ∃ s', exec (.streamComplete j.handle) s = .next s' ∧ Over s' j 0 0) ∧
    (∀ c bs data, j.kind = .swrite c → j.state = .running → up → j.drive = some (true, bs, data) →
      let n := ((j.out.head?.map Chunk.bytes).getD []).length + if c.cipher = 1 then 16 else 0
      (n ≤ c.nblk * bs → ∃ s', exec (.streamComplete j.handle) s = .next s' ∧ Over s' j 0 0 ∧
        (PlainRange s (j.stampPa + 8) 8 → PlainRange s j.stampPa 8 → Memory.wf s.mem = true → s.traces = [] →
          j.stmp = true →
          memBytes s'.mem (j.stampPa + 8) 8 = leBytes 8 n ∧
          memBytes s'.mem j.stampPa 8 = leBytes 8 (j.seq.toNat % 2 ^ 63))) ∧
      (c.nblk * bs < n → s.heldUp j = false → ∃ s', exec (.streamFail j.handle 6) s = .next s' ∧ Over s' j 6 0)) ∧
    (∀ c bs data, j.kind = .sread c → j.state = .running → up → j.drive = some (true, bs, data) →
      ∀ out, c.decode bs data = .ok out →
        let left := c.chunk j.begun (out.drop j.begun)
        jobNeedsXfer s j left = none → ∀ k j', jobWrite s j left = .ok k j' → j'.handle = j.handle → k.jobs = s.jobs →
          j' = { j with wstamp := j'.wstamp } →
          ∃ s', exec (.streamComplete j.handle) s = .next s' ∧ Over s' j 0 0) ∧
    (∀ c, (j.kind = .sread c ∨ j.kind = .swrite c ∨ j.kind = .sdealloc c) → (j.state = .queued ∨ j.state = .running) →
      s.heldUp j = false → ¬ up → (∀ x, j.zeros 7 = some x → jobNeedsXfer s j x = none) →
      ∃ s', exec (.streamFail j.handle 7) s = .next s' ∧ Over s' j 7 0) ∧
    ((j.state = .done ∨ j.state = .failed) → exec (.streamComplete j.handle) s = .next s ∧
      ∀ err, exec (.streamFail j.handle err) s = .next s)


/-! ### The matrix array and the crook (R121 to R129, R278, R290 to R317) -/

namespace Sys2Proof.Claims

open Sys2Proof.Machine

/-- A group of lanes of bolt b at an instruction of the matrix group that nothing stops (R291, R308): n and t are the
lowest lane, whose registers alone are read; every lane's rd is full. -/
structure AtArray (s : State) (r : OpRule) (f : Fields) (b : Bolt) (ls : List (Nat × Thread)) (n : Nat) (t : Thread) :
    Prop where
  group : LaneGroup s ls
  first : ls.head? = some (n, t)
  lane : LaneReady s r f false t
  ports : touchesPort r f = false
  targets : ∀ p ∈ ls, ∀ m ∈ writeRegs r f, (p.2.reg m).full = true
  cores : ∀ p ∈ ls, p.2.onLatency = false
  bolt : t.bolt = some b.id
  held : s.bolt? b.id = some b

/-- The lanes of a quarter operation stand in one quarter (R291). -/
def InQuarter (quarters : Bool) (ls : List (Nat × Thread)) (n : Nat) : Prop :=
  quarters = true → n < 32 ∧ ∀ p ∈ ls, p.1 / 8 = n / 8

/-- What a matrix instruction leaves that completes at once: an effect, and every lane past the instruction, with a
result where it has one. -/
def MatrixActs (i : Instr) (r : OpRule) (f : Fields) (need : State → Bolt → Lane → Prop)
    (eff : State → Bolt → Lane → State) (got : State → Bolt → Lane → Option Word) : Prop :=
  ∀ s b ls n t, AtArray s r f b ls n t → b.pack = false → need s b (readLane r f n t []) →
    exec i s = .next ((eff s b (readLane r f n t [])).putThreads (ls.map fun p =>
      match got s b (readLane r f n t []) with
      | some v => p.2.got f false v
      | none => p.2.past f false)).bump

/-- A matrix instruction whose lanes wait. -/
def MatrixWaits (i : Instr) (r : OpRule) (f : Fields) (why : State → Bolt → Lane → Prop) : Prop :=
  ∀ s b ls n t, AtArray s r f b ls n t → b.pack = false → why s b (readLane r f n t []) →
    exec i s = .next s.block.bump

/-- The traps of a matrix instruction (R291): every lane takes the lowest lane's. A pack bolt's lanes trap CROOK, and
one on a latency core NEEDW (R308). -/
def MatrixTraps (i : Instr) (r : OpRule) (f : Fields) (quarters : Bool) (why : State → Bolt → Lane → Option Trap) :
    Prop :=
  (∀ s b ls n t tr, AtArray s r f b ls n t → InQuarter quarters ls n →
    (if b.pack then some ⟨.crook, 0, false⟩ else why s b (readLane r f n t [])) = some tr →
    exec i s = .next (ls.foldl (fun k p => takeTrap k p.2.tid f tr false false) s).bump) ∧
  ∀ s n t, Ready s r f false [(n, t)] → t.onLatency = true → n < 32 →
    (∀ v, trapWaits s t.tid ⟨.needw, v, false⟩ = false) →
    ∃ v, exec i s = .next (takeTrap s.bumpFresh t.tid f ⟨.needw, v, false⟩ false false).bump

/-- The stage of a weft (R19). -/
def stageOf (b : Bolt) (l : Lane) : Nat := l.thread.weft % b.nstage

/-- The array of a core with an operation accepted (R296). -/
def accepting (s : State) (b : Bolt) (weft slice : Nat) (kind : ArrKind) : ArrOp :=
  { id := s.seq
    bolt := b.id
    widx := weft
    stage := weft % b.nstage
    pid := b.pid
    slice
    cycle := (s.wcore b.core).cyc
    kind
    data := none }

/-- The state with an operation accepted. -/
def withOp (s : State) (b : Bolt) (weft slice : Nat) (kind : ArrKind) : State :=
  let w := s.wcore b.core
  (s.putW b.core { w with aq := w.aq ++ [accepting s b weft slice kind] }).bump

/-- A whole tile that may be read at a scratchpad address (R121 to R123, R275, R309). -/
def TileAt (s : State) (b : Bolt) (v : Int) (buf : Option (Nat × Nat)) (t : Tile) : Prop :=
  ∃ m, 0 ≤ v ∧ v < 2 ^ 23 ∧ v % 64 = 0 ∧ s.foldBolt b (v.toNat / 2 ^ 21) = some m ∧
    let o := v.toNat % 2 ^ 21
    let header := leNat (memBytes m.spad o 64)
    let depth := header / 2 ^ 8 % 2 ^ 8
    headerOk header = true ∧ o + (704 + 512 * depth) ≤ 2048 * m.rows ∧ s.scoreboard m.id o 64 = false ∧
    s.scoreboard m.id o (704 + 512 * depth) = false ∧ m.poisoned o 64 = false ∧
    t = ⟨m.id, o, v.toNat, depth, buf, none⟩

/-- The tile of an operand (R278, R292): at its address, or in the first buffer of its handle that holds its offset,
once the fill of the buffer has retired; a failed fill leaves a tile of zero groups. -/
def OperandTile (s : State) (b : Bolt) (byHandle : Bool) (h : Nat) (v : Int) (t : Tile) : Prop :=
  if byHandle then
    ∃ x j, tabGet b.handles h = some x ∧ x.hit v = some j ∧
      let place := x.card.dst.toNat + j * x.card.dpitch
      match (x.fills[j]?).getD none with
      | none => TileAt s b place (some (h, j)) t
      | some id => (∀ job, s.job? id = some job → job.retired = true) ∧
          t = ⟨b.id, place % 2 ^ 21, place, x.card.depth, some (h, j), some id⟩
  else TileAt s b v none t

/-- A word of a use of a handle (R292): its handle and its source offset. -/
def useOf (v : Word) : Nat × Int := (v.toNat % 16, ((v.toNat / 256 : Nat) : Int) - if 2 ^ 63 ≤ v.toNat then 2 ^ 56 else 0)

/-- The lowest lane of a weft that shares an operation's outcome is the one that issues it (R291). -/
def LeadsWeft (s : State) (quarters : Bool) (w : Weft) (n : Nat) (t : Thread) : Prop :=
  ∃ rest, w.members.filter (fun p => (!quarters || p.1 / 8 == n / 8) &&
    ((s.thread? p.2).map fun u => u.active && u.pc == t.pc).getD false) = (n, t.tid) :: rest

/-- An instruction that the array accepts at once, where no operation of its weft waits (R294, R296). -/
def Accepts (i : Instr) (r : OpRule) (f : Fields) (quarters : Bool)
    (op : State → Bolt → Lane → Nat → ArrKind → Prop) : Prop :=
  ∀ s b ls n t core slot lane w slice kind, AtArray s r f b ls n t → b.pack = false → InQuarter quarters ls n →
    t.loc = .member core slot lane → s.weft? b.core slot = some w → w.widx = t.weft → w.waitQ = [] →
    LeadsWeft s quarters w n t → op s b (readLane r f n t []) slice kind → slice < b.nslice →
    (s.wcore b.core).aq.length < 32 →
    ∃ s', exec i s = .next s' ∧
      (s'.wcore b.core).aq = (s.wcore b.core).aq ++ [accepting s b t.weft slice kind] ∧
      (s'.weft? b.core slot).map Weft.waitQ = some [] ∧
      (s'.wcore b.core).crook =
        (if quarters then { (s.wcore b.core).crook with lastAcc := some (s.wcore b.core).cyc } else (s.wcore b.core).crook) ∧
      s'.threads = (s.putThreads (ls.map fun p => p.2.past f false)).threads ∧ s'.mem = s.mem ∧ s'.vmem = s.vmem ∧
      s'.bolts = s.bolts ∧ s'.jobs = s.jobs

/-- A quarter operation whose tiles are readable (R292): its slice, its A tile and the four tiles of its B set. A use of
handles as B takes its offset from the register alone, which is the model's reading of R292 (log entry 91). -/
def QuarterTiles (f : Fields) (sparse : Bool) (s : State) (b : Bolt) (l : Lane) (slice : Nat) (kind : ArrKind) : Prop :=
  let ha := f.mod.getLsbD 0
  let hb := f.mod.getLsbD 1
  l.c.toNat < 16 ∧ slice = f.rd.val + l.c.toNat ∧
  (ha = true → l.a.toNat / 16 % 16 = 0) ∧ (hb = true → l.b.toNat / 16 % 16 = 0 ∧ l.b.toNat % 16 ≤ 12) ∧
  ∃ a t0 t1 t2 t3, kind = .quarter a [t0, t1, t2, t3] sparse ∧
    OperandTile s b ha (useOf l.a).1 (if ha then (useOf l.a).2 + f.imm.toInt else l.a.toInt + f.imm.toInt) a ∧
    (∀ x ∈ [(0, t0), (1, t1), (2, t2), (3, t3)], x.2.depth = t0.depth ∧
      OperandTile s b hb ((useOf l.b).1 + x.1)
        (if hb then (useOf l.b).2 else l.b.toInt + (x.1 * (704 + 512 * t0.depth) : Nat)) x.2)

/-- A quarter operation that the crook holds (R301) and whose tiles are readable. -/
def QuarterOp (f : Fields) (sparse : Bool) (s : State) (b : Bolt) (l : Lane) (slice : Nat) (kind : ArrKind) : Prop :=
  (s.wcore b.core).crook.holder = some (b.id, stageOf b l) ∧ QuarterTiles f sparse s b l slice kind

/-- The range, address, pitch and slice of MLDA and MSTA on elements of z bytes (R311). -/
def Moves (f : Fields) (z : Nat) (s : State) (b : Bolt) (l : Lane) (slice : Nat) (range : SpRange) (addr pitch : Nat) :
    Prop :=
  let v := addressOf f l
  let w := l.b.toNat
  v % 16 = 0 ∧ w < 2 ^ 20 ∧ w % 2 ^ 16 % 16 = 0 ∧ 128 * z ≤ w % 2 ^ 16 ∧ 0 ≤ v ∧ v < 2 ^ 23 ∧ addr = v.toNat ∧
  pitch = w % 2 ^ 16 ∧ slice = f.rd.val + w / 2 ^ 16 ∧
  ∃ m, s.foldBolt b (v.toNat / 2 ^ 21) = some m ∧
    range = ⟨m.id, v.toNat % 2 ^ 21, v.toNat % 2 ^ 21 + (31 * pitch + 128 * z)⟩ ∧ range.hi ≤ 2048 * m.rows ∧
    s.scoreboard m.id range.lo (31 * pitch + 128 * z) = false

/-- The traps of MLDA and MSTA (R311). -/
def moveTrap (f : Fields) (z : Nat) (s : State) (b : Bolt) (l : Lane) : Option Trap :=
  let v := addressOf f l
  let w := l.b.toNat
  let p := w % 2 ^ 16
  if v % 16 ≠ 0 then some ⟨.align, BitVec.ofInt 64 v, false⟩
  else if 2 ^ 20 ≤ w ∨ p % 16 ≠ 0 ∨ p < 128 * z then some ⟨.prot, l.b, false⟩
  else if v < 0 ∨ 2 ^ 23 ≤ v ∨
      ((s.foldBolt b (v.toNat / 2 ^ 21)).map fun m =>
        decide (v.toNat % 2 ^ 21 + (31 * p + 128 * z) ≤ 2048 * m.rows)).getD false = false then
    some ⟨.prot, BitVec.ofInt 64 v, false⟩
  else if b.nslice ≤ f.rd.val + w / 2 ^ 16 then some ⟨.prot, BitVec.ofNat 64 (f.rd.val + w / 2 ^ 16), false⟩
  else none

/-- The trap of a tile's address where an instruction issues (R183 for 64 bytes at a multiple of 64, R309). -/
def tileStop (s : State) (b : Bolt) (v : Int) : Option Trap :=
  if v < 0 ∨ 2 ^ 23 ≤ v then some ⟨.prot, BitVec.ofInt 64 v, false⟩
  else if v % 64 ≠ 0 then some ⟨.align, BitVec.ofInt 64 v, false⟩
  else if ((s.foldBolt b (v.toNat / 2 ^ 21)).map fun m => decide (v.toNat % 2 ^ 21 + 64 ≤ 2048 * m.rows)).getD false then
    none
  else some ⟨.prot, BitVec.ofInt 64 v, false⟩

/-- The trap of a tile once its header may be read, from the rows of R309 that say so: an address that names no tile, a
poisoned header word, a header invalid or a tile beyond its allotment. -/
def headerTrap (s : State) (b : Bolt) (v : Int) : Option Trap :=
  if tileStop s b v ≠ none then some ⟨.prot, BitVec.ofInt 64 v, false⟩
  else
    (s.foldBolt b (v.toNat / 2 ^ 21)).bind fun m =>
      let o := v.toNat % 2 ^ 21
      let header := leNat (memBytes m.spad o 64)
      if s.scoreboard m.id o 64 then none
      else if m.poisoned o 64 then some ⟨.poison, BitVec.ofInt 64 v, false⟩
      else if headerOk header = false ∨ 2048 * m.rows < o + (704 + 512 * (header / 2 ^ 8 % 2 ^ 8)) then
        some ⟨.prot, BitVec.ofInt 64 v, false⟩
      else none

/-- The trap of MMQ and MMQS where they issue, the first of R309's rows that applies. -/
def quarterTrap (f : Fields) (s : State) (b : Bolt) (l : Lane) : Option Trap :=
  let c := (s.wcore b.core).crook
  let unbound (h : Nat) : Bool := (tabGet b.handles h).isNone
  if c.holder.map (·.1) ≠ some b.id ∧ ∀ x ∈ c.claims, x.1 ≠ b.id then some ⟨.crook, s.crookStatus b, false⟩
  else if 16 ≤ l.c.toNat then some ⟨.prot, l.c, false⟩
  else if b.nslice ≤ f.rd.val + l.c.toNat then some ⟨.prot, BitVec.ofNat 64 (f.rd.val + l.c.toNat), false⟩
  else
    let ofA := if f.mod.getLsbD 0 then
        if l.a.toNat / 16 % 16 ≠ 0 ∨ unbound (l.a.toNat % 16) = true then some ⟨.prot, l.a, false⟩ else none
      else tileStop s b (l.a.toInt + f.imm.toInt)
    match ofA with
    | some tr => some tr
    | none =>
      if f.mod.getLsbD 1 then
        let h := l.b.toNat % 16
        if l.b.toNat / 16 % 16 ≠ 0 ∨ 12 < h ∨ ∃ t ∈ List.range 4, unbound (h + t) = true then some ⟨.prot, l.b, false⟩
        else none
      else tileStop s b l.b.toInt

/-- Where an operand of a waiting quarter stands: at its address, or in the buffer of its handle that it has been given,
whose fill has retired (R278, R292). -/
def PlaceOf (b : Bolt) (o : Opnd) (v : Int) (buf : Option (Nat × Nat)) : Prop :=
  (∃ a : Nat, o = .spad a ∧ v = a ∧ buf = none) ∨
  ∃ h x j hd, o = .use h x (some j) ∧ tabGet b.handles h = some hd ∧ (hd.fills[j]?).getD none = none ∧
    v = (hd.card.dst.toNat + j * hd.card.dpitch : Nat) ∧ buf = some (h, j)

/-- Where the tiles of a B set stand whose first has depth d (R292). -/
def SetAt (b : Bolt) (bs : List Opnd) (d : Nat) (v : Nat → Int) (buf : Nat → Option (Nat × Nat)) : Prop :=
  (∃ a : Nat, bs = [.spad a] ∧ ∀ t < 4, v t = (a + t * (704 + 512 * d) : Nat) ∧ buf t = none) ∨
  ∃ o : Nat → Opnd, (∀ t, ∃ h x j, o t = .use h x j) ∧ bs = [o 0, o 1, o 2, o 3] ∧ ∀ t < 4, PlaceOf b (o t) (v t) (buf t)

/-- The lanes of an issue by quarters, lowest first (R291). -/
def quartersOf (ls : List (Nat × Thread)) : List (List (Nat × Thread)) :=
  ((List.range 4).map fun q => ls.filter fun p => p.1 / 8 == q).filter (· ≠ [])

/-- An issue of MMQ or MMQS in any of its quarters (R57, R291, R304, R309): the quarters follow one another, each by its
leader: one that a check stops traps its lanes, one that is held and readable is accepted, and one that is due waits. -/
def Quarters (i : Instr) (f : Fields) (sparse : Bool) : Prop :=
  ∃ part : List (Nat × Thread) → State → State,
    (∀ s ls, LaneGroup s ls → touchesPort rMmq f = false → (∀ p ∈ ls, p.1 < 32 ∧ LaneReady s rMmq f false p.2) →
      exec i s = .next ((quartersOf ls).foldl (fun k g => part g k) s).bump) ∧
    ∀ (k : State) (b : Bolt) (n : Nat) (t : Thread) (rest : List (Nat × Thread)), touchesPort rMmq f = false →
      LaneReady k rMmq f false t → t.onLatency = false → t.bolt = some b.id → k.bolt? b.id = some b → b.pack = false →
      n < 32 → (∀ p ∈ (n, t) :: rest, k.thread? p.2.tid = some p.2) → (((n, t) :: rest).map fun p => p.2.tid).Nodup →
      let l := readLane rMmq f n t []
      let g := (n, t) :: rest
      let c := k.wcore b.core
      (∀ tr, quarterTrap f k b l = some tr → (∀ p ∈ g, trapWaits k p.2.tid tr = false) →
        part g k = g.foldl (fun k p => takeTrap k p.2.tid f tr false false) k) ∧
      ∀ core slot lane w slice kind, t.loc = .member core slot lane → k.weft? b.core slot = some w → w.widx = t.weft →
        w.waitQ = [] → LeadsWeft k true w n t → slice < b.nslice → c.aq.length < 32 →
        (QuarterOp f sparse k b l slice kind →
          ((part g k).wcore b.core).aq = c.aq ++ [accepting k b t.weft slice kind] ∧
          ((part g k).wcore b.core).crook = { c.crook with lastAcc := some c.cyc } ∧
          (part g k).threads = (k.putThreads (g.map fun p => p.2.past f false)).threads ∧ (part g k).mem = k.mem ∧
          (part g k).bolts = k.bolts) ∧
        (c.crook.holder ≠ some (b.id, stageOf b l) →
          (c.crook.holder.map (·.1) = some b.id ∨ ∃ x ∈ c.crook.claims, x.1 = b.id) →
          QuarterTiles f sparse k b l slice kind →
          ((part g k).wcore b.core).aq = c.aq ∧ (part g k).threads = k.threads ∧ (part g k).note.blocked = true)

/-- The bolt after a quarter operation whose sources have been read (R293). -/
def afterQuarter (b : Bolt) (o : ArrOp) : Bolt :=
  match o.kind, o.data with
  | .quarter a bs _, some (da :: db) => b.quarter o.slice o.widx (a, da) (bs.zip db)
  | _, _ => b

/-- Whether operations of a lane's weft wait for the array or are held by it (R316). -/
def weftWaits (s : State) (b : Bolt) (l : Lane) : Bool :=
  ((s.wcore b.core).aq.any fun o => o.bolt == b.id && o.widx == l.thread.weft) || s.matrixWaits b l.thread.weft

/-- The real number of a dyadic one. -/
noncomputable def realDy (d : Dy) : ℝ := (d.m : ℝ) * (2 : ℝ) ^ d.e

/-- The value of an element of a tile (R121, R124): from its group's code c, its sign and its magnitude's planes. -/
noncomputable def tileReal (d : SpData) (depth i k : Nat) : ℝ :=
  let c := d.byte (64 + 4 * i + k / 32)
  let bit (at_ : Nat) : Nat := d.byte (at_ + 16 * i + k / 8) / 2 ^ (k % 8) % 2
  if c = 0 ∨ c = 255 then 0
  else
    (if bit 192 = 1 then -1 else 1) * ((List.range depth).foldl (fun m j => 2 * m + bit (704 + 512 * j)) 0 : Nat) *
      (2 : ℝ) ^ ((c : Int) - 127 - depth + 1)

/-- The element after an update (R127, R128), from the old element and the exact sum of its products. -/
def Updates (special : Prop) (old : Nat) (p : ℝ) (new : Nat) : Prop :=
  (special → new = 0x7FC00000) ∧
  (¬ special → match fp32.decode old with
    | .nan _ => new = 0x7FC00000
    | .inf _ => new = old
    | x => (p = 0 → new = old) ∧ (p ≠ 0 → ∀ c, realOf x = some c →
        (c + p = 0 → new = 0) ∧ (c + p ≠ 0 → IsRounded fp32 .rne (c + p) new)))

end Sys2Proof.Claims

/-- R19, R90, R291 to R296, R304, R308 to R313, R316: the matrix instructions, each for every lane by its lowest one.
The array accepts a quarter operation that the crook holds and whose tiles are readable, and a load, store or zeroing
whose range no copy in flight meets; the first check that fails traps; MERR waits for its weft's operations. An issue
of MMQ may name several quarters, each with its own outcome. That the displacement is added to the offset of a handle for
A only is the model's reading of R292 (log entry 91), and trapval of NEEDW on a latency core is open (log entry 10). -/
def Obligations.MatrixInstructions : Prop :=
  ∀ f : Fields,
    (∀ e ∈ [(Instr.mmq f, false), (.mmqs f, true)],
      Accepts e.1 rMmq f true (QuarterOp f e.2) ∧ MatrixTraps e.1 rMmq f true (quarterTrap f) ∧ Quarters e.1 f e.2) ∧
    MatrixActs (.mzero f) rMzero f
      (fun s b l => l.a.toNat < 16 ∧ f.rd.val + l.a.toNat < b.nslice ∧ s.matrixWaits b l.thread.weft = false ∧
        (s.wcore b.core).aq.length < 32)
      (fun s b l => withOp s b l.thread.weft (f.rd.val + l.a.toNat) .zero) (fun _ _ _ => none) ∧
    MatrixTraps (.mzero f) rMzero f false (fun _ b l =>
      if 16 ≤ l.a.toNat then some ⟨.prot, l.a, false⟩
      else if b.nslice ≤ f.rd.val + l.a.toNat then some ⟨.prot, BitVec.ofNat 64 (f.rd.val + l.a.toNat), false⟩
      else none) ∧
    (∀ e ∈ [(Instr.mldaF32 f, 4, false), (.mldaBf f, 2, true)],
      (∀ slice range addr pitch, MatrixActs e.1 rMlda f
        (fun s b l => Moves f e.2.1 s b l slice range addr pitch ∧ slice < b.nslice ∧
          s.matrixWaits b l.thread.weft = false ∧ (s.wcore b.core).aq.length < 32)
        (fun s b l => withOp s b l.thread.weft slice (.load range addr pitch e.2.2)) (fun _ _ _ => none)) ∧
      MatrixTraps e.1 rMlda f false (moveTrap f e.2.1)) ∧
    (∀ e ∈ [(Instr.mstaF32 f, 4, 0), (.mstaBf f, 2, 2), (.mstaH f, 2, 1), (.mstaE4 f, 1, 3), (.mstaE5 f, 1, 4)],
      Accepts e.1 rMlda f false (fun s b l slice kind => ∃ range addr pitch,
        Moves f e.2.1 s b l slice range addr pitch ∧ s.storeGuard range.bolt range.lo (range.hi - range.lo) = false ∧
        kind = .store range addr pitch e.2.2) ∧
      MatrixTraps e.1 rMlda f false (moveTrap f e.2.1)) ∧
    MatrixActs (.merrR f) rMerr f (fun s b l => weftWaits s b l = false ∧ l.a.toNat < 8) (fun s _ _ => s)
      (fun _ b l => some (if l.a.toNat < b.merr.toNat % 16 then (b.elog[l.a.toNat]?).getD 0 else 0)) ∧
    MatrixActs (.merrC f) rNone f (fun s b l => weftWaits s b l = false)
      (fun s b _ => s.putBolt { b with merr := 0, elog := List.replicate 8 0 }) (fun _ _ _ => none) ∧
    MatrixTraps (.merrR f) rMerr f false (fun s b l =>
      if weftWaits s b l = false ∧ 8 ≤ l.a.toNat then some ⟨.prot, l.a, false⟩ else none) ∧
    MatrixTraps (.merrC f) rNone f false (fun _ _ _ => none) ∧
    MatrixWaits (.merrR f) rMerr f (fun s b l => weftWaits s b l = true) ∧
    MatrixWaits (.merrC f) rNone f (fun s b l => weftWaits s b l = true)

/-- R278, R293 to R299, R304, R309, R310, R312, R313: the steps of the array. A handle's use without a buffer submits a
fill; a waiting operation is accepted, or traps by the rows of R309 that its tiles' headers decide, when its turn comes; a
pass starts four cycles after its first operation was accepted, with the later quarters that R299 fuses with it, and
performs its operations in order when it ends; loads, stores and zeroings are performed in the order of each slice. -/
def Sys2Proof.Claims.MatrixSteps : Prop :=
  (∀ (s : State) (core slot : Nat) (w : Weft) (b : Bolt) (q : QWait), s.weft? core slot = some w →
    s.bolt? w.bolt = some b → b.evicting = false → w.waitQ = [q] → s.waitStands w q = true →
    ∀ e, e = (match q.kind with
      | .quarter _ _ _ _ => Instr.quarterAccept core slot
      | .store _ _ _ _ => .mstaAccept core slot) →
    (∀ k, s.acceptWait b w.widx q = .ok k →
      exec e s = .next ((doneTids k q.f (s.sharers w q) none).modWeft core slot fun w => w.dequeue q)) ∧
    (∀ tr, s.acceptWait b w.widx q = .trap tr →
      exec e s = .next (((s.sharers w q).foldl (fun k x => takeTrap k x q.f tr false false) s).modWeft core slot
        fun w => w.dequeue q)) ∧
    (s.acceptWait b w.widx q = .wait → exec e s = .next s)) ∧
  (∀ (s : State) (b : Bolt) (widx slice : Nat) (dst : SpRange) (addr pitch fmt : Nat) (leader : Nat) (pc : Word)
      (f : Fields),
    let q : QWait := ⟨leader, pc, f, slice, .store dst addr pitch fmt⟩
    let n := dst.hi - dst.lo
    (s.scoreboard dst.bolt dst.lo n = false → s.storeGuard dst.bolt dst.lo n = false →
      (s.wcore b.core).aq.length < 32 →
      s.acceptWait b widx q = .ok (withOp s b widx slice (.store dst addr pitch fmt))) ∧
    ((s.scoreboard dst.bolt dst.lo n = true ∨ s.storeGuard dst.bolt dst.lo n = true ∨
      32 ≤ (s.wcore b.core).aq.length) → s.acceptWait b widx q = .wait)) ∧
  (∀ (s : State) (b : Bolt) (widx n : Nat) (q : QWait) (sparse : Bool) (oa : Opnd) (bs : List Opnd) (va : Int)
      (ba : Option (Nat × Nat)), q.kind = .quarter n sparse oa bs → PlaceOf b oa va ba →
    (∀ tr, headerTrap s b va = some tr → s.acceptWait b widx q = .trap tr) ∧
    ∀ (ta : Tile) (d : Nat) (v : Nat → Int) (buf : Nat → Option (Nat × Nat)), TileAt s b va ba ta → SetAt b bs d v buf →
      (∀ tr, headerTrap s b (v 0) = some tr → s.acceptWait b widx q = .trap tr) ∧
      ∀ x : Nat → Tile, TileAt s b (v 0) (buf 0) (x 0) → (x 0).depth = d →
        (∀ t, 1 ≤ t → t < 4 → (∀ u, 1 ≤ u → u < t → TileAt s b (v u) (buf u) (x u) ∧ (x u).depth = d) →
          (∀ tr, headerTrap s b (v t) = some tr → s.acceptWait b widx q = .trap tr) ∧
          (TileAt s b (v t) (buf t) (x t) → (x t).depth ≠ d →
            s.acceptWait b widx q = .trap ⟨.prot, BitVec.ofInt 64 (v t), false⟩)) ∧
        ((∀ u, 1 ≤ u → u < 4 → TileAt s b (v u) (buf u) (x u) ∧ (x u).depth = d) →
          let k := withOp s b widx q.slice (.quarter ta [x 0, x 1, x 2, x 3] sparse)
          let held := (s.wcore b.core).crook.holder = some (b.id, widx % b.nstage)
          (held → (s.wcore b.core).aq.length < 32 → s.acceptWait b widx q = .ok (k.putW b.core
            { k.wcore b.core with crook := { (k.wcore b.core).crook with lastAcc := some (s.wcore b.core).cyc } })) ∧
          (¬ held ∨ 32 ≤ (s.wcore b.core).aq.length → s.acceptWait b widx q = .wait))) ∧
  (∀ (s : State) (core slot : Nat) (w : Weft) (b : Bolt) (q : QWait) (n h : Nat) (o : Int) (sparse : Bool)
      (bs : List Opnd) (x : Handle) (t : Thread) (j : Nat),
    s.weft? core slot = some w → s.bolt? w.bolt = some b → b.id = w.bolt → b.evicting = false → w.waitQ = [q] →
    s.waitStands w q = true → q.kind = .quarter n sparse (.use h o none) bs → s.thread? q.leader = some t →
    tabGet b.handles h = some x → x.hit o = none → s.fillBuffer b h x = some j →
    s.performed q.leader = true → s.acceptsNow core (s.fillJob t b h x o j) = true →
    ∃ s' b' job, exec (.handleFill core slot) s = .next s' ∧ job ∈ s'.jobs ∧ job.handle = s.nextHandle core ∧
      job.state = .queued ∧ job.kind = .fill (x.card.forUse o j) b.id h j ∧ s'.bolt? b.id = some b' ∧
      tabGet b'.handles h = some { x with
        offs := x.offs.set j (some o)
        fills := x.fills.set j (some (s.nextHandle core))
        oldest := if x.nbuf = 2 then 1 - j else 0 } ∧
      s'.mem = s.mem ∧ s'.threads = s.threads) ∧
  (∀ (s : State) (core : Nat) (o : ArrOp) (a : Tile) (bs : List Tile) (sparse : Bool) (m : Bolt),
    let c := s.wcore core
    c.aq = [o] → o.kind = .quarter a bs sparse → o.data = none → bs ≠ [] → s.bolt? a.bolt = some m →
    let header := if a.fill = none then leNat (memBytes m.spad a.offset 64) else 0
    let width := if sparse = true ∧ header / 2 ^ 16 % 2 = 1 then header / 2 ^ 24 % 2 ^ 8 else 32
    let len := (16 * ((bs.head?.map Tile.depth).getD 0) * ((a.depth + 7) / 8) * max width 8 + 31) / 32
    (c.pass = none → o.cycle + 4 ≤ c.cyc → c.cluster.nextPass ≤ c.cyc →
      (c.cyc < c.cluster.lastEnd + 256 ∨ c.cluster.burstOk = true) →
      ∃ s', exec (.passStart core) s = .next s' ∧
        (s'.wcore core).pass = some ⟨[o.id], c.cyc, len, 1, o.pid, o.bolt⟩ ∧
        (s'.wcore core).aq = [{ o with data := some ((a :: bs).map s.tileRead) }] ∧
        (s'.wcore core).cluster = { c.cluster with burstOk := false, burstOps := [] } ∧ s'.bolts = s.bolts ∧ s'.mem = s.mem ∧
        s'.threads = s.threads) ∧
    ((c.pass ≠ none ∨ c.cyc < o.cycle + 4 ∨ c.cyc < c.cluster.nextPass ∨
        c.cluster.lastEnd + 256 ≤ c.cyc ∧ c.cluster.burstOk = false) → exec (.passStart core) s = .next s)) ∧
  (∀ (s : State) (core : Nat) (q : ArrOp),
    let c := s.wcore core
    let quarter (o : ArrOp) : Bool := match o.kind with | .quarter _ _ _ => true | _ => false
    let set (o : ArrOp) : List (Nat × Nat × Nat × Option (Nat × Nat)) := match o.kind with
      | .quarter _ bs _ => bs.map fun t => (t.bolt, t.offset, t.depth, t.buf)
      | _ => []
    let free (o : ArrOp) : Bool := quarter o && !(c.aq.any fun x => decide (x.id < o.id) &&
      (x.bolt == o.bolt && x.slice == o.slice || quarter x && !(x.bolt == o.bolt && x.stage == o.stage)))
    let joins (o : ArrOp) : Bool := decide (q.id < o.id) && free o && o.bolt == q.bolt && o.stage == q.stage &&
      set o == set q && decide (o.cycle ≤ q.cycle + 4)
    let group := q :: (c.aq.filter joins).take 7
    c.pass = none → (c.aq.map ArrOp.id).Nodup → c.aq.find? free = some q → q.cycle + 4 ≤ c.cyc →
    c.cluster.nextPass ≤ c.cyc → c.cyc < c.cluster.lastEnd + 256 →
    ∃ s' p, exec (.passStart core) s = .next s' ∧ (s'.wcore core).pass = some p ∧ p.ops = group.map ArrOp.id ∧
      p.start = c.cyc ∧ p.quarters = group.length ∧ p.pid = q.pid ∧ p.bolt = q.bolt ∧
      ((∃ o ∈ group, ∃ a bs, o.kind = .quarter a bs false) →
        let depth (o : ArrOp) : Nat := match o.kind with | .quarter a _ _ => a.depth | _ => 0
        let first := match q.kind with | .quarter _ (t :: _) _ => t.depth | _ => 0
        p.len = 16 * first * ((group.foldl (fun m o => max m (depth o)) 0 + 7) / 8)) ∧
      (∀ o ∈ c.aq, o ∉ group → o ∈ (s'.wcore core).aq) ∧
      (∀ o ∈ group, ∀ a bs sparse, o.kind = .quarter a bs sparse →
        { o with data := some (o.data.getD ((a :: bs).map s.tileRead)) } ∈ (s'.wcore core).aq) ∧
      s'.bolts = s.bolts ∧ s'.mem = s.mem ∧ s'.threads = s.threads) ∧
  (∀ (s : State) (core : Nat) (p : Pass) (b : Bolt),
    let c := s.wcore core
    let group := c.aq.filter fun o => p.ops.contains o.id
    c.pass = some p → p.start + p.len ≤ c.cyc → (c.aq.map ArrOp.id).Nodup → s.bolt? b.id = some b → b.bstate ≠ .done →
    (∀ o ∈ group, o.bolt = b.id ∧ ∃ a bs sparse da db, o.kind = .quarter a bs sparse ∧ o.data = some (da :: db)) →
    ∃ s', exec (.passComplete core) s = .next s' ∧ s'.bolt? b.id = some (group.foldl afterQuarter b) ∧
      (s'.wcore core).aq = c.aq.filter (fun o => !p.ops.contains o.id) ∧ (s'.wcore core).pass = none ∧
      s'.mem = s.mem ∧ s'.threads = s.threads) ∧
  (∀ (s : State) (core : Nat) (p : Pass) (o : ArrOp) (b : Bolt) (a : Tile) (bs : List Tile) (sparse : Bool)
      (da : SpData) (db : List SpData),
    let c := s.wcore core
    c.pass = some p → p.ops = [o.id] → c.aq = [o] → o.kind = .quarter a bs sparse → o.data = some (da :: db) →
    s.bolt? o.bolt = some b → b.id = o.bolt → b.bstate ≠ .done →
    (p.start + p.len ≤ c.cyc → ∃ s', exec (.passComplete core) s = .next s' ∧
      s'.bolt? b.id = some (b.quarter o.slice o.widx (a, da) (bs.zip db)) ∧ (s'.wcore core).aq = [] ∧
      (s'.wcore core).pass = none ∧ (s'.wcore core).cluster.lastEnd = p.start + p.len ∧
      s'.mem = s.mem ∧ s'.threads = s.threads) ∧
    (c.cyc < p.start + p.len → exec (.passComplete core) s = .next s)) ∧
  (∀ (s : State) (core : Nat) (o : ArrOp) (b : Bolt), (s.wcore core).aq = [o] → s.bolt? o.bolt = some b →
    b.id = o.bolt → b.bstate ≠ .done →
    (o.kind = .zero → ∃ s', exec (.mldaPerform core) s = .next s' ∧ s'.bolt? b.id = some (b.zeroSlice o.slice) ∧
      (s'.wcore core).aq = [] ∧ s'.mem = s.mem ∧ s'.threads = s.threads) ∧
    (∀ src addr pitch bf m, o.kind = .load src addr pitch bf → o.data = none → s.bolt? src.bolt = some m →
      ∃ s', exec (.mldaPerform core) s = .next s' ∧
        s'.bolt? b.id = some (b.loadSlice o.slice o.widx (s.spRead src.bolt src.lo (src.hi - src.lo)) addr pitch bf) ∧
        (s'.wcore core).aq = [] ∧ s'.mem = s.mem ∧ s'.threads = s.threads) ∧
    ((o.kind ≠ .zero ∧ ∀ src addr pitch bf, o.kind ≠ .load src addr pitch bf) → exec (.mldaPerform core) s = .next s) ∧
    (∀ dst addr pitch fmt m, o.kind = .store dst addr pitch fmt → s.bolt? dst.bolt = some m → m.id = dst.bolt →
      m.bstate ≠ .done → fmt ∈ [0, 1, 2, 3, 4] → 128 * (storeBits fmt / 8) ≤ pitch → Memory.wf m.spad = true →
      ∃ s' m', exec (.mstaWrite core) s = .next s' ∧ s'.bolt? m.id = some m' ∧
        (∀ i, i < 32 → memBytes m'.spad (dst.lo + i * pitch) (128 * (storeBits fmt / 8)) =
          (List.range 128).flatMap fun j =>
            leBytes (storeBits fmt / 8) (encodeElem fmt (decodeElem 0 (b.accElem (4096 * o.slice + 128 * i + j))))) ∧
        (∀ x, (∀ i, i < 32 → x < dst.lo + i * pitch ∨ dst.lo + i * pitch + 128 * (storeBits fmt / 8) ≤ x) →
          memByte m'.spad x = memByte m.spad x) ∧
        (s'.wcore core).aq = [] ∧ s'.mem = s.mem ∧ s'.threads = s.threads) ∧
    (o.isStore = false → exec (.mstaWrite core) s = .next s))

/-- R121, R124, R127, R128, R293, R305, R310, R312: what an operation does to a slice. A quarter operation adds the exact
sum of 128 products to each element, with one rounding, and a spare channel of B taken from its original; MZERO makes
every element +0; MLDA copies, and makes every NaN canonical. Other slices stay. -/
def Sys2Proof.Claims.SliceUpdates : Prop :=
  (∀ (b : Bolt) (k weft : Nat) (a t0 t1 t2 t3 : Tile) (da : SpData) (d : Nat → SpData),
    tabWf b.acc = true → da.poison = [] → (∀ t, (d t).poison = []) → b.accErr = [] →
    let b' := b.quarter k weft (a, da) [(t0, d 0), (t1, d 1), (t2, d 2), (t3, d 3)]
    let depth (t : Nat) : Nat := if t = 0 then t0.depth else if t = 1 then t1.depth else if t = 2 then t2.depth else t3.depth
    let header := leNat (da.bytes.take 64)
    let pair (j : Nat) : Nat := header / 2 ^ 32 % 2 ^ 64 / 2 ^ (16 * j) % 2 ^ 16
    let read (kk : Nat) : Nat :=
      match (List.range (header / 2 ^ 17 % 2 ^ 3)).find? fun j => pair j / 2 ^ 8 % 2 ^ 7 == kk with
      | some j => pair j % 2 ^ 7
      | none => kk
    (∀ i j, i < 32 → j < 128 →
      Updates (∃ g, g < 4 ∧ (da.byte (64 + 4 * i + g) = 255 ∨ (d (j / 32)).byte (64 + 4 * (j % 32) + g) = 255))
        (b.accElem (4096 * k + 128 * i + j))
        (∑ kk ∈ Finset.range 128, tileReal da a.depth i kk * tileReal (d (j / 32)) (depth (j / 32)) (j % 32) (read kk))
        (b'.accElem (4096 * k + 128 * i + j))) ∧
    (∀ n, n / 4096 ≠ k → b'.accElem n = b.accElem n) ∧ b'.spad = b.spad ∧ b'.id = b.id ∧ b'.bstate = b.bstate) ∧
  (∀ (b : Bolt) (k n : Nat),
    ((b.zeroSlice k).accElem n = if n / 4096 = k then 0 else b.accElem n) ∧ (b.zeroSlice k).spad = b.spad) ∧
  ∀ (b : Bolt) (k weft addr pitch : Nat) (bf : Bool) (d : SpData), tabWf b.acc = true → d.poison = [] →
    b.accErr = [] →
    let z := if bf then 2 else 4
    (∀ i j, i < 32 → j < 128 →
      let v := leNat ((d.bytes.drop (i * pitch + j * z)).take z) * (if bf then 2 ^ 16 else 1)
      (b.loadSlice k weft d addr pitch bf).accElem (4096 * k + 128 * i + j) =
        if v / 2 ^ 23 % 2 ^ 8 = 255 ∧ v % 2 ^ 23 ≠ 0 then 0x7FC00000 else v) ∧
    ∀ n, n / 4096 ≠ k → (b.loadSlice k weft d addr pitch bf).accElem n = b.accElem n

/-- R278, R293 to R299, R304, R309, R310, R312, R313: the steps of the array. A handle's use without a buffer submits a
fill; a waiting operation is accepted, or traps by the rows of R309 that its tiles' headers decide, when its turn comes; a
pass starts four cycles after its first operation was accepted, with the later quarters that R299 fuses with it, and
performs its operations in order when it ends; loads, stores and zeroings are performed in the order of each
slice. R121, R124, R127, R128, R293, R305, R310, R312: what an operation does to a slice. A quarter operation adds
the exact sum of 128 products to each element, with one rounding, and a spare channel of B taken from its original;
MZERO makes every element +0; MLDA copies, and makes every NaN canonical. Other slices stay. -/
def Obligations.ArrayStepsAndSlices : Prop := Claims.MatrixSteps ∧ Claims.SliceUpdates

/-- R301 to R304, R308, R314, R315: the crook. CROOK.t takes a free crook, goes on under its own stage's grant, and
otherwise waits, with one claim for a bolt; CROOK.p and CROOK.r vote, and the last vote passes the grant to the next
stage or to the first claim in the queue, or gives it up, and the lanes that wait at a CROOK.t of the stage granted next
complete it; a vote that may not stand traps; CROOK.q reads the status word; a pack bolt's lanes trap CROOK, and one on a
latency core NEEDW, whose trapval is open (log entry 10); a claim ends a grant that has expired. -/
def Obligations.CrookGrants : Prop :=
  let crook (s : State) (b : Bolt) : Crook := (s.wcore b.core).crook
  let granted (s : State) (b : Bolt) (bolt stage : Nat) (claims : List (Nat × Nat)) : Crook :=
    { crook s b with
      holder := some (bolt, stage)
      votes := []
      tg := (s.wcore b.core).cyc
      lastAcc := none
      claims }
  let withCrook (s : State) (b : Bolt) (c : Crook) : State := s.putW b.core { s.wcore b.core with crook := c }
  let quiet (s : State) : Prop := ∀ n t a, s.thread? n = some t → t.wait ≠ .crook a
  (∀ f : Fields,
    MatrixActs (.crookT f) rNone f (fun s b l => quiet s ∧ (crook s b).holder = none ∧ s.voters b (stageOf b l) ≠ [])
      (fun s b l => withCrook s b (granted s b b.id (stageOf b l) (crook s b).claims)) (fun _ _ _ => none) ∧
    MatrixActs (.crookT f) rNone f (fun s b l => quiet s ∧ (crook s b).holder = some (b.id, stageOf b l)) (fun s _ _ => s)
      (fun _ _ _ => none) ∧
    (∀ s b ls n t, AtArray s rNone f b ls n t → b.pack = false → ∀ id st, (crook s b).holder = some (id, st) →
      (id = b.id → st ≠ t.weft % b.nstage) →
      exec (.crookT f) s = .next
        ((if id = b.id ∨ (∃ x ∈ (crook s b).claims, x.1 = b.id) then s
        else withCrook s b { crook s b with claims := (crook s b).claims ++ [(b.id, t.weft % b.nstage)] }).putThreads
          (ls.map fun p => { p.2 with wait := .crook p.2.pc })).block.bump) ∧
    (∀ e ∈ [(Instr.crookP f, false), (.crookR f, true)],
      MatrixActs e.1 rNone f
        (fun s b l => (crook s b).holder = some (b.id, stageOf b l) ∧ l.thread.weft ∈ (crook s b).votes ∧
          (crook s b).kind = e.2) (fun s _ _ => s) (fun _ _ _ => none) ∧
      MatrixActs e.1 rNone f
        (fun s b l => (crook s b).holder = some (b.id, stageOf b l) ∧ l.thread.weft ∉ (crook s b).votes ∧
          ((crook s b).votes = [] ∨ (crook s b).kind = e.2) ∧
          ∃ v ∈ s.voters b (stageOf b l), v ∉ (crook s b).votes ∧ v ≠ l.thread.weft)
        (fun s b l => withCrook s b
          { crook s b with votes := (crook s b).votes ++ [l.thread.weft], kind := e.2 }) (fun _ _ _ => none) ∧
      MatrixActs e.1 rNone f
        (fun s b l => quiet s ∧ (crook s b).holder = some (b.id, stageOf b l) ∧ l.thread.weft ∉ (crook s b).votes ∧
          ((crook s b).votes = [] ∨ (crook s b).kind = e.2) ∧ (crook s b).claims = [] ∧
          (∀ v ∈ s.voters b (stageOf b l), v ∈ (crook s b).votes ∨ v = l.thread.weft) ∧
          (e.2 = false → s.voters b ((stageOf b l + 1) % b.nstage) ≠ []))
        (fun s b l => withCrook s b
          (if e.2 then { crook s b with holder := none, votes := [], kind := true, lastAcc := none }
          else { granted s b b.id ((stageOf b l + 1) % b.nstage) [] with kind := false })) (fun _ _ _ => none) ∧
      MatrixTraps e.1 rNone f false (fun s b l =>
        if (crook s b).holder ≠ some (b.id, stageOf b l) ∨ (crook s b).votes ≠ [] ∧ (crook s b).kind ≠ e.2 then
          some ⟨.crook, s.crookStatus b, false⟩
        else none) ∧
      ∀ (s : State) (b nb : Bolt) (ls : List (Nat × Thread)) (n nst : Nat) (t : Thread) (after : List (Nat × Nat)),
        let c := crook s b
        let st := t.weft % b.nstage
        AtArray s rNone f b ls n t → b.pack = false → Keyed s → tabWf (s.wcore b.core).slots = true →
        (∀ p ∈ ls, ∀ a, p.2.wait ≠ .crook a) → c.holder = some (b.id, st) → t.weft ∉ c.votes →
        (c.votes = [] ∨ c.kind = e.2) → (∀ v ∈ s.voters b st, v ∈ c.votes ∨ v = t.weft) →
        (e.2 = true ∧ c.claims = (nb.id, nst) :: after ∨
          e.2 = false ∧ st + 1 = b.nstage ∧ (∃ rest, c.claims = (nb.id, nst) :: rest ∧ after = rest ++ [(b.id, 0)]) ∨
          e.2 = false ∧ (st + 1 ≠ b.nstage ∨ c.claims = []) ∧ nb = b ∧ nst = (st + 1) % b.nstage ∧ after = c.claims) →
        s.bolt? nb.id = some nb → nb.core = b.core → s.voters nb nst ≠ [] →
        let waits (x : Thread) : Prop := x.active = true ∧ x.wait = .crook x.pc ∧ ∃ slot w,
          s.weft? b.core slot = some w ∧ w.bolt = nb.id ∧ w.widx % nb.nstage = nst ∧ x.tid ∈ w.members.map (·.2)
        ∃ s', exec e.1 s = .next s' ∧ crook s' b = { granted s b nb.id nst after with kind := e.2 } ∧
          (∀ p ∈ ls, s'.thread? p.2.tid = some (p.2.past f false)) ∧
          (∀ x, s.thread? x.tid = some x → x.tid ∉ ls.map (fun p => p.2.tid) →
            (waits x → s'.thread? x.tid = some { x with wait := .none, pc := x.pc + 4 }) ∧
            (¬ waits x → s'.thread? x.tid = some x)) ∧
          s' = ({ withCrook s b (crook s' b) with threads := s'.threads } : State).bump) ∧
    MatrixTraps (.crookT f) rNone f false (fun _ _ _ => none) ∧
    MatrixTraps (.crookQ f) rDst f false (fun _ _ _ => none) ∧
    MatrixActs (.crookQ f) rDst f (fun _ _ _ => True) (fun s _ _ => s) (fun s b _ => some (s.crookStatus b))) ∧
  (∀ (s : State) (b : Bolt) (i : Nat), (∀ st, (crook s b).holder = some (b.id, st) → st < 8) →
    let c := crook s b
    let w := s.crookStatus b
    let mine := ∃ st, c.holder = some (b.id, st)
    w.toNat % 4 = (if c.holder = none then 0 else if (c.holder.map (·.1)) = some b.id then 1 else 2) ∧
    (∀ st, c.holder = some (b.id, st) → w.toNat / 4 % 8 = st) ∧ (¬ mine → w.toNat / 4 % 8 = 0) ∧
    (w.getLsbD 5 = true ↔ ∃ x ∈ c.claims, x.1 = b.id) ∧ (w.getLsbD 7 = true ↔ c.votes ≠ [] ∧ c.kind = true) ∧
    (c.claims.length < 256 → w.toNat / 2 ^ 8 % 2 ^ 8 = c.claims.length) ∧
    (i < 32 → (w.getLsbD (32 + i) = true ↔ mine ∧ i ∈ c.votes))) ∧
  ∀ (s : State) (b nb : Bolt) (st nst : Nat) (rest : List (Nat × Nat)), Keyed s →
    (crook s b).holder = some (b.id, st) →
    let c := s.wcore b.core
    (c.crook.claims = [] → exec (.crookExpiry b.core) s = .next s) ∧
    (c.crook.claims = (nb.id, nst) :: rest →
      ((c.crook.lastAcc.getD c.crook.tg) + 16384 ≤ c.cyc ∨ c.crook.tg + 1048576 ≤ c.cyc →
        s.bolt? nb.id = some nb → nb.core = b.core → s.voters nb nst ≠ [] →
        ∃ s', exec (.crookExpiry b.core) s = .next s' ∧ crook s' b = granted s b nb.id nst (rest ++ [(b.id, st)]) ∧
          (∀ slot w, s.weft? b.core slot = some w → w.bolt = nb.id → w.widx % nb.nstage = nst → ∀ p ∈ w.members, ∀ t,
            s.thread? p.2 = some t → t.tid = p.2 → s'.thread? p.2 =
              some (if t.active = true ∧ t.wait = .crook t.pc then { t with wait := .none, pc := t.pc + 4 } else t)) ∧
          s' = { withCrook s b (crook s' b) with threads := s'.threads }) ∧
      (¬ ((c.crook.lastAcc.getD c.crook.tg) + 16384 ≤ c.cyc ∨ c.crook.tg + 1048576 ≤ c.cyc) →
        exec (.crookExpiry b.core) s = .next s))


/-! ### Barriers (R31 to R33, R322 to R333) -/

namespace Sys2Proof.Claims

open Sys2Proof.Machine

/-- A thread that may arrive at a barrier (R32, R187, R295): no load or store of it is in flight, and on a weft core
no matrix operation of its weft waits to be accepted, each has read its sources, and every store of the array has
written. -/
def Arrives (s : State) (t : Thread) : Prop :=
  (∀ p ∈ s.pend, p.tid ≠ t.tid) ∧ (∀ p ∈ s.stores, p.tid ≠ t.tid) ∧
  ∀ core slot lane b, t.loc = .member core slot lane → t.bolt.bind s.bolt? = some b →
    s.matrixWaits b t.weft = false ∧
      ∀ o ∈ (s.wcore b.core).aq, o.bolt = b.id → o.widx = t.weft → o.reads = [] ∧ o.writes = []

/-- The carry set of a barrier's word (R327). -/
def carrySet (m : Word) : BitVec 56 := BitVec.ofNat 56 (m.toNat / 2 * 2)

/-- The trap of a barrier instruction (R327); its arrival is a release, which reports a lost store (R397). -/
def barrierTrap (s : State) (l : Lane) : Option Trap :=
  if ((l.thread.bolt.bind s.bolt?).map Bolt.pack).getD true = true ∨ l.thread.spawn = 0 then some ⟨.prot, 0, false⟩
  else if 2 ^ 56 ≤ l.a.toNat ∨ ∃ n ∈ List.range 56, 1 ≤ n ∧ l.a.getLsbD n = true ∧ 8 * s.blockCount l.thread ≤ n then
    some ⟨.prot, l.a, false⟩
  else l.thread.lost.map fun v => ⟨.mchk, v, true⟩

/-- The thread that has arrived (R327): past the instruction, waiting, with its carry set and its next count. -/
def arrivedThread (s : State) (t : Thread) (k : BarKind) (mask : BitVec 56) (count len : Nat) : Thread :=
  { t with
    pc := t.pc + BitVec.ofNat 64 len
    rgn := t.pc + BitVec.ofNat 64 len
    sub := .barrier k
    wait := .none
    bwait := some k
    carry := mask
    nextBlocks := if count = 0 then s.blockCount t else count }

/-- The scope of a barrier (R325). -/
def InScope (s : State) (b : Bolt) (k : BarKind) (stage : Nat) (t : Thread) : Prop :=
  match k with
  | .bar => t.bolt = some b.id
  | .barSt => t.bolt = some b.id ∧ t.stage = stage
  | .fbar => ∃ x ∈ s.flockOf b, t.bolt = some x.id

/-- The highest register of a carry set decides the least count that covers it (R31). -/
def Covers (mask : BitVec 56) (count : Nat) : Prop := ∀ n, n < 56 → mask.getLsbD n = true → n < 8 * count

end Sys2Proof.Claims

/-- R32, R322, R325, R327, R397: BAR, BAR.st and FBAR. A lane that may arrive arrives, else it waits at the instruction
for BARRIER_ARRIVAL, and one that has lost a store takes MCHK instead; an arrival counts, moves pc and rgn past the
instruction, and joins the weft's carry set and count; the weft gives up its blocks with its last arrival; the last
arrival of the scope releases the barrier, and a thread away from its weft then departs at once. The flock's word stands
in the lowest bolt that has not ended, bolt 0 at first: the model's reading, log entry 28. -/
def Sys2Proof.Claims.BarrierArrivals : Prop :=
  (∀ f : Fields,
    let len := formLen f.form
    let count := f.imm.toNat % 8
    ∀ e ∈ [(Instr.bar f, BarKind.bar), (.barSt f, .barSt), (.fbar f, .fbar)],
      TrapsAlone e.1 rBar f true false barrierTrap false ∧
      Runs e.1 rBar f true false (fun s l => barrierTrap s l = none ∧ ¬ Arrives s l.thread)
        (fun k l => k.putThread
          { l.thread with sub := .barrier e.2, wait := .arriving (carrySet l.a) count len }) (fun _ _ => 0) ∧
      Runs e.1 rBar f true false (fun s l => barrierTrap s l = none ∧ Arrives s l.thread)
        (fun k l => k.arriveBarrier l.tid e.2 (carrySet l.a) count len) (fun _ _ => 0)) ∧
  (∀ (s : State) (t : Thread) (k : BarKind) (mask : BitVec 56) (count len : Nat), s.thread? t.tid = some t →
    (t.sub = .barrier k → t.wait = .arriving mask count len → (Arrives s t → t.lost = none →
        exec (.barrierArrival t.tid) s = .next (s.arriveBarrier t.tid k mask count len)) ∧
      (∀ v, Arrives s t → t.lost = some v → ∃ s', exec (.barrierArrival t.tid) s = .next s' ∧
        s' = (s.putThread { t with sub := .active, wait := .none }).machineCheck t.tid ⟨.mchk, v, true⟩) ∧
      (¬ Arrives s t → exec (.barrierArrival t.tid) s = .next s)) ∧
    ((∀ m c n, t.wait ≠ .arriving m c n) → exec (.barrierArrival t.tid) s = .next s)) ∧
  ∀ (s : State) (t : Thread) (b holder : Bolt) (k : BarKind) (mask : BitVec 56) (count len core slot lane : Nat) (w : Weft),
    Keyed s → tabWf s.bolts = true → (∀ x ∈ s.bolts, x.2.id = x.1) → s.thread? t.tid = some t → t.bolt = some b.id →
    s.bolt? b.id = some b → (k = .barSt → t.stage < 8) → InScope s b k t.stage t →
    holder = (match k with | .fbar => ((s.flockOf b).head?).getD b | _ => b) → s.bolt? holder.id = some holder →
    t.loc = .member core slot lane → s.weft? core slot = some w → t.tid ∈ w.members.map (·.2) →
    let s' := s.arriveBarrier t.tid k mask count len
    let u := arrivedThread s t k mask count len
    let word := holder.bar k t.stage
    (word.arrived + 1 ≠ word.expect →
      s'.thread? t.tid = some u ∧ (∀ n, n ≠ t.tid → s'.thread? n = s.thread? n) ∧
      (∃ h, s'.bolt? holder.id = some h ∧ h.bar k t.stage = { word with arrived := word.arrived + 1 } ∧
        h = { holder with barWord := h.barWord, stWords := h.stWords, flWord := h.flWord }) ∧
      (∃ w', s'.weft? core slot = some w' ∧ w'.carry = w.carry ||| mask ∧ w'.next = max w.next u.nextBlocks ∧
        let stays := w.wstate = .atBarrier ∨ ∃ x ∈ s.memberThreads w, x.tid ≠ t.tid ∧ x.hasArrived = false
        (stays → w' = { w with carry := w'.carry, next := w'.next }) ∧
        (¬ stays → w' = { w with
          carry := w'.carry, next := w'.next, held := false, reclaimed := false, wstate := .atBarrier, eligible := false })) ∧
      (holder.bstate ≠ .saved → s'.mem = s.mem)) ∧
    (word.arrived + 1 = word.expect → holder.bstate ≠ .saved →
      (∃ h, s'.bolt? holder.id = some h ∧ h.bar k t.stage = { word with arrived := 0, gen := !word.gen }) ∧
      (∀ n x, s.thread? n = some x → (n = t.tid ∨ x.bwait = some k ∧ InScope s b k t.stage x) →
        ∃ y, s'.thread? n = some y ∧ y.bwait = none) ∧
      (∀ n x, n ≠ t.tid → s.thread? n = some x → x.bwait = some k → InScope s b k t.stage x → x.inBarrier = true →
        ((∃ c, x.loc = .latency c) ∨ ∃ d, x.loc = .transit d) → ∃ y, s'.thread? n = some y ∧ y.sub = .active ∧
          y.pc = x.pc ∧ ∀ m, 0 < m → m < 56 → y.reg m = if x.carry.getLsbD m then x.reg m else ⟨0, true, false⟩) ∧
      (∀ n x, n ≠ t.tid → s.thread? n = some x → ¬ (x.bwait = some k ∧ InScope s b k t.stage x) →
        s'.thread? n = some x) ∧ s'.mem = s.mem)

/-- R31 to R33, R325, R326: how released wefts go on. They give up their blocks and form waves of the context's wave
size, each a gap after the one before; a wave that is due becomes eligible; free blocks go to the oldest bolt's weft
first, and its lanes then depart with the registers of the carry set, every other one zero and full, and observe what
the barrier ordered before them, while the weft keeps the carry set of those that still wait; the oldest resident bolt
reclaims blocks. That a departing lane observes every view reached so far is the model's choice (log entry 66). -/
def Sys2Proof.Claims.WavesAndBlocks : Prop :=
  (∀ (s : State) (b : Bolt) (slots : List Nat), tabWf (s.wcore b.core).slots = true →
    let slope := (s.ctx b.pid).slope.toNat
    let size := max 1 (slope % 2 ^ 6)
    let gap := max (slope / 2 ^ 8 % 2 ^ 8) s.fw.slfloor.toNat
    let c := s.wcore b.core
    let waiting := (s.weftsOf b).filter fun x => slots.contains x.1 && (s.memberThreads x.2).any fun t =>
      t.inBarrier && !t.arriving && t.bwait.isNone && t.sub != .extractParked
    ∃ n, ((s.formWaves b slots).wcore b.core).waves = c.waves ++ (List.range n).map (fun k =>
        { bolt := b.id
          slots := ((waiting.map (·.1)).drop (k * size)).take size
          at_ := c.cyc + gap * k
          net := none : Wave }) ∧
      n * size < waiting.length + size ∧ waiting.length ≤ n * size ∧
      (∀ x ∈ waiting, (s.formWaves b slots).weft? b.core x.1 =
        some { x.2 with held := false, wstate := .awaiting, eligible := false }) ∧
      (s.formWaves b slots).threads = s.threads ∧ (s.formWaves b slots).mem = s.mem) ∧
  (∀ (s : State) (core bolt : Nat),
    let c := s.wcore core
    (∀ v, c.waves.find? (fun v => v.bolt == bolt && decide (v.at_ ≤ c.cyc)) = some v → ∃ s',
      exec (.releaseWave core bolt) s = .next s' ∧ (s'.wcore core).waves = c.waves.filter (fun x => x != v) ∧
      (v.net = none → ∀ slot ∈ v.slots, ∀ w, s.weft? core slot = some w → ∃ w', s'.weft? core slot = some w' ∧
        w'.eligible = true ∧ w' = { w with eligible := true, ready := w'.ready }) ∧
      (∀ slot, slot ∉ v.slots ∨ v.net ≠ none → s'.weft? core slot = s.weft? core slot) ∧ s'.threads = s.threads ∧ s'.mem = s.mem) ∧
    (c.waves.find? (fun v => v.bolt == bolt && decide (v.at_ ≤ c.cyc)) = none →
      exec (.releaseWave core bolt) s = .next s)) ∧
  (∀ (s : State) (core : Nat),
    let ready := (s.wcore core).slots.filter fun x => x.2.wstate == .awaiting && x.2.eligible
    let age (w : Weft) : Nat × Nat := (((s.bolt? w.bolt).map Bolt.order).getD 0, w.ready)
    (ready = [] → exec (.blockAllotment core) s = .next s) ∧
    (ready ≠ [] → ∃ x ∈ ready,
      (∀ y ∈ ready, (age x.2).1 < (age y.2).1 ∨ (age x.2).1 = (age y.2).1 ∧ (age x.2).2 ≤ (age y.2).2) ∧
      exec (.blockAllotment core) s =
        if s.needOf x.2 ≤ s.freeBlocks core then .next (s.allot core x.1 x.2) else .next s)) ∧
  (∀ (s : State) (core slot : Nat) (w : Weft), Keyed s → tabWf s.wcores = true → tabWf s.threads = true →
    s.weft? core slot = some w → ((s.memberThreads w).map Thread.tid).Nodup →
    (∀ t ∈ s.memberThreads w, t.entry = none) →
    let departs (t : Thread) : Prop := t.inBarrier = true ∧ t.arriving = false ∧ t.bwait = none
    let leaving := ∃ t ∈ s.memberThreads w, departs t
    (¬ leaving → s.needOf w = w.blocks) ∧
    (leaving → (if w.next = 0 then w.blocks else w.next) ≤ s.needOf w ∧
      (∀ n, n < 56 → w.carry.getLsbD n = true → n < 8 * s.needOf w)) ∧
    (∃ w', (s.allot core slot w).weft? core slot = some w' ∧ w'.held = true ∧ w'.wstate = .running ∧
      w'.blocks = s.needOf w ∧ (leaving →
        (∀ n, w'.carry.getLsbD n = true ↔ ∃ t ∈ s.memberThreads w, t.hasArrived = true ∧ t.carry.getLsbD n = true) ∧
        ∀ t ∈ s.memberThreads w, t.hasArrived = true → t.nextBlocks ≤ w'.next)) ∧
    (∀ t ∈ s.memberThreads w, departs t → ∃ u, (s.allot core slot w).thread? t.tid = some u ∧
      (if t.sub = .extractParked then u.sub = .extractParked ∧ u.asSub = .active else u.sub = .active) ∧ u.pc = t.pc ∧ (∀ n, 0 < n → n < 56 →
        u.reg n = if w.carry.getLsbD n then t.reg n else ⟨0, true, false⟩)) ∧
    (∀ t ∈ s.memberThreads w, ¬ departs t → (t.hasArrived = false ∨ w.reclaimed = true) →
      (s.allot core slot w).thread? t.tid = some t) ∧
    (∀ t ∈ s.memberThreads w, t.hasArrived = true → w.reclaimed = false →
      ∃ u, (s.allot core slot w).thread? t.tid = some u ∧ u.sub = t.sub ∧ u.pc = t.pc ∧ ∀ n, 0 < n → n < 56 →
        u.reg n = if w.carry.getLsbD n then t.reg n else ⟨0, true, false⟩) ∧
    (∀ t lane, (s.memberThreads w).filter Thread.departing = [t] → t.loc = .member core slot lane →
      ((s.allot core slot w).wcore core).vfloor = stampMax (s.wcore core).vfloor s.viewCeil) ∧
    (s.allot core slot w).mem = s.mem) ∧
  ∀ (s : State) (core slot oslot : Nat) (w v : Weft) (ob vb : Bolt), Keyed s →
    let c := s.wcore core
    c.slots.filter (fun x => x.2.wstate == .awaiting && x.2.eligible) = [(oslot, w)] →
    c.slots.filter (fun x => x.2.held) = [(slot, v)] → s.bolt? w.bolt = some ob → s.bolt? v.bolt = some vb →
    (∃ x ∈ s.boltsOn core, x.bstate = .resident ∧ x.order = ob.order) →
    (∀ x ∈ s.boltsOn core, x.bstate = .resident → ob.order ≤ x.order) →
    (s.freeBlocks core < s.needOf w → (∀ t ∈ s.memberThreads v, ∀ p ∈ s.pend, p.tid ≠ t.tid) →
      ∃ s' v', exec (.reclaim core) s = .next s' ∧ s'.weft? core slot = some v' ∧ v'.held = false ∧
        v'.wstate = .awaiting ∧ v'.reclaimed = true ∧
        v' = { v with held := false, wstate := .awaiting, reclaimed := true, eligible := true, ready := v'.ready } ∧
        s'.threads = s.threads ∧ s'.mem = s.mem) ∧
    ((s.needOf w ≤ s.freeBlocks core ∨ ∃ t ∈ s.memberThreads v, ∃ p ∈ s.pend, p.tid = t.tid) →
      exec (.reclaim core) s = .next s)

/-- R32, R322, R325, R327, R397: BAR, BAR.st and FBAR. A lane that may arrive arrives, else it waits at the instruction
for BARRIER_ARRIVAL, and one that has lost a store takes MCHK instead; an arrival counts, moves pc and rgn past the
instruction, and joins the weft's carry set and count; the weft gives up its blocks with its last arrival; the last
arrival of the scope releases the barrier, and a thread away from its weft then departs at once. The flock's word stands
in the lowest bolt that has not ended, bolt 0 at first (the model's reading: log entry 28). R31 to R33, R325, R326: how
released wefts go on. They give up their blocks and form waves of the context's wave size, each a gap after the one
before; a wave that is due becomes eligible; free blocks go to the oldest bolt's weft first, and its lanes then depart
with the registers of the carry set, every other one zero and full, and observe what the barrier ordered before them,
every view reached so far (the model's choice: log entry 66), while the weft keeps the carry set of those that still
wait; the oldest resident bolt reclaims blocks. An event that is not due changes nothing (log entry 58). -/
def Obligations.BoltBarriers : Prop := Claims.BarrierArrivals ∧ Claims.WavesAndBlocks

namespace Sys2Proof.Claims

open Sys2Proof.Machine

/-- The participant of a thread (R328): its bolt, or itself where SPWN did not create it. -/
def partOf (t : Thread) : Bool × Nat :=
  match t.spawn, t.bolt with
  | 0, _ => (false, t.tid)
  | _, some b => (true, b)
  | _, none => (false, t.tid)

/-- Whether a participant is registered at a barrier. -/
def registered (s : State) (n : Nat) (p : Bool × Nat) : Bool :=
  ((s.nbar? n).map fun b => b.parts.any fun x => x.isBolt == p.1 && x.key == p.2).getD false

/-- The trap of NBINIT (R332), its checks in order. -/
def initTrap (s : State) (t : Thread) (n : Int) (cfg : Word) : Option Trap :=
  let bad : Trap := ⟨.prot, BitVec.ofInt 64 n, false⟩
  if n < 0 ∨ 255 < n then some bad
  else if 2 ^ 24 ≤ cfg.toNat ∨ cfg = 0 then some ⟨.prot, cfg, false⟩
  else if registered s n.toNat (partOf t) then none
  else if ((s.nbar? n.toNat).map fun b =>
      decide (b.owner ≠ t.pid % 2 ^ 16 ∨ b.total ≠ cfg.toNat ∨ b.reg + b.gone = b.total)).getD false then some bad
  else if (partOf t).1 = true ∧ 4 ≤ (s.nbWords (partOf t)).length then some bad
  else none

/-- Whether a thread's latest arrival at a barrier waits for its release (R333). -/
def waitsRelease (s : State) (t : Thread) (n : Nat) : Prop :=
  ∃ w g, (s.nbWords (partOf t)).find? (fun w => w.nbid == n) = some w ∧ tabGet t.nbArr n = some g ∧ w.gen = g

/-- The trap of NBAR, NBAR.a and NBAR.w (R333, R415); an arrival is a release, which reports a lost store (R397). -/
def arrivalTrap (s : State) (t : Thread) (n : Int) (arrives : Bool) : Option Trap :=
  if n < 0 ∨ 255 < n ∨ (s.nbWords (partOf t)).all (fun w => w.nbid != n.toNat) then
    some ⟨.prot, BitVec.ofInt 64 n, false⟩
  else if arrives ∧ 192 ≤ n ∧ s.domainLinked = false then some ⟨.mchk, 5, false⟩
  else if arrives then t.lost.map fun v => ⟨.mchk, v, true⟩
  else none

end Sys2Proof.Claims

/-- R328, R331 to R333, R397: NBINIT and NBINIT.c register and depart a participant once; NBAR.a arrives once the
thread's accesses are performed and an earlier arrival of it has released, NBAR.w waits for the release of its latest
arrival and for its weft's wave, and NBAR does both; an arrival by a thread that has lost a store takes MCHK. That a
participant that departs takes its counted arrival and what its threads noted with it, and that one that registers late
takes the current generation, is the model's choice (log entry 34). -/
def Sys2Proof.Claims.NetworkBarriers : Prop :=
  (∀ f : Fields,
    let past (r : OpRule) (irrev : Bool) (k : State) (l : Lane) : State :=
      k.putThread (l.thread.past f (irrev || touchesPort r f))
    let number (l : Lane) : Nat := (addressOf f l).toNat
    let calm (t : Thread) : Thread := if t.wait = .earlier then { t with wait := .none } else t
    let waitsEarlier (i : Instr) (irrev : Bool) (why : State → Lane → Prop) : Prop :=
      ∀ s n t, PortsReady s rClfl f irrev false [(n, t)] → why s (s.laneOf rClfl f [(n, t)] (n, t)) →
        exec i s = .next (s.putThread { t with wait := .earlier }).block
    Runs (.nbinit f) rThdl f false false
      (fun s l => initTrap s l.thread (addressOf f l) l.b = none ∧ registered s (number l) (partOf l.thread) = true)
      (past rThdl false) (fun _ _ => 0) ∧
    Runs (.nbinit f) rThdl f false false
      (fun s l => initTrap s l.thread (addressOf f l) l.b = none ∧ registered s (number l) (partOf l.thread) = false)
      (fun k l => (k.register (number l) (l.thread.pid % 2 ^ 16) l.b.toNat
        ((k.partCore (partOf l.thread)).getD k.cur.core) (partOf l.thread)).advance l.tid f (touchesPort rThdl f))
      (fun _ _ => 0) ∧
    TrapsAlone (.nbinit f) rThdl f false false (fun s l => initTrap s l.thread (addressOf f l) l.b) false ∧
    Runs (.nbinitC f) rClfl f false false
      (fun s l => 0 ≤ addressOf f l ∧ addressOf f l ≤ 255 ∧
        ∀ w, (s.nbWords (partOf l.thread)).find? (fun w => w.nbid == number l) = some w → w.pstate ≠ 1)
      (fun k l => ((k.depart (number l) (partOf l.thread)).modThread l.tid calm).advance l.tid f (touchesPort rClfl f))
      (fun _ _ => 0) ∧
    waitsEarlier (.nbinitC f) false (fun s l => 0 ≤ addressOf f l ∧ addressOf f l ≤ 255 ∧
      ∃ w, (s.nbWords (partOf l.thread)).find? (fun w => w.nbid == number l) = some w ∧ w.pstate = 1) ∧
    Runs (.nbinitC f) rClfl f false false (fun _ l => addressOf f l < 0 ∨ 255 < addressOf f l) (past rClfl false)
      (fun _ _ => 0) ∧
    Runs (.nbarA f) rClfl f true false
      (fun s l => arrivalTrap s l.thread (addressOf f l) true = none ∧ s.performed l.tid = true ∧
        ¬ waitsRelease s l.thread (number l))
      (fun k l => ((k.nbArrive l.tid (number l)).modThread l.tid calm).advance l.tid f true) (fun _ _ => 0) ∧
    waitsEarlier (.nbarA f) true (fun s l => arrivalTrap s l.thread (addressOf f l) true = none ∧
      (s.performed l.tid = false ∨ waitsRelease s l.thread (number l))) ∧
    Runs (.nbarW f) rClfl f true false
      (fun s l => arrivalTrap s l.thread (addressOf f l) false = none ∧ ¬ waitsRelease s l.thread (number l) ∧
        s.nbHeld l.thread (number l) = false)
      (fun k l => (k.acquired l.tid).advance l.tid f true) (fun _ _ => 0) ∧
    WaitsAlone (.nbarW f) rClfl f true false (fun s l => arrivalTrap s l.thread (addressOf f l) false = none ∧
      (waitsRelease s l.thread (number l) ∨ s.nbHeld l.thread (number l) = true)) ∧
    Runs (.nbar f) rClfl f true false
      (fun s l => ∃ n g, l.thread.wait = .nbar n g ∧ ¬ waitsRelease s l.thread n ∧ s.nbHeld l.thread n = false)
      (fun k l => ((k.acquired l.tid).modThread l.tid fun t => { t with wait := .none }).advance l.tid f true)
      (fun _ _ => 0) ∧
    WaitsAlone (.nbar f) rClfl f true false (fun s l => ∃ n g, l.thread.wait = .nbar n g ∧
      (waitsRelease s l.thread n ∨ s.nbHeld l.thread n = true)) ∧
    waitsEarlier (.nbar f) true (fun s l => (∀ m g, l.thread.wait ≠ .nbar m g) ∧
      arrivalTrap s l.thread (addressOf f l) true = none ∧
      (s.performed l.tid = false ∨ waitsRelease s l.thread (number l))) ∧
    (∀ s n t, PortsReady s rClfl f true false [(n, t)] → (∀ m g, t.wait ≠ .nbar m g) →
      let l := s.laneOf rClfl f [(n, t)] (n, t)
      arrivalTrap s t (addressOf f l) true = none → s.performed t.tid = true → ¬ waitsRelease s t (number l) →
      ∃ u g, exec (.nbar f) s = .next ((s.nbArrive t.tid (number l)).putThread u).block ∧
        (s.nbArrive t.tid (number l)).thread? t.tid = some { u with wait := t.wait } ∧ u.wait = .nbar (number l) g) ∧
    (∀ e ∈ [(Instr.nbarA f, true), (.nbarW f, false)],
      TrapsAlone e.1 rClfl f true false (fun s l =>
        if l.thread.wait = .earlier then none else arrivalTrap s l.thread (addressOf f l) e.2) false) ∧
    TrapsAlone (.nbar f) rClfl f true false (fun s l =>
      match l.thread.wait with
      | .nbar _ _ | .earlier => none
      | _ => arrivalTrap s l.thread (addressOf f l) true) false) ∧
  (∀ (s : State) (n owner total core : Nat) (p : Bool × Nat),
    let b := (s.nbar? n).getD ⟨owner, total, 0, 0, 0, []⟩
    (s.register n owner total core p).nbar? n =
      some { b with reg := b.reg + 1, parts := b.parts ++ [⟨p.1, p.2, core, false⟩] } ∧
    (s.register n owner total core p).pkts = s.pkts ++ [⟨dieOf core, n, core, .mark true⟩] ∧
    (p.1 = false → ∀ t, s.thread? p.2 = some t → t.tid = p.2 →
      (s.register n owner total core p).nbWords p = t.nbReg ++ [⟨n, b.gen, 0, 0⟩]) ∧
    (Keyed s → ∀ m t, s.thread? m = some t → partOf t = p → tabWf t.nbArr = true →
      ∃ u, (s.register n owner total core p).thread? m = some u ∧ tabGet u.nbArr n = none)) ∧
  ∀ (s : State) (n : Nat) (p : Bool × Nat) (b : NBar) (x : NPart), s.nbar? n = some b →
    b.parts.find? (fun x => x.isBolt == p.1 && x.key == p.2) = some x →
    (1 < b.reg → (s.depart n p).nbar? n = some { b with
      reg := b.reg - 1
      gone := b.gone + 1
      parts := b.parts.filter fun y => !(y.isBolt == p.1 && y.key == p.2) }) ∧
    (b.reg = 1 → tabWf s.nbars = true → (s.depart n p).nbar? n = none) ∧
    (Keyed s → ∀ m t, s.thread? m = some t → partOf t = p → tabWf t.nbArr = true →
      ∃ u, (s.depart n p).thread? m = some u ∧ tabGet u.nbArr n = none) ∧
    (s.depart n p).pkts = s.pkts ++ [⟨dieOf x.core, n, x.core, if x.arrived then .leave else .mark false⟩]

/-- R329 to R331: the routers. Packets of a barrier are taken in the order in which they were sent; an arrival counts at
its port, and goes on to the parent once every marked port has reported; the root releases when every participant has
registered or gone and, by the model's choice (log entry 34), no change of registration is on its way; a release reaches
every marked port and clears the counts. An event that is not due changes nothing (log entry 58). -/
def Sys2Proof.Claims.BarrierPackets : Prop :=
  (∀ (s : State) (die nbid port k : Nat) (rest : List NPkt), s.pkts = ⟨die, nbid, port, .arrive k⟩ :: rest → 0 < k →
    tabWf s.routers = true → tabWf (s.router nbid die).ports = true →
    let r := s.router nbid die
    let c := (tabGet r.ports port).getD (0, 0)
    let r' : Router := { ports := tabPut r.ports port (c.1, c.2 + k), since := r.since + k }
    let full := ∀ p ∈ r'.ports, p.2.1 = 0 ∨ p.2.1 = p.2.2
    ∃ s', exec .nbArrivalPacket s = .next s' ∧
      (¬ full → s'.pkts = rest ∧ s'.mem = s.mem ∧ (s'.router nbid die).since = r.since + k ∧
        (∀ q m n, (m, n) ≠ (0, 0) → (tabGet r'.ports q = some (m, n) ↔ tabGet (s'.router nbid die).ports q = some (m, n)))) ∧
      (full → ∀ parent, (die = 1 ∧ parent = 0 ∨ 2 ≤ die ∧ parent = die % 2) →
        s'.pkts = rest ++ [⟨parent, nbid, 1000 + die, .arrive (r.since + k)⟩] ∧ (s'.router nbid die).since = 0) ∧
      (full → die = 0 → (nbid < 192 ∨ s.fw.pkgid.toNat % 2 ^ 6 = 0) → ∀ b, s.nbar? nbid = some b →
        let settled := b.reg + b.gone = b.total ∧ ∀ q ∈ rest, q.nbid = nbid → q.kind.marks = false
        (¬ settled → s'.pkts = rest ∧ s'.nbars = s.nbars) ∧
        (settled → (s'.router nbid die).since = 0 ∧
          (∀ q m n, tabGet (s'.router nbid die).ports q = some (m, n) → n = 0) ∧
          ∃ b', s'.nbar? nbid = some b' ∧ b'.gen = b.gen + 1))) ∧
  ((∀ (s : State), (∀ p ∈ s.pkts, ∀ k, p.kind ≠ .arrive k) → exec .nbArrivalPacket s = .next s) ∧
    (∀ (s : State), (∀ p ∈ s.pkts, p.kind ≠ .release) → exec .nbReleasePacket s = .next s) ∧
    ∀ (s : State), (∀ p ∈ s.pkts, (∃ k, p.kind = .arrive k) ∨ p.kind = .release) → exec .nbMarkUpdate s = .next s) ∧
  (∀ (s : State) (die nbid port : Nat) (rest : List NPkt), s.pkts = ⟨die, nbid, port, .release⟩ :: rest →
    exec .nbReleasePacket s = .next (({ s with pkts := rest } : State).releaseAt nbid die)) ∧
  (∀ (s : State) (n core key : Nat) (b : NBar) (t : Thread) (w : NbWord), s.nbar? n = some b →
    b.parts = [⟨false, key, core, true⟩] → s.thread? key = some t → t.tid = key → t.core? = some core → t.nbReg = [w] →
    w.nbid = n →
    ∃ u, (s.deliverRelease n core).thread? key = some u ∧ u.nbReg = [{ w with gen := w.gen + 1, pstate := 2, narr := 0 }] ∧
      (s.deliverRelease n core).nbar? n = some { b with parts := [⟨false, key, core, false⟩] }) ∧
  ∀ (s : State) (die nbid port : Nat) (rest : List NPkt), tabWf s.routers = true →
    let r := s.router nbid die
    let c := (tabGet r.ports port).getD (0, 0)
    let parents := if die = 0 then [] else [if die = 1 then 0 else die % 2]
    r.since = 0 →
    (s.pkts = ⟨die, nbid, port, .mark true⟩ :: rest → ∃ s', exec .nbMarkUpdate s = .next s' ∧
      s'.pkts = rest ++ parents.map (fun p => ⟨p, nbid, 1000 + die, .mark true⟩) ∧
      tabGet (s'.router nbid die).ports port = some (c.1 + 1, c.2) ∧ s'.mem = s.mem) ∧
    (s.pkts = ⟨die, nbid, port, .mark false⟩ :: rest → 2 ≤ c.1 → ∃ s', exec .nbMarkUpdate s = .next s' ∧
      s'.pkts = rest ++ parents.map (fun p => ⟨p, nbid, 1000 + die, .mark false⟩) ∧
      tabGet (s'.router nbid die).ports port = some (c.1 - 1, c.2) ∧ s'.mem = s.mem)


/-- R328, R331 to R333, R397: NBINIT and NBINIT.c register and depart a participant once; NBAR.a arrives once the
thread's accesses are performed and an earlier arrival of it has released, NBAR.w waits for the release of its latest
arrival and for its weft's wave, and NBAR does both; an arrival by a thread that has lost a store takes MCHK. That a
participant that departs takes its counted arrival and what its threads noted with it, and that one that registers late
takes the current generation, is the model's choice (log entry 34). R329 to
R331: the routers. Packets of a barrier are taken in the order in which they were sent; an arrival counts at its port,
and goes on to the parent once every marked port has reported; the root releases when every participant has registered
or gone and (log entry 34) no change of registration is on its way; a release reaches every marked port and clears the
counts. An event that is not due changes nothing (log entry 58). -/
def Obligations.NetworkBarriersAndPackets : Prop := Claims.NetworkBarriers ∧ Claims.BarrierPackets

/-! ### Spawns, traces, and the ends of threads (R18 to R20, R336 to R361) -/

namespace Sys2Proof.Claims

open Sys2Proof.Machine

/-- An instruction that reads a record of memory under the checks of R217 and then leaves a result in rd: `needs` is
what it waits for first, and `eff` what it does with what it read. -/
def RunsChecked {α : Type} (i : Instr) (r : OpRule) (f : Fields) (irrev : Bool) (check : State → Lane → Chk α)
    (needs : State → Lane → Bool) (eff : State → Lane → α → State × Word) : Prop :=
  Runs i r f irrev false (fun s l => needs s l = true ∧ ∃ k a, check s l = .ok k a)
    (fun k l =>
      match check k l with
      | .ok k' a => ((eff k' l a).1.setReg l.tid f.rd ⟨(eff k' l a).2, true, l.poison⟩).advance l.tid f
          (irrev || touchesPort r f)
      | _ => k) (fun _ _ => 0) ∧
  TrapsAlone i r f irrev false (fun s l =>
    if needs s l then
      match check s l with
      | .trap k tr => if k = s then some tr else none
      | _ => none
    else none) false

/-- A refusal as an instruction returns it (R346). -/
def refused (code : Nat) : Word := 2 ^ 63 + BitVec.ofNat 64 code

/-- The refusal of a SPWN, in the order of R346. -/
def spawnRefuses (s : State) (t : Thread) (w : List Nat) : Option Nat :=
  let d := descOf w
  let space := t.pid % 2 ^ 16
  let mine := s.traces.filter fun x => x.pid % 2 ^ 16 == space && !x.shut
  let need := areaBytes (d.nflock * (d.fm1 + 1)) d.ebolt ((tabGet s.regions space).getD [])
  if descValid w = false then some 1
  else if d.trace ∧ 8 ≤ mine.length then some 3
  else if d.trace ∧ (2 ^ 20 < d.nflock * (d.fm1 + 1) ∨ d.tlen < need ∨
      ((tabGet s.regions space).getD []).any (fun r => vaMeets d.tarea.toNat need r.base r.len) = true) then some 4
  else if d.pclass = 0 ∧ s.placeMany d (s.bolts.map (·.1)) d.nflock [] = none then some 2
  else if (s.queue (s.fw.pools.toNat % 2 ^ 13)).words.length < (d.fm1 + 1) * d.t then some 5
  else none

/-- The refusal of RSPWN and RSPWN.d, in the order of R346. -/
def respawnRefuses (s : State) (t : Thread) (w : List Nat) (run : Bool) : Option Nat :=
  if descValid w = false then some 1
  else
    match s.traceOf t (descOf w) with
    | none => some 7
    | some tr =>
      if tr.busy then some 6
      else
        match tabGet s.spawnU.spawns tr.spawn with
        | none => some 7
        | some sp =>
          if run ∧ s.roundSel tr (sp.desc.fm1 + 1) (false, s.dirtyTiles tr) ≠ [] ∧
              (s.queue (s.fw.pools.toNat % 2 ^ 13)).words.length < (sp.desc.fm1 + 1) * sp.desc.t then some 5
          else none

/-- A traced region record that keeps the limits of R348. -/
def RegionIs (w : List Nat) (num : Nat) (r : TRegion) : Prop :=
  ∃ base len tlog, w = [base, len, tlog, 0] ∧ r = ⟨num, base, len, tlog⟩ ∧
    canonicalWord (BitVec.ofNat 64 base) = true ∧ 8 ≤ tlog ∧ tlog ≤ 21 ∧ base % 2 ^ tlog = 0 ∧ len ≠ 0 ∧
    len % 2 ^ tlog = 0 ∧ len ≤ 2 ^ 40

/-- Whether two bolts of a trace depend (R353): one reads a tile that the other wrote. -/
def readsOf (s : State) (t : Trace) (a b : Nat) : Prop := (s.tilesOf t b false).meets t.total (s.tilesOf t a true) = true

/-- The state after an exit has completed, the weft that issued it settled (R28, R32). -/
def afterExit (s : State) : State := s.bump.settleCur

end Sys2Proof.Claims

/-- R346, R353, R356 to R361: SPWN admits a spawn, or refuses it by the first condition in the order of R346; RSPWN and
RSPWN.d find the bolts that round 1 runs; TRK.a and TRK.r define and remove traced regions; TRKC closes a trace; TRKQ
reads its words. SPWN and RSPWN wait for their thread's earlier accesses; that RSPWN.d waits for them too, and that the
TRK instructions do not, TRKQ.d counting the stores in flight, is the model's reading (log entry 40). A failing check of
an address traps before any refusal, and bit 63 of RSPWN's new seq before the descriptor is read, which is the model's
order (log entry 41); a device register passes as done or tarea (log entry 94). -/
def Obligations.SpawnInstructions : Prop :=
  (∀ f : Fields,
    RunsChecked (.spwn f) rDst1 f true (fun k l => checkSpawn k l.thread k.cur.core l.a.toInt)
      (fun s l => s.performed l.tid)
      (fun k l w => match spawnRefuses k l.thread w with
        | some c => (k, refused c)
        | none => (k.admitSpawn l.thread (descOf w), BitVec.ofNat 64 k.spawnU.nextId)) ∧
    WaitsAlone (.spwn f) rDst1 f true false (fun s l => s.performed l.tid = false) ∧
    RunsChecked (.rspwn f) rDst2 f true (fun k l => chkDesc k l.thread k.cur.core l.a.toInt)
      (fun s l => s.performed l.tid && !l.b.getLsbD 63)
      (fun k l w => match respawnRefuses k l.thread w true, k.traceOf l.thread (descOf w) with
        | none, some tr => match tabGet k.spawnU.spawns tr.spawn with
          | some sp => ((k.respawn l.thread sp tr l.b).1, BitVec.ofNat 64 (k.respawn l.thread sp tr l.b).2)
          | none => (k, refused 7)
        | some c, _ => (k, refused c)
        | none, none => (k, refused 7)) ∧
    WaitsAlone (.rspwn f) rDst2 f true false (fun s l => s.performed l.tid = false) ∧
    TrapsAlone (.rspwn f) rDst2 f true false (fun s l =>
      if s.performed l.tid && l.b.getLsbD 63 then some ⟨.prot, l.b, false⟩ else none) false ∧
    RunsChecked (.rspwnD f) rDst1 f false (fun k l => chkDesc k l.thread k.cur.core l.a.toInt)
      (fun s l => s.performed l.tid)
      (fun k l w => match respawnRefuses k l.thread w false, k.traceOf l.thread (descOf w) with
        | none, some tr => match tabGet k.spawnU.spawns tr.spawn with
          | some sp =>
            let sel := k.roundSel tr (sp.desc.fm1 + 1) (false, k.dirtyTiles tr)
            (k.modHeads tr (List.range tr.nbolt) fun b h =>
              h - h / 2 ^ 34 % 2 * 2 ^ 34 + if sel.contains b then 2 ^ 34 else 0, BitVec.ofNat 64 sel.length)
          | none => (k, refused 7)
        | some c, _ => (k, refused c)
        | none, none => (k, refused 7)) ∧
    WaitsAlone (.rspwnD f) rDst1 f false false (fun s l => s.performed l.tid = false) ∧
    RunsChecked (.trkA f) rDst1 f false (fun k l => chkRecord k l.thread k.cur.core l.a.toInt 32) (fun _ _ => true)
      (fun k l bs =>
        let space := l.thread.pid % 2 ^ 16
        let rs := k.regionsOf space
        match regionRecord (dwords bs) ((freeRegion rs).getD 0) with
        | none => (k, refused 8)
        | some r =>
          if freeRegion rs = none ∨ ∃ x ∈ rs, vaMeets x.base x.len r.base r.len = true
          then (k, refused 9)
          else (k.putRegions space (regionInsert r rs), BitVec.ofNat 64 r.num)) ∧
    Runs (.trkR f) rDst1 f false false (fun _ l => l.a.toNat < 16)
      (fun k l =>
        let space := l.thread.pid % 2 ^ 16
        let rs := k.regionsOf space
        let out : State × Word :=
          if rs.all fun r => r.num != l.a.toNat then (k, refused 11)
          else if k.traces.any fun t => t.pid % 2 ^ 16 == space && !t.shut && t.regions.any fun r => r.1.num == l.a.toNat
          then (k, refused 10)
          else (k.putRegions space (rs.filter fun r => r.num != l.a.toNat), 0)
        (out.1.setReg l.tid f.rd ⟨out.2, true, l.poison⟩).advance l.tid f (touchesPort rDst1 f)) (fun _ _ => 0) ∧
    TrapsAlone (.trkR f) rDst1 f false false (fun _ l => if 16 ≤ l.a.toNat then some ⟨.prot, l.a, false⟩ else none)
      false ∧
    Runs (.trkc f) rDst1 f false false
      (fun s l => ∃ k w, chkDesc s l.thread s.cur.core l.a.toInt = .ok k w ∧
        ∀ tr, k.traceOf l.thread (descOf w) = some tr → tr.busy = false)
      (fun k l => match chkDesc k l.thread k.cur.core l.a.toInt with
        | .ok k' w =>
          let out : State × Word := match k'.traceOf l.thread (descOf w) with
            | none => (k', refused 7)
            | some tr => (k'.closeTrace tr, 0)
          (out.1.setReg l.tid f.rd ⟨out.2, true, l.poison⟩).advance l.tid f (touchesPort rDst1 f)
        | _ => k) (fun _ _ => 0) ∧
    WaitsAlone (.trkc f) rDst1 f false false (fun s l => ∃ k w tr,
      chkDesc s l.thread s.cur.core l.a.toInt = .ok k w ∧ k.traceOf l.thread (descOf w) = some tr ∧ tr.busy = true) ∧
    RunsChecked (.trkqS f) rDst1 f false (fun k l => chkDesc k l.thread k.cur.core l.a.toInt) (fun _ _ => true)
      (fun k l w => (k, match k.tracedBy l.thread (descOf w) with
        | none => 0
        | some t => BitVec.ofNat 64 (k.areaRead t 0).2)) ∧
    RunsChecked (.trkqD f) rDst1 f false (fun k l => chkDesc k l.thread k.cur.core l.a.toInt) (fun _ _ => true)
      (fun k l w => match k.tracedBy l.thread (descOf w) with
        | none => (k, 0)
        | some t => (k.markQueued l.thread, BitVec.ofNat 64 ((k.markQueued l.thread).dirtyBits t)))) ∧
  (∀ (w : List Nat) (num : Nat) (r : TRegion), w.length = 4 → (regionRecord w num = some r ↔ RegionIs w num r)) ∧
  (∀ (s : State) (t : Trace) (g b : Nat) (d : TileSet), 0 < g →
    let sel := s.roundSel t g d
    (b ∈ sel → b < t.nbolt) ∧
    (b < t.nbolt → (s.tilesOf t b false).meets t.total d = true → b ∈ sel) ∧
    (∀ a ∈ sel, b < t.nbolt → (readsOf s t a b ∨ a / g = b / g) → b ∈ sel) ∧
    ∀ closed : Nat → Prop, (∀ x, x < t.nbolt → (s.tilesOf t x false).meets t.total d = true → closed x) →
      (∀ x y, closed x → y < t.nbolt → (readsOf s t x y ∨ x / g = y / g) → closed y) → b ∈ sel → closed b) ∧
  ∀ (s : State) (t : Thread) (d : Desc), d.trace = false →
    let u := s.spawnU
    let s' := s.admitSpawn t d
    (∃ sp, tabGet s'.spawnU.spawns u.nextId = some sp ∧ sp.pid = t.pid ∧ sp.level = t.plvl ∧ sp.desc = d ∧
      sp.order = u.nextOrder ∧ sp.seq = d.seq ∧ sp.boltsLeft = d.nflock * (d.fm1 + 1) ∧ sp.running = true) ∧
    s'.spawnU.waiting = u.waiting ++ (List.range d.nflock).map (fun k => ⟨u.nextId, k, d.prio, u.nextOrder, s.gtick, []⟩) ∧
    s'.spawnU.nextId = (if u.nextId = 2 ^ 32 - 1 then 1 else u.nextId + 1) ∧ s'.spawnU.nextOrder = u.nextOrder + 1 ∧
    s'.threads = s.threads ∧ s'.mem = s.mem

/-- R19, R20, R180, R290, R321 to R323, R336 to R338, R345, R347, R353, R398: the spawn unit's steps. The head flock ages;
a flock is placed on cores of one quad that fit it, unless one before it can be placed or it would take the room that
evictions make for the head; a victim is evicted, its bolts take save areas as the pool has them, and it is saved with the
last; a run that has ended writes its completion word, once the host has given its region up; a respawn goes on with the
readers of the tiles written anew and what depends on them, at most to the eighth round. Which quad and which victims are
taken where the rules leave a choice, and the room kept for the head, are the model's (log entry 35); an event that is not
due changes nothing (log entry 58). -/
def Obligations.SpawnUnitSteps : Prop :=
  (∀ (s : State) (w : WaitFlock), s.headFlock = some w →
    (w.since + 65536 ≤ s.gtick → exec .placementAgeLimit s =
      .next { s with spawnU := { s.spawnU with aged := some (w.spawn, w.fcoord) } }) ∧
    (s.gtick < w.since + 65536 → exec .placementAgeLimit s = .next s) ∧
    (w ∈ s.spawnU.waiting ∧ ∀ x ∈ s.spawnU.waiting, x.prio < w.prio ∨ x.prio = w.prio ∧
      (w.order < x.order ∨ w.order = x.order ∧ w.fcoord ≤ x.fcoord))) ∧
  (∀ (s : State) (w : WaitFlock) (sp : Spawn) (cores : List Nat), s.spawnU.waiting.find?
      (fun x => x.spawn == w.spawn && x.fcoord == w.fcoord) = some w → tabGet s.spawnU.spawns w.spawn = some sp →
    sp.desc.pclass ≠ 0 →
    (s.offered sp.desc w = true → s.heldByAge w = false →
      (∀ x ∈ s.spawnU.waiting, x.before w = true → s.heldByAge x = true ∨ s.wouldPlace x = none) →
      cores.length = sp.desc.fm1 + 1 → cores.Nodup → (∀ c ∈ cores, c < 144 ∧ quadOf c = quadOf (cores.head?.getD 0) ∧
        0 < s.roomOn (s.demand sp.desc [w]) [] c) → s.keepsRoom (s.placeFlock w cores) = true →
      exec (.flockPlacement w.spawn w.fcoord cores) s = .next (s.placeFlock w cores)) ∧
    ((s.offered sp.desc w = false ∨ s.heldByAge w = true ∨ cores.length ≠ sp.desc.fm1 + 1 ∨
      (∃ x ∈ s.spawnU.waiting, x.before w = true ∧ x ≠ w ∧ s.heldByAge x = false ∧ s.wouldPlace x ≠ none) ∨
      (∃ c ∈ cores, s.roomOn (s.demand sp.desc [w]) [] c = 0) ∨ s.keepsRoom (s.placeFlock w cores) = false) →
      exec (.flockPlacement w.spawn w.fcoord cores) s = .next s)) ∧
  (∀ (s : State) (d : Desc) (core : Nat),
    ((s.wcore core).halted = true ∨ (s.wcore core).closed = true → s.roomOn d [] core = 0) ∧
    (0 < s.roomOn d [] core → 0 < (d.t + 31) / 32 → (d.t + 31) / 32 + (s.wcore core).slots.length ≤ 48 ∧
      (d.spbytes + 2047) / 2048 + (s.boltsOn core).foldl (fun n b => n + b.rows) 0 ≤ max 768
        ((s.boltsOn core).foldl (fun n b => n + b.rows) 0))) ∧
  (∀ (sp : Spawn) (id fcoord bcoord core tid tblk i n : Nat), sp.desc.args.length = 4 → i < 1024 →
    let d := sp.desc
    let b := Bolt.fresh id sp fcoord bcoord core
    let t := newThread sp b tid tblk i
    b.live = d.t ∧ b.rows = (d.spbytes + 2047) / 2048 ∧ b.nslice = d.nslice ∧ b.barWord = ⟨false, d.t, 0⟩ ∧
    b.spad = [] ∧ b.acc = [] ∧ b.handles = [] ∧ b.merr = 0 ∧ b.nweft = (d.t + 31) / 32 ∧
    t.tid = tid ∧ t.pc = d.entry ∧ t.rgn = d.entry ∧ t.pid = sp.pid ∧ t.plvl = sp.level ∧ t.tcoord = i ∧
    t.fcoord = fcoord ∧ t.bcoord = bcoord ∧ t.weft = i / 32 ∧ t.lane = i % 32 ∧ t.stage = i / 32 % d.nstage ∧
    t.nw = true ∧ t.ports = Vector.replicate 8 .unbound ∧
    (n < 4 → t.reg (n + 1) = ⟨(d.args[n]?).getD 0, true, false⟩) ∧
    (4 < n → n < 56 → t.reg n = ⟨0, true, false⟩)) ∧
  (∀ (s : State) (spawn fcoord : Nat),
    let mine := s.bolts.filter fun b =>
      !b.2.pack && b.2.spawn == spawn && b.2.fcoord == fcoord && b.2.bstate != .done
    ((∃ k ∈ s.partialEviction, (spawn, fcoord) ∈ s.evictedWith k) → (∃ b ∈ mine, b.2.evicting = false) →
      exec (.eviction spawn fcoord) s = .next (s.evictFlock (spawn, fcoord))) ∧
    ((∀ k ∈ s.partialEviction, (spawn, fcoord) ∉ s.evictedWith k) → exec (.eviction spawn fcoord) s = .next s) ∧
    let lacks := (mine.filter fun b => b.2.saveArea == 0).length
    let has := (s.queue s.savePool).words.length
    (mine ≠ [] → (∀ b ∈ mine, b.2.evicting = true ∧ b.2.bstate = .resident ∧ s.evictReady b.2 = true) →
      (lacks = 0 ∨ lacks ≤ has ∧ s.freeFor s.savePool true = true →
        ∃ s', exec (.evictionSave spawn fcoord) s = .next s' ∧
          s'.spawnU.waiting = s.spawnU.waiting ++ [⟨spawn, fcoord, ((mine.head?).map fun b => b.2.prio).getD 0,
            ((tabGet s.spawnU.spawns spawn).map Spawn.order).getD 0, s.gtick, mine.map fun b => b.2.id⟩]) ∧
      (0 < has → has < lacks → s.freeFor s.savePool true = true →
        exec (.evictionSave spawn fcoord) s = .next (s.takeAreas (mine.map fun b => b.2.id)))) ∧
    ((mine = [] ∨ (∃ b ∈ mine, b.2.evicting = false ∨ b.2.bstate ≠ .resident ∨ s.evictReady b.2 = false) ∨
      lacks ≠ 0 ∧ (has = 0 ∨ s.freeFor s.savePool true = false)) →
      exec (.evictionSave spawn fcoord) s = .next s)) ∧
  (∀ (s : State) (w : WaitFlock) (k : Nat × Nat) (sp : Spawn), tabGet s.spawnU.spawns k.1 = some sp →
    (s.isVictim w k = true ↔ sp.desc.prio < w.prio ∨ sp.desc.prio = w.prio ∧ sp.desc.pclass = 2 ∧
      (w.order < sp.order ∨ w.order = sp.order ∧ w.fcoord < k.2))) ∧
  (∀ (s : State) (sp : Spawn), tabGet s.spawnU.spawns sp.id = some sp → sp.running = true → sp.boltsLeft = 0 →
    (∀ w ∈ s.spawnU.waiting, w.spawn ≠ sp.id) → (∀ t ∈ s.traces, t.spawn ≠ sp.id) → tabWf s.spawnU.spawns = true →
    Memory.wf s.mem = true →
    (∀ x, s.wordXfer sp = some x → exec (.spawnCompletion sp.id) s = .next ((newRequest s x).getD s)) ∧
    (s.wordXfer sp = none → ∃ s', exec (.spawnCompletion sp.id) s = .next s' ∧
      tabGet s'.spawnU.spawns sp.id = none ∧ ∀ k pa, deviceAddr s sp.pid sp.level sp.desc.done.toInt .write = some (k, pa) → PlainRange k pa 8 →
        Memory.wf k.mem = true →
        Holds k.mem s'.mem pa (leBytes 8 (sp.seq.toNat % 2 ^ 63 + if sp.broke then 2 ^ 63 else 0)))) ∧
  (∀ (s : State) (sp : Spawn), tabGet s.spawnU.spawns sp.id = some sp → (sp.running = false ∨ sp.boltsLeft ≠ 0) →
    s.unplaceable sp = false → exec (.spawnCompletion sp.id) s = .next s) ∧
  (∀ (s : State) (sp : Spawn) (t : Trace), tabGet s.spawnU.spawns sp.id = some sp → s.trace? sp.id = some t →
    let g := sp.desc.fm1 + 1
    let anew := t.old.foldl (fun n o => TileSet.union n ((s.tilesOf t o.1 true).minus o.2)) (false, [])
    let sel := s.roundSel t g anew
    (sp.running = true → sp.boltsLeft = 0 → (∀ w ∈ s.spawnU.waiting, w.spawn ≠ sp.id) → t.round ≠ 0 → t.sel ≠ [] →
      (s.readers t anew = [] ∨ 8 ≤ t.round → exec (.respawnRound sp.id) s = .next
        (s.modTrace sp.id fun t => { t with sel := [], unsettled := !(s.readers t anew).isEmpty })) ∧
      (s.readers t anew ≠ [] → t.round < 8 → (∀ x ∈ s.traces, x.spawn = sp.id → x = t) → t.spawn = sp.id →
        ∃ (s' : State) (flocks : List Nat), exec (.respawnRound sp.id) s = .next s' ∧
          s'.spawnU.waiting =
            s.spawnU.waiting ++ flocks.map (fun k => ⟨sp.id, k, sp.desc.prio, sp.order, s.gtick, []⟩) ∧
          flocks.Nodup ∧ (∀ k, k ∈ flocks ↔ ∃ b ∈ sel, b / g = k) ∧
          tabGet s'.spawnU.spawns sp.id = some { sp with boltsLeft := sel.length, started := [], running := true } ∧
          ∀ u, s'.trace? sp.id = some u → u.round = t.round + 1 ∧ u.sel = sel ∧ u.nrerun = t.nrerun + sel.length ∧
            u.busy = true ∧ u.old = sel.map fun b => (b, s.tilesOf t b true))) ∧
    ((t.round = 0 ∨ t.sel = [] ∨ sp.running = false ∨ sp.boltsLeft ≠ 0) → exec (.respawnRound sp.id) s = .next s)) ∧
  ∀ s : State, exec .spawnUnitFailover s = .next { s with spawnU := { s.spawnU with onMirror := true } }

/-- R37, R39, R43, R325, R339, R340, R403: EXIT. A thread that SPWN did not create takes it as a system call; a spawned
one ends once its accesses are performed, counts no more in its bolt and its barriers, and the last one ends the bolt.
With EXIT.s that last exit reads a successor's descriptor first, once the array has done the bolt's operations; that a
saved bolt's successor does not fit is the model's choice (log entry 85). -/
def Obligations.ThreadExits : Prop :=
  (∀ f : Fields, ∀ e ∈ [(Instr.exit f, rNone, false), (.exitS f, rSrc1, true)],
    ∀ s n t, PortsReady s e.2.1 f true false [(n, t)] →
      let l := s.laneOf e.2.1 f [(n, t)] (n, t)
      (t.spawn = 0 → trapWaits s t.tid ⟨.sysc, 1, false⟩ = false → exec e.1 s = .next (afterExit
        (s.unqueued e.2.1 f [(n, t)] (takeTrap s t.tid f ⟨.sysc, 1, false⟩ true false)))) ∧
      (t.spawn ≠ 0 → ∀ v, t.lost = some v → trapWaits s t.tid ⟨.mchk, v, true⟩ = false → exec e.1 s = .next (afterExit
        (s.unqueued e.2.1 f [(n, t)] (takeTrap s t.tid f ⟨.mchk, v, true⟩ true false)))) ∧
      (t.spawn ≠ 0 → t.lost = none → s.performed t.tid = false → exec e.1 s = .next s.block.settleCur) ∧
      (t.spawn ≠ 0 → t.lost = none → s.performed t.tid = true → touchesPort e.2.1 f = false →
        ∀ b, t.bolt.bind s.bolt? = some b →
        (e.2.2 = false ∨ b.live ≠ 1 → exec e.1 s = .next (afterExit (s.exitOf t))) ∧
        (e.2.2 = true → b.live = 1 → (∀ o ∈ s.allArrOps, o.bolt ≠ b.id) →
          ∀ k w, chkDwords t s.cur.core 32 s l.a.toInt = .ok k w →
          (k.successorFits t b w = true ∨ k.wordXfer (k.refusedSpawn t (descOf w)) = none) →
          exec e.1 s = .next (afterExit (k.exitTo t b w))) ∧
        (e.2.2 = true → b.live = 1 → (∃ o ∈ s.allArrOps, o.bolt = b.id) → exec e.1 s = .next s.block.settleCur))) ∧
  (∀ (s : State) (t : Thread) (b : Bolt) (core slot lane : Nat), Keyed s → tabWf s.bolts = true →
    (∀ x ∈ s.bolts, x.2.id = x.1) → s.thread? t.tid = some t → t.bolt = some b.id → s.bolt? b.id = some b →
    b.pack = false → b.bstate = .resident → t.loc = .member core slot lane → s.fw.evtid.toNat ≠ t.tid →
    let s' := s.exitOf t
    (∃ u, s'.thread? t.tid = some u ∧ u.loc = .exited ∧ u.ports = Vector.replicate 8 .unbound ∧ u.inbox = [] ∧
      u.bwait = none) ∧
    (∀ p ∈ s'.pend, p.tid ≠ t.tid) ∧
    (b.live ≠ 1 → b.live ≠ 0 → ∃ b', s'.bolt? b.id = some b' ∧ b'.live = b.live - 1 ∧ b'.bstate = b.bstate ∧
      b'.barWord.expect = b.barWord.expect - 1 ∧ b'.spad = b.spad) ∧
    (b.live = 1 → ∀ b', s'.bolt? b.id = some b' → b'.bstate = .done)) ∧
  ∀ (s : State) (t : Thread) (b : Bolt) (w : List Nat),
    let d := descOf w
    (s.successorFits t b w = true → descValid w = true ∧ d.nflock = 1 ∧ d.fm1 = 0 ∧
      (d.spbytes + 2047) / 2048 ≤ b.rows ∧ d.nslice ≤ b.nslice)


/-! ### Declared bursts, clocks, permits and heat (R363 to R380) -/

namespace Sys2Proof.Claims

open Sys2Proof.Machine

/-- An instruction that sets the declaration of the issuing bolt, once per issue; it does nothing in a pack bolt or on
a latency core (R376). -/
def Declares (i : Instr) (r : OpRule) (f : Fields) (d : Nat → Option Decl) : Prop :=
  (∀ s b ls n t, AtArray s r f b ls n t →
    exec i s = .next ((if b.pack then s else s.putBolt { b with decl := d (s.wcore b.core).cyc }).putThreads
      (ls.map fun p => p.2.past f false)).bump) ∧
  ∀ s n t, Ready s r f false [(n, t)] → t.onLatency = true →
    exec i s = .next (s.lanesTo [(n, t)] fun _ t => t.past f false)

/-- A bit as a number. -/
def bitOf (b : Prop) [Decidable b] : Nat := if b then 1 else 0

/-- The request of a slice (R368, R369): the greatest of its wefts' requests, each clipped to its context's ceiling. -/
def SliceAsks (s : State) (core slice req : Nat) : Prop :=
  let ceiling (w : Weft) : Nat :=
    if 2 ≤ (s.trip core).level then 16
    else 16 + min 3 ((s.bolt? w.bolt).elim (s.ctx 0).cap fun b => (s.ctx b.pid).cap)
  4 ≤ req ∧
  (∀ p ∈ (s.wcore core).slots, p.1 / 8 = slice → ∀ m ∈ p.2.members, ∀ t, s.thread? m.2 = some t →
    min t.clock (ceiling p.2) ≤ req) ∧
  (req = 4 ∨ ∃ p ∈ (s.wcore core).slots, p.1 / 8 = slice ∧ ∃ m ∈ p.2.members, ∃ t, s.thread? m.2 = some t ∧
    req = min t.clock (ceiling p.2))

/-- The reading of a column or L-die (R373): the greatest of its sensors' values after substitution. -/
def Reads (s : State) (col : Nat) (v : Int) : Prop :=
  let value (k : Nat) : Int :=
    if (s.sensor k).suspect then max (s.sensor (neighbours k).1).raw (s.sensor (neighbours k).2).raw + 80
    else (s.sensor k).raw
  (∃ k ∈ sensorsOf col, value k = v) ∧ ∀ k ∈ sensorsOf col, value k ≤ v

/-- A trip temperature in sixteenths of a degree (R374). -/
def limitOf (s : State) (trip : Nat) : Int := 16 * ((s.fw.tlim.toNat / 2 ^ (8 * (trip - 1)) % 2 ^ 8 : Nat) : Int)

/-- What makes a sensor suspect (R375), in sixteenths of a degree. -/
def Suspect (s : State) (k : Nat) : Prop :=
  let x := s.sensor k
  let n := (s.sensor (neighbours k).1).raw
  let m := (s.sensor (neighbours k).2).raw
  (x.since + 1024 ≤ s.gtick ∧ 32 < |n - x.atSince.1| ∧ 32 < |m - x.atSince.2|) ∨ x.raw < -640 ∨ 2400 < x.raw ∨
    (240 < |x.raw - n| ∧ 240 < |x.raw - m|)

end Sys2Proof.Claims

/-- R364, R368, R370, R376 to R380: PHS and PHSX set and end the declaration of their bolt; SPL sets the clock request
of each lane, clamped to 4 to 19; PQRY answers a snapshot, of which two forms answer 0 on a latency core. Bit 3 of PQRY.b
says that the context holds a cluster which is boosted or for which it asks: the model's reading (log entry 46). -/
def Obligations.PowerInstructions : Prop :=
  ∀ f : Fields,
    let v := f.imm.toNat
    let snapshot (i : Instr) (val : State → Thread → Nat) : Prop :=
      Runs i rDst f false false (fun _ _ => True)
        (fun k l => k.putThread ((l.thread.setReg f.rd ⟨BitVec.ofNat 64 (val k l.thread), true, false⟩).past f false))
        fun _ _ => 0
    (f.imm.toNat < 2 ^ 21 → Declares (.phs f) rPhs f fun c => some
      { onset := c + v % 2 ^ 8 * 256
        intensity := v / 2 ^ 8 % 2 ^ 5
        stop := if v / 2 ^ 13 % 2 ^ 8 = 0 then none else some (c + v % 2 ^ 8 * 256 + v / 2 ^ 13 % 2 ^ 8 * 4096)
        active := false
        since := 0 }) ∧
    Declares (.phsx f) rNone f (fun _ => none) ∧
    Runs (.spl f) rClfl f false false (fun _ _ => True)
      (fun k l => k.putThread (({ l.thread with
        clock := (max 4 (min 19 (addressOf f l))).toNat } : Thread).past f (touchesPort rClfl f)))
      (fun _ _ => 0) ∧
    (f.rd.val < 56 →
      snapshot (.pqryP f) (fun s t => (s.ctx t.pid).held + (s.ctx t.pid).cap * 2 ^ 8) ∧
      snapshot (.pqryB f) (fun s t =>
        if t.onLatency then 0
        else
          let cl := (s.wcore s.cur.core).cluster
          cl.b + bitOf (cl.grace = true) * 2 ^ 2 + bitOf (s.holdsCluster s.cur.core t.pid = true) * 2 ^ 3 +
            bitOf (cl.throttle ≠ none ∨ 2 ≤ (s.trip (heatColumn s.cur.core)).level) * 2 ^ 4 +
            bitOf (2 ≤ (s.trip (heatColumn s.cur.core)).level) * 2 ^ 5) ∧
      snapshot (.pqryC f) (fun s t =>
        match t.loc with
        | .member core slot _ =>
          match s.weft? core slot, (s.wcore core).ratios.toList[slot / 8]? with
          | some w, some n => n + s.weftRequest w * 2 ^ 8
          | none, some n => n + 16 * 2 ^ 8
          | some w, none => 16 + s.weftRequest w * 2 ^ 8
          | none, none => 16 + 16 * 2 ^ 8
        | _ => 0))

/-- R364, R366 to R369, R371: a declaration becomes active at its onset and ends at its end; a window that exceeds
throttles its cluster; burst starts of a quadrant are granted at least 121.9 ns apart, which the model counts as four ticks
(log entry 89), and none adds a later quarter to its group; a slice moves to the ratio of its requests; and each interval
boundary refills permits, grants boost within the headroom and charges for it. -/
def Sys2Proof.Claims.PowerEvents : Prop :=
  (∀ (s : State) (b : Bolt) (d : Decl), s.bolt? b.id = some b → b.decl = some d →
    let c := (s.wcore b.core).cyc
    (d.active = false ∧ d.onset ≤ c → exec (.declarationOnset b.id) s =
      .next (s.putBolt { b with decl := some { d with active := true, since := s.gtick } })) ∧
    (d.active = true ∨ c < d.onset → exec (.declarationOnset b.id) s = .next s) ∧
    (d.active = true → (∃ e, d.stop = some e ∧ e ≤ c) → exec (.declarationEnd b.id) s =
      .next (s.putBolt { b with decl := none })) ∧
    ((d.active = false ∨ d.stop = none ∨ ∃ e, d.stop = some e ∧ c < e) → exec (.declarationEnd b.id) s = .next s)) ∧
  (∀ (s : State) (core : Nat),
    let c := s.wcore core
    let cl := c.cluster
    (c.cyc < cl.wstart + 256 → exec (.activityWindowEnd core) s = .next s) ∧
    (cl.wstart + 256 ≤ c.cyc → tabWf cl.ctxAct = true → ∃ s', exec (.activityWindowEnd core) s = .next s' ∧
      (s'.wcore core).cluster = { cl with
        wstart := cl.wstart + 256
        throttle := if cl.dsum + 256 < cl.act then some (if cl.dlast = 0 then 4 else cl.dlast) else cl.throttle
        dsum := 0
        act := 0
        ctxAct := []
        ctxD := [] } ∧
      (∀ pid a, tabGet cl.ctxAct pid = some a → (s'.ctx pid).ubcount =
        if cl.dsum + 256 < cl.act ∧ (tabGet cl.ctxD pid).getD 0 < a
        then min ((s.ctx pid).ubcount + 1) (2 ^ 32 - 1) else (s.ctx pid).ubcount) ∧
      (∀ pid, tabGet cl.ctxAct pid = none → s'.ctx pid = s.ctx pid) ∧
      s'.threads = s.threads ∧ s'.mem = s.mem ∧ s'.bolts = s.bolts)) ∧
  (∀ (s : State) (q core : Nat) (o : ArrOp), core < 144 → quadrantOf core = q →
    let waits (c : Nat) : Prop := (s.wcore c).pass = none ∧ (s.wcore c).aq ≠ []
    (∀ g, tabGet s.grants q = some g → s.gtick < g + 4 → exec (.burstStartGrant q) s = .next s) ∧
    ((∀ g, tabGet s.grants q = some g → g + 4 ≤ s.gtick) → (∀ c, c < 144 → quadrantOf c = q → waits c → c = core) →
      (s.wcore core).ready = some o → (s.wcore core).cluster.lastEnd + 256 ≤ (s.wcore core).cyc →
      (s.wcore core).cluster.burstOk = false →
      ∃ ops : List Nat, exec (.burstStartGrant q) s = .next { s.putW core { s.wcore core with
          cluster := { (s.wcore core).cluster with burstOk := true, burstOps := ops } } with
          grants := tabPut s.grants q s.gtick } ∧ o.id ∈ ops ∧ ops.length ≤ 8 ∧
        ∀ id ∈ ops, ∃ x, x.id = id ∧ (x = o ∨ x ∈ (s.wcore core).aq ∧ x.cycle ≤ o.cycle + 4 ∧
          (x.cycle = o.cycle + 4 → (s.wcore core).cyc = o.cycle + 4)))) ∧
  (∀ (s : State) (core : Nat) (i : Fin 6) (req : Nat), core < 144 → SliceAsks s core i.val req →
    let n := min req (if 2 ≤ (s.trip core).level then 8 else 16)
    exec (.sliceRatioChange core i.val) s = .next
      (if (s.wcore core).ratios[i] = n then s
       else s.putW core { s.wcore core with ratios := (s.wcore core).ratios.set i.val n })) ∧
  (∀ s : State, s.gtick / 250 = s.interval → exec .intervalBoundary s = .next s) ∧
  (∀ s : State, s.gtick / 250 ≠ s.interval → tabWf s.wcores = true → ∃ s', exec .intervalBoundary s = .next s' ∧
    s'.interval = s.gtick / 250 ∧ s'.threads = s.threads ∧ s'.mem = s.mem ∧ s'.bolts = s.bolts ∧
    (s'.wcores.map fun p => p.2.cluster.b).sum ≤ s.fw.hdroom.toNat ∧
    ∀ core c, tabGet s.wcores core = some c → c.cluster.grace = true →
      (s'.wcore core).cluster.b = 0 ∧ (s'.wcore core).cluster.grace = false) ∧
  (∀ (s : State) (core : Nat) (c : WCore) (pid r : Nat), s.gtick / 250 ≠ s.interval → s.wcores = [(core, c)] →
    s.holder core = some (pid, r) → tabGet s.contexts pid = some (s.ctx pid) →
    let x := s.ctx pid
    let held := if pid ∈ s.boosted ∨ pid ∈ s.intervalPids then x.held else min x.cap (x.held + 1)
    let falls := c.cluster.grace = false ∧ 0 < c.cluster.b ∧ 0 < r ∧ held = 0
    ∃ s', exec .intervalBoundary s = .next s' ∧
      ((c.cluster.grace = true → (s'.wcore core).cluster = { c.cluster with b := 0, grace := false, throttle := none } ∧
        s'.ctx pid = { x with held }) ∧
      (falls → (s'.wcore core).cluster = { c.cluster with
          b := min (c.cluster.b / 2) s.fw.hdroom.toNat, grace := true, throttle := none } ∧ s'.ctx pid = { x with held }) ∧
      (c.cluster.grace = false → ¬ falls →
        let b := min (min r held) s.fw.hdroom.toNat
        (s'.wcore core).cluster = { c.cluster with b, grace := false, throttle := none } ∧
        s'.ctx pid = { x with held := held - b })))

/-- R373 to R375: a new value of a sensor marks suspect what it makes suspect, which the firmware's log lists, and its
columns climb the ladder; trips 1 and 2 end once the reading has stayed three degrees below for 1,024 ticks, but that a
suspect sensor beside a suspect one holds trip 2; a latency core at trip 3 halts in 65,536 ticks. The model's own: an
L-die's reading is the greatest of its sensors, and the log lists sensor numbers (log entry 44); suspects are judged at
SENSOR_UPDATE, and the forced trip 2 stands beside the column's own level (log entry 47). -/
def Sys2Proof.Claims.ThermalEvents : Prop :=
  (∀ (s : State) (k : Nat) (v : Int), 312 ≤ k → exec (.sensorUpdate k v) s = .next s) ∧
  (∀ (s : State) (k : Nat) (v : Int), k < 312 →
    let near := neighbours k
    ∃ i j, exec (.sensorUpdate k v) s = .next ((columnsNear k).foldl (State.climb i) j) ∧
      (∀ col, i.trip col = s.trip col) ∧ (j.sensor k).raw = v ∧
      (∃ l, j.sensorLog = s.sensorLog ++ l ∧
        ∀ m, m ∈ l ↔ (s.sensor m).suspect = false ∧ (j.sensor m).suspect = true) ∧
      ((s.sensor k).raw = v → (j.sensor k).since = (s.sensor k).since ∧ (j.sensor k).atSince = (s.sensor k).atSince) ∧
      ((s.sensor k).raw ≠ v → (j.sensor k).since = s.gtick ∧
        (j.sensor k).atSince = ((s.sensor near.1).raw, (s.sensor near.2).raw)) ∧
      (∀ m ∈ [k, near.1, near.2], (j.sensor m).suspect = true ↔ (s.sensor m).suspect = true ∨ Suspect j m) ∧
      (∀ m ∈ [k, near.1, near.2], m < 288 → (s.sensor m).suspect = false → (j.sensor m).suspect = true →
        (j.wcore (m / 2)).closed = true) ∧
      (∀ m, m ∉ [k, near.1, near.2] → j.sensor m = s.sensor m) ∧ (∀ m, m ≠ k → (j.sensor m).raw = (s.sensor m).raw) ∧
      j.trips = s.trips ∧ j.gtick = s.gtick ∧ j.fw.tlim = s.fw.tlim ∧ j.mem = s.mem ∧ j.bolts = s.bolts ∧ j.off = s.off) ∧
  (∀ (before s : State) (col : Nat) (v : Int), col < 144 ∨ col = 256 ∨ col = 257 → Reads s col v →
    let was := (before.trip col).level
    let both := ∃ k ∈ sensorsOf col, (s.sensor k).suspect = true ∧
      ((s.sensor (neighbours k).1).suspect = true ∨ (s.sensor (neighbours k).2).suspect = true)
    let s' := State.climb before s col
    ∃ level, (s'.trip col).level = max (s.ownTrip col).level level ∧
      (limitOf s 3 ≤ v → level = 3) ∧
      (v < limitOf s 3 → limitOf s 2 ≤ v ∨ both → level = 2) ∧
      (v < limitOf s 3 → v < limitOf s 2 → ¬ both → level = if limitOf s 1 ≤ v then 1 else 0) ∧
      (∀ other, other ≠ col → s'.trip other = s.trip other) ∧ s'.sensors = s.sensors ∧
      (s'.off = true ↔ s.off = true ∨ ∃ k ∈ sensorsOf col, limitOf s 4 ≤ (s.sensor k).raw) ∧
      (col < 144 → was < 2 → (s'.trip col).level = 2 →
        (s'.wcore col).cluster.b = 0 ∧ (s'.wcore col).cluster.grace = false) ∧
      (col < 144 → was < 3 → 3 ≤ (s'.trip col).level → (s'.wcore col).halted = true ∧ (s'.wcore col).closed = true) ∧
      (144 ≤ col → was < 3 → 3 ≤ (s'.trip col).level → ∀ i, i < 24 →
        let core := 256 + 24 * (col - 256) + i
        (s.lcore core).halted = false → (s'.lcore core).trip3At = some (s.gtick + 65536) ∧
        ∀ tid t, (s.lcore core).cur = some tid → s.thread? tid = some t → t.tid = tid →
          (s'.thread? tid).map Thread.entry = some (some (18, 3)))) ∧
  (∀ (s : State) (col : Nat),
    let t := s.ownTrip col
    let low (since : Option Nat) : Prop := ∃ u, since = some u ∧ u + 1024 ≤ s.gtick
    let both := ∃ k ∈ sensorsOf col, (s.sensor k).suspect = true ∧
      ((s.sensor (neighbours k).1).suspect = true ∨ (s.sensor (neighbours k).2).suspect = true)
    (both → 2 ≤ (s.trip col).level) ∧ (¬ both → s.trip col = t) ∧
    (t.level = 2 → low t.low2 →
      exec (.thermalTripClear col) s = .next { s with trips := tabPut s.trips col { t with level := 1 } }) ∧
    (t.level = 1 → low t.low1 →
      exec (.thermalTripClear col) s = .next { s with trips := tabPut s.trips col { t with level := 0 } }) ∧
    (t.level = 0 ∨ 3 ≤ t.level ∨ (t.level = 2 ∧ ¬ low t.low2) ∨ (t.level = 1 ∧ ¬ low t.low1) →
      exec (.thermalTripClear col) s = .next s)) ∧
  (∀ (s : State) (core : Nat),
    ((∃ u, (s.lcore core).trip3At = some u ∧ u ≤ s.gtick) → exec (.trip3HaltTimeout core) s =
      .next (s.putL core { s.lcore core with halted := true, trip3At := none })) ∧
    ((∀ u, (s.lcore core).trip3At = some u → s.gtick < u) → exec (.trip3HaltTimeout core) s = .next s))


/-- R364, R366 to R369, R371: a declaration becomes active at its onset and ends at its end; a window that exceeds
throttles its cluster; burst starts of a quadrant are granted at least 121.9 ns apart, which the model counts as four
ticks (log entry 89), and none adds a later quarter to its group; a slice moves to the ratio of its requests; and each
interval boundary refills permits, grants boost within the headroom and charges for it. R373 to R375: a new value of a
sensor marks suspect what it makes suspect, which the firmware's log lists, and its columns climb the ladder; trips 1 and
2 end once the reading has stayed three degrees below for 1,024 ticks, but that a suspect sensor beside a suspect one
holds trip 2; a latency core at trip 3 halts in 65,536 ticks. The model's own: an L-die's reading is the greatest of its
sensors, and the log lists sensor numbers (log entry 44); suspects are judged at SENSOR_UPDATE, and the forced trip 2
stands beside the column's own level (log entry 47). An event that is not due changes nothing (log entry 58). -/
def Obligations.PowerAndHeatEvents : Prop := Claims.PowerEvents ∧ Claims.ThermalEvents

/-! ### System instructions (R404 to R411) -/

namespace Sys2Proof.Claims

open Sys2Proof.Machine

/-- An instruction whose lanes answer a value besides their effect. -/
def Answers (i : Instr) (r : OpRule) (f : Fields) (irrev : Bool) (need : State → Lane → Prop)
    (eff : State → Lane → State × Word) : Prop :=
  Runs i r f irrev false need (fun k l =>
    ((eff k l).1.setReg l.tid f.rd ⟨(eff k l).2, true, l.poison⟩).advance l.tid f (irrev || touchesPort r f))
    fun _ _ => 0

/-- An instruction that needs the other kind of core: a lane alone traps NEEDW there, with a trapval that the spec
leaves open. -/
def NeedsOther (i : Instr) (r : OpRule) (f : Fields) (irrev : Bool) (where_ : State → Thread → Prop) : Prop :=
  ∀ s n t, Ready s r f irrev [(n, t)] → where_ s t → (∀ v, trapWaits s t.tid ⟨.needw, v, false⟩ = false) →
    ∃ v, exec i s = .next (takeTrap s.bumpFresh t.tid f ⟨.needw, v, false⟩ irrev false).bump

/-- The threads that a SIG names (R405). -/
def signalled (s : State) (k : SigTarget) (v : Nat) : List Thread :=
  (s.threads.map (·.2)).filter fun t => t.loc != .exited && match k with
    | .thread => t.tid == v
    | .group => t.pid == v
    | .bolt => t.spawned && t.spawn == v / 2 ^ 32 && s.boltIndex t.spawn t.fcoord t.bcoord == v % 2 ^ 32

/-- What a SIG answers and does (R405): the refusals in the order 3, 1, 2, 4; else the word is posted to every target
with room, and the count of them answered. -/
def signals (k : SigTarget) (s : State) (l : Lane) : State × Word :=
  let ts := signalled s k l.a.toNat
  let room := ts.filter fun t => t.inbox.length < 64
  if l.b.toNat % 2 ^ 6 = 0 ∨ l.b.toNat / 2 ^ 6 % 2 ^ 10 ≠ 0 then (s, refused 3)
  else if ts = [] then (s, refused 1)
  else if l.thread.plvl = .user ∧ (∃ t ∈ ts, t.pid ≠ l.thread.pid) then (s, refused 2)
  else if k = .thread ∧ room = [] then (s, refused 4)
  else (room.foldl (fun s t => s.modThread t.tid fun t => { t with inbox := t.inbox ++ [l.b] }) (s.released l.tid),
    BitVec.ofNat 64 room.length)

/-- The flocks that an EVCT evicts (R38, R406). -/
def evicted (k : EvctTarget) (s : State) (l : Lane) : List (Nat × Nat) := s.evctFlocks k l.a.toNat

/-- EVCT (R406): a refusal if its target does not exist; 0 if nothing of it is resident; else it begins the evictions
and waits, and answers their number once every save area has been written. -/
def Evicts (i : Instr) (f : Fields) (k : EvctTarget) : Prop :=
  let fresh (t : Thread) : Prop := ∀ ks, t.wait ≠ .evct ks
  Answers i (rDst1.at 1) f false
    (fun s l => (fresh l.thread ∧ (s.evctExists k l.a.toNat = false ∨ evicted k s l = [])) ∨
      ∃ ks, l.thread.wait = .evct ks ∧ ∀ x ∈ ks, s.leavingFlock x = false)
    (fun s l => match l.thread.wait with
      | .evct ks => (s.modThread l.tid fun t => { t with wait := .none }, BitVec.ofNat 64 ks.length)
      | _ => if s.evctExists k l.a.toNat then (if k = .context then s.clearContext l.a.toNat else s, 0)
             else (s, refused 1)) ∧
  (∀ s n t, PortsReady s (rDst1.at 1) f false false [(n, t)] →
    let l := s.laneOf (rDst1.at 1) f [(n, t)] (n, t)
    fresh t → s.evctExists k l.a.toNat = true → evicted k s l ≠ [] →
    ∃ z, z = (evicted k s l).foldl State.evictFlock s ∧
      exec i s = .next (((if k = .context then z.clearContext l.a.toNat else z).modThread l.tid fun t =>
        { t with wait := .evct (evicted k s l) }).block)) ∧
  WaitsAlone i (rDst1.at 1) f false false fun s l => ∃ ks, l.thread.wait = .evct ks ∧ ∃ x ∈ ks, s.leavingFlock x = true

/-- Whether a TLBI drops a translation of a core (R407). -/
def Drops (d : Drop) (core : Nat) (e : Tlb) : Prop :=
  match d with
  | .va v => e.vbase = v / 2 ^ e.bits
  | .vaIn v n => e.vbase = v / 2 ^ e.bits ∧ (e.glob = true ∨ e.space = n)
  | .space n => e.glob = false ∧ e.space = n
  | .all => True
  | .core c => c = core

/-- TLBI (R407): after its thread's earlier stores, it drops what it names; it completes when nothing uses it. -/
def Invalidates (i : Instr) (r : OpRule) (f : Fields) (d : State → Lane → Drop) : Prop :=
  Runs i r f false false
    (fun s l => ((∀ m, l.thread.wait ≠ .jobs m) ∧ s.storesOf l.tid = [] ∧ s.usesDropped (d s l) s.seq = false) ∨
      ∃ m, l.thread.wait = .jobs m ∧ s.usesDropped (d s l) m = false)
    (fun k l =>
      let z := k.dropTlb (d k l)
      let z := match l.thread.wait with
        | .jobs _ => z.modThread l.tid fun t => { t with wait := .none }
        | _ => z
      z.advance l.tid f (touchesPort r f)) (fun _ _ => 0) ∧
  (∀ s n t, PortsReady s r f false false [(n, t)] → (∀ m, t.wait ≠ .jobs m) → s.storesOf t.tid = [] →
    let l := s.laneOf r f [(n, t)] (n, t)
    s.usesDropped (d s l) s.seq = true →
    exec i s = .next ((s.dropTlb (d s l)).modThread t.tid fun t => { t with wait := .jobs s.seq }).block) ∧
  WaitsAlone i r f false false (fun s l =>
    ((∀ m, l.thread.wait ≠ .jobs m) ∧ s.storesOf l.tid ≠ []) ∨
      ∃ m, l.thread.wait = .jobs m ∧ s.usesDropped (d s l) m = true)

/-- Whether the issuing thread's outstanding results and accesses are done (R410). -/
def Settled (s : State) (l : Lane) : Prop := s.loadsDone l.tid = true ∧ s.performed l.tid = true

/-- The code of a binding (R175). -/
def bindingCode (p : Port) : Nat :=
  match p with
  | .unbound => 0
  | .base q => 2 ^ 13 + q
  | .chan n => 2 * 2 ^ 13 + n
  | .inbox => 3 * 2 ^ 13

/-- The parts g, s, q and t of a thread's context (R175, R410, R411), in dwords. -/
def partG (t : Thread) : List Nat :=
  (List.range 55).map (fun i => (t.reg (i + 1)).val.toNat) ++
    [1 + ∑ i ∈ Finset.range 55, bitOf ((t.reg (i + 1)).full = true) * 2 ^ (i + 1)]

def partS (s : State) (t : Thread) : List Nat :=
  [t.tid, t.pid, t.tblk, t.trapcause.toNat, t.trapval.toNat, t.trappc.toNat, t.rgn.toNat, t.pkey.toNat, t.sigmask.toNat,
   t.fmode.toNat % 2 ^ 17 + t.pwait * 2 ^ 17 + t.yage * 2 ^ 33 + s.blockCount t * 2 ^ 49 + t.plvl.code * 2 ^ 52 +
     bitOf (t.xr = true) * 2 ^ 55,
   t.tblk / 2 ^ 8 % 2 ^ 44 + s.viewOf t * 2 ^ 44, t.retPoint.toNat / 2 * 2 + bitOf (t.xr = true),
   t.clock + (match t.bwait with | some k => 2 ^ 5 + k.code * 2 ^ 6 | none => 0), 0, 0, 0]

def partQ (t : Thread) : List Nat :=
  [∑ i ∈ Finset.range 4, bindingCode (t.port i) * 2 ^ (16 * i),
   ∑ i ∈ Finset.range 4, bindingCode (t.port (4 + i)) * 2 ^ (16 * i)]

def partT (s : State) (t : Thread) : List Nat :=
  [t.monitor.line % 2 ^ 45 * 2 ^ 7 + bitOf (t.monitor.fired = true) * 2 ^ 62 + bitOf (t.monitor.armed = true) * 2 ^ 63,
   if t.onLatency then t.failed else ((t.bolt.bind s.bolt?).map Bolt.failed).getD 0]

/-- Dwords as bytes in memory. -/
def inBytes (w : List Nat) : List Byte := w.flatMap (leBytes 8)

/-- A CTXS of a part (R410): checked as a store, its bytes are written piece by piece; none where it cannot run. -/
def Saves (i : Instr) (f : Fields) (align : Nat) (part : State → Lane → Option (List Byte × List Bool)) : Prop :=
  let check (s : State) (l : Lane) (n : Nat) := checkSpan s l.thread s.cur.core true (addressOf f l) n align
  Runs i (rClfl.at 1) f false false
    (fun s l => Settled s l ∧ ∃ b k ps, part s l = some b ∧ check s l b.1.length = .ok k ps)
    (fun k l =>
      match part k l with
      | some b =>
        match check k l b.1.length with
        | .ok k' ps => (ps.foldl (fun z p => z.writePiece l.thread k.cur.core b.1 b.2 p) k').advance l.tid f
            (touchesPort (rClfl.at 1) f)
        | _ => k
      | none => k) (fun _ _ => 0) ∧
  TrapsAlone i (rClfl.at 1) f false false (fun s l =>
    if s.loadsDone l.tid && s.performed l.tid then
      match part s l with
      | some b =>
        match check s l b.1.length with
        | .trap k tr => if k = s then some tr else none
        | _ => none
      | none => none
    else none) false ∧
  WaitsAlone i (rClfl.at 1) f false false fun s l => ¬ Settled s l

/-- A CTXL of a part (R410): checked as a load, its bytes are read piece by piece, with their poison marks. -/
def Restores (i : Instr) (f : Fields) (align : Nat) (size : State → Lane → Option Nat)
    (put : State → Lane → Marked → Option State) : Prop :=
  let check (s : State) (l : Lane) (n : Nat) := checkSpan s l.thread s.cur.core false (addressOf f l) n align
  Runs i (rClfl.at 1) f false false
    (fun s l => Settled s l ∧ ∃ n k ps, size s l = some n ∧ check s l n = .ok k ps ∧
      put (k.readSpan l.thread ps).1 l (k.readSpan l.thread ps).2 ≠ none)
    (fun k l =>
      match size k l with
      | some n =>
        match check k l n with
        | .ok k' ps => (put (k'.readSpan l.thread ps).1 l (k'.readSpan l.thread ps).2).getD k
        | _ => k
      | none => k) (fun _ _ => 0) ∧
  TrapsAlone i (rClfl.at 1) f false false (fun s l =>
    if s.loadsDone l.tid && s.performed l.tid then
      match size s l with
      | some n =>
        match check s l n with
        | .trap k tr => if k = s then some tr else none
        | _ => none
      | none => none
    else none) false ∧
  WaitsAlone i (rClfl.at 1) f false false fun s l => ¬ Settled s l

/-- The thread that CTXL.s brings in, `u`, with what the package knows better of it, as `t`: the view stamp re-based as
the sweep re-bases one (R240), and no barrier wait that has ended meanwhile (R392). -/
noncomputable def broughtUp (s : State) (t u : Thread) : Thread :=
  let known : Prop := ∃ x, s.thread? t.tid = some x ∧ x.loc ≠ .exited ∧ x.pid = t.pid
  open Classical in
  { u with
    vstamp := stampMax (s.rebase u.vstamp) (if known then t.vstamp else s.rebase u.vstamp)
    bwait := if known ∧ u.bwait ≠ t.bwait then none else u.bwait }

/-- The bolt of a lane in a weft. -/
def boltFor (s : State) (l : Lane) : Option Bolt := if l.thread.onLatency then none else l.thread.bolt.bind s.bolt?

end Sys2Proof.Claims

/-- R391, R397, R404 to R406: SIG posts a signal word to the threads its target names, a release, which a lost store
stops, or answers a refusal; EVCT evicts the resident flocks of its target and answers their number when every save area has been written. -/
def Obligations.SignalsAndEvictions : Prop :=
  ∀ f : Fields,
    (∀ e ∈ [(Instr.sig f, SigTarget.thread), (.sigG f, .group), (.sigB f, .bolt)],
      Answers e.1 rDst2 f true (fun s l => l.thread.lost = none ∧ s.performed l.tid = true) (signals e.2) ∧
      TrapsAlone e.1 rDst2 f true false (fun _ l => l.thread.lost.map fun v => ⟨.mchk, v, true⟩) false ∧
      WaitsAlone e.1 rDst2 f true false fun s l => l.thread.lost = none ∧ s.performed l.tid = false) ∧
    ∀ e ∈ [(Instr.evctB f, EvctTarget.bolt), (.evctF f, .flock), (.evctS f, .spawn), (.evctC f, .context)],
      Evicts e.1 f e.2

/-- R407 to R409: TLBI drops exactly the translations it names, and keeps every other; HALT stops a latency core with its
thread in place, or empties and closes a weft core; HALT.p halts every core; WFI waits on a latency core for a word that
sigmask does not block, and WFI.t no longer than its bound, which a word of a queue gives at the issue that pops it
(R58); WFI_TIMEOUT before its time changes nothing (log entry 58). -/
def Obligations.InvalidationHaltingAndIdling : Prop :=
  (∀ f : Fields,
    Invalidates (.tlbiVa f) (rSrc1.at 1) f (fun _ l => .va l.a.toNat) ∧
    Invalidates (.tlbiVas f) (rSrc2.at 1) f (fun _ l => .vaIn l.a.toNat (l.b.toNat % 2 ^ 16)) ∧
    Invalidates (.tlbiAs f) (rSrc1.at 1) f (fun _ l => .space (l.a.toNat % 2 ^ 16)) ∧
    Invalidates (.tlbiAll f) (rNone.at 1) f (fun _ _ => .all) ∧
    Invalidates (.tlbiL f) (rNone.at 1) f (fun s _ => .core s.cur.core)) ∧
  (∀ (s : State) (d : Drop) (core : Nat) (e : Tlb),
    (e ∈ ((s.dropTlb d).wcore core).tlb ↔ e ∈ (s.wcore core).tlb ∧ ¬ Drops d core e) ∧
    (e ∈ ((s.dropTlb d).lcore core).tlb ↔ e ∈ (s.lcore core).tlb ∧ ¬ Drops d core e)) ∧
  (∀ f : Fields,
    Runs (.halt f) (rNone.at 1) f false false (fun s l => l.thread.onLatency = true → s.performed l.tid = true)
      (fun k l => (if l.thread.onLatency then
          k.putL k.cur.core { k.lcore k.cur.core with halted := true, trip3At := none }
        else k.emptyCore k.cur.core).advance l.tid f false) (fun _ _ => 0) ∧
    WaitsAlone (.halt f) (rNone.at 1) f false false
      (fun s l => l.thread.onLatency = true ∧ s.performed l.tid = false) ∧
    Runs (.haltP f) (rNone.at 2) f false false (fun s l => s.performed l.tid = true)
      (fun k l => k.haltPackage.advance l.tid f false) (fun _ _ => 0) ∧
    WaitsAlone (.haltP f) (rNone.at 2) f false false (fun s l => s.performed l.tid = false)) ∧
  (∀ (s : State) (core : Nat), ((s.emptyCore core).wcore core).halted = true ∧
    ((s.emptyCore core).wcore core).closed = true) ∧
  (∀ (s : State) (core : Nat), (core < 144 → (s.haltPackage.wcore core).halted = true) ∧
    (256 ≤ core → core < 304 → (s.haltPackage.lcore core).halted = true)) ∧
  (∀ f : Fields, ∀ e ∈ [(Instr.wfi f, rDst.at 1, fun (_ : Lane) => (none : Option Nat)),
      (.wfiT f, rDst1.at 1, fun l => some (l.a.toNat % 2 ^ 32))],
    let hears (t : Thread) : Prop := ∃ w ∈ t.inbox, t.sigmask.getLsbD (w.toNat % 2 ^ 6) = false
    let timedOut (s : State) (t : Thread) : Prop := ∃ g n, t.wait = .wfiPort g n ∧ g + n ≤ s.gtick
    Answers e.1 e.2.1 f false (fun s l => l.thread.onLatency = true ∧ (hears l.thread ∨ timedOut s l.thread))
      (fun k l => (k.modThread l.tid fun t => { t with wait := .none },
        if l.thread.inbox.any fun w => !l.thread.sigmask.getLsbD (w.toNat % 2 ^ 6) then 0 else 1)) ∧
    (∀ s n t, PortsReady s e.2.1 f false false [(n, t)] → t.onLatency = true → ¬ hears t →
      let w := match e.2.2 (s.laneOf e.2.1 f [(n, t)] (n, t)) with
        | some n => if f.s1.val < 56 then .wfi f.rd.val s.gtick (some n) else .wfiPort s.gtick n
        | none => .wfi f.rd.val s.gtick none
      ((∀ rd g b, t.wait ≠ .wfi rd g b) → (∀ g b, t.wait ≠ .wfiPort g b) →
        exec e.1 s = .next (s.modThread t.tid fun t => { t with wait := w }).block) ∧
      ((∃ rd g b, t.wait = .wfi rd g b) ∨ (∃ g b, t.wait = .wfiPort g b ∧ s.gtick < g + b) →
        exec e.1 s = .next s.block)) ∧
    NeedsOther e.1 e.2.1 f false fun _ t => t.onLatency = false) ∧
  ∀ (s : State) (t : Thread) (rd g n : Nat), s.thread? t.tid = some t → t.wait = .wfi rd g (some n) →
    (g + n ≤ s.gtick → exec (.wfiTimeout t.tid) s =
      .next (s.putThread { t.setReg rd ⟨1, true, false⟩ with wait := .none, pc := t.pc + 4 })) ∧
    (s.gtick < g + n → exec (.wfiTimeout t.tid) s = .next s)

/-- R175, R400, R401, R410, R411: CTXS writes each part of a context to memory in the layout the spec gives, and CTXL
takes it back; CTXL.s in a weft, and the h part in a pack bolt, are PROT, a latency core has no part of a bolt (NEEDW),
and a part of another process is MCHK (R201); a span's pieces cover it, and each is written and read whole. The model's
choices: pieces that end at each 32-byte boundary (log entry 54), the core's registers, ports and level that CTXL.s
keeps (55), reserved bits dropped, so that they read as 0 (68), and how the view stamp and a pending barrier wait of
the incoming thread are brought up to date (86). -/
def Obligations.ContextParts : Prop :=
  (∀ f : Fields,
    Saves (.ctxsG f) f 8 (fun _ l => some (inBytes (partG l.thread),
      (List.range 55).flatMap fun i => List.replicate 8 (l.thread.reg (i + 1)).poison)) ∧
    Saves (.ctxsS f) f 8 (fun s l => some (inBytes (partS s l.thread), [])) ∧
    Saves (.ctxsQ f) f 8 (fun _ l => some (inBytes (partQ l.thread), [])) ∧
    Saves (.ctxsT f) f 8 (fun s l => some (inBytes (partT s l.thread), [])) ∧
    Saves (.ctxsM f) f 64 (fun s l => ((boltFor s l).filter fun b => !s.arrayBusy b.id).map fun b =>
      ((List.range (4096 * b.nslice)).flatMap fun e => leBytes 4 (b.accElem e),
        (List.range (4096 * b.nslice)).flatMap fun e => List.replicate 4 (b.accErr.contains e))) ∧
    Saves (.ctxsSp f) f 64 (fun s l => ((boltFor s l).filter fun b => !s.spWaits b.id 0 (2048 * b.rows) false).map fun b =>
      (memBytes b.spad 0 (2048 * b.rows), (List.range (2048 * b.rows)).map fun i => b.spPoison.contains (i / 4))) ∧
    Saves (.ctxsH f) f 64 (fun s l => ((boltFor s l).filter fun b => !b.pack).map fun b => (inBytes (s.hPart b), [])) ∧
    Restores (.ctxlG f) f 8 (fun _ _ => some 448) (fun k l m => some
      ((k.modThread l.tid fun t => t.withRegs (dwords (m.map (·.1))) (dwordAt (dwords (m.map (·.1))) 55) fun i =>
        ((m.map (·.2)).drop (8 * i)).take 8 |>.any id).advance l.tid f (touchesPort (rClfl.at 1) f))) ∧
    Restores (.ctxlQ f) f 8 (fun _ _ => some 16) (fun k l m =>
      let w := dwords (m.map (·.1))
      some ((k.modThread l.tid fun t => t.withBinds (dwordAt w 0) (dwordAt w 1)).advance l.tid f
        (touchesPort (rClfl.at 1) f))) ∧
    Restores (.ctxlT f) f 8 (fun _ _ => some 16) (fun k l m =>
      let w := dwords (m.map (·.1))
      let mon : Monitor := if dwordAt w 0 / 2 ^ 63 % 2 = 1 then ⟨dwordAt w 0 / 2 ^ 7 % 2 ^ 45, true, true, false⟩
        else Monitor.idle
      some (((k.modThread l.tid fun t => { t with monitor := mon }).setFailed l.thread (dwordAt w 1)).advance l.tid f
        (touchesPort (rClfl.at 1) f))) ∧
    Restores (.ctxlS f) f 8 (fun _ l => if l.thread.onLatency then some 128 else none) (fun k l m =>
      let w := dwords (m.map (·.1))
      let t := k.incoming (dwordAt w 0) (dwordAt w 1) (dwordAt w 2)
      if k.pidMismatch (dwordAt w 1) then none
      else some (k.switchThread k.cur.core ((k.thread? l.tid).getD l.thread) (broughtUp k t (t.withSPart w))
        (nextPc f l.thread.pc))) ∧
    TrapsAlone (.ctxlS f) (rClfl.at 1) f false false (fun s l =>
      if s.loadsDone l.tid && s.performed l.tid && !l.thread.onLatency
      then some ⟨.prot, BitVec.ofInt 64 (addressOf f l), true⟩ else none) false ∧
    TrapsAlone (.ctxlS f) (rClfl.at 1) f false false (fun s l =>
      if s.loadsDone l.tid && s.performed l.tid && l.thread.onLatency then
        match checkSpan s l.thread s.cur.core false (addressOf f l) 128 8 with
        | .ok k ps => if (k.readSpan l.thread ps).1.pidMismatch (dwordAt (dwords ((k.readSpan l.thread ps).2.map (·.1))) 1)
          then some ⟨.mchk, 2, false⟩ else none
        | _ => none
      else none) false ∧
    (∀ i ∈ [Instr.ctxsH f, .ctxlH f], TrapsAlone i (rClfl.at 1) f false false (fun s l =>
      if s.loadsDone l.tid && s.performed l.tid && (boltFor s l).any fun b => b.pack
      then some ⟨.prot, BitVec.ofInt 64 (addressOf f l), true⟩ else none) false) ∧
    Restores (.ctxlM f) f 64
      (fun s l => ((boltFor s l).filter fun b => !s.arrayBusy b.id).map fun b => 16384 * b.nslice)
      (fun k l m => (l.thread.bolt.bind k.bolt?).map fun b =>
        (k.loadSlices b.id b.nslice m).advance l.tid f (touchesPort (rClfl.at 1) f)) ∧
    Restores (.ctxlSp f) f 64
      (fun s l => ((boltFor s l).filter fun b => !s.spWaits b.id 0 (2048 * b.rows) true).map fun b => 2048 * b.rows)
      (fun k l m => (l.thread.bolt.bind k.bolt?).map fun b => (k.modBolt b.id fun b =>
        { b.write 0 (m.map (·.1)) with
          spPoison := (poisonWords 0 (m.map (·.2))).foldl addrAdd (b.write 0 (m.map (·.1))).spPoison }).advance l.tid f
        (touchesPort (rClfl.at 1) f)) ∧
    Restores (.ctxlH f) f 64 (fun s l => ((boltFor s l).filter fun b => !b.pack).map fun _ => 6144)
      (fun k l m => (l.thread.bolt.bind k.bolt?).map fun b =>
        (k.modBolt b.id fun b => b.loadHeader (dwords (m.map (·.1)))).advance l.tid f (touchesPort (rClfl.at 1) f)) ∧
    ∀ i ∈ [Instr.ctxsM f, .ctxsSp f, .ctxsH f, .ctxlM f, .ctxlSp f, .ctxlH f],
      NeedsOther i (rClfl.at 1) f false fun s t =>
        t.onLatency = true ∧ s.loadsDone t.tid = true ∧ s.performed t.tid = true) ∧
  (∀ (s k : State) (t : Thread) (core : Nat) (write : Bool) (v : Int) (n align : Nat) (ps : List Piece),
    checkSpan s t core write v n align = .ok k ps →
    (∀ i, i < n → ∃ p ∈ ps, p.2.1 ≤ i ∧ i < p.2.1 + p.2.2) ∧
    ∀ p ∈ ps, p.2.1 + p.2.2 ≤ n ∧ ((v + p.2.1) % 32 + p.2.2 : Int) ≤ 32) ∧
  (∀ (s : State) (t : Thread) (core : Nat) (bs : List Byte) (pz : List Bool) (p : Piece),
    p.2.1 + p.2.2 ≤ bs.length → PlainRange s p.1.pa p.2.2 → s.traces = [] → Memory.wf s.mem = true →
    Holds s.mem (s.writePiece t core bs pz p).mem p.1.pa ((bs.drop p.2.1).take p.2.2)) ∧
  (∀ (s : State) (t : Thread) (p : Piece), PlainRange s p.1.pa p.2.2 → s.traces = [] →
    (s.readPiece t p).2.map (·.1) = memBytes s.mem p.1.pa p.2.2 ∧ (s.readPiece t p).1.mem = s.mem) ∧
  (∀ t u : Thread, (∀ i, i < 55 → (u.withRegs (partG t) (dwordAt (partG t) 55) fun _ => false).reg (i + 1) =
    ⟨(t.reg (i + 1)).val, (t.reg (i + 1)).full, false⟩)) ∧
  (∀ t u : Thread, (∀ i, i < 8 → (∀ q, t.port i = .base q → q < 2 ^ 13) ∧ ∀ n, t.port i = .chan n → n < 2 ^ 13) →
    (u.withBinds (dwordAt (partQ t) 0) (dwordAt (partQ t) 1)).ports = t.ports) ∧
  (∀ (s : State) (t u : Thread), t.pwait < 2 ^ 16 → t.yage < 2 ^ 16 → s.blockCount t < 8 → s.viewOf t < 2 ^ 20 →
    4 ≤ t.clock → t.clock ≤ 19 →
    let v := u.withSPart (partS s t)
    let m := t.fmode.toNat
    v.trapcause.toNat = t.trapcause.toNat % 2 ^ 11 ∧ v.trapval = t.trapval ∧ v.trappc = t.trappc ∧
    v.rgn = t.rgn &&& ~~~1#64 ∧ v.pkey = t.pkey ∧ v.sigmask = t.sigmask &&& ~~~1#64 ∧
    v.fmode.toNat = m / 2 ^ 12 % 2 ^ 5 * 2 ^ 12 + m / 2 ^ 4 % 2 ^ 5 * 2 ^ 4 + min 5 (m % 2 ^ 3) ∧
    v.pwait = t.pwait ∧ v.yage = t.yage ∧ v.blocks = s.blockCount t ∧
    v.vstamp = s.viewOf t ∧ v.retPoint = t.retPoint &&& ~~~1#64 ∧ v.xr = t.xr ∧ v.clock = t.clock ∧ v.bwait = t.bwait ∧
    v.plvl = u.plvl ∧ v.tid = u.tid ∧ v.regs = u.regs) ∧
  ∀ (s : State) (core : Nat) (out inc : Thread) (pc : Word), inc.tid ≠ out.tid →
    let s' := s.switchThread core out inc pc
    (s'.lcore core).cur = some inc.tid ∧
    s'.thread? inc.tid = some { inc with
      regs := out.regs
      ports := out.ports
      pc
      plvl := out.plvl
      sub := .active
      wait := .none
      leave := none
      loc := .latency core
      monitor := Monitor.idle } ∧
    ∃ u, s'.thread? out.tid = some u ∧ u.loc = .saved ∧ u.regs = out.regs ∧ u.pc = out.pc


/-! ### Steps of threads and wefts (R22 to R26, R34 to R36, R52 to R55, R172, R387 to R393) -/

namespace Sys2Proof.Claims

open Sys2Proof.Machine

/-- The address a weft issues at (R26): the lowest of the active lanes of its override set, or, with none, of all. -/
def IssuesAt (s : State) (w : Weft) (a : Word) : Prop :=
  let chosen (p : Nat × Thread) : Prop := (∃ q ∈ s.activeLanes w, w.ovr.getLsbD q.1 = true) → w.ovr.getLsbD p.1 = true
  (∃ p ∈ s.activeLanes w, chosen p ∧ p.2.pc = a) ∧ ∀ p ∈ s.activeLanes w, chosen p → a ≤ p.2.pc

/-- The address of the oldest waiting group of a weft that stalls at an address (R26): of the other groups, the one with
the greatest age, the lower address on a tie. -/
def OldestAt (s : State) (w : Weft) (here a : Word) : Prop :=
  let oldest (p : Nat × Thread) : Prop :=
    p ∈ s.activeLanes w ∧ p.2.pc ≠ here ∧ ∀ q ∈ s.activeLanes w, q.2.pc ≠ here → q.2.age ≤ p.2.age
  (∃ p, oldest p ∧ p.2.pc = a) ∧ ∀ p, oldest p → a ≤ p.2.pc

/-- The step in which all lanes that issue take one trap of the fetch (R54). -/
def FetchTraps (i : Instr) (tr : Trap) : Prop :=
  ∀ s ls, LaneGroup s ls →
    ((∀ p ∈ ls, trapWaits s p.2.tid tr = false) →
      ∀ f, exec i s = .next (ls.foldl (fun k p => takeTrap k p.2.tid f tr false false) s).bump) ∧
    ((∃ p ∈ ls, trapWaits s p.2.tid tr = true) → exec i s = .next s.block)

/-- A word that a thread may take: the oldest that sigmask does not block (R392). -/
def Takes (t : Thread) (w : Word) (rest : List Word) : Prop :=
  t.plvl = .user ∧ ∃ xs ys, t.inbox = xs ++ w :: ys ∧ rest = xs ++ ys ∧ t.sigmask.getLsbD (w.toNat % 2 ^ 6) = false ∧
    ∀ x ∈ xs, t.sigmask.getLsbD (x.toNat % 2 ^ 6) = true

/-- A thread that waits in an instruction which takes no signal until it completes (R392). -/
def Deaf (t : Thread) : Prop :=
  t.wait = .submitted ∨ t.wait = .earlier ∨ (∃ a, t.wait = .accepted a) ∨ (∃ a b, t.wait = .nbar a b) ∨ (∃ a b c, t.wait = .arriving a b c) ∨
    (∃ a b c, t.wait = .wfi a b c) ∨ ∃ a b, t.wait = .wfiPort a b

/-- A lane on its way out of its weft (R34), with xr set. -/
def leavingLane (t : Thread) (asSub : Sub) : Thread :=
  { t with sub := .extractParked, leave := some (.latency none), asSub, xr := true }

/-- A lane that a signal takes from its weft (R393): it travels as it stands, at a barrier or fault-parked, else active. -/
def calledAway (t : Thread) : Thread :=
  leavingLane { t with wait := .none } (match t.sub with
    | .faultParked => .faultParked
    | .barrier k => .barrier k
    | _ => .active)

/-- The members of a weft that a signal takes from it (R393): those with a takeable word, that no instruction keeps
until it completes, that are not on their way already and whose bolt is not being evicted. -/
def CalledAway (s : State) (t : Thread) : Prop :=
  (∃ x rest, Takes t x rest) ∧ ¬ Deaf t ∧ t.sub ≠ .extractParked ∧
    ¬ ∃ b, t.bolt.bind s.bolt? = some b ∧ b.evicting = true

/-- A resume word (R388). -/
def resumeWord (core slot action epoch mask : Nat) : Word :=
  BitVec.ofNat 64 (mask + epoch * 2 ^ 32 + action * 2 ^ 48 + slot * 2 ^ 50 + core * 2 ^ 56)

/-- The queues of a die's faults (R386, R389): its service queue, and the resume queue after it. -/
def serviceQueueOf (s : State) (die : Nat) : Nat := (s.fw.svcq.toNat % 2 ^ 13 + 2 * (die - 2)) % 2 ^ 13

/-- The state with a resume word popped by a weft core, which acquires: its view floor rises as far as any view of the
package has (R231, R389). -/
def popped (s : State) (die core : Nat) : State :=
  let k := s.takeWords (.base ((serviceQueueOf s die + 1) % 2 ^ 13)) [0]
  k.takeView core k.viewCeil

/-- A fault-parked thread that goes on (R389): one that owes a machine check from its arrival is parked with it (R201). -/
def goesOn (t : Thread) : Thread :=
  match t.entry with
  | none => { t with sub := .active, age := 0 }
  | some (_, v) => { t with
      sub := .faultParked
      age := 0
      entry := none
      rgn := t.pc
      trapcause := BitVec.ofNat 64 (18 + 2 ^ 8 * t.plvl.code)
      trapval := v
      trappc := t.pc }

/-- A thread as its thread block gives it at an arrival (R176, R177); one with block address 0 has none (log entry 76),
and the home of a member of a full bolt is the core that its bolt is on (log entry 83). -/
def fromBlock (s : State) (t : Thread) : Thread :=
  let c := s.valueAt (t.tblk + 0x18) 8
  let bolt := t.bolt.bind s.bolt?
  if t.tblk = 0 then t
  else { t with
    pid := s.valueAt (t.tblk + 8) 8
    spawn := s.valueAt (t.tblk + 0x10) 4
    fcoord := s.valueAt (t.tblk + 0x14) 4
    tcoord := c % 2 ^ 10
    bcoord := c / 2 ^ 10 % 2 ^ 2
    stage := c / 2 ^ 17 % 2 ^ 3
    nstage := c / 2 ^ 20 % 2 ^ 4
    home := match bolt with
      | some b => if b.pack then c / 2 ^ 24 % 2 ^ 8 else b.core
      | none => c / 2 ^ 24 % 2 ^ 8
    nw := decide (c / 2 ^ 32 % 2 = 1) }

end Sys2Proof.Claims

/-- R26, R52, R54: a stall yield passes the override to the oldest waiting group, and nothing issues; an override ends
at its 64th issue; an illegal encoding and a fault tag trap every lane that issues. A yield or a limit that is not due
changes nothing (the model's choice: log entry 58). -/
def Obligations.OverridesAndFetchTraps : Prop :=
  (∀ (s : State) (w : Weft) (a : Word), s.issueAddress w = some a ↔ IssuesAt s w a) ∧
  (∀ (s : State) (core slot : Nat) (w : Weft), s.weft? core slot = some w →
    (16 ≤ w.stall ∧ IssuesAt s w w.stallPc → ∃ ovr, exec (.stallYield core slot) s =
        .next (s.putWeft core slot { w with ovr, ocount := 0, stall := 0 }) ∧
      ∀ i, i < 32 → (ovr.getLsbD i = true ↔ ∃ t, (i, t) ∈ s.activeLanes w ∧ OldestAt s w w.stallPc t.pc)) ∧
    (w.stall < 16 ∨ ¬ IssuesAt s w w.stallPc → exec (.stallYield core slot) s = .next s) ∧
    (w.ovr ≠ 0 ∧ 64 ≤ w.ocount → exec (.overrideLimit core slot) s = .next (s.putWeft core slot { w with ovr := 0 })) ∧
    (w.ovr = 0 ∨ w.ocount < 64 → exec (.overrideLimit core slot) s = .next s)) ∧
  (∀ raw : Word, FetchTraps (.illegalInstruction raw) ⟨.ill, raw, false⟩) ∧
  ∀ adr : Word, ∀ c ∈ [(6, Cause.page), (7, .prot), (10, .poison)], FetchTraps (.fetchFault c.1 adr) ⟨c.2, adr, true⟩

/-- R43, R111, R392, R393: the running thread of a latency core takes its oldest takeable word at user level, once its
loads have completed, and enters the supervisor's handler; an instruction that waits has had no effect, and at a barrier
its arrival stands; a member of a weft is extracted instead, and so are all that a signal takes before their weft
issues (R178). A step whose thread takes no signal changes nothing (the model's choice: log entry 58). -/
def Obligations.SignalsTaken : Prop :=
  (∀ (s : State) (core : Nat) (t : Thread), (s.lcore core).cur = some t.tid → s.thread? t.tid = some t →
    (∀ w rest, (s.lcore core).halted = false → Takes t w rest → ¬ Deaf t → s.loadsDone t.tid = true →
      ∀ u, u = (match t.sub with
        | .mwait => { t with sub := .active, wait := .none }
        | .barrier _ => { t with
            regs := Vector.ofFn fun i => if t.carry.getLsbD i.val then t.regs[i] else Reg.zero
            sub := .active
            retPoint := t.pc }
        | _ => { t with wait := .none }) →
      exec (.signalTake core) s = .next (s.putThread (handled s { u with inbox := rest } ⟨.signal, w, false⟩ t.pc false))) ∧
    ((s.lcore core).halted = true ∨ (∀ w rest, ¬ Takes t w rest) ∨ Deaf t ∨ s.loadsDone t.tid = false →
      exec (.signalTake core) s = .next s)) ∧
  (∀ (s : State) (core slot : Nat) (lane : Fin 32) (w : Weft) (t : Thread), s.weft? core slot = some w →
    w.lanes[lane] = some t.tid → s.thread? t.tid = some t →
    (CalledAway s t → exec (.signalExtraction core slot lane.val) s = .next (s.putThread (calledAway t))) ∧
    (¬ CalledAway s t → exec (.signalExtraction core slot lane.val) s = .next s)) ∧
  (∀ (s : State) (w : Weft), Keyed s → ∀ t ∈ s.memberThreads w,
    (CalledAway s t → (s.callLanes w).thread? t.tid = some (calledAway t)) ∧
    (¬ CalledAway s t → (s.callLanes w).thread? t.tid = some t)) ∧
  ∀ (s : State) (t : Thread) (v : Word), s.thread? t.tid = some t →
    exec (.sigmaskWrite t.tid v) s = .next (s.putThread { t with sigmask := v &&& ~~~1#64 })

/-- R201, R335, R387 to R389: the oldest fault report of a core is pushed as three words once the service queue has room
and no request waits to push there, or its lane extracted where the queue is disabled; a resume word is popped, unless a
request waits to pop, and its action done for each fault-parked lane in its mask; a word that is not valid is
discarded. The model's choices: a lane that owes a machine check from its arrival is parked with it (log entry 52), a
popped word raises the view to every view of the package (66), a process ends with its last thread (73), and an event
that is not due changes nothing (58). -/
def Obligations.ReportsAndResumes : Prop :=
  (∀ (s : State) (core slot lane : Nat) (r : Report) (rs : List Report), core < 144 →
    (s.wcore core).reports = r :: rs → r.slot = slot → r.lane = lane →
    let q := serviceQueueOf s (dieOf core)
    let fits := (s.queue q).words.length + 3 ≤ 2 ^ (s.queue q).lsz ∧ s.freeFor q false = true
    ((s.queue q).lsz ≠ 0 → fits → ∃ s', exec (.faultReport core slot lane) s = .next s' ∧
      s'.queueWords (.base q) = s.queueWords (.base q) ++ [(r.word0, false), (r.value, false), (r.pc, false)] ∧
      (∀ n, n ≠ q → s'.queueWords (.base n) = s.queueWords (.base n)) ∧ (s'.wcore core).reports = rs ∧
      s'.threads = s.threads) ∧
    (∀ t, (s.queue q).lsz = 0 → s.parkedAt core slot lane = some t → exec (.faultReport core slot lane) s =
      .next ((s.putW core { s.wcore core with reports := rs }).putThread (leavingLane t .faultParked))) ∧
    ((s.queue q).lsz ≠ 0 → ¬ fits → r.told = false → exec (.faultReport core slot lane) s =
      .next ((s.putW core { s.wcore core with reports := { r with told := true } :: rs }).deviceEvent 4 (dieOf core))) ∧
    ((s.queue q).lsz ≠ 0 → ¬ fits → r.told = true → exec (.faultReport core slot lane) s = .next s) ∧
    ∀ slot' lane', slot' ≠ slot ∨ lane' ≠ lane → exec (.faultReport core slot' lane') s = .next s) ∧
  (∀ (s : State) (die : Nat) (w : Word) (p : Bool) (rest : List (Word × Bool)),
    (s.queue ((serviceQueueOf s die + 1) % 2 ^ 13)).words = (w, p) :: rest →
    s.freeFor ((serviceQueueOf s die + 1) % 2 ^ 13) true = true →
    (∀ core slot action mask, core < 144 → dieOf core = die → slot < 48 → action < 3 → mask < 2 ^ 32 →
      w ≠ resumeWord core slot action ((tabGet (s.wcore core).epochs slot).getD 0) mask) →
    exec (.resume die) s = .next (s.takeWords (.base ((serviceQueueOf s die + 1) % 2 ^ 13)) [0]) ∧
    exec (.extract die) s = .next s ∧ exec (.terminate die) s = .next s) ∧
  (∀ (s : State) (die core slot mask : Nat) (p : Bool) (rest : List (Word × Bool)) (epoch : Nat), Keyed s →
    core < 144 → dieOf core = die → slot < 48 → mask < 2 ^ 32 → (tabGet (s.wcore core).epochs slot).getD 0 = epoch →
    epoch < 2 ^ 8 → (∀ l t, s.parkedAt core slot l = some t → t.lane = l ∧ t.loc = .member core slot l) →
    s.freeFor ((serviceQueueOf s die + 1) % 2 ^ 13) true = true →
    (s.queue ((serviceQueueOf s die + 1) % 2 ^ 13)).owed = [] →
    let head (action : Nat) : Prop := (s.queue ((serviceQueueOf s die + 1) % 2 ^ 13)).words =
      (resumeWord core slot action epoch mask, p) :: rest
    let chosen (n : Nat) : Prop := ∃ l t, l < 32 ∧ mask.testBit l = true ∧ s.parkedAt core slot l = some t ∧ t.tid = n
    let threadsAre (s' : State) (g : Thread → Thread) : Prop :=
      (∀ l t, l < 32 → mask.testBit l = true → s.parkedAt core slot l = some t → s'.thread? t.tid = some (g t)) ∧
      (∀ n, ¬ chosen n → s'.thread? n = s.thread? n) ∧ s'.mem = s.mem ∧
      (s'.queue ((serviceQueueOf s die + 1) % 2 ^ 13)).words = rest
    (head 0 → (∃ s', exec (.resume die) s = .next s' ∧ threadsAre s' goesOn) ∧
      exec (.extract die) s = .next s ∧ exec (.terminate die) s = .next s) ∧
    (head 1 → (∃ s', exec (.extract die) s = .next s' ∧ threadsAre s' fun t => leavingLane t .faultParked) ∧
      exec (.resume die) s = .next s ∧ exec (.terminate die) s = .next s) ∧
    (head 2 → exec (.resume die) s = .next s ∧ exec (.extract die) s = .next s ∧
      ∀ l t, l < 32 → mask = 2 ^ l → s.parkedAt core slot l = some t →
        (s.performed t.tid = true → exec (.terminate die) s =
          .next (if t.spawned then (popped s die core).exitOf t
            else (((popped s die core).released t.tid).endThread t).processEnd t.pid)) ∧
        (s.performed t.tid = false → exec (.terminate die) s = .next s))) ∧
  ∀ (s : State) (die : Nat), (s.queue ((serviceQueueOf s die + 1) % 2 ^ 13)).words = [] ∨
      s.freeFor ((serviceQueueOf s die + 1) % 2 ^ 13) true = false →
    exec (.resume die) s = .next s ∧ exec (.extract die) s = .next s ∧ exec (.terminate die) s = .next s

/-- R22, R23, R34 to R36, R172, R175 to R177, R201: an extraction-parked lane leaves once its loads are delivered; a
thread in transit is given to a latency core's scheduler, with what its thread block says of it, rejoins its bolt at its
place, or enters a packing pool with room; and like threads form a weft once 32 wait or the earliest has waited its
pwait. The model's choices: a block address of 0 stands for no block (log entry 76), the home of a member of a full bolt
is its bolt's core (83), and a step that is not due, or that the core does not take, changes nothing (58). -/
def Obligations.ThreadMoves : Prop :=
  (∀ (s : State) (core slot : Nat) (lane : Fin 32) (w : Weft) (t : Thread) (d : Dest), Keyed s →
    s.weft? core slot = some w → w.lanes[lane] = some t.tid → s.thread? t.tid = some t → t.sub = .extractParked →
    t.leave = some d → core < 144 → (∀ a, t.wait ≠ .crook a) →
    (t.asSub = .active ∨ t.asSub = .faultParked → s.loadsDone t.tid = true →
      ∃ s' u, exec (.laneExtraction core slot lane.val) s = .next s' ∧ s'.thread? t.tid = some u ∧ u.loc = .transit d ∧
        u.sub = t.asSub ∧ u.pc = t.pc ∧ u.rgn = t.rgn ∧ u.regs = t.regs ∧ u.ports = t.ports ∧ u.xr = t.xr ∧
        u.blocks = s.blockCount t ∧ u.retPoint = (if t.xr = true ∨ t.asSub = .faultParked then t.pc else t.retPoint) ∧
        (∀ w', s'.weft? core slot = some w' → w'.lanes[lane] = none) ∧
        (t.asSub = .faultParked → t.tblk ≠ 0 → PlainRange s (t.tblk + 0x20) 24 → Memory.wf s.mem = true →
          memBytes s'.mem (t.tblk + 0x20) 24 =
            leBytes 8 t.trapcause.toNat ++ leBytes 8 t.trapval.toNat ++ leBytes 8 t.trappc.toNat)) ∧
    (s.loadsDone t.tid = false → exec (.laneExtraction core slot lane.val) s = .next s)) ∧
  (∀ (s : State) (t : Thread) (core : Nat) (valid : Bool), Keyed s → s.thread? t.tid = some t →
    (∀ d, t.loc = .transit (.latency d) →
      (256 ≤ core → core < 304 → (s.lcore core).halted = false → d = none ∨ d = some core →
        exec (.shuttleArrival t.tid core valid) s = .next ((s.putThread { fromBlock s t with
          loc := .latency core
          clock := 16
          age := 0
          entry := if valid = false then some (18, 1)
            else if s.pidMismatch (fromBlock s t).pid then some (18, 2) else t.entry }).putL
            core { s.lcore core with run := (s.lcore core).run ++ [t.tid] })) ∧
      (core < 256 ∨ 304 ≤ core ∨ (s.lcore core).halted = true ∨ (∃ c, d = some c ∧ c ≠ core) →
        exec (.shuttleArrival t.tid core valid) s = .next s)) ∧
    (∀ b, t.loc = .transit (.weft core) → t.spawned = true → t.bolt.bind s.bolt? = some b → t.sub = .active →
      (∀ slot w (lane : Fin 32), core < 144 → (s.wcore core).halted = false → b.core = core → b.bstate = .resident →
        b.evicting = false → s.weft? core slot = some w → w.bolt = b.id → w.widx = t.weft →
        w.widx < 32 → tabWf (s.wcore core).slots = true → lane.val = t.lane → w.lanes[lane] = none →
        (∀ x ∈ (s.wcore core).slots, x.2.bolt = b.id → x.2.widx = w.widx → x.1 = slot) → valid = true →
        ∃ s' u, exec (.shuttleArrival t.tid core true) s = .next s' ∧ s'.thread? t.tid = some u ∧
          u.loc = .member core slot lane.val ∧ u.weft = w.widx ∧ u.lane = lane.val ∧ u.age = 0 ∧ u.clock = 16 ∧
          u.xr = false ∧ u.pc = t.pc ∧ u.regs = t.regs ∧ u.ports = t.ports) ∧
      (b.core ≠ core ∨ b.bstate ≠ .resident ∨ b.evicting = true ∨ (s.wcore core).halted = true ∨ 144 ≤ core →
        exec (.shuttleArrival t.tid core valid) s = .next s)) ∧
    (t.spawned = false → t.bolt = none → (t.loc = .transit (.weft core) ∨ t.loc = .transit .anyWeft) →
      let c := s.wcore core
      let enters (i : Instr) : Prop := ∃ s' u, exec i s = .next s' ∧
        (s'.wcore core).pool = c.pool ++ [(t.tid, s.gtick)] ∧ s'.thread? t.tid = some u ∧ u.loc = .pooled core ∧
        u.xr = false ∧ u.pc = t.pc ∧ u.regs = t.regs
      (core < 144 → c.halted = false → c.pool.length < 31 → enters (.poolEntry t.tid core) ∧
        (valid = true → enters (.shuttleArrival t.tid core valid))) ∧
      (144 ≤ core ∨ c.halted = true ∨ 64 ≤ c.pool.length → exec (.poolEntry t.tid core) s = .next s ∧
        exec (.shuttleArrival t.tid core valid) s = .next s))) ∧
  ∀ (s : State) (core : Nat) (t : Thread) (at_ : Nat) (ts : List (Thread × Nat)), Keyed s →
    (s.wcore core).pool = ((t, at_) :: ts).map (fun p => (p.1.tid, p.2)) →
    (∀ p ∈ (t, at_) :: ts, s.thread? p.1.tid = some p.1 ∧ p.1.sub = .active ∧ p.1.like t = true) →
    (((t, at_) :: ts).map fun p => p.1.tid).Nodup → ts.length < 32 →
    let waited := 32 ≤ ts.length + 1 ∨ at_ + t.pwait ≤ s.gtick
    (∀ slot, waited → slot < 48 → s.weft? core slot = none → (∀ n, n < slot → s.weft? core n ≠ none) →
      7 ≤ s.freeBlocks core → 16 ≤ s.freeRows core → ∃ s', exec (.pwaitExpiry core) s = .next s' ∧
        (s'.wcore core).pool = [] ∧
        ∀ i p, ((t, at_) :: ts)[i]? = some p → ∃ u, s'.thread? p.1.tid = some u ∧ u.loc = .member core slot i ∧
          u.lane = i ∧ u.bolt = some s.spawnU.nextBolt ∧ u.pc = p.1.pc ∧ u.regs = p.1.regs) ∧
    (¬ waited ∨ (∀ n, n < 48 → s.weft? core n ≠ none) ∨ s.freeBlocks core < 7 ∨ s.freeRows core < 16 →
      exec (.pwaitExpiry core) s = .next s)


/-! ### Queues, regions, links, reset and the registers that firmware writes (R334, R335, R413 to R425) -/

namespace Sys2Proof.Claims

open Sys2Proof.Machine

/-- Whether a region is one of the HDM range (R418). -/
def inRange (s : State) (region : Nat) : Prop := region < s.fw.hdm.toNat % 2 ^ 21

/-- The three bits of a region's entry in the region owner table (R418). -/
def ownBit (s : State) (region : Nat) : Bool := (s.ownerByte region).testBit 0
def pinBit (s : State) (region : Nat) : Bool := (s.ownerByte region).testBit 1
def xferBit (s : State) (region : Nat) : Bool := (s.ownerByte region).testBit 2

/-- The state with one byte of the region owner table written. -/
def ownerSet (s : State) (region v : Nat) : State :=
  { s with mem := spPut 0 s.mem (s.fw.rotbase.toNat + region) (BitVec.ofNat 8 v) }

/-- The state with a request for a transfer of a region: it is under way at once unless the region is in transfer or
keeps a new state for its 256 ticks (R419). -/
def requested (s : State) (region : Nat) (toHost : Bool) (host : Option (Nat × Bool × List Byte)) : State :=
  let s' := { s with xfers := s.xfers ++ [⟨region, toHost, s.gtick, false, host⟩] }
  if (∃ x ∈ s.xfers, x.region = region) ∨ tabGet s.dwell region ≠ none then s'
  else ownerSet s' region (s.ownerByte region ||| 4)

/-- Whether a place lies in a region of the HDM range (R418). -/
def lineOf (s : State) (region line : Nat) : Prop :=
  let base := (s.fw.hdm.toNat / 2 ^ 21 % 2 ^ 31 + region) * 2 ^ 21
  base ≤ 128 * line ∧ 128 * line < base + 2 ^ 21

/-- Whether a request of a queue still stands: some thread waits at its instruction, or the device's own push waits
(R335). -/
def standing (s : State) (w : Waiter) : Prop :=
  if w.slot = 65 then True
  else if w.slot = 64 then ∃ tid t, (s.lcore w.core).cur = some tid ∧ s.thread? tid = some t ∧ t.active = true ∧ t.pc = w.pc
  else ∃ x, s.weft? w.core w.slot = some x ∧ ∃ m ∈ x.members, ∃ t, s.thread? m.2 = some t ∧ t.active = true ∧ t.pc = w.pc

open Classical in
/-- A queue with the pushes of the device that stand at the head of its line done as far as there is room (R335,
R341). -/
noncomputable def filled (s : State) (r : Queue) : Queue :=
  let line := r.waiters.filter fun w => !w.pop && decide (standing s w)
  let room := (if r.lsz = 0 then 0 else 2 ^ r.lsz) - r.words.length
  let n := min room (min (line.takeWhile (· = Waiter.device)).length r.owed.length)
  if n = 0 then r
  else { r with
    tail := (r.tail + n) % 2 ^ r.lsz
    words := r.words ++ (r.owed.take n).map fun w => (w, false)
    owed := r.owed.drop n
    waiters := (fun l : List Waiter => l.erase Waiter.device)^[n] r.waiters }

/-- Whether the only current data of a line stand in a cache (R249), so that a reset of the caches loses them. -/
def cachedOnly (s : State) (line : Nat) : Prop :=
  ∃ d, (line, d) ∈ s.dirs ∧ (d.st = .modified ∨ d.st = .owned ∨ d.st = .priv)

/-- A machine that package reset has started again (R374, R375, R422, R423): DRAM outside lines that stood in caches, the
fuses, register blocks that do not work and a lowered trip 4 stand; the rest is as at power-on. -/
def ResetFrom (s s' : State) : Prop :=
  ((∀ line, ¬ cachedOnly s line) → s'.mem = s.mem) ∧
  (Memory.wf s.mem = true → ∀ a, ¬ cachedOnly s (a / 128) → memByte s'.mem a = memByte s.mem a) ∧
  s'.memPoison = s.memPoison ∧ s'.gtick = 0 ∧ s'.vmem = [] ∧ s'.threads = State.reset.threads ∧
  (tabWf s.wcores = true → ∀ core, let n := (s.wcore core).working
    s'.wcore core = { WCore.halted0 with working := n, rfblk := n, closed := decide (n < 7) }) ∧
  s'.bolts = [] ∧ s'.queues = [] ∧ s'.pend = [] ∧ s'.stores = [] ∧
  s'.jobs = [] ∧ s'.contexts = [] ∧ s'.trips = [] ∧ s'.off = s.off ∧
  s'.fw = { FwRegs.reset with
    fwver := s.fw.fwver
    tlim := BitVec.ofNat 64 (0x6E675F + min (s.fw.tlim.toNat / 2 ^ 24 % 2 ^ 8) 0x76 * 2 ^ 24) } ∧
  ∀ k, (s'.sensor k).raw = (s.sensor k).raw ∧ (s'.sensor k).suspect = false

/-- Whether the boot ROM accepts a firmware image (R424): the fused digest is that of its key, its signature verifies over
the rest of it, and its version is not below the fused one. -/
def Accepted (s : State) (i : Config.FwImage) : Prop :=
  sha256 (beBytes 384 i.key) = Config.fusedDigest ∧ s.fw.fwver.toNat ≤ i.version ∧
  rsaVerify i.key i.signature
    (sha256 (leBytes 8 i.version ++ leBytes 8 i.length ++ beBytes 384 i.key ++ i.rest)) = true

/-- An attestation report (R425): the nonce, the digests of the firmware and of the system software, fwver, pkgid and the
signature over them. -/
def report (s : State) (nonce : List Byte) : List Byte :=
  let i := s.outside.image.getD Config.bootImage
  let firmware := leBytes 8 i.version ++ leBytes 8 i.length ++ beBytes 384 i.key ++ beBytes 384 i.signature ++ i.rest
  let body := nonce ++ sha256 firmware ++ sha256 i.system ++ leBytes 8 s.fw.fwver.toNat ++ leBytes 8 s.fw.pkgid.toNat
  body ++ rsaSign Config.identityModulus Config.identityExponent (leBytes 32 (Config.salt s.fresh)) (sha256 body)

/-- A port that has a flit to send (R415): with fewer than 1,024 unacknowledged it goes out under the next seq, else it
waits. -/
def withFlit (x : LPort) (f : LFlit) : LPort :=
  if x.unacked.length < 1024 then
    { x with next := (x.next + 1) % 2 ^ 12, unacked := x.unacked ++ [{ f with seq := x.next % 2 ^ 12 }] }
  else { x with waiting := x.waiting ++ [f] }

/-- The state with a port's record. -/
def portSet (s : State) (port : Nat) (x : LPort) : State :=
  { s with outside := { s.outside with ports := tabPut s.outside.ports port x } }

/-- The state with a flit moved to the first port that reaches its package and is up; with none it is lost (R415, R426). -/
def moved (s : State) (f : LFlit) : State :=
  match (s.routeTo f.dest).find? fun p => (s.lport p).up with
  | some p => portSet s p ((s.lport p).enqueue f)
  | none => s

end Sys2Proof.Claims

/-- R215, R253, R334, R335, R418, R419, R426: the base die forgets requests that no thread waits with; a write of a
queue's words configures it and discards its words; a region's owner changes by transfers one at a time, which end when
nothing of the other side is left, and a new owner stays for 256 ticks; pin is written while own is 1, and a write of it
waits for a transfer to end. The model's choices: requests that no lane stands at leave the line (log entry 57); a host
write stands at once (56); a flip to the host waits for a load which has yet to read the region (81); a request stays
open once 65,536 ticks have passed (64); a step that is not due changes nothing (58). -/
def Obligations.QueueAndRegionSteps : Prop :=
  (∀ (s : State) (q : Nat),
    ((∀ w ∈ (s.queue q).waiters, standing s w) → exec (.queueRequestServe q) s = .next s) ∧
    ((∃ w ∈ (s.queue q).waiters, ¬ standing s w) → ∃ ws, exec (.queueRequestServe q) s =
        .next (s.putQueue q (filled s { s.queue q with waiters := ws })) ∧ ws.Sublist (s.queue q).waiters ∧
      ∀ w, w ∈ ws ↔ w ∈ (s.queue q).waiters ∧ standing s w)) ∧
  (∀ (s : State) (q : Nat) (v : Word),
    let empty := { s.queue q with head := 0, tail := 0, words := [] }
    let base := v.toNat / 2 ^ 12 % 2 ^ 40 * 2 ^ 12
    let lsz := v.toNat % 2 ^ 5
    let own := q / 1024 * 0x1000000000
    (q < 8192 →
      exec (.queueConfigWrite q 0 v) s = .next (s.putQueue q (filled s { empty with
        base := BitVec.ofNat 64 base
        lsz := if 5 ≤ lsz ∧ lsz ≤ 24 ∧ own ≤ base ∧ base + 8 * 2 ^ lsz ≤ own + 0xEE6B28000 then lsz else 0 })) ∧
      exec (.queueConfigWrite q 1 v) s = .next (s.putQueue q (filled s { empty with
        owner := v.toNat % 2 ^ 16
        valid := v.getLsbD 16
        all := v.getLsbD 17 }))) ∧
    ∀ word, 8192 ≤ q ∨ 2 ≤ word → exec (.queueConfigWrite q word v) s = .next s) ∧
  (∀ (s : State) (region : Nat),
    let asks (x : Xfer) : Prop := xferBit s region = true ∧
      ∃ xs ys, s.xfers = xs ++ x :: ys ∧ x.region = region ∧ ∀ y ∈ xs, y.region ≠ region
    let pin := tabGet s.outside.pins region
    let flipped (k : State) (toHost : Bool) : State := {
      ownerSet k region (if toHost then (if pin = some true then 3 else 1) else 0) with
      outside := if pin = none then k.outside else { k.outside with pins := tabDel k.outside.pins region }
      xfers := k.xfers.filter fun x => !(x.region == region && x.toHost == toHost)
      dwell := tabPut k.dwell region (k.gtick + 256) }
    let leased := ∃ p ∈ s.stamps, lineOf s region p.1 ∧
      (p.2.rts + 2 ^ 20 - (s.gtick + s.maxGuard) % 2 ^ 20) % 2 ^ 20 < 2 ^ 19
    let loading := ∃ p ∈ s.pend, ∃ pa x y t, p.phase = .home pa x y ∧ s.thread? p.tid = some t ∧
      lineOf s region (pa / 128)
    (∀ x, Memory.wf s.mem = true → asks x → x.toHost = false → exec (.ownershipTransferHToD region) s = .next (flipped s false) ∧
      exec (.ownershipTransferDToH region) s = .next s) ∧
    (∀ x, Memory.wf s.mem = true → asks x → x.toHost = true → exec (.ownershipTransferHToD region) s = .next s ∧
      (leased ∨ loading → exec (.ownershipTransferDToH region) s = .next s) ∧
      (¬ leased → ¬ loading → x.host = none →
        (∀ y ∈ s.xfers, y.region = region → y.toHost = true → y.host = none) →
        ∃ s', exec (.ownershipTransferDToH region) s = .next s' ∧ ownBit s' region = true ∧ xferBit s' region = false ∧
          (∀ line, lineOf s region line → tabGet s'.dirs line = none ∧ ∀ core c, c ∈ (s'.wcore core).l1 → c.line ≠ line) ∧
          tabGet s'.dwell region = some (s.gtick + 256) ∧ (∀ y ∈ s'.xfers, ¬ (y.region = region ∧ y.toHost = true)) ∧
          s'.mem = (flipped s true).mem)) ∧
    (xferBit s region = false ∨ (∀ x ∈ s.xfers, x.region ≠ region) →
      exec (.ownershipTransferHToD region) s = .next s ∧ exec (.ownershipTransferDToH region) s = .next s) ∧
    (∀ x, s.xfers = [x] → x.region = region → x.toHost = false → x.late = false →
      (x.since + 65536 ≤ s.gtick → exec (.ownershipTimeout region) s =
        .next { s with xfers := [{ x with late := true }] }) ∧
      (s.gtick < x.since + 65536 → exec (.ownershipTimeout region) s = .next s)) ∧
    ((∀ x ∈ s.xfers, x.region = region → x.toHost = true ∨ x.late = true) →
      exec (.ownershipTimeout region) s = .next s) ∧
    (∀ t, tabWf s.dwell = true → tabGet s.dwell region = some t →
      (t ≤ s.gtick → exec (.regionDwellExpiry region) s = .next
        (if ∃ x ∈ s.xfers, x.region = region
          then ownerSet { s with dwell := tabDel s.dwell region } region (s.ownerByte region ||| 4)
          else { s with dwell := tabDel s.dwell region })) ∧
      (s.gtick < t → exec (.regionDwellExpiry region) s = .next s)) ∧
    (tabGet s.dwell region = none → exec (.regionDwellExpiry region) s = .next s)) ∧
  (∀ (s : State) (pa region : Nat) (write : Bool) (data : List Byte),
    let base := s.fw.hdm.toNat / 2 ^ 21 % 2 ^ 31
    (pa / 2 ^ 21 < base ∨ base + s.fw.hdm.toNat % 2 ^ 21 ≤ pa / 2 ^ 21 →
      exec (.hostMemAccess pa write data) s = .next s) ∧
    (inRange s region → pa / 2 ^ 21 = base + region → data ≠ [] → (pa + data.length - 1) / 2 ^ 21 = pa / 2 ^ 21 →
      (ownBit s region = true → xferBit s region = false → ∃ s', exec (.hostMemAccess pa write data) s = .next s' ∧
        (write = false → s' = s) ∧
        (write = true → PlainRange s pa data.length → Memory.wf s.mem = true → Holds s.mem s'.mem pa data ∧
          KeepsThreads s s' ∧ s'.queues = s.queues)) ∧
      (ownBit s region = false ∨ xferBit s region = true → exec (.hostMemAccess pa write data) s =
        .next (requested s region true (some (pa, write, data)))))) ∧
  ∀ (s : State) (region : Nat) (b : Bool), (s.ownerByte region) < 8 → Memory.wf s.mem = true →
    (¬ inRange s region → exec (.regionOwnerWrite region b) s = .next s ∧ exec (.regionPinWrite region b) s = .next s) ∧
    (inRange s region →
      (ownBit s region = b → exec (.regionOwnerWrite region b) s = .next s) ∧
      (ownBit s region ≠ b → (∃ x ∈ s.xfers, x.region = region ∧ x.toHost = b) →
        exec (.regionOwnerWrite region b) s = .next s) ∧
      (ownBit s region ≠ b → (∀ x ∈ s.xfers, x.region = region → x.toHost ≠ b) →
        exec (.regionOwnerWrite region b) s = .next (requested s region b none)) ∧
      (xferBit s region = true → exec (.regionPinWrite region b) s =
        .next { s with outside := { s.outside with pins := tabPut s.outside.pins region b } }) ∧
      (xferBit s region = false → ownBit s region = false → exec (.regionPinWrite region b) s = .next s) ∧
      (xferBit s region = false → ownBit s region = true →
        exec (.regionPinWrite region b) s = .next (ownerSet s region (1 + if b then 2 else 0))))

/-- R413 to R415, R421, R423 to R426: replay keeps count of the failures of a die-to-die link and declares it down once
its eighth replay fails; a port accepts the flit it expects, takes its acknowledgement, answers a bad one with a
NAK, resends what is not acknowledged, and goes down after 16 failed resends with its traffic moved to other ports;
a scrub changes no value; package reset starts the machine again, with an image that the boot ROM accepts; an
attestation report stands in the mailbox. The model's choices: what a reset keeps (log entry 49), the standards'
byte orders, the layouts of images and reports and the place in the mailbox (13), the ninth failing flit brings a
link down (51), the links' numbers (72), details of Lingoton (87); a step that is not due changes nothing (58). -/
def Sys2Proof.Claims.LinksAndReset : Prop :=
  (∀ (s : State) (unit : Nat), exec (.memoryScrub unit) s = .next s) ∧
  (∀ (s : State) (link : Nat),
    let o := s.outside
    let n := (tabGet o.ucie link).getD 0
    (o.linkDown = true ∨ 8 ≤ link → ∀ ok, exec (.ucieFlitReceive link ok) s = .next s) ∧
    (o.linkDown = false → link < 8 →
      exec (.ucieFlitReceive link true) s = .next { s with outside := { o with ucie := tabDel o.ucie link } } ∧
      (n < 8 → exec (.ucieFlitReceive link false) s =
        .next { s with outside := { o with ucie := tabPut o.ucie link (n + 1) } }) ∧
      (8 ≤ n → ∃ s', exec (.ucieFlitReceive link false) s = .next s' ∧ s'.outside.linkDown = true ∧
        s'.mcks = s.mcks + 1 ∧ (∀ core, core < 144 → (s'.wcore core).halted = true) ∧
        (∀ core, 256 ≤ core → core < 304 → (s'.lcore core).halted = true)))) ∧
  (∀ (s : State) (port seq : Nat) (data check : List Byte),
    let x := s.lport port
    let flit := data ++ check
    (x.up = false ∨ 24 ≤ port → exec (.lingotonFlitReceive port data check) s = .next s ∧
      exec (.lingotonNak port seq) s = .next s) ∧
    (flit.length ≠ 256 → exec (.lingotonFlitReceive port data check) s = .next s) ∧
    (x.up = true → port < 24 → flit.length = 256 →
      let b := flitMended flit
      let good := leBytes 8 (Config.flitCrc (b.take 232)) = (b.drop 232).take 8
      let head := leNat (b.take 8)
      (¬ good → exec (.lingotonFlitReceive port data check) s = .next (portSet s port { x with nak := some x.expect })) ∧
      (good → head / 2 ^ 52 % 2 ^ 12 = x.expect → exec (.lingotonFlitReceive port data check) s = .next (portSet s port
        (LPort.acked { x with expect := (x.expect + 1) % 2 ^ 12, nak := none } (head / 2 ^ 40 % 2 ^ 12)))) ∧
      (good → head / 2 ^ 52 % 2 ^ 12 ≠ x.expect → exec (.lingotonFlitReceive port data check) s = .next s)) ∧
    (x.up = true → port < 24 →
      let y := x.acked seq
      let n := if y.resends ≠ 0 ∧ y.resendSeq = seq then y.resends + 1 else 1
      ((∀ f ∈ y.unacked, f.seq ≠ seq) → exec (.lingotonNak port seq) s = .next (portSet s port y)) ∧
      ((∃ f ∈ y.unacked, f.seq = seq) → n ≤ 16 → exec (.lingotonNak port seq) s =
        .next (portSet s port { y with resends := n, resendSeq := seq })) ∧
      ((∃ f ∈ y.unacked, f.seq = seq) → 16 < n → exec (.lingotonNak port seq) s =
        .next ((y.unacked ++ y.waiting).foldl moved
          (portSet s port { y with resends := n, resendSeq := seq, up := false, unacked := [], waiting := [] }))))) ∧
  (∀ (f : LFlit) (ack : Nat), f.payload.length = 224 →
    let b := f.bytes ack
    b.length = 256 ∧ flitMended b = b ∧ (b.drop 8).take 224 = f.payload ∧
    leBytes 8 (Config.flitCrc (b.take 232)) = (b.drop 232).take 8 ∧
    leNat (b.take 8) = f.credit % 2 ^ 32 + f.kind % 2 ^ 5 * 2 ^ 32 + f.vc % 2 ^ 3 * 2 ^ 37 + ack % 2 ^ 12 * 2 ^ 40 +
      f.seq % 2 ^ 12 * 2 ^ 52) ∧
  (∀ (x : LPort) (seq : Nat) (as bs : List LFlit), x.unacked = as ++ bs → (∀ f ∈ as, f.seq ≠ seq) →
    (bs = [] ∧ seq = x.next ∨ ∃ f r, bs = f :: r ∧ f.seq = seq) →
    let n := min (1024 - bs.length) x.waiting.length
    ∃ out, out.length = n ∧
      (∀ i f, i < n → x.waiting[i]? = some f → out[i]? = some { f with seq := (x.next + i) % 2 ^ 12 }) ∧
      x.acked seq = { x with
        unacked := bs ++ out
        waiting := x.waiting.drop n
        next := (x.next + n) % 2 ^ 12
        resends := if bs.any fun f => f.seq == x.resendSeq then x.resends else 0 }) ∧
  (∀ (x : LPort) (seq : Nat), seq ≠ x.next → (∀ f ∈ x.unacked, f.seq ≠ seq) → x.acked seq = x) ∧
  (∀ (x : LPort) (f : LFlit), x.next < 2 ^ 12 → x.waiting = [] ∨ 1024 ≤ x.unacked.length →
    x.enqueue f = withFlit x f) ∧
  (∀ (s : State) (i : Config.FwImage) (code : Nat) (v : Word),
    (Accepted s i → ∃ s', exec (.packageReset i code) s = .next s' ∧ ResetFrom s s' ∧ s'.lcores = State.reset.lcores ∧
      s'.outside = { Outside.reset with image := some i }) ∧
    (¬ Accepted s i → ∃ s', exec (.packageReset i code) s = .next s' ∧ ResetFrom s s' ∧
      (∀ core, (s'.lcore core).halted = true) ∧ memBytes s'.outside.mailbox 0 8 = leBytes 8 code) ∧
    (v.toNat % 2 ^ 8 = 0xA5 → exec (.pkgrst v) s = exec (.packageReset (s.outside.image.getD Config.bootImage) Config.bootFailure) s) ∧
    (v.toNat % 2 ^ 8 ≠ 0xA5 → exec (.pkgrst v) s = .next s)) ∧
  ∀ (s : State) (nonce : List Byte),
    (nonce.length = 32 → (report s nonce).length = 496 ∧ ∃ s', exec (.attestationRequest nonce) s = .next s' ∧
      (Memory.wf s.outside.mailbox = true → memBytes s'.outside.mailbox 0 496 = report s nonce) ∧
      s' = { s with outside := { s.outside with mailbox := s'.outside.mailbox }, fresh := s.fresh + 1 }) ∧
    (nonce.length ≠ 32 → exec (.attestationRequest nonce) s = .next s)

/-- R95, R96, R306, R370, R374, R375, R422: the steps that a write of a register makes besides SWR: core control, the
clearing of a suspect mark, after which the columns near the sensor climb the ladder anew, perm with held clamped to
cap, merr and its log, and any other register for a thread that stands on a core. The model's choices: corctl of a
latency core and rfblk's bounds (48), trip 2 left by reopening (47), steps that check nothing themselves (60). -/
def Sys2Proof.Claims.RegisterSteps : Prop :=
  (∀ s : State,
    let core := s.fw.corsel.toNat
    (core < 144 → exec .corctlRestart s = .next
      (if (s.wcore core).working < 7 then s else s.putW core { s.wcore core with halted := false })) ∧
    (256 ≤ core → core < 304 → exec .corctlRestart s = .next
      (s.putL core { s.lcore core with halted := false, trip3At := none })) ∧
    (core < 144 → exec (.corctlClosed true) s = .next (s.putW core { s.wcore core with closed := true })) ∧
    (core < 144 → ∃ s', exec (.corctlClosed false) s = .next s' ∧
      s'.wcore core = { s.wcore core with closed := decide ((s.wcore core).working < 7) } ∧
      (s'.trip core).level = (if (s.trip core).level = 3 then 2 else (s.trip core).level) ∧ s'.threads = s.threads ∧
      s'.mem = s.mem) ∧
    (144 ≤ core → exec (.corctlClosed true) s = .next s) ∧
    (256 ≤ core → core < 304 → ∃ s', exec (.corctlClosed false) s = .next s' ∧
      let col := 256 + (core - 256) / 24
      (s'.trip col).level = (if (s.trip col).level = 3 then 2 else (s.trip col).level) ∧ s'.threads = s.threads ∧
      s'.lcores = s.lcores ∧ s'.mem = s.mem) ∧
    (∀ n, core < 144 → exec (.corctlRfblk n) s = .next
      (s.putW core { s.wcore core with rfblk := min (max 7 (min 336 n)) (s.wcore core).working })) ∧
    (∀ n, 144 ≤ core → exec (.corctlRfblk n) s = .next s) ∧
    let k := s.fw.snsel.toNat
    exec .suspectClear s = .next ((columnsNear k).foldl (State.climb s)
      { s with sensors := tabPut s.sensors k { s.sensor k with suspect := false } })) ∧
  (∀ (s : State) (pid : Nat) (v : Word),
    let cap := v.toNat / 2 ^ 8 % 2 ^ 8
    exec (.permWrite pid v) s = .next (s.putCtx pid { s.ctx pid with cap, held := min (v.toNat % 2 ^ 8) cap })) ∧
  (∀ (s : State) (b : Bolt) (v : Word), s.bolt? b.id = some b →
    let nlog := min 8 (v.toNat % 2 ^ 4)
    ∃ b', exec (.merrWrite b.id v) s = .next (s.putBolt b') ∧
      b'.merr.toNat = nlog + v.toNat / 2 ^ 4 % 2 * 2 ^ 4 + v.toNat / 2 ^ 16 % 2 ^ 5 * 2 ^ 16 +
        v.toNat / 2 ^ 32 % 2 ^ 16 * 2 ^ 32 ∧
      (∀ e, e < nlog → b'.elog[e]? = b.elog[e]?) ∧ (∀ e, nlog ≤ e → b'.elog[e]? = none) ∧
      b' = { b with merr := b'.merr, elog := b'.elog }) ∧
  ∀ (s : State) (t : Thread) (core number : Nat) (v : Word), s.thread? t.tid = some t → t.core? = some core →
    (∀ e ∈ systemRegisters, e.1 = number → e.2.2 ≠ none →
      exec (.systemRegisterWrite t.tid number v) s = .next (s.sysWrite t core number v)) ∧
    (∀ e ∈ systemRegisters, e.1 = number → e.2.2 = none → exec (.systemRegisterWrite t.tid number v) s = .next s) ∧
    ∀ e ∈ threadWrites v, exec (.systemRegisterWrite t.tid e.1 v) s = .next (s.putThread (e.2 t))


/-- R413 to R415, R421, R423 to R426: replay keeps count of the failures of a die-to-die link and declares it down once
its eighth replay fails; a port accepts the flit it expects, takes its acknowledgement, answers a bad one with a
NAK, resends what is not acknowledged, and goes down after 16 failed resends with its traffic moved to other ports;
a scrub changes no value; package reset starts the machine again, with an image that the boot ROM accepts; an
attestation report stands in the mailbox. R95, R96, R306, R370, R374, R375, R422: the steps that a write of a
register makes besides SWR: core control, the clearing of a suspect mark, after which the columns near the sensor
climb the ladder anew, perm with held clamped to cap, merr and its log, and any other register for a thread that
stands on a core. The model's choices: what a reset keeps (log entry 49), the standards' byte orders, the layouts of
images and reports and the place in the mailbox (13), the ninth failing flit brings a link down (51), the links'
numbers (72), details of Lingoton (87), corctl of a latency core and rfblk's bounds (48), trip 2 left by reopening
(47), steps that check nothing themselves (60); a step that is not due changes nothing (58). -/
def Obligations.LinksResetAndRegisterSteps : Prop := Claims.LinksAndReset ∧ Claims.RegisterSteps

/-- R95, R96, R384: no lane runs what its level may not. Every instruction of the opcode map that needs a level, issued
for lanes that all stand below it, in any form, traps PRIV in each of them and does nothing else; so do SRD and SWR
of a register whose row asks for a higher level than the lanes'. -/
def Obligations.PrivilegeHolds : Prop :=
  let refused (i : Instr) (f : Fields) (r : OpRule) (s : State) (ls : List (Nat × Thread)) : Prop :=
    exec i s =
      .next (ls.foldl (fun k p => takeTrap k p.2.tid f ⟨.priv, 0, false⟩ (touchesPort r f) false) s).bump
  (∀ (i : Instr) (op : Nat) (f : Fields) (r : OpRule) (s : State) (ls : List (Nat × Thread)), LaneGroup s ls →
    instrFields i = some (op, f) → opRule op = some r → (∀ p ∈ ls, p.2.plvl.code < r.level) →
    (∀ p ∈ ls, trapWaits s p.2.tid ⟨.priv, 0, false⟩ = false) → refused i f r s ls) ∧
  ∀ (f : Fields) (s : State) (ls : List (Nat × Thread)), LaneGroup s ls →
    (∀ p ∈ ls, trapWaits s p.2.tid ⟨.priv, 0, false⟩ = false) → ∀ e ∈ systemRegisters, e.1 = f.imm.toNat →
    (∀ lvl, e.2.1 = some lvl → (∀ p ∈ ls, p.2.plvl.code < lvl) → refused (.srd f) f rSrd s ls) ∧
    ∀ lvl, e.2.2 = some lvl → (∀ p ∈ ls, p.2.plvl.code < lvl) → refused (.swr f) f rSwr s ls


/-! ### Encodings, the step, reset and the invariant of memory (R44 to R53, R96, R386, R422, R423) -/

namespace Sys2Proof.Claims

open Sys2Proof.Machine

/-- The form of the machine's tables (the model's, log entry 2): each thread and bolt stands under its own number, the
keys of each table rise, and so do those of what a bolt, a core and a router keep in tables of their own. -/
def Tidy (s : State) : Prop :=
  tabWf s.threads = true ∧ (∀ e ∈ s.threads, e.2.tid = e.1) ∧ tabWf s.bolts = true ∧
  (∀ e ∈ s.bolts, e.2.id = e.1 ∧ Memory.wf e.2.spad = true ∧ tabWf e.2.acc = true) ∧ tabWf s.wcores = true ∧
  (∀ e ∈ s.wcores, tabWf e.2.slots = true ∧ tabWf e.2.cluster.ctxAct = true) ∧ tabWf s.nbars = true ∧
  tabWf s.routers = true ∧ (∀ e ∈ s.routers, tabWf e.2.ports = true) ∧ tabWf s.dwell = true ∧
  tabWf s.spawnU.spawns = true

end Sys2Proof.Claims

/-- R44 to R53, R85: worked encodings of the spec, at least one of every group of the opcode map, decode to the
instructions they stand for; and encodings that R52 excludes are refused. A sanity statement. -/
def Obligations.DecodeWords : Prop :=
  Spells [0x01, 0x18, 0x88, 0x02] (.add (sForm 3 4 5)) ∧
  Spells [0x01, 0x18, 0x88, 0x22] (.add { sForm 3 4 5 with e1 := true }) ∧
  Spells [0x27, 0xE0, 0x40, 0x00, 0x00, 0x38, 0xFF, 0xFF] (.addi (lForm 7 8 0 0 (-100))) ∧
  Spells [0x4F, 0xC0, 0x81, 0, 0, 0, 0, 0, 0x78, 0x56, 0x34, 0x12]
    (.addi { lForm 7 8 0 0 0x12345678 with form := .x }) ∧
  Spells [0x20, 0x53] (.addi { lForm 5 5 0 0 4 with form := .c }) ∧
  Spells [0x80, 0x40] (.srd { lForm 4 0 0 0 0 with form := .c }) ∧
  Spells [0x67, 0x83, 0, 0, 0, 0x30, 0, 0] (.srd (lForm 4 0 0 0 0x18)) ∧
  Spells [0x37, 0x63, 0x07, 0, 0, 0x44, 0x43, 0] (.qbind (lForm 59 0 0 0 0x21A2)) ∧
  Spells [0x3B, 0x31, 0x10, 0x05, 0x80, 0x0B] (.cmp (mForm 3 4 5 0 0x17)) ∧
  Spells [0x0B, 0xA2, 0x2C, 0x0C, 0x00, 0x01] (.faddS (mForm 10 11 12 0 2)) ∧
  Spells [0x3B, 0xA2, 0x2C, 0x4C, 0x03, 0x00] (.ffmaS (mForm 10 11 12 13 0)) ∧
  Spells [0x93, 0x94, 0x18, 0x47, 0x02, 0x01] (.pdot (mForm 9 6 7 9 2)) ∧
  Spells [0x07, 0x0A, 0x20, 0x0A, 0x06, 0xD0, 0xFF, 0xFF] (.br (lForm 0 4 5 3 (-24))) ∧
  Spells [0x27, 0xAC, 0x40, 0, 0, 0x80, 0, 0] (.ldsW (lForm 5 8 0 0 64)) ∧
  Spells [0x64, 0x58] (.stsW { sForm 0 8 5 with form := .c }) ∧
  Spells [0x6B, 0x96, 0x20, 0xCA, 0x02, 0x08] (.scas (mForm 9 8 10 11 0x10)) ∧
  Spells [0x67, 0xCE, 0x40, 0, 0, 0x80, 0, 0] (.ldD (lForm 6 8 0 0 64)) ∧
  Spells [0x6F, 0x1D, 0x80, 0x24, 0, 0, 0, 0x30, 0, 0, 0x10, 0]
    (.stD { lForm 0 8 9 0 0x100000 with form := .x, pol := 12 }) ∧
  Spells [0x83, 0x58, 0x20, 0x09, 0x80, 0x09] (.amoAdd (mForm 5 8 9 0 0x13)) ∧
  Spells [0x1B, 0x49, 0x20, 0x85, 0x81, 0x00] (.cas (mForm 4 8 5 6 1)) ∧
  Spells [0x07, 0xB3, 0x40, 0, 0, 0, 0x02, 0] (.tcpy (lForm 5 8 0 0 256)) ∧
  Spells [0xE5, 0x24, 0x8C, 0x03] (.sflu (sForm 4 6 7)) ∧
  Spells [0x03, 0x0A, 0x10, 0x85, 0x01, 0x01] (.mmq (mForm 0 4 5 6 2)) ∧
  Spells [0x67, 0x54, 0x40, 0x12, 0, 0, 0x08, 0] (.mstaBf (lForm 2 8 9 0 0x400)) ∧
  Spells [0x07, 0x16, 0x20, 0, 0, 0x06, 0, 0] (.bar (lForm 0 4 0 0 3)) ∧
  Spells [0xC1, 0x2D, 0x10, 0x00] (.spwn (sForm 5 8 0)) ∧
  Spells [0x07, 0x18, 0, 0, 0, 0x08, 0x60, 0x13] (.phs (lForm 0 0 0 0 0x9B004)) ∧
  Spells [0x41, 0x2E, 0x90, 0x04] (.sig (sForm 5 8 9)) ∧
  Spells [0x17, 0x1A, 0x40, 0, 0, 0x80, 0x03, 0] (.ctxsS (lForm 0 8 0 0 448)) ∧
  decode [0x00, 0x38] = .error (.compactCode 0) ∧
  decode [0x1F, 0x00] = .error .reservedPrefix ∧
  decode [0x3B, 0x31, 0x10, 0x05, 0x80, 0x0D] = .error (.modifier 0x027)

/-- R44 to R53, R85: the decoder reads back every well-formed instruction from its encoding, with every operand at every
value the encoding admits, in every form, and takes no byte beyond it. -/
def Obligations.EncodeDecodes : Prop :=
  ∀ (i : Instr) (op : Nat) (f : Fields) (rest : List Byte), i.wellFormed = true → instrFields i = some (op, f) →
    ∃ bs, encode i = some bs ∧ bs.length = f.form.bytes ∧ decode (bs ++ rest) = .ok (i, rest)

/-- R26, R44, R54, R153, R155: a turn of a latency core with no signal to take runs the instruction that the bytes at its
thread's program counter spell, and nothing else; bytes that spell none trap ILL. A cycle of a slice issues the first
weft that runs, of those from the slot after its last issuer on: the instruction at that weft's issue address runs for
the lanes that stand there, and the weft's ages and override follow; if the weft blocks, the slice goes on to its next
slots. The bytes are those of memory, where they lie in one mapped page and the core keeps no older ones (R55). -/
def Obligations.StepRunsDecoded : Prop :=
  (∀ (s k : State) (c : Nat) (rest : List Turn) (t : Thread) (bs : List Byte), s.off = false →
    s.agenda = .issueL c :: rest → (s.lcore c).cur = some t.tid → (s.lcore c).halted = false →
    s.thread? t.tid = some t → t.loc = .latency c → t.sub = .active → t.entry = none →
    ((∀ w more, ¬ Takes t w more) ∨ Deaf t) →
    fetchAt { s with agenda := rest, cur := .latency c, note := Note.clear } c t.pid t.pc t.plvl = .code k bs →
    (∀ i more, decode bs = .ok (i, more) → step s = exec i k) ∧
    (∀ e, decode bs = .error e → step s = exec (.illegalInstruction (BitVec.ofNat 64 (leNat (bs.take 8)))) k)) ∧
  (∀ (s k : State) (c n slot : Nat) (pre post : List Nat) (rest : List Turn) (w : Weft) (b : Bolt) (a : Word) (m : Nat)
      (t : Thread) (bs : List Byte) (i : Instr) (more : List Byte), s.off = false → s.agenda = .slice c n :: rest →
    s.sliceOrder c n = pre ++ slot :: post →
    (∀ x ∈ pre, ∀ v, s.weft? c x = some v → v.wstate ≠ .running ∨ v.held = false) →
    s.weft? c slot = some w → w.wstate = .running → w.held = true → (s.wcore c).halted = false →
    s.bolt? w.bolt = some b → b.bstate = .resident → b.evicting = false →
    (∀ u ∈ s.memberThreads w, ∀ x ys, ¬ Takes u x ys) →
    (w.ovr = 0 ∨ ∃ p ∈ s.activeLanes w, w.ovr.getLsbD p.1 = true) → IssuesAt s w a → ¬ (16 ≤ w.stall ∧ a = w.stallPc) →
    let s0 := ({ s with agenda := rest } : State).putWeft c slot w
    let s1 := { s0 with cur := .weft c slot a, note := Note.clear }
    s1.issueLanes.head? = some (m, t) → fetchAt s1 c t.pid t.pc t.plvl = .code k bs → decode bs = .ok (i, more) →
    (∀ k', exec i k = .next k' →
      step s = if k'.note.blocked then issueFirst c post (k'.afterIssue c slot a (s0.activeLanes w))
        else .next ((k'.noteSlot c slot).afterIssue c slot a (s0.activeLanes w))) ∧
    ((∀ k', exec i k ≠ .next k') → step s = exec i k)) ∧
  ∀ (s : State) (core pid pa : Nat) (pc : Word) (l : Level), let n := lengthOf (s.byteAt pa).toNat
    fetchPlace s core pid pc.toNat n l = .ok s pa → PlainRange s pa n → tabGet s.code core = none →
    n ≤ s.pageRest core pid pc.toNat → s.poisonAt pa n = false → s.poisonAt pa 1 = false →
    fetchAt s core pid pc l = .code s (memBytes s.mem pa n)

/-- R96, R368, R370, R380, R386, R422, R423: what package reset leaves: every SRAM zero, gtick 0, only latency core 256 running,
and every register at the reset value that the spec gives it. That the boot thread runs at firmware level from the
address in fvec is the model's choice (log entry 3). -/
def Obligations.ResetValues : Prop :=
  let s := State.reset
  s.gtick = 0 ∧ s.vmem = [] ∧ s.bolts = [] ∧ s.queues = [] ∧ s.pend = [] ∧ s.stores = [] ∧ s.jobs = [] ∧
  (∀ core, (s.lcore core).halted = false ↔ core = 256) ∧ (∀ core, (s.wcore core).halted = true) ∧
  (∃ tid t, (s.lcore 256).cur = some tid ∧ s.thread? tid = some t ∧ t.loc = .latency 256 ∧ t.plvl = .firmware ∧
    t.fmode = 0 ∧ t.rgn = t.pc ∧ t.pkey = 0 ∧ t.pwait = 2048 ∧ t.yage = 256 ∧ t.sigmask = 0 ∧ t.trapcause = 0 ∧
    t.trapval = 0 ∧ t.trappc = 0 ∧ t.clock = 16 ∧ s.fw.fvec = t.pc) ∧
  (∀ pid, (s.ctx pid).ubcount = 0 ∧ (s.ctx pid).cap = 64 ∧ (s.ctx pid).held = 64 ∧ (s.ctx pid).slope = 0x1008) ∧
  (∀ core, (s.wcore core).ratios = Vector.replicate 6 16 ∧ (s.wcore core).vfloor = 0 ∧ (s.wcore core).gset = 1 ∧ (s.wcore core).sscr = 0 ∧ (s.lcore core).gset = 1 ∧
    (s.lcore core).sscr = 0) ∧
  s.fw.svec = 0 ∧ s.fw.evtid = 0 ∧ s.fw.svcq = 0 ∧ s.fw.pools = 0 ∧ s.fw.spcbase = 0 ∧ s.fw.rdctl = 0 ∧ s.fw.rdovf = 0 ∧
  s.fw.plceil = 1472 ∧ s.fw.hdroom = 144 ∧ s.fw.slfloor = 0 ∧ s.fw.tlim = 0x766E675F ∧ s.fw.snsel = 0 ∧
  s.fw.evdrop = 0 ∧ s.fw.mcklog = 0 ∧ s.fw.corsel = 0 ∧ s.fw.pkgid = 0 ∧ s.fw.swbase = 0 ∧ s.fw.swlen = 0 ∧
  s.fw.rotbase = 0 ∧ s.fw.hdm = 0 ∧ s.fw.rtdrop = 0

/-- The forms that the model keeps hold at reset (log entry 2): the addresses of physical memory and of the vaults rise
and no listed byte is 0; each thread and bolt stands under its own number, and the keys of every table rise. -/
def Obligations.FormsAtReset : Prop := State.reset.Canonical ∧ Tidy State.reset

/-- Every step keeps that form, of physical memory and of the vaults (log entry 2): whatever runs, an instruction, a step
of the device or a package reset, and in whatever state, reached or not. -/
def Obligations.StepKeepsCanonical : Prop := ∀ s t : State, s.Canonical → step s = .next t → t.Canonical

/-- Every step keeps the form of the machine's tables (log entry 2): each thread and bolt under its own number, the keys
of every table rising, and every scratchpad in the form that equal memories share. Statements about single steps take
parts of this form as premises. -/
def Obligations.StepKeepsTables : Prop := ∀ s t : State, Tidy s → step s = .next t → Tidy t
end

