-- ==== Sys2Proof/Laws/Tab.lean ====
section
/-! SUPPORT. What tables and sparse memories do: a read after a write, writes elsewhere, and that every memory
operation keeps the canonical form (log entry 2). -/

namespace Sys2Proof.Machine

variable {α : Type}

/-! ### Tables -/

theorem tabGet_tabPut_same (t : Tab α) (k : Nat) (a : α) : tabGet (tabPut t k a) k = some a := by
  induction t with
  | nil => simp [tabPut, tabGet]
  | cons p t ih =>
    obtain ⟨j, b⟩ := p
    unfold tabPut
    split_ifs with h1 h2
    · simp [tabGet]
    · simp [tabGet]
    · simp [tabGet, h2, ih]

theorem tabGet_tabPut_other (t : Tab α) {k n : Nat} (a : α) (h : k ≠ n) :
    tabGet (tabPut t k a) n = tabGet t n := by
  induction t with
  | nil => simp [tabPut, tabGet, h]
  | cons p t ih =>
    obtain ⟨j, b⟩ := p
    unfold tabPut
    split_ifs with h1 h2
    · simp [tabGet, h]
    · subst h2; simp [tabGet, h]
    · simp [tabGet, ih]

theorem tabPut_tabPut (t : Tab α) (k : Nat) (a b : α) : tabPut (tabPut t k a) k b = tabPut t k b := by
  induction t with
  | nil => simp [tabPut]
  | cons p t ih =>
    obtain ⟨j, c⟩ := p
    by_cases h1 : k < j
    · simp [tabPut, h1]
    · by_cases h2 : j = k
      · subst h2; simp [tabPut]
      · simp [tabPut, h1, h2, ih]

/-- Keys that rise from a bound rise from every lower one. -/
theorem tabWfFrom_mono {lo lo' : Nat} (h : lo' ≤ lo) : ∀ {t : Tab α}, tabWfFrom lo t = true → tabWfFrom lo' t = true
  | [], _ => rfl
  | (k, _) :: t, hw => by
    simp only [tabWfFrom, Bool.and_eq_true, decide_eq_true_eq] at hw ⊢
    exact ⟨le_trans h hw.1, hw.2⟩

theorem tabWfFrom_tabPut {lo k : Nat} (hk : lo ≤ k) (a : α) :
    ∀ {t : Tab α}, tabWfFrom lo t = true → tabWfFrom lo (tabPut t k a) = true := by
  intro t
  induction t generalizing lo with
  | nil => intro _; simp [tabPut, tabWfFrom, hk]
  | cons p t ih =>
    obtain ⟨j, b⟩ := p
    intro hw
    simp only [tabWfFrom, Bool.and_eq_true, decide_eq_true_eq] at hw
    unfold tabPut
    split_ifs with h1 h2
    · simp only [tabWfFrom, Bool.and_eq_true, decide_eq_true_eq]
      exact ⟨hk, h1, hw.2⟩
    · subst h2
      simp only [tabWfFrom, Bool.and_eq_true, decide_eq_true_eq]
      exact hw
    · simp only [tabWfFrom, Bool.and_eq_true, decide_eq_true_eq]
      exact ⟨hw.1, ih (by omega) hw.2⟩

theorem tabWfFrom_tabDel {lo k : Nat} : ∀ {t : Tab α}, tabWfFrom lo t = true → tabWfFrom lo (tabDel t k) = true := by
  intro t
  induction t generalizing lo with
  | nil => exact id
  | cons p t ih =>
    obtain ⟨j, b⟩ := p
    intro hw
    simp only [tabWfFrom, Bool.and_eq_true, decide_eq_true_eq] at hw
    unfold tabDel
    split_ifs with h
    · exact tabWfFrom_mono (by omega) hw.2
    · simp only [tabWfFrom, Bool.and_eq_true, decide_eq_true_eq]
      exact ⟨hw.1, ih hw.2⟩

/-- No key under the bound of a table whose keys rise from it. -/
theorem tabGet_below {lo k : Nat} (h : k < lo) : ∀ {t : Tab α}, tabWfFrom lo t = true → tabGet t k = none
  | [], _ => rfl
  | (j, _) :: t, hw => by
    simp only [tabWfFrom, Bool.and_eq_true, decide_eq_true_eq] at hw
    simp [tabGet, show j ≠ k by omega, tabGet_below (show k < j + 1 by omega) hw.2]

theorem tabGet_tabDel_same {lo : Nat} (k : Nat) :
    ∀ {t : Tab α}, tabWfFrom lo t = true → tabGet (tabDel t k) k = none := by
  intro t
  induction t generalizing lo with
  | nil => intro _; rfl
  | cons p t ih =>
    obtain ⟨j, b⟩ := p
    intro hw
    simp only [tabWfFrom, Bool.and_eq_true, decide_eq_true_eq] at hw
    unfold tabDel
    split_ifs with h
    · subst h; exact tabGet_below (Nat.lt_succ_self _) hw.2
    · simp [tabGet, h, ih hw.2]

theorem tabGet_tabDel_other (t : Tab α) {k n : Nat} (h : k ≠ n) : tabGet (tabDel t k) n = tabGet t n := by
  induction t with
  | nil => rfl
  | cons p t ih =>
    obtain ⟨j, b⟩ := p
    unfold tabDel
    split_ifs with h1
    · subst h1; simp [tabGet, h]
    · simp [tabGet, ih]

/-! ### Sparse contents -/

theorem mem_tabPut {t : Tab α} {k : Nat} {a : α} {p : Nat × α} (h : p ∈ tabPut t k a) : p = (k, a) ∨ p ∈ t := by
  induction t with
  | nil => simpa [tabPut] using h
  | cons q t ih =>
    obtain ⟨j, b⟩ := q
    unfold tabPut at h
    split_ifs at h with h1 h2
    · simpa using h
    · rcases List.mem_cons.1 h with h | h
      · exact .inl h
      · exact .inr (List.mem_cons_of_mem _ h)
    · rcases List.mem_cons.1 h with h | h
      · exact .inr (h ▸ List.mem_cons_self)
      · rcases ih h with h | h
        · exact .inl h
        · exact .inr (List.mem_cons_of_mem _ h)

theorem mem_tabDel {t : Tab α} {k : Nat} {p : Nat × α} (h : p ∈ tabDel t k) : p ∈ t := by
  induction t with
  | nil => exact h
  | cons q t ih =>
    obtain ⟨j, b⟩ := q
    unfold tabDel at h
    split_ifs at h with h1
    · exact List.mem_cons_of_mem _ h
    · rcases List.mem_cons.1 h with h | h
      · exact h ▸ List.mem_cons_self
      · exact List.mem_cons_of_mem _ (ih h)

/-- A write of one byte keeps the canonical form. -/
theorem Memory.wf_spPut {m : Memory} (h : Memory.wf m = true) (a : Nat) (b : Byte) : Memory.wf (spPut 0 m a b) = true := by
  simp only [Memory.wf, tabWf, spClean, Bool.and_eq_true, List.all_eq_true, decide_eq_true_eq] at h ⊢
  unfold spPut
  split_ifs with hb
  · exact ⟨tabWfFrom_tabDel h.1, fun p hp => h.2 p (mem_tabDel hp)⟩
  · refine ⟨tabWfFrom_tabPut (Nat.zero_le _) _ h.1, fun p hp => ?_⟩
    rcases mem_tabPut hp with rfl | hp
    · exact hb
    · exact h.2 p hp

/-- A write of bytes keeps the canonical form. -/
theorem Memory.wf_memStore {m : Memory} (h : Memory.wf m = true) (a : Nat) (bs : List Byte) :
    Memory.wf (memStore m a bs) = true := by
  induction bs generalizing m a with
  | nil => exact h
  | cons b bs ih => exact ih (Memory.wf_spPut h a b) (a + 1)

theorem tabWfFrom_filter {lo : Nat} (q : Nat × α → Bool) :
    ∀ {t : Tab α}, tabWfFrom lo t = true → tabWfFrom lo (t.filter q) = true := by
  intro t
  induction t generalizing lo with
  | nil => exact id
  | cons p t ih =>
    obtain ⟨j, b⟩ := p
    intro hw
    simp only [tabWfFrom, Bool.and_eq_true, decide_eq_true_eq] at hw
    rw [List.filter_cons]
    split_ifs
    · simp only [tabWfFrom, Bool.and_eq_true, decide_eq_true_eq]
      exact ⟨hw.1, ih hw.2⟩
    · exact tabWfFrom_mono (by omega) (ih hw.2)

/-- Dropping entries keeps the canonical form. -/
theorem Memory.wf_filter {m : Memory} (h : Memory.wf m = true) (q : Nat × Byte → Bool) : Memory.wf (m.filter q) = true := by
  simp only [Memory.wf, tabWf, spClean, Bool.and_eq_true, List.all_eq_true, decide_eq_true_eq] at h ⊢
  exact ⟨tabWfFrom_filter q h.1, fun p hp => h.2 p (List.mem_of_mem_filter hp)⟩

/-- A byte after a write of that byte. -/
theorem memByte_spPut_same {m : Memory} (h : Memory.wf m = true) (a : Nat) (b : Byte) : memByte (spPut 0 m a b) a = b := by
  simp only [Memory.wf, tabWf, Bool.and_eq_true] at h
  unfold memByte spGet spPut
  split_ifs with hb
  · rw [tabGet_tabDel_same a h.1, hb]; rfl
  · rw [tabGet_tabPut_same]; rfl

/-- A byte after a write of another. -/
theorem memByte_spPut_other (m : Memory) {a n : Nat} (b : Byte) (h : a ≠ n) : memByte (spPut 0 m a b) n = memByte m n := by
  unfold memByte spGet spPut
  split_ifs
  · rw [tabGet_tabDel_other m h]
  · rw [tabGet_tabPut_other m b h]

/-- Bytes outside a write read as before. -/
theorem memByte_memStore_out (m : Memory) (a n : Nat) (bs : List Byte) (h : n < a ∨ a + bs.length ≤ n) :
    memByte (memStore m a bs) n = memByte m n := by
  induction bs generalizing m a with
  | nil => rfl
  | cons b bs ih =>
    simp only [List.length_cons] at h
    rw [memStore, ih _ _ (by omega), memByte_spPut_other m b (by omega)]

/-- Bytes inside a write read what was written. -/
theorem memByte_memStore_in {m : Memory} (h : Memory.wf m = true) (a i : Nat) (bs : List Byte) (hi : i < bs.length) :
    memByte (memStore m a bs) (a + i) = bs[i] := by
  induction bs generalizing m a i with
  | nil => simp at hi
  | cons b bs ih =>
    cases i with
    | zero => rw [memStore, memByte_memStore_out _ _ _ _ (by omega)]; exact memByte_spPut_same h a b
    | succ i =>
      have := ih (Memory.wf_spPut h a b) (a + 1) i (by simpa using hi)
      rw [memStore, show a + (i + 1) = a + 1 + i by omega, this]; rfl

/-- Bytes read back after they were written. -/
theorem memBytes_memStore {m : Memory} (h : Memory.wf m = true) (a : Nat) (bs : List Byte) :
    memBytes (memStore m a bs) a bs.length = bs := by
  have key : ∀ (n k : Nat), n + k = bs.length → memBytes (memStore m a bs) (a + k) n = bs.drop k := by
    intro n
    induction n with
    | zero => intro k hk; simp [memBytes, List.drop_eq_nil_of_le (show bs.length ≤ k by omega)]
    | succ n ih =>
      intro k hk
      rw [memBytes, show a + k + 1 = a + (k + 1) by omega, ih (k + 1) (by omega),
        memByte_memStore_in h a k bs (by omega)]
      exact (List.drop_eq_getElem_cons (by omega)).symm
  simpa using key bs.length 0 (by omega)

/-- A memory with nothing listed is canonical. -/
theorem Memory.wf_nil : Memory.wf [] = true := rfl

end Sys2Proof.Machine
end

