-- ==== Sys2Proof/Laws/State.lean ====
section
/-! SUPPORT. What each update of the state leaves of each field: one lemma per field per update, so that no
proof unfolds a record update. -/

namespace Sys2Proof.Machine

/-! ### State.putThread -/

@[simp] theorem State.putThread_gtick (s : State) (t : Thread) : (s.putThread t).gtick = s.gtick := rfl
@[simp] theorem State.putThread_mem (s : State) (t : Thread) : (s.putThread t).mem = s.mem := rfl
@[simp] theorem State.putThread_memPoison (s : State) (t : Thread) : (s.putThread t).memPoison = s.memPoison := rfl
@[simp] theorem State.putThread_vmem (s : State) (t : Thread) : (s.putThread t).vmem = s.vmem := rfl
@[simp] theorem State.putThread_vPoison (s : State) (t : Thread) : (s.putThread t).vPoison = s.vPoison := rfl
@[simp] theorem State.putThread_lcores (s : State) (t : Thread) : (s.putThread t).lcores = s.lcores := rfl
@[simp] theorem State.putThread_wcores (s : State) (t : Thread) : (s.putThread t).wcores = s.wcores := rfl
@[simp] theorem State.putThread_bolts (s : State) (t : Thread) : (s.putThread t).bolts = s.bolts := rfl
@[simp] theorem State.putThread_contexts (s : State) (t : Thread) : (s.putThread t).contexts = s.contexts := rfl
@[simp] theorem State.putThread_fw (s : State) (t : Thread) : (s.putThread t).fw = s.fw := rfl
@[simp] theorem State.putThread_queues (s : State) (t : Thread) : (s.putThread t).queues = s.queues := rfl
@[simp] theorem State.putThread_pend (s : State) (t : Thread) : (s.putThread t).pend = s.pend := rfl
@[simp] theorem State.putThread_stores (s : State) (t : Thread) : (s.putThread t).stores = s.stores := rfl
@[simp] theorem State.putThread_stamps (s : State) (t : Thread) : (s.putThread t).stamps = s.stamps := rfl
@[simp] theorem State.putThread_dirs (s : State) (t : Thread) : (s.putThread t).dirs = s.dirs := rfl
@[simp] theorem State.putThread_dtlb (s : State) (t : Thread) : (s.putThread t).dtlb = s.dtlb := rfl
@[simp] theorem State.putThread_code (s : State) (t : Thread) : (s.putThread t).code = s.code := rfl
@[simp] theorem State.putThread_shadow (s : State) (t : Thread) : (s.putThread t).shadow = s.shadow := rfl
@[simp] theorem State.putThread_jobs (s : State) (t : Thread) : (s.putThread t).jobs = s.jobs := rfl
@[simp] theorem State.putThread_serials (s : State) (t : Thread) : (s.putThread t).serials = s.serials := rfl
@[simp] theorem State.putThread_subq (s : State) (t : Thread) : (s.putThread t).subq = s.subq := rfl
@[simp] theorem State.putThread_spawnU (s : State) (t : Thread) : (s.putThread t).spawnU = s.spawnU := rfl
@[simp] theorem State.putThread_traces (s : State) (t : Thread) : (s.putThread t).traces = s.traces := rfl
@[simp] theorem State.putThread_regions (s : State) (t : Thread) : (s.putThread t).regions = s.regions := rfl
@[simp] theorem State.putThread_nbars (s : State) (t : Thread) : (s.putThread t).nbars = s.nbars := rfl
@[simp] theorem State.putThread_routers (s : State) (t : Thread) : (s.putThread t).routers = s.routers := rfl
@[simp] theorem State.putThread_pkts (s : State) (t : Thread) : (s.putThread t).pkts = s.pkts := rfl
@[simp] theorem State.putThread_xfers (s : State) (t : Thread) : (s.putThread t).xfers = s.xfers := rfl
@[simp] theorem State.putThread_dwell (s : State) (t : Thread) : (s.putThread t).dwell = s.dwell := rfl
@[simp] theorem State.putThread_sensors (s : State) (t : Thread) : (s.putThread t).sensors = s.sensors := rfl
@[simp] theorem State.putThread_sensorLog (s : State) (t : Thread) : (s.putThread t).sensorLog = s.sensorLog := rfl
@[simp] theorem State.putThread_trips (s : State) (t : Thread) : (s.putThread t).trips = s.trips := rfl
@[simp] theorem State.putThread_grants (s : State) (t : Thread) : (s.putThread t).grants = s.grants := rfl
@[simp] theorem State.putThread_intervalPids (s : State) (t : Thread) : (s.putThread t).intervalPids = s.intervalPids := rfl
@[simp] theorem State.putThread_boosted (s : State) (t : Thread) : (s.putThread t).boosted = s.boosted := rfl
@[simp] theorem State.putThread_interval (s : State) (t : Thread) : (s.putThread t).interval = s.interval := rfl
@[simp] theorem State.putThread_outside (s : State) (t : Thread) : (s.putThread t).outside = s.outside := rfl
@[simp] theorem State.putThread_off (s : State) (t : Thread) : (s.putThread t).off = s.off := rfl
@[simp] theorem State.putThread_mcks (s : State) (t : Thread) : (s.putThread t).mcks = s.mcks := rfl
@[simp] theorem State.putThread_raceLogged (s : State) (t : Thread) : (s.putThread t).raceLogged = s.raceLogged := rfl
@[simp] theorem State.putThread_agenda (s : State) (t : Thread) : (s.putThread t).agenda = s.agenda := rfl
@[simp] theorem State.putThread_cur (s : State) (t : Thread) : (s.putThread t).cur = s.cur := rfl
@[simp] theorem State.putThread_note (s : State) (t : Thread) : (s.putThread t).note = s.note := rfl
@[simp] theorem State.putThread_phase (s : State) (t : Thread) : (s.putThread t).phase = s.phase := rfl
@[simp] theorem State.putThread_seq (s : State) (t : Thread) : (s.putThread t).seq = s.seq := rfl
@[simp] theorem State.putThread_fresh (s : State) (t : Thread) : (s.putThread t).fresh = s.fresh := rfl

/-! ### State.putL -/

@[simp] theorem State.putL_gtick (s : State) (c : Nat) (l : LCore) : (s.putL c l).gtick = s.gtick := rfl
@[simp] theorem State.putL_mem (s : State) (c : Nat) (l : LCore) : (s.putL c l).mem = s.mem := rfl
@[simp] theorem State.putL_memPoison (s : State) (c : Nat) (l : LCore) : (s.putL c l).memPoison = s.memPoison := rfl
@[simp] theorem State.putL_vmem (s : State) (c : Nat) (l : LCore) : (s.putL c l).vmem = s.vmem := rfl
@[simp] theorem State.putL_vPoison (s : State) (c : Nat) (l : LCore) : (s.putL c l).vPoison = s.vPoison := rfl
@[simp] theorem State.putL_threads (s : State) (c : Nat) (l : LCore) : (s.putL c l).threads = s.threads := rfl
@[simp] theorem State.putL_wcores (s : State) (c : Nat) (l : LCore) : (s.putL c l).wcores = s.wcores := rfl
@[simp] theorem State.putL_bolts (s : State) (c : Nat) (l : LCore) : (s.putL c l).bolts = s.bolts := rfl
@[simp] theorem State.putL_contexts (s : State) (c : Nat) (l : LCore) : (s.putL c l).contexts = s.contexts := rfl
@[simp] theorem State.putL_fw (s : State) (c : Nat) (l : LCore) : (s.putL c l).fw = s.fw := rfl
@[simp] theorem State.putL_queues (s : State) (c : Nat) (l : LCore) : (s.putL c l).queues = s.queues := rfl
@[simp] theorem State.putL_pend (s : State) (c : Nat) (l : LCore) : (s.putL c l).pend = s.pend := rfl
@[simp] theorem State.putL_stores (s : State) (c : Nat) (l : LCore) : (s.putL c l).stores = s.stores := rfl
@[simp] theorem State.putL_stamps (s : State) (c : Nat) (l : LCore) : (s.putL c l).stamps = s.stamps := rfl
@[simp] theorem State.putL_dirs (s : State) (c : Nat) (l : LCore) : (s.putL c l).dirs = s.dirs := rfl
@[simp] theorem State.putL_dtlb (s : State) (c : Nat) (l : LCore) : (s.putL c l).dtlb = s.dtlb := rfl
@[simp] theorem State.putL_code (s : State) (c : Nat) (l : LCore) : (s.putL c l).code = s.code := rfl
@[simp] theorem State.putL_shadow (s : State) (c : Nat) (l : LCore) : (s.putL c l).shadow = s.shadow := rfl
@[simp] theorem State.putL_jobs (s : State) (c : Nat) (l : LCore) : (s.putL c l).jobs = s.jobs := rfl
@[simp] theorem State.putL_serials (s : State) (c : Nat) (l : LCore) : (s.putL c l).serials = s.serials := rfl
@[simp] theorem State.putL_subq (s : State) (c : Nat) (l : LCore) : (s.putL c l).subq = s.subq := rfl
@[simp] theorem State.putL_spawnU (s : State) (c : Nat) (l : LCore) : (s.putL c l).spawnU = s.spawnU := rfl
@[simp] theorem State.putL_traces (s : State) (c : Nat) (l : LCore) : (s.putL c l).traces = s.traces := rfl
@[simp] theorem State.putL_regions (s : State) (c : Nat) (l : LCore) : (s.putL c l).regions = s.regions := rfl
@[simp] theorem State.putL_nbars (s : State) (c : Nat) (l : LCore) : (s.putL c l).nbars = s.nbars := rfl
@[simp] theorem State.putL_routers (s : State) (c : Nat) (l : LCore) : (s.putL c l).routers = s.routers := rfl
@[simp] theorem State.putL_pkts (s : State) (c : Nat) (l : LCore) : (s.putL c l).pkts = s.pkts := rfl
@[simp] theorem State.putL_xfers (s : State) (c : Nat) (l : LCore) : (s.putL c l).xfers = s.xfers := rfl
@[simp] theorem State.putL_dwell (s : State) (c : Nat) (l : LCore) : (s.putL c l).dwell = s.dwell := rfl
@[simp] theorem State.putL_sensors (s : State) (c : Nat) (l : LCore) : (s.putL c l).sensors = s.sensors := rfl
@[simp] theorem State.putL_sensorLog (s : State) (c : Nat) (l : LCore) : (s.putL c l).sensorLog = s.sensorLog := rfl
@[simp] theorem State.putL_trips (s : State) (c : Nat) (l : LCore) : (s.putL c l).trips = s.trips := rfl
@[simp] theorem State.putL_grants (s : State) (c : Nat) (l : LCore) : (s.putL c l).grants = s.grants := rfl
@[simp] theorem State.putL_intervalPids (s : State) (c : Nat) (l : LCore) : (s.putL c l).intervalPids = s.intervalPids := rfl
@[simp] theorem State.putL_boosted (s : State) (c : Nat) (l : LCore) : (s.putL c l).boosted = s.boosted := rfl
@[simp] theorem State.putL_interval (s : State) (c : Nat) (l : LCore) : (s.putL c l).interval = s.interval := rfl
@[simp] theorem State.putL_outside (s : State) (c : Nat) (l : LCore) : (s.putL c l).outside = s.outside := rfl
@[simp] theorem State.putL_off (s : State) (c : Nat) (l : LCore) : (s.putL c l).off = s.off := rfl
@[simp] theorem State.putL_mcks (s : State) (c : Nat) (l : LCore) : (s.putL c l).mcks = s.mcks := rfl
@[simp] theorem State.putL_raceLogged (s : State) (c : Nat) (l : LCore) : (s.putL c l).raceLogged = s.raceLogged := rfl
@[simp] theorem State.putL_agenda (s : State) (c : Nat) (l : LCore) : (s.putL c l).agenda = s.agenda := rfl
@[simp] theorem State.putL_cur (s : State) (c : Nat) (l : LCore) : (s.putL c l).cur = s.cur := rfl
@[simp] theorem State.putL_note (s : State) (c : Nat) (l : LCore) : (s.putL c l).note = s.note := rfl
@[simp] theorem State.putL_phase (s : State) (c : Nat) (l : LCore) : (s.putL c l).phase = s.phase := rfl
@[simp] theorem State.putL_seq (s : State) (c : Nat) (l : LCore) : (s.putL c l).seq = s.seq := rfl
@[simp] theorem State.putL_fresh (s : State) (c : Nat) (l : LCore) : (s.putL c l).fresh = s.fresh := rfl

/-! ### State.putW -/

@[simp] theorem State.putW_gtick (s : State) (c : Nat) (w : WCore) : (s.putW c w).gtick = s.gtick := rfl
@[simp] theorem State.putW_mem (s : State) (c : Nat) (w : WCore) : (s.putW c w).mem = s.mem := rfl
@[simp] theorem State.putW_memPoison (s : State) (c : Nat) (w : WCore) : (s.putW c w).memPoison = s.memPoison := rfl
@[simp] theorem State.putW_vmem (s : State) (c : Nat) (w : WCore) : (s.putW c w).vmem = s.vmem := rfl
@[simp] theorem State.putW_vPoison (s : State) (c : Nat) (w : WCore) : (s.putW c w).vPoison = s.vPoison := rfl
@[simp] theorem State.putW_threads (s : State) (c : Nat) (w : WCore) : (s.putW c w).threads = s.threads := rfl
@[simp] theorem State.putW_lcores (s : State) (c : Nat) (w : WCore) : (s.putW c w).lcores = s.lcores := rfl
@[simp] theorem State.putW_bolts (s : State) (c : Nat) (w : WCore) : (s.putW c w).bolts = s.bolts := rfl
@[simp] theorem State.putW_contexts (s : State) (c : Nat) (w : WCore) : (s.putW c w).contexts = s.contexts := rfl
@[simp] theorem State.putW_fw (s : State) (c : Nat) (w : WCore) : (s.putW c w).fw = s.fw := rfl
@[simp] theorem State.putW_queues (s : State) (c : Nat) (w : WCore) : (s.putW c w).queues = s.queues := rfl
@[simp] theorem State.putW_pend (s : State) (c : Nat) (w : WCore) : (s.putW c w).pend = s.pend := rfl
@[simp] theorem State.putW_stores (s : State) (c : Nat) (w : WCore) : (s.putW c w).stores = s.stores := rfl
@[simp] theorem State.putW_stamps (s : State) (c : Nat) (w : WCore) : (s.putW c w).stamps = s.stamps := rfl
@[simp] theorem State.putW_dirs (s : State) (c : Nat) (w : WCore) : (s.putW c w).dirs = s.dirs := rfl
@[simp] theorem State.putW_dtlb (s : State) (c : Nat) (w : WCore) : (s.putW c w).dtlb = s.dtlb := rfl
@[simp] theorem State.putW_code (s : State) (c : Nat) (w : WCore) : (s.putW c w).code = s.code := rfl
@[simp] theorem State.putW_shadow (s : State) (c : Nat) (w : WCore) : (s.putW c w).shadow = s.shadow := rfl
@[simp] theorem State.putW_jobs (s : State) (c : Nat) (w : WCore) : (s.putW c w).jobs = s.jobs := rfl
@[simp] theorem State.putW_serials (s : State) (c : Nat) (w : WCore) : (s.putW c w).serials = s.serials := rfl
@[simp] theorem State.putW_subq (s : State) (c : Nat) (w : WCore) : (s.putW c w).subq = s.subq := rfl
@[simp] theorem State.putW_spawnU (s : State) (c : Nat) (w : WCore) : (s.putW c w).spawnU = s.spawnU := rfl
@[simp] theorem State.putW_traces (s : State) (c : Nat) (w : WCore) : (s.putW c w).traces = s.traces := rfl
@[simp] theorem State.putW_regions (s : State) (c : Nat) (w : WCore) : (s.putW c w).regions = s.regions := rfl
@[simp] theorem State.putW_nbars (s : State) (c : Nat) (w : WCore) : (s.putW c w).nbars = s.nbars := rfl
@[simp] theorem State.putW_routers (s : State) (c : Nat) (w : WCore) : (s.putW c w).routers = s.routers := rfl
@[simp] theorem State.putW_pkts (s : State) (c : Nat) (w : WCore) : (s.putW c w).pkts = s.pkts := rfl
@[simp] theorem State.putW_xfers (s : State) (c : Nat) (w : WCore) : (s.putW c w).xfers = s.xfers := rfl
@[simp] theorem State.putW_dwell (s : State) (c : Nat) (w : WCore) : (s.putW c w).dwell = s.dwell := rfl
@[simp] theorem State.putW_sensors (s : State) (c : Nat) (w : WCore) : (s.putW c w).sensors = s.sensors := rfl
@[simp] theorem State.putW_sensorLog (s : State) (c : Nat) (w : WCore) : (s.putW c w).sensorLog = s.sensorLog := rfl
@[simp] theorem State.putW_trips (s : State) (c : Nat) (w : WCore) : (s.putW c w).trips = s.trips := rfl
@[simp] theorem State.putW_grants (s : State) (c : Nat) (w : WCore) : (s.putW c w).grants = s.grants := rfl
@[simp] theorem State.putW_intervalPids (s : State) (c : Nat) (w : WCore) : (s.putW c w).intervalPids = s.intervalPids := rfl
@[simp] theorem State.putW_boosted (s : State) (c : Nat) (w : WCore) : (s.putW c w).boosted = s.boosted := rfl
@[simp] theorem State.putW_interval (s : State) (c : Nat) (w : WCore) : (s.putW c w).interval = s.interval := rfl
@[simp] theorem State.putW_outside (s : State) (c : Nat) (w : WCore) : (s.putW c w).outside = s.outside := rfl
@[simp] theorem State.putW_off (s : State) (c : Nat) (w : WCore) : (s.putW c w).off = s.off := rfl
@[simp] theorem State.putW_mcks (s : State) (c : Nat) (w : WCore) : (s.putW c w).mcks = s.mcks := rfl
@[simp] theorem State.putW_raceLogged (s : State) (c : Nat) (w : WCore) : (s.putW c w).raceLogged = s.raceLogged := rfl
@[simp] theorem State.putW_agenda (s : State) (c : Nat) (w : WCore) : (s.putW c w).agenda = s.agenda := rfl
@[simp] theorem State.putW_cur (s : State) (c : Nat) (w : WCore) : (s.putW c w).cur = s.cur := rfl
@[simp] theorem State.putW_note (s : State) (c : Nat) (w : WCore) : (s.putW c w).note = s.note := rfl
@[simp] theorem State.putW_phase (s : State) (c : Nat) (w : WCore) : (s.putW c w).phase = s.phase := rfl
@[simp] theorem State.putW_seq (s : State) (c : Nat) (w : WCore) : (s.putW c w).seq = s.seq := rfl
@[simp] theorem State.putW_fresh (s : State) (c : Nat) (w : WCore) : (s.putW c w).fresh = s.fresh := rfl

/-! ### State.putBolt -/

@[simp] theorem State.putBolt_gtick (s : State) (b : Bolt) : (s.putBolt b).gtick = s.gtick := rfl
@[simp] theorem State.putBolt_mem (s : State) (b : Bolt) : (s.putBolt b).mem = s.mem := rfl
@[simp] theorem State.putBolt_memPoison (s : State) (b : Bolt) : (s.putBolt b).memPoison = s.memPoison := rfl
@[simp] theorem State.putBolt_vmem (s : State) (b : Bolt) : (s.putBolt b).vmem = s.vmem := rfl
@[simp] theorem State.putBolt_vPoison (s : State) (b : Bolt) : (s.putBolt b).vPoison = s.vPoison := rfl
@[simp] theorem State.putBolt_threads (s : State) (b : Bolt) : (s.putBolt b).threads = s.threads := rfl
@[simp] theorem State.putBolt_lcores (s : State) (b : Bolt) : (s.putBolt b).lcores = s.lcores := rfl
@[simp] theorem State.putBolt_wcores (s : State) (b : Bolt) : (s.putBolt b).wcores = s.wcores := rfl
@[simp] theorem State.putBolt_contexts (s : State) (b : Bolt) : (s.putBolt b).contexts = s.contexts := rfl
@[simp] theorem State.putBolt_fw (s : State) (b : Bolt) : (s.putBolt b).fw = s.fw := rfl
@[simp] theorem State.putBolt_queues (s : State) (b : Bolt) : (s.putBolt b).queues = s.queues := rfl
@[simp] theorem State.putBolt_pend (s : State) (b : Bolt) : (s.putBolt b).pend = s.pend := rfl
@[simp] theorem State.putBolt_stores (s : State) (b : Bolt) : (s.putBolt b).stores = s.stores := rfl
@[simp] theorem State.putBolt_stamps (s : State) (b : Bolt) : (s.putBolt b).stamps = s.stamps := rfl
@[simp] theorem State.putBolt_dirs (s : State) (b : Bolt) : (s.putBolt b).dirs = s.dirs := rfl
@[simp] theorem State.putBolt_dtlb (s : State) (b : Bolt) : (s.putBolt b).dtlb = s.dtlb := rfl
@[simp] theorem State.putBolt_code (s : State) (b : Bolt) : (s.putBolt b).code = s.code := rfl
@[simp] theorem State.putBolt_shadow (s : State) (b : Bolt) : (s.putBolt b).shadow = s.shadow := rfl
@[simp] theorem State.putBolt_jobs (s : State) (b : Bolt) : (s.putBolt b).jobs = s.jobs := rfl
@[simp] theorem State.putBolt_serials (s : State) (b : Bolt) : (s.putBolt b).serials = s.serials := rfl
@[simp] theorem State.putBolt_subq (s : State) (b : Bolt) : (s.putBolt b).subq = s.subq := rfl
@[simp] theorem State.putBolt_spawnU (s : State) (b : Bolt) : (s.putBolt b).spawnU = s.spawnU := rfl
@[simp] theorem State.putBolt_traces (s : State) (b : Bolt) : (s.putBolt b).traces = s.traces := rfl
@[simp] theorem State.putBolt_regions (s : State) (b : Bolt) : (s.putBolt b).regions = s.regions := rfl
@[simp] theorem State.putBolt_nbars (s : State) (b : Bolt) : (s.putBolt b).nbars = s.nbars := rfl
@[simp] theorem State.putBolt_routers (s : State) (b : Bolt) : (s.putBolt b).routers = s.routers := rfl
@[simp] theorem State.putBolt_pkts (s : State) (b : Bolt) : (s.putBolt b).pkts = s.pkts := rfl
@[simp] theorem State.putBolt_xfers (s : State) (b : Bolt) : (s.putBolt b).xfers = s.xfers := rfl
@[simp] theorem State.putBolt_dwell (s : State) (b : Bolt) : (s.putBolt b).dwell = s.dwell := rfl
@[simp] theorem State.putBolt_sensors (s : State) (b : Bolt) : (s.putBolt b).sensors = s.sensors := rfl
@[simp] theorem State.putBolt_sensorLog (s : State) (b : Bolt) : (s.putBolt b).sensorLog = s.sensorLog := rfl
@[simp] theorem State.putBolt_trips (s : State) (b : Bolt) : (s.putBolt b).trips = s.trips := rfl
@[simp] theorem State.putBolt_grants (s : State) (b : Bolt) : (s.putBolt b).grants = s.grants := rfl
@[simp] theorem State.putBolt_intervalPids (s : State) (b : Bolt) : (s.putBolt b).intervalPids = s.intervalPids := rfl
@[simp] theorem State.putBolt_boosted (s : State) (b : Bolt) : (s.putBolt b).boosted = s.boosted := rfl
@[simp] theorem State.putBolt_interval (s : State) (b : Bolt) : (s.putBolt b).interval = s.interval := rfl
@[simp] theorem State.putBolt_outside (s : State) (b : Bolt) : (s.putBolt b).outside = s.outside := rfl
@[simp] theorem State.putBolt_off (s : State) (b : Bolt) : (s.putBolt b).off = s.off := rfl
@[simp] theorem State.putBolt_mcks (s : State) (b : Bolt) : (s.putBolt b).mcks = s.mcks := rfl
@[simp] theorem State.putBolt_raceLogged (s : State) (b : Bolt) : (s.putBolt b).raceLogged = s.raceLogged := rfl
@[simp] theorem State.putBolt_agenda (s : State) (b : Bolt) : (s.putBolt b).agenda = s.agenda := rfl
@[simp] theorem State.putBolt_cur (s : State) (b : Bolt) : (s.putBolt b).cur = s.cur := rfl
@[simp] theorem State.putBolt_note (s : State) (b : Bolt) : (s.putBolt b).note = s.note := rfl
@[simp] theorem State.putBolt_phase (s : State) (b : Bolt) : (s.putBolt b).phase = s.phase := rfl
@[simp] theorem State.putBolt_seq (s : State) (b : Bolt) : (s.putBolt b).seq = s.seq := rfl
@[simp] theorem State.putBolt_fresh (s : State) (b : Bolt) : (s.putBolt b).fresh = s.fresh := rfl

/-! ### State.putCtx -/

@[simp] theorem State.putCtx_gtick (s : State) (n : Nat) (c : Ctx) : (s.putCtx n c).gtick = s.gtick := rfl
@[simp] theorem State.putCtx_mem (s : State) (n : Nat) (c : Ctx) : (s.putCtx n c).mem = s.mem := rfl
@[simp] theorem State.putCtx_memPoison (s : State) (n : Nat) (c : Ctx) : (s.putCtx n c).memPoison = s.memPoison := rfl
@[simp] theorem State.putCtx_vmem (s : State) (n : Nat) (c : Ctx) : (s.putCtx n c).vmem = s.vmem := rfl
@[simp] theorem State.putCtx_vPoison (s : State) (n : Nat) (c : Ctx) : (s.putCtx n c).vPoison = s.vPoison := rfl
@[simp] theorem State.putCtx_threads (s : State) (n : Nat) (c : Ctx) : (s.putCtx n c).threads = s.threads := rfl
@[simp] theorem State.putCtx_lcores (s : State) (n : Nat) (c : Ctx) : (s.putCtx n c).lcores = s.lcores := rfl
@[simp] theorem State.putCtx_wcores (s : State) (n : Nat) (c : Ctx) : (s.putCtx n c).wcores = s.wcores := rfl
@[simp] theorem State.putCtx_bolts (s : State) (n : Nat) (c : Ctx) : (s.putCtx n c).bolts = s.bolts := rfl
@[simp] theorem State.putCtx_fw (s : State) (n : Nat) (c : Ctx) : (s.putCtx n c).fw = s.fw := rfl
@[simp] theorem State.putCtx_queues (s : State) (n : Nat) (c : Ctx) : (s.putCtx n c).queues = s.queues := rfl
@[simp] theorem State.putCtx_pend (s : State) (n : Nat) (c : Ctx) : (s.putCtx n c).pend = s.pend := rfl
@[simp] theorem State.putCtx_stores (s : State) (n : Nat) (c : Ctx) : (s.putCtx n c).stores = s.stores := rfl
@[simp] theorem State.putCtx_stamps (s : State) (n : Nat) (c : Ctx) : (s.putCtx n c).stamps = s.stamps := rfl
@[simp] theorem State.putCtx_dirs (s : State) (n : Nat) (c : Ctx) : (s.putCtx n c).dirs = s.dirs := rfl
@[simp] theorem State.putCtx_dtlb (s : State) (n : Nat) (c : Ctx) : (s.putCtx n c).dtlb = s.dtlb := rfl
@[simp] theorem State.putCtx_code (s : State) (n : Nat) (c : Ctx) : (s.putCtx n c).code = s.code := rfl
@[simp] theorem State.putCtx_shadow (s : State) (n : Nat) (c : Ctx) : (s.putCtx n c).shadow = s.shadow := rfl
@[simp] theorem State.putCtx_jobs (s : State) (n : Nat) (c : Ctx) : (s.putCtx n c).jobs = s.jobs := rfl
@[simp] theorem State.putCtx_serials (s : State) (n : Nat) (c : Ctx) : (s.putCtx n c).serials = s.serials := rfl
@[simp] theorem State.putCtx_subq (s : State) (n : Nat) (c : Ctx) : (s.putCtx n c).subq = s.subq := rfl
@[simp] theorem State.putCtx_spawnU (s : State) (n : Nat) (c : Ctx) : (s.putCtx n c).spawnU = s.spawnU := rfl
@[simp] theorem State.putCtx_traces (s : State) (n : Nat) (c : Ctx) : (s.putCtx n c).traces = s.traces := rfl
@[simp] theorem State.putCtx_regions (s : State) (n : Nat) (c : Ctx) : (s.putCtx n c).regions = s.regions := rfl
@[simp] theorem State.putCtx_nbars (s : State) (n : Nat) (c : Ctx) : (s.putCtx n c).nbars = s.nbars := rfl
@[simp] theorem State.putCtx_routers (s : State) (n : Nat) (c : Ctx) : (s.putCtx n c).routers = s.routers := rfl
@[simp] theorem State.putCtx_pkts (s : State) (n : Nat) (c : Ctx) : (s.putCtx n c).pkts = s.pkts := rfl
@[simp] theorem State.putCtx_xfers (s : State) (n : Nat) (c : Ctx) : (s.putCtx n c).xfers = s.xfers := rfl
@[simp] theorem State.putCtx_dwell (s : State) (n : Nat) (c : Ctx) : (s.putCtx n c).dwell = s.dwell := rfl
@[simp] theorem State.putCtx_sensors (s : State) (n : Nat) (c : Ctx) : (s.putCtx n c).sensors = s.sensors := rfl
@[simp] theorem State.putCtx_sensorLog (s : State) (n : Nat) (c : Ctx) : (s.putCtx n c).sensorLog = s.sensorLog := rfl
@[simp] theorem State.putCtx_trips (s : State) (n : Nat) (c : Ctx) : (s.putCtx n c).trips = s.trips := rfl
@[simp] theorem State.putCtx_grants (s : State) (n : Nat) (c : Ctx) : (s.putCtx n c).grants = s.grants := rfl
@[simp] theorem State.putCtx_intervalPids (s : State) (n : Nat) (c : Ctx) : (s.putCtx n c).intervalPids = s.intervalPids := rfl
@[simp] theorem State.putCtx_boosted (s : State) (n : Nat) (c : Ctx) : (s.putCtx n c).boosted = s.boosted := rfl
@[simp] theorem State.putCtx_interval (s : State) (n : Nat) (c : Ctx) : (s.putCtx n c).interval = s.interval := rfl
@[simp] theorem State.putCtx_outside (s : State) (n : Nat) (c : Ctx) : (s.putCtx n c).outside = s.outside := rfl
@[simp] theorem State.putCtx_off (s : State) (n : Nat) (c : Ctx) : (s.putCtx n c).off = s.off := rfl
@[simp] theorem State.putCtx_mcks (s : State) (n : Nat) (c : Ctx) : (s.putCtx n c).mcks = s.mcks := rfl
@[simp] theorem State.putCtx_raceLogged (s : State) (n : Nat) (c : Ctx) : (s.putCtx n c).raceLogged = s.raceLogged := rfl
@[simp] theorem State.putCtx_agenda (s : State) (n : Nat) (c : Ctx) : (s.putCtx n c).agenda = s.agenda := rfl
@[simp] theorem State.putCtx_cur (s : State) (n : Nat) (c : Ctx) : (s.putCtx n c).cur = s.cur := rfl
@[simp] theorem State.putCtx_note (s : State) (n : Nat) (c : Ctx) : (s.putCtx n c).note = s.note := rfl
@[simp] theorem State.putCtx_phase (s : State) (n : Nat) (c : Ctx) : (s.putCtx n c).phase = s.phase := rfl
@[simp] theorem State.putCtx_seq (s : State) (n : Nat) (c : Ctx) : (s.putCtx n c).seq = s.seq := rfl
@[simp] theorem State.putCtx_fresh (s : State) (n : Nat) (c : Ctx) : (s.putCtx n c).fresh = s.fresh := rfl

/-! ### State.putQueue -/

@[simp] theorem State.putQueue_gtick (s : State) (q : Nat) (r : Queue) : (s.putQueue q r).gtick = s.gtick := rfl
@[simp] theorem State.putQueue_mem (s : State) (q : Nat) (r : Queue) : (s.putQueue q r).mem = s.mem := rfl
@[simp] theorem State.putQueue_memPoison (s : State) (q : Nat) (r : Queue) : (s.putQueue q r).memPoison = s.memPoison := rfl
@[simp] theorem State.putQueue_vmem (s : State) (q : Nat) (r : Queue) : (s.putQueue q r).vmem = s.vmem := rfl
@[simp] theorem State.putQueue_vPoison (s : State) (q : Nat) (r : Queue) : (s.putQueue q r).vPoison = s.vPoison := rfl
@[simp] theorem State.putQueue_threads (s : State) (q : Nat) (r : Queue) : (s.putQueue q r).threads = s.threads := rfl
@[simp] theorem State.putQueue_lcores (s : State) (q : Nat) (r : Queue) : (s.putQueue q r).lcores = s.lcores := rfl
@[simp] theorem State.putQueue_wcores (s : State) (q : Nat) (r : Queue) : (s.putQueue q r).wcores = s.wcores := rfl
@[simp] theorem State.putQueue_bolts (s : State) (q : Nat) (r : Queue) : (s.putQueue q r).bolts = s.bolts := rfl
@[simp] theorem State.putQueue_contexts (s : State) (q : Nat) (r : Queue) : (s.putQueue q r).contexts = s.contexts := rfl
@[simp] theorem State.putQueue_fw (s : State) (q : Nat) (r : Queue) : (s.putQueue q r).fw = s.fw := rfl
@[simp] theorem State.putQueue_pend (s : State) (q : Nat) (r : Queue) : (s.putQueue q r).pend = s.pend := rfl
@[simp] theorem State.putQueue_stores (s : State) (q : Nat) (r : Queue) : (s.putQueue q r).stores = s.stores := rfl
@[simp] theorem State.putQueue_stamps (s : State) (q : Nat) (r : Queue) : (s.putQueue q r).stamps = s.stamps := rfl
@[simp] theorem State.putQueue_dirs (s : State) (q : Nat) (r : Queue) : (s.putQueue q r).dirs = s.dirs := rfl
@[simp] theorem State.putQueue_dtlb (s : State) (q : Nat) (r : Queue) : (s.putQueue q r).dtlb = s.dtlb := rfl
@[simp] theorem State.putQueue_code (s : State) (q : Nat) (r : Queue) : (s.putQueue q r).code = s.code := rfl
@[simp] theorem State.putQueue_shadow (s : State) (q : Nat) (r : Queue) : (s.putQueue q r).shadow = s.shadow := rfl
@[simp] theorem State.putQueue_jobs (s : State) (q : Nat) (r : Queue) : (s.putQueue q r).jobs = s.jobs := rfl
@[simp] theorem State.putQueue_serials (s : State) (q : Nat) (r : Queue) : (s.putQueue q r).serials = s.serials := rfl
@[simp] theorem State.putQueue_subq (s : State) (q : Nat) (r : Queue) : (s.putQueue q r).subq = s.subq := rfl
@[simp] theorem State.putQueue_spawnU (s : State) (q : Nat) (r : Queue) : (s.putQueue q r).spawnU = s.spawnU := rfl
@[simp] theorem State.putQueue_traces (s : State) (q : Nat) (r : Queue) : (s.putQueue q r).traces = s.traces := rfl
@[simp] theorem State.putQueue_regions (s : State) (q : Nat) (r : Queue) : (s.putQueue q r).regions = s.regions := rfl
@[simp] theorem State.putQueue_nbars (s : State) (q : Nat) (r : Queue) : (s.putQueue q r).nbars = s.nbars := rfl
@[simp] theorem State.putQueue_routers (s : State) (q : Nat) (r : Queue) : (s.putQueue q r).routers = s.routers := rfl
@[simp] theorem State.putQueue_pkts (s : State) (q : Nat) (r : Queue) : (s.putQueue q r).pkts = s.pkts := rfl
@[simp] theorem State.putQueue_xfers (s : State) (q : Nat) (r : Queue) : (s.putQueue q r).xfers = s.xfers := rfl
@[simp] theorem State.putQueue_dwell (s : State) (q : Nat) (r : Queue) : (s.putQueue q r).dwell = s.dwell := rfl
@[simp] theorem State.putQueue_sensors (s : State) (q : Nat) (r : Queue) : (s.putQueue q r).sensors = s.sensors := rfl
@[simp] theorem State.putQueue_sensorLog (s : State) (q : Nat) (r : Queue) : (s.putQueue q r).sensorLog = s.sensorLog := rfl
@[simp] theorem State.putQueue_trips (s : State) (q : Nat) (r : Queue) : (s.putQueue q r).trips = s.trips := rfl
@[simp] theorem State.putQueue_grants (s : State) (q : Nat) (r : Queue) : (s.putQueue q r).grants = s.grants := rfl
@[simp] theorem State.putQueue_intervalPids (s : State) (q : Nat) (r : Queue) : (s.putQueue q r).intervalPids = s.intervalPids := rfl
@[simp] theorem State.putQueue_boosted (s : State) (q : Nat) (r : Queue) : (s.putQueue q r).boosted = s.boosted := rfl
@[simp] theorem State.putQueue_interval (s : State) (q : Nat) (r : Queue) : (s.putQueue q r).interval = s.interval := rfl
@[simp] theorem State.putQueue_outside (s : State) (q : Nat) (r : Queue) : (s.putQueue q r).outside = s.outside := rfl
@[simp] theorem State.putQueue_off (s : State) (q : Nat) (r : Queue) : (s.putQueue q r).off = s.off := rfl
@[simp] theorem State.putQueue_mcks (s : State) (q : Nat) (r : Queue) : (s.putQueue q r).mcks = s.mcks := rfl
@[simp] theorem State.putQueue_raceLogged (s : State) (q : Nat) (r : Queue) : (s.putQueue q r).raceLogged = s.raceLogged := rfl
@[simp] theorem State.putQueue_agenda (s : State) (q : Nat) (r : Queue) : (s.putQueue q r).agenda = s.agenda := rfl
@[simp] theorem State.putQueue_cur (s : State) (q : Nat) (r : Queue) : (s.putQueue q r).cur = s.cur := rfl
@[simp] theorem State.putQueue_note (s : State) (q : Nat) (r : Queue) : (s.putQueue q r).note = s.note := rfl
@[simp] theorem State.putQueue_phase (s : State) (q : Nat) (r : Queue) : (s.putQueue q r).phase = s.phase := rfl
@[simp] theorem State.putQueue_seq (s : State) (q : Nat) (r : Queue) : (s.putQueue q r).seq = s.seq := rfl
@[simp] theorem State.putQueue_fresh (s : State) (q : Nat) (r : Queue) : (s.putQueue q r).fresh = s.fresh := rfl

/-! ### State.putStamp -/

@[simp] theorem State.putStamp_gtick (s : State) (n : Nat) (x : Stamp) : (s.putStamp n x).gtick = s.gtick := rfl
@[simp] theorem State.putStamp_mem (s : State) (n : Nat) (x : Stamp) : (s.putStamp n x).mem = s.mem := rfl
@[simp] theorem State.putStamp_memPoison (s : State) (n : Nat) (x : Stamp) : (s.putStamp n x).memPoison = s.memPoison := rfl
@[simp] theorem State.putStamp_vmem (s : State) (n : Nat) (x : Stamp) : (s.putStamp n x).vmem = s.vmem := rfl
@[simp] theorem State.putStamp_vPoison (s : State) (n : Nat) (x : Stamp) : (s.putStamp n x).vPoison = s.vPoison := rfl
@[simp] theorem State.putStamp_threads (s : State) (n : Nat) (x : Stamp) : (s.putStamp n x).threads = s.threads := rfl
@[simp] theorem State.putStamp_lcores (s : State) (n : Nat) (x : Stamp) : (s.putStamp n x).lcores = s.lcores := rfl
@[simp] theorem State.putStamp_wcores (s : State) (n : Nat) (x : Stamp) : (s.putStamp n x).wcores = s.wcores := rfl
@[simp] theorem State.putStamp_bolts (s : State) (n : Nat) (x : Stamp) : (s.putStamp n x).bolts = s.bolts := rfl
@[simp] theorem State.putStamp_contexts (s : State) (n : Nat) (x : Stamp) : (s.putStamp n x).contexts = s.contexts := rfl
@[simp] theorem State.putStamp_fw (s : State) (n : Nat) (x : Stamp) : (s.putStamp n x).fw = s.fw := rfl
@[simp] theorem State.putStamp_queues (s : State) (n : Nat) (x : Stamp) : (s.putStamp n x).queues = s.queues := rfl
@[simp] theorem State.putStamp_pend (s : State) (n : Nat) (x : Stamp) : (s.putStamp n x).pend = s.pend := rfl
@[simp] theorem State.putStamp_stores (s : State) (n : Nat) (x : Stamp) : (s.putStamp n x).stores = s.stores := rfl
@[simp] theorem State.putStamp_dirs (s : State) (n : Nat) (x : Stamp) : (s.putStamp n x).dirs = s.dirs := rfl
@[simp] theorem State.putStamp_dtlb (s : State) (n : Nat) (x : Stamp) : (s.putStamp n x).dtlb = s.dtlb := rfl
@[simp] theorem State.putStamp_code (s : State) (n : Nat) (x : Stamp) : (s.putStamp n x).code = s.code := rfl
@[simp] theorem State.putStamp_shadow (s : State) (n : Nat) (x : Stamp) : (s.putStamp n x).shadow = s.shadow := rfl
@[simp] theorem State.putStamp_jobs (s : State) (n : Nat) (x : Stamp) : (s.putStamp n x).jobs = s.jobs := rfl
@[simp] theorem State.putStamp_serials (s : State) (n : Nat) (x : Stamp) : (s.putStamp n x).serials = s.serials := rfl
@[simp] theorem State.putStamp_subq (s : State) (n : Nat) (x : Stamp) : (s.putStamp n x).subq = s.subq := rfl
@[simp] theorem State.putStamp_spawnU (s : State) (n : Nat) (x : Stamp) : (s.putStamp n x).spawnU = s.spawnU := rfl
@[simp] theorem State.putStamp_traces (s : State) (n : Nat) (x : Stamp) : (s.putStamp n x).traces = s.traces := rfl
@[simp] theorem State.putStamp_regions (s : State) (n : Nat) (x : Stamp) : (s.putStamp n x).regions = s.regions := rfl
@[simp] theorem State.putStamp_nbars (s : State) (n : Nat) (x : Stamp) : (s.putStamp n x).nbars = s.nbars := rfl
@[simp] theorem State.putStamp_routers (s : State) (n : Nat) (x : Stamp) : (s.putStamp n x).routers = s.routers := rfl
@[simp] theorem State.putStamp_pkts (s : State) (n : Nat) (x : Stamp) : (s.putStamp n x).pkts = s.pkts := rfl
@[simp] theorem State.putStamp_xfers (s : State) (n : Nat) (x : Stamp) : (s.putStamp n x).xfers = s.xfers := rfl
@[simp] theorem State.putStamp_dwell (s : State) (n : Nat) (x : Stamp) : (s.putStamp n x).dwell = s.dwell := rfl
@[simp] theorem State.putStamp_sensors (s : State) (n : Nat) (x : Stamp) : (s.putStamp n x).sensors = s.sensors := rfl
@[simp] theorem State.putStamp_sensorLog (s : State) (n : Nat) (x : Stamp) : (s.putStamp n x).sensorLog = s.sensorLog := rfl
@[simp] theorem State.putStamp_trips (s : State) (n : Nat) (x : Stamp) : (s.putStamp n x).trips = s.trips := rfl
@[simp] theorem State.putStamp_grants (s : State) (n : Nat) (x : Stamp) : (s.putStamp n x).grants = s.grants := rfl
@[simp] theorem State.putStamp_intervalPids (s : State) (n : Nat) (x : Stamp) : (s.putStamp n x).intervalPids = s.intervalPids := rfl
@[simp] theorem State.putStamp_boosted (s : State) (n : Nat) (x : Stamp) : (s.putStamp n x).boosted = s.boosted := rfl
@[simp] theorem State.putStamp_interval (s : State) (n : Nat) (x : Stamp) : (s.putStamp n x).interval = s.interval := rfl
@[simp] theorem State.putStamp_outside (s : State) (n : Nat) (x : Stamp) : (s.putStamp n x).outside = s.outside := rfl
@[simp] theorem State.putStamp_off (s : State) (n : Nat) (x : Stamp) : (s.putStamp n x).off = s.off := rfl
@[simp] theorem State.putStamp_mcks (s : State) (n : Nat) (x : Stamp) : (s.putStamp n x).mcks = s.mcks := rfl
@[simp] theorem State.putStamp_raceLogged (s : State) (n : Nat) (x : Stamp) : (s.putStamp n x).raceLogged = s.raceLogged := rfl
@[simp] theorem State.putStamp_agenda (s : State) (n : Nat) (x : Stamp) : (s.putStamp n x).agenda = s.agenda := rfl
@[simp] theorem State.putStamp_cur (s : State) (n : Nat) (x : Stamp) : (s.putStamp n x).cur = s.cur := rfl
@[simp] theorem State.putStamp_note (s : State) (n : Nat) (x : Stamp) : (s.putStamp n x).note = s.note := rfl
@[simp] theorem State.putStamp_phase (s : State) (n : Nat) (x : Stamp) : (s.putStamp n x).phase = s.phase := rfl
@[simp] theorem State.putStamp_seq (s : State) (n : Nat) (x : Stamp) : (s.putStamp n x).seq = s.seq := rfl
@[simp] theorem State.putStamp_fresh (s : State) (n : Nat) (x : Stamp) : (s.putStamp n x).fresh = s.fresh := rfl

/-! ### State.putDir -/

@[simp] theorem State.putDir_gtick (s : State) (n : Nat) (d : Dir) : (s.putDir n d).gtick = s.gtick := rfl
@[simp] theorem State.putDir_mem (s : State) (n : Nat) (d : Dir) : (s.putDir n d).mem = s.mem := rfl
@[simp] theorem State.putDir_memPoison (s : State) (n : Nat) (d : Dir) : (s.putDir n d).memPoison = s.memPoison := rfl
@[simp] theorem State.putDir_vmem (s : State) (n : Nat) (d : Dir) : (s.putDir n d).vmem = s.vmem := rfl
@[simp] theorem State.putDir_vPoison (s : State) (n : Nat) (d : Dir) : (s.putDir n d).vPoison = s.vPoison := rfl
@[simp] theorem State.putDir_threads (s : State) (n : Nat) (d : Dir) : (s.putDir n d).threads = s.threads := rfl
@[simp] theorem State.putDir_lcores (s : State) (n : Nat) (d : Dir) : (s.putDir n d).lcores = s.lcores := rfl
@[simp] theorem State.putDir_wcores (s : State) (n : Nat) (d : Dir) : (s.putDir n d).wcores = s.wcores := rfl
@[simp] theorem State.putDir_bolts (s : State) (n : Nat) (d : Dir) : (s.putDir n d).bolts = s.bolts := rfl
@[simp] theorem State.putDir_contexts (s : State) (n : Nat) (d : Dir) : (s.putDir n d).contexts = s.contexts := rfl
@[simp] theorem State.putDir_fw (s : State) (n : Nat) (d : Dir) : (s.putDir n d).fw = s.fw := rfl
@[simp] theorem State.putDir_queues (s : State) (n : Nat) (d : Dir) : (s.putDir n d).queues = s.queues := rfl
@[simp] theorem State.putDir_pend (s : State) (n : Nat) (d : Dir) : (s.putDir n d).pend = s.pend := rfl
@[simp] theorem State.putDir_stores (s : State) (n : Nat) (d : Dir) : (s.putDir n d).stores = s.stores := rfl
@[simp] theorem State.putDir_stamps (s : State) (n : Nat) (d : Dir) : (s.putDir n d).stamps = s.stamps := rfl
@[simp] theorem State.putDir_dtlb (s : State) (n : Nat) (d : Dir) : (s.putDir n d).dtlb = s.dtlb := rfl
@[simp] theorem State.putDir_code (s : State) (n : Nat) (d : Dir) : (s.putDir n d).code = s.code := rfl
@[simp] theorem State.putDir_shadow (s : State) (n : Nat) (d : Dir) : (s.putDir n d).shadow = s.shadow := rfl
@[simp] theorem State.putDir_jobs (s : State) (n : Nat) (d : Dir) : (s.putDir n d).jobs = s.jobs := rfl
@[simp] theorem State.putDir_serials (s : State) (n : Nat) (d : Dir) : (s.putDir n d).serials = s.serials := rfl
@[simp] theorem State.putDir_subq (s : State) (n : Nat) (d : Dir) : (s.putDir n d).subq = s.subq := rfl
@[simp] theorem State.putDir_spawnU (s : State) (n : Nat) (d : Dir) : (s.putDir n d).spawnU = s.spawnU := rfl
@[simp] theorem State.putDir_traces (s : State) (n : Nat) (d : Dir) : (s.putDir n d).traces = s.traces := rfl
@[simp] theorem State.putDir_regions (s : State) (n : Nat) (d : Dir) : (s.putDir n d).regions = s.regions := rfl
@[simp] theorem State.putDir_nbars (s : State) (n : Nat) (d : Dir) : (s.putDir n d).nbars = s.nbars := rfl
@[simp] theorem State.putDir_routers (s : State) (n : Nat) (d : Dir) : (s.putDir n d).routers = s.routers := rfl
@[simp] theorem State.putDir_pkts (s : State) (n : Nat) (d : Dir) : (s.putDir n d).pkts = s.pkts := rfl
@[simp] theorem State.putDir_xfers (s : State) (n : Nat) (d : Dir) : (s.putDir n d).xfers = s.xfers := rfl
@[simp] theorem State.putDir_dwell (s : State) (n : Nat) (d : Dir) : (s.putDir n d).dwell = s.dwell := rfl
@[simp] theorem State.putDir_sensors (s : State) (n : Nat) (d : Dir) : (s.putDir n d).sensors = s.sensors := rfl
@[simp] theorem State.putDir_sensorLog (s : State) (n : Nat) (d : Dir) : (s.putDir n d).sensorLog = s.sensorLog := rfl
@[simp] theorem State.putDir_trips (s : State) (n : Nat) (d : Dir) : (s.putDir n d).trips = s.trips := rfl
@[simp] theorem State.putDir_grants (s : State) (n : Nat) (d : Dir) : (s.putDir n d).grants = s.grants := rfl
@[simp] theorem State.putDir_intervalPids (s : State) (n : Nat) (d : Dir) : (s.putDir n d).intervalPids = s.intervalPids := rfl
@[simp] theorem State.putDir_boosted (s : State) (n : Nat) (d : Dir) : (s.putDir n d).boosted = s.boosted := rfl
@[simp] theorem State.putDir_interval (s : State) (n : Nat) (d : Dir) : (s.putDir n d).interval = s.interval := rfl
@[simp] theorem State.putDir_outside (s : State) (n : Nat) (d : Dir) : (s.putDir n d).outside = s.outside := rfl
@[simp] theorem State.putDir_off (s : State) (n : Nat) (d : Dir) : (s.putDir n d).off = s.off := rfl
@[simp] theorem State.putDir_mcks (s : State) (n : Nat) (d : Dir) : (s.putDir n d).mcks = s.mcks := rfl
@[simp] theorem State.putDir_raceLogged (s : State) (n : Nat) (d : Dir) : (s.putDir n d).raceLogged = s.raceLogged := rfl
@[simp] theorem State.putDir_agenda (s : State) (n : Nat) (d : Dir) : (s.putDir n d).agenda = s.agenda := rfl
@[simp] theorem State.putDir_cur (s : State) (n : Nat) (d : Dir) : (s.putDir n d).cur = s.cur := rfl
@[simp] theorem State.putDir_note (s : State) (n : Nat) (d : Dir) : (s.putDir n d).note = s.note := rfl
@[simp] theorem State.putDir_phase (s : State) (n : Nat) (d : Dir) : (s.putDir n d).phase = s.phase := rfl
@[simp] theorem State.putDir_seq (s : State) (n : Nat) (d : Dir) : (s.putDir n d).seq = s.seq := rfl
@[simp] theorem State.putDir_fresh (s : State) (n : Nat) (d : Dir) : (s.putDir n d).fresh = s.fresh := rfl

/-! ### State.bump -/

@[simp] theorem State.bump_gtick (s : State) : (s.bump).gtick = s.gtick := rfl
@[simp] theorem State.bump_mem (s : State) : (s.bump).mem = s.mem := rfl
@[simp] theorem State.bump_memPoison (s : State) : (s.bump).memPoison = s.memPoison := rfl
@[simp] theorem State.bump_vmem (s : State) : (s.bump).vmem = s.vmem := rfl
@[simp] theorem State.bump_vPoison (s : State) : (s.bump).vPoison = s.vPoison := rfl
@[simp] theorem State.bump_threads (s : State) : (s.bump).threads = s.threads := rfl
@[simp] theorem State.bump_lcores (s : State) : (s.bump).lcores = s.lcores := rfl
@[simp] theorem State.bump_wcores (s : State) : (s.bump).wcores = s.wcores := rfl
@[simp] theorem State.bump_bolts (s : State) : (s.bump).bolts = s.bolts := rfl
@[simp] theorem State.bump_contexts (s : State) : (s.bump).contexts = s.contexts := rfl
@[simp] theorem State.bump_fw (s : State) : (s.bump).fw = s.fw := rfl
@[simp] theorem State.bump_queues (s : State) : (s.bump).queues = s.queues := rfl
@[simp] theorem State.bump_pend (s : State) : (s.bump).pend = s.pend := rfl
@[simp] theorem State.bump_stores (s : State) : (s.bump).stores = s.stores := rfl
@[simp] theorem State.bump_stamps (s : State) : (s.bump).stamps = s.stamps := rfl
@[simp] theorem State.bump_dirs (s : State) : (s.bump).dirs = s.dirs := rfl
@[simp] theorem State.bump_dtlb (s : State) : (s.bump).dtlb = s.dtlb := rfl
@[simp] theorem State.bump_code (s : State) : (s.bump).code = s.code := rfl
@[simp] theorem State.bump_shadow (s : State) : (s.bump).shadow = s.shadow := rfl
@[simp] theorem State.bump_jobs (s : State) : (s.bump).jobs = s.jobs := rfl
@[simp] theorem State.bump_serials (s : State) : (s.bump).serials = s.serials := rfl
@[simp] theorem State.bump_subq (s : State) : (s.bump).subq = s.subq := rfl
@[simp] theorem State.bump_spawnU (s : State) : (s.bump).spawnU = s.spawnU := rfl
@[simp] theorem State.bump_traces (s : State) : (s.bump).traces = s.traces := rfl
@[simp] theorem State.bump_regions (s : State) : (s.bump).regions = s.regions := rfl
@[simp] theorem State.bump_nbars (s : State) : (s.bump).nbars = s.nbars := rfl
@[simp] theorem State.bump_routers (s : State) : (s.bump).routers = s.routers := rfl
@[simp] theorem State.bump_pkts (s : State) : (s.bump).pkts = s.pkts := rfl
@[simp] theorem State.bump_xfers (s : State) : (s.bump).xfers = s.xfers := rfl
@[simp] theorem State.bump_dwell (s : State) : (s.bump).dwell = s.dwell := rfl
@[simp] theorem State.bump_sensors (s : State) : (s.bump).sensors = s.sensors := rfl
@[simp] theorem State.bump_sensorLog (s : State) : (s.bump).sensorLog = s.sensorLog := rfl
@[simp] theorem State.bump_trips (s : State) : (s.bump).trips = s.trips := rfl
@[simp] theorem State.bump_grants (s : State) : (s.bump).grants = s.grants := rfl
@[simp] theorem State.bump_intervalPids (s : State) : (s.bump).intervalPids = s.intervalPids := rfl
@[simp] theorem State.bump_boosted (s : State) : (s.bump).boosted = s.boosted := rfl
@[simp] theorem State.bump_interval (s : State) : (s.bump).interval = s.interval := rfl
@[simp] theorem State.bump_outside (s : State) : (s.bump).outside = s.outside := rfl
@[simp] theorem State.bump_off (s : State) : (s.bump).off = s.off := rfl
@[simp] theorem State.bump_mcks (s : State) : (s.bump).mcks = s.mcks := rfl
@[simp] theorem State.bump_raceLogged (s : State) : (s.bump).raceLogged = s.raceLogged := rfl
@[simp] theorem State.bump_agenda (s : State) : (s.bump).agenda = s.agenda := rfl
@[simp] theorem State.bump_cur (s : State) : (s.bump).cur = s.cur := rfl
@[simp] theorem State.bump_note (s : State) : (s.bump).note = s.note := rfl
@[simp] theorem State.bump_phase (s : State) : (s.bump).phase = s.phase := rfl
@[simp] theorem State.bump_fresh (s : State) : (s.bump).fresh = s.fresh := rfl

/-! ### State.bumpFresh -/

@[simp] theorem State.bumpFresh_gtick (s : State) : (s.bumpFresh).gtick = s.gtick := rfl
@[simp] theorem State.bumpFresh_mem (s : State) : (s.bumpFresh).mem = s.mem := rfl
@[simp] theorem State.bumpFresh_memPoison (s : State) : (s.bumpFresh).memPoison = s.memPoison := rfl
@[simp] theorem State.bumpFresh_vmem (s : State) : (s.bumpFresh).vmem = s.vmem := rfl
@[simp] theorem State.bumpFresh_vPoison (s : State) : (s.bumpFresh).vPoison = s.vPoison := rfl
@[simp] theorem State.bumpFresh_threads (s : State) : (s.bumpFresh).threads = s.threads := rfl
@[simp] theorem State.bumpFresh_lcores (s : State) : (s.bumpFresh).lcores = s.lcores := rfl
@[simp] theorem State.bumpFresh_wcores (s : State) : (s.bumpFresh).wcores = s.wcores := rfl
@[simp] theorem State.bumpFresh_bolts (s : State) : (s.bumpFresh).bolts = s.bolts := rfl
@[simp] theorem State.bumpFresh_contexts (s : State) : (s.bumpFresh).contexts = s.contexts := rfl
@[simp] theorem State.bumpFresh_fw (s : State) : (s.bumpFresh).fw = s.fw := rfl
@[simp] theorem State.bumpFresh_queues (s : State) : (s.bumpFresh).queues = s.queues := rfl
@[simp] theorem State.bumpFresh_pend (s : State) : (s.bumpFresh).pend = s.pend := rfl
@[simp] theorem State.bumpFresh_stores (s : State) : (s.bumpFresh).stores = s.stores := rfl
@[simp] theorem State.bumpFresh_stamps (s : State) : (s.bumpFresh).stamps = s.stamps := rfl
@[simp] theorem State.bumpFresh_dirs (s : State) : (s.bumpFresh).dirs = s.dirs := rfl
@[simp] theorem State.bumpFresh_dtlb (s : State) : (s.bumpFresh).dtlb = s.dtlb := rfl
@[simp] theorem State.bumpFresh_code (s : State) : (s.bumpFresh).code = s.code := rfl
@[simp] theorem State.bumpFresh_shadow (s : State) : (s.bumpFresh).shadow = s.shadow := rfl
@[simp] theorem State.bumpFresh_jobs (s : State) : (s.bumpFresh).jobs = s.jobs := rfl
@[simp] theorem State.bumpFresh_serials (s : State) : (s.bumpFresh).serials = s.serials := rfl
@[simp] theorem State.bumpFresh_subq (s : State) : (s.bumpFresh).subq = s.subq := rfl
@[simp] theorem State.bumpFresh_spawnU (s : State) : (s.bumpFresh).spawnU = s.spawnU := rfl
@[simp] theorem State.bumpFresh_traces (s : State) : (s.bumpFresh).traces = s.traces := rfl
@[simp] theorem State.bumpFresh_regions (s : State) : (s.bumpFresh).regions = s.regions := rfl
@[simp] theorem State.bumpFresh_nbars (s : State) : (s.bumpFresh).nbars = s.nbars := rfl
@[simp] theorem State.bumpFresh_routers (s : State) : (s.bumpFresh).routers = s.routers := rfl
@[simp] theorem State.bumpFresh_pkts (s : State) : (s.bumpFresh).pkts = s.pkts := rfl
@[simp] theorem State.bumpFresh_xfers (s : State) : (s.bumpFresh).xfers = s.xfers := rfl
@[simp] theorem State.bumpFresh_dwell (s : State) : (s.bumpFresh).dwell = s.dwell := rfl
@[simp] theorem State.bumpFresh_sensors (s : State) : (s.bumpFresh).sensors = s.sensors := rfl
@[simp] theorem State.bumpFresh_sensorLog (s : State) : (s.bumpFresh).sensorLog = s.sensorLog := rfl
@[simp] theorem State.bumpFresh_trips (s : State) : (s.bumpFresh).trips = s.trips := rfl
@[simp] theorem State.bumpFresh_grants (s : State) : (s.bumpFresh).grants = s.grants := rfl
@[simp] theorem State.bumpFresh_intervalPids (s : State) : (s.bumpFresh).intervalPids = s.intervalPids := rfl
@[simp] theorem State.bumpFresh_boosted (s : State) : (s.bumpFresh).boosted = s.boosted := rfl
@[simp] theorem State.bumpFresh_interval (s : State) : (s.bumpFresh).interval = s.interval := rfl
@[simp] theorem State.bumpFresh_outside (s : State) : (s.bumpFresh).outside = s.outside := rfl
@[simp] theorem State.bumpFresh_off (s : State) : (s.bumpFresh).off = s.off := rfl
@[simp] theorem State.bumpFresh_mcks (s : State) : (s.bumpFresh).mcks = s.mcks := rfl
@[simp] theorem State.bumpFresh_raceLogged (s : State) : (s.bumpFresh).raceLogged = s.raceLogged := rfl
@[simp] theorem State.bumpFresh_agenda (s : State) : (s.bumpFresh).agenda = s.agenda := rfl
@[simp] theorem State.bumpFresh_cur (s : State) : (s.bumpFresh).cur = s.cur := rfl
@[simp] theorem State.bumpFresh_note (s : State) : (s.bumpFresh).note = s.note := rfl
@[simp] theorem State.bumpFresh_phase (s : State) : (s.bumpFresh).phase = s.phase := rfl
@[simp] theorem State.bumpFresh_seq (s : State) : (s.bumpFresh).seq = s.seq := rfl

/-! ### State.block -/

@[simp] theorem State.block_gtick (s : State) : (s.block).gtick = s.gtick := rfl
@[simp] theorem State.block_mem (s : State) : (s.block).mem = s.mem := rfl
@[simp] theorem State.block_memPoison (s : State) : (s.block).memPoison = s.memPoison := rfl
@[simp] theorem State.block_vmem (s : State) : (s.block).vmem = s.vmem := rfl
@[simp] theorem State.block_vPoison (s : State) : (s.block).vPoison = s.vPoison := rfl
@[simp] theorem State.block_threads (s : State) : (s.block).threads = s.threads := rfl
@[simp] theorem State.block_lcores (s : State) : (s.block).lcores = s.lcores := rfl
@[simp] theorem State.block_wcores (s : State) : (s.block).wcores = s.wcores := rfl
@[simp] theorem State.block_bolts (s : State) : (s.block).bolts = s.bolts := rfl
@[simp] theorem State.block_contexts (s : State) : (s.block).contexts = s.contexts := rfl
@[simp] theorem State.block_fw (s : State) : (s.block).fw = s.fw := rfl
@[simp] theorem State.block_queues (s : State) : (s.block).queues = s.queues := rfl
@[simp] theorem State.block_pend (s : State) : (s.block).pend = s.pend := rfl
@[simp] theorem State.block_stores (s : State) : (s.block).stores = s.stores := rfl
@[simp] theorem State.block_stamps (s : State) : (s.block).stamps = s.stamps := rfl
@[simp] theorem State.block_dirs (s : State) : (s.block).dirs = s.dirs := rfl
@[simp] theorem State.block_dtlb (s : State) : (s.block).dtlb = s.dtlb := rfl
@[simp] theorem State.block_code (s : State) : (s.block).code = s.code := rfl
@[simp] theorem State.block_shadow (s : State) : (s.block).shadow = s.shadow := rfl
@[simp] theorem State.block_jobs (s : State) : (s.block).jobs = s.jobs := rfl
@[simp] theorem State.block_serials (s : State) : (s.block).serials = s.serials := rfl
@[simp] theorem State.block_subq (s : State) : (s.block).subq = s.subq := rfl
@[simp] theorem State.block_spawnU (s : State) : (s.block).spawnU = s.spawnU := rfl
@[simp] theorem State.block_traces (s : State) : (s.block).traces = s.traces := rfl
@[simp] theorem State.block_regions (s : State) : (s.block).regions = s.regions := rfl
@[simp] theorem State.block_nbars (s : State) : (s.block).nbars = s.nbars := rfl
@[simp] theorem State.block_routers (s : State) : (s.block).routers = s.routers := rfl
@[simp] theorem State.block_pkts (s : State) : (s.block).pkts = s.pkts := rfl
@[simp] theorem State.block_xfers (s : State) : (s.block).xfers = s.xfers := rfl
@[simp] theorem State.block_dwell (s : State) : (s.block).dwell = s.dwell := rfl
@[simp] theorem State.block_sensors (s : State) : (s.block).sensors = s.sensors := rfl
@[simp] theorem State.block_sensorLog (s : State) : (s.block).sensorLog = s.sensorLog := rfl
@[simp] theorem State.block_trips (s : State) : (s.block).trips = s.trips := rfl
@[simp] theorem State.block_grants (s : State) : (s.block).grants = s.grants := rfl
@[simp] theorem State.block_intervalPids (s : State) : (s.block).intervalPids = s.intervalPids := rfl
@[simp] theorem State.block_boosted (s : State) : (s.block).boosted = s.boosted := rfl
@[simp] theorem State.block_interval (s : State) : (s.block).interval = s.interval := rfl
@[simp] theorem State.block_outside (s : State) : (s.block).outside = s.outside := rfl
@[simp] theorem State.block_off (s : State) : (s.block).off = s.off := rfl
@[simp] theorem State.block_mcks (s : State) : (s.block).mcks = s.mcks := rfl
@[simp] theorem State.block_raceLogged (s : State) : (s.block).raceLogged = s.raceLogged := rfl
@[simp] theorem State.block_agenda (s : State) : (s.block).agenda = s.agenda := rfl
@[simp] theorem State.block_cur (s : State) : (s.block).cur = s.cur := rfl
@[simp] theorem State.block_phase (s : State) : (s.block).phase = s.phase := rfl
@[simp] theorem State.block_seq (s : State) : (s.block).seq = s.seq := rfl
@[simp] theorem State.block_fresh (s : State) : (s.block).fresh = s.fresh := rfl

/-! ### State.modThread -/

@[simp] theorem State.modThread_gtick (s : State) (n : Nat) (f : Thread → Thread) : (s.modThread n f).gtick = s.gtick := by
  unfold State.modThread; split <;> rfl
@[simp] theorem State.modThread_mem (s : State) (n : Nat) (f : Thread → Thread) : (s.modThread n f).mem = s.mem := by
  unfold State.modThread; split <;> rfl
@[simp] theorem State.modThread_memPoison (s : State) (n : Nat) (f : Thread → Thread) : (s.modThread n f).memPoison = s.memPoison := by
  unfold State.modThread; split <;> rfl
@[simp] theorem State.modThread_vmem (s : State) (n : Nat) (f : Thread → Thread) : (s.modThread n f).vmem = s.vmem := by
  unfold State.modThread; split <;> rfl
@[simp] theorem State.modThread_vPoison (s : State) (n : Nat) (f : Thread → Thread) : (s.modThread n f).vPoison = s.vPoison := by
  unfold State.modThread; split <;> rfl
@[simp] theorem State.modThread_lcores (s : State) (n : Nat) (f : Thread → Thread) : (s.modThread n f).lcores = s.lcores := by
  unfold State.modThread; split <;> rfl
@[simp] theorem State.modThread_wcores (s : State) (n : Nat) (f : Thread → Thread) : (s.modThread n f).wcores = s.wcores := by
  unfold State.modThread; split <;> rfl
@[simp] theorem State.modThread_bolts (s : State) (n : Nat) (f : Thread → Thread) : (s.modThread n f).bolts = s.bolts := by
  unfold State.modThread; split <;> rfl
@[simp] theorem State.modThread_contexts (s : State) (n : Nat) (f : Thread → Thread) : (s.modThread n f).contexts = s.contexts := by
  unfold State.modThread; split <;> rfl
@[simp] theorem State.modThread_fw (s : State) (n : Nat) (f : Thread → Thread) : (s.modThread n f).fw = s.fw := by
  unfold State.modThread; split <;> rfl
@[simp] theorem State.modThread_queues (s : State) (n : Nat) (f : Thread → Thread) : (s.modThread n f).queues = s.queues := by
  unfold State.modThread; split <;> rfl
@[simp] theorem State.modThread_pend (s : State) (n : Nat) (f : Thread → Thread) : (s.modThread n f).pend = s.pend := by
  unfold State.modThread; split <;> rfl
@[simp] theorem State.modThread_stores (s : State) (n : Nat) (f : Thread → Thread) : (s.modThread n f).stores = s.stores := by
  unfold State.modThread; split <;> rfl
@[simp] theorem State.modThread_stamps (s : State) (n : Nat) (f : Thread → Thread) : (s.modThread n f).stamps = s.stamps := by
  unfold State.modThread; split <;> rfl
@[simp] theorem State.modThread_dirs (s : State) (n : Nat) (f : Thread → Thread) : (s.modThread n f).dirs = s.dirs := by
  unfold State.modThread; split <;> rfl
@[simp] theorem State.modThread_dtlb (s : State) (n : Nat) (f : Thread → Thread) : (s.modThread n f).dtlb = s.dtlb := by
  unfold State.modThread; split <;> rfl
@[simp] theorem State.modThread_code (s : State) (n : Nat) (f : Thread → Thread) : (s.modThread n f).code = s.code := by
  unfold State.modThread; split <;> rfl
@[simp] theorem State.modThread_shadow (s : State) (n : Nat) (f : Thread → Thread) : (s.modThread n f).shadow = s.shadow := by
  unfold State.modThread; split <;> rfl
@[simp] theorem State.modThread_jobs (s : State) (n : Nat) (f : Thread → Thread) : (s.modThread n f).jobs = s.jobs := by
  unfold State.modThread; split <;> rfl
@[simp] theorem State.modThread_serials (s : State) (n : Nat) (f : Thread → Thread) : (s.modThread n f).serials = s.serials := by
  unfold State.modThread; split <;> rfl
@[simp] theorem State.modThread_subq (s : State) (n : Nat) (f : Thread → Thread) : (s.modThread n f).subq = s.subq := by
  unfold State.modThread; split <;> rfl
@[simp] theorem State.modThread_spawnU (s : State) (n : Nat) (f : Thread → Thread) : (s.modThread n f).spawnU = s.spawnU := by
  unfold State.modThread; split <;> rfl
@[simp] theorem State.modThread_traces (s : State) (n : Nat) (f : Thread → Thread) : (s.modThread n f).traces = s.traces := by
  unfold State.modThread; split <;> rfl
@[simp] theorem State.modThread_regions (s : State) (n : Nat) (f : Thread → Thread) : (s.modThread n f).regions = s.regions := by
  unfold State.modThread; split <;> rfl
@[simp] theorem State.modThread_nbars (s : State) (n : Nat) (f : Thread → Thread) : (s.modThread n f).nbars = s.nbars := by
  unfold State.modThread; split <;> rfl
@[simp] theorem State.modThread_routers (s : State) (n : Nat) (f : Thread → Thread) : (s.modThread n f).routers = s.routers := by
  unfold State.modThread; split <;> rfl
@[simp] theorem State.modThread_pkts (s : State) (n : Nat) (f : Thread → Thread) : (s.modThread n f).pkts = s.pkts := by
  unfold State.modThread; split <;> rfl
@[simp] theorem State.modThread_xfers (s : State) (n : Nat) (f : Thread → Thread) : (s.modThread n f).xfers = s.xfers := by
  unfold State.modThread; split <;> rfl
@[simp] theorem State.modThread_dwell (s : State) (n : Nat) (f : Thread → Thread) : (s.modThread n f).dwell = s.dwell := by
  unfold State.modThread; split <;> rfl
@[simp] theorem State.modThread_sensors (s : State) (n : Nat) (f : Thread → Thread) : (s.modThread n f).sensors = s.sensors := by
  unfold State.modThread; split <;> rfl
@[simp] theorem State.modThread_sensorLog (s : State) (n : Nat) (f : Thread → Thread) : (s.modThread n f).sensorLog = s.sensorLog := by
  unfold State.modThread; split <;> rfl
@[simp] theorem State.modThread_trips (s : State) (n : Nat) (f : Thread → Thread) : (s.modThread n f).trips = s.trips := by
  unfold State.modThread; split <;> rfl
@[simp] theorem State.modThread_grants (s : State) (n : Nat) (f : Thread → Thread) : (s.modThread n f).grants = s.grants := by
  unfold State.modThread; split <;> rfl
@[simp] theorem State.modThread_intervalPids (s : State) (n : Nat) (f : Thread → Thread) : (s.modThread n f).intervalPids = s.intervalPids := by
  unfold State.modThread; split <;> rfl
@[simp] theorem State.modThread_boosted (s : State) (n : Nat) (f : Thread → Thread) : (s.modThread n f).boosted = s.boosted := by
  unfold State.modThread; split <;> rfl
@[simp] theorem State.modThread_interval (s : State) (n : Nat) (f : Thread → Thread) : (s.modThread n f).interval = s.interval := by
  unfold State.modThread; split <;> rfl
@[simp] theorem State.modThread_outside (s : State) (n : Nat) (f : Thread → Thread) : (s.modThread n f).outside = s.outside := by
  unfold State.modThread; split <;> rfl
@[simp] theorem State.modThread_off (s : State) (n : Nat) (f : Thread → Thread) : (s.modThread n f).off = s.off := by
  unfold State.modThread; split <;> rfl
@[simp] theorem State.modThread_mcks (s : State) (n : Nat) (f : Thread → Thread) : (s.modThread n f).mcks = s.mcks := by
  unfold State.modThread; split <;> rfl
@[simp] theorem State.modThread_raceLogged (s : State) (n : Nat) (f : Thread → Thread) : (s.modThread n f).raceLogged = s.raceLogged := by
  unfold State.modThread; split <;> rfl
@[simp] theorem State.modThread_agenda (s : State) (n : Nat) (f : Thread → Thread) : (s.modThread n f).agenda = s.agenda := by
  unfold State.modThread; split <;> rfl
@[simp] theorem State.modThread_cur (s : State) (n : Nat) (f : Thread → Thread) : (s.modThread n f).cur = s.cur := by
  unfold State.modThread; split <;> rfl
@[simp] theorem State.modThread_note (s : State) (n : Nat) (f : Thread → Thread) : (s.modThread n f).note = s.note := by
  unfold State.modThread; split <;> rfl
@[simp] theorem State.modThread_phase (s : State) (n : Nat) (f : Thread → Thread) : (s.modThread n f).phase = s.phase := by
  unfold State.modThread; split <;> rfl
@[simp] theorem State.modThread_seq (s : State) (n : Nat) (f : Thread → Thread) : (s.modThread n f).seq = s.seq := by
  unfold State.modThread; split <;> rfl
@[simp] theorem State.modThread_fresh (s : State) (n : Nat) (f : Thread → Thread) : (s.modThread n f).fresh = s.fresh := by
  unfold State.modThread; split <;> rfl

/-! ### State.modBolt -/

@[simp] theorem State.modBolt_gtick (s : State) (n : Nat) (f : Bolt → Bolt) : (s.modBolt n f).gtick = s.gtick := by
  unfold State.modBolt; split <;> rfl
@[simp] theorem State.modBolt_mem (s : State) (n : Nat) (f : Bolt → Bolt) : (s.modBolt n f).mem = s.mem := by
  unfold State.modBolt; split <;> rfl
@[simp] theorem State.modBolt_memPoison (s : State) (n : Nat) (f : Bolt → Bolt) : (s.modBolt n f).memPoison = s.memPoison := by
  unfold State.modBolt; split <;> rfl
@[simp] theorem State.modBolt_vmem (s : State) (n : Nat) (f : Bolt → Bolt) : (s.modBolt n f).vmem = s.vmem := by
  unfold State.modBolt; split <;> rfl
@[simp] theorem State.modBolt_vPoison (s : State) (n : Nat) (f : Bolt → Bolt) : (s.modBolt n f).vPoison = s.vPoison := by
  unfold State.modBolt; split <;> rfl
@[simp] theorem State.modBolt_threads (s : State) (n : Nat) (f : Bolt → Bolt) : (s.modBolt n f).threads = s.threads := by
  unfold State.modBolt; split <;> rfl
@[simp] theorem State.modBolt_lcores (s : State) (n : Nat) (f : Bolt → Bolt) : (s.modBolt n f).lcores = s.lcores := by
  unfold State.modBolt; split <;> rfl
@[simp] theorem State.modBolt_wcores (s : State) (n : Nat) (f : Bolt → Bolt) : (s.modBolt n f).wcores = s.wcores := by
  unfold State.modBolt; split <;> rfl
@[simp] theorem State.modBolt_contexts (s : State) (n : Nat) (f : Bolt → Bolt) : (s.modBolt n f).contexts = s.contexts := by
  unfold State.modBolt; split <;> rfl
@[simp] theorem State.modBolt_fw (s : State) (n : Nat) (f : Bolt → Bolt) : (s.modBolt n f).fw = s.fw := by
  unfold State.modBolt; split <;> rfl
@[simp] theorem State.modBolt_queues (s : State) (n : Nat) (f : Bolt → Bolt) : (s.modBolt n f).queues = s.queues := by
  unfold State.modBolt; split <;> rfl
@[simp] theorem State.modBolt_pend (s : State) (n : Nat) (f : Bolt → Bolt) : (s.modBolt n f).pend = s.pend := by
  unfold State.modBolt; split <;> rfl
@[simp] theorem State.modBolt_stores (s : State) (n : Nat) (f : Bolt → Bolt) : (s.modBolt n f).stores = s.stores := by
  unfold State.modBolt; split <;> rfl
@[simp] theorem State.modBolt_stamps (s : State) (n : Nat) (f : Bolt → Bolt) : (s.modBolt n f).stamps = s.stamps := by
  unfold State.modBolt; split <;> rfl
@[simp] theorem State.modBolt_dirs (s : State) (n : Nat) (f : Bolt → Bolt) : (s.modBolt n f).dirs = s.dirs := by
  unfold State.modBolt; split <;> rfl
@[simp] theorem State.modBolt_dtlb (s : State) (n : Nat) (f : Bolt → Bolt) : (s.modBolt n f).dtlb = s.dtlb := by
  unfold State.modBolt; split <;> rfl
@[simp] theorem State.modBolt_code (s : State) (n : Nat) (f : Bolt → Bolt) : (s.modBolt n f).code = s.code := by
  unfold State.modBolt; split <;> rfl
@[simp] theorem State.modBolt_shadow (s : State) (n : Nat) (f : Bolt → Bolt) : (s.modBolt n f).shadow = s.shadow := by
  unfold State.modBolt; split <;> rfl
@[simp] theorem State.modBolt_jobs (s : State) (n : Nat) (f : Bolt → Bolt) : (s.modBolt n f).jobs = s.jobs := by
  unfold State.modBolt; split <;> rfl
@[simp] theorem State.modBolt_serials (s : State) (n : Nat) (f : Bolt → Bolt) : (s.modBolt n f).serials = s.serials := by
  unfold State.modBolt; split <;> rfl
@[simp] theorem State.modBolt_subq (s : State) (n : Nat) (f : Bolt → Bolt) : (s.modBolt n f).subq = s.subq := by
  unfold State.modBolt; split <;> rfl
@[simp] theorem State.modBolt_spawnU (s : State) (n : Nat) (f : Bolt → Bolt) : (s.modBolt n f).spawnU = s.spawnU := by
  unfold State.modBolt; split <;> rfl
@[simp] theorem State.modBolt_traces (s : State) (n : Nat) (f : Bolt → Bolt) : (s.modBolt n f).traces = s.traces := by
  unfold State.modBolt; split <;> rfl
@[simp] theorem State.modBolt_regions (s : State) (n : Nat) (f : Bolt → Bolt) : (s.modBolt n f).regions = s.regions := by
  unfold State.modBolt; split <;> rfl
@[simp] theorem State.modBolt_nbars (s : State) (n : Nat) (f : Bolt → Bolt) : (s.modBolt n f).nbars = s.nbars := by
  unfold State.modBolt; split <;> rfl
@[simp] theorem State.modBolt_routers (s : State) (n : Nat) (f : Bolt → Bolt) : (s.modBolt n f).routers = s.routers := by
  unfold State.modBolt; split <;> rfl
@[simp] theorem State.modBolt_pkts (s : State) (n : Nat) (f : Bolt → Bolt) : (s.modBolt n f).pkts = s.pkts := by
  unfold State.modBolt; split <;> rfl
@[simp] theorem State.modBolt_xfers (s : State) (n : Nat) (f : Bolt → Bolt) : (s.modBolt n f).xfers = s.xfers := by
  unfold State.modBolt; split <;> rfl
@[simp] theorem State.modBolt_dwell (s : State) (n : Nat) (f : Bolt → Bolt) : (s.modBolt n f).dwell = s.dwell := by
  unfold State.modBolt; split <;> rfl
@[simp] theorem State.modBolt_sensors (s : State) (n : Nat) (f : Bolt → Bolt) : (s.modBolt n f).sensors = s.sensors := by
  unfold State.modBolt; split <;> rfl
@[simp] theorem State.modBolt_sensorLog (s : State) (n : Nat) (f : Bolt → Bolt) : (s.modBolt n f).sensorLog = s.sensorLog := by
  unfold State.modBolt; split <;> rfl
@[simp] theorem State.modBolt_trips (s : State) (n : Nat) (f : Bolt → Bolt) : (s.modBolt n f).trips = s.trips := by
  unfold State.modBolt; split <;> rfl
@[simp] theorem State.modBolt_grants (s : State) (n : Nat) (f : Bolt → Bolt) : (s.modBolt n f).grants = s.grants := by
  unfold State.modBolt; split <;> rfl
@[simp] theorem State.modBolt_intervalPids (s : State) (n : Nat) (f : Bolt → Bolt) : (s.modBolt n f).intervalPids = s.intervalPids := by
  unfold State.modBolt; split <;> rfl
@[simp] theorem State.modBolt_boosted (s : State) (n : Nat) (f : Bolt → Bolt) : (s.modBolt n f).boosted = s.boosted := by
  unfold State.modBolt; split <;> rfl
@[simp] theorem State.modBolt_interval (s : State) (n : Nat) (f : Bolt → Bolt) : (s.modBolt n f).interval = s.interval := by
  unfold State.modBolt; split <;> rfl
@[simp] theorem State.modBolt_outside (s : State) (n : Nat) (f : Bolt → Bolt) : (s.modBolt n f).outside = s.outside := by
  unfold State.modBolt; split <;> rfl
@[simp] theorem State.modBolt_off (s : State) (n : Nat) (f : Bolt → Bolt) : (s.modBolt n f).off = s.off := by
  unfold State.modBolt; split <;> rfl
@[simp] theorem State.modBolt_mcks (s : State) (n : Nat) (f : Bolt → Bolt) : (s.modBolt n f).mcks = s.mcks := by
  unfold State.modBolt; split <;> rfl
@[simp] theorem State.modBolt_raceLogged (s : State) (n : Nat) (f : Bolt → Bolt) : (s.modBolt n f).raceLogged = s.raceLogged := by
  unfold State.modBolt; split <;> rfl
@[simp] theorem State.modBolt_agenda (s : State) (n : Nat) (f : Bolt → Bolt) : (s.modBolt n f).agenda = s.agenda := by
  unfold State.modBolt; split <;> rfl
@[simp] theorem State.modBolt_cur (s : State) (n : Nat) (f : Bolt → Bolt) : (s.modBolt n f).cur = s.cur := by
  unfold State.modBolt; split <;> rfl
@[simp] theorem State.modBolt_note (s : State) (n : Nat) (f : Bolt → Bolt) : (s.modBolt n f).note = s.note := by
  unfold State.modBolt; split <;> rfl
@[simp] theorem State.modBolt_phase (s : State) (n : Nat) (f : Bolt → Bolt) : (s.modBolt n f).phase = s.phase := by
  unfold State.modBolt; split <;> rfl
@[simp] theorem State.modBolt_seq (s : State) (n : Nat) (f : Bolt → Bolt) : (s.modBolt n f).seq = s.seq := by
  unfold State.modBolt; split <;> rfl
@[simp] theorem State.modBolt_fresh (s : State) (n : Nat) (f : Bolt → Bolt) : (s.modBolt n f).fresh = s.fresh := by
  unfold State.modBolt; split <;> rfl

/-! ### State.modWeft -/

@[simp] theorem State.modWeft_gtick (s : State) (c n : Nat) (f : Weft → Weft) : (s.modWeft c n f).gtick = s.gtick := by
  unfold State.modWeft; split <;> rfl
@[simp] theorem State.modWeft_mem (s : State) (c n : Nat) (f : Weft → Weft) : (s.modWeft c n f).mem = s.mem := by
  unfold State.modWeft; split <;> rfl
@[simp] theorem State.modWeft_memPoison (s : State) (c n : Nat) (f : Weft → Weft) : (s.modWeft c n f).memPoison = s.memPoison := by
  unfold State.modWeft; split <;> rfl
@[simp] theorem State.modWeft_vmem (s : State) (c n : Nat) (f : Weft → Weft) : (s.modWeft c n f).vmem = s.vmem := by
  unfold State.modWeft; split <;> rfl
@[simp] theorem State.modWeft_vPoison (s : State) (c n : Nat) (f : Weft → Weft) : (s.modWeft c n f).vPoison = s.vPoison := by
  unfold State.modWeft; split <;> rfl
@[simp] theorem State.modWeft_threads (s : State) (c n : Nat) (f : Weft → Weft) : (s.modWeft c n f).threads = s.threads := by
  unfold State.modWeft; split <;> rfl
@[simp] theorem State.modWeft_lcores (s : State) (c n : Nat) (f : Weft → Weft) : (s.modWeft c n f).lcores = s.lcores := by
  unfold State.modWeft; split <;> rfl
@[simp] theorem State.modWeft_bolts (s : State) (c n : Nat) (f : Weft → Weft) : (s.modWeft c n f).bolts = s.bolts := by
  unfold State.modWeft; split <;> rfl
@[simp] theorem State.modWeft_contexts (s : State) (c n : Nat) (f : Weft → Weft) : (s.modWeft c n f).contexts = s.contexts := by
  unfold State.modWeft; split <;> rfl
@[simp] theorem State.modWeft_fw (s : State) (c n : Nat) (f : Weft → Weft) : (s.modWeft c n f).fw = s.fw := by
  unfold State.modWeft; split <;> rfl
@[simp] theorem State.modWeft_queues (s : State) (c n : Nat) (f : Weft → Weft) : (s.modWeft c n f).queues = s.queues := by
  unfold State.modWeft; split <;> rfl
@[simp] theorem State.modWeft_pend (s : State) (c n : Nat) (f : Weft → Weft) : (s.modWeft c n f).pend = s.pend := by
  unfold State.modWeft; split <;> rfl
@[simp] theorem State.modWeft_stores (s : State) (c n : Nat) (f : Weft → Weft) : (s.modWeft c n f).stores = s.stores := by
  unfold State.modWeft; split <;> rfl
@[simp] theorem State.modWeft_stamps (s : State) (c n : Nat) (f : Weft → Weft) : (s.modWeft c n f).stamps = s.stamps := by
  unfold State.modWeft; split <;> rfl
@[simp] theorem State.modWeft_dirs (s : State) (c n : Nat) (f : Weft → Weft) : (s.modWeft c n f).dirs = s.dirs := by
  unfold State.modWeft; split <;> rfl
@[simp] theorem State.modWeft_dtlb (s : State) (c n : Nat) (f : Weft → Weft) : (s.modWeft c n f).dtlb = s.dtlb := by
  unfold State.modWeft; split <;> rfl
@[simp] theorem State.modWeft_code (s : State) (c n : Nat) (f : Weft → Weft) : (s.modWeft c n f).code = s.code := by
  unfold State.modWeft; split <;> rfl
@[simp] theorem State.modWeft_shadow (s : State) (c n : Nat) (f : Weft → Weft) : (s.modWeft c n f).shadow = s.shadow := by
  unfold State.modWeft; split <;> rfl
@[simp] theorem State.modWeft_jobs (s : State) (c n : Nat) (f : Weft → Weft) : (s.modWeft c n f).jobs = s.jobs := by
  unfold State.modWeft; split <;> rfl
@[simp] theorem State.modWeft_serials (s : State) (c n : Nat) (f : Weft → Weft) : (s.modWeft c n f).serials = s.serials := by
  unfold State.modWeft; split <;> rfl
@[simp] theorem State.modWeft_subq (s : State) (c n : Nat) (f : Weft → Weft) : (s.modWeft c n f).subq = s.subq := by
  unfold State.modWeft; split <;> rfl
@[simp] theorem State.modWeft_spawnU (s : State) (c n : Nat) (f : Weft → Weft) : (s.modWeft c n f).spawnU = s.spawnU := by
  unfold State.modWeft; split <;> rfl
@[simp] theorem State.modWeft_traces (s : State) (c n : Nat) (f : Weft → Weft) : (s.modWeft c n f).traces = s.traces := by
  unfold State.modWeft; split <;> rfl
@[simp] theorem State.modWeft_regions (s : State) (c n : Nat) (f : Weft → Weft) : (s.modWeft c n f).regions = s.regions := by
  unfold State.modWeft; split <;> rfl
@[simp] theorem State.modWeft_nbars (s : State) (c n : Nat) (f : Weft → Weft) : (s.modWeft c n f).nbars = s.nbars := by
  unfold State.modWeft; split <;> rfl
@[simp] theorem State.modWeft_routers (s : State) (c n : Nat) (f : Weft → Weft) : (s.modWeft c n f).routers = s.routers := by
  unfold State.modWeft; split <;> rfl
@[simp] theorem State.modWeft_pkts (s : State) (c n : Nat) (f : Weft → Weft) : (s.modWeft c n f).pkts = s.pkts := by
  unfold State.modWeft; split <;> rfl
@[simp] theorem State.modWeft_xfers (s : State) (c n : Nat) (f : Weft → Weft) : (s.modWeft c n f).xfers = s.xfers := by
  unfold State.modWeft; split <;> rfl
@[simp] theorem State.modWeft_dwell (s : State) (c n : Nat) (f : Weft → Weft) : (s.modWeft c n f).dwell = s.dwell := by
  unfold State.modWeft; split <;> rfl
@[simp] theorem State.modWeft_sensors (s : State) (c n : Nat) (f : Weft → Weft) : (s.modWeft c n f).sensors = s.sensors := by
  unfold State.modWeft; split <;> rfl
@[simp] theorem State.modWeft_sensorLog (s : State) (c n : Nat) (f : Weft → Weft) : (s.modWeft c n f).sensorLog = s.sensorLog := by
  unfold State.modWeft; split <;> rfl
@[simp] theorem State.modWeft_trips (s : State) (c n : Nat) (f : Weft → Weft) : (s.modWeft c n f).trips = s.trips := by
  unfold State.modWeft; split <;> rfl
@[simp] theorem State.modWeft_grants (s : State) (c n : Nat) (f : Weft → Weft) : (s.modWeft c n f).grants = s.grants := by
  unfold State.modWeft; split <;> rfl
@[simp] theorem State.modWeft_intervalPids (s : State) (c n : Nat) (f : Weft → Weft) : (s.modWeft c n f).intervalPids = s.intervalPids := by
  unfold State.modWeft; split <;> rfl
@[simp] theorem State.modWeft_boosted (s : State) (c n : Nat) (f : Weft → Weft) : (s.modWeft c n f).boosted = s.boosted := by
  unfold State.modWeft; split <;> rfl
@[simp] theorem State.modWeft_interval (s : State) (c n : Nat) (f : Weft → Weft) : (s.modWeft c n f).interval = s.interval := by
  unfold State.modWeft; split <;> rfl
@[simp] theorem State.modWeft_outside (s : State) (c n : Nat) (f : Weft → Weft) : (s.modWeft c n f).outside = s.outside := by
  unfold State.modWeft; split <;> rfl
@[simp] theorem State.modWeft_off (s : State) (c n : Nat) (f : Weft → Weft) : (s.modWeft c n f).off = s.off := by
  unfold State.modWeft; split <;> rfl
@[simp] theorem State.modWeft_mcks (s : State) (c n : Nat) (f : Weft → Weft) : (s.modWeft c n f).mcks = s.mcks := by
  unfold State.modWeft; split <;> rfl
@[simp] theorem State.modWeft_raceLogged (s : State) (c n : Nat) (f : Weft → Weft) : (s.modWeft c n f).raceLogged = s.raceLogged := by
  unfold State.modWeft; split <;> rfl
@[simp] theorem State.modWeft_agenda (s : State) (c n : Nat) (f : Weft → Weft) : (s.modWeft c n f).agenda = s.agenda := by
  unfold State.modWeft; split <;> rfl
@[simp] theorem State.modWeft_cur (s : State) (c n : Nat) (f : Weft → Weft) : (s.modWeft c n f).cur = s.cur := by
  unfold State.modWeft; split <;> rfl
@[simp] theorem State.modWeft_note (s : State) (c n : Nat) (f : Weft → Weft) : (s.modWeft c n f).note = s.note := by
  unfold State.modWeft; split <;> rfl
@[simp] theorem State.modWeft_phase (s : State) (c n : Nat) (f : Weft → Weft) : (s.modWeft c n f).phase = s.phase := by
  unfold State.modWeft; split <;> rfl
@[simp] theorem State.modWeft_seq (s : State) (c n : Nat) (f : Weft → Weft) : (s.modWeft c n f).seq = s.seq := by
  unfold State.modWeft; split <;> rfl
@[simp] theorem State.modWeft_fresh (s : State) (c n : Nat) (f : Weft → Weft) : (s.modWeft c n f).fresh = s.fresh := by
  unfold State.modWeft; split <;> rfl

/-! ### Reading back -/

@[simp] theorem State.thread?_putThread_same (s : State) (t : Thread) : (s.putThread t).thread? t.tid = some t :=
  tabGet_tabPut_same _ _ _

theorem State.thread?_putThread_other (s : State) {t : Thread} {n : Nat} (h : t.tid ≠ n) :
    (s.putThread t).thread? n = s.thread? n := tabGet_tabPut_other _ _ h

@[simp] theorem State.lcore_putL_same (s : State) (c : Nat) (l : LCore) : (s.putL c l).lcore c = l := by
  simp [State.lcore, State.putL, tabGet_tabPut_same]

theorem State.lcore_putL_other (s : State) {c d : Nat} (l : LCore) (h : c ≠ d) : (s.putL c l).lcore d = s.lcore d := by
  simp [State.lcore, State.putL, tabGet_tabPut_other _ _ h]

@[simp] theorem State.wcore_putW_same (s : State) (c : Nat) (w : WCore) : (s.putW c w).wcore c = w := by
  simp [State.wcore, State.putW, tabGet_tabPut_same]

theorem State.wcore_putW_other (s : State) {c d : Nat} (w : WCore) (h : c ≠ d) : (s.putW c w).wcore d = s.wcore d := by
  simp [State.wcore, State.putW, tabGet_tabPut_other _ _ h]

@[simp] theorem State.bolt?_putBolt_same (s : State) (b : Bolt) : (s.putBolt b).bolt? b.id = some b :=
  tabGet_tabPut_same _ _ _

theorem State.bolt?_putBolt_other (s : State) {b : Bolt} {n : Nat} (h : b.id ≠ n) :
    (s.putBolt b).bolt? n = s.bolt? n := tabGet_tabPut_other _ _ h

@[simp] theorem State.ctx_putCtx_same (s : State) (n : Nat) (c : Ctx) : (s.putCtx n c).ctx n = c := by
  simp [State.ctx, State.putCtx, tabGet_tabPut_same]

@[simp] theorem State.queue_putQueue_same (s : State) (q : Nat) (r : Queue) : (s.putQueue q r).queue q = r := by
  simp [State.queue, State.putQueue, tabGet_tabPut_same]

theorem State.queue_putQueue_other (s : State) {q n : Nat} (r : Queue) (h : q ≠ n) :
    (s.putQueue q r).queue n = s.queue n := by
  simp [State.queue, State.putQueue, tabGet_tabPut_other _ _ h]

/-- A change of a thread that the state holds. -/
theorem State.modThread_of (s : State) {n : Nat} {t : Thread} (h : s.thread? n = some t) (f : Thread → Thread) :
    s.modThread n f = s.putThread (f t) := by simp [State.modThread, h]

/-- A change of a bolt that the state holds. -/
theorem State.modBolt_of (s : State) {n : Nat} {b : Bolt} (h : s.bolt? n = some b) (f : Bolt → Bolt) :
    s.modBolt n f = s.putBolt (f b) := by simp [State.modBolt, h]

/-! ### General registers -/

/-- g0 reads zero, full and without poison (R56). -/
@[simp] theorem Thread.reg_zero (t : Thread) : t.reg 0 = Reg.zero := by simp [Thread.reg]

/-- g0 never changes (R56). -/
@[simp] theorem Thread.setReg_zero (t : Thread) (r : Reg) : t.setReg 0 r = t := by simp [Thread.setReg]

theorem Thread.reg_setReg_same (t : Thread) {n : Nat} (r : Reg) (h : 0 < n) (h' : n < 56) :
    (t.setReg n r).reg n = r := by
  have : n ≠ 0 := by omega
  simp [Thread.setReg, Thread.reg, h, h', this]

theorem Thread.reg_setReg_other (t : Thread) {n m : Nat} (r : Reg) (h : n ≠ m) : (t.setReg n r).reg m = t.reg m := by
  unfold Thread.setReg
  split
  · next hn =>
    unfold Thread.reg
    split
    · rfl
    · split
      · simp [h]
      · rfl
  · rfl

end Sys2Proof.Machine
end

