-- ==== Sys2Proof/Laws/Issue.lean ====
section
/-! SUPPORT. What one issue does (R7, R57, R58, R92): for a group that nothing stops, the bodies of its lanes one
after another and nothing else; and what that comes to for the kinds of bodies that instructions have. -/

namespace Sys2Proof.Machine

/-! ### Threads' records -/

theorem State.putThreads_cons (s : State) (t : Thread) (l : List Thread) :
    s.putThreads (t :: l) = (s.putThread t).putThreads l := rfl

theorem State.putThreads_append (s : State) (l m : List Thread) :
    s.putThreads (l ++ m) = (s.putThreads l).putThreads m := by simp [State.putThreads]

theorem State.thread?_putThreads_other (s : State) (l : List Thread) {n : Nat} (h : ∀ t ∈ l, t.tid ≠ n) :
    (s.putThreads l).thread? n = s.thread? n := by
  induction l generalizing s with
  | nil => rfl
  | cons t l ih =>
    rw [State.putThreads_cons, ih _ fun u hu => h u (List.mem_cons_of_mem _ hu),
      State.thread?_putThread_other _ (h t List.mem_cons_self)]

theorem State.thread?_putThreads_mem (s : State) {l : List Thread} (hn : (l.map Thread.tid).Nodup) {t : Thread}
    (h : t ∈ l) : (s.putThreads l).thread? t.tid = some t := by
  induction l generalizing s with
  | nil => simp at h
  | cons u l ih =>
    rw [List.map_cons, List.nodup_cons] at hn
    rw [State.putThreads_cons]
    rcases List.mem_cons.1 h with rfl | h
    · rw [State.thread?_putThreads_other, State.thread?_putThread_same]
      intro v hv hvt
      exact hn.1 (hvt ▸ List.mem_map_of_mem hv)
    · exact ih _ hn.2 h

/-- Records of threads are all that differs. -/
theorem State.putThreads_eq (s : State) (l : List Thread) :
    s.putThreads l = { s with threads := (s.putThreads l).threads } := by
  induction l generalizing s with
  | nil => rfl
  | cons t l ih => rw [State.putThreads_cons, ih]; rfl

theorem State.putThread_putThread (s : State) {t u : Thread} (h : t.tid = u.tid) :
    (s.putThread t).putThread u = s.putThread u := by
  simp only [State.putThread, h, tabPut_tabPut]

@[simp] theorem Thread.setReg_tid (t : Thread) (n : Nat) (r : Reg) : (t.setReg n r).tid = t.tid := by
  unfold Thread.setReg; split <;> rfl

@[simp] theorem Thread.setReg_pc (t : Thread) (n : Nat) (r : Reg) : (t.setReg n r).pc = t.pc := by
  unfold Thread.setReg; split <;> rfl

@[simp] theorem Thread.setReg_ports (t : Thread) (n : Nat) (r : Reg) : (t.setReg n r).ports = t.ports := by
  unfold Thread.setReg; split <;> rfl

@[simp] theorem Thread.past_tid (t : Thread) (f : Fields) (irrev : Bool) : (t.past f irrev).tid = t.tid := rfl

@[simp] theorem Thread.got_tid (t : Thread) (f : Fields) (irrev : Bool) (v : Word) : (t.got f irrev v).tid = t.tid := by
  simp [Thread.got]

/-- A thread that completes an instruction. -/
theorem State.advance_of (s : State) {n : Nat} {t : Thread} (h : s.thread? n = some t) (f : Fields) (irrev : Bool) :
    s.advance n f irrev = s.putThread (t.past f irrev) := by
  rw [State.advance, State.modThread_of s h]
  congr 1
  cases irrev <;> rfl

/-- A thread that completes an instruction with a change of its own record. -/
theorem State.advance_putThread (s : State) (t : Thread) (f : Fields) (irrev : Bool) :
    (s.putThread t).advance t.tid f irrev = s.putThread (t.past f irrev) := by
  rw [State.advance_of _ (State.thread?_putThread_same s t)]
  exact State.putThread_putThread s (t.past_tid f irrev).symm

/-! ### The checks of a group that nothing stops -/

theorem ranked_go_lt (seen cs : List Claim) {p : Claim × Nat} (h : p ∈ ranked.go seen cs) :
    p.2 < (seen.filter fun d => d.q == p.1.q).length + (cs.filter fun d => d.q == p.1.q).length := by
  induction cs generalizing seen with
  | nil => simp [ranked.go] at h
  | cons c cs ih =>
    rw [ranked.go] at h
    rcases List.mem_cons.1 h with rfl | h
    · simp
    · have := ih (c :: seen) h
      simp only [List.filter_cons] at this ⊢
      split at this <;> split <;> simp_all <;> omega

/-- A claim's place among those on its queue. -/
theorem ranked_lt {cs : List Claim} {p : Claim × Nat} (h : p ∈ ranked cs) :
    p.2 < (cs.filter fun d => d.q == p.1.q).length := by simpa using ranked_go_lt [] cs h

theorem aboveBlocks_none {r : OpRule} {f : Fields} {c : Nat} (h : ∀ n ∈ allNamed r f, n < 8 * c) :
    aboveBlocks r f c = none := by
  have : (allNamed r f).filter (fun n => 8 * c ≤ n) = [] := by
    rw [List.filter_eq_nil_iff]
    intro n hn
    have := h n hn
    simp only [decide_eq_true_eq]; omega
  simp [aboveBlocks, this]

theorem fieldTrap_none {s : State} {t : Thread} {u : Use}
    (hp : u.isPort = true → ∃ q, s.portQueue t u.reg = .ok q)
    (hr : (u.regs.any fun n => !(t.reg n).full) = false) : fieldTrap s t u = none := by
  unfold fieldTrap
  split
  · next h =>
    obtain ⟨q, hq⟩ := hp h
    rw [hq]
  · rw [hr, Bool.and_false, if_neg Bool.false_ne_true]

theorem readRegs_sources {r : OpRule} {f : Fields} {n : Nat} (h : n ∈ (usesOf r f).flatMap Use.regs) :
    n ∈ readRegs r f := List.mem_append_left _ h

theorem regsBlock_false {s : State} {r : OpRule} {f : Fields} {irrev : Bool} {t : Thread}
    (h : LaneReady s r f irrev t) : regsBlock t r f = false := by
  have h1 : ((usesOf r f).any fun u => !u.e && u.regs.any fun n => !(t.reg n).full) = false := by
    rw [List.any_eq_false]
    intro u hu
    have : (u.regs.any fun n => !(t.reg n).full) = false := by
      rw [List.any_eq_false]
      intro n hn
      simp [(h.sources n (readRegs_sources (List.mem_flatMap.2 ⟨u, hu, hn⟩))).1]
    simp [this]
  have h2 : (r.pol && !(t.reg f.pol).full) = false := by
    by_cases hp : r.pol = true
    · have := (h.sources f.pol.val (List.mem_append_right _ (by simp [hp]))).1
      simp [this]
    · simp [hp]
  have h3 : (match r.rd with
      | .reg | .gen | .pair => (namedRegs r.rd f.rd).any fun n => !(t.reg n).full
      | _ => false) = false := by
    have ht := h.target
    unfold writeRegs at ht
    split at ht <;> rename_i hrd <;> simp only [hrd] at ht ⊢
    all_goals (rw [List.any_eq_false]; intro n hn; simp [ht n hn])
  rw [regsBlock, h1, h2]
  exact h3

theorem poisonedSource_none {s : State} {r : OpRule} {f : Fields} {irrev : Bool} {t : Thread}
    (h : LaneReady s r f irrev t) : poisonedSource t r f = none := by
  rw [poisonedSource, List.find?_eq_none]
  intro n hn
  simp [(h.sources n hn).2]

/-- No source field of a ready lane traps whose ports reach queues. -/
theorem laneReady_fields {s : State} {r : OpRule} {f : Fields} {irrev : Bool} {t : Thread} (h : LaneReady s r f irrev t)
    (hp : ∀ u ∈ usesOf r f, u.isPort = true → ∃ q, s.portQueue t u.reg = .ok q) :
    ∀ u ∈ usesOf r f, fieldTrap s t u = none := fun u hu => by
  refine fieldTrap_none (hp u hu) ?_
  rw [List.any_eq_false]
  intro n hn
  rw [(h.sources n (readRegs_sources (List.mem_flatMap.2 ⟨u, hu, hn⟩))).1]
  exact Bool.false_ne_true

theorem gateTrap_none {s : State} {r : OpRule} {f : Fields} {irrev : Bool} {t : Thread} (h : LaneReady s r f irrev t) :
    gateTrap s t r f none = none := by
  simp only [gateTrap, Nat.not_lt.2 h.level, if_false, aboveBlocks_none h.blocks, Option.map_none]

theorem reachesField_true {s : State} {r : OpRule} {f : Fields} {irrev : Bool} {t : Thread} (h : LaneReady s r f irrev t)
    (hp : ∀ u ∈ usesOf r f, u.isPort = true → ∃ q, s.portQueue t u.reg = .ok q) (n : Nat) :
    reachesField s t r f n = true := by
  rw [reachesField, List.all_eq_true]
  intro u hu
  simp [laneReady_fields h hp u hu]

theorem laneTrap_none {s : State} {r : OpRule} {f : Fields} {irrev : Bool} {t : Thread} (h : LaneReady s r f irrev t)
    (hp : ∀ u ∈ usesOf r f, u.isPort = true → ∃ q, s.portQueue t u.reg = .ok q) :
    laneTrap s t r f none [] = none := by
  simp only [laneTrap, gateTrap_none h]
  rw [sourceTrap, List.findSome?_eq_none_iff]
  intro u hu
  simp [useTrap, laneReady_fields h hp u hu]

theorem poisonTrap_none {s : State} {r : OpRule} {f : Fields} {irrev carries : Bool} {t : Thread}
    (h : LaneReady s r f irrev t) (pops : List Popped) (hc : carries = true ∨ ∀ p ∈ pops, p.poison = false) :
    poisonTrap t r f carries pops = none := by
  rw [poisonTrap, poisonedSource_none h]
  rcases hc with rfl | hc
  · rfl
  · have : pops.find? Popped.poison = none := by
      rw [List.find?_eq_none]; intro p hp; simp [hc p hp]
    simp [this]

/-- A ready lane whose rd reaches a queue it may push to takes no trap once nothing blocks it. -/
theorem lateTrap_none {s : State} {r : OpRule} {f : Fields} {irrev carries : Bool} {t : Thread}
    (h : LaneReady s r f irrev t) (pops : List Popped) (hc : carries = true ∨ ∀ p ∈ pops, p.poison = false)
    (hd : pushesRd r f = true → t.lost = none ∧ ∃ q, s.portQueue t f.rd = .ok q ∧ ∀ n, q ≠ .inbox n) :
    lateTrap s r f carries t pops = none := by
  rw [lateTrap, poisonTrap_none h pops hc]
  cases hx : pushesRd r f
  · simp [rdTrap, hx]
  · obtain ⟨hl, q, hq, hne⟩ := hd hx
    cases q <;> simp_all [rdTrap, lostTrap]

/-- Claims with a word for each are all served. -/
theorem unserved_nil {s : State} {cs : List Claim}
    (h : ∀ q, (cs.filter fun c => c.q == q).length ≤ (s.queueWords q).length) : unserved s cs = [] := by
  rw [unserved, List.map_eq_nil_iff, List.filter_eq_nil_iff]
  intro p hp
  have h1 := ranked_lt hp
  have h2 := h p.1.q
  simp only [Bool.and_eq_true, decide_eq_true_eq, not_and]
  intro _
  omega

/-- The claims of ready lanes stand open, every one. -/
theorem dryClaims_nil {s : State} {r : OpRule} {f : Fields} {irrev : Bool} {ls : List (Nat × Thread)}
    (h : ∀ p ∈ ls, LaneReady s r f irrev p.2) (pre : Thread → Option Trap) (hpre : ∀ p ∈ ls, pre p.2 = none)
    (hb : ∀ p ∈ ls, ∀ u ∈ usesOf r f, u.isPort = true → ∃ q, s.portQueue p.2 u.reg = .ok q)
    (hw : ∀ q, ((s.groupClaims r f ls).filter fun c => c.q == q).length ≤ (s.queueWords q).length) :
    dryClaims s r f pre ls = [] := by
  have hg : ls.filter (fun p => (gateTrap s p.2 r f (pre p.2)).isNone) = ls := by
    rw [List.filter_eq_self]; intro p hp; simp [hpre p hp, gateTrap_none (h p hp)]
  have hr : ∀ n, ls.filter (fun p => reachesField s p.2 r f n) = ls := fun n => by
    rw [List.filter_eq_self]; intro p hp; exact reachesField_true (h p hp) (hb p hp) n
  have : openClaims s r f ls = s.groupClaims r f ls := by simp only [openClaims, hr]; rfl
  rw [dryClaims, hg, this, unserved_nil hw]

/-! ### The lanes of a group -/

theorem runLanesBody_map {r : OpRule} {f : Fields} {irrev : Bool} {own : Thread → List Popped → Option Trap} {body : Body}
    {pops : List (Nat × Popped)}
    {ls : List (Nat × Thread)} (step : Issuing → Nat × Thread → Issuing)
    (hp : ∀ p ∈ ls, own p.2 ((pops.filter fun x => x.1 == p.2.tid).map (·.2)) = none)
    (hstep : ∀ g p, p ∈ ls →
      g.lane r f irrev body (readLane r f p.1 p.2 ((pops.filter fun x => x.1 == p.2.tid).map (·.2))) = step g p)
    (g : Issuing) : runLanesBody r f irrev own body pops g ls = ls.foldl step g := by
  induction ls generalizing g with
  | nil => rfl
  | cons p ls ih =>
    obtain ⟨n, t⟩ := p
    rw [runLanesBody]
    simp only [hp (n, t) List.mem_cons_self, hstep g (n, t) List.mem_cons_self]
    rw [List.foldl_cons]
    exact ih (fun p h => hp p (List.mem_cons_of_mem _ h)) (fun g p h => hstep g p (List.mem_cons_of_mem _ h)) _

theorem usesOf_noPort {r : OpRule} {f : Fields} (h : touchesPort r f = false) :
    pushesRd r f = false ∧ ∀ u ∈ usesOf r f, u.isPort = false := by
  rw [touchesPort, Bool.or_eq_false_iff] at h
  refine ⟨h.1, fun u hu => ?_⟩
  have := List.any_eq_false.1 h.2 u hu
  simpa using this

/-- LANES IN TURN: each completes with an effect of its own on the state and the words it pushes. -/
theorem runLanes_fold {s : State} {r : OpRule} {f : Fields} {irrev : Bool} {own : Thread → List Popped → Option Trap}
    {body : Body}
    {pops : List (Nat × Popped)} {ls : List (Nat × Thread)} (eff : Nat × Thread → State → State)
    (ps : Nat × Thread → List (QId × Word × Bool))
    (hp : ∀ p ∈ ls, own p.2 ((pops.filter fun x => x.1 == p.2.tid).map (·.2)) = none)
    (hbody : ∀ ms p ns, ls = ms ++ p :: ns → ∀ g : Issuing, g.all = ms.foldl (fun k q => eff q k) s →
      g.lane r f irrev body (readLane r f p.1 p.2 ((pops.filter fun x => x.1 == p.2.tid).map (·.2))) =
        { g with all := eff p g.all, done := g.done ++ [p.2.tid], pushes := g.pushes ++ ps p }) :
    runLanesBody r f irrev own body pops ⟨s, s, [], [], false, none, []⟩ ls =
      ⟨ls.foldl (fun k q => eff q k) s, s, ls.map fun p => p.2.tid, ls.flatMap ps, false, none, []⟩ := by
  have key : ∀ (ns ms : List (Nat × Thread)), ls = ms ++ ns →
      runLanesBody r f irrev own body pops
        ⟨ms.foldl (fun k q => eff q k) s, s, ms.map fun p => p.2.tid, ms.flatMap ps, false, none, []⟩ ns =
      ⟨ls.foldl (fun k q => eff q k) s, s, ls.map fun p => p.2.tid, ls.flatMap ps, false, none, []⟩ := by
    intro ns
    induction ns with
    | nil => intro ms e; simp [runLanesBody, e]
    | cons p ns ih =>
      intro ms e
      obtain ⟨n, t⟩ := p
      have hm : (n, t) ∈ ls := e ▸ by simp
      rw [runLanesBody]
      have h1 := hp (n, t) hm
      simp only at h1
      simp only [h1]
      rw [hbody ms (n, t) ns e _ rfl]
      have := ih (ms ++ [(n, t)]) (by simp [e])
      simpa using this
  simpa using key ls [] rfl

/-- The threads of a group are still as they were while lanes before them change their own. -/
theorem own_held {s : State} {ls : List (Nat × Thread)} (hg : LaneGroup s ls) (h : Nat × Thread → Thread)
    (htid : ∀ p, (h p).tid = p.2.tid) {ms ns : List (Nat × Thread)} {p : Nat × Thread} (e : ls = ms ++ p :: ns) :
    (s.putThreads (ms.map h)).thread? p.2.tid = some p.2 := by
  rw [State.thread?_putThreads_other]
  · exact hg.held p (e ▸ by simp)
  · intro t ht
    obtain ⟨q, hq, rfl⟩ := List.mem_map.1 ht
    rw [htid]
    have := hg.nodup
    rw [e] at this
    simp only [List.map_append, List.map_cons] at this
    rw [List.nodup_append] at this
    exact this.2.2 _ (List.mem_map_of_mem hq) _ List.mem_cons_self

theorem foldl_putThread (s : State) (ls : List (Nat × Thread)) (h : Nat × Thread → Thread) :
    ls.foldl (fun k q => k.putThread (h q)) s = s.putThreads (ls.map h) := by
  rw [State.putThreads, List.foldl_map]

/-! ### Queue ports as operands -/

theorem ranked_go_mem (seen cs : List Claim) {p : Claim × Nat} (h : p ∈ ranked.go seen cs) : p.1 ∈ cs := by
  induction cs generalizing seen with
  | nil => simp [ranked.go] at h
  | cons c cs ih =>
    rw [ranked.go] at h
    rcases List.mem_cons.1 h with rfl | h
    · exact List.mem_cons_self
    · exact List.mem_cons_of_mem _ (ih _ h)

theorem fieldClaims_mem (s : State) (u : Use) {ls : List (Nat × Nat)} {c : Claim} (h : c ∈ fieldClaims s u ls) :
    c.tid ∈ ls.map Prod.snd := by
  induction ls with
  | nil => simp [fieldClaims] at h
  | cons p ls ih =>
    have key : ∀ o : Option (Except Trap QId), c ∈ (match o with
        | some (.ok q) => (⟨u.field, p.2, q, u.e⟩ : Claim) :: fieldClaims s u ls
        | _ => fieldClaims s u ls) → c.tid ∈ (p :: ls).map Prod.snd := by
      intro o ho
      split at ho
      · rcases List.mem_cons.1 ho with rfl | ho
        · simp
        · exact List.mem_cons_of_mem _ (ih ho)
      · exact List.mem_cons_of_mem _ (ih ho)
    exact key _ (by rw [fieldClaims.eq_2] at h; exact h)

/-- The claims of a group are its lanes'. -/
theorem groupClaims_mem {s : State} {r : OpRule} {f : Fields} {ls : List (Nat × Thread)} {c : Claim}
    (h : c ∈ s.groupClaims r f ls) : c.tid ∈ ls.map fun q => q.2.tid := by
  rw [State.groupClaims, claimsOf, List.mem_flatMap] at h
  obtain ⟨u, -, hu⟩ := h
  simpa using fieldClaims_mem s u hu

/-- Only lanes of the group claim words. -/
theorem groupPops_mem {s : State} {r : OpRule} {f : Fields} {ls : List (Nat × Thread)} {p : Nat × Popped}
    (h : p ∈ s.groupPops r f ls) : p.1 ∈ ls.map fun q => q.2.tid := by
  rw [State.groupPops, popsOf, List.mem_map] at h
  obtain ⟨c, hc, rfl⟩ := h
  exact groupClaims_mem (ranked_go_mem _ _ hc)

theorem queue_congr {s s' : State} (h : s'.queues = s.queues) (q : Nat) : s'.queue q = s.queue q := by
  unfold State.queue
  rw [h]

theorem portQueue_congr {s s' : State} (h : s'.queues = s.queues) (t : Thread) (n : Nat) :
    s'.portQueue t n = s.portQueue t n := by
  unfold State.portQueue
  split
  · rfl
  · rw [queue_congr h]
  · rfl
  · rfl

theorem pushesOf_mem {s : State} {r : OpRule} {f : Fields} {ls : List (Nat × Thread)} {x : Nat × QId}
    (h : x ∈ pushesOf s r f ls) : pushesRd r f = true ∧ ∃ p ∈ ls, p.2.tid = x.1 := by
  unfold pushesOf at h
  split at h
  · next hp =>
    rw [List.mem_filterMap] at h
    obtain ⟨p, hp', e⟩ := h
    split at e
    · simp at e
    · simp at e
    · simp only [Option.some.injEq] at e
      exact ⟨hp, p, hp', by rw [← e]⟩
  · simp at h

/-- Where no lane traps, the words that the lanes take are those that their claims name. -/
theorem settlePops_done {s : State} {trapped : List (Nat × Popped) → List Nat} {cs : List Claim}
    (h : trapped (popsOf s cs) = []) (n : Nat) : settlePops s trapped n cs [] = popsOf s cs := by
  cases n with
  | zero => simp [settlePops]
  | succ n =>
    have hf : cs.find? (fun c => (trapped (popsOf s cs)).contains c.tid) = none := by simp [h]
    simp only [settlePops, List.nil_append, hf]

/-- The words that claims of one thread alone take, whether it traps or not. -/
theorem settlePops_alone {s : State} (trapped : List (Nat × Popped) → List Nat) {cs : List Claim} {tid : Nat}
    (h : ∀ c ∈ cs, c.tid = tid) (n : Nat) : settlePops s trapped n cs [] = popsOf s cs := by
  have hpops : ∀ p ∈ popsOf s cs, p.1 = tid := by
    intro p hp
    rw [popsOf, List.mem_map] at hp
    obtain ⟨c, hc, rfl⟩ := hp
    exact h _ (ranked_go_mem _ _ hc)
  have hnil : ∀ m (fixed : List (Nat × Popped)), settlePops s trapped m [] fixed = fixed := by
    intro m fixed
    cases m <;> simp [settlePops, popsOf, ranked, ranked.go]
  cases n with
  | zero => simp [settlePops]
  | succ n =>
    simp only [settlePops, List.nil_append]
    split
    · rfl
    · next c hc =>
      have hct := h c (List.mem_of_find?_eq_some hc)
      have h1 : cs.filter (fun d => d.tid != c.tid) = [] := by
        rw [List.filter_eq_nil_iff]; intro d hd; simp [h d hd, hct]
      have h2 : (popsOf s cs).filter (fun p => p.1 == c.tid) = popsOf s cs := by
        rw [List.filter_eq_self]; intro p hp; simp [hpops p hp, hct]
      rw [h1, h2, hnil]

/-- AN ISSUE OF A GROUP THAT NOTHING STOPS, in any form: its lanes' bodies one after another, with the words that
they claim, if none of them traps, there is only one of them, or they claim none. -/
theorem issue_ports {s : State} {r : OpRule} {f : Fields} {irrev carries : Bool} {ls : List (Nat × Thread)}
    (h : PortsReady s r f irrev carries ls) (pre : Thread → Option Trap) (hpre : ∀ p ∈ ls, pre p.2 = none)
    (body : Body)
    (hone : (runLanesBody r f (irrev || touchesPort r f) (lateTrap s r f carries) body (s.groupPops r f ls)
      ⟨s, s, [], [], false, none, []⟩ ls).trapped = [] ∨ (∃ p, ls = [p]) ∨ s.groupClaims r f ls = []) :
    issue r f irrev pre carries body s =
      (runLanesBody r f (irrev || touchesPort r f) (lateTrap s r f carries) body (s.groupPops r f ls) ⟨s, s, [], [], false, none, []⟩
        ls).finish (s.groupPops r f ls) (baseUses (s.groupClaims r f ls) (pushesOf s r f ls))
        (s.cur.waiter (((ls.head?).map fun p => p.2.pc).getD 0)) := by
  have hun : dryClaims s r f pre ls = [] := dryClaims_nil h.lane pre hpre h.bound h.words
  have htrap : ∀ p ∈ ls, laneTrap s p.2 r f (pre p.2) [] = none := fun p hp => by
    rw [hpre p hp]
    exact laneTrap_none (h.lane p hp) (h.bound p hp)
  have hearly : ls.filterMap (fun p => (laneTrap s p.2 r f (pre p.2) []).map fun tr => (p.2, tr)) = [] := by
    rw [List.filterMap_eq_nil_iff]; intro p hp; simp [htrap p hp]
  have hkeep : ls.filter (fun p => (laneTrap s p.2 r f (pre p.2) []).isNone) = ls := by
    rw [List.filter_eq_self]; intro p hp; simp [htrap p hp]
  have hwait : (claimQueues (s.groupClaims r f ls)).any (fun q => claimsWait s (s.groupClaims r f ls) q) = false := by
    rw [List.any_eq_false]
    intro q _
    have := h.words q
    simp only [claimsWait, Bool.and_eq_true, decide_eq_true_eq, not_and]
    intro _
    omega
  have hblock : ls.any (fun p => regsBlock p.2 r f) = false := by
    rw [List.any_eq_false]; intro p hp; simp [regsBlock_false (h.lane p hp)]
  have hunch : ((irrev || touchesPort r f) && ls.any fun p => s.hasUnchecked p.2.tid) = false := by
    cases hi : (irrev || touchesPort r f)
    · rfl
    · rw [Bool.true_and, List.any_eq_false]; intro p hp; simp [(h.lane p hp).checked hi]
  have hperf : (pushesOf s r f ls).any (fun p => !s.performed p.1) = false := by
    rw [List.any_eq_false]
    intro x hx
    obtain ⟨hp, p, hp', e⟩ := pushesOf_mem hx
    simp [← e, (h.target hp p hp').1]
  have hturn : (baseUses (s.groupClaims r f ls) (pushesOf s r f ls)).any
      (fun u => s.behind u.1 (s.cur.waiter (((ls.head?).map fun p => p.2.pc).getD 0) u.2)) = false := by
    rw [List.any_eq_false]; intro u hu; rw [h.turn u hu]; exact Bool.false_ne_true
  have hcs : claimsOf s r f (ls.map fun p => (p.1, p.2.tid)) = s.groupClaims r f ls := rfl
  have hacq : (s.groupClaims r f ls).any (fun c => s.mustWait c.tid) = false := by
    rw [List.any_eq_false]; intro c hc; simp [h.acquires c hc]
  have hblocked : groupBlocked s r f (irrev || touchesPort r f) ls (s.groupClaims r f ls)
      (((ls.head?).map fun p => p.2.pc).getD 0) = false := by
    simp only [groupBlocked, hblock, hwait, h.room, hunch, hperf, hacq, hturn, Bool.not_true, Bool.or_self]
  have hpops : settlePops s (fun pops => (runLanesBody r f (irrev || touchesPort r f) (lateTrap s r f carries) body pops
      ⟨s, s, [], [], false, none, []⟩ ls).trapped) (s.groupClaims r f ls).length (s.groupClaims r f ls) [] =
      s.groupPops r f ls := by
    rcases hone with hone | ⟨p, rfl⟩ | hone
    · exact settlePops_done hone _
    · exact settlePops_alone _ (fun c hc => by simpa using groupClaims_mem hc) _
    · rw [State.groupPops, hone]; exact settlePops_alone _ (tid := 0) (by simp) _
  simp only [issue, h.group.lanes, hun, hearly, hkeep, hcs, List.any_nil, Bool.false_eq_true, if_false, hblocked,
    List.find?_nil]
  rw [hpops]

/-- A form without queue ports is a form: its group is ready in either sense. -/
theorem Ready.toPorts {s : State} {r : OpRule} {f : Fields} {irrev : Bool} {ls : List (Nat × Thread)}
    (h : Ready s r f irrev ls) (carries : Bool) : PortsReady s r f irrev carries ls := by
  obtain ⟨hpush, hport⟩ := usesOf_noPort h.ports
  have huses : (usesOf r f).filter Use.isPort = [] := by
    rw [List.filter_eq_nil_iff]; intro u hu; simp [hport u hu]
  have hcs : s.groupClaims r f ls = [] := by simp [State.groupClaims, claimsOf, huses]
  have hto : pushesOf s r f ls = [] := by simp [pushesOf, hpush]
  refine ⟨h.group, fun p hp => ?_, fun p _ u hu hq => ?_, fun q => ?_, ?_, fun hq => ?_, ?_, ?_, .inr ?_⟩
  · rw [h.ports, Bool.or_false]; exact h.lane p hp
  · simp [hport u hu] at hq
  · simp [hcs]
  · simp [hcs]
  · simp [hpush] at hq
  · simp [pushesFit, hto]
  · simp [baseUses, hcs, hto]
  · simp [State.groupPops, popsOf, hcs, ranked, ranked.go]

/-- AN ISSUE OF A GROUP THAT NOTHING STOPS, in a form without queue ports: its lanes' bodies one after another. -/
theorem issue_ready {s : State} {r : OpRule} {f : Fields} {irrev : Bool} {ls : List (Nat × Thread)}
    (h : Ready s r f irrev ls) (pre : Thread → Option Trap) (hpre : ∀ p ∈ ls, pre p.2 = none) (carries : Bool)
    (body : Body) :
    issue r f irrev pre carries body s =
      (runLanesBody r f irrev (lateTrap s r f carries) body [] ⟨s, s, [], [], false, none, []⟩ ls).finish [] []
        (s.cur.waiter (((ls.head?).map fun p => p.2.pc).getD 0)) := by
  obtain ⟨hpush, hport⟩ := usesOf_noPort h.ports
  have huses : (usesOf r f).filter Use.isPort = [] := by
    rw [List.filter_eq_nil_iff]; intro u hu; simp [hport u hu]
  have hcs : s.groupClaims r f ls = [] := by simp [State.groupClaims, claimsOf, huses]
  have hto : pushesOf s r f ls = [] := by simp [pushesOf, hpush]
  have hpops : s.groupPops r f ls = [] := by simp [State.groupPops, popsOf, hcs, ranked, ranked.go]
  rw [issue_ports (h.toPorts carries) pre hpre body (.inr (.inr hcs)), hpops, hcs, hto, h.ports, Bool.or_false]
  rfl

/-- An issue, in a form without queue ports, of lanes that each complete with an effect of its own. -/
theorem issue_fold {s : State} {r : OpRule} {f : Fields} {irrev : Bool} {ls : List (Nat × Thread)}
    (hr : Ready s r f irrev ls) (pre : Thread → Option Trap) (hpre : ∀ p ∈ ls, pre p.2 = none) (carries : Bool)
    (body : Body) (eff : Nat × Thread → State → State)
    (hbody : ∀ ms p ns, ls = ms ++ p :: ns → ∀ g : Issuing, g.all = ms.foldl (fun k q => eff q k) s →
      g.lane r f irrev body (readLane r f p.1 p.2 []) = { g with all := eff p g.all, done := g.done ++ [p.2.tid] }) :
    issue r f irrev pre carries body s = .next (ls.foldl (fun k q => eff q k) s).bump := by
  rw [issue_ready hr pre hpre carries body,
    runLanes_fold eff (fun _ => []) (fun p hp => lateTrap_none (hr.lane p hp) _ (.inr (by simp)) fun hq => by
      rw [(usesOf_noPort hr.ports).1] at hq; exact absurd hq Bool.false_ne_true)
      (by simpa using hbody)]
  have : ls.flatMap (fun _ => ([] : List (QId × Word × Bool))) = [] := by
    rw [List.flatMap_eq_nil_iff]; intro p _; rfl
  simp [Issuing.finish, moveWords, this]

/-- An issue, in a form without queue ports, of lanes that change nothing but their own records. -/
theorem issue_own {s : State} {r : OpRule} {f : Fields} {irrev : Bool} {ls : List (Nat × Thread)}
    (hr : Ready s r f irrev ls) (pre : Thread → Option Trap) (hpre : ∀ p ∈ ls, pre p.2 = none) (carries : Bool)
    (body : Body) (h : Nat → Thread → Thread) (htid : ∀ n t, (h n t).tid = t.tid)
    (hbody : ∀ (g : Issuing) p, p ∈ ls → g.all.thread? p.2.tid = some p.2 →
      g.lane r f irrev body (readLane r f p.1 p.2 []) =
        { g with all := g.all.putThread (h p.1 p.2), done := g.done ++ [p.2.tid] }) :
    issue r f irrev pre carries body s = .next (s.lanesTo ls h) := by
  rw [issue_fold hr pre hpre carries body (fun p k => k.putThread (h p.1 p.2)) fun ms p ns e g hg => ?_, foldl_putThread]
  · rfl
  · refine hbody g p (e ▸ by simp) ?_
    rw [hg, foldl_putThread s ms fun q => h q.1 q.2]
    exact own_held hr.group (fun q => h q.1 q.2) (fun q => htid _ _) e

/-- An issue, in a form without queue ports, whose result is a function of the operands. -/
theorem issue_value {s : State} {r : OpRule} {f : Fields} {irrev : Bool} {ls : List (Nat × Thread)}
    (hr : Ready s r f irrev ls) (pre : Thread → Option Trap) (hpre : ∀ p ∈ ls, pre p.2 = none) (carries : Bool)
    (v : Lane → Word) :
    issue r f irrev pre carries (fun s l => .value s (v l)) s =
      .next (s.lanesTo ls fun n t => t.got f irrev (v (readLane r f n t []))) := by
  refine issue_own hr pre hpre carries _ _ (by simp) fun g p hp hh => ?_
  have hpush := (usesOf_noPort hr.ports).1
  have htid : (readLane r f p.1 p.2 []).tid = p.2.tid := rfl
  have hpo : (readLane r f p.1 p.2 []).poison = false := rfl
  simp only [Issuing.lane, Issuing.result, hpush, Bool.false_eq_true, if_false, htid, hpo]
  congr 1
  rw [State.setReg, State.modThread_of _ hh]
  have := State.advance_putThread g.all (p.2.setReg f.rd ⟨v (readLane r f p.1 p.2 []), true, false⟩) f irrev
  simpa [Thread.got] using this

theorem lanePops_clean {s : State} {r : OpRule} {f : Fields} {irrev carries : Bool} {ls : List (Nat × Thread)}
    (h : PortsReady s r f irrev carries ls) (tid : Nat) :
    carries = true ∨ ∀ p ∈ s.lanePops r f ls tid, p.poison = false := by
  refine h.clean.imp_right fun hc p hp => ?_
  obtain ⟨q, hq, rfl⟩ := List.mem_map.1 hp
  exact hc q (List.mem_of_mem_filter hq)

/-- Lanes whose bodies make an effect of their own, in turn. -/
theorem runLanes_turn {r : OpRule} {f : Fields} {irrev : Bool} {own : Thread → List Popped → Option Trap} {body : Body}
    {pops : List (Nat × Popped)}
    (need : State → Lane → Prop) (eff : State → Lane → State) (val : State → Lane → Word)
    (hbody : ∀ (g : Issuing) (l : Lane), l.tid = l.thread.tid → g.all.thread? l.tid = some l.thread → need g.all l →
      g.lane r f irrev body l = { g with
        all := eff g.all l
        done := g.done ++ [l.tid]
        pushes := g.pushes ++ pushOf (eff g.all l) r f l (val g.all l) })
    (ls : List (Nat × Thread))
    (hp : ∀ p ∈ ls, own p.2 ((pops.filter fun x => x.1 == p.2.tid).map (·.2)) = none) (g : Issuing)
    (hn : needInTurn need eff g.all
      (ls.map fun p => readLane r f p.1 p.2 ((pops.filter fun x => x.1 == p.2.tid).map (·.2)))) :
    runLanesBody r f irrev own body pops g ls =
      let out := inTurn r f eff val g.all
        (ls.map fun p => readLane r f p.1 p.2 ((pops.filter fun x => x.1 == p.2.tid).map (·.2)))
      { g with all := out.1, done := g.done ++ (ls.map fun p => p.2.tid), pushes := g.pushes ++ out.2 } := by
  induction ls generalizing g with
  | nil => simp [runLanesBody, inTurn]
  | cons p ls ih =>
    obtain ⟨n, t⟩ := p
    have h1 := hp (n, t) List.mem_cons_self
    simp only [List.map_cons, needInTurn] at hn
    simp only at h1
    rw [runLanesBody]
    simp only [h1]
    rw [hbody g _ rfl hn.1.1 hn.1.2,
      ih (fun p h => hp p (List.mem_cons_of_mem _ h)) _ hn.2]
    simp [inTurn, readLane]

/-- AN ISSUE OF A GROUP THAT NOTHING STOPS, in any form, whose lanes make their effects in turn. -/
theorem issue_turn {s : State} {r : OpRule} {f : Fields} {irrev carries : Bool} {ls : List (Nat × Thread)}
    (h : PortsReady s r f irrev carries ls) (pre : Thread → Option Trap) (hpre : ∀ p ∈ ls, pre p.2 = none)
    (body : Body) (need : State → Lane → Prop) (eff : State → Lane → State) (val : State → Lane → Word)
    (hbody : ∀ (g : Issuing) (l : Lane), l.tid = l.thread.tid → g.all.thread? l.tid = some l.thread → need g.all l →
      g.lane r f (irrev || touchesPort r f) body l = { g with
        all := eff g.all l
        done := g.done ++ [l.tid]
        pushes := g.pushes ++ pushOf (eff g.all l) r f l (val g.all l) })
    (hn : needInTurn need eff s (ls.map (s.laneOf r f ls))) :
    issue r f irrev pre carries body s = .next (s.after r f ls eff val) := by
  have hrun := runLanes_turn need eff val hbody ls
    (fun p hp => lateTrap_none (h.lane p hp) _ (lanePops_clean h p.2.tid) fun hq => (h.target hq p hp).2)
    ⟨s, s, [], [], false, none, []⟩ hn
  rw [issue_ports h pre hpre body (.inl (by rw [hrun])), hrun]
  have hall : (s.groupPops r f ls).filter (fun p => (ls.map fun q => q.2.tid).contains p.1) = s.groupPops r f ls := by
    rw [List.filter_eq_self]
    intro p hp
    simpa using groupPops_mem hp
  have hlane : (fun p : Nat × Thread => readLane r f p.1 p.2
      (((s.groupPops r f ls).filter fun x => x.1 == p.2.tid).map (·.2))) = s.laneOf r f ls := rfl
  simp only [Issuing.finish, hall, Bool.false_eq_true, if_false, List.nil_append, State.after, State.settled, State.unqueued, hlane]

/-- A body that completes with a value: the state it leaves, with the thread it finds there past the instruction. -/
theorem lane_value {r : OpRule} {f : Fields} {irrev : Bool} {body : Body} {g : Issuing} {l : Lane} {s : State} {v : Word}
    (hb : body g.all l = .value s v) {t : Thread} (hh : s.thread? l.tid = some t) (ht : t.tid = l.tid) :
    g.lane r f irrev body l = { g with
      all := s.putThread ((if pushesRd r f then t else t.setReg f.rd ⟨v, true, l.poison⟩).past f irrev)
      done := g.done ++ [l.tid]
      pushes := g.pushes ++ pushOf (s.putThread
        ((if pushesRd r f then t else t.setReg f.rd ⟨v, true, l.poison⟩).past f irrev)) r f l v } := by
  simp only [Issuing.lane, hb, Issuing.result, pushOf]
  cases hp : pushesRd r f
  · simp only [Bool.false_eq_true, if_false, List.append_nil]
    congr 1
    rw [State.setReg, State.modThread_of _ hh]
    have := State.advance_putThread s (t.setReg f.rd ⟨v, true, l.poison⟩) f irrev
    rwa [Thread.setReg_tid, ht] at this
  · have hq : ∀ u : Thread, (s.putThread u).portQueue l.thread f.rd = s.portQueue l.thread f.rd :=
      fun u => portQueue_congr rfl _ _
    simp only [if_true, hq, State.advance_of _ hh]
    cases s.portQueue l.thread f.rd <;> simp

/-- A body that completes without a result. -/
theorem lane_done {r : OpRule} {f : Fields} {irrev : Bool} {body : Body} {g : Issuing} {l : Lane} {s : State}
    (hb : body g.all l = .done s) {t : Thread} (hh : s.thread? l.tid = some t) (hp : pushesRd r f = false) :
    ∀ k v, g.lane r f irrev body l = { g with
      all := s.putThread (t.past f irrev)
      done := g.done ++ [l.tid]
      pushes := g.pushes ++ pushOf k r f l v } := by
  intro k v
  simp only [Issuing.lane, hb, pushOf, hp, Bool.false_eq_true, if_false, List.append_nil, State.advance_of _ hh]

/-- A body that has placed its thread. -/
theorem lane_placed {r : OpRule} {f : Fields} {irrev : Bool} {body : Body} {g : Issuing} {l : Lane} {s : State}
    (hb : body g.all l = .placed s) (hp : pushesRd r f = false) :
    ∀ k v, g.lane r f irrev body l = { g with
      all := s
      done := g.done ++ [l.tid]
      pushes := g.pushes ++ pushOf k r f l v } := by
  intro k v
  simp only [Issuing.lane, hb, pushOf, hp, Bool.false_eq_true, if_false, List.append_nil]

/-- An instruction whose meaning is an issue without a check of its own. -/
theorem runs_of {i : Instr} {r : OpRule} {f : Fields} {irrev carries : Bool} {body : Body}
    {need : State → Lane → Prop} {eff : State → Lane → State} {val : State → Lane → Word}
    (hexec : ∀ s, exec i s = issue r f irrev (fun _ => none) carries body s)
    (hbody : ∀ (g : Issuing) (l : Lane), l.tid = l.thread.tid → g.all.thread? l.tid = some l.thread → need g.all l →
      g.lane r f (irrev || touchesPort r f) body l = { g with
        all := eff g.all l
        done := g.done ++ [l.tid]
        pushes := g.pushes ++ pushOf (eff g.all l) r f l (val g.all l) }) :
    Runs i r f irrev carries need eff val := fun s ls h hn => by
  rw [hexec]
  exact issue_turn h _ (fun _ _ => rfl) body need eff val hbody hn

/-- An instruction whose meaning computes rd from the operands alone. -/
theorem yields_of_issueValue {i : Instr} {r : OpRule} {f : Fields} {v u : Lane → Word}
    (h : ∀ s, exec i s = issueValue r f v s) (hv : ∀ l, v l = u l) : Yields i r f false u := by
  have : v = u := funext hv
  subst this
  refine ⟨fun s ls hr => ?_, runs_of (fun s => h s) fun g l ht hh _ => ?_⟩
  · rw [h, issueValue, issuePlain, issue_value hr _ (fun _ _ => rfl)]
  · exact lane_value rfl hh ht.symm

/-- One lane alone whose body traps. -/
theorem issue_trap_alone {s : State} {r : OpRule} {f : Fields} {irrev carries : Bool} {n : Nat} {t : Thread}
    (h : PortsReady s r f irrev carries [(n, t)]) (pre : Thread → Option Trap) (hpre : pre t = none) {body : Body}
    {tr : Trap} {next : Bool} (hb : body s (s.laneOf r f [(n, t)] (n, t)) = .trap tr next)
    (hw : trapWaits s t.tid tr = false) :
    issue r f irrev pre carries body s =
      .next (s.unqueued r f [(n, t)] (takeTrap s t.tid f tr (irrev || touchesPort r f) next)).bump := by
  rw [issue_ports h pre (by simpa using hpre) body (.inr (.inl ⟨_, rfl⟩))]
  have hp := lateTrap_none (carries := carries) (h.lane (n, t) (by simp)) _ (lanePops_clean h t.tid) fun hq =>
    (h.target hq (n, t) (by simp)).2
  simp only [runLanesBody]
  rw [show lateTrap s r f carries t (((s.groupPops r f [(n, t)]).filter fun p => p.1 == t.tid).map (·.2)) = none from hp]
  simp only [Issuing.lane]
  rw [show body s (readLane r f n t (((s.groupPops r f [(n, t)]).filter fun p => p.1 == t.tid).map (·.2))) =
    .trap tr next from hb]
  have htid : (readLane r f n t (((s.groupPops r f [(n, t)]).filter fun p => p.1 == t.tid).map (·.2))).tid = t.tid := rfl
  simp [Issuing.trap, htid, hw, Issuing.finish, moveWords, State.unqueued]

/-- One lane alone whose body waits and keeps nothing. -/
theorem issue_wait_alone {s : State} {r : OpRule} {f : Fields} {irrev carries : Bool} {n : Nat} {t : Thread}
    (h : PortsReady s r f irrev carries [(n, t)]) (pre : Thread → Option Trap) (hpre : pre t = none) {body : Body}
    (keep : State → State) (hb : body s (s.laneOf r f [(n, t)] (n, t)) = .wait keep) :
    issue r f irrev pre carries body s = .next (keep s).block := by
  rw [issue_ports h pre (by simpa using hpre) body (.inr (.inl ⟨_, rfl⟩))]
  have hp := lateTrap_none (carries := carries) (h.lane (n, t) (by simp)) _ (lanePops_clean h t.tid) fun hq =>
    (h.target hq (n, t) (by simp)).2
  simp only [runLanesBody]
  rw [show lateTrap s r f carries t (((s.groupPops r f [(n, t)]).filter fun p => p.1 == t.tid).map (·.2)) = none from hp]
  simp only [Issuing.lane]
  rw [show body s (readLane r f n t (((s.groupPops r f [(n, t)]).filter fun p => p.1 == t.tid).map (·.2))) =
    .wait keep from hb]
  simp [Issuing.finish]

/-- An instruction whose meaning is an issue traps a lane alone where its body does. -/
theorem traps_alone_of {i : Instr} {r : OpRule} {f : Fields} {irrev carries : Bool} {body : Body}
    {why : State → Lane → Option Trap} {next : Bool}
    (hexec : ∀ s, exec i s = issue r f irrev (fun _ => none) carries body s)
    (hbody : ∀ s l tr, l.tid = l.thread.tid → s.thread? l.tid = some l.thread → why s l = some tr →
      body s l = .trap tr next) : TrapsAlone i r f irrev carries why next := fun s n t tr h hy hw => by
  rw [hexec]
  exact issue_trap_alone h _ rfl (hbody s _ tr rfl (h.group.held (n, t) (by simp)) hy) hw

/-- An instruction whose meaning is an issue waits for a lane alone where its body does. -/
theorem waits_alone_of {i : Instr} {r : OpRule} {f : Fields} {irrev carries : Bool} {body : Body}
    {why : State → Lane → Prop} (hexec : ∀ s, exec i s = issue r f irrev (fun _ => none) carries body s)
    (hbody : ∀ s l, l.tid = l.thread.tid → s.thread? l.tid = some l.thread → why s l → body s l = .wait id) :
    WaitsAlone i r f irrev carries why := fun s n t h hy => by
  rw [hexec]
  exact issue_wait_alone h _ rfl id (hbody s _ rfl (h.group.held (n, t) (by simp)) hy)

theorem rd_none_push {r : OpRule} {f : Fields} (h : r.rd ≠ .reg) : pushesRd r f = false := by
  simp [pushesRd, h]

/-- An instruction whose meaning is an issue, in which each lane changes its own record and goes on. -/
theorem runs_done {i : Instr} {r : OpRule} {f : Fields} {irrev carries : Bool} {body : Body}
    {need : State → Lane → Prop} (h : State → Lane → Thread)
    (hexec : ∀ s, exec i s = issue r f irrev (fun _ => none) carries body s) (hrd : r.rd ≠ .reg)
    (hbody : ∀ (s : State) (l : Lane), l.tid = l.thread.tid → s.thread? l.tid = some l.thread → need s l →
      body s l = .done (s.putThread (h s l)) ∧ (h s l).tid = l.tid) :
    Runs i r f irrev carries need (fun k l => k.putThread ((h k l).past f (irrev || touchesPort r f))) fun _ _ => 0 := by
  refine runs_of hexec fun g l ht hh hn => ?_
  obtain ⟨hb, htid⟩ := hbody g.all l ht hh hn
  have hh' : (g.all.putThread (h g.all l)).thread? l.tid = some (h g.all l) := by
    rw [← htid]; exact State.thread?_putThread_same _ _
  rw [lane_done hb hh' (rd_none_push hrd) (g.all.putThread ((h g.all l).past f (irrev || touchesPort r f))) 0]
  rw [State.putThread_putThread _ (by rw [Thread.past_tid])]

end Sys2Proof.Machine
end

