-- ==== Sys2Proof/Laws/Memory.lean ====
section
/-! SUPPORT. The memories of the state keep their canonical form (log entry 2): at reset, and through every operation
that writes one, of physical memory, of the vaults and of a scratchpad. -/

namespace Sys2Proof.Machine

theorem reset_mem_wf : Memory.wf State.reset.mem = true := rfl

theorem reset_vmem_wf : Memory.wf State.reset.vmem = true := rfl

/-! ### Physical memory -/

/-- What a write of bytes does to memory: it stores them, or free values in a queue's ring (R334). -/
theorem putBytes_mem (s : State) (pa : Nat) (bs : List Byte) (pz : List Bool) :
    (s.putBytes pa bs pz).mem = memStore s.mem pa bs ∨
      (s.putBytes pa bs pz).mem =
        memStore s.mem pa ((List.range bs.length).map fun i => Config.ringByte (pa + i) s.fresh) := by
  unfold State.putBytes
  split_ifs
  · exact .inr rfl
  · exact .inl rfl

@[simp] theorem putBytes_vmem (s : State) (pa : Nat) (bs : List Byte) (pz : List Bool) :
    (s.putBytes pa bs pz).vmem = s.vmem := by
  unfold State.putBytes
  split_ifs <;> rfl

theorem wf_putBytes {s : State} (h : Memory.wf s.mem = true) (pa : Nat) (bs : List Byte) (pz : List Bool) :
    Memory.wf (s.putBytes pa bs pz).mem = true := by
  rcases putBytes_mem s pa bs pz with e | e <;> rw [e] <;> exact Memory.wf_memStore h _ _

theorem wf_setOwnerByte {s : State} (h : Memory.wf s.mem = true) (region v : Nat) :
    Memory.wf (s.setOwnerByte region v).mem = true := Memory.wf_spPut h _ _

theorem State.Canonical.putBytes {s : State} (h : s.Canonical) (pa : Nat) (bs : List Byte) (pz : List Bool) :
    (s.putBytes pa bs pz).Canonical := ⟨wf_putBytes h.1 pa bs pz, by rw [putBytes_vmem]; exact h.2⟩

theorem State.Canonical.setOwnerByte {s : State} (h : s.Canonical) (region v : Nat) :
    (s.setOwnerByte region v).Canonical := ⟨wf_setOwnerByte h.1 region v, h.2⟩

/-! ### The vaults -/

/-- Following the pages that a vault holds as a cache touches no physical memory, and of the vaults only leaves bytes
out (R212). -/
theorem vcacheSync_keeps (s : State) (vault : Nat) :
    (s.vcacheSync vault).mem = s.mem ∧ ∃ keep, (s.vcacheSync vault).vmem = s.vmem.filter keep := by
  unfold State.vcacheSync
  simp only
  split_ifs
  · exact ⟨rfl, fun _ => true, by simp⟩
  · exact ⟨rfl, fun _ => true, by simp [State.putW]⟩
  · exact ⟨rfl, fun _ => true, by simp⟩
  · exact ⟨rfl, _, rfl⟩

theorem wf_vcacheSync {s : State} (h : Memory.wf s.vmem = true) (vault : Nat) :
    Memory.wf (s.vcacheSync vault).vmem = true := by
  obtain ⟨-, keep, e⟩ := vcacheSync_keeps s vault
  rw [e]
  exact Memory.wf_filter h keep

theorem vaultPut_mem (s : State) (a : Nat) (b : Byte) : (s.vaultPut a b).mem = s.mem := by
  unfold State.vaultPut
  simp only
  split_ifs <;> simp only [(vcacheSync_keeps _ _).1]

theorem wf_vaultPut {s : State} (h : Memory.wf s.vmem = true) (a : Nat) (b : Byte) :
    Memory.wf (s.vaultPut a b).vmem = true := by
  unfold State.vaultPut
  simp only
  split_ifs
  · exact h
  · exact wf_vcacheSync (Memory.wf_spPut (wf_vcacheSync h _) _ _) _
  · exact Memory.wf_spPut h _ _

theorem State.Canonical.vaultPut {s : State} (h : s.Canonical) (a : Nat) (b : Byte) : (s.vaultPut a b).Canonical :=
  ⟨by rw [vaultPut_mem]; exact h.1, wf_vaultPut h.2 a b⟩

theorem State.Canonical.vaultWrite {s : State} (h : s.Canonical) (a : Nat) (bs : List Byte) :
    (s.vaultWrite a bs).Canonical := by
  have key : ∀ (l : List Nat) (s : State), s.Canonical →
      (l.foldl (fun s i => s.vaultPut (a + i) ((bs[i]?).getD 0)) s).Canonical := by
    intro l
    induction l with
    | nil => exact fun s h => h
    | cons i l ih => exact fun s h => ih _ (h.vaultPut _ _)
  exact key _ s h

/-! ### A scratchpad -/

theorem wf_write {b : Bolt} (h : Memory.wf b.spad = true) (o : Nat) (bs : List Byte) :
    Memory.wf (b.write o bs).spad = true := Memory.wf_memStore h o bs

end Sys2Proof.Machine
end

