-- ==== Sys2Proof/Laws/PerInstr.lean ====
section
/-! SUPPORT. For every constructor: its opcode is below 512, gives the instruction back with its fields, and is the one
under which R52 accepts it. A step that is no instruction has no opcode. -/

namespace Sys2Proof.Laws.Opcodes

open Sys2Proof.Machine

/-- An instruction's opcode and fields name it, and its fields are accepted under that opcode (R52, R64). -/
def Statement (i : Instr) : Prop :=
  ∀ op f, instrFields i = some (op, f) → op < 512 ∧ instrOf op f = some i ∧ i.wellFormed = fieldsOk op f

theorem of {i : Instr} (op : Nat) (f : Fields) (h : instrFields i = some (op, f)) (hl : op < 512)
    (hi : instrOf op f = some i) (hw : i.wellFormed = fieldsOk op f) : Statement i := fun _ _ h' => by
  rw [h] at h'
  cases h'
  exact ⟨hl, hi, hw⟩

theorem none_of {i : Instr} (h : instrFields i = none) : Statement i := fun _ _ h' => by rw [h] at h'; cases h'

theorem add (f : Fields) : Statement (.add f) := of _ f rfl (by decide) rfl rfl
theorem sub (f : Fields) : Statement (.sub f) := of _ f rfl (by decide) rfl rfl
theorem addi (f : Fields) : Statement (.addi f) := of _ f rfl (by decide) rfl rfl
theorem li (f : Fields) : Statement (.li f) := of _ f rfl (by decide) rfl rfl
theorem lih (f : Fields) : Statement (.lih f) := of _ f rfl (by decide) rfl rfl
theorem addpc (f : Fields) : Statement (.addpc f) := of _ f rfl (by decide) rfl rfl
theorem mul (f : Fields) : Statement (.mul f) := of _ f rfl (by decide) rfl rfl
theorem mulh (f : Fields) : Statement (.mulh f) := of _ f rfl (by decide) rfl rfl
theorem mulhu (f : Fields) : Statement (.mulhu f) := of _ f rfl (by decide) rfl rfl
theorem mulhsu (f : Fields) : Statement (.mulhsu f) := of _ f rfl (by decide) rfl rfl
theorem div (f : Fields) : Statement (.div f) := of _ f rfl (by decide) rfl rfl
theorem divu (f : Fields) : Statement (.divu f) := of _ f rfl (by decide) rfl rfl
theorem rem (f : Fields) : Statement (.rem f) := of _ f rfl (by decide) rfl rfl
theorem remu (f : Fields) : Statement (.remu f) := of _ f rfl (by decide) rfl rfl
theorem and (f : Fields) : Statement (.and f) := of _ f rfl (by decide) rfl rfl
theorem or (f : Fields) : Statement (.or f) := of _ f rfl (by decide) rfl rfl
theorem xor (f : Fields) : Statement (.xor f) := of _ f rfl (by decide) rfl rfl
theorem andn (f : Fields) : Statement (.andn f) := of _ f rfl (by decide) rfl rfl
theorem orn (f : Fields) : Statement (.orn f) := of _ f rfl (by decide) rfl rfl
theorem xnor (f : Fields) : Statement (.xnor f) := of _ f rfl (by decide) rfl rfl
theorem shl (f : Fields) : Statement (.shl f) := of _ f rfl (by decide) rfl rfl
theorem shr (f : Fields) : Statement (.shr f) := of _ f rfl (by decide) rfl rfl
theorem sra (f : Fields) : Statement (.sra f) := of _ f rfl (by decide) rfl rfl
theorem rol (f : Fields) : Statement (.rol f) := of _ f rfl (by decide) rfl rfl
theorem ror (f : Fields) : Statement (.ror f) := of _ f rfl (by decide) rfl rfl
theorem clz (f : Fields) : Statement (.clz f) := of _ f rfl (by decide) rfl rfl
theorem ctz (f : Fields) : Statement (.ctz f) := of _ f rfl (by decide) rfl rfl
theorem popc (f : Fields) : Statement (.popc f) := of _ f rfl (by decide) rfl rfl
theorem brev (f : Fields) : Statement (.brev f) := of _ f rfl (by decide) rfl rfl
theorem bswap (f : Fields) : Statement (.bswap f) := of _ f rfl (by decide) rfl rfl
theorem bfx (f : Fields) : Statement (.bfx f) := of _ f rfl (by decide) rfl rfl
theorem bfxu (f : Fields) : Statement (.bfxu f) := of _ f rfl (by decide) rfl rfl
theorem bfi (f : Fields) : Statement (.bfi f) := of _ f rfl (by decide) rfl rfl
theorem min (f : Fields) : Statement (.min f) := of _ f rfl (by decide) rfl rfl
theorem max (f : Fields) : Statement (.max f) := of _ f rfl (by decide) rfl rfl
theorem minu (f : Fields) : Statement (.minu f) := of _ f rfl (by decide) rfl rfl
theorem maxu (f : Fields) : Statement (.maxu f) := of _ f rfl (by decide) rfl rfl
theorem abs (f : Fields) : Statement (.abs f) := of _ f rfl (by decide) rfl rfl
theorem sel (f : Fields) : Statement (.sel f) := of _ f rfl (by decide) rfl rfl
theorem cmp (f : Fields) : Statement (.cmp f) := of _ f rfl (by decide) rfl rfl
theorem cmpi (f : Fields) : Statement (.cmpi f) := of _ f rfl (by decide) rfl rfl
theorem mov (f : Fields) : Statement (.mov f) := of _ f rfl (by decide) rfl rfl
theorem sextB (f : Fields) : Statement (.sextB f) := of _ f rfl (by decide) rfl rfl
theorem sextH (f : Fields) : Statement (.sextH f) := of _ f rfl (by decide) rfl rfl
theorem sextW (f : Fields) : Statement (.sextW f) := of _ f rfl (by decide) rfl rfl
theorem zextB (f : Fields) : Statement (.zextB f) := of _ f rfl (by decide) rfl rfl
theorem zextH (f : Fields) : Statement (.zextH f) := of _ f rfl (by decide) rfl rfl
theorem zextW (f : Fields) : Statement (.zextW f) := of _ f rfl (by decide) rfl rfl
theorem empt (f : Fields) : Statement (.empt f) := of _ f rfl (by decide) rfl rfl
theorem fill (f : Fields) : Statement (.fill f) := of _ f rfl (by decide) rfl rfl
theorem tstf (f : Fields) : Statement (.tstf f) := of _ f rfl (by decide) rfl rfl
theorem qbind (f : Fields) : Statement (.qbind f) := of _ f rfl (by decide) rfl rfl
theorem qunb (f : Fields) : Statement (.qunb f) := of _ f rfl (by decide) rfl rfl
theorem qstat (f : Fields) : Statement (.qstat f) := of _ f rfl (by decide) rfl rfl
theorem srd (f : Fields) : Statement (.srd f) := of _ f rfl (by decide) rfl rfl
theorem swr (f : Fields) : Statement (.swr f) := of _ f rfl (by decide) rfl rfl
theorem faddD (f : Fields) : Statement (.faddD f) := of _ f rfl (by decide) rfl rfl
theorem faddS (f : Fields) : Statement (.faddS f) := of _ f rfl (by decide) rfl rfl
theorem fsubD (f : Fields) : Statement (.fsubD f) := of _ f rfl (by decide) rfl rfl
theorem fsubS (f : Fields) : Statement (.fsubS f) := of _ f rfl (by decide) rfl rfl
theorem fmulD (f : Fields) : Statement (.fmulD f) := of _ f rfl (by decide) rfl rfl
theorem fmulS (f : Fields) : Statement (.fmulS f) := of _ f rfl (by decide) rfl rfl
theorem ffmaD (f : Fields) : Statement (.ffmaD f) := of _ f rfl (by decide) rfl rfl
theorem ffmaS (f : Fields) : Statement (.ffmaS f) := of _ f rfl (by decide) rfl rfl
theorem fdivD (f : Fields) : Statement (.fdivD f) := of _ f rfl (by decide) rfl rfl
theorem fdivS (f : Fields) : Statement (.fdivS f) := of _ f rfl (by decide) rfl rfl
theorem fsqrtD (f : Fields) : Statement (.fsqrtD f) := of _ f rfl (by decide) rfl rfl
theorem fsqrtS (f : Fields) : Statement (.fsqrtS f) := of _ f rfl (by decide) rfl rfl
theorem fminD (f : Fields) : Statement (.fminD f) := of _ f rfl (by decide) rfl rfl
theorem fminS (f : Fields) : Statement (.fminS f) := of _ f rfl (by decide) rfl rfl
theorem fmaxD (f : Fields) : Statement (.fmaxD f) := of _ f rfl (by decide) rfl rfl
theorem fmaxS (f : Fields) : Statement (.fmaxS f) := of _ f rfl (by decide) rfl rfl
theorem fcmpD (f : Fields) : Statement (.fcmpD f) := of _ f rfl (by decide) rfl rfl
theorem fcmpS (f : Fields) : Statement (.fcmpS f) := of _ f rfl (by decide) rfl rfl
theorem fclass (f : Fields) : Statement (.fclass f) := of _ f rfl (by decide) rfl rfl
theorem fsgn (f : Fields) : Statement (.fsgn f) := of _ f rfl (by decide) rfl rfl
theorem fcvtD (f : Fields) : Statement (.fcvtD f) := of _ f rfl (by decide) rfl rfl
theorem fcvtS (f : Fields) : Statement (.fcvtS f) := of _ f rfl (by decide) rfl rfl
theorem fcvtH (f : Fields) : Statement (.fcvtH f) := of _ f rfl (by decide) rfl rfl
theorem fcvtBf (f : Fields) : Statement (.fcvtBf f) := of _ f rfl (by decide) rfl rfl
theorem fcvtiD (f : Fields) : Statement (.fcvtiD f) := of _ f rfl (by decide) rfl rfl
theorem fcvtiS (f : Fields) : Statement (.fcvtiS f) := of _ f rfl (by decide) rfl rfl
theorem fcvtiuD (f : Fields) : Statement (.fcvtiuD f) := of _ f rfl (by decide) rfl rfl
theorem fcvtiuS (f : Fields) : Statement (.fcvtiuS f) := of _ f rfl (by decide) rfl rfl
theorem icvtfD (f : Fields) : Statement (.icvtfD f) := of _ f rfl (by decide) rfl rfl
theorem icvtfS (f : Fields) : Statement (.icvtfS f) := of _ f rfl (by decide) rfl rfl
theorem icvtfuD (f : Fields) : Statement (.icvtfuD f) := of _ f rfl (by decide) rfl rfl
theorem icvtfuS (f : Fields) : Statement (.icvtfuS f) := of _ f rfl (by decide) rfl rfl
theorem frndD (f : Fields) : Statement (.frndD f) := of _ f rfl (by decide) rfl rfl
theorem frndS (f : Fields) : Statement (.frndS f) := of _ f rfl (by decide) rfl rfl
theorem frcp (f : Fields) : Statement (.frcp f) := of _ f rfl (by decide) rfl rfl
theorem frsq (f : Fields) : Statement (.frsq f) := of _ f rfl (by decide) rfl rfl
theorem fexp2 (f : Fields) : Statement (.fexp2 f) := of _ f rfl (by decide) rfl rfl
theorem flog2 (f : Fields) : Statement (.flog2 f) := of _ f rfl (by decide) rfl rfl
theorem fsin (f : Fields) : Statement (.fsin f) := of _ f rfl (by decide) rfl rfl
theorem fcos (f : Fields) : Statement (.fcos f) := of _ f rfl (by decide) rfl rfl
theorem padd (f : Fields) : Statement (.padd f) := of _ f rfl (by decide) rfl rfl
theorem paddu (f : Fields) : Statement (.paddu f) := of _ f rfl (by decide) rfl rfl
theorem psub (f : Fields) : Statement (.psub f) := of _ f rfl (by decide) rfl rfl
theorem psubu (f : Fields) : Statement (.psubu f) := of _ f rfl (by decide) rfl rfl
theorem pmul (f : Fields) : Statement (.pmul f) := of _ f rfl (by decide) rfl rfl
theorem pmin (f : Fields) : Statement (.pmin f) := of _ f rfl (by decide) rfl rfl
theorem pminu (f : Fields) : Statement (.pminu f) := of _ f rfl (by decide) rfl rfl
theorem pmax (f : Fields) : Statement (.pmax f) := of _ f rfl (by decide) rfl rfl
theorem pmaxu (f : Fields) : Statement (.pmaxu f) := of _ f rfl (by decide) rfl rfl
theorem pavg (f : Fields) : Statement (.pavg f) := of _ f rfl (by decide) rfl rfl
theorem pabs (f : Fields) : Statement (.pabs f) := of _ f rfl (by decide) rfl rfl
theorem pcmp (f : Fields) : Statement (.pcmp f) := of _ f rfl (by decide) rfl rfl
theorem pshuf (f : Fields) : Statement (.pshuf f) := of _ f rfl (by decide) rfl rfl
theorem ppack (f : Fields) : Statement (.ppack f) := of _ f rfl (by decide) rfl rfl
theorem punpkl (f : Fields) : Statement (.punpkl f) := of _ f rfl (by decide) rfl rfl
theorem punpkh (f : Fields) : Statement (.punpkh f) := of _ f rfl (by decide) rfl rfl
theorem punpklu (f : Fields) : Statement (.punpklu f) := of _ f rfl (by decide) rfl rfl
theorem punpkhu (f : Fields) : Statement (.punpkhu f) := of _ f rfl (by decide) rfl rfl
theorem pdot (f : Fields) : Statement (.pdot f) := of _ f rfl (by decide) rfl rfl
theorem pdotu (f : Fields) : Statement (.pdotu f) := of _ f rfl (by decide) rfl rfl
theorem pdotfE4 (f : Fields) : Statement (.pdotfE4 f) := of _ f rfl (by decide) rfl rfl
theorem pdotfE5 (f : Fields) : Statement (.pdotfE5 f) := of _ f rfl (by decide) rfl rfl
theorem pdotfF4 (f : Fields) : Statement (.pdotfF4 f) := of _ f rfl (by decide) rfl rfl
theorem pscl (f : Fields) : Statement (.pscl f) := of _ f rfl (by decide) rfl rfl
theorem br (f : Fields) : Statement (.br f) := of _ f rfl (by decide) rfl rfl
theorem brz (f : Fields) : Statement (.brz f) := of _ f rfl (by decide) rfl rfl
theorem brnz (f : Fields) : Statement (.brnz f) := of _ f rfl (by decide) rfl rfl
theorem jmp (f : Fields) : Statement (.jmp f) := of _ f rfl (by decide) rfl rfl
theorem jal (f : Fields) : Statement (.jal f) := of _ f rfl (by decide) rfl rfl
theorem jalr (f : Fields) : Statement (.jalr f) := of _ f rfl (by decide) rfl rfl
theorem rejoin (f : Fields) : Statement (.rejoin f) := of _ f rfl (by decide) rfl rfl
theorem yld (f : Fields) : Statement (.yld f) := of _ f rfl (by decide) rfl rfl
theorem waitf (f : Fields) : Statement (.waitf f) := of _ f rfl (by decide) rfl rfl
theorem waitfE (f : Fields) : Statement (.waitfE f) := of _ f rfl (by decide) rfl rfl
theorem nop (f : Fields) : Statement (.nop f) := of _ f rfl (by decide) rfl rfl
theorem migL (f : Fields) : Statement (.migL f) := of _ f rfl (by decide) rfl rfl
theorem migW (f : Fields) : Statement (.migW f) := of _ f rfl (by decide) rfl rfl
theorem migC (f : Fields) : Statement (.migC f) := of _ f rfl (by decide) rfl rfl
theorem rgn (f : Fields) : Statement (.rgn f) := of _ f rfl (by decide) rfl rfl
theorem sysc (f : Fields) : Statement (.sysc f) := of _ f rfl (by decide) rfl rfl
theorem trap (f : Fields) : Statement (.trap f) := of _ f rfl (by decide) rfl rfl
theorem brk (f : Fields) : Statement (.brk f) := of _ f rfl (by decide) rfl rfl
theorem eretS (f : Fields) : Statement (.eretS f) := of _ f rfl (by decide) rfl rfl
theorem eretF (f : Fields) : Statement (.eretF f) := of _ f rfl (by decide) rfl rfl
theorem ldsB (f : Fields) : Statement (.ldsB f) := of _ f rfl (by decide) rfl rfl
theorem ldsH (f : Fields) : Statement (.ldsH f) := of _ f rfl (by decide) rfl rfl
theorem ldsW (f : Fields) : Statement (.ldsW f) := of _ f rfl (by decide) rfl rfl
theorem ldsD (f : Fields) : Statement (.ldsD f) := of _ f rfl (by decide) rfl rfl
theorem ldsQ (f : Fields) : Statement (.ldsQ f) := of _ f rfl (by decide) rfl rfl
theorem stsB (f : Fields) : Statement (.stsB f) := of _ f rfl (by decide) rfl rfl
theorem stsH (f : Fields) : Statement (.stsH f) := of _ f rfl (by decide) rfl rfl
theorem stsW (f : Fields) : Statement (.stsW f) := of _ f rfl (by decide) rfl rfl
theorem stsD (f : Fields) : Statement (.stsD f) := of _ f rfl (by decide) rfl rfl
theorem stsQ (f : Fields) : Statement (.stsQ f) := of _ f rfl (by decide) rfl rfl
theorem samoAdd (f : Fields) : Statement (.samoAdd f) := of _ f rfl (by decide) rfl rfl
theorem samoMax (f : Fields) : Statement (.samoMax f) := of _ f rfl (by decide) rfl rfl
theorem samoSwap (f : Fields) : Statement (.samoSwap f) := of _ f rfl (by decide) rfl rfl
theorem scas (f : Fields) : Statement (.scas f) := of _ f rfl (by decide) rfl rfl
theorem ldB (f : Fields) : Statement (.ldB f) := of _ f rfl (by decide) rfl rfl
theorem ldBu (f : Fields) : Statement (.ldBu f) := of _ f rfl (by decide) rfl rfl
theorem ldH (f : Fields) : Statement (.ldH f) := of _ f rfl (by decide) rfl rfl
theorem ldHu (f : Fields) : Statement (.ldHu f) := of _ f rfl (by decide) rfl rfl
theorem ldW (f : Fields) : Statement (.ldW f) := of _ f rfl (by decide) rfl rfl
theorem ldWu (f : Fields) : Statement (.ldWu f) := of _ f rfl (by decide) rfl rfl
theorem ldD (f : Fields) : Statement (.ldD f) := of _ f rfl (by decide) rfl rfl
theorem ldQ (f : Fields) : Statement (.ldQ f) := of _ f rfl (by decide) rfl rfl
theorem stB (f : Fields) : Statement (.stB f) := of _ f rfl (by decide) rfl rfl
theorem stH (f : Fields) : Statement (.stH f) := of _ f rfl (by decide) rfl rfl
theorem stW (f : Fields) : Statement (.stW f) := of _ f rfl (by decide) rfl rfl
theorem stD (f : Fields) : Statement (.stD f) := of _ f rfl (by decide) rfl rfl
theorem stQ (f : Fields) : Statement (.stQ f) := of _ f rfl (by decide) rfl rfl
theorem ldaqW (f : Fields) : Statement (.ldaqW f) := of _ f rfl (by decide) rfl rfl
theorem ldaqD (f : Fields) : Statement (.ldaqD f) := of _ f rfl (by decide) rfl rfl
theorem strlW (f : Fields) : Statement (.strlW f) := of _ f rfl (by decide) rfl rfl
theorem strlD (f : Fields) : Statement (.strlD f) := of _ f rfl (by decide) rfl rfl
theorem ldroW (f : Fields) : Statement (.ldroW f) := of _ f rfl (by decide) rfl rfl
theorem ldroD (f : Fields) : Statement (.ldroD f) := of _ f rfl (by decide) rfl rfl
theorem ldroQ (f : Fields) : Statement (.ldroQ f) := of _ f rfl (by decide) rfl rfl
theorem roinv (f : Fields) : Statement (.roinv f) := of _ f rfl (by decide) rfl rfl
theorem ldvW (f : Fields) : Statement (.ldvW f) := of _ f rfl (by decide) rfl rfl
theorem ldvD (f : Fields) : Statement (.ldvD f) := of _ f rfl (by decide) rfl rfl
theorem ldvQ (f : Fields) : Statement (.ldvQ f) := of _ f rfl (by decide) rfl rfl
theorem stvW (f : Fields) : Statement (.stvW f) := of _ f rfl (by decide) rfl rfl
theorem stvD (f : Fields) : Statement (.stvD f) := of _ f rfl (by decide) rfl rfl
theorem stvQ (f : Fields) : Statement (.stvQ f) := of _ f rfl (by decide) rfl rfl
theorem prefL2 (f : Fields) : Statement (.prefL2 f) := of _ f rfl (by decide) rfl rfl
theorem prefV (f : Fields) : Statement (.prefV f) := of _ f rfl (by decide) rfl rfl
theorem clfl (f : Fields) : Statement (.clfl f) := of _ f rfl (by decide) rfl rfl
theorem amoAdd (f : Fields) : Statement (.amoAdd f) := of _ f rfl (by decide) rfl rfl
theorem amoAnd (f : Fields) : Statement (.amoAnd f) := of _ f rfl (by decide) rfl rfl
theorem amoOr (f : Fields) : Statement (.amoOr f) := of _ f rfl (by decide) rfl rfl
theorem amoXor (f : Fields) : Statement (.amoXor f) := of _ f rfl (by decide) rfl rfl
theorem amoMin (f : Fields) : Statement (.amoMin f) := of _ f rfl (by decide) rfl rfl
theorem amoMax (f : Fields) : Statement (.amoMax f) := of _ f rfl (by decide) rfl rfl
theorem amoMinu (f : Fields) : Statement (.amoMinu f) := of _ f rfl (by decide) rfl rfl
theorem amoMaxu (f : Fields) : Statement (.amoMaxu f) := of _ f rfl (by decide) rfl rfl
theorem amoSwap (f : Fields) : Statement (.amoSwap f) := of _ f rfl (by decide) rfl rfl
theorem amoFadd (f : Fields) : Statement (.amoFadd f) := of _ f rfl (by decide) rfl rfl
theorem redAdd (f : Fields) : Statement (.redAdd f) := of _ f rfl (by decide) rfl rfl
theorem redAnd (f : Fields) : Statement (.redAnd f) := of _ f rfl (by decide) rfl rfl
theorem redOr (f : Fields) : Statement (.redOr f) := of _ f rfl (by decide) rfl rfl
theorem redXor (f : Fields) : Statement (.redXor f) := of _ f rfl (by decide) rfl rfl
theorem redMin (f : Fields) : Statement (.redMin f) := of _ f rfl (by decide) rfl rfl
theorem redMax (f : Fields) : Statement (.redMax f) := of _ f rfl (by decide) rfl rfl
theorem redMinu (f : Fields) : Statement (.redMinu f) := of _ f rfl (by decide) rfl rfl
theorem redMaxu (f : Fields) : Statement (.redMaxu f) := of _ f rfl (by decide) rfl rfl
theorem redFadd (f : Fields) : Statement (.redFadd f) := of _ f rfl (by decide) rfl rfl
theorem cas (f : Fields) : Statement (.cas f) := of _ f rfl (by decide) rfl rfl
theorem fence (f : Fields) : Statement (.fence f) := of _ f rfl (by decide) rfl rfl
theorem marm (f : Fields) : Statement (.marm f) := of _ f rfl (by decide) rfl rfl
theorem mwait (f : Fields) : Statement (.mwait f) := of _ f rfl (by decide) rfl rfl
theorem mwaitT (f : Fields) : Statement (.mwaitT f) := of _ f rfl (by decide) rfl rfl
theorem tcpy (f : Fields) : Statement (.tcpy f) := of _ f rfl (by decide) rfl rfl
theorem tcst (f : Fields) : Statement (.tcst f) := of _ f rfl (by decide) rfl rfl
theorem twaitO (f : Fields) : Statement (.twaitO f) := of _ f rfl (by decide) rfl rfl
theorem twaitA (f : Fields) : Statement (.twaitA f) := of _ f rfl (by decide) rfl rfl
theorem thdlB (f : Fields) : Statement (.thdlB f) := of _ f rfl (by decide) rfl rfl
theorem thdlU (f : Fields) : Statement (.thdlU f) := of _ f rfl (by decide) rfl rfl
theorem sioR (f : Fields) : Statement (.sioR f) := of _ f rfl (by decide) rfl rfl
theorem sioW (f : Fields) : Statement (.sioW f) := of _ f rfl (by decide) rfl rfl
theorem sioD (f : Fields) : Statement (.sioD f) := of _ f rfl (by decide) rfl rfl
theorem sflu (f : Fields) : Statement (.sflu f) := of _ f rfl (by decide) rfl rfl
theorem mmq (f : Fields) : Statement (.mmq f) := of _ f rfl (by decide) rfl rfl
theorem mmqs (f : Fields) : Statement (.mmqs f) := of _ f rfl (by decide) rfl rfl
theorem mzero (f : Fields) : Statement (.mzero f) := of _ f rfl (by decide) rfl rfl
theorem mldaF32 (f : Fields) : Statement (.mldaF32 f) := of _ f rfl (by decide) rfl rfl
theorem mldaBf (f : Fields) : Statement (.mldaBf f) := of _ f rfl (by decide) rfl rfl
theorem mstaF32 (f : Fields) : Statement (.mstaF32 f) := of _ f rfl (by decide) rfl rfl
theorem mstaBf (f : Fields) : Statement (.mstaBf f) := of _ f rfl (by decide) rfl rfl
theorem mstaH (f : Fields) : Statement (.mstaH f) := of _ f rfl (by decide) rfl rfl
theorem mstaE4 (f : Fields) : Statement (.mstaE4 f) := of _ f rfl (by decide) rfl rfl
theorem mstaE5 (f : Fields) : Statement (.mstaE5 f) := of _ f rfl (by decide) rfl rfl
theorem crookT (f : Fields) : Statement (.crookT f) := of _ f rfl (by decide) rfl rfl
theorem crookP (f : Fields) : Statement (.crookP f) := of _ f rfl (by decide) rfl rfl
theorem crookR (f : Fields) : Statement (.crookR f) := of _ f rfl (by decide) rfl rfl
theorem crookQ (f : Fields) : Statement (.crookQ f) := of _ f rfl (by decide) rfl rfl
theorem merrR (f : Fields) : Statement (.merrR f) := of _ f rfl (by decide) rfl rfl
theorem merrC (f : Fields) : Statement (.merrC f) := of _ f rfl (by decide) rfl rfl
theorem bar (f : Fields) : Statement (.bar f) := of _ f rfl (by decide) rfl rfl
theorem barSt (f : Fields) : Statement (.barSt f) := of _ f rfl (by decide) rfl rfl
theorem fbar (f : Fields) : Statement (.fbar f) := of _ f rfl (by decide) rfl rfl
theorem nbar (f : Fields) : Statement (.nbar f) := of _ f rfl (by decide) rfl rfl
theorem nbarA (f : Fields) : Statement (.nbarA f) := of _ f rfl (by decide) rfl rfl
theorem nbarW (f : Fields) : Statement (.nbarW f) := of _ f rfl (by decide) rfl rfl
theorem nbinit (f : Fields) : Statement (.nbinit f) := of _ f rfl (by decide) rfl rfl
theorem nbinitC (f : Fields) : Statement (.nbinitC f) := of _ f rfl (by decide) rfl rfl
theorem exit (f : Fields) : Statement (.exit f) := of _ f rfl (by decide) rfl rfl
theorem exitS (f : Fields) : Statement (.exitS f) := of _ f rfl (by decide) rfl rfl
theorem spwn (f : Fields) : Statement (.spwn f) := of _ f rfl (by decide) rfl rfl
theorem rspwn (f : Fields) : Statement (.rspwn f) := of _ f rfl (by decide) rfl rfl
theorem rspwnD (f : Fields) : Statement (.rspwnD f) := of _ f rfl (by decide) rfl rfl
theorem trkA (f : Fields) : Statement (.trkA f) := of _ f rfl (by decide) rfl rfl
theorem trkR (f : Fields) : Statement (.trkR f) := of _ f rfl (by decide) rfl rfl
theorem trkc (f : Fields) : Statement (.trkc f) := of _ f rfl (by decide) rfl rfl
theorem trkqS (f : Fields) : Statement (.trkqS f) := of _ f rfl (by decide) rfl rfl
theorem trkqD (f : Fields) : Statement (.trkqD f) := of _ f rfl (by decide) rfl rfl
theorem phs (f : Fields) : Statement (.phs f) := of _ f rfl (by decide) rfl rfl
theorem phsx (f : Fields) : Statement (.phsx f) := of _ f rfl (by decide) rfl rfl
theorem spl (f : Fields) : Statement (.spl f) := of _ f rfl (by decide) rfl rfl
theorem pqryP (f : Fields) : Statement (.pqryP f) := of _ f rfl (by decide) rfl rfl
theorem pqryB (f : Fields) : Statement (.pqryB f) := of _ f rfl (by decide) rfl rfl
theorem pqryC (f : Fields) : Statement (.pqryC f) := of _ f rfl (by decide) rfl rfl
theorem sig (f : Fields) : Statement (.sig f) := of _ f rfl (by decide) rfl rfl
theorem sigG (f : Fields) : Statement (.sigG f) := of _ f rfl (by decide) rfl rfl
theorem sigB (f : Fields) : Statement (.sigB f) := of _ f rfl (by decide) rfl rfl
theorem evctB (f : Fields) : Statement (.evctB f) := of _ f rfl (by decide) rfl rfl
theorem evctF (f : Fields) : Statement (.evctF f) := of _ f rfl (by decide) rfl rfl
theorem evctS (f : Fields) : Statement (.evctS f) := of _ f rfl (by decide) rfl rfl
theorem evctC (f : Fields) : Statement (.evctC f) := of _ f rfl (by decide) rfl rfl
theorem tlbiVa (f : Fields) : Statement (.tlbiVa f) := of _ f rfl (by decide) rfl rfl
theorem tlbiVas (f : Fields) : Statement (.tlbiVas f) := of _ f rfl (by decide) rfl rfl
theorem tlbiAs (f : Fields) : Statement (.tlbiAs f) := of _ f rfl (by decide) rfl rfl
theorem tlbiAll (f : Fields) : Statement (.tlbiAll f) := of _ f rfl (by decide) rfl rfl
theorem tlbiL (f : Fields) : Statement (.tlbiL f) := of _ f rfl (by decide) rfl rfl
theorem halt (f : Fields) : Statement (.halt f) := of _ f rfl (by decide) rfl rfl
theorem haltP (f : Fields) : Statement (.haltP f) := of _ f rfl (by decide) rfl rfl
theorem wfi (f : Fields) : Statement (.wfi f) := of _ f rfl (by decide) rfl rfl
theorem wfiT (f : Fields) : Statement (.wfiT f) := of _ f rfl (by decide) rfl rfl
theorem ctxsG (f : Fields) : Statement (.ctxsG f) := of _ f rfl (by decide) rfl rfl
theorem ctxsS (f : Fields) : Statement (.ctxsS f) := of _ f rfl (by decide) rfl rfl
theorem ctxsQ (f : Fields) : Statement (.ctxsQ f) := of _ f rfl (by decide) rfl rfl
theorem ctxsM (f : Fields) : Statement (.ctxsM f) := of _ f rfl (by decide) rfl rfl
theorem ctxsSp (f : Fields) : Statement (.ctxsSp f) := of _ f rfl (by decide) rfl rfl
theorem ctxsH (f : Fields) : Statement (.ctxsH f) := of _ f rfl (by decide) rfl rfl
theorem ctxsT (f : Fields) : Statement (.ctxsT f) := of _ f rfl (by decide) rfl rfl
theorem ctxlG (f : Fields) : Statement (.ctxlG f) := of _ f rfl (by decide) rfl rfl
theorem ctxlS (f : Fields) : Statement (.ctxlS f) := of _ f rfl (by decide) rfl rfl
theorem ctxlQ (f : Fields) : Statement (.ctxlQ f) := of _ f rfl (by decide) rfl rfl
theorem ctxlM (f : Fields) : Statement (.ctxlM f) := of _ f rfl (by decide) rfl rfl
theorem ctxlSp (f : Fields) : Statement (.ctxlSp f) := of _ f rfl (by decide) rfl rfl
theorem ctxlH (f : Fields) : Statement (.ctxlH f) := of _ f rfl (by decide) rfl rfl
theorem ctxlT (f : Fields) : Statement (.ctxlT f) := of _ f rfl (by decide) rfl rfl
theorem stallYield (core slot : Nat) : Statement (.stallYield core slot) := none_of rfl
theorem overrideLimit (core slot : Nat) : Statement (.overrideLimit core slot) := none_of rfl
theorem loadCompletion (id : Nat) : Statement (.loadCompletion id) := none_of rfl
theorem loadFault (id : Nat) : Statement (.loadFault id) := none_of rfl
theorem faultReport (core slot lane : Nat) : Statement (.faultReport core slot lane) := none_of rfl
theorem resume (die : Nat) : Statement (.resume die) := none_of rfl
theorem extract (die : Nat) : Statement (.extract die) := none_of rfl
theorem terminate (die : Nat) : Statement (.terminate die) := none_of rfl
theorem laneExtraction (core slot lane : Nat) : Statement (.laneExtraction core slot lane) := none_of rfl
theorem shuttleArrival (tid core : Nat) (valid : Bool) : Statement (.shuttleArrival tid core valid) := none_of rfl
theorem poolEntry (tid core : Nat) : Statement (.poolEntry tid core) := none_of rfl
theorem pwaitExpiry (core : Nat) : Statement (.pwaitExpiry core) := none_of rfl
theorem barrierArrival (tid : Nat) : Statement (.barrierArrival tid) := none_of rfl
theorem releaseWave (core bolt : Nat) : Statement (.releaseWave core bolt) := none_of rfl
theorem blockAllotment (core : Nat) : Statement (.blockAllotment core) := none_of rfl
theorem reclaim (core : Nat) : Statement (.reclaim core) := none_of rfl
theorem signalTake (core : Nat) : Statement (.signalTake core) := none_of rfl
theorem signalExtraction (core slot lane : Nat) : Statement (.signalExtraction core slot lane) := none_of rfl
theorem flockPlacement (spawn fcoord : Nat) (cores : List Nat) : Statement (.flockPlacement spawn fcoord cores) := none_of rfl
theorem placementAgeLimit : Statement .placementAgeLimit := none_of rfl
theorem eviction (spawn fcoord : Nat) : Statement (.eviction spawn fcoord) := none_of rfl
theorem evictionSave (spawn fcoord : Nat) : Statement (.evictionSave spawn fcoord) := none_of rfl
theorem spawnCompletion (spawn : Nat) : Statement (.spawnCompletion spawn) := none_of rfl
theorem spawnUnitFailover : Statement .spawnUnitFailover := none_of rfl
theorem respawnRound (spawn : Nat) : Statement (.respawnRound spawn) := none_of rfl
theorem pageWalk (id : Nat) : Statement (.pageWalk id) := none_of rfl
theorem translationDrop (core space va : Nat) : Statement (.translationDrop core space va) := none_of rfl
theorem gets (agent line : Nat) : Statement (.gets agent line) := none_of rfl
theorem getm (agent line : Nat) (mask : BitVec 128) : Statement (.getm agent line mask) := none_of rfl
theorem wt (tid : Nat) : Statement (.wt tid) := none_of rfl
theorem hr (id : Nat) : Statement (.hr id) := none_of rfl
theorem putm (agent line : Nat) : Statement (.putm agent line) := none_of rfl
theorem puto (agent line : Nat) : Statement (.puto agent line) := none_of rfl
theorem puts (agent line : Nat) : Statement (.puts agent line) := none_of rfl
theorem pute (agent line : Nat) : Statement (.pute agent line) := none_of rfl
theorem directoryEntryDrop (line : Nat) : Statement (.directoryEntryDrop line) := none_of rfl
theorem mwaitTimeout (tid : Nat) : Statement (.mwaitTimeout tid) := none_of rfl
theorem droverSweep (line : Nat) : Statement (.droverSweep line) := none_of rfl
theorem vfloorRebase (core : Nat) : Statement (.vfloorRebase core) := none_of rfl
theorem ownershipTransferHToD (region : Nat) : Statement (.ownershipTransferHToD region) := none_of rfl
theorem ownershipTransferDToH (region : Nat) : Statement (.ownershipTransferDToH region) := none_of rfl
theorem ownershipTimeout (region : Nat) : Statement (.ownershipTimeout region) := none_of rfl
theorem regionDwellExpiry (region : Nat) : Statement (.regionDwellExpiry region) := none_of rfl
theorem hostMemAccess (pa : Nat) (write : Bool) (data : List (BitVec 8)) : Statement (.hostMemAccess pa write data) := none_of rfl
theorem memoryScrub (unit : Nat) : Statement (.memoryScrub unit) := none_of rfl
theorem queueRequestServe (queue : Nat) : Statement (.queueRequestServe queue) := none_of rfl
theorem queueConfigWrite (queue word : Nat) (value : BitVec 64) : Statement (.queueConfigWrite queue word value) := none_of rfl
theorem jobAccept (engine : Nat) : Statement (.jobAccept engine) := none_of rfl
theorem jobStart (handle : Nat) : Statement (.jobStart handle) := none_of rfl
theorem jobRetire (handle : Nat) : Statement (.jobRetire handle) := none_of rfl
theorem jobFail (handle : Nat) : Statement (.jobFail handle) := none_of rfl
theorem handleFill (core slot : Nat) : Statement (.handleFill core slot) := none_of rfl
theorem streamComplete (handle : Nat) : Statement (.streamComplete handle) := none_of rfl
theorem streamFail (handle : Nat) (err : Nat) : Statement (.streamFail handle err) := none_of rfl
theorem flushComplete (handle : Nat) (ok : Bool) : Statement (.flushComplete handle ok) := none_of rfl
theorem nvmeCompletion (handle : Nat) (ok : Bool) (blockSize : Nat) (data : List (BitVec 8)) : Statement (.nvmeCompletion handle ok blockSize data) := none_of rfl
theorem quarterAccept (core slot : Nat) : Statement (.quarterAccept core slot) := none_of rfl
theorem passStart (core : Nat) : Statement (.passStart core) := none_of rfl
theorem passComplete (core : Nat) : Statement (.passComplete core) := none_of rfl
theorem mstaAccept (core slot : Nat) : Statement (.mstaAccept core slot) := none_of rfl
theorem mstaWrite (core : Nat) : Statement (.mstaWrite core) := none_of rfl
theorem crookExpiry (core : Nat) : Statement (.crookExpiry core) := none_of rfl
theorem burstStartGrant (quadrant : Nat) : Statement (.burstStartGrant quadrant) := none_of rfl
theorem activityWindowEnd (core : Nat) : Statement (.activityWindowEnd core) := none_of rfl
theorem intervalBoundary : Statement .intervalBoundary := none_of rfl
theorem declarationOnset (bolt : Nat) : Statement (.declarationOnset bolt) := none_of rfl
theorem declarationEnd (bolt : Nat) : Statement (.declarationEnd bolt) := none_of rfl
theorem sliceRatioChange (core slice : Nat) : Statement (.sliceRatioChange core slice) := none_of rfl
theorem sensorUpdate (sensor : Nat) (value : Int) : Statement (.sensorUpdate sensor value) := none_of rfl
theorem thermalTripClear (column : Nat) : Statement (.thermalTripClear column) := none_of rfl
theorem trip3HaltTimeout (core : Nat) : Statement (.trip3HaltTimeout core) := none_of rfl
theorem ucieFlitReceive (link : Nat) (crcOk : Bool) : Statement (.ucieFlitReceive link crcOk) := none_of rfl
theorem lingotonFlitReceive (port : Nat) (data check : List (BitVec 8)) : Statement (.lingotonFlitReceive port data check) :=
  none_of rfl
theorem lingotonNak (port seq : Nat) : Statement (.lingotonNak port seq) := none_of rfl
theorem nbArrivalPacket : Statement .nbArrivalPacket := none_of rfl
theorem nbReleasePacket : Statement .nbReleasePacket := none_of rfl
theorem nbMarkUpdate : Statement .nbMarkUpdate := none_of rfl
theorem storageLinkDown (port : Nat) : Statement (.storageLinkDown port) := none_of rfl
theorem packageReset (image : Config.FwImage) (code : Nat) : Statement (.packageReset image code) := none_of rfl
theorem attestationRequest (nonce : List (BitVec 8)) : Statement (.attestationRequest nonce) := none_of rfl
theorem pkgrst (value : BitVec 64) : Statement (.pkgrst value) := none_of rfl
theorem corctlRestart : Statement .corctlRestart := none_of rfl
theorem corctlClosed (closed : Bool) : Statement (.corctlClosed closed) := none_of rfl
theorem corctlRfblk (count : Nat) : Statement (.corctlRfblk count) := none_of rfl
theorem suspectClear : Statement .suspectClear := none_of rfl
theorem regionOwnerWrite (region : Nat) (host : Bool) : Statement (.regionOwnerWrite region host) := none_of rfl
theorem regionPinWrite (region : Nat) (pin : Bool) : Statement (.regionPinWrite region pin) := none_of rfl
theorem permWrite (pid : Nat) (value : BitVec 64) : Statement (.permWrite pid value) := none_of rfl
theorem merrWrite (bolt : Nat) (value : BitVec 64) : Statement (.merrWrite bolt value) := none_of rfl
theorem sigmaskWrite (tid : Nat) (value : BitVec 64) : Statement (.sigmaskWrite tid value) := none_of rfl
theorem systemRegisterWrite (tid number : Nat) (value : BitVec 64) : Statement (.systemRegisterWrite tid number value) := none_of rfl
theorem wfiTimeout (tid : Nat) : Statement (.wfiTimeout tid) := none_of rfl
theorem illegalInstruction (raw : BitVec 64) : Statement (.illegalInstruction raw) := none_of rfl
theorem fetchFault (cause : Nat) (adr : BitVec 64) : Statement (.fetchFault cause adr) := none_of rfl
theorem mldaPerform (core : Nat) : Statement (.mldaPerform core) := none_of rfl
theorem storagePortRetrain (port : Nat) : Statement (.storagePortRetrain port) := none_of rfl

end Sys2Proof.Laws.Opcodes
end

