-- ==== Sys2Proof/Tests/Slice0.lean ====
section
/-! SUPPORT. The model's own tests: a term that each check of WellFormed refuses, words written out from the encodings of
the spec, effects on small states with the values that the spec's rules give, and for every statement a state and
operands that meet its hypotheses together. -/

namespace Sys2Proof.Tests

-- One declaration after another: each proof here is an evaluation by the kernel, which wants a stack of its own.
set_option Elab.async false

open Sys2Proof Sys2Proof.Machine Sys2Proof.Claims

/-! ### Small states -/

/-- No thread, no core. -/
def blank : State :=
  { State.reset with threads := [], lcores := [], fw := { FwRegs.reset with fvec := 0x8000, svec := 0x9000 } }

/-- A thread of firmware level on latency core 256. -/
def latT : Thread := { Thread.fresh 7 0x10001 0x4000 .firmware with loc := .latency 256 }

/-- Latency core 256 with one thread, which issues. -/
def latS (t : Thread) : State :=
  { blank with
    threads := [(t.tid, t)]
    lcores := [(256, { LCore.halted0 with cur := some t.tid, halted := false })]
    cur := .latency 256 }

/-- A descriptor of one bolt. -/
def wDesc : Desc :=
  { pclass := 0, prio := 0, trace := false, nstage := 1, nflock := 1, t := 2, fm1 := 0, entry := 0x4000,
    args := [1, 2, 3, 4], blocks := 7, nslice := 2, spbytes := 65536, done := 0, seq := 0, tarea := 0, ebolt := 0,
    tlen := 0, chans := [] }

/-- Its spawn. -/
def wSpawn : Spawn :=
  { id := 1, pid := 0x10001, level := .user, desc := wDesc, order := 0, seq := 0, boltsLeft := 1, started := [0],
    running := true, broke := false, vf := 0 }

/-- The bolt of it on weft core 0. -/
def wBolt : Bolt := Bolt.fresh 1 wSpawn 0 0 0

/-- The thread in lane i of its weft. -/
def wT (i : Nat) : Thread := { newThread wSpawn wBolt (9 + i) 0 i with loc := .member 0 0 i }

/-- The weft of the threads given, in slot 0. -/
def wWeft (ts : List Thread) : Weft :=
  ts.foldl (fun w t => w.setLane t.lane (some t.tid)) { Weft.fresh 1 0 7 0 with wstate := .running, held := true }

/-- A weft core with that weft. -/
def wCore (ts : List Thread) : WCore := { WCore.halted0 with halted := false, slots := [(0, wWeft ts)] }

/-- Weft core 0 with a bolt whose weft of the threads given issues at 0x4000. -/
def wS (b : Bolt) (ts : List Thread) : State :=
  { blank with
    threads := ts.map fun t => (t.tid, t)
    wcores := [(0, wCore ts)]
    bolts := [(b.id, b)]
    cur := .weft 0 0 0x4000 }

/-- The lanes of threads in the order given. -/
def lanesIn (ts : List Thread) : List (Nat × Thread) := ts.map fun t => (t.lane, t)

/-- A base-die queue of capacity 2 ^ lsz that space 1 may use, with words. -/
def aQueue (lsz : Nat) (words : List (Word × Bool)) : Queue :=
  { base := 0, lsz, all := false, valid := true, owner := 1, head := 0, tail := 0, words, waiters := [], owed := [] }

/-- A thread with a register at a value. -/
def having (t : Thread) (n : Nat) (v : Word) : Thread := t.setReg n ⟨v, true, false⟩

/-! ### Whether a group is ready, by evaluation -/

/-- LaneReady as a check. -/
def laneReadyB (s : State) (r : OpRule) (f : Fields) (irrev : Bool) (t : Thread) : Bool :=
  decide (r.level ≤ t.plvl.code) && (allNamed r f).all (fun n => decide (n < 8 * s.blockCount t)) &&
  (readRegs r f).all (fun n => (t.reg n).full && !(t.reg n).poison) && (writeRegs r f).all (fun n => (t.reg n).full) &&
  !(irrev && s.hasUnchecked t.tid)

theorem laneReady_of {s : State} {r : OpRule} {f : Fields} {irrev : Bool} {t : Thread}
    (h : laneReadyB s r f irrev t = true) : LaneReady s r f irrev t := by
  simp only [laneReadyB, Bool.and_eq_true, List.all_eq_true, decide_eq_true_eq, Bool.not_eq_true',
    Bool.and_eq_false_iff] at h
  obtain ⟨⟨⟨⟨h1, h2⟩, h3⟩, h4⟩, h5⟩ := h
  exact ⟨h1, h2, h3, h4, fun hi => by simpa [hi] using h5⟩

/-- LaneGroup as a check. -/
def groupB (s : State) (ls : List (Nat × Thread)) : Bool :=
  decide (s.issueLanes = ls) && !ls.isEmpty && decide ((ls.map fun p => p.2.tid).Nodup) &&
  ls.all fun p => decide (s.thread? p.2.tid = some p.2)

theorem group_of {s : State} {ls : List (Nat × Thread)} (h : groupB s ls = true) : LaneGroup s ls := by
  simp only [groupB, Bool.and_eq_true, List.all_eq_true, decide_eq_true_eq, Bool.not_eq_true', List.isEmpty_eq_false_iff] at h
  exact ⟨h.1.1.1, h.1.1.2, h.1.2, h.2⟩

/-- Ready as a check. -/
def readyB (s : State) (r : OpRule) (f : Fields) (irrev : Bool) (ls : List (Nat × Thread)) : Bool :=
  groupB s ls && !touchesPort r f && ls.all fun p => laneReadyB s r f irrev p.2

theorem ready_of {s : State} {r : OpRule} {f : Fields} {irrev : Bool} {ls : List (Nat × Thread)}
    (h : readyB s r f irrev ls = true) : Ready s r f irrev ls := by
  simp only [readyB, Bool.and_eq_true, List.all_eq_true, Bool.not_eq_true'] at h
  exact ⟨group_of h.1.1, h.1.2, fun p hp => laneReady_of (h.2 p hp)⟩

/-- Whether a port reaches a queue. -/
def reaches : Except Trap QId → Bool
  | .ok _ => true
  | .error _ => false

/-- Whether a port in rd reaches a queue that takes a push. -/
def takesPush : Except Trap QId → Bool
  | .ok (.inbox _) => false
  | .ok _ => true
  | .error _ => false

/-- PortsReady as a check. -/
def portsReadyB (s : State) (r : OpRule) (f : Fields) (irrev carries : Bool) (ls : List (Nat × Thread)) : Bool :=
  groupB s ls && ls.all (fun p => laneReadyB s r f (irrev || touchesPort r f) p.2) &&
  ls.all (fun p => (usesOf r f).all fun u => !u.isPort || reaches (s.portQueue p.2 u.reg)) &&
  (s.groupClaims r f ls).all (fun c =>
    decide (((s.groupClaims r f ls).filter fun d => d.q == c.q).length ≤ (s.queueWords c.q).length)) &&
  (s.groupClaims r f ls).all (fun c => !s.mustWait c.tid) &&
  (!pushesRd r f || ls.all fun p =>
    s.performed p.2.tid && p.2.lost.isNone && takesPush (s.portQueue p.2 f.rd)) &&
  pushesFit s (pushesOf s r f ls) &&
  (baseUses (s.groupClaims r f ls) (pushesOf s r f ls)).all (fun u =>
    !s.behind u.1 (s.cur.waiter (((ls.head?).map fun p => p.2.pc).getD 0) u.2)) &&
  (carries || (s.groupPops r f ls).all fun p => !p.2.poison)

theorem portsReady_of {s : State} {r : OpRule} {f : Fields} {irrev carries : Bool} {ls : List (Nat × Thread)}
    (h : portsReadyB s r f irrev carries ls = true) : PortsReady s r f irrev carries ls := by
  simp only [portsReadyB, Bool.and_eq_true] at h
  obtain ⟨⟨⟨⟨⟨⟨⟨⟨h1, h2⟩, h3⟩, h4⟩, ha⟩, h5⟩, h6⟩, h7⟩, h8⟩ := h
  refine ⟨group_of h1, fun p hp => laneReady_of (List.all_eq_true.1 h2 p hp), fun p hp u hu hq => ?_, fun q => ?_,
    fun c hc => by simpa using List.all_eq_true.1 ha c hc, fun hq p hp => ?_, h6, fun u hu => ?_, ?_⟩
  · have := List.all_eq_true.1 (List.all_eq_true.1 h3 p hp) u hu
    simp only [hq, Bool.not_true, Bool.false_or] at this
    cases hx : s.portQueue p.2 u.reg with
    | ok q => exact ⟨q, rfl⟩
    | error e => simp [hx, reaches] at this
  · by_cases hc : ∃ c ∈ s.groupClaims r f ls, c.q = q
    · obtain ⟨c, hc, rfl⟩ := hc
      simpa using List.all_eq_true.1 h4 c hc
    · have : (s.groupClaims r f ls).filter (fun c => c.q == q) = [] := by
        rw [List.filter_eq_nil_iff]; intro c hcm; simpa using fun he => hc ⟨c, hcm, he⟩
      simp [this]
  · simp only [hq, Bool.not_true, Bool.false_or, List.all_eq_true, Bool.and_eq_true] at h5
    refine ⟨(h5 p hp).1.1, by simpa using (h5 p hp).1.2, ?_⟩
    have := (h5 p hp).2
    cases hx : s.portQueue p.2 f.rd with
    | ok q => exact ⟨q, rfl, fun n he => by subst he; simp [hx, takesPush] at this⟩
    | error e => simp [hx, takesPush] at this
  · simpa using List.all_eq_true.1 h7 u hu
  · rcases (Bool.or_eq_true _ _).mp h8 with h | h
    · exact .inl h
    · exact .inr fun p hp => by simpa using List.all_eq_true.1 h p hp

/-- The hypotheses of `Runs` for a lane alone: the group is ready and the lane meets the need, whatever its effect. -/
def Meets (s : State) (t : Thread) (r : OpRule) (f : Fields) (irrev carries : Bool) (need : State → Lane → Prop) : Prop :=
  PortsReady s r f irrev carries [(t.lane, t)] ∧
  ∀ eff, needInTurn need eff s ([(t.lane, t)].map (s.laneOf r f [(t.lane, t)]))

/-- The lane of a thread alone. -/
def laneFor (s : State) (t : Thread) (r : OpRule) (f : Fields) : Lane := s.laneOf r f [(t.lane, t)] (t.lane, t)

theorem meets_of {s : State} {t : Thread} {r : OpRule} {f : Fields} {irrev carries : Bool} {need : State → Lane → Prop}
    (h : portsReadyB s r f irrev carries [(t.lane, t)] = true) (hn : need s (laneFor s t r f)) :
    Meets s t r f irrev carries need := by
  have := portsReady_of h
  exact ⟨this, fun _ => ⟨⟨this.group.held _ List.mem_cons_self, hn⟩, trivial⟩⟩

/-- The hypotheses of `TrapsAlone`, of `WaitsAlone` and of other statements about a lane alone. -/
def Alone (s : State) (t : Thread) (r : OpRule) (f : Fields) (irrev carries : Bool) (why : State → Lane → Prop) : Prop :=
  PortsReady s r f irrev carries [(t.lane, t)] ∧ why s (laneFor s t r f)

theorem alone_of {s : State} {t : Thread} {r : OpRule} {f : Fields} {irrev carries : Bool} {why : State → Lane → Prop}
    (h : portsReadyB s r f irrev carries [(t.lane, t)] = true) (hn : why s (laneFor s t r f)) :
    Alone s t r f irrev carries why := ⟨portsReady_of h, hn⟩

/-- The hypotheses of `Yields` for a lane alone. -/
def ReadyAlone (s : State) (t : Thread) (r : OpRule) (f : Fields) (irrev : Bool) : Prop :=
  Ready s r f irrev [(t.lane, t)] ∧ Meets s t r f irrev true fun _ _ => True

theorem readyAlone_of {s : State} {t : Thread} {r : OpRule} {f : Fields} {irrev : Bool}
    (h : readyB s r f irrev [(t.lane, t)] = true) : ReadyAlone s t r f irrev := by
  have h := ready_of h
  exact ⟨h, h.toPorts true, fun _ => ⟨⟨h.group.held _ List.mem_cons_self, trivial⟩, trivial⟩⟩

theorem readyAlone_all {s : State} {t : Thread} {irrev : Bool} {l : List (OpRule × Fields)}
    (h : (l.all fun e => readyB s e.1 e.2 irrev [(t.lane, t)]) = true) : ∀ e ∈ l, ReadyAlone s t e.1 e.2 irrev :=
  fun e he => readyAlone_of (List.all_eq_true.1 h e he)

theorem meets_all {α : Type} {s : State} {t : Thread} {irrev carries : Bool} {l : List α} {rf : α → OpRule × Fields}
    {need : α → State → Lane → Prop}
    (h : (l.all fun e => portsReadyB s (rf e).1 (rf e).2 irrev carries [(t.lane, t)]) = true)
    (hn : ∀ e ∈ l, need e s (laneFor s t (rf e).1 (rf e).2)) :
    ∀ e ∈ l, Meets s t (rf e).1 (rf e).2 irrev carries (need e) :=
  fun e he => meets_of (List.all_eq_true.1 h e he) (hn e he)

/-! ### Ill-formed terms, one for each check (R52, R11, R12, R152, R318, R334) -/

theorem test_wrongForm : (Instr.add (lForm 3 4 5 0 0)).wellFormed = false := by decide +kernel
theorem test_outsideForm : (Instr.add { sForm 3 4 5 with imm := 1 }).wellFormed = false := by decide +kernel
theorem test_register : (Instr.ldD (lForm 57 8 0 0 64)).wellFormed = false := by decide +kernel
theorem test_oddPair : (Instr.ldQ (lForm 5 8 0 0 64)).wellFormed = false := by decide +kernel
theorem test_emptyMode : (Instr.li { lForm 3 0 0 0 7 with e2 := true }).wellFormed = false := by decide +kernel
theorem test_modifier : (Instr.cmp (mForm 3 4 5 0 0x0B)).wellFormed = false := by decide +kernel
theorem test_immediate : (Instr.shl (lForm 3 4 0 0 64)).wellFormed = false := by decide +kernel
theorem test_sysreg : (Instr.srd (lForm 3 0 0 0 0x1B)).wellFormed = false := by decide +kernel
theorem test_policy : (Instr.addi { lForm 3 4 0 0 1 with form := .x, pol := 5 }).wellFormed = false := by decide +kernel
theorem test_policyPort : (Instr.ldD { lForm 6 8 0 0 64 with form := .x, pol := 56 }).wellFormed = false := by
  decide +kernel
theorem test_samePort : (Instr.add (sForm 3 56 56)).wellFormed = false := by decide +kernel
theorem test_compact : (Instr.add { sForm 3 4 5 with form := .c }).wellFormed = false := by decide +kernel
theorem test_reservedOpcode : opRule 0x038 = none ∧ opRule 0x1AE = none := by decide +kernel
theorem test_core : (Instr.reclaim 144).wellFormed = false ∧ (Instr.reclaim 143).wellFormed = true := by decide +kernel
theorem test_latencyCore : (Instr.signalTake 255).wellFormed = false ∧ (Instr.signalTake 304).wellFormed = false ∧
    (Instr.signalTake 256).wellFormed = true := by decide +kernel
theorem test_anyCore : (Instr.shuttleArrival 7 200 true).wellFormed = false ∧
    (Instr.translationDrop 304 1 0).wellFormed = false := by decide +kernel
theorem test_slot : (Instr.stallYield 0 48).wellFormed = false ∧ (Instr.stallYield 0 47).wellFormed = true := by
  decide +kernel
theorem test_lane : (Instr.faultReport 0 0 32).wellFormed = false ∧ (Instr.faultReport 0 0 31).wellFormed = true := by
  decide +kernel
theorem test_die : (Instr.resume 1).wellFormed = false ∧ (Instr.resume 6).wellFormed = false ∧
    (Instr.resume 2).wellFormed = true := by decide +kernel
theorem test_flockCores : (Instr.flockPlacement 1 0 [0, 144]).wellFormed = false := by decide +kernel
theorem test_queue : (Instr.queueRequestServe 8192).wellFormed = false ∧
    (Instr.queueConfigWrite 0 4 0).wellFormed = false := by decide +kernel
theorem test_slice : (Instr.sliceRatioChange 0 6).wellFormed = false := by decide +kernel
theorem test_sensor : (Instr.sensorUpdate 312 0).wellFormed = false := by decide +kernel
theorem test_quadrant : (Instr.burstStartGrant 16).wellFormed = false := by decide +kernel
theorem test_fetchCause : (Instr.fetchFault 5 0).wellFormed = false ∧ (Instr.fetchFault 10 0).wellFormed = true := by
  decide +kernel

/-! ### Words of the spec's encodings (R45 to R50, R53, R66 to R85), beside those of DecodeWords -/

theorem test_decode_words :
    Spells [0x01, 0x18, 0x88, 0x02] (.add (sForm 3 4 5)) ∧
    Spells [0x4F, 0xC0, 0x81, 0, 0, 0, 0, 0, 0x78, 0x56, 0x34, 0x12]
      (.addi { lForm 7 8 0 0 0x12345678 with form := .x }) := ⟨rfl, rfl⟩

theorem test_decode_fence : Spells [0x91, 0x04, 0x00, 0x00] (.fence (sForm 0 0 0)) := rfl
theorem test_decode_marm : Spells [0x57, 0xF2, 0x40, 0, 0, 0, 0x20, 0] (.marm (lForm 7 8 0 0 4096)) := rfl
theorem test_decode_crookQ : Spells [0x35, 0x2D, 0x00, 0x00] (.crookQ (sForm 5 0 0)) := rfl
theorem test_decode_nbinit : Spells [0x99, 0x05, 0x8C, 0x03] (.nbinit (sForm 0 6 7)) := rfl
theorem test_decode_spl : Spells [0x27, 0x18, 0, 0, 0, 0x18, 0, 0] (.spl (lForm 0 0 0 0 12)) := rfl
theorem test_decode_rspwn : Spells [0xC5, 0x2D, 0x90, 0x04] (.rspwn (sForm 5 8 9)) := rfl
theorem test_decode_trkc : Spells [0xD5, 0x25, 0x10, 0x00] (.trkc (sForm 4 8 0)) := rfl
theorem test_decode_tlbi : Spells [0x5D, 0x06, 0x10, 0x00] (.tlbiVa (sForm 0 8 0)) ∧
    Spells [0x69, 0x06, 0x00, 0x00] (.tlbiAll (sForm 0 0 0)) := ⟨rfl, rfl⟩
theorem test_decode_phsx : Spells [0x05, 0x06, 0x00, 0x00] (.phsx (sForm 0 0 0)) := rfl

/-! ### Effects: one step on a small state, with the values that the spec's rules and worked examples give -/

/-- The value of a register of a thread in a next state. -/
def regOf (r : Result) (tid n : Nat) : Option Word :=
  match r with
  | .next s => (s.thread? tid).map fun t => (t.reg n).val
  | _ => none

/-- A field of a thread in a next state. -/
def threadOf {α : Type} (r : Result) (tid : Nat) (g : Thread → α) : Option α :=
  match r with
  | .next s => (s.thread? tid).map g
  | _ => none

/-- Something of a next state. -/
def stateOf {α : Type} (r : Result) (g : State → α) : Option α :=
  match r with
  | .next s => some (g s)
  | _ => none

/-- Latency core 256 with the registers given. -/
def latR (rs : List (Nat × Word)) : State := latS (rs.foldl (fun t p => having t p.1 p.2) latT)

/-- R99: the low 32 bits of LIH's source stay; the spec's constant of two instructions. -/
theorem test_li : regOf (exec (.li { lForm 4 0 0 0 0x89ABCDEF with form := .x }) (latR [])) 7 4 =
    some 0xFFFFFFFF89ABCDEF := by decide +kernel
theorem test_lih : regOf (exec (.lih { lForm 4 4 0 0 0x01234567 with form := .x })
    (latR [(4, 0xFFFFFFFF89ABCDEF)])) 7 4 = some 0x0123456789ABCDEF := by decide +kernel
theorem test_add_wraps : regOf (exec (.add (sForm 3 4 5)) (latR [(4, 0xFFFFFFFFFFFFFFFF), (5, 2)])) 7 3 = some 1 := by
  decide +kernel
theorem test_add_w : regOf (exec (.add (mForm 3 4 5 0 0x10)) (latR [(4, 0x7FFFFFFF), (5, 1)])) 7 3 =
    some 0xFFFFFFFF80000000 := by decide +kernel
theorem test_sub_order : regOf (exec (.sub (sForm 3 4 5)) (latR [(4, 3), (5, 5)])) 7 3 = some 0xFFFFFFFFFFFFFFFE := by
  decide +kernel
theorem test_g0_discards : regOf (exec (.add (sForm 0 4 5)) (latR [(4, 3), (5, 5)])) 7 0 = some 0 := by decide +kernel
theorem test_pc_advances : threadOf (exec (.addi (lForm 3 4 0 0 (-1))) (latR [(4, 0)])) 7 Thread.pc = some 0x4008 := by
  decide +kernel
theorem test_addpc : regOf (exec (.addpc (lForm 3 0 0 0 (-8))) (latR [])) 7 3 = some 0x3FF8 := by decide +kernel

/-- R100, the borderline cases. -/
theorem test_div_overflow : regOf (exec (.div (sForm 3 4 5)) (latR [(4, 0x8000000000000000), (5, 0xFFFFFFFFFFFFFFFF)])) 7 3 =
    some 0x8000000000000000 := by decide +kernel
theorem test_divu_zero_w : regOf (exec (.divu (mForm 3 4 5 0 0x10)) (latR [(4, 9), (5, 0x100000000)])) 7 3 =
    some 0xFFFFFFFFFFFFFFFF := by decide +kernel
theorem test_rem_sign : regOf (exec (.rem (sForm 3 4 5)) (latR [(4, -7), (5, 2)])) 7 3 = some (-1) := by decide +kernel
theorem test_mulhsu : regOf (exec (.mulhsu (sForm 3 4 5)) (latR [(4, -1), (5, -1)])) 7 3 = some (-1) := by decide +kernel

/-- R102: the spec's example of a 32-bit result, and a count that is taken modulo 64. -/
theorem test_shr_w : regOf (exec (.shr (mForm 3 4 5 0 0x10)) (latR [(4, 0x80000000), (5, 0)])) 7 3 =
    some 0xFFFFFFFF80000000 := by decide +kernel
theorem test_shl_mod : regOf (exec (.shl (sForm 3 4 5)) (latR [(4, 1), (5, 65)])) 7 3 = some 2 := by decide +kernel
theorem test_rol_w : regOf (exec (.rol (lForm 3 4 0 0x10 4)) (latR [(4, 0xF0000001)])) 7 3 = some 0x1F := by decide +kernel

/-- R103, R104. -/
theorem test_clz_zero_w : regOf (exec (.clz (mForm 3 4 0 0 0x10)) (latR [(4, 0x100000000)])) 7 3 = some 32 := by
  decide +kernel
theorem test_bswap_w : regOf (exec (.bswap (mForm 3 4 0 0 0x10)) (latR [(4, 0x11223384)])) 7 3 = some 0xFFFFFFFF84332211 := by
  decide +kernel
theorem test_bfx_sign : regOf (exec (.bfx (lForm 3 4 0 0 (4 + 4 * 64))) (latR [(4, 0xF0)])) 7 3 = some (-1) := by decide +kernel
theorem test_bfi_keeps : regOf (exec (.bfi (lForm 3 4 0 0 (8 + 8 * 64))) (latR [(3, 0x11111111), (4, 0xAB)])) 7 3 =
    some 0x1111AB11 := by decide +kernel

/-- R105 to R107. -/
theorem test_minu_w : regOf (exec (.minu (mForm 3 4 5 0 0x10)) (latR [(4, 0xFFFFFFFF), (5, 0x80000000)])) 7 3 =
    some 0xFFFFFFFF80000000 := by decide +kernel
theorem test_cmp_ltu : regOf (exec (.cmp (mForm 3 4 5 0 7)) (latR [(4, 1), (5, -1)])) 7 3 = some 1 := by decide +kernel
theorem test_sextB : regOf (exec (.sextB (sForm 3 4 0)) (latR [(4, 0x1280)])) 7 3 = some 0xFFFFFFFFFFFFFF80 := by
  decide +kernel

/-- R57: an empty source with e at 1 traps EMPTY with its field; R385: at firmware level the handler is fvec's. -/
theorem test_empty_trap : threadOf (exec (.add { sForm 3 4 5 with e2 := true })
    (latS (latT.setReg 5 ⟨9, false, false⟩))) 7 (fun t => (t.pc, t.trapcause, t.trapval, t.trappc)) =
    some (0x8000, 3 + 2 * 256, 2, 0x4000) := by decide +kernel
/-- R57: with e at 0 it waits, and nothing happens. -/
theorem test_empty_waits : stateOf (exec (.add (sForm 3 4 5)) (latS (latT.setReg 5 ⟨9, false, false⟩)))
    (fun s => (s.note.blocked, s.threads)) = some (true, (latS (latT.setReg 5 ⟨9, false, false⟩)).threads) := by decide +kernel
theorem test_poison_trap : threadOf (exec (.add (sForm 3 4 5)) (latS (latT.setReg 5 ⟨9, true, true⟩))) 7
    (fun t => (t.trapcause, t.trapval)) = some (10 + 2 * 256, 5) := by decide +kernel

/-- R111, R96: a read of tid; a write of pwait is clamped. -/
theorem test_srd : regOf (exec (.srd (lForm 4 0 0 0 0)) (latR [])) 7 4 = some 7 := by decide +kernel
theorem test_swr_pwait : threadOf (exec (.swr (lForm 0 4 0 0 0x012)) (latR [(4, 70000)])) 7 Thread.pwait = some 65535 := by
  decide +kernel

/-- R109, R110: QBIND and the spec's status word of queue 0x1A2 with 64 words of capacity 64. -/
def boundS (n : Nat) : State :=
  { latS (latT.setPort 3 (.base 0x1A2)) with
    queues := [(0x1A2, aQueue 6 (List.replicate n (5, false)))] }
theorem test_qbind : threadOf (exec (.qbind (lForm 59 0 0 0 0x21A2)) { boundS 1 with threads := [(7, latT)] }) 7
    (fun t => t.port 3) = some (.base 0x1A2) := by decide +kernel
theorem test_qstat : regOf (exec (.qstat (sForm 7 59 0)) (boundS 64)) 7 7 = some 0x434400007E000040 := by decide +kernel
/-- R92: a pop takes the head; a push appends. -/
theorem test_pop : stateOf (exec (.add (sForm 3 59 0)) (boundS 2)) (fun s => ((s.queue 0x1A2).words.length,
    (s.thread? 7).map fun t => (t.reg 3).val)) = some (1, some 5) := by decide +kernel
theorem test_push : stateOf (exec (.add (sForm 59 4 0)) (boundS 2)) (fun s => (s.queue 0x1A2).words.map (·.1)) =
    some [5, 5, 0] := by decide +kernel

/-- R138, R139, R149 to R151: the worked examples. -/
theorem test_fcvt_overflow : threadOf (exec (.fcvtH (mForm 5 6 0 0 0x10)) (latR [(6, 0x47800000)])) 7
    (fun t => ((t.reg 5).val, t.fmode)) = some (0x7C00, 0x50) := by decide +kernel
theorem test_fcvt_rtz : regOf (exec (.fcvtH (mForm 5 6 0 0 0x12)) (latR [(6, 0x47800000)])) 7 5 = some 0x7BFF := by
  decide +kernel
theorem test_fcvtiu_w : regOf (exec (.fcvtiuS (mForm 5 6 0 0 0x08)) (latR [(6, 0x4F32D05E)])) 7 5 =
    some 0xFFFFFFFFB2D05E00 := by decide +kernel
theorem test_pdot : regOf (exec (.pdot (mForm 9 6 7 9 2)) (latR [(6, 0x7F7F7F7F7F7F7F7F), (7, 0x7F7F7F7F7F7F7F7F)])) 7 9 =
    some 0x1F808 := by decide +kernel
theorem test_pdot_sat : regOf (exec (.pdot (mForm 9 6 7 9 2))
    (latR [(6, 0x7F7F7F7F7F7F7F7F), (7, 0x7F7F7F7F7F7F7F7F), (9, 0x7FFF0000)])) 7 9 = some 0x7FFFFFFF := by decide +kernel
theorem test_pdot_wraps : regOf (exec (.pdot (mForm 9 6 7 9 0))
    (latR [(6, 0x7F7F7F7F7F7F7F7F), (7, 0x7F7F7F7F7F7F7F7F), (9, 0x7FFF0000)])) 7 9 = some 0xFFFFFFFF8000F808 := by
  decide +kernel
theorem test_pscl : threadOf (exec (.pscl (mForm 11 9 10 0 0)) (latR [(9, 0x1F808), (10, 0x38800000)])) 7
    (fun t => ((t.reg 11).val, t.fmode)) = some (0x40FC0400, 0) := by decide +kernel
theorem test_pdotf : threadOf (exec (.pdotfE4 (mForm 9 6 7 9 0)) (latR [(6, 0x3838), (7, 0x3038), (9, 0x4B800000)])) 7
    (fun t => ((t.reg 9).val, t.fmode)) = some (0x4B800001, 0x10) := by decide +kernel
theorem test_pdotf_math : threadOf (exec (.pdotfE4 (mForm 9 6 7 9 0))
    (latS { having (having (having latT 6 0x3838) 7 0x3038) 9 0x4B800000 with fmode := 0x1000 })) 7
    (fun t => ((t.reg 9).val, t.fmode, t.trapcause, t.trapval)) = some (0x4B800000, 0x1000, 13 + 512, 1) := by
  decide +kernel
/-- R141: -0.3 under rtz rounds to -0; R133: 1 / 0 is infinity with DZ. -/
theorem test_frnd : regOf (exec (.frndS (mForm 5 6 0 0 2)) (latR [(6, 0xBE99999A)])) 7 5 = some 0x80000000 := by
  decide +kernel
theorem test_fdiv : threadOf (exec (.fdivS (sForm 5 6 7)) (latR [(6, 0x3F800000), (7, 0)])) 7
    (fun t => ((t.reg 5).val, t.fmode)) = some (0x7F800000, 0x80) := by decide +kernel

/-- R144 to R147. -/
theorem test_padd_sat : regOf (exec (.padd (mForm 3 4 5 0 2)) (latR [(4, 0x7F80), (5, 0x01FF)])) 7 3 = some 0x7F80 := by
  decide +kernel
theorem test_pshuf_zero : regOf (exec (.pshuf (sForm 3 4 5)) (latR [(4, 0x8877665544332211), (5, 0x88888880)])) 7 3 =
    some 0x11 := by decide +kernel

/-- R157, R158: a taken branch; JALR reads its base before it writes the link; a target with bit 0 set traps ALIGN. -/
theorem test_br : threadOf (exec (.br (lForm 0 4 5 3 (-24))) (latR [(4, -1), (5, 0)])) 7 Thread.pc = some 0x3FE8 := by
  decide +kernel
theorem test_jalr : threadOf (exec (.jalr (lForm 4 4 0 0 8)) (latR [(4, 0x5000)])) 7
    (fun t => (t.pc, (t.reg 4).val)) = some (0x5008, 0x4008) := by decide +kernel
theorem test_jmp_align : threadOf (exec (.jmp (lForm 0 0 0 0 1)) (latR [])) 7 (fun t => (t.pc, t.trapcause, t.trapval)) =
    some (0x8000, 5 + 512 + 1024, 0x4001) := by decide +kernel
/-- R169, R171: a system call from user level enters svec's handler, trappc past it; ERET.s goes back. -/
theorem test_sysc : threadOf (exec (.sysc (sForm 0 0 0)) (latS { latT with plvl := .user })) 7
    (fun t => (t.pc, t.plvl, t.trapcause, t.trappc)) = some (0x9000, .supervisor, 14, 0x4004) := by decide +kernel
theorem test_eret : threadOf (exec (.eretS (sForm 0 0 0)) (latS { latT with trappc := 0x4004, plvl := .supervisor })) 7
    (fun t => (t.pc, t.plvl)) = some (0x4004, .user) := by decide +kernel
theorem test_privilege : threadOf (exec (.eretS (sForm 0 0 0)) (latS { latT with plvl := .user })) 7
    (fun t => (t.pc, t.trapcause)) = some (0x9000, 2) := by decide +kernel
/-- R387: a trap of a weft's lane parks that lane alone. -/
theorem test_lane_parks : stateOf (exec (.brk (lForm 0 0 0 0 5)) (wS wBolt [wT 0]))
    (fun s => ((s.thread? 9).map fun t => (t.sub, t.trapcause, t.trapval), (s.wcore 0).reports.length)) =
    some (some (.faultParked, 15, 5), 1) := by decide +kernel

/-- R192, R193: a word of the scratchpad, stored and loaded. -/
theorem test_sts : stateOf (exec (.stsW (sForm 0 8 5)) (wS wBolt [having (having (wT 0) 8 64) 5 0x11223344]))
    (fun s => (s.bolt? 1).map fun b => memBytes b.spad 63 6) = some (some [0, 0x44, 0x33, 0x22, 0x11, 0]) := by
  decide +kernel
theorem test_lds : stateOf (exec (.ldsH (sForm 5 8 0))
    (wS { wBolt with spad := [(64, 0x34), (65, 0x92)] } [having (wT 0) 8 64])) (fun s => s.pend.map Pend.phase) =
    some [.ready 0x9234 0 false] := by decide +kernel
/-- R394, R405: a word with signal number 0 is refused with 3. -/
theorem test_sig_refused : regOf (exec (.sig (sForm 5 8 9)) (latR [(8, 7), (9, 64)])) 7 5 = some 0x8000000000000003 := by
  decide +kernel

/-! ### Hypotheses met: a state and operands for every statement -/

theorem witness_AdditionAndConstants : ∀ e ∈ [(rAlu, sForm 3 4 5), (rAlu, mForm 3 4 5 0 0x10), (rAddi, lForm 3 4 0 0 1),
    (rLi, lForm 3 0 0 0 1), (rLih, { lForm 3 4 0 0 1 with form := .x })], ReadyAlone (latS latT) latT e.1 e.2 false :=
  readyAlone_all (by decide +kernel)

/-- A port as a source and as the destination. -/
theorem witness_ports :
    PortsReady (boundS 2) rAlu (sForm 3 59 4) false true [(0, latT.setPort 3 (.base 0x1A2))] ∧
    PortsReady (boundS 2) rAlu (sForm 59 4 5) false true [(0, latT.setPort 3 (.base 0x1A2))] :=
  ⟨portsReady_of (by decide +kernel), portsReady_of (by decide +kernel)⟩

/-- Two lanes of a weft. -/
theorem witness_twoLanes : Ready (wS wBolt [wT 0, wT 1]) rAlu (sForm 3 4 5) false (lanesIn [wT 0, wT 1]) :=
  ready_of (by decide +kernel)

theorem witness_encodings : (Instr.add (sForm 3 4 5)).wellFormed = true ∧ (Instr.bfi (lForm 3 4 0 0 64)).wellFormed = true ∧
    (Instr.cmp (mForm 3 0 0 0 0)).wellFormed = true ∧ (Instr.cmpi (lForm 3 0 0 0 0)).wellFormed = true ∧
    (Instr.shl (lForm 3 4 0 0x10 31)).wellFormed = true := by decide +kernel

theorem witness_MultiplicationAndDivision : ReadyAlone (latS latT) latT rAlu (sForm 3 4 5) false :=
  readyAlone_of (by decide +kernel)

theorem witness_LogicAndShifts : ∀ e ∈ [(rLogic, sForm 3 4 5), (rLogic, lForm 3 4 0 0 1), (rShift, mForm 3 4 5 0 0x10),
    (rShift, lForm 3 4 0 0 63)], ReadyAlone (latS latT) latT e.1 e.2 false := readyAlone_all (by decide +kernel)

theorem witness_BitCountingAndFields : (∀ e ∈ [(rUnary, sForm 3 4 0), (rBfx, lForm 3 4 0 0 64), (rBfx, mForm 3 4 5 6 0)],
    ReadyAlone (latS latT) latT e.1 e.2 false) ∧
    Meets (latS latT) latT rBfi (mForm 3 4 5 6 0) false true (fun _ l => (l.thread.reg 3).poison = false) :=
  ⟨readyAlone_all (by decide +kernel), meets_of (by decide +kernel) (by decide +kernel)⟩

theorem witness_SelectionComparisonAndMoves : ∀ e ∈ [(rAlu, sForm 3 4 5), (rUnary, sForm 3 4 0), (rSel, mForm 3 4 5 6 0),
    (rCmp, mForm 3 4 5 0 10), (rCmp, sForm 3 0 0), (rCmpi, lForm 3 4 0 1 7), (rMov, sForm 3 4 0)],
    ReadyAlone (latS latT) latT e.1 e.2 false := readyAlone_all (by decide +kernel)

theorem witness_NopAndRegionMark : ReadyAlone (latS latT) latT rNone (sForm 0 0 0) false := readyAlone_of (by decide +kernel)

theorem witness_ResultsChangeNothingElse : Ready (wS wBolt [wT 0, wT 1]) rFloat2 (sForm 3 4 5) false (lanesIn [wT 0, wT 1]) ∧
    (∀ p ∈ lanesIn [wT 0, wT 1], p.2.fmode.toNat / 2 ^ 12 % 32 = 0) :=
  ⟨ready_of (by decide +kernel), by decide +kernel⟩

/-- A load of thread 7 to register 5 in flight, its checks pending. -/
def aPend : Pend :=
  { id := 3, tid := 7, rd := 5, pair := false, kind := .load, va := 0x10000, size := 8, signed := false, pc := 0x4000,
    sc := false, phase := .walk }

theorem witness_FullBits :
    Meets (latS latT) latT rEmpt (sForm 0 5 0) false true (fun s l => NothingAims s l.tid 5) ∧
    ReadyAlone (latS latT) latT rTstf (sForm 3 5 0) false ∧
    (Ready { latS latT with pend := [aPend] } rEmpt (sForm 0 5 0) false [(0, latT)] ∧
      ∃ p ∈ [(0, latT)], ¬ NothingAims { latS latT with pend := [aPend] } p.2.tid 5) := by
  refine ⟨meets_of (by decide +kernel) fun x hx => ?_, readyAlone_of (by decide +kernel), ready_of (by decide +kernel),
    _, List.mem_cons_self, fun h => ?_⟩
  · simp [latS, blank, State.reset] at hx
  · exact (h aPend (by simp) rfl).1 rfl

theorem witness_QueueBindings :
    Meets { boundS 1 with threads := [(7, latT)] } latT rQbind (lForm 59 0 0 0 0x21A2) false false
      (fun s l => (bindingOf s (lForm 59 0 0 0 0x21A2) l).isSome) ∧
    Meets (latS latT) latT rQbind (lForm 59 0 0 0 0x6000) false false
      (fun s l => (bindingOf s (lForm 59 0 0 0 0x6000) l).isSome) ∧
    Meets (latS latT) latT rQunb (sForm 0 59 0) false true (fun _ _ => True) ∧
    Meets (latS latT) latT rQstat (sForm 7 59 0) false true
      (fun _ l => l.thread.onLatency = false ∨ ∀ n, l.thread.port 3 ≠ .chan n) :=
  ⟨meets_of (by decide +kernel) (by decide +kernel), meets_of (by decide +kernel) (by decide +kernel),
    meets_of (by decide +kernel) trivial, meets_of (by decide +kernel) (.inr fun n h => by
      have : (laneFor (latS latT) latT rQstat (sForm 7 59 0)).thread.port 3 = .unbound := by decide +kernel
      rw [this] at h; cases h)⟩

/-- A bolt with a channel of four words, of which one is in it. -/
def chanBolt : Bolt := { wBolt with chans := [(2, ⟨1, 0, 3, 2⟩)] }

theorem witness_QueueWords : 2 ≤ ((boundS 2).queue 0x1A2).words.length ∧ (latS latT).thread? 7 = some latT ∧ latT.tid = 7 ∧
    (Memory.wf chanBolt.spad = true ∧ (wS chanBolt [wT 0]).bolt? chanBolt.id = some chanBolt ∧
      chanBolt.chan? 2 = some ⟨1, 0, 3, 2⟩ ∧ (⟨1, 0, 3, 2⟩ : Chan).occ < 2 ^ 2) := by decide +kernel

theorem witness_SystemRegisters :
    (PortsReady (latS latT) rSrd (lForm 3 0 0 0 0x81A) false true [(0, latT)] ∧
      ∃ lvl, sysReadLevel 0x81A = some lvl ∧ ∀ p ∈ [(0, latT)], lvl ≤ p.2.plvl.code) ∧
    (PortsReady (latS latT) rSwr (lForm 0 4 0 0 0x012) false false [(0, latT)] ∧
      (∃ lvl, sysWriteLevel 0x012 = some lvl ∧ ∀ p ∈ [(0, latT)], lvl ≤ p.2.plvl.code) ∧
      ∃ e ∈ threadWrites 0, e.1 = 0x012) ∧
    (PortsReady (latS latT) rSwr (lForm 0 4 0 0 0x80A) false false [(0, latT)] ∧
      (∃ lvl, sysWriteLevel 0x80A = some lvl ∧ ∀ p ∈ [(0, latT)], lvl ≤ p.2.plvl.code) ∧
      ∀ e ∈ threadWrites 0, e.1 ≠ 0x80A) := by
  refine ⟨⟨portsReady_of (by decide +kernel), 1, by decide +kernel⟩,
    ⟨portsReady_of (by decide +kernel), ⟨0, by decide +kernel⟩, ?_⟩, portsReady_of (by decide +kernel),
    ⟨2, by decide +kernel⟩, ?_⟩
  · exact ⟨(threadWrites 0)[3], List.getElem_mem _, rfl⟩
  · simp [threadWrites]

theorem witness_FloatingPointInstructions :
    Meets (latS latT) latT rFloat2 (sForm 3 4 5) false true
      (fun _ l => l.thread.fmode.toNat / 2 ^ 12 % 32 &&& (compared fp64 3 l.a l.b).2 = 0) ∧
    (∀ e ∈ [(rFfma, mForm 3 4 5 6 0), (rFloat1, sForm 3 4 0), (rFmin, sForm 3 4 5), (rFcmp, mForm 3 4 5 0 3),
      (rFcvt 0, mForm 3 4 0 0 0x10), (rFcvti, sForm 3 4 0), (rMov, sForm 3 4 0), (rSel, mForm 3 4 5 6 0),
      (rPscl, mForm 3 4 5 0 0)], ReadyAlone (latS latT) latT e.1 e.2 false) :=
  ⟨meets_of (by decide +kernel) (by decide +kernel), readyAlone_all (by decide +kernel)⟩

/-- A lane whose division by zero meets an enabled trap. -/
theorem witness_mathTrap :
    let t : Thread := { having (having latT 4 0x3F800000) 5 0 with fmode := 0x8000 }
    let f := sForm 3 4 5
    PortsReady (latS t) rFloat2 f false true [(0, t)] ∧
    mathTrap (fun l => fp32.div (modeFor f l.thread) (valueIn fp32 l.a) (valueIn fp32 l.b)) (laneFor (latS t) t rFloat2 f) =
      some ⟨.math, 8, false⟩ ∧ trapWaits (latS t) 7 ⟨.math, 8, false⟩ = false :=
  ⟨portsReady_of (by decide +kernel), by decide +kernel, by decide +kernel⟩

/-- 1.0, -1.0 and +0 in binary32, and the three special operands. -/
theorem witness_ResultsRoundOnce :
    (∃ x, realOf (fp32.decode 0x3F800000) = some x ∧ x ≠ 0 ∧ 0 < x) ∧ (∃ x, realOf (fp32.decode 0xBF800000) = some x ∧ x < 0) ∧
    (∃ x, realOf (fp32.decode 0) = some x) ∧ (fp32.decode 0).isZero = true ∧ (fp32.decode 0x7FC00000).isNan = true ∧
    (fp32.decode 0x7F800000).isInf = true ∧ (5 : Int).natAbs < 2 ^ 64 := by
  have h1 : fp32.decode 0x3F800000 = .fin false 8388608 (-23) := by decide +kernel
  have h2 : fp32.decode 0xBF800000 = .fin true 8388608 (-23) := by decide +kernel
  have h3 : fp32.decode 0 = .fin false 0 (-149) := by decide +kernel
  refine ⟨⟨_, by rw [h1]; rfl, ?_, ?_⟩, ⟨_, by rw [h2]; rfl, ?_⟩, ⟨_, by rw [h3]; rfl⟩, by decide +kernel, by decide +kernel,
    by decide +kernel, by decide +kernel⟩ <;> norm_num

theorem witness_FloatToIntegerClassAndSign :
    Meets (latS latT) latT rFcvti (sForm 3 4 0) false true
      (fun _ l => l.thread.fmode.toNat / 2 ^ 12 % 32 &&& (integerOf fp64 false (sForm 3 4 0) l).2 = 0) ∧
    (∀ e ∈ [(rFclass, mForm 3 4 0 0 0x10), (rFsgn, mForm 3 4 5 0 0x90)], ReadyAlone (latS latT) latT e.1 e.2 false) ∧
    (-(2 ^ 31) : Int) ≤ 0 ∧ (0 : Int) < 2 ^ 31 - 1 :=
  ⟨meets_of (by decide +kernel) (by decide +kernel), readyAlone_all (by decide +kernel), by decide, by decide⟩

theorem witness_PackedInstructions :
    (∀ e ∈ [(rPackSat, mForm 3 4 5 0 3), (rPack, sForm 3 4 5), (rPack1, mForm 3 4 0 0 1), (rPcmp, mForm 3 4 5 0 (10 * 4)),
      (rPshuf, { lForm 3 4 0 0 7 with form := .x }), (rPdot, mForm 3 4 5 6 2), (rSel, mForm 3 4 5 6 0),
      (rPscl, mForm 3 4 5 0 5)], ReadyAlone (latS latT) latT e.1 e.2 false) ∧
    saturates (mForm 3 4 0 0 1) = false ∧ (mForm 3 4 5 0 (10 * 4)).mod.toNat / 4 % 16 ≤ 10 :=
  ⟨readyAlone_all (by decide +kernel), by decide +kernel, by decide +kernel⟩

theorem witness_BranchesAndJumps :
    Meets (latR [(4, 1), (5, 2)]) (having (having latT 4 1) 5 2) rBr (lForm 0 4 5 3 (-24)) false false
      (fun _ l => condAt 3 false l.a l.b = true → (l.thread.pc + (-24 : BitVec 32).signExtend 64).getLsbD 0 = false) ∧
    (∀ e ∈ [(rBrz, lForm 0 4 0 0 8), (rJmp, lForm 0 0 0 0 8), (rJal, lForm 4 0 0 0 8), (rJalr, lForm 4 5 0 0 8)],
      ReadyAlone (latS latT) latT e.1 e.2 false) ∧
    (PortsReady (latS latT) rJalr (lForm 4 5 0 0 9) false false [(0, latT)] ∧
      ((laneFor (latS latT) latT rJalr (lForm 4 5 0 0 9)).a + (9 : BitVec 32).signExtend 64).getLsbD 0 = true) :=
  ⟨meets_of (by decide +kernel) (by decide +kernel), readyAlone_all (by decide +kernel),
    portsReady_of (by decide +kernel), by decide +kernel⟩

theorem witness_YieldingAndWaiting :
    Meets (latS latT) latT rNone (sForm 0 0 0) false true (fun _ _ => True) ∧
    Meets (latS latT) latT rWaitf (sForm 0 5 0) false true (fun _ l => (l.thread.reg 5).full = true) ∧
    Meets (boundS 2) (latT.setPort 3 (.base 0x1A2)) rWaitf (sForm 0 59 0) false true
      (fun s l => ∃ q, s.portQueue l.thread 59 = .ok q ∧ s.queueWords q ≠ []) ∧
    Meets (boundS 2) (latT.setPort 3 (.base 0x1A2)) rQunb (sForm 0 59 0) false true
      (fun s l => ∃ q, s.portQueue l.thread 59 = .ok q ∧ (s.queueWords q).length < s.queueCap q) ∧
    Alone (latS (latT.setReg 5 ⟨0, false, false⟩)) (latT.setReg 5 ⟨0, false, false⟩) rWaitf (sForm 0 5 0) false true
      (fun _ l => (l.thread.reg 5).full = false) ∧
    Alone (boundS 0) (latT.setPort 3 (.base 0x1A2)) rWaitf (sForm 0 59 0) false true
      (fun s l => ∃ q, s.portQueue l.thread 59 = .ok q ∧ s.queueWords q = []) ∧
    Alone (boundS 64) (latT.setPort 3 (.base 0x1A2)) rQunb (sForm 0 59 0) false true
      (fun s l => ∃ q, s.portQueue l.thread 59 = .ok q ∧ ¬ (s.queueWords q).length < s.queueCap q) ∧
    Alone (latS latT) latT rQunb (sForm 0 59 0) false true
      (fun s l => (match s.portQueue l.thread 59 with | .error tr => some tr | .ok _ => none) = some ⟨.prot, 59, false⟩) := by
  refine ⟨meets_of (by decide +kernel) trivial, meets_of (by decide +kernel) (by decide +kernel),
    meets_of (by decide +kernel) ⟨.base 0x1A2, rfl, by decide +kernel⟩,
    meets_of (by decide +kernel) ⟨.base 0x1A2, rfl, by decide +kernel⟩,
    alone_of (by decide +kernel) (by decide +kernel),
    alone_of (by decide +kernel) ⟨.base 0x1A2, rfl, by decide +kernel⟩,
    alone_of (by decide +kernel) ⟨.base 0x1A2, rfl, by decide +kernel⟩,
    alone_of (by decide +kernel) (by decide +kernel)⟩

/-- The other member of the weft waits at a REJOIN, or does not. -/
theorem witness_RejoinWaitsForAll :
    (Ready (latS latT) rNone (sForm 0 0 0) false [(0, latT)] ∧ latT.onLatency = true) ∧
    ∀ o ∈ [{ wT 1 with pc := 0x5000 }, { wT 1 with sub := .rejoin 4 }],
      let s := wS wBolt [wT 0, o]
      s.cur = .weft 0 0 0x4000 ∧ Ready s rNone (sForm 0 0 0) false [(0, wT 0)] ∧ (wT 0).onLatency = false ∧
      s.weft? 0 0 = some (wWeft [wT 0, o]) ∧ (s.memberThreads (wWeft [wT 0, o])).Perm ([o] ++ [(0, wT 0)].map (·.2)) ∧
      ((s.memberThreads (wWeft [wT 0, o])).map Thread.tid).Nodup ∧ s.thread? o.tid = some o := by
  refine ⟨⟨ready_of (by decide +kernel), by decide +kernel⟩, fun o ho => ?_⟩
  simp only [List.mem_cons, List.not_mem_nil, or_false] at ho
  rcases ho with rfl | rfl
  · exact ⟨rfl, ready_of (by decide +kernel), by decide +kernel, by decide +kernel, by decide +kernel, by decide +kernel,
      by decide +kernel⟩
  · exact ⟨rfl, ready_of (by decide +kernel), by decide +kernel, by decide +kernel, by decide +kernel, by decide +kernel,
      by decide +kernel⟩

theorem witness_TrapsOnPurpose :
    (∀ e ∈ [(rNone, sForm 0 0 0), (rBrk, lForm 0 0 0 0 5)], PortsReady (latS latT) e.1 e.2 true false [(0, latT)]) ∧
    trapWaits (latS latT) 7 ⟨.sysc, 0, false⟩ = false ∧
    Alone (latS latT) latT rTrap (lForm 0 4 5 1 3) false false
      (fun s l => condAt 1 false l.a l.b ∧ s.hasUnchecked l.tid = false) ∧
    Meets (latS latT) latT rTrap (lForm 0 4 5 2 3) false false (fun _ l => condAt 2 false l.a l.b = false) ∧
    Meets (latS { latT with trappc := 0x5000 }) { latT with trappc := 0x5000 } (rNone.at 1) (sForm 0 0 0) false true
      (fun _ l => l.thread.trappc.getLsbD 0 = false ∧ l.thread.trappc ≠ l.thread.retPoint) ∧
    Meets (latS latT) latT (rSrc1.at 2) (sForm 0 4 0) false false (fun _ l => l.thread.trappc.getLsbD 0 = false) ∧
    (∀ e ∈ [(rNone.at 1, sForm 0 0 0, true), (rSrc1.at 2, sForm 0 4 0, false)],
      Alone (latS { latT with trappc := 0x5001 }) { latT with trappc := 0x5001 } e.1 e.2.1 false e.2.2
        (fun _ l => l.thread.trappc.getLsbD 0 = true)) := by
  refine ⟨fun e he => ?_, by decide +kernel, alone_of (by decide +kernel) (by decide +kernel),
    meets_of (by decide +kernel) (by decide +kernel), meets_of (by decide +kernel) (by decide +kernel),
    meets_of (by decide +kernel) (by decide +kernel), fun e he => ?_⟩ <;>
  · simp only [List.mem_cons, List.not_mem_nil, or_false] at he
    rcases he with rfl | rfl
    · first | exact portsReady_of (by decide +kernel) | exact alone_of (by decide +kernel) (by decide +kernel)
    · first | exact portsReady_of (by decide +kernel) | exact alone_of (by decide +kernel) (by decide +kernel)

/-- A thread of a bolt that was extracted and stands at its return point. -/
def extracted : Thread :=
  { wT 0 with loc := .latency 256, plvl := .supervisor, trappc := 0x5000, retPoint := 0x5000, xr := true }

theorem witness_ReturnOfExtractedThread : extracted.loc = .latency 256 ∧ extracted.trappc.getLsbD 0 = false ∧
    Ready (latS extracted) (rNone.at 1) (sForm 0 0 0) false [(0, extracted)] ∧ extracted.trappc = extracted.retPoint ∧
    (extracted.xr = true ∧ (latS extracted).performed 9 = true ∧ (latS extracted).loadsDone 9 = true) ∧
    ({ latS extracted with pend := [{ aPend with tid := 9 }] } : State).loadsDone 9 = false ∧
    Ready { latS extracted with pend := [{ aPend with tid := 9 }] } (rNone.at 1) (sForm 0 0 0) false [(0, extracted)] ∧
    Ready (latS { extracted with xr := false }) (rNone.at 1) (sForm 0 0 0) false [(0, { extracted with xr := false })] :=
  ⟨rfl, by decide +kernel, ready_of (by decide +kernel), rfl, by decide +kernel, by decide +kernel,
    ready_of (by decide +kernel), ready_of (by decide +kernel)⟩

theorem witness_Migration :
    (PortsReady (latS latT) rNone (sForm 0 0 0) true false [(0, latT)] ∧ latT.lost = none ∧ (latS latT).performed 7 = true ∧
      (latS latT).loadsDone 7 = true ∧ latT.onLatency = true ∧ latT.boltCore = none) ∧
    Meets (latR [(4, 256)]) (having latT 4 256) rSrc1 (sForm 0 4 0) true false
      (fun s l => l.a.toNat % 2 ^ 16 = s.cur.core) ∧
    Meets (latR [(4, 303)]) (having latT 4 303) rSrc1 (sForm 0 4 0) true false
      (fun s l => 256 ≤ l.a.toNat % 2 ^ 16 ∧ l.a.toNat % 2 ^ 16 < 304 ∧ l.thread.lost = none ∧ s.performed l.tid = true ∧
        (l.thread.onLatency = true → s.loadsDone l.tid = true)) ∧
    Meets (latR [(4, 143)]) (having latT 4 143) rSrc1 (sForm 0 4 0) true false
      (fun _ l => l.a.toNat % 2 ^ 16 < 144 ∧ l.thread.boltCore = none) ∧
    Meets (wS wBolt [wT 0]) (wT 0) rNone (sForm 0 0 0) true false
      (fun s l => l.thread.onLatency = false ∧ l.thread.lost = none ∧ s.performed l.tid = true) ∧
    Alone { latS latT with pend := [{ aPend with phase := .home 0 0 0 }] } latT rNone (sForm 0 0 0) true false
      (fun s l => l.thread.lost = none ∧ s.performed l.tid = false) ∧
    Alone (latR [(4, 144)]) (having latT 4 144) rSrc1 (sForm 0 4 0) true false
      (fun s l => ¬ (l.a.toNat % 2 ^ 16 = s.cur.core ∨ (256 ≤ l.a.toNat % 2 ^ 16 ∧ l.a.toNat % 2 ^ 16 < 304) ∨
        (l.a.toNat % 2 ^ 16 < 144 ∧ (l.thread.boltCore = none ∨ l.thread.boltCore = some (l.a.toNat % 2 ^ 16))))) ∧
    ((wS wBolt [wT 0]).thread? (wT 0).tid = some (wT 0) ∧ (wT 0).loc = .member 0 0 0) :=
  ⟨⟨portsReady_of (by decide +kernel), by decide +kernel⟩, meets_of (by decide +kernel) (by decide +kernel),
    meets_of (by decide +kernel) (by decide +kernel), meets_of (by decide +kernel) (by decide +kernel),
    meets_of (by decide +kernel) (by decide +kernel), alone_of (by decide +kernel) (by decide +kernel),
    alone_of (by decide +kernel) (by decide +kernel), by decide +kernel⟩

theorem witness_TrapEntry :
    ((latS latT).thread? latT.tid = some latT ∧ latT.loc = .latency 256 ∧ ¬ (Cause.prot = .needw ∧ latT.nw = true) ∧
      latT.plvl = .firmware ∧ ((latS latT).lcore 256).busy = false) ∧
    (({ latT with plvl := .user } : Thread).plvl = .user ∧ Cause.prot ≠ .mchk) ∧
    ((latS latT).putL 256 { (latS latT).lcore 256 with busy := true }).lcore 256 =
      { (latS latT).lcore 256 with busy := true } ∧
    ((wS wBolt [wT 0]).thread? (wT 0).tid = some (wT 0) ∧ (wT 0).loc = .member 0 0 0) := by decide +kernel

theorem witness_ChecksBeforeIssue :
    (LaneGroup (latS latT) [(0, latT)] ∧ touchesPort rAlu (sForm 3 4 5) = false) ∧
    (LaneGroup (latS { latT with plvl := .user }) [(0, { latT with plvl := .user })] ∧
      ({ latT with plvl := .user } : Thread).plvl.code < (rSrc1.at 2).level) ∧
    (∃ m ∈ allNamed rAlu (sForm 3 55 5), 8 * (latS { latT with blocks := 6 }).blockCount { latT with blocks := 6 } ≤ m) ∧
    (∃ us u vs, usesOf rAlu { sForm 3 4 5 with e2 := true } = us ++ u :: vs ∧ u.e = true ∧
      (∃ m ∈ u.regs, ((latT.setReg 5 ⟨0, false, false⟩).reg m).full = false) ∧
      ∀ v ∈ us, v.e = true → ∀ m ∈ v.regs, ((latT.setReg 5 ⟨0, false, false⟩).reg m).full = true) ∧
    (∃ m ∈ writeRegs rAlu (sForm 3 4 5), ((latT.setReg 3 ⟨0, false, false⟩).reg m).full = false) ∧
    (∃ ms m ns, readRegs rAlu (sForm 3 4 5) = ms ++ m :: ns ∧ ((latT.setReg 5 ⟨0, true, true⟩).reg m).poison = true ∧
      ∀ k ∈ ms, ((latT.setReg 5 ⟨0, true, true⟩).reg k).poison = false) :=
  ⟨⟨group_of (by decide +kernel), by decide +kernel⟩, ⟨group_of (by decide +kernel), by decide +kernel⟩,
    ⟨55, by decide +kernel⟩, ⟨[⟨1, .reg, 4, false⟩], ⟨2, .reg, 5, true⟩, [], by decide +kernel⟩, ⟨3, by decide +kernel⟩,
    ⟨[4], 5, [], by decide +kernel⟩⟩

theorem witness_PortsThatStopALane :
    let t := latT.setPort 3 (.base 0x1A2)
    let inbox := latT.setPort 3 .inbox
    (LaneGroup (boundS 0) [(0, t)] ∧ LaneReady (boundS 0) rAlu (sForm 3 59 4) true t ∧
      touchesPort rAlu (sForm 3 59 4) = true ∧ (boundS 0).portQueue t 59 = .ok (.base 0x1A2) ∧
      (boundS 0).queueWords (.base 0x1A2) = []) ∧
    (LaneGroup (latS latT) [(0, latT)] ∧ LaneReady (latS latT) rAlu (sForm 3 59 4) true latT ∧
      (latS latT).portQueue latT 59 = .error ⟨.prot, 59, false⟩) ∧
    (LaneGroup (latS inbox) [(0, inbox)] ∧ pushesRd rAlu (sForm 59 4 5) = true ∧
      (latS inbox).portQueue inbox 59 = .ok (.inbox 7)) ∧
    (LaneGroup (boundS 64) [(0, t)] ∧ pushesRd rAlu (sForm 59 4 5) = true ∧
      (boundS 64).queueCap (.base 0x1A2) ≤ ((boundS 64).queueWords (.base 0x1A2)).length) ∧
    ((wT 0).port 3 = .unbound ∧ ((wT 0).setPort 3 (.chan 2)).port 3 = .chan 2 ∧ (wT 0).bolt = some 1) :=
  ⟨⟨group_of (by decide +kernel), laneReady_of (by decide +kernel), by decide +kernel, rfl, by decide +kernel⟩,
    ⟨group_of (by decide +kernel), laneReady_of (by decide +kernel), rfl⟩,
    ⟨group_of (by decide +kernel), by decide +kernel, rfl⟩, ⟨group_of (by decide +kernel), by decide +kernel⟩,
    by decide +kernel⟩

/-- A load whose value is ready. -/
def readyPend : Pend := { aPend with phase := .ready 11 12 false }

theorem witness_AsynchronousResults :
    (∀ p ∈ [aPend, { aPend with rd := 0 }, { aPend with rd := 54, pair := true, size := 16 }],
      (latS latT).thread? latT.tid = some latT ∧ p.tid = latT.tid ∧ p.rd < 56 ∧ (p.pair = true → p.rd < 55)) ∧
    (readyPend.phase = .ready 11 12 false ∧
      ({ latS latT with pend := [readyPend] } : State).pend.find? (fun q => q.id == readyPend.id) = some readyPend) ∧
    (∀ p, (latS latT).pend.find? (fun q => q.id == 3) = some p → ∀ lo hi poison, p.phase ≠ .ready lo hi poison) := by
  refine ⟨by decide +kernel, ⟨rfl, by decide +kernel⟩, fun p hp => ?_⟩
  simp [latS, blank, State.reset] at hp

/-- The scratchpad accesses with their sizes, each at the last place of an allotment of 65536 bytes. -/
def spadForms : List (OpRule × Nat × Nat) :=
  [(rLds, 1, 65535), (rLds, 2, 65534), (rLds, 4, 65532), (rLds, 8, 65528), (rLdsQ, 16, 65520), (rSts, 1, 65535),
    (rSts, 2, 65534), (rSts, 4, 65532), (rSts, 8, 65528), (rStsQ, 16, 65520)]

/-- A scratchpad access at the last place of the allotment of 65536 bytes, one past it and one misaligned; one where an
acquire is pending; and one of a thread on a latency core. -/
theorem witness_ScratchpadLoadsAndStores :
    let s := wS wBolt [wT 0]
    let t := wT 0
    let acq : State := { s with pend := [{ aPend with tid := 9, kind := .acquire, phase := .home 0 0 0 }] }
    (∀ e ∈ spadForms, Meets s t e.1 (lForm 4 6 8 0 (BitVec.ofNat 32 e.2.2)) false false
      (fun s l => SpadFree s l (addressOf (lForm 4 6 8 0 (BitVec.ofNat 32 e.2.2)) l) e.2.1 true)) ∧
    Alone s t rLds (lForm 4 6 0 0 65536) false false
      (fun s l => spadTrap s l (addressOf (lForm 4 6 0 0 65536) l) 8 = some ⟨.prot, 65536, false⟩) ∧
    Alone s t rLds (lForm 4 6 0 0 (-8)) false false
      (fun s l => spadTrap s l (addressOf (lForm 4 6 0 0 (-8)) l) 8 = some ⟨.prot, -8, false⟩) ∧
    Alone s t rLds (lForm 4 6 0 0 12) false false
      (fun s l => spadTrap s l (addressOf (lForm 4 6 0 0 12) l) 8 = some ⟨.align, 12, false⟩) ∧
    Alone (latS latT) latT rLds (lForm 4 6 0 0 8) false false
      (fun s l => spadTrap s l (addressOf (lForm 4 6 0 0 8) l) 8 = some ⟨.needw, 0x4000, false⟩) ∧
    Alone acq t rLds (lForm 4 6 0 0 8) false false (fun s l => ∃ b o,
      spadAt s l (addressOf (lForm 4 6 0 0 8) l) 8 = some (b, o) ∧
        (s.acquirePending l.tid = true ∨ s.spWaits b.id o 8 false = true)) ∧
    trapWaits s 9 ⟨.prot, 65536, false⟩ = false ∧ Memory.wf wBolt.spad = true := by
  have h : ∀ e ∈ spadForms, let f := lForm 4 6 8 0 (BitVec.ofNat 32 e.2.2)
      let l := laneFor (wS wBolt [wT 0]) (wT 0) e.1 f
      spadAt (wS wBolt [wT 0]) l (addressOf f l) e.2.1 = some (wBolt, e.2.2) ∧
        (wS wBolt [wT 0]).acquirePending l.tid = false ∧ (wS wBolt [wT 0]).spWaits wBolt.id e.2.2 e.2.1 true = false := by
    decide +kernel
  exact ⟨meets_all (rf := fun e : OpRule × Nat × Nat => (e.1, lForm 4 6 8 0 (BitVec.ofNat 32 e.2.2))) (by decide +kernel)
      fun e he => ⟨wBolt, e.2.2, h e he⟩,
    alone_of (by decide +kernel) (by decide +kernel), alone_of (by decide +kernel) (by decide +kernel),
    alone_of (by decide +kernel) (by decide +kernel), alone_of (by decide +kernel) (by decide +kernel),
    alone_of (by decide +kernel) ⟨wBolt, 8, by decide +kernel⟩, by decide +kernel, by decide +kernel⟩

/-- A free place, one that a poisoned word of the scratchpad covers, and one that waits. -/
theorem witness_ScratchpadAtomics :
    let s := wS wBolt [wT 0]
    let bad := wS { wBolt with spPoison := [3] } [wT 0]
    let acq : State := { s with pend := [{ aPend with tid := 9, kind := .acquire, phase := .home 0 0 0 }] }
    let clean (s : State) (l : Lane) (v : Int) : Prop := SpadFree s l v 8 true ∧
      ∀ b o, spadAt s l v 8 = some (b, o) → ∀ p ∈ b.spPoison, ¬ (4 * p < o + 8 ∧ o < 4 * p + 4)
    Meets s (wT 0) rSamo (lForm 4 6 5 0 8) true false (fun s l => clean s l (addressOf (lForm 4 6 5 0 8) l)) ∧
    Meets bad (wT 0) rSamo (lForm 4 6 5 0 16) true false (fun s l => clean s l (addressOf (lForm 4 6 5 0 16) l)) ∧
    Meets s (wT 0) rScas (mForm 4 6 5 7 0) true false (fun s l => clean s l l.a.toInt) ∧
    Alone bad (wT 0) rSamo (lForm 4 6 5 0 8) true false (fun s l =>
      ∃ b o, spadAt s l (addressOf (lForm 4 6 5 0 8) l) 8 = some (b, o) ∧ s.acquirePending l.tid = false ∧
        s.spWaits b.id o 8 true = false ∧ b.spPoison.any (fun p => 4 * p < o + 8 && o < 4 * p + 4)) ∧
    Alone acq (wT 0) rSamo (lForm 4 6 5 0 8) true false (fun s l =>
      ∃ b o, spadAt s l (addressOf (lForm 4 6 5 0 8) l) 8 = some (b, o) ∧ s.acquirePending l.tid = true) ∧
    Alone (latS latT) latT rScas (mForm 4 6 5 7 0) true false (fun s l =>
      spadTrap s l l.a.toInt 8 = some ⟨.needw, 0x4000, false⟩) := by
  refine ⟨meets_of (by decide +kernel) ⟨⟨wBolt, 8, by decide +kernel⟩, fun b o h => ?_⟩,
    meets_of (by decide +kernel) ⟨⟨{ wBolt with spPoison := [3] }, 16, by decide +kernel⟩, fun b o h => ?_⟩,
    meets_of (by decide +kernel) ⟨⟨wBolt, 0, by decide +kernel⟩, fun b o h => ?_⟩,
    alone_of (by decide +kernel) ⟨{ wBolt with spPoison := [3] }, 8, by decide +kernel⟩,
    alone_of (by decide +kernel) ⟨wBolt, 8, by decide +kernel⟩, alone_of (by decide +kernel) (by decide +kernel)⟩
  · have e : spadAt (wS wBolt [wT 0]) (laneFor (wS wBolt [wT 0]) (wT 0) rSamo (lForm 4 6 5 0 8)) 8 8 = some (wBolt, 8) := by
      decide +kernel
    cases (Option.some.inj (h.symm.trans e)); decide +kernel
  · have e : spadAt (wS { wBolt with spPoison := [3] } [wT 0])
        (laneFor (wS { wBolt with spPoison := [3] } [wT 0]) (wT 0) rSamo (lForm 4 6 5 0 16)) 16 8 =
        some ({ wBolt with spPoison := [3] }, 16) := by decide +kernel
    cases (Option.some.inj (h.symm.trans e)); decide +kernel
  · have e : spadAt (wS wBolt [wT 0]) (laneFor (wS wBolt [wT 0]) (wT 0) rScas (mForm 4 6 5 7 0)) 0 8 = some (wBolt, 0) := by
      decide +kernel
    cases (Option.some.inj (h.symm.trans e)); decide +kernel

/-- A held translation of the page at 0x10000 of space 1 to 0x200000, with a leaf. -/
def tlbE (leaf : Word) : Tlb := { space := 1, glob := false, vbase := 1, bits := 16, frame := 0x200000, leaf }

/-- A thread with the address of that page in g6. -/
def latM : Thread := having latT 6 0x10000

/-- It runs alone on a core that holds the translation with a leaf. -/
def memS (leaf : Word) : State := (latS latM).putTlb 256 [tlbE leaf]

/-- Whether checks let an access pass with a property. -/
def passesB (c : Checked) (p : State → Access → Bool) : Bool :=
  match c with
  | .ok k a => p k a
  | _ => false

theorem passes_of {c : Checked} {p : State → Access → Bool} (h : passesB c p = true) :
    ∃ k a, c = .ok k a ∧ p k a = true := by cases c <;> simp_all [passesB]

/-- Whether checks stop an access with a trap and leave the state. -/
def trapsB (c : Checked) (s : State) (tr : Trap) : Bool :=
  match c with
  | .trap k t => decide (k = s) && decide (t = tr)
  | _ => false

theorem traps_of {c : Checked} {s : State} {tr : Trap} (h : trapsB c s tr = true) : c = .trap s tr := by
  cases c <;> simp_all [trapsB]

/-- Every thread stands under its own number. -/
theorem keyed_of {s : State} (h : (s.threads.all fun x => x.2.tid == x.1) = true) : Keyed s := by
  intro n t ht
  have : ∀ l : Tab Thread, (l.all fun x => x.2.tid == x.1) = true → tabGet l n = some t → t.tid = n := by
    intro l
    induction l with
    | nil => intro _ h; simp [tabGet] at h
    | cons x l ih =>
      intro hl h
      simp only [List.all_cons, Bool.and_eq_true, beq_iff_eq] at hl
      simp only [tabGet] at h
      split at h
      · next he => cases h; rw [hl.1]; simpa using he
      · exact ih hl.2 h
  exact this _ h ht

theorem plain_of {s : State} (hq : s.queues = []) (hr : s.fw.hdm = 0) (a n : Nat) (hb : a + n ≤ 0xF800000000) :
    PlainRange s a n := by
  refine fun x _ hx => ⟨by simp [State.inRing, hq], ?_, if_neg (by omega)⟩
  have h0 : bitsAt (0 : Word).toNat 0 21 = 0 := by decide
  unfold State.ownerRegion?
  rw [hr, h0]
  exact if_neg (by simp)

theorem witness_ChecksOfAnAccess :
    ¬ (-2 ^ 56 ≤ (-2 ^ 56 - 1 : Int)) ∧ (-2 ^ 56 ≤ (-2 ^ 56 : Int)) ∧ ¬ ((2 ^ 56 : Int) < 2 ^ 56) ∧ (0x10001 : Int) % 2 ≠ 0 ∧
    (∃ e, translate (latS latT) 256 0x10001 0x10000 .read .firmware = .error e) ∧
    (∃ x, translate (memS 0x1AD) 256 0x10001 0x10000 .write .firmware = .ok ((memS 0x1AD), x) ∧
      (memS 0x1AD).place x.pa = .ram 0x200000 ∧ (memS 0x1AD).ownCheck 0x200000 = .ok ∧ x.leaf / 2 ^ 57 % 2 = 0) ∧
    (∃ x, translate (memS 0x1A9) 256 0x10001 0x10000 .write .firmware = .ok ((memS 0x1A9), x) ∧ x.leaf / 4 % 2 = 0) ∧
    (∃ x, translate (memS 0x5AD) 256 0x10001 0x10000 .write .firmware = .ok ((memS 0x5AD), x) ∧ x.leaf / 2 ^ 9 % 4 = 2) ∧
    (∃ x, translate (memS 0x20000000000001AD) 256 0x10001 0x10000 .read .firmware = .ok (memS 0x20000000000001AD, x)) :=
  ⟨by decide +kernel, by decide +kernel, by decide +kernel, by decide +kernel, ⟨_, rfl⟩, ⟨_, rfl, rfl, rfl, by decide +kernel⟩,
    ⟨_, rfl, by decide +kernel⟩, ⟨_, rfl, by decide +kernel⟩, ⟨_, rfl⟩⟩

/-- A hole, a region that the host owns, and one on its way to it. -/
theorem witness_ChecksOfAnAccess_places :
    blank.place 0xEE6B28000 = .hole ∧ blank.place 0xEE6B27FFF = .ram 0xEE6B27FFF ∧
    (∃ s2, ({ blank with fw := { blank.fw with hdm := 1, rotbase := 0x40000000 }, mem := [(0x40000000, 3)] } : State).ownCheck 0 =
      .refused s2) ∧
    (∃ s2, ({ blank with fw := { blank.fw with hdm := 1, rotbase := 0x40000000 }, mem := [(0x40000000, 1)] } : State).ownCheck 0 =
      .wait s2) ∧
    ({ blank with shadow := [(0x10000, ⟨8, 257, 0, 0, false⟩)] } : State).detected 7 0x200000 false ≠ none :=
  ⟨rfl, rfl, ⟨_, rfl⟩, ⟨_, rfl⟩, by decide +kernel⟩

/-- Five levels of tables that take the page at 0x10000 of space 1 to 0x200000, for a leaf byte. -/
def tableS (leaf : Byte) : State :=
  { latS latM with
    fw := { blank.fw with spcbase := 0x1000 }
    mem := [(0x1020, 0x01), (0x1022, 0x01), (0x1028, 0x01), (0x1029, 0x20), (0x2000, 0x03), (0x2001, 0x30), (0x3000, 0x03),
      (0x3001, 0x40), (0x4000, 0x03), (0x4001, 0x50), (0x5000, 0x03), (0x5001, 0x60)] ++
      (if leaf = 0 then [] else [(0x6008, leaf)]) ++ [(0x600A, 0x20)] }

theorem witness_TranslationWalk : ∀ leaf ∈ [(0x2D : Byte), 0x0D, 0x2C], let s := tableS leaf
    let a : Nat → Nat := fun n => [0x2000, 0x3000, 0x4000, 0x5000, 0x6000].getD n 0
    let e : Nat → Nat := fun n => [0x3003, 0x4003, 0x5003, 0x6003, 0x200000 + leaf.toNat].getD n 0
    let va := 0x10000
    s.tlbHit 256 0x10001 va .read .user = none ∧ s.dtlbOf (dieOf 256) = [] ∧ s.entryInHole 0x10001 = false ∧ entryUsable (s.spaceEntry 0x10001) = true ∧
    s.spaceEntry 0x10001 % 2 ^ 64 = 0x10001 ∧ a 0 = s.spaceEntry 0x10001 / 2 ^ 76 % 2 ^ 40 * 2 ^ 12 ∧
    (∀ n, n < 5 → let x := a n + 8 * (if n = 4 then va / 2 ^ 16 % 2 ^ 5 else va / 2 ^ (48 - 9 * n) % 2 ^ 9)
      s.place x = .ram x ∧ s.valueAt x 8 = e n) ∧
    (∀ n, n < 4 → e n % 4 = 3 ∧ e n / 2 ^ 2 % 2 ^ 6 = 0 ∧ e n / 2 ^ 52 = 0 ∧ (n < 3 → e n / 2 ^ 8 % 2 ^ 4 = 0) ∧
      a (n + 1) = e n / 2 ^ 8 % 2 ^ 44 * 2 ^ 8) ∧ Memory.wf s.mem = true ∧
    (e 4 % 2 = 0 ↔ leaf = 0x2C) ∧ (e 4 / 2 ^ 5 % 2 = 0 ↔ leaf = 0x0D) := by decide +kernel

/-- A space table in a hole. -/
theorem witness_TranslationWalk_hole :
    let s : State := { latS latM with fw := { blank.fw with spcbase := 0xEE6B28000 } }
    s.tlbHit 256 0x10001 0x10000 .read .user = none ∧ s.dtlbOf (dieOf 256) = [] ∧ s.entryInHole 0x10001 = true := by
  decide +kernel

theorem witness_TranslationWalk_plain (leaf : Byte) : PlainRange (tableS leaf) 0x6008 8 := plain_of rfl rfl _ _ (by decide +kernel)

/-- The loads with their sizes, results and kinds. -/
def loadForms : List (OpRule × Nat × Bool × Bool × PKind) :=
  [(rLd, 1, true, false, .load), (rLd, 1, false, false, .load), (rLd, 2, true, false, .load), (rLd, 2, false, false, .load),
    (rLd, 4, true, false, .load), (rLd, 4, false, false, .load), (rLd, 8, false, false, .load), (rLdQ, 16, false, true, .load),
    (rLd, 4, true, false, .acquire), (rLd, 8, false, false, .acquire), (rLd, 4, true, false, .readOnly),
    (rLd, 8, false, false, .readOnly), (rLdQ, 16, false, true, .readOnly)]

/-- A lane whose core holds the translation, at the last place of the page; one on a weft core without it. -/
theorem witness_GlobalLoads :
    (∀ e ∈ loadForms, Meets (memS 0x1AD) latM e.1 (lForm 4 6 0 0 0xFFF0) false false
      (fun s l => loadEffect (lForm 4 6 0 0 0xFFF0) e.2.1 e.2.2.1 e.2.2.2.1 e.2.2.2.2 s l ≠ none)) ∧
    (∀ e ∈ loadForms, Meets (wS wBolt [wT 0]) (wT 0) e.1 (lForm 4 6 0 0 0xFFF0) false false
      (fun s l => loadEffect (lForm 4 6 0 0 0xFFF0) e.2.1 e.2.2.1 e.2.2.2.1 e.2.2.2.2 s l ≠ none)) ∧
    Meets (memS 0x5AD) latM rLd (lForm 4 6 0 0 8) false false
      (fun s l => loadEffect (lForm 4 6 0 0 8) 8 false false .load s l ≠ none) ∧
    Alone { memS 0x1AD with pend := [{ aPend with kind := .acquire, phase := .home 0 0 0 }] } latM rLd (lForm 4 6 0 0 8) false
      false (fun s l => s.mustWait l.tid = true) ∧
    Alone (latS (having latT 6 0x100000000000000)) (having latT 6 0x100000000000000) rLd (lForm 4 6 0 0 0) false false
      (fun s l => s.mustWait l.tid = false ∧ 2 ^ 56 ≤ addressOf (lForm 4 6 0 0 0) l) ∧
    Alone (memS 0x1AD) latM rLd (lForm 4 6 0 0 4) false false
      (fun s l => s.mustWait l.tid = false ∧ addressOf (lForm 4 6 0 0 4) l % 8 ≠ 0) ∧
    Alone (latS latM) latM rLd (lForm 4 6 0 0 8) false false (fun s l => s.mustWait l.tid = false ∧
      checkAccess s l.thread s.cur.core (addressOf (lForm 4 6 0 0 8) l) 8 false true 0 false =
        .trap s ⟨.page, 0x10008, true⟩) :=
  ⟨meets_all (rf := fun e : OpRule × Nat × Bool × Bool × PKind => (e.1, lForm 4 6 0 0 0xFFF0)) (by decide +kernel)
      (by decide +kernel),
    meets_all (rf := fun e : OpRule × Nat × Bool × Bool × PKind => (e.1, lForm 4 6 0 0 0xFFF0)) (by decide +kernel)
      (by decide +kernel),
    meets_of (by decide +kernel) (by decide +kernel), alone_of (by decide +kernel) (by decide +kernel),
    alone_of (by decide +kernel) (by decide +kernel), alone_of (by decide +kernel) (by decide +kernel),
    alone_of (by decide +kernel) ⟨by decide +kernel, traps_of (by decide +kernel)⟩⟩

/-- A load of 8 bytes at 0x200000 that waits for home, on a page of an mtype. -/
def homePend (tid mtype : Nat) : Pend := { aPend with tid, phase := .home 0x200000 mtype 0 }

theorem witness_HomeBindsLoads :
    HomeMayServe { wS wBolt [wT 0] with pend := [homePend 9 0] } 3 (homePend 9 0) (wT 0) 0 0x200000 0 0 ∧
    HomeMayServe { latS latT with pend := [homePend 7 1] } 3 (homePend 7 1) latT 256 0x200000 1 0 ∧
    (homePend 9 0).kind ≠ .readOnly ∧ (homePend 9 0).size ∈ [1, 2, 4, 8, 16] ∧
    (∀ x, ({ wS wBolt [wT 0] with pend := [homePend 9 0] } : State).inRing x = false) ∧
    (∀ p, (latS latT).pend.find? (fun q => q.id == 3) = some p → ∀ pa mtype cls, p.phase ≠ .home pa mtype cls) ∧
    let s : State := { latS latT with pend := [homePend 7 0] }
    s.pend = [homePend 7 0] ∧ s.thread? 7 = some latT ∧ latT.loc = .latency 256 ∧ 0x200000 / 128 = 0x4000 ∧
      (homePend 7 0).phase = .home 0x200000 0 0 ∧ (homePend 7 0).kind ≠ .acquire ∧ (homePend 7 0).sc = false ∧
      s.earlierRed 7 3 0x200000 8 = false ∧ s.ownCheck (128 * 0x4000) = .ok := by
  refine ⟨⟨keyed_of (by decide +kernel), rfl, by decide +kernel, rfl, by decide +kernel, by decide +kernel, by decide +kernel,
      by decide +kernel, by decide +kernel, rfl⟩, ⟨keyed_of (by decide +kernel), rfl, by decide +kernel, rfl,
      by decide +kernel, by decide +kernel, by decide +kernel, by decide +kernel, by decide +kernel, rfl⟩, by decide +kernel, by decide +kernel, fun x => rfl,
    fun p hp => ?_, rfl, by decide +kernel, rfl, rfl, rfl, by decide +kernel, rfl, by decide +kernel, rfl⟩
  simp [latS, blank, State.reset] at hp

theorem witness_LateChecksOfLoads :
    let p : Pend := { aPend with tid := 9 }
    let s : State := { wS wBolt [wT 0] with pend := [p] }
    let t : State := s.putTlb 0 [tlbE 0x1AD]
    (t.pend.find? (fun q => q.id == p.id) = some p ∧ t.thread? p.tid = some (wT 0) ∧ (wT 0).tid = p.tid ∧
      (wT 0).core? = some 0 ∧ p.phase = .walk) ∧
    (∃ k a, checkAccess t (wT 0) 0 p.va.toInt p.size false true 0 (p.kind == .acquire) = .ok k a ∧
      (leafMtype a.leaf != 2) = true) ∧
    (∀ q ∈ t.pend, q.phase = .walk → q.va.toNat / 65536 = p.va.toNat / 65536 → q = p) ∧
    (t.pend.filter fun q => q.id == p.id) = [p] ∧
    (∀ q ∈ s.pend, q.phase = .walk → q.va.toNat / 65536 = p.va.toNat / 65536 → q = p) ∧
    (s.pend.filter fun q => q.id == p.id) = [p] ∧
    (s.pend.find? (fun q => q.id == p.id) = some p ∧ s.thread? p.tid = some (wT 0) ∧ (wT 0).loc = .member 0 0 0 ∧
      (wT 0).sub = .active ∧ (wT 0).asSub ≠ .faultParked) ∧
    checkAccess s (wT 0) 0 p.va.toInt p.size false true 0 (p.kind == .acquire) = .trap s ⟨.page, 0x10000, true⟩ :=
  ⟨by decide +kernel, passes_of (p := fun _ a => leafMtype a.leaf != 2) (by decide +kernel), by decide +kernel,
    by decide +kernel, by decide +kernel, by decide +kernel, by decide +kernel, traps_of (by decide +kernel)⟩

/-- The stores with their sizes, and whether they are releases. -/
def storeForms : List (OpRule × Nat × Bool) :=
  [(rSt, 1, false), (rSt, 2, false), (rSt, 4, false), (rSt, 8, false), (rStQ, 16, false), (rSt, 4, true), (rSt, 8, true)]

theorem witness_GlobalStores :
    (∀ e ∈ storeForms, Meets (memS 0x1AD) latM e.1 (lForm 0 6 8 0 0xFFF0) false false
      (fun s l => storeEffect (lForm 0 6 8 0 0xFFF0) (leBytes (min e.2.1 8) l.b.toNat ++ leBytes (e.2.1 - 8) l.b2.toNat)
        e.2.2 s l ≠ none)) ∧
    Meets (memS 0x5AD) latM rSt (lForm 0 6 8 0 8) false false
      (fun s l => storeEffect (lForm 0 6 8 0 8) (leBytes 8 l.b.toNat) false s l ≠ none) ∧
    Alone { memS 0x1AD with pend := [aPend] } latM rSt (lForm 0 6 8 0 8) false false
      (fun s l => s.mustWait l.tid = true ∨ s.hasUnchecked l.tid = true) ∧
    Alone (latS { latM with lost := some 0x10000 }) { latM with lost := some 0x10000 } rSt (lForm 0 6 8 0 8) false false
      (fun s l => ¬ (s.mustWait l.tid ∨ s.hasUnchecked l.tid) ∧ l.thread.lost = some 0x10000) :=
  ⟨meets_all (rf := fun e : OpRule × Nat × Bool => (e.1, lForm 0 6 8 0 0xFFF0)) (by decide +kernel) (by decide +kernel),
    meets_of (by decide +kernel) (by decide +kernel), alone_of (by decide +kernel) (by decide +kernel),
    alone_of (by decide +kernel) (by decide +kernel)⟩

/-- A store of 2 bytes at 0x200000 of a thread on a core. -/
def aStore (tid core : Nat) : PStore :=
  { id := 4, tid, core, pa := 0x200000, va := 0x10000, space := 1, data := [0x11, 0x22], poison := [], lcls := 0, mtype := 0,
    race := false, rel := false, sc := false, red := none }

theorem witness_HomePerformsStores :
    (let s : State := { wS wBolt [wT 0] with stores := [aStore 9 0] }
     s.storesOf 9 = [aStore 9 0] ∧ ((aStore 9 0).core < 144 ∨ (aStore 9 0).mtype ≠ 0) ∧ (aStore 9 0).red = none ∧ storeReady s (aStore 9 0) = true ∧
        s.ownCheck (aStore 9 0).pa = .ok ∧ PlainRange s (aStore 9 0).pa (aStore 9 0).data.length ∧ s.traces = [] ∧
        Memory.wf s.mem = true ∧ Keyed s) ∧
    (latS latT).storesOf 7 = [] ∧
    (let s : State := { latS latT with stores := [aStore 7 256] }
     s.stores = [aStore 7 256] ∧ (aStore 7 256).core = 256 ∧ (aStore 7 256).pa / 128 = 0x4000 ∧
        byteMask (aStore 7 256).pa (aStore 7 256).data.length = 3 ∧ (aStore 7 256).mtype = 0 ∧ (aStore 7 256).red = none ∧
        storeReady s (aStore 7 256) = true ∧ s.ownCheck (aStore 7 256).pa = .ok ∧
        PlainRange s (aStore 7 256).pa (aStore 7 256).data.length ∧ s.traces = [] ∧ Memory.wf s.mem = true ∧
        (s.thread? (aStore 7 256).tid).isSome = true ∧ Keyed s) :=
  ⟨⟨by decide +kernel, by decide +kernel, rfl, by decide +kernel, rfl, plain_of rfl rfl _ _ (by decide +kernel), rfl, rfl, keyed_of (by decide +kernel)⟩,
    by decide +kernel, ⟨rfl, rfl, by decide +kernel, by decide +kernel, rfl, rfl, by decide +kernel, rfl, plain_of rfl rfl _ _ (by decide +kernel), rfl,
      rfl, by decide +kernel, keyed_of (by decide +kernel)⟩⟩

/-- The last bytes of the last vault; one past it; a byte of a page that space 1 has, at user level. -/
theorem witness_VaultLoadsAndStores :
    let last := having latT 6 0x8FFFFFF0
    let past := having latT 6 0x90000000
    let user : Thread := { having latT 6 0 with plvl := .user }
    let mapped : State := { latS user with vmem := [(0xF00000, 7), (0xF00002, 1)] }
    (∀ e ∈ [(rLdv, 4), (rLdv, 8), (rLdvQ, 16), (rStv, 4), (rStv, 8), (rStvQ, 16)],
      Meets (latS last) last e.1 (lForm 4 6 8 0 0) false false (fun s l => s.mustWait l.tid = false ∧
        s.hasUnchecked l.tid = false ∧ vaultCheck s l.thread.pid l.thread.plvl (addressOf (lForm 4 6 8 0 0) l) e.2 true = none ∧
        s.vaultBoard (addressOf (lForm 4 6 8 0 0) l).toNat e.2 = false)) ∧
    (∀ e ∈ [(rLdv, 4), (rStv, 4)], Meets mapped user e.1 (lForm 4 6 8 0 0xEFFFC) false false (fun s l =>
      vaultCheck s l.thread.pid l.thread.plvl (addressOf (lForm 4 6 8 0 0) l) 4 true = none)) ∧
    (∀ e ∈ [(rLdv, 4), (rStv, 4)], Alone (latS past) past e.1 (lForm 4 6 8 0 0) false false (fun s l =>
      s.mustWait l.tid = false ∧ s.hasUnchecked l.tid = false ∧ vaultCheck s l.thread.pid l.thread.plvl
        (addressOf (lForm 4 6 8 0 0) l) 4 false = some ⟨.prot, 0x90000000, false⟩)) ∧
    (∀ e ∈ [(rLdv, 4), (rStv, 4)], Alone { latS last with pend := [{ aPend with kind := .acquire }] } last e.1
      (lForm 4 6 8 0 0) false false (fun s l => s.mustWait l.tid = true)) ∧
    (vaultCheck (latS last) 0x10001 .user 0x8FF00000 4 false = some ⟨.prot, 0x8FF00000, false⟩ ∧
      vaultCheck (latS last) 0x10001 .firmware 0x8FFFFFF2 4 false = some ⟨.align, 0x8FFFFFF2, false⟩) ∧
    (0xEFFFF8 % 2 ^ 24 + 8 ≤ 0xF00000 ∧ Memory.wf mapped.vmem = true) := by
  refine ⟨meets_all (rf := fun e : OpRule × Nat => (e.1, lForm 4 6 8 0 0)) (by decide +kernel) (by decide +kernel),
    meets_all (rf := fun e : OpRule × Nat => (e.1, lForm 4 6 8 0 0xEFFFC)) (by decide +kernel) (by decide +kernel),
    fun e he => ?_, fun e he => ?_, by decide +kernel, by decide +kernel⟩ <;>
  · simp only [List.mem_cons, List.not_mem_nil, or_false] at he
    rcases he with rfl | rfl <;> exact alone_of (by decide +kernel) (by decide +kernel)

/-- A line of a region that the host owns and has not pinned. -/
theorem witness_CopiesAndPrefetches_host :
    let s : State := { memS 0x1AD with
      fw := { blank.fw with hdm := 0x200001, rotbase := 0x40000000 }, mem := [(0x40000000, 1)] }
    ∃ t, translate s 256 0x10001 0x10001 .read .firmware = .ok (s, t) ∧ s.place t.pa = .ram 0x200001 ∧
      s.hostOwns 0x200001 = true ∧ s.pinned 0x200001 = false := ⟨_, rfl, rfl, by decide +kernel, by decide +kernel⟩

theorem witness_CopiesAndPrefetches :
    Meets (latS latT) latT rNone (sForm 0 0 0) false true (fun _ _ => True) ∧
    Meets (latS latM) latM rPref (lForm 0 6 0 0 0) false false (fun _ _ => True) ∧
    Meets (memS 0x1AD) latM rClfl (lForm 0 6 0 0 1) false false (fun s l => s.mustWait l.tid = false ∧
      ∃ k a, checkAccess s l.thread s.cur.core (addressOf (lForm 0 6 0 0 1) l) 1 false true 0 false = .ok k a) := by
  refine ⟨meets_of (by decide +kernel) trivial, meets_of (by decide +kernel) trivial,
    meets_of (by decide +kernel) ⟨by decide +kernel, ?_⟩⟩
  obtain ⟨k, a, h, _⟩ := passes_of (c := checkAccess (memS 0x1AD) (laneFor (memS 0x1AD) latM rClfl (lForm 0 6 0 0 1)).thread
    256 0x10001 1 false true 0 false) (p := fun _ _ => true) (by decide +kernel)
  exact ⟨k, a, h⟩

/-- The atomics' forms: with and without .w, acquire and release. -/
def atomicForms : List (OpRule × Fields × Bool × Bool) :=
  [(rAmo, { lForm 4 6 5 0 0xFFF8 with form := .x }, true, false), (rAmo, mForm 4 6 5 0 0x13, true, true),
    (rCas, mForm 4 6 5 7 0, true, false), (rCas, mForm 4 6 5 7 0x13, true, true)]

/-- The reductions' forms. -/
def redForms : List (OpRule × Fields × Bool) :=
  [(rRed, { lForm 0 6 5 0x12 4 with form := .x }, true), (rRed, mForm 0 6 5 0 0, false)]

/-- A reduction of thread 7 that waits to be performed at home. -/
def aRed : PStore :=
  { aStore 7 256 with data := List.replicate 4 0, poison := [], red := some ⟨.add, 32, 5⟩ }

theorem witness_AtomicOperations :
    (∀ e ∈ atomicForms, Meets (memS 0x1AD) latM e.1 e.2.1 true false (fun s l =>
      atomicEffect e.2.1 e.2.2.2 (addressOf e.2.1) (fun l old => some (old + lowBits e.2.1 l.b)) (oldOf e.2.1) s l ≠ none)) ∧
    (∀ e ∈ redForms, Meets (memS 0x1AD) latM e.1 e.2.1 true false (fun s l => redEffect e.2.1 .add e.2.2 s l ≠ none)) ∧
    Alone { memS 0x1AD with stores := [aStore 7 256] } latM rAmo (mForm 4 6 5 0 2) true false
      (fun s l => s.mustWait l.tid = true ∨ s.performed l.tid = false) ∧
    Alone (latS { latM with lost := some 0x10000 }) { latM with lost := some 0x10000 } rRed (mForm 0 6 5 0 2) true false
      (fun s l => s.mustWait l.tid = false ∧ s.performed l.tid = true ∧ l.thread.lost = some 0x10000) ∧
    Alone { memS 0x1AD with stores := [{ aStore 7 256 with sc := true }] } latM rRed (mForm 0 6 5 0 0) true false
      (fun s l => s.mustWait l.tid = true) ∧
    (let s : State := { memS 0x1AD with stores := [aRed] }
     s.storesOf 7 = [aRed] ∧ aRed.red = some ⟨.add, 32, 5⟩ ∧ aRed.data.length = 32 / 8 ∧ storeReady s aRed = true ∧
        s.ownCheck aRed.pa = .ok ∧ PlainRange s aRed.pa aRed.data.length ∧ s.traces = [] ∧ Memory.wf s.mem = true ∧
        Keyed s) ∧
    (PlainRange (memS 0x1AD) 0x200000 8 ∧ (memS 0x1AD).traces = [] ∧ Memory.wf (memS 0x1AD).mem = true) ∧
    (realOf (fp32.decode 0x3F800000)).isSome = true ∧ (fp64.decode 0x7FF8000000000001).isNan = true :=
  ⟨meets_all (rf := fun e : OpRule × Fields × Bool × Bool => (e.1, e.2.1)) (by decide +kernel) (by decide +kernel),
    meets_all (rf := fun e : OpRule × Fields × Bool => (e.1, e.2.1)) (by decide +kernel) (by decide +kernel),
    alone_of (by decide +kernel) (by decide +kernel), alone_of (by decide +kernel) (by decide +kernel),
    alone_of (by decide +kernel) (by decide +kernel),
    ⟨rfl, rfl, rfl, by decide +kernel, rfl, plain_of rfl rfl _ _ (by decide +kernel), rfl, rfl, keyed_of (by decide +kernel)⟩,
    ⟨plain_of rfl rfl _ _ (by decide +kernel), rfl, rfl⟩, rfl, by decide +kernel⟩

theorem witness_FenceOrders :
    (∀ t ∈ [latT], Meets (latS t) t rNone (sForm 0 0 0) false true
      (fun s l => l.thread.lost = none ∧ s.performed l.tid = true)) ∧
    Alone { latS latT with stores := [aStore 7 256] } latT rNone (sForm 0 0 0) false true
      (fun s l => l.thread.lost = none ∧ s.performed l.tid = false) ∧
    Alone (latS { latT with lost := some 0x10000 }) { latT with lost := some 0x10000 } rNone (sForm 0 0 0) false true
      (fun _ l => (l.thread.lost.map fun v => (⟨.mchk, v, true⟩ : Trap)) = some ⟨.mchk, 0x10000, true⟩) ∧
    (let s : State := { wS wBolt [wT 0] with dirs := [(5, ⟨.priv, [(0, 3)], false, [], none, [], []⟩)] }
     s.thread? (wT 0).tid = some (wT 0) ∧ (s.dir 5).st = .priv ∧ (s.dir 5).holders.any (fun h => h.1 == 0) = true) ∧
    latT.loc = .latency 256 :=
  ⟨fun t ht => by simp only [List.mem_cons, List.not_mem_nil, or_false] at ht; subst ht; exact meets_of (by decide +kernel) (by decide +kernel),
    alone_of (by decide +kernel) (by decide +kernel), alone_of (by decide +kernel) (by decide +kernel), by decide +kernel, rfl⟩

/-- A thread whose monitor is armed on the line of 0x200000, and one that waits in MWAIT at a bound. -/
def armedT : Thread := { latM with monitor := ⟨0x4000, true, false, false⟩ }
def mwaitT : Thread := { armedT with sub := .mwait, wait := .mwait 4 0 (some 10) }

theorem witness_Monitors :
    (∀ t ∈ [latM, armedT, { armedT with monitor := ⟨0x4000, true, true, false⟩ }],
      Meets (latS t) t rDst (sForm 4 0 0) false true (fun _ _ => True) ∧
      Meets (latS t) t rDst1 (sForm 4 0 0) false false (fun _ _ => True)) ∧
    (PortsReady (memS 0x1AD) rMarm (lForm 4 6 0 0 8) false false [(0, latM)] ∧ (memS 0x1AD).mustWait 7 = false ∧
      (memS 0x1AD).thread? 7 = some latM ∧
      ∃ k a, checkAccess (memS 0x1AD) latM 256 0x10008 8 false true 0 true = .ok k a ∧
        (decide (leafMtype a.leaf ≠ 2 ∧ k.thread? 7 = some latM ∧ k.seq = (memS 0x1AD).seq)) = true) ∧
    Alone (memS 0x1AD) latM rMarm (lForm 4 6 0 0 4) false false
      (fun s l => s.mustWait l.tid = false ∧ addressOf (lForm 4 6 0 0 4) l % 8 ≠ 0) ∧
    ((latS armedT).thread? 7 = some armedT ∧ armedT.monitor.armed = true ∧ armedT.monitor.line = 0x200000 / 128 ∧
      armedT.sub ≠ .mwait ∧ latM.monitor.armed = false) ∧
    ((latS mwaitT).thread? 7 = some mwaitT ∧ mwaitT.sub = .mwait ∧ mwaitT.wait = .mwait 4 0 (some 10) ∧
      0 + 10 < ({ latS mwaitT with gtick := 11 } : State).gtick ∧ ¬ 10 < ({ latS mwaitT with gtick := 10 } : State).gtick - 0) := by
  refine ⟨fun t ht => ?_, ⟨portsReady_of (by decide +kernel), by decide +kernel, by decide +kernel,
    passes_of (p := fun k a => decide (leafMtype a.leaf ≠ 2 ∧ k.thread? 7 = some latM ∧ k.seq = (memS 0x1AD).seq))
      (by decide +kernel)⟩, alone_of (by decide +kernel) (by decide +kernel), by decide +kernel, by decide +kernel⟩
  simp only [List.mem_cons, List.not_mem_nil, or_false] at ht
  rcases ht with rfl | rfl | rfl <;> exact ⟨meets_of (by decide +kernel) trivial, meets_of (by decide +kernel) trivial⟩

/-- A state with a directory entry for line 5. -/
def dirS (st : DState) (hs : List (Nat × BitVec 128)) (dropped : Bool) : State :=
  { blank with dirs := [(5, ⟨st, hs, dropped, [], none, [], []⟩)] }

theorem witness_DirectoryAndSweep :
    (∀ st ∈ [DState.modified, .priv, .shared, .exclusive, .owned],
      let d := (dirS st [(256, 3), (257, 0)] false).dir 5
      d.st = st ∧ d.holders.any (fun h => h.1 == 256) = true ∧ d.holders.head?.map (·.1) = some 256 ∧ d.dropped = false ∧
        d.holders.any (fun h => h.1 == 257) = true ∧ ¬ d.holders.head?.map (·.1) = some 257 ∧
        ¬ d.holders.any (fun h => h.1 == 258) = true) ∧
    ((dirS .modified [(256, 0)] true).dir 5).dropped = true ∧ tabGet blank.stamps 5 = none ∧
    (let s : State := { blank with gtick := 2 ^ 19, stamps := [(5, ⟨7, 7⟩)] }
     tabGet s.stamps 5 = some ⟨7, 7⟩ ∧ FarBehind s 7 ∧ ¬ FarBehind s (2 ^ 18) ∧ FarBehind s (2 ^ 18 - 1)) ∧
    (FarBehind { blank with gtick := 2 ^ 19 } (blank.wcore 0).vfloor ∧ ¬ FarBehind blank (blank.wcore 0).vfloor ∧
      (blank.wcore 0).vfloor < 2 ^ 20) := by
  refine ⟨by decide +kernel, by decide +kernel, rfl, ?_, ?_⟩
  · unfold FarBehind; decide +kernel
  · unfold FarBehind; decide +kernel

/-- Whether checks pass with a property. -/
def chkB {α : Type} (c : Chk α) (p : State → α → Bool) : Bool :=
  match c with
  | .ok k a => p k a
  | _ => false

theorem chk_of {α : Type} {c : Chk α} {p : State → α → Bool} (h : chkB c p = true) : ∃ k a, c = .ok k a ∧ p k a = true := by
  cases c <;> simp_all [chkB]

/-- Whether checks trap and leave the state. -/
def chkTrapB {α : Type} (c : Chk α) (s : State) (tr : Trap) : Bool :=
  match c with
  | .trap k t => decide (k = s) && decide (t = tr)
  | _ => false

theorem chkTrap_of {α : Type} {c : Chk α} {s : State} {tr : Trap} (h : chkTrapB c s tr = true) : c = .trap s tr := by
  cases c <;> simp_all [chkTrapB]

/-- Whether a part of a job runs with a property. -/
def runB {α : Type} (c : JRun α) (p : State → α → Bool) : Bool :=
  match c with
  | .ok k a => p k a
  | _ => false

theorem run_of {α : Type} {c : JRun α} {p : State → α → Bool} (h : runB c p = true) : ∃ k a, c = .ok k a ∧ p k a = true := by
  cases c <;> simp_all [runB]

/-- Whether a part of a job fails with an error. -/
def failB {α : Type} (c : JRun α) (e : Nat) : Bool :=
  match c with
  | .fail _ _ err _ => err == e
  | _ => false

theorem fail_of {α : Type} {c : JRun α} {e : Nat} (h : failB c e = true) : ∃ k j va, c = .fail k j e va := by
  cases c <;> simp_all [failB]

/-- A job card at 0x10000 that copies one byte to 0x10100 (R265, R266). -/
def cardMem : Memory :=
  [(0x200001, 0x09), (0x20000A, 1), (0x200011, 1), (0x200012, 1), (0x200020, 1), (0x200022, 1), (0x200049, 1), (0x20004E, 2),
    (0x200068, 1), (0x200069, 1), (0x20006E, 2)]

/-- A template of plane depth 1 with two buffers of 4096 bytes at the bottom of the scratchpad (R278). -/
def templateMem : Memory :=
  [(0x200001, 0x09), (0x200002, 0x11), (0x200006, 0x01), (0x20000A, 1), (0x200020, 1), (0x200022, 1), (0x200029, 0x10),
    (0x200049, 1), (0x20004E, 2), (0x20006E, 0x40), (0x20006F, 0x40)]

/-- A stream card at 0x10000 of one block on port 0, with its stamp at 0x10100 (R279). -/
def streamMem : Memory := [(0x200003, 0xF0), (0x200004, 0xFF), (0x200005, 0x0F), (0x200018, 1), (0x200041, 1), (0x200042, 1)]

/-- A state whose memory holds a card at 0x10000 of space 1. -/
def cardS (t : Thread) (m : Memory) : State := { (latS t).putTlb 256 [tlbE 0x1AD] with mem := m }

/-- A copy of four bytes in a scratchpad from 0 to 0x100, and its job. -/
def aCard : Card :=
  { op := 0, sspace := 1, dspace := 1, nsp := 0, depth := 0, ndup := 0, satt := 0, dfmt := 0, sfmt := 0, stmp := false,
    src := 0, dst := 0x100, rows := 1, cols := 4, spitch := 4, dpitch := 4, dup := 0, sca := 0, stamp := 0, seq := 0,
    reads := [], writes := [], outer := 0, inner := 0, swb := 0, swu := 0, swsh := 0 }

def aJob : Job :=
  { handle := 5, num := 1, kind := .copy aCard, tid := 9, pid := 0x10001, level := .user, bolt := some 1,
    spBolts := [some 1, none, none, none], spawn := 1, bidx := 0, state := .queued, err := 0, fpage := 0,
    reads := [(1, 1, 0, 256)], writes := [(1, 1, 256, 256)], stmp := false, stampVa := 0, stampPa := 0, seq := 0, out := [],
    wstamp := 0, drive := none }

/-- A state with a bolt and jobs. -/
def jobS (js : List Job) : State := { wS wBolt [wT 0] with jobs := js }

/-- An engine without room: 96 jobs that have not retired. -/
def fullS : State :=
  { cardS latM cardMem with
    jobs := (List.range 96).map fun i => { aJob with handle := (0x200 + dieOf 256) * 2 ^ 48 + i, reads := [], writes := [] } }

theorem witness_CopySubmission :
    Meets (cardS latM cardMem) latM rTcpy (lForm 4 6 0 0 0) true false (fun s l =>
      l.thread.wait ≠ .submitted ∧ l.thread.lost = none ∧ s.groupPerformed = true ∧
        ∃ k j, copyJob (lForm 4 6 0 0 0) s l = .ok k j ∧ k.acceptsNow (0x200 + dieOf s.cur.core) j = true) ∧
    Meets (latS { latM with wait := .accepted 5 }) { latM with wait := .accepted 5 } rTcpy (lForm 4 6 0 0 0) true false
      (fun _ l => ∃ h, l.thread.wait = .accepted h) ∧
    Alone (latS { latM with wait := .submitted }) { latM with wait := .submitted } rTcpy (lForm 4 6 0 0 0) true false
      (fun _ l => l.thread.wait = .submitted) ∧
    Alone { cardS latM cardMem with stores := [aStore 7 256] } latM rTcpy (lForm 4 6 0 0 0) true false
      (fun s l => l.thread.wait = .none ∧ s.groupPerformed = false) ∧
    Alone (latS { latM with lost := some 0x10000 }) { latM with lost := some 0x10000 } rTcpy (lForm 4 6 0 0 0) true false
      (fun _ l => l.thread.wait = .none ∧ l.thread.lost = some 0x10000) ∧
    Alone (cardS latM cardMem) latM rTcpy (lForm 4 6 0 0 64) true false (fun s l => s.groupPerformed = true ∧
      copyJob (lForm 4 6 0 0 64) s l = .trap s ⟨.align, 0x10040, true⟩) ∧
    Alone fullS latM rTcpy (lForm 4 6 0 0 0) true false (fun s l => s.groupPerformed = true ∧
      ∃ k j, copyJob (lForm 4 6 0 0 0) s l = .ok k j ∧ k.acceptsNow (0x200 + dieOf s.cur.core) j = false) ∧
    (∀ fits ∈ [true, false], ∃ s : State, ∃ x, s.subq.find? (fun x => x.engine == (0x200 + dieOf 256)) = some x ∧
      s.jobFits (0x200 + dieOf 256) x.job = fits ∧ s.thread? x.job.tid = some latM ∧ latM.tid = x.job.tid ∧
      ¬ ∃ y ∈ s.subq.takeWhile (fun y => y.engine != (0x200 + dieOf 256)), s.before y (0x200 + dieOf 256) x.job.tid = true) ∧
    (let s := jobS []
     let s : State := { s with subq := [⟨0x400, { aJob with tid := 9 }⟩, ⟨0x401, { aJob with tid := 10 }⟩]
                               threads := [(9, { wT 0 with wait := .submitted }), (10, { wT 1 with wait := .submitted })] }
     s.subq.find? (fun x => x.engine == 0x401) = some ⟨0x401, { aJob with tid := 10 }⟩ ∧
      ∃ y ∈ s.subq.takeWhile (fun y => y.engine != 0x401), s.before y 0x401 10 = true) := by
  refine ⟨meets_of (by decide +kernel) ⟨by decide +kernel, by decide +kernel, by decide +kernel, ?_⟩,
    meets_of (by decide +kernel) ⟨5, rfl⟩,
    alone_of (by decide +kernel) rfl, alone_of (by decide +kernel) ⟨by decide +kernel, by decide +kernel⟩,
    alone_of (by decide +kernel) (by decide +kernel),
    alone_of (by decide +kernel) ⟨by decide +kernel, chkTrap_of (by decide +kernel)⟩,
    alone_of (by decide +kernel) ⟨by decide +kernel, ?_⟩, fun fits hf => ?_, by decide +kernel⟩
  · exact chk_of (p := fun k j => k.acceptsNow _ j) (by decide +kernel)
  · obtain ⟨k, j, h, hp⟩ := chk_of (c := copyJob (lForm 4 6 0 0 0) fullS (laneFor fullS latM rTcpy (lForm 4 6 0 0 0)))
      (p := fun k j => !k.acceptsNow (0x200 + dieOf fullS.cur.core) j) (by decide +kernel)
    exact ⟨k, j, h, (Bool.not_eq_true' _).mp hp⟩
  · simp only [List.mem_cons, List.not_mem_nil, or_false] at hf
    rcases hf with rfl | rfl
    · exact ⟨{ latS latM with subq := [⟨(0x200 + dieOf 256), { aJob with tid := 7 }⟩] }, ⟨(0x200 + dieOf 256), { aJob with tid := 7 }⟩, by decide +kernel⟩
    · exact ⟨{ fullS with subq := [⟨(0x200 + dieOf 256), { aJob with tid := 7 }⟩] }, ⟨(0x200 + dieOf 256), { aJob with tid := 7 }⟩, by decide +kernel⟩

theorem witness_JobStatusAndWaits :
    let t := having latT 4 5
    let s : State := { latS t with jobs := [{ aJob with tid := 7, bolt := none, state := .done }] }
    let run : State := { latS t with jobs := [{ aJob with tid := 7, bolt := none, state := .running }] }
    Meets s t rDst1 (sForm 3 4 0) false false (fun s l => knownJob s l.thread.pid l.a ≠ none ∧
      ∀ j, knownJob s l.thread.pid l.a = some j → j.state = .done ∨ j.state = .failed) ∧
    Alone run t rDst1 (sForm 3 4 0) false false (fun s l =>
      ∃ j, knownJob s l.thread.pid l.a = some j ∧ (j.state = .queued ∨ j.state = .running)) ∧
    (Ready s rDst (sForm 3 0 0) false [(0, t)] ∧ s.note.blocked = false ∧
      ∀ j ∈ s.jobs.filter fun j => decide (j.num < s.seq + 2), j.state = .done ∨ j.state = .failed) ∧
    (let w : State := { latS t with jobs := [{ aJob with tid := 7, bolt := none, state := .failed }], seq := 2 }
     Ready w rDst (sForm 3 0 0) false [(0, t)] ∧ ∃ j ∈ w.jobs, j.num < 2 ∧ j.state = .failed) ∧
    (Ready { run with seq := 2 } rDst (sForm 3 0 0) false [(0, t)] ∧
      ∃ j ∈ run.jobs, j.bolt.isNone = true ∧ j.tid = 7 ∧ j.num < 2 ∧ j.state = .running) ∧
    (let w : State := { wS wBolt [wT 0, wT 1] with jobs := [{ aJob with state := .failed }], seq := 2 }
     Ready w rDst (sForm 3 0 0) false (lanesIn [wT 0, wT 1]) ∧ (wT 0).onLatency = false ∧ (wT 0).bolt = some 1 ∧
      w.bolt? 1 = some wBolt ∧ wBolt.id = 1) := by
  refine ⟨meets_of (by decide +kernel) ⟨by decide +kernel, ?_⟩, alone_of (by decide +kernel) ⟨_, rfl, by decide +kernel⟩,
    ⟨ready_of (by decide +kernel), rfl, by decide +kernel⟩, ⟨ready_of (by decide +kernel), by decide +kernel⟩,
    ⟨ready_of (by decide +kernel), by decide +kernel⟩, ready_of (by decide +kernel), by decide +kernel, by decide +kernel, by decide +kernel, rfl⟩
  intro j hj
  have e : knownJob { latS (having latT 4 5) with jobs := [{ aJob with tid := 7, bolt := none, state := .done }] } 0x10001 5 =
      some { aJob with tid := 7, bolt := none, state := .done } := by decide +kernel
  cases Option.some.inj (e.symm.trans hj); exact .inl rfl

/-- A lane with the address of the template in g6 and handle 3 with two buffers in g8. -/
def thdlT : Thread := having (having (wT 0) 6 0x10000) 8 0x23
def thdlS : State := { (wS wBolt [thdlT]).putTlb 0 [tlbE 0x1AD] with mem := templateMem }

theorem witness_TileHandles :
    Meets thdlS thdlT rThdl (lForm 0 6 8 0 0) false false (fun s l =>
      ∃ b k c, (l.thread.bolt.bind s.bolt?) = some b ∧
        checkCard s l.thread s.cur.core (addressOf (lForm 0 6 8 0 0) l) = .ok k c ∧ l.b.toNat / 64 = 0 ∧
        1 ≤ l.b.toNat / 16 % 4 ∧ l.b.toNat / 16 % 4 ≤ 2 ∧ templateOk c.card (l.b.toNat / 16 % 4) = true ∧
        k.handleBusy b (l.b.toNat % 16) = false) ∧
    Meets (wS wBolt [wT 0]) (wT 0) rClfl (lForm 0 6 0 0 15) false false (fun s l => ∃ b, (l.thread.bolt.bind s.bolt?) = some b ∧
      0 ≤ addressOf (lForm 0 6 0 0 15) l ∧ addressOf (lForm 0 6 0 0 15) l < 16 ∧
      s.handleBusy b (addressOf (lForm 0 6 0 0 15) l).toNat = false) ∧
    Alone (latS latM) latM rThdl (lForm 0 6 8 0 0) false false (fun _ l => l.thread.onLatency = true) ∧
    Alone (latS latM) latM rClfl (lForm 0 6 0 0 0) false false (fun _ l => l.thread.onLatency = true) ∧
    Alone (wS wBolt [wT 0]) (wT 0) rClfl (lForm 0 6 0 0 16) false false (fun s l => (l.thread.bolt.bind s.bolt?).isSome = true ∧
      16 ≤ addressOf (lForm 0 6 0 0 16) l) := by
  refine ⟨meets_of (by decide +kernel) ?_, meets_of (by decide +kernel) ⟨wBolt, by decide +kernel⟩,
    alone_of (by decide +kernel) (by decide +kernel), alone_of (by decide +kernel) (by decide +kernel),
    alone_of (by decide +kernel) (by decide +kernel)⟩
  obtain ⟨k, c, h, hp⟩ := chk_of (c := checkCard thdlS (laneFor thdlS thdlT rThdl (lForm 0 6 8 0 0)).thread 0 0x10000)
    (p := fun k c => templateOk c.card 2 && !k.handleBusy wBolt 3) (by decide +kernel)
  rw [Bool.and_eq_true] at hp
  exact ⟨wBolt, k, c, by decide +kernel, h, by decide +kernel, by decide +kernel, by decide +kernel, hp.1,
    (Bool.not_eq_true' _).mp hp.2⟩

/-- A copy within an allotment; one that another holds up; one whose source has no translation; one that runs with what it
has to write. -/
theorem witness_CopyJobs :
    (let s := jobS [aJob]
     s.jobs.find? (fun x => x.handle == aJob.handle) = some aJob ∧ aJob.kind = .copy aCard ∧ aJob.state = .queued ∧
      s.heldUp aJob = false ∧ s.guardsJob aJob = false ∧ (∃ k out, aCard.run s aJob = .ok k out ∧ true = true) ∧
      aJob.stmp = false ∧ aJob.early = [] ∧ aCard.op = 0 ∧ aCard.swb = 0 ∧ aCard.satt = 0 ∧ aCard.sspace = 1 ∧ aCard.dspace = 1 ∧
      aCard.cols ≤ aCard.dpitch ∧ aCard.src.toNat + aCard.rows * aCard.spitch + aCard.cols ≤ 2 ^ 21 ∧
      aCard.dst.toNat + aCard.rows * aCard.dpitch + aCard.cols ≤ 2 ^ 21 ∧ aJob.spBolts.head? = some (some wBolt.id) ∧
      s.bolt? wBolt.id = some wBolt ∧ wBolt.bstate ≠ .done ∧ Memory.wf wBolt.spad = true) ∧
    (jobS [{ aJob with handle := 4, num := 0 }, aJob]).heldUp aJob = true ∧
    (∃ k j' va, { aCard with sspace := 0 }.run (jobS [{ aJob with kind := .copy { aCard with sspace := 0 } }])
      { aJob with kind := .copy { aCard with sspace := 0 } } = .fail k j' 1 va) ∧
    (let j : Job := { aJob with state := .running, out := [⟨1, 0x100, [1, 2], [false, false]⟩] }
     (jobS [j]).jobs.find? (fun x => x.handle == j.handle) = some j ∧ j.state = .running ∧ (jobS [j]).guardsJob j = false ∧
      (∀ ch ∈ j.out, ch.space ≠ 0) ∧ ∃ k j', jobWrites (jobS [j]) j j.out = .ok k j' ∧ true = true) ∧
    (let j : Job := { aJob with state := .running, spBolts := [], out := [⟨1, 0x100, [1, 2], [false, false]⟩] }
     ∃ k j' va, jobWrites (jobS [j]) j j.out = .fail k j' 2 va) ∧
    PlainRange (jobS [aJob]) 0x200000 8 := by
  refine ⟨⟨rfl, rfl, rfl, by decide +kernel, by decide +kernel, run_of (p := fun _ _ => true) (by decide +kernel),
    by decide +kernel⟩, by decide +kernel, fail_of (by decide +kernel),
    ⟨rfl, rfl, by decide +kernel, by decide +kernel, run_of (p := fun _ _ => true) (by decide +kernel)⟩,
    fail_of (by decide +kernel), plain_of rfl rfl _ _ (by decide +kernel)⟩

/-- A stream card taken apart, and jobs of it. -/
def aStream : SCard :=
  { kslot := 0, cipher := 0, comp := 0, mfmt := 0xFF, sfmt := 0xFF, port := 0, ns := 1, lba := 0, clen := 0, nblk := 1,
    buf := 0x10000, blen := 4, nonce := 0 }

def streamJob (k : JKind) (drive : Option (Bool × Nat × List Byte)) : Job :=
  { aJob with
    handle := 0x400 * 2 ^ 48, kind := k, tid := 7, bolt := none, spawn := 0, state := .running, reads := [], writes := []
    stmp := true, stampPa := 0x200100, drive }

def streamS (j : Job) (down : List Nat) : State :=
  { (latS latM).putTlb 256 [tlbE 0x1AD] with jobs := [j], outside := { Outside.reset with storageDown := down } }

/-- Page tables with a page at 0x10000 of space 1 that can be written. -/
def readS (j : Job) : State := { tableS 0x2D with jobs := [j], mem := memStore (tableS 0x2D).mem 0x6008 [0x3D] }

theorem witness_StorageStreams :
    Meets (cardS latM streamMem) latM rMarm (lForm 4 6 0 0 0) true false (fun s l =>
      l.thread.wait ≠ .submitted ∧ l.thread.lost = none ∧ s.groupPerformed = true ∧
        ∃ k j, checkStream s l.thread s.cur.core .dealloc (addressOf (lForm 4 6 0 0 0) l) = .ok k j ∧
          k.acceptsNow 0x400 j = true) ∧
    Meets (cardS latM []) latM rDst2 (sForm 4 6 8) true false (fun s l =>
      l.thread.wait ≠ .submitted ∧ l.thread.lost = none ∧ s.groupPerformed = true ∧
        ∃ k j, checkFlush s l.thread s.cur.core l.a l.b = .ok k j ∧ k.acceptsNow 0x400 j = true) ∧
    (∀ e ∈ [(JKind.sread aStream, true, 4, [(1 : Byte), 2, 3, 4]), (.swrite aStream, true, 4, []), (.sdealloc aStream, false, 0, [])],
      let j := streamJob e.1 none
      (streamS j []).jobs.find? (fun x => x.handle == j.handle) = some j ∧ j.state = .running ∧ j.drive = none ∧
        (streamS j []).outside.storageDown.contains (streamEngine j - 0x400) = false ∧
        answerFits j e.2.1 e.2.2.1 e.2.2.2 = true ∧ (streamS j []).heldUp j = false ∧
        j.doomed = false ∧ ¬ (streamS j [0]).outside.storageDown.contains (streamEngine j - 0x400) = false ∧
        ∀ x, j.zeros 7 = some x → jobNeedsXfer (streamS j [0]) j x = none) ∧
    ((streamJob .flush none).kind = .flush ∧ (streamJob .flush none).state = .running) ∧
    (let j : Job := { streamJob (.swrite aStream) (some (true, 4, [])) with out := [⟨3, 0, [1, 2, 3, 4], []⟩] }
     j.kind = .swrite aStream ∧ ((j.out.head?.map Chunk.bytes).getD []).length + (if aStream.cipher = 1 then 16 else 0) ≤
        aStream.nblk * 4 ∧ PlainRange (streamS j []) (j.stampPa + 8) 8 ∧ PlainRange (streamS j []) j.stampPa 8 ∧
      Memory.wf (streamS j []).mem = true ∧ j.stmp = true) ∧
    (let j : Job := { streamJob (.swrite aStream) (some (true, 3, [])) with out := [⟨3, 0, [1, 2, 3, 4], []⟩] }
     aStream.nblk * 3 < ((j.out.head?.map Chunk.bytes).getD []).length + if aStream.cipher = 1 then 16 else 0) ∧
    (let j := streamJob (.sread aStream) (some (true, 4, [1, 2, 3, 4]))
     aStream.decode 4 [1, 2, 3, 4] = .ok [1, 2, 3, 4] ∧ j.begun = 0 ∧ j.doomed = false ∧
      jobNeedsXfer (readS j) j (aStream.chunk 0 [1, 2, 3, 4]) = none ∧
      ∃ k j', jobWrite (readS j) j (aStream.chunk 0 [1, 2, 3, 4]) = .ok k j' ∧
        decide (j'.handle = j.handle ∧ k.jobs = (readS j).jobs ∧ j' = { j with wstamp := j'.wstamp }) = true) := by
  refine ⟨meets_of (by decide +kernel) ⟨by decide +kernel, by decide +kernel, by decide +kernel, ?_⟩,
    meets_of (by decide +kernel) ⟨by decide +kernel, by decide +kernel, by decide +kernel, ?_⟩, by decide +kernel, by decide +kernel,
    ⟨rfl, by decide +kernel, plain_of rfl rfl _ _ (by decide +kernel), plain_of rfl rfl _ _ (by decide +kernel), rfl, rfl⟩, by decide +kernel, rfl,
    rfl, rfl, by decide +kernel, run_of (p := fun k (j' : Job) => decide (j'.handle = 0x400 * 2 ^ 48 ∧
        k.jobs = [streamJob (.sread aStream) (some (true, 4, [1, 2, 3, 4]))] ∧
        j' = { streamJob (.sread aStream) (some (true, 4, [1, 2, 3, 4])) with wstamp := j'.wstamp })) (by decide +kernel)⟩
  · exact chk_of (p := fun k j => k.acceptsNow 0x400 j) (by decide +kernel)
  · exact chk_of (p := fun k j => k.acceptsNow 0x400 j) (by decide +kernel)

/-- AtArray as a check. -/
def atArrayB (s : State) (r : OpRule) (f : Fields) (b : Bolt) (ls : List (Nat × Thread)) (n : Nat) (t : Thread) : Bool :=
  groupB s ls && decide (ls.head? = some (n, t)) && laneReadyB s r f false t && !touchesPort r f &&
  ls.all (fun p => (writeRegs r f).all fun m => (p.2.reg m).full) && ls.all (fun p => !p.2.onLatency) &&
  decide (t.bolt = some b.id) && decide (s.bolt? b.id = some b)

theorem atArray_of {s : State} {r : OpRule} {f : Fields} {b : Bolt} {ls : List (Nat × Thread)} {n : Nat} {t : Thread}
    (h : atArrayB s r f b ls n t = true) : AtArray s r f b ls n t := by
  simp only [atArrayB, Bool.and_eq_true, List.all_eq_true, decide_eq_true_eq, Bool.not_eq_true'] at h
  obtain ⟨⟨⟨⟨⟨⟨⟨h1, h2⟩, h3⟩, h4⟩, h5⟩, h6⟩, h7⟩, h8⟩ := h
  exact ⟨group_of h1, h2, laneReady_of h3, h4, h5, h6, h7, h8⟩

/-- Tiles of depth 1: an A tile at 0 and a B set at 1216. -/
def mBolt : Bolt := { wBolt with spad := [(1, 1), (1217, 1), (2433, 1), (3649, 1), (4865, 1)] }

/-- The same with handles 0 to 4 whose buffers hold those tiles at offset 0. -/
def hBolt : Bolt :=
  { mBolt with handles := (List.range 5).map fun h =>
      (h, { card := { aCard with dst := BitVec.ofNat 64 (1216 * h), dpitch := 1216, depth := 1 }, raw := [], nbuf := 1,
            offs := [some 0], fills := [none], oldest := 0 }) }

/-- The lane of a weft with operands in g4 to g6. -/
def mT (a b c : Word) : Thread := having (having (having (wT 0) 4 a) 5 b) 6 c

/-- A weft core whose crook the bolt's stage 0 holds. -/
def mS (b : Bolt) (t : Thread) : State := (wS b [t]).modCrook 0 fun c => { c with holder := some (1, 0) }

/-- MMQ's fields: rd 0, operands in g4 to g6. -/
def mmqF (mod : BitVec 8) : Fields := mForm 0 4 5 6 mod

/-- A lane of a weft whose queue is empty and whose core's array has room. -/
def Leads (s : State) (b : Bolt) (r : OpRule) (f : Fields) (t : Thread) : Prop :=
  AtArray s r f b [(0, t)] 0 t ∧ b.pack = false ∧ InQuarter true [(0, t)] 0 ∧ t.loc = .member 0 0 0 ∧
  (∃ w, s.weft? b.core 0 = some w ∧ w.widx = t.weft ∧ w.waitQ = [] ∧ LeadsWeft s true w 0 t) ∧
  (s.wcore b.core).aq.length < 32

theorem leads_of {s : State} {b : Bolt} {r : OpRule} {f : Fields} {t : Thread} (w : Weft)
    (h : atArrayB s r f b [(0, t)] 0 t = true) (hb : b.pack = false) (hl : t.loc = .member 0 0 0)
    (hw : s.weft? b.core 0 = some w ∧ w.widx = t.weft ∧ w.waitQ = [] ∧ (w.members.filter fun p => (!true || p.1 / 8 == 0 / 8) &&
      ((s.thread? p.2).map fun u => u.active && u.pc == t.pc).getD false) = [(0, t.tid)])
    (ha : (s.wcore b.core).aq.length < 32) : Leads s b r f t :=
  ⟨atArray_of h, hb, fun _ => ⟨by decide, fun p hp => by simp only [List.mem_cons, List.not_mem_nil, or_false] at hp; rw [hp]⟩,
    hl, ⟨w, hw.1, hw.2.1, hw.2.2.1, ⟨[], hw.2.2.2⟩⟩, ha⟩

/-- The tile of depth 1 of a bolt's scratchpad. -/
def tileAt (v : Nat) (buf : Option (Nat × Nat)) : Tile := ⟨1, v, v, 1, buf, none⟩

theorem tileAt_of {s : State} {b : Bolt} {v : Nat} {buf : Option (Nat × Nat)} (hv : (0 : Int) ≤ v ∧ (v : Int) < 2 ^ 23 ∧ (v : Int) % 64 = 0)
    (h : s.foldBolt b (v / 2 ^ 21) = some b ∧ headerOk (leNat (memBytes b.spad (v % 2 ^ 21) 64)) = true ∧
      v % 2 ^ 21 + (704 + 512 * (leNat (memBytes b.spad (v % 2 ^ 21) 64) / 2 ^ 8 % 2 ^ 8)) ≤ 2048 * b.rows ∧
      s.scoreboard b.id (v % 2 ^ 21) 64 = false ∧
      s.scoreboard b.id (v % 2 ^ 21) (704 + 512 * (leNat (memBytes b.spad (v % 2 ^ 21) 64) / 2 ^ 8 % 2 ^ 8)) = false ∧
      b.poisoned (v % 2 ^ 21) 64 = false ∧
      tileAt v buf = ⟨b.id, v % 2 ^ 21, v, leNat (memBytes b.spad (v % 2 ^ 21) 64) / 2 ^ 8 % 2 ^ 8, buf, none⟩) :
    TileAt s b v buf (tileAt v buf) :=
  ⟨b, hv.1, hv.2.1, hv.2.2, h⟩

/-- Operands by address. -/
theorem witness_quarter : let t := mT 0 1216 1
    Leads (mS mBolt t) mBolt rMmq (mmqF 0) t ∧ 1 < mBolt.nslice ∧
    QuarterOp (mmqF 0) false (mS mBolt t) mBolt (readLane rMmq (mmqF 0) 0 t []) 1
      (.quarter (tileAt 0 none) [tileAt 1216 none, tileAt 2432 none, tileAt 3648 none, tileAt 4864 none] false) := by
  refine ⟨leads_of (wWeft [mT 0 1216 1]) (by decide +kernel) rfl rfl (by decide +kernel) (by decide +kernel), by decide +kernel,
    by decide +kernel, by decide +kernel, by decide +kernel, by decide +kernel, by decide +kernel, _, _, _, _, _, rfl, ?_, ?_⟩
  · exact tileAt_of (v := 0) (by decide) (by decide +kernel)
  · intro x hx
    simp only [List.mem_cons, List.not_mem_nil, or_false] at hx
    rcases hx with rfl | rfl | rfl | rfl <;> refine ⟨rfl, ?_⟩
    · exact tileAt_of (v := 1216) (by decide) (by decide +kernel)
    · exact tileAt_of (v := 2432) (by decide) (by decide +kernel)
    · exact tileAt_of (v := 3648) (by decide) (by decide +kernel)
    · exact tileAt_of (v := 4864) (by decide) (by decide +kernel)

/-- Operands by handle, and a handle whose fill has failed. -/
theorem witness_quarter_handles : let t := mT 0 1 0
    Leads (mS hBolt t) hBolt rMmq (mmqF 3) t ∧
    QuarterOp (mmqF 3) true (mS hBolt t) hBolt (readLane rMmq (mmqF 3) 0 t []) 0
      (.quarter (tileAt 0 (some (0, 0))) [tileAt 1216 (some (1, 0)), tileAt 2432 (some (2, 0)), tileAt 3648 (some (3, 0)),
        tileAt 4864 (some (4, 0))] true) ∧
    (let x : Handle := { card := { aCard with dst := 0, dpitch := 1216, depth := 1 }, raw := [], nbuf := 1, offs := [some 0],
                         fills := [some 5], oldest := 0 }
     OperandTile (jobS [{ aJob with state := .failed }]) { mBolt with handles := [(0, x)] } true 0 0
       ⟨1, 0, 0, 1, some (0, 0), some 5⟩) := by
  refine ⟨leads_of (wWeft [mT 0 1 0]) (by decide +kernel) rfl rfl (by decide +kernel) (by decide +kernel), ⟨by decide +kernel,
    by decide +kernel, by decide +kernel, by decide +kernel, by decide +kernel, _, _, _, _, _, rfl, ?_, ?_⟩, ?_⟩
  · exact ⟨_, 0, rfl, by decide +kernel, tileAt_of (v := 0) (by decide) (by decide +kernel)⟩
  · intro x hx
    simp only [List.mem_cons, List.not_mem_nil, or_false] at hx
    rcases hx with rfl | rfl | rfl | rfl <;> refine ⟨rfl, _, 0, rfl, by decide +kernel, ?_⟩
    · exact tileAt_of (v := 1216) (by decide) (by decide +kernel)
    · exact tileAt_of (v := 2432) (by decide) (by decide +kernel)
    · exact tileAt_of (v := 3648) (by decide) (by decide +kernel)
    · exact tileAt_of (v := 4864) (by decide) (by decide +kernel)
  · refine ⟨_, 0, rfl, by decide +kernel, fun job hj => ?_, by decide +kernel⟩
    have e : (jobS [{ aJob with state := .failed }]).job? 5 = some { aJob with state := .failed } := by decide +kernel
    cases Option.some.inj (e.symm.trans hj); rfl

/-- The forms of MZERO, MLDA, MERR.r and MERR.c. -/
def matrixForms : List (OpRule × Fields) :=
  [(rMzero, sForm 0 4 0), (rMlda, lForm 0 4 5 0 0), (rMerr, sForm 7 4 0), (rNone, sForm 0 0 0)]

/-- A bolt on its own, one whose array still holds an operation of the weft, a pack bolt, a lane on a latency core, and a
lane without the crook. -/
theorem witness_MatrixInstructions :
    let t := mT 0 0x200 1
    let s := mS mBolt t
    let busy : State := withOp s mBolt 0 0 .zero
    (∀ e ∈ matrixForms,
      AtArray s e.1 e.2 mBolt [(0, t)] 0 t ∧ InQuarter true [(0, t)] 0) ∧ mBolt.pack = false ∧
    ((readLane rMzero (sForm 0 4 0) 0 t []).a.toNat < 16 ∧
      (sForm 0 4 0).rd.val + (readLane rMzero (sForm 0 4 0) 0 t []).a.toNat < mBolt.nslice ∧
      s.matrixWaits mBolt t.weft = false ∧ (s.wcore mBolt.core).aq.length < 32) ∧
    Moves (lForm 0 4 5 0 0) 4 s mBolt (readLane rMlda (lForm 0 4 5 0 0) 0 t []) 0 ⟨1, 0, 16384⟩ 0 512 ∧
    s.storeGuard 1 0 16384 = false ∧
    (weftWaits s mBolt (readLane rMerr (sForm 7 4 0) 0 t []) = false ∧
      (readLane rMerr (sForm 7 4 0) 0 t []).a.toNat < 8) ∧
    (AtArray busy rNone (sForm 0 0 0) mBolt [(0, t)] 0 t ∧
      weftWaits busy mBolt (readLane rNone (sForm 0 0 0) 0 t []) = true) ∧
    AtArray (mS { mBolt with pack := true } t) rMmq (mmqF 0) { mBolt with pack := true } [(0, t)] 0 t ∧
    (Ready (latS latT) rMmq (mmqF 0) false [(0, latT)] ∧ latT.onLatency = true ∧
      ∀ c, trapWaits (latS latT) 7 ⟨.needw, c, false⟩ = false) ∧
    (AtArray (wS mBolt [t]) rMmq (mmqF 0) mBolt [(0, t)] 0 t ∧
      ((wS mBolt [t]).wcore 0).crook.holder.map (·.1) ≠ some mBolt.id ∧ ((wS mBolt [t]).wcore 0).crook.claims = []) := by
  have hq : InQuarter true [(0, mT 0 0x200 1)] 0 := fun _ => ⟨by decide, fun p hp => by
    simp only [List.mem_cons, List.not_mem_nil, or_false] at hp; rw [hp]⟩
  have h : ∀ e ∈ matrixForms, atArrayB (mS mBolt (mT 0 0x200 1)) e.1 e.2 mBolt [(0, mT 0 0x200 1)] 0 (mT 0 0x200 1) = true := by
    decide +kernel
  refine ⟨fun e he => ⟨atArray_of (h e he), hq⟩, rfl, by decide +kernel, ⟨by decide +kernel, by decide +kernel, by decide +kernel,
    by decide +kernel, by decide +kernel, by decide +kernel, by decide +kernel, by decide +kernel, by decide +kernel, mBolt,
    by decide +kernel⟩, by decide +kernel, by decide +kernel, ⟨atArray_of (by decide +kernel), by decide +kernel⟩,
    atArray_of (by decide +kernel), ⟨ready_of (by decide +kernel), by decide +kernel, fun c => ?_⟩, atArray_of (by decide +kernel),
    by decide +kernel⟩
  have h0 : (latS latT).thread? 7 = some latT := by decide +kernel
  have h1 : (latS latT).loadsDone 7 = true := by decide +kernel
  have h2 : latT.nw = false := by decide +kernel
  simp [trapWaits, h0, h1, h2]

/-- An MSTA of FP32 elements that has issued and waits, and a quarter that waits for a fill. -/
def aWait : QWait := ⟨9, 0x4000, mmqF 0, 0, .store ⟨1, 0, 16384⟩ 0 512 0⟩
def fillWait : QWait := ⟨9, 0x4000, mmqF 1, 0, .quarter 0 false (.use 0 0 none) [.spad 1216, .spad 2432, .spad 3648, .spad 4864]⟩

/-- A weft that waits. -/
def waitS (b : Bolt) (q : QWait) : State := (mS b (wT 0)).modWeft 0 0 fun w => { w with waitQ := [q] }

/-- Whether an operation is accepted. -/
def acceptB (a : Accept) : Nat :=
  match a with
  | .ok _ => 0
  | .trap _ => 1
  | .wait => 2

theorem witness_waits :
    (∀ q ∈ [aWait, { fillWait with kind := .quarter 0 false (.spad 0) [.spad 1216, .spad 2432, .spad 3648, .spad 4864] }],
      let s := waitS mBolt q
      s.weft? 0 0 = some { wWeft [wT 0] with waitQ := [q] } ∧ s.bolt? 1 = some mBolt ∧ mBolt.evicting = false ∧
        s.waitStands { wWeft [wT 0] with waitQ := [q] } q = true ∧ acceptB (s.acceptWait mBolt 0 q) = 0) ∧
    acceptB ((waitS mBolt aWait).acceptWait mBolt 0
      { fillWait with kind := .quarter 0 false (.spad 64) [.spad 1216, .spad 2432, .spad 3648, .spad 4864] }) = 1 ∧
    acceptB ((withOp (waitS mBolt aWait) mBolt 0 0 (.store ⟨1, 0, 16384⟩ 0 512 0)).acceptWait mBolt 0 aWait) = 2 ∧
    ((waitS mBolt aWait).scoreboard 1 0 16384 = false ∧ (waitS mBolt aWait).storeGuard 1 0 16384 = false ∧
      ((waitS mBolt aWait).wcore mBolt.core).aq.length < 32) := by decide +kernel

theorem witness_fill : let x : Handle := { card := { aCard with depth := 1, dpitch := 1216 }, raw := [], nbuf := 1,
                                           offs := [none], fills := [none], oldest := 0 }
    let b : Bolt := { mBolt with handles := [(0, x)] }
    let s := waitS b fillWait
    s.weft? 0 0 = some { wWeft [wT 0] with waitQ := [fillWait] } ∧ s.bolt? 1 = some b ∧ b.id = 1 ∧ b.evicting = false ∧
    s.waitStands { wWeft [wT 0] with waitQ := [fillWait] } fillWait = true ∧ s.thread? fillWait.leader = some (wT 0) ∧
    tabGet b.handles 0 = some x ∧ x.hit 0 = none ∧ s.fillBuffer b 0 x = some 0 ∧ s.performed fillWait.leader = true ∧
    s.acceptsNow 0 (s.fillJob (wT 0) b 0 x 0 0) = true := by decide +kernel

/-- An operation that the array holds. -/
def anOp (k : ArrKind) (data : Option (List SpData)) : ArrOp := { accepting (mS mBolt (wT 0)) mBolt 0 1 k with data }

/-- The array with an operation at a cycle, and perhaps a pass. -/
def arrayS (o : ArrOp) (cyc : Nat) (p : Option Pass) : State :=
  let s := mS mBolt (wT 0)
  s.putW 0 { s.wcore 0 with aq := [o], cyc, pass := p }

def aQuarter : ArrKind :=
  .quarter (tileAt 0 none) [tileAt 1216 none, tileAt 2432 none, tileAt 3648 none, tileAt 4864 none] false

theorem witness_MatrixSteps :
    (let s := arrayS (anOp aQuarter none) 4 none
     let c := s.wcore 0
     c.aq = [anOp aQuarter none] ∧ s.bolt? 1 = some mBolt ∧ c.pass = none ∧ (anOp aQuarter none).cycle + 4 ≤ c.cyc ∧
      c.cluster.nextPass ≤ c.cyc ∧ c.cyc < c.cluster.lastEnd + 256) ∧
    ((arrayS (anOp aQuarter none) 3 none).wcore 0).cyc < (anOp aQuarter none).cycle + 4 ∧
    ((arrayS (anOp aQuarter none) 256 none).wcore 0).cluster.lastEnd + 256 ≤ ((arrayS (anOp aQuarter none) 256 none).wcore 0).cyc ∧
    (∀ cyc ∈ [19, 20], let s := arrayS (anOp aQuarter (some [⟨[], []⟩, ⟨[], []⟩])) cyc (some ⟨[0], 4, 16, 1, 0x10001, 1⟩)
     let c := s.wcore 0
     c.pass = some ⟨[0], 4, 16, 1, 0x10001, 1⟩ ∧ (anOp aQuarter (some [⟨[], []⟩, ⟨[], []⟩])).id = 0 ∧
      c.aq = [anOp aQuarter (some [⟨[], []⟩, ⟨[], []⟩])] ∧ s.bolt? 1 = some mBolt ∧ mBolt.id = 1 ∧ mBolt.bstate ≠ .done ∧
      (4 + 16 ≤ c.cyc ↔ cyc = 20)) ∧
    (∀ k ∈ [ArrKind.zero, .load ⟨1, 0, 16384⟩ 0 512 false, .store ⟨1, 0, 16384⟩ 0 512 0, .store ⟨1, 0, 4096⟩ 0 128 4],
      let s := arrayS (anOp k none) 4 none
      (s.wcore 0).aq = [anOp k none] ∧ s.bolt? (anOp k none).bolt = some mBolt ∧ mBolt.id = (anOp k none).bolt ∧
        mBolt.bstate ≠ .done ∧ Memory.wf mBolt.spad = true) ∧
    (128 * (storeBits 0 / 8) ≤ 512 ∧ 128 * (storeBits 4 / 8) ≤ 128) := by decide +kernel

theorem witness_SliceUpdates : tabWf mBolt.acc = true ∧ (SpData.mk [] []).poison = [] ∧ mBolt.accErr = [] := by decide +kernel

/-- A thread in lane 0 of the weft in slot 1. -/
def otherT : Thread := { wT 0 with tid := 20, weft := 1, loc := .member 0 1 0 }

/-- A bolt of two wefts, the thread given in lane 0 of the first. -/
def wS2 (b : Bolt) (t u : Thread) : State :=
  { wS b [t] with
    threads := [(t.tid, t), (u.tid, u)]
    wcores := [(0, { wCore [t] with slots := [(0, wWeft [t]), (1, { wWeft [u] with widx := 1 })] })] }

/-- The crook of its core as given. -/
def crS (c : Crook) : State := (wS2 wBolt (wT 0) otherT).modCrook 0 fun _ => c

/-- AtArray of lane 0 in such a state. -/
theorem crS_at {r : OpRule} {f : Fields} {c : Crook} (h : atArrayB (crS c) r f wBolt [(0, wT 0)] 0 (wT 0) = true) :
    AtArray (crS c) r f wBolt [(0, wT 0)] 0 (wT 0) := atArray_of h

/-- No thread waits at CROOK.t. -/
theorem quiet_of {s : State} (h : (s.threads.all fun x => match x.2.wait with | .crook _ => false | _ => true) = true) :
    ∀ n t a, s.thread? n = some t → t.wait ≠ .crook a := by
  intro n t a ht hw
  have : ∀ l : Tab Thread, (l.all fun x => match x.2.wait with | .crook _ => false | _ => true) = true →
      tabGet l n = some t → False := by
    intro l
    induction l with
    | nil => intro _ h; simp [tabGet] at h
    | cons x l ih =>
      intro hl h
      simp only [List.all_cons, Bool.and_eq_true] at hl
      simp only [tabGet] at h
      split at h
      · cases Option.some.inj h; simp [hw] at hl
      · exact ih hl.2 h
  exact this _ h ht

theorem witness_CrookGrants :
    let l := readLane rNone (sForm 0 0 0) 0 (wT 0) []
    let one : State := (wS wBolt [wT 0]).modCrook 0 fun _ => { Crook.free with holder := some (1, 0) }
    (∀ c ∈ [Crook.free, { Crook.free with holder := some (1, 0) }, { Crook.free with holder := some (2, 0) },
        { Crook.free with holder := some (2, 0), claims := [(1, 0)] }, { Crook.free with holder := some (1, 0), votes := [0] },
        { Crook.free with holder := some (1, 0), votes := [1], kind := true }],
      AtArray (crS c) rNone (sForm 0 0 0) wBolt [(0, wT 0)] 0 (wT 0) ∧ ((crS c).wcore wBolt.core).crook = c ∧
        ∀ n t a, (crS c).thread? n = some t → t.wait ≠ .crook a) ∧
    wBolt.pack = false ∧ AtArray (crS Crook.free) rDst (sForm 4 0 0) wBolt [(0, wT 0)] 0 (wT 0) ∧
    (stageOf wBolt l = 0 ∧ (crS Crook.free).voters wBolt 0 = [0, 1] ∧ l.thread.weft = 0) ∧
    (AtArray one rNone (sForm 0 0 0) wBolt [(0, wT 0)] 0 (wT 0) ∧ (one.wcore 0).crook.votes = [] ∧
      (one.wcore 0).crook.claims = [] ∧ one.voters wBolt 0 = [0] ∧ one.voters wBolt ((0 + 1) % wBolt.nstage) ≠ []) ∧
    (let s := crS { Crook.free with holder := some (1, 0), claims := [(1, 0)] }
     (s.wcore 0).crook.holder = some (wBolt.id, 0) ∧ (s.wcore 0).crook.claims = (wBolt.id, 0) :: [] ∧ s.bolt? 1 = some wBolt ∧
      s.voters wBolt 0 ≠ [] ∧ ¬ ((s.wcore 0).crook.lastAcc.getD (s.wcore 0).crook.tg) + 16384 ≤ (s.wcore 0).cyc) ∧
    (let s := crS { Crook.free with holder := some (1, 0), claims := [(1, 0)] }
     let e := s.putW 0 { s.wcore 0 with cyc := 16384 }
     ((e.wcore 0).crook.lastAcc.getD (e.wcore 0).crook.tg) + 16384 ≤ (e.wcore 0).cyc) := by
  refine ⟨fun c hc => ?_, rfl, crS_at (by decide +kernel), by decide +kernel, ⟨atArray_of (by decide +kernel), by decide +kernel⟩,
    by decide +kernel, by decide +kernel⟩
  simp only [List.mem_cons, List.not_mem_nil, or_false] at hc
  rcases hc with rfl | rfl | rfl | rfl | rfl | rfl <;> exact ⟨crS_at (by decide +kernel), by decide +kernel, quiet_of (by decide +kernel)⟩

theorem arrives_of {s : State} {t : Thread} (b0 : Bolt) (h : s.pend = [] ∧ s.stores = [] ∧ (t.bolt.bind s.bolt? = some b0 ∨
    t.bolt.bind s.bolt? = none) ∧ (s.wcore b0.core).aq = [] ∧ s.matrixWaits b0 t.weft = false) : Arrives s t := by
  refine ⟨by simp [h.1], by simp [h.2.1], fun core slot lane b _ hb => ?_⟩
  rcases h.2.2.1 with e | e
  · cases Option.some.inj (e.symm.trans hb); exact ⟨h.2.2.2.2, fun o ho => by simp [h.2.2.2.1] at ho⟩
  · cases e.symm.trans hb

/-- A lane that waits at BAR, and one that arrives later. -/
def arrivedT : Thread := { wT 1 with sub := .barrier .bar, bwait := some .bar }
def arrivingT : Thread := { wT 0 with sub := .barrier .bar, wait := .arriving 6 0 4 }

/-- The state with a load of thread 9 at home. -/
def loadingS (ts : List Thread) : State := { wS wBolt ts with pend := [homePend 9 0] }

theorem witness_barrier_instructions : ∀ f ∈ [sForm 0 4 0, lForm 0 4 0 0 7],
    Meets (wS wBolt [having (wT 0) 4 0x80000000000000]) (having (wT 0) 4 0x80000000000000) rBar f true false
      (fun s l => barrierTrap s l = none ∧ Arrives s l.thread) ∧
    Meets (loadingS [wT 0]) (wT 0) rBar f true false (fun s l => barrierTrap s l = none ∧ ¬ Arrives s l.thread) ∧
    Alone (wS wBolt [having (wT 0) 4 0x100000000000000]) (having (wT 0) 4 0x100000000000000) rBar f true false
      (fun s l => barrierTrap s l = some ⟨.prot, 0x100000000000000, false⟩) ∧
    Alone (wS { wBolt with pack := true } [wT 0]) (wT 0) rBar f true false
      (fun s l => barrierTrap s l = some ⟨.prot, 0, false⟩) := by
  have hn : ¬ Arrives (loadingS [wT 0]) (wT 0) := fun h => h.1 (homePend 9 0) (by simp [loadingS]) rfl
  have key : ∀ f ∈ [sForm 0 4 0, lForm 0 4 0 0 7],
      (laneFor (loadingS [wT 0]) (wT 0) rBar f).thread = wT 0 ∧
      barrierTrap (loadingS [wT 0]) (laneFor (loadingS [wT 0]) (wT 0) rBar f) = none := by
    unfold barrierTrap; decide +kernel
  intro f hf
  have hk := key f hf
  simp only [List.mem_cons, List.not_mem_nil, or_false] at hf
  rcases hf with rfl | rfl <;>
    exact ⟨meets_of (by decide +kernel) ⟨by unfold barrierTrap; decide +kernel, arrives_of wBolt (by decide +kernel)⟩,
      meets_of (by decide +kernel) ⟨hk.2, hk.1 ▸ hn⟩,
      alone_of (by decide +kernel) (by unfold barrierTrap; decide +kernel),
      alone_of (by decide +kernel) (by unfold barrierTrap; decide +kernel)⟩

theorem witness_BarrierArrivals :
    ((wS wBolt [arrivingT]).thread? arrivingT.tid = some arrivingT ∧ arrivingT.sub = .barrier .bar ∧
      arrivingT.wait = .arriving 6 0 4 ∧ Arrives (wS wBolt [arrivingT]) arrivingT) ∧
    ((loadingS [arrivingT]).thread? arrivingT.tid = some arrivingT ∧ ¬ Arrives (loadingS [arrivingT]) arrivingT) ∧
    (∀ m c n, (wT 0).wait ≠ .arriving m c n) ∧
    (∀ x ∈ [(wBolt, wT 1), ({ wBolt with barWord := ⟨false, 2, 1⟩ }, arrivedT)], ∀ k ∈ [BarKind.bar, .barSt, .fbar],
      let s := wS x.1 [wT 0, x.2]
      tabWf s.bolts = true ∧ (∀ y ∈ s.bolts, y.2.id = y.1) ∧ s.thread? 9 = some (wT 0) ∧ (wT 0).bolt = some x.1.id ∧
        s.bolt? x.1.id = some x.1 ∧ (wT 0).stage < 8 ∧ InScope s x.1 k (wT 0).stage (wT 0) ∧
        ((s.flockOf x.1).head?).getD x.1 = x.1 ∧ (wT 0).loc = .member 0 0 0 ∧ s.weft? 0 0 = some (wWeft [wT 0, x.2]) ∧
        9 ∈ (wWeft [wT 0, x.2]).members.map (·.2) ∧ x.1.bstate ≠ .saved ∧ Keyed s) ∧
    (wBolt.barWord.arrived + 1 ≠ wBolt.barWord.expect ∧ (1 + 1 = wBolt.barWord.expect) ∧
      arrivedT.bwait = some .bar) := by
  refine ⟨⟨by decide +kernel, rfl, rfl, arrives_of wBolt (by decide +kernel)⟩, ⟨by decide +kernel, fun h =>
    h.1 (homePend 9 0) (by simp [loadingS]) rfl⟩, fun m c n h => ?_, fun x hx k hk => ?_, by decide +kernel⟩
  · have e : (wT 0).wait = .none := by decide +kernel
    cases e.symm.trans h
  · simp only [List.mem_cons, List.not_mem_nil, or_false] at hx hk
    have scope : ∀ b u, (wT 0).bolt = some b.id → InScope (wS b [wT 0, u]) b .bar 0 (wT 0) ∧ InScope (wS b [wT 0, u]) b .barSt (wT 0).stage (wT 0) :=
      fun b u h => ⟨h, h, rfl⟩
    rcases hx with rfl | rfl <;> rcases hk with rfl | rfl | rfl <;>
      exact ⟨by decide +kernel, by decide +kernel, by decide +kernel, by decide +kernel, by decide +kernel, by decide +kernel,
        by first | exact (scope _ _ (by decide +kernel)).1 | exact (scope _ _ (by decide +kernel)).2 |
          (unfold InScope; decide +kernel), by decide +kernel, by decide +kernel, by decide +kernel, by decide +kernel,
        by decide +kernel, keyed_of (by decide +kernel)⟩

/-- A lane whose barrier has released, in a weft that waits for blocks. -/
def releasedT : Thread := { wT 0 with sub := .barrier .bar }
def awaitingW (ts : List Thread) : Weft :=
  { wWeft ts with wstate := .awaiting, held := false, eligible := true, carry := 6, next := 3 }

/-- A weft of a bolt in slot 1 that waits, and one that holds all the blocks of the core but n. -/
def blocksS (n : Nat) : State :=
  { blank with
    threads := [(9, releasedT), (20, otherT)]
    wcores := [(0, { WCore.halted0 with
      halted := false, rfblk := 7 + n
      slots := [(0, { wWeft [otherT] with widx := 1 }), (1, awaitingW [releasedT])] })]
    bolts := [(1, wBolt)] }

theorem witness_WavesAndBlocks :
    (let s : State := (wS wBolt [releasedT]).putW 0 { wCore [releasedT] with waves := [⟨1, [0], 0, none⟩] }
     (s.wcore 0).waves.find? (fun v => v.bolt == 1 && decide (v.at_ ≤ (s.wcore 0).cyc)) = some ⟨1, [0], 0, none⟩ ∧
      s.weft? 0 0 = some (wWeft [releasedT])) ∧
    ((wS wBolt [wT 0]).wcore 0).waves.find? (fun v => v.bolt == 1 && decide (v.at_ ≤ ((wS wBolt [wT 0]).wcore 0).cyc)) = none ∧
    (∀ n ∈ [2, 3], let s := blocksS n
      (s.wcore 0).slots.filter (fun x => x.2.wstate == .awaiting && x.2.eligible) = [(1, awaitingW [releasedT])] ∧
      (s.wcore 0).slots.filter (fun x => x.2.held) = [(0, { wWeft [otherT] with widx := 1 })] ∧
      s.bolt? (awaitingW [releasedT]).bolt = some wBolt ∧ (∃ x ∈ s.boltsOn 0, x.order = wBolt.order) ∧
      (∀ x ∈ s.boltsOn 0, wBolt.order ≤ x.order) ∧ s.needOf (awaitingW [releasedT]) = 3 ∧ s.freeBlocks 0 = n ∧ s.pend = [] ∧
      s.weft? 0 1 = some (awaitingW [releasedT]) ∧ ((s.memberThreads (awaitingW [releasedT])).map Thread.tid).Nodup ∧
      releasedT ∈ s.memberThreads (awaitingW [releasedT]) ∧ releasedT.inBarrier = true ∧ releasedT.arriving = false ∧
      releasedT.bwait = none ∧ ∀ t ∈ s.memberThreads (awaitingW [releasedT]), t.entry = none) ∧
    (let s : State := { wS wBolt [releasedT, arrivedT] with
      wcores := [(0, { WCore.halted0 with halted := false, slots := [(0, awaitingW [releasedT, arrivedT])] })] }
     Keyed s ∧ tabWf s.wcores = true ∧ tabWf s.threads = true ∧ s.weft? 0 0 = some (awaitingW [releasedT, arrivedT]) ∧
      s.memberThreads (awaitingW [releasedT, arrivedT]) = [releasedT, arrivedT] ∧ arrivedT.hasArrived = true ∧
      releasedT.hasArrived = false ∧ arrivedT.entry = none ∧ (awaitingW [releasedT, arrivedT]).reclaimed = false ∧
      [releasedT, arrivedT].filter Thread.departing = [releasedT] ∧ releasedT.loc = .member 0 0 0 ∧
      ((s.weftsOf wBolt).filter fun x => [0].contains x.1 && (s.memberThreads x.2).any fun t =>
        t.inBarrier && !t.arriving && t.bwait.isNone && t.sub != .extractParked) = [(0, awaitingW [releasedT, arrivedT])]) ∧
    Keyed (blocksS 2) ∧ otherT.inBarrier = false :=
  ⟨by decide +kernel, by decide +kernel, by decide +kernel,
    ⟨keyed_of (by decide +kernel), by decide +kernel, by decide +kernel, by decide +kernel⟩,
    keyed_of (by decide +kernel), by decide +kernel⟩

/-- A thread that is registered at network barrier 255, with its generation and the arrivals it waits for. -/
def nbT (gen pstate : Nat) (arr : Tab Nat) : Thread := { having latT 8 2 with nbReg := [⟨255, gen, pstate, 0⟩], nbArr := arr }

/-- The barrier with it as a participant. -/
def nbS (t : Thread) : State := { latS t with nbars := [(255, ⟨1, 2, 1, 0, 0, [⟨false, 7, 256, false⟩]⟩)] }

theorem waits_not {s : State} {t : Thread} {n : Nat} (h : tabGet t.nbArr n = none ∨ (s.nbWords (partOf t)).all (fun w =>
    w.nbid != n || some w.gen != tabGet t.nbArr n) = true) : ¬ waitsRelease s t n := by
  rintro ⟨w, g, hw, hg, e⟩
  rcases h with h | h
  · cases h.symm.trans hg
  · have := List.all_eq_true.1 h w (List.mem_of_find?_eq_some hw)
    have hf := List.find?_some hw
    simp only [hg, e, beq_iff_eq] at this hf
    simp [hf] at this

theorem witness_NetworkBarriers : let f := lForm 0 6 8 0 255
    let new := having latT 8 2
    Meets (latS new) new rThdl f false false (fun s l => initTrap s l.thread (addressOf f l) l.b = none ∧
      registered s (addressOf f l).toNat (partOf l.thread) = false) ∧
    Meets (nbS (nbT 0 0 [])) (nbT 0 0 []) rThdl f false false (fun s l => initTrap s l.thread (addressOf f l) l.b = none ∧
      registered s (addressOf f l).toNat (partOf l.thread) = true) ∧
    Alone (latS new) new rThdl (lForm 0 6 8 0 256) false false (fun s l =>
      initTrap s l.thread (addressOf (lForm 0 6 8 0 256) l) l.b = some ⟨.prot, 256, false⟩) ∧
    Meets (nbS (nbT 0 0 [])) (nbT 0 0 []) rClfl f false false (fun s l => 0 ≤ addressOf f l ∧ addressOf f l ≤ 255 ∧
      ∀ w, (s.nbWords (partOf l.thread)).find? (fun w => w.nbid == (addressOf f l).toNat) = some w → w.pstate ≠ 1) ∧
    Alone (nbS (nbT 0 1 [])) (nbT 0 1 []) rClfl f false false (fun s l => 0 ≤ addressOf f l ∧ addressOf f l ≤ 255 ∧
      ∃ w, (s.nbWords (partOf l.thread)).find? (fun w => w.nbid == (addressOf f l).toNat) = some w ∧ w.pstate = 1) ∧
    Alone (latS new) new rClfl (lForm 0 6 0 0 256) false false (fun _ l => 255 < addressOf (lForm 0 6 0 0 256) l) ∧
    (∀ t ∈ [nbT 0 0 [], nbT 1 0 [(255, 0)]], Meets (nbS t) t rClfl f true false (fun s l =>
      arrivalTrap s l.thread (addressOf f l) true = none ∧ arrivalTrap s l.thread (addressOf f l) false = none ∧
        s.performed l.tid = true ∧ ¬ waitsRelease s l.thread (addressOf f l).toNat ∧
        s.nbHeld l.thread (addressOf f l).toNat = false)) ∧
    Alone (nbS (nbT 0 1 [(255, 0)])) (nbT 0 1 [(255, 0)]) rClfl f true false (fun s l =>
      arrivalTrap s l.thread (addressOf f l) true = none ∧ waitsRelease s l.thread (addressOf f l).toNat) ∧
    (let t := { nbT 1 2 [(255, 0)] with wait := .nbar 255 0 }
     Meets (nbS t) t rClfl f true false (fun s l => ∃ n g, l.thread.wait = .nbar n g ∧ ¬ waitsRelease s l.thread n ∧
        s.nbHeld l.thread n = false)) ∧
    (let t := { nbT 0 1 [(255, 0)] with wait := .nbar 255 0 }
     Alone (nbS t) t rClfl f true false (fun s l => ∃ n g, l.thread.wait = .nbar n g ∧ waitsRelease s l.thread n)) ∧
    (∀ m g, (nbT 0 0 []).wait ≠ .nbar m g) ∧
    Alone (latS new) new rClfl f true false (fun s l => arrivalTrap s l.thread (addressOf f l) true = some ⟨.prot, 255, false⟩) ∧
    ((nbS (nbT 0 0 [])).nbar? 255 = some ⟨1, 2, 1, 0, 0, [⟨false, 7, 256, false⟩]⟩ ∧ tabWf (nbS (nbT 0 0 [])).nbars = true) := by
  refine ⟨meets_of (by decide +kernel) (by decide +kernel), meets_of (by decide +kernel) (by decide +kernel),
    alone_of (by decide +kernel) (by decide +kernel), meets_of (by decide +kernel) ⟨by decide +kernel, by decide +kernel,
      fun w hw => ?_⟩, alone_of (by decide +kernel) ⟨by decide +kernel, by decide +kernel, ⟨255, 0, 1, 0⟩, by decide +kernel⟩,
    alone_of (by decide +kernel) (by decide +kernel), fun t ht => ?_,
    alone_of (by decide +kernel) ⟨by decide +kernel, ⟨255, 0, 1, 0⟩, 0, by decide +kernel⟩,
    meets_of (by decide +kernel) ⟨255, 0, by decide +kernel, waits_not (by decide +kernel), by decide +kernel⟩,
    alone_of (by decide +kernel) ⟨255, 0, by decide +kernel, ⟨255, 0, 1, 0⟩, 0, by decide +kernel⟩, fun m g h => ?_,
    alone_of (by decide +kernel) (by decide +kernel), by decide +kernel⟩
  · have e : (nbS (nbT 0 0 [])).nbWords (false, 7) = [⟨255, 0, 0, 0⟩] := by decide +kernel
    have hw : ((nbS (nbT 0 0 [])).nbWords (false, 7)).find? (fun w => w.nbid == 255) = some w := hw
    rw [e] at hw
    cases Option.some.inj hw; decide
  · simp only [List.mem_cons, List.not_mem_nil, or_false] at ht
    rcases ht with rfl | rfl <;>
      exact meets_of (by decide +kernel) ⟨by decide +kernel, by decide +kernel, by decide +kernel, waits_not (by decide +kernel),
        by decide +kernel⟩
  · have e : (nbT 0 0 []).wait = .none := by decide +kernel
    cases e.symm.trans h

/-- Packets on the barrier tree, and the counts of the router of a die. -/
def pktS (die : Nat) (k : NKind) (ports : Tab (Nat × Nat)) : State :=
  { nbS (nbT 0 1 [(255, 0)]) with pkts := [⟨die, 255, 5, k⟩], routers := [(8 * 255 + die, ⟨ports, 0⟩)] }

theorem witness_BarrierPackets :
    (∀ e ∈ [(5, [(5, 2, 0)], false), (5, [(5, 1, 0)], true), (1, [(5, 1, 0)], true), (0, [(5, 1, 0)], true)],
      let s := pktS e.1 (.arrive 1) e.2.1
      s.pkts = ⟨e.1, 255, 5, .arrive 1⟩ :: [] ∧ tabWf s.routers = true ∧ tabWf (s.router 255 e.1).ports = true ∧
        (s.router 255 e.1).since = 0 ∧ (s.fw.pkgid.toNat % 2 ^ 6 = 0) ∧
        ((∀ p ∈ tabPut (s.router 255 e.1).ports 5 (((tabGet (s.router 255 e.1).ports 5).getD (0, 0)).1,
          ((tabGet (s.router 255 e.1).ports 5).getD (0, 0)).2 + 1), p.2.1 = 0 ∨ p.2.1 = p.2.2) ↔ e.2.2 = true)) ∧
    (∃ b, (nbS (nbT 0 1 [])).nbar? 255 = some b ∧ b.reg + b.gone ≠ b.total) ∧
    (∃ b, ({ nbS (nbT 0 1 []) with nbars := [(255, ⟨1, 2, 1, 1, 0, []⟩)] } : State).nbar? 255 = some b ∧ b.reg + b.gone = b.total) ∧
    (∀ p ∈ (pktS 0 .release []).pkts, ∀ k, p.kind ≠ .arrive k) ∧ (∀ p ∈ (pktS 0 (.mark true) []).pkts, p.kind ≠ .release) ∧
    (∀ p ∈ (pktS 0 .release []).pkts, (∃ k, p.kind = .arrive k) ∨ p.kind = .release) ∧
    (pktS 0 .release []).pkts = ⟨0, 255, 5, .release⟩ :: [] ∧
    (let s := { nbS (nbT 0 1 [(255, 0)]) with nbars := [(255, ⟨1, 2, 1, 0, 0, [⟨false, 7, 256, true⟩]⟩)] }
     s.nbar? 255 = some ⟨1, 2, 1, 0, 0, [⟨false, 7, 256, true⟩]⟩ ∧ s.thread? 7 = some (nbT 0 1 [(255, 0)]) ∧
      (nbT 0 1 [(255, 0)]).core? = some 256 ∧ (nbT 0 1 [(255, 0)]).nbReg = [⟨255, 0, 1, 0⟩]) ∧
    (∀ up ∈ [true, false], (pktS 3 (.mark up) [(5, 2, 0)]).pkts = ⟨3, 255, 5, .mark up⟩ :: [] ∧
      ((pktS 3 (.mark up) [(5, 2, 0)]).router 255 3).since = 0 ∧
      2 ≤ ((tabGet ((pktS 3 (.mark up) [(5, 2, 0)]).router 255 3).ports 5).getD (0, 0)).1) := by
  refine ⟨by decide +kernel, ⟨_, rfl, by decide +kernel⟩, ⟨_, rfl, by decide +kernel⟩, fun p hp k h => ?_, by decide +kernel,
    fun p hp => ?_, rfl, by decide +kernel, by decide +kernel⟩
  · simp only [pktS, List.mem_cons, List.not_mem_nil, or_false] at hp; subst hp; cases h
  · simp only [pktS, List.mem_cons, List.not_mem_nil, or_false] at hp; subst hp; exact .inr rfl

/-- A descriptor at 0x10000 of a spawn of one bolt of two threads, with its completion word at 0x10100 (R342, R343). -/
def descMem : Memory :=
  [(0x200000, 1), (0x20000A, 2), (0x20000C, 1), (0x200011, 0x40), (0x20003C, 0x20), (0x200041, 1), (0x200042, 1)]

/-- A traced one with its trace area at 0x10200, whose header names spawn 1. -/
def traceMem : Memory :=
  [(0x200000, 0x11), (0x20000A, 2), (0x20000C, 1), (0x200011, 0x40), (0x20003C, 0x20), (0x200041, 1), (0x200042, 1),
    (0x200051, 2), (0x200052, 1), (0x200208, 1)]

/-- The trace of spawn 1. -/
def aTrace (busy : Bool) : Trace :=
  { spawn := 1, pid := 0x10001, level := .firmware, tarea := 0x10200, nbolt := 1, ebolt := 0, regions := [], busy,
    broken := false, shut := false, unsettled := false, round := 0, nrerun := 0, sel := [], old := [] }

/-- A thread with the address of the descriptor in g4. -/
def descT : Thread := having latM 4 0x10000

/-- A state with the descriptor, and two threads in the pool. -/
def descS : State := { cardS descT descMem with queues := [(0, aQueue 6 [(1, false), (2, false)])] }

/-- A state with tables, the traced descriptor, its spawn and its trace. -/
def traceS (busy : Bool) : State :=
  { tableS 0x2D with
    threads := [(7, descT)]
    mem := (tableS 0x2D).mem ++ traceMem
    traces := [aTrace busy]
    spawnU := { SpawnUnit.reset with spawns := [(1, wSpawn)] } }

theorem witness_SpawnInstructions :
    Meets descS descT rDst1 (sForm 3 4 0) true false (fun s l => s.performed l.tid = true ∧
      ∃ k w, checkSpawn s l.thread s.cur.core l.a.toInt = .ok k w ∧ spawnRefuses k l.thread w == none) ∧
    Meets descS descT rDst2 (sForm 3 4 8) true false (fun s l => (s.performed l.tid && !l.b.getLsbD 63) = true ∧
      ∃ k w, chkDesc s l.thread s.cur.core l.a.toInt = .ok k w ∧ true = true) ∧
    Meets (traceS false) descT rDst2 (sForm 3 4 8) true false (fun s l => (s.performed l.tid && !l.b.getLsbD 63) = true ∧
      ∃ k w, chkDesc s l.thread s.cur.core l.a.toInt = .ok k w ∧
        (respawnRefuses k l.thread w false == none && (k.traceOf l.thread (descOf w)).isSome) = true) ∧
    Meets (traceS false) descT rDst1 (sForm 3 4 0) false false (fun s l => s.performed l.tid = true ∧
      ∃ k w, chkDesc s l.thread s.cur.core l.a.toInt = .ok k w ∧
        (respawnRefuses k l.thread w false == none && (k.traceOf l.thread (descOf w)).isSome) = true) ∧
    Alone { descS with stores := [aStore 7 256] } descT rDst1 (sForm 3 4 0) true false (fun s l => s.performed l.tid = false) ∧
    Alone { descS with stores := [aStore 7 256] } descT rDst1 (sForm 3 4 0) false false (fun s l => s.performed l.tid = false) ∧
    (let t := having descT 8 0x8000000000000000
     Alone (latS t) t rDst2 (sForm 3 4 8) true false (fun s l => (s.performed l.tid && l.b.getLsbD 63) = true)) ∧
    Alone (latS descT) descT rDst1 (sForm 3 4 0) true false (fun s l =>
      chkDesc s l.thread s.cur.core l.a.toInt = .trap s ⟨.page, 0x10000, true⟩) ∧
    Meets descS descT rDst1 (sForm 3 4 0) false false (fun s l => ∃ k bs,
      chkRecord s l.thread s.cur.core l.a.toInt 32 = .ok k bs ∧ true = true) ∧
    (∀ t ∈ [having latT 4 15], Meets (latS t) t rDst1 (sForm 3 4 0) false false (fun _ l => l.a.toNat < 16)) ∧
    Alone (latS (having latT 4 16)) (having latT 4 16) rDst1 (sForm 3 4 0) false false (fun _ l => 16 ≤ l.a.toNat) ∧
    Meets (traceS false) descT rDst1 (sForm 3 4 0) false false (fun s l =>
      ∃ k w, chkDesc s l.thread s.cur.core l.a.toInt = .ok k w ∧
        ((k.traceOf l.thread (descOf w)).map Trace.busy == some false) = true) ∧
    Alone (traceS true) descT rDst1 (sForm 3 4 0) false false (fun s l =>
      ∃ k w, chkDesc s l.thread s.cur.core l.a.toInt = .ok k w ∧
        ((k.traceOf l.thread (descOf w)).map Trace.busy == some true) = true) ∧
    (descOf (dwords (memBytes descMem 0x200000 256))).trace = false ∧ [1, 2, 3, 4].length = 4 := by
  refine ⟨meets_of (by decide +kernel) ⟨by decide +kernel, ?_⟩, meets_of (by decide +kernel) ⟨by decide +kernel, ?_⟩,
    meets_of (by decide +kernel) ⟨by decide +kernel, ?_⟩, meets_of (by decide +kernel) ⟨by decide +kernel, ?_⟩,
    alone_of (by decide +kernel) (by decide +kernel), alone_of (by decide +kernel) (by decide +kernel),
    alone_of (by decide +kernel) (by decide +kernel), alone_of (by decide +kernel) (chkTrap_of (by decide +kernel)),
    meets_of (by decide +kernel) ?_, fun t ht => ?_, alone_of (by decide +kernel) (by decide +kernel),
    meets_of (by decide +kernel) ?_, alone_of (by decide +kernel) ?_, by decide +kernel, rfl⟩
  · exact chk_of (p := fun k w => spawnRefuses k descT w == none) (by decide +kernel)
  · exact chk_of (p := fun _ _ => true) (by decide +kernel)
  · exact chk_of (p := fun k w => respawnRefuses k descT w false == none && (k.traceOf descT (descOf w)).isSome)
      (by decide +kernel)
  · exact chk_of (p := fun k w => respawnRefuses k descT w false == none && (k.traceOf descT (descOf w)).isSome)
      (by decide +kernel)
  · exact chk_of (p := fun _ _ => true) (by decide +kernel)
  · simp only [List.mem_cons, List.not_mem_nil, or_false] at ht
    subst ht
    exact meets_of (by decide +kernel) (by decide +kernel)
  · exact chk_of (p := fun k w => (k.traceOf descT (descOf w)).map Trace.busy == some false) (by decide +kernel)
  · exact chk_of (p := fun k w => (k.traceOf descT (descOf w)).map Trace.busy == some true) (by decide +kernel)

/-- A flock that waits, of a spawn that wants the whole scratchpad of a core, or little of it. -/
def aFlock : WaitFlock := ⟨2, 0, 1, 1, 0, []⟩
def spawn2 (bytes : Nat) : Spawn :=
  { wSpawn with id := 2, desc := { wDesc with pclass := 1, prio := 1, spbytes := bytes }, order := 1 }

/-- A state in which it waits, with a resident flock of spawn 1 on the one core that is open. -/
def unitS (bytes : Nat) : State :=
  { wS wBolt [wT 0] with
    queues := [(0, aQueue 6 [(1, false), (2, false)])]
    spawnU := { SpawnUnit.reset with spawns := [(1, wSpawn), (2, spawn2 bytes)], waiting := [aFlock] } }

theorem witness_SpawnUnitSteps :
    ((unitS 0).headFlock = some aFlock ∧ aFlock.since + 65536 ≤ ({ unitS 0 with gtick := 65536 } : State).gtick ∧
      ({ unitS 0 with gtick := 65535 } : State).gtick < aFlock.since + 65536) ∧
    (let s := unitS 0
     s.spawnU.waiting.find? (fun x => x.spawn == aFlock.spawn && x.fcoord == aFlock.fcoord) = some aFlock ∧
      tabGet s.spawnU.spawns 2 = some (spawn2 0) ∧ (spawn2 0).desc.pclass ≠ 0 ∧ s.offered (spawn2 0).desc aFlock = true ∧
      s.heldByAge aFlock = false ∧ (∀ x ∈ s.spawnU.waiting, x.before aFlock = true → s.heldByAge x = true ∨ s.wouldPlace x = none) ∧
      [0].length = (spawn2 0).desc.fm1 + 1 ∧ [0].Nodup ∧
      (∀ c ∈ [0], c < 144 ∧ quadOf c = quadOf 0 ∧ 0 < s.roomOn (s.demand (spawn2 0).desc [aFlock]) [] c) ∧
      s.keepsRoom (s.placeFlock aFlock [0]) = true ∧ s.roomOn (s.demand (spawn2 0).desc [aFlock]) [] 1 = 0) ∧
    ({ unitS 0 with queues := [] } : State).offered (spawn2 0).desc aFlock = false ∧
    ((∃ k ∈ (unitS 1572864).partialEviction, (1, 0) ∈ (unitS 1572864).evictedWith k) ∧
      (unitS 1572864).bolts.filter (fun b => !b.2.pack && b.2.spawn == 1 && b.2.fcoord == 0 && b.2.bstate != .done) = [(1, wBolt)] ∧
      wBolt.evicting = false ∧ (∀ k ∈ (unitS 0).partialEviction, (1, 0) ∉ (unitS 0).evictedWith k)) ∧
    (let b : Bolt := { wBolt with evicting := true }
     let s : State := { unitS 1572864 with bolts := [(1, b)] }
     s.bolts.filter (fun b => !b.2.pack && b.2.spawn == 1 && b.2.fcoord == 0 && b.2.bstate != .done) = [(1, b)] ∧
      b.evicting = true ∧ b.bstate = .resident ∧ s.evictReady b = true ∧ 1 ≤ (s.queue s.savePool).words.length ∧
      s.freeFor s.savePool true = true ∧ ({ s with queues := [] } : State).savePool = 0) ∧
    tabGet (unitS 0).spawnU.spawns 1 = some wSpawn := by decide +kernel

theorem witness_SpawnEnds :
    (let sp : Spawn := { wSpawn with boltsLeft := 0, level := .user, desc := { wDesc with done := 0x10100 } }
     let s : State := { tableS 0x2D with spawnU := { SpawnUnit.reset with spawns := [(1, sp)] } }
     tabGet s.spawnU.spawns sp.id = some sp ∧ sp.running = true ∧ sp.boltsLeft = 0 ∧ s.spawnU.waiting = [] ∧ s.traces = [] ∧
      tabWf s.spawnU.spawns = true ∧ Memory.wf s.mem = true ∧
      s.wordXfer sp = none ∧ ((deviceAddr s sp.pid sp.level sp.desc.done.toInt .write).map fun x => (x.2, Memory.wf x.1.mem)) = some (0x200100, true)) ∧
    (let sp : Spawn := { wSpawn with boltsLeft := 0, level := .user, desc := { wDesc with done := 0x10100 } }
     let s : State := { tableS 0x2D with
       fw := { (tableS 0x2D).fw with hdm := 0x200001, rotbase := 0x40000000 }
       mem := (tableS 0x2D).mem ++ [(0x40000000, 1)]
       spawnU := { SpawnUnit.reset with spawns := [(1, sp)] } }
     Memory.wf s.mem = true ∧ (s.wordXfer sp).isSome = true) ∧
    (tabGet (unitS 0).spawnU.spawns wSpawn.id = some wSpawn ∧ wSpawn.boltsLeft ≠ 0 ∧ (unitS 0).unplaceable wSpawn = false) ∧
    (∀ round ∈ [0, 8], let t : Trace := { aTrace true with round, sel := [0] }
     let sp : Spawn := { wSpawn with boltsLeft := 0 }
     let s : State := { traceS true with traces := [t], spawnU := { SpawnUnit.reset with spawns := [(1, sp)] } }
     tabGet s.spawnU.spawns sp.id = some sp ∧ s.trace? sp.id = some t ∧ sp.running = true ∧ sp.boltsLeft = 0 ∧
      s.spawnU.waiting = [] ∧ (t.round ≠ 0 ↔ round = 8) ∧ t.sel ≠ [] ∧ (8 ≤ t.round ↔ round = 8)) := by decide +kernel

/-- A lane that exits with the address of its successor's descriptor in g4. -/
def exitT : Thread := having (wT 0) 4 0x10000
def exitS (b : Bolt) : State := { (wS b [exitT]).putTlb 0 [tlbE 0x1AD] with mem := descMem }

theorem witness_ThreadExits :
    (∀ e ∈ [(rNone, sForm 0 0 0), (rSrc1, sForm 0 4 0)],
      PortsReady (latS latT) e.1 e.2 true false [(0, latT)] ∧ PortsReady (exitS wBolt) e.1 e.2 true false [(0, exitT)] ∧
      PortsReady (exitS { wBolt with live := 1 }) e.1 e.2 true false [(0, exitT)] ∧
      PortsReady (wS wBolt [{ wT 0 with lost := some 5 }]) e.1 e.2 true false [(0, { wT 0 with lost := some 5 })] ∧
      PortsReady { wS wBolt [wT 0] with stores := [aStore 9 0] } e.1 e.2 true false [(0, wT 0)]) ∧
    (latT.spawn = 0 ∧ trapWaits (latS latT) 7 ⟨.sysc, 1, false⟩ = false ∧ exitT.spawn ≠ 0 ∧ exitT.lost = none ∧
      (exitS wBolt).performed 9 = true ∧ exitT.bolt.bind (exitS wBolt).bolt? = some wBolt ∧ wBolt.live ≠ 1 ∧
      ({ wS wBolt [wT 0] with stores := [aStore 9 0] } : State).performed 9 = false ∧
      trapWaits (wS wBolt [{ wT 0 with lost := some 5 }]) 9 ⟨.mchk, 5, true⟩ = false) ∧
    ((∀ o ∈ (exitS { wBolt with live := 1 }).allArrOps, o.bolt ≠ 1) ∧
      ∃ k w, chkDwords exitT 0 32 (exitS { wBolt with live := 1 }) 0x10000 = .ok k w ∧ (k.wordXfer (k.refusedSpawn exitT (descOf w))).isNone = true) ∧
    (let s : State := { exitS { wBolt with live := 1 } with queues := [(0, aQueue 6 [(1, false), (2, false)])] }
     ∃ k w, chkDwords exitT 0 32 s 0x10000 = .ok k w ∧ k.successorFits exitT { wBolt with live := 1 } w = true) ∧
    (∃ o ∈ (withOp (exitS { wBolt with live := 1 }) wBolt 0 0 .zero).allArrOps, o.bolt = 1) ∧
    (∀ b ∈ [wBolt, { wBolt with live := 1 }], let s := exitS b
      tabWf s.bolts = true ∧ (∀ x ∈ s.bolts, x.2.id = x.1) ∧ s.thread? 9 = some exitT ∧ exitT.bolt = some b.id ∧
        s.bolt? b.id = some b ∧ b.pack = false ∧ b.bstate = .resident ∧ exitT.loc = .member 0 0 0 ∧
        s.fw.evtid.toNat ≠ exitT.tid) ∧ Keyed (exitS wBolt) := by
  refine ⟨fun e he => ?_, by decide +kernel, ⟨by decide +kernel, chk_of (p := fun k w => (k.wordXfer (k.refusedSpawn exitT (descOf w))).isNone)
      (by decide +kernel)⟩, chk_of (p := fun k w => k.successorFits exitT { wBolt with live := 1 } w) (by decide +kernel),
    by decide +kernel, by decide +kernel, keyed_of (by decide +kernel)⟩
  simp only [List.mem_cons, List.not_mem_nil, or_false] at he
  rcases he with rfl | rfl <;>
    exact ⟨portsReady_of (by decide +kernel), portsReady_of (by decide +kernel), portsReady_of (by decide +kernel),
      portsReady_of (by decide +kernel), portsReady_of (by decide +kernel)⟩

theorem witness_PowerInstructions :
    (∀ b ∈ [wBolt, { wBolt with pack := true }], ∀ e ∈ [(rPhs, lForm 0 0 0 0 0x1FFFFF), (rNone, sForm 0 0 0)],
      AtArray (wS b [wT 0, wT 1]) e.1 e.2 b (lanesIn [wT 0, wT 1]) 0 (wT 0)) ∧
    (Ready (latS latT) rPhs (lForm 0 0 0 0 0x1FFFFF) false [(0, latT)] ∧ latT.onLatency = true ∧
      (0x1FFFFF : BitVec 32).toNat < 2 ^ 21) ∧
    (∀ imm ∈ [(-1 : BitVec 32), 4, 19, 20], Meets (latS latT) latT rClfl (lForm 0 4 0 0 imm) false false (fun _ _ => True)) ∧
    (Meets (wS wBolt [wT 0]) (wT 0) rDst (sForm 55 0 0) false false (fun _ _ => True) ∧
      Meets (latS latT) latT rDst (sForm 0 0 0) false false (fun _ _ => True)) := by
  refine ⟨fun b hb e he => ?_, ⟨ready_of (by decide +kernel), by decide +kernel⟩, fun imm hi => ?_,
    meets_of (by decide +kernel) trivial, meets_of (by decide +kernel) trivial⟩
  · simp only [List.mem_cons, List.not_mem_nil, or_false] at hb he
    rcases hb with rfl | rfl <;> rcases he with rfl | rfl <;> exact atArray_of (by decide +kernel)
  · simp only [List.mem_cons, List.not_mem_nil, or_false] at hi
    rcases hi with rfl | rfl | rfl | rfl <;> exact meets_of (by decide +kernel) trivial

/-- A bolt with a declaration, on a core at a cluster cycle. -/
def declS (d : Decl) (cyc : Nat) : State := (wS { wBolt with decl := some d } [wT 0]).putW 0 { wCore [wT 0] with cyc }

/-- A cluster that has been active beyond what its declarations allow, and one whose thread's context holds boost. -/
def busyCluster : Cluster := { Cluster.idle with dsum := 10, dlast := 3, act := 267, ctxAct := [(0x10001, 267)], ctxD := [] }
def clusterS (cl : Cluster) (cyc : Nat) : State := (wS wBolt [wT 0]).putW 0 { wCore [wT 0] with cluster := cl, cyc }

/-- A state whose one core has a thread that asks for a clock. -/
def clockS (clock : Nat) (held : Nat) (cl : Cluster) : State :=
  { (wS wBolt [{ wT 0 with clock }]).putW 0 { wCore [{ wT 0 with clock }] with cluster := cl } with
    gtick := 250, contexts := [(0x10001, { Ctx.fresh with held })] }

theorem witness_PowerEvents :
    (∀ e ∈ [((⟨5, 8, some 9, false, 0⟩ : Decl), 5), (⟨5, 8, some 9, false, 0⟩, 4), (⟨5, 8, some 9, true, 0⟩, 9),
        (⟨5, 8, some 9, true, 0⟩, 8), (⟨5, 8, none, true, 0⟩, 9)],
      (declS e.1 e.2).bolt? 1 = some { wBolt with decl := some e.1 } ∧ ((declS e.1 e.2).wcore 0).cyc = e.2) ∧
    (∀ cyc ∈ [255, 256], let s := clusterS busyCluster cyc
      ((s.wcore 0).cyc < (s.wcore 0).cluster.wstart + 256 ↔ cyc = 255) ∧ tabWf (s.wcore 0).cluster.ctxAct = true ∧
        tabGet (s.wcore 0).cluster.ctxAct 0x10001 = some 267) ∧
    (let s := arrayS (anOp aQuarter none) 256 none
     quadrantOf 0 = 0 ∧ (s.wcore 0).ready = some (anOp aQuarter none) ∧ (s.wcore 0).cluster.lastEnd + 256 ≤ (s.wcore 0).cyc ∧
      (s.wcore 0).cluster.burstOk = false ∧ tabGet s.grants 0 = none ∧
      ∀ c, c < 144 → quadrantOf c = 0 → (s.wcore c).pass = none ∧ (s.wcore c).aq ≠ [] → c = 0) ∧
    (∀ g, tabGet ({ blank with grants := [(0, 7)], gtick := 10 } : State).grants 0 = some g →
      ({ blank with grants := [(0, 7)], gtick := 10 } : State).gtick < g + 4) ∧
    (∀ e ∈ [(4, 4), (16, 16), (19, 17)], SliceAsks { clockS e.1 64 Cluster.idle with contexts := [(0x10001, { Ctx.fresh with cap := 1 })] } 0 0 e.2) ∧
    ((clockS 16 64 Cluster.idle).gtick / 250 ≠ (clockS 16 64 Cluster.idle).interval ∧ blank.gtick / 250 = blank.interval ∧
      tabWf (clockS 16 64 Cluster.idle).wcores = true) := by
  refine ⟨by decide +kernel, by decide +kernel, by decide +kernel, fun g hg => ?_, fun e he => ?_, by decide +kernel⟩
  · have : tabGet ({ blank with grants := [(0, 7)], gtick := 10 } : State).grants 0 = some 7 := rfl
    cases Option.some.inj (this.symm.trans hg); decide
  · have key : ∀ e ∈ [(4, 4), (16, 16), (19, 17)], let s : State := { clockS e.1 64 Cluster.idle with contexts := [(0x10001, { Ctx.fresh with cap := 1 })] }
        (s.wcore 0).slots = [(0, wWeft [{ wT 0 with clock := e.1 }])] ∧
        (wWeft [{ wT 0 with clock := e.1 }]).members = [(0, 9)] ∧ s.thread? 9 = some { wT 0 with clock := e.1 } ∧
        min e.1 (if 2 ≤ (s.trip 0).level then 16
          else 16 + min 3 ((s.bolt? (wWeft [{ wT 0 with clock := e.1 }]).bolt).elim (s.ctx 0).cap fun b => (s.ctx b.pid).cap)) = e.2 := by
      decide +kernel
    obtain ⟨h1, h2, h3, h4⟩ := key e he
    refine ⟨?_, ?_, ?_⟩
    · simp only [List.mem_cons, List.not_mem_nil, or_false] at he
      rcases he with rfl | rfl | rfl <;> decide
    · intro p hp hs m hm t ht
      rw [h1] at hp
      simp only [List.mem_cons, List.not_mem_nil, or_false] at hp
      subst hp
      rw [h2] at hm
      simp only [List.mem_cons, List.not_mem_nil, or_false] at hm
      subst hm
      cases Option.some.inj (h3.symm.trans ht)
      exact h4.le
    · exact .inr ⟨(0, wWeft [{ wT 0 with clock := e.1 }]), h1 ▸ List.mem_cons_self, by simp, (0, 9), h2 ▸ List.mem_cons_self, _, h3, h4.symm⟩

/-- An interval boundary of one cluster: in grace, falling, and served. -/
theorem witness_intervals :
    (∀ e ∈ [(19, 64, { Cluster.idle with b := 2, grace := true }), (19, 0, { Cluster.idle with b := 2 }), (19, 64, Cluster.idle),
        (16, 64, Cluster.idle)], let s := clockS e.1 e.2.1 e.2.2
      s.gtick / 250 ≠ s.interval ∧ s.wcores.map (·.1) = [0] ∧ (s.holder 0).isSome = true ∧
        ((s.holder 0).map (·.1)).bind (tabGet s.contexts ·) = (s.holder 0).map (fun x => s.ctx x.1)) := by decide +kernel

/-- Sensors with values, and a trip. -/
def heatS (l : Tab Sensor) (t : Tab Trip) (gtick : Nat) : State := { blank with sensors := l, trips := t, gtick }

theorem witness_ThermalEvents :
    (∀ e ∈ [(0, 1520), (0, 1519), (0, 1648), (0, 1760)], Reads (heatS [(0, ⟨e.2, false, 0, (0, 0)⟩)] [] 0) e.1 e.2) ∧
    (limitOf blank 1 = 1520 ∧ limitOf blank 2 = 1648 ∧ limitOf blank 3 = 1760 ∧ limitOf blank 4 = 1888) ∧
    (∀ e ∈ [(2, some 0, 1024), (2, some 0, 1023), (2, none, 5), (1, some 0, 1024), (1, none, 5), (0, none, 5), (3, none, 5)],
      (heatS [] [(5, ⟨e.1, e.2.1, e.2.1⟩)] e.2.2).ownTrip 5 = ⟨e.1, e.2.1, e.2.1⟩) ∧
    (let s := heatS ([10, 11].map fun k => (k, ⟨0, true, 0, (0, 0)⟩)) [] 0
     ∃ k ∈ sensorsOf 5, (s.sensor k).suspect = true ∧ ((s.sensor (neighbours k).1).suspect = true ∨
      (s.sensor (neighbours k).2).suspect = true)) ∧
    (¬ ∃ k ∈ sensorsOf 5, ((heatS [] [] 0).sensor k).suspect = true ∧ (((heatS [] [] 0).sensor (neighbours k).1).suspect = true ∨
      ((heatS [] [] 0).sensor (neighbours k).2).suspect = true)) ∧
    (∃ u, ({ latS latT with lcores := [(256, { LCore.halted0 with trip3At := some 5 })], gtick := 5 } : State).lcore 256 =
        { LCore.halted0 with trip3At := some u } ∧ u ≤ 5) ∧
    (∀ u, ((latS latT).lcore 256).trip3At = some u → (latS latT).gtick < u) := by
  refine ⟨fun e he => ?_, by decide +kernel, by decide +kernel, by decide +kernel, by decide +kernel, ⟨5, by decide +kernel⟩, fun u hu => ?_⟩
  · have key : ∀ e ∈ [((0 : Nat), (1520 : Int)), (0, 1519), (0, 1648), (0, 1760)],
        let s := heatS [(0, ⟨e.2, false, 0, (0, 0)⟩)] [] 0
        let value (k : Nat) : Int :=
          if (s.sensor k).suspect then max (s.sensor (neighbours k).1).raw (s.sensor (neighbours k).2).raw + 80
          else (s.sensor k).raw
        (∃ k ∈ sensorsOf e.1, value k = e.2) ∧ ∀ k ∈ sensorsOf e.1, value k ≤ e.2 := by decide +kernel
    exact key e he
  · have e : ((latS latT).lcore 256).trip3At = none := by decide +kernel
    cases e.symm.trans hu

/-- The thread with operands in g8 and g9. -/
def opT (a b : Word) : Thread := having (having latT 8 a) 9 b

theorem witness_SignalsAndEvictions :
    (∀ e ∈ [(opT 9 5), opT 99 5, opT 9 64, opT 0x10001 5, opT 0x100000000 5],
      Meets { latS e with threads := [(7, e), (9, wT 0)] } e rDst2 (sForm 5 8 9) true false
        (fun s l => s.performed l.tid = true)) ∧
    Alone { latS (opT 9 5) with stores := [aStore 7 0] } (opT 9 5) rDst2 (sForm 5 8 9) true false
      (fun s l => s.performed l.tid = false) ∧
    (∀ e ∈ [(EvctTarget.bolt, (0x300000001 : Word)), (.flock, 0x300000000), (.spawn, 5), (.context, 5)],
      Meets { unitS 0 with threads := [(7, opT e.2 0)], lcores := (latS latT).lcores, cur := .latency 256 } (opT e.2 0)
        (rDst1.at 1) (sForm 5 8 0) false false
        (fun s l => (∀ ks, l.thread.wait ≠ .evct ks) ∧ (s.evctExists e.1 l.a.toNat = false ∨ evicted e.1 s l = []))) ∧
    (let t := { opT 0 0 with wait := .evct [(1, 0)] }
     Meets (latS t) t (rDst1.at 1) (sForm 5 8 0) false false
        (fun s l => ∃ ks, l.thread.wait = .evct ks ∧ ∀ x ∈ ks, s.leavingFlock x = false)) ∧
    (∀ e ∈ [(EvctTarget.bolt, (0x100000000 : Word)), (.flock, 0x100000000), (.spawn, 1), (.context, 0x10001)],
      let s : State := { unitS 0 with threads := [(7, opT e.2 0)], lcores := (latS latT).lcores, cur := .latency 256 }
      PortsReady s (rDst1.at 1) (sForm 5 8 0) false false [(0, opT e.2 0)] ∧ (opT e.2 0).wait = .none ∧
        s.evctExists e.1 (s.laneOf (rDst1.at 1) (sForm 5 8 0) [(0, opT e.2 0)] (0, opT e.2 0)).a.toNat = true ∧
        evicted e.1 s (s.laneOf (rDst1.at 1) (sForm 5 8 0) [(0, opT e.2 0)] (0, opT e.2 0)) ≠ []) ∧
    (let t := { opT 0 0 with wait := .evct [(1, 0)] }
     Alone { latS t with bolts := [(1, { wBolt with evicting := true })] } t (rDst1.at 1) (sForm 5 8 0) false false
        (fun s l => ∃ ks, l.thread.wait = .evct ks ∧ ∃ x ∈ ks, s.leavingFlock x = true)) := by
  refine ⟨fun e he => ?_, alone_of (by decide +kernel) (by decide +kernel), fun e he => ?_,
    meets_of (by decide +kernel) ⟨_, rfl, by decide +kernel⟩, fun e he => ?_,
    alone_of (by decide +kernel) ⟨_, rfl, by decide +kernel⟩⟩
  · simp only [List.mem_cons, List.not_mem_nil, or_false] at he
    rcases he with rfl | rfl | rfl | rfl | rfl <;> exact meets_of (by decide +kernel) (by decide +kernel)
  · simp only [List.mem_cons, List.not_mem_nil, or_false] at he
    rcases he with rfl | rfl | rfl | rfl <;>
      exact meets_of (by decide +kernel) ⟨fun _ h => (by cases h), .inl (by decide +kernel)⟩
  · simp only [List.mem_cons, List.not_mem_nil, or_false] at he
    rcases he with rfl | rfl | rfl | rfl <;> exact ⟨portsReady_of (by decide +kernel), by decide +kernel⟩

/-- A lane that waits in a TLBI. -/
def tlbiT : Thread := { having latM 8 0x10000 with wait := .jobs 9 }

theorem witness_InvalidationHaltingAndIdling :
    (∀ e ∈ [(rSrc1.at 1, sForm 0 8 0), (rSrc2.at 1, sForm 0 8 9), (rNone.at 1, sForm 0 0 0)],
      ∀ d ∈ [Drop.va 0x10000, .vaIn 0x10000 1, .space 1, .all, .core 256],
      Meets (memS 0x1AD) latM e.1 e.2 false false (fun s l => (∀ m, l.thread.wait ≠ .jobs m) ∧ s.storesOf l.tid = [] ∧
        s.usesDropped d s.seq = false) ∧
      Meets (latS tlbiT) tlbiT e.1 e.2 false false (fun s l => ∃ m, l.thread.wait = .jobs m ∧ s.usesDropped d m = false) ∧
      (let s : State := { memS 0x1AD with stores := [{ aStore 9 0 with core := 256, space := 1, va := 0x10008, id := 2 }], seq := 3 }
       PortsReady s e.1 e.2 false false [(0, latM)] ∧ (∀ m, latM.wait ≠ .jobs m) ∧ s.storesOf 7 = [] ∧
        s.usesDropped d s.seq = true) ∧
      Alone { latS latM with stores := [aStore 7 0] } latM e.1 e.2 false false
        (fun s l => (∀ m, l.thread.wait ≠ .jobs m) ∧ s.storesOf l.tid ≠ []) ∧
      Alone { latS tlbiT with stores := [{ aStore 9 0 with core := 256, space := 1, va := 0x10008, id := 2 }] } tlbiT e.1 e.2
        false false (fun s l => ∃ m, l.thread.wait = .jobs m ∧ s.usesDropped d m = true)) ∧
    Meets (latS latT) latT (rNone.at 1) (sForm 0 0 0) false false
      (fun s l => l.thread.onLatency = true → s.performed l.tid = true) ∧
    (let t := { wT 0 with plvl := .supervisor }
     Meets (wS wBolt [t]) t (rNone.at 1) (sForm 0 0 0) false false
      (fun s l => l.thread.onLatency = true → s.performed l.tid = true)) ∧
    (∀ n ∈ [1, 2], Alone { latS latT with stores := [aStore 7 0] } latT (rNone.at n) (sForm 0 0 0) false false
      (fun s l => l.thread.onLatency = true ∧ s.performed l.tid = false)) ∧
    Meets (latS latT) latT (rNone.at 2) (sForm 0 0 0) false false (fun s l => s.performed l.tid = true) ∧
    (∀ e ∈ [(rDst.at 1, sForm 5 0 0), (rDst1.at 1, sForm 5 8 0)],
      (let t := { opT 9 5 with inbox := [5] }
       Meets (latS t) t e.1 e.2 false false (fun _ l => l.thread.onLatency = true ∧
        ∃ w ∈ l.thread.inbox, l.thread.sigmask.getLsbD (w.toNat % 2 ^ 6) = false)) ∧
      (∀ w ∈ [Wait.none, .wfi 5 0 none], let t := { opT 9 5 with inbox := [5], sigmask := 0x20, wait := w }
       PortsReady (latS t) e.1 e.2 false false [(0, t)] ∧ t.onLatency = true ∧
        ¬ (∃ w ∈ t.inbox, t.sigmask.getLsbD (w.toNat % 2 ^ 6) = false)) ∧
      (let t := { wT 0 with plvl := .supervisor }
       Ready (wS wBolt [t]) e.1 e.2 false [(0, t)] ∧ t.onLatency = false ∧
        ∀ v, trapWaits (wS wBolt [t]) 9 ⟨.needw, v, false⟩ = false)) ∧
    (let t := { latT with wait := .wfi 5 10 (some 7) }
     ({ latS t with gtick := 17 } : State).thread? t.tid = some t ∧ 10 + 7 ≤ ({ latS t with gtick := 17 } : State).gtick ∧
      ({ latS t with gtick := 16 } : State).gtick < 10 + 7) := by
  refine ⟨fun e he d hd => ?_, meets_of (by decide +kernel) (by decide +kernel), meets_of (by decide +kernel) (by decide +kernel),
    fun n hn => ?_, meets_of (by decide +kernel) (by decide +kernel), fun e he => ?_, by decide +kernel⟩
  · simp only [List.mem_cons, List.not_mem_nil, or_false] at he hd
    rcases he with rfl | rfl | rfl <;> rcases hd with rfl | rfl | rfl | rfl | rfl <;>
      exact ⟨meets_of (by decide +kernel) ⟨fun _ h => (by cases h), by decide +kernel⟩,
        meets_of (by decide +kernel) ⟨_, rfl, by decide +kernel⟩,
        ⟨portsReady_of (by decide +kernel), fun _ h => (by cases h), by decide +kernel⟩,
        alone_of (by decide +kernel) ⟨fun _ h => (by cases h), by decide +kernel⟩,
        alone_of (by decide +kernel) ⟨_, rfl, by decide +kernel⟩⟩
  · simp only [List.mem_cons, List.not_mem_nil, or_false] at hn
    rcases hn with rfl | rfl <;> exact alone_of (by decide +kernel) (by decide +kernel)
  · simp only [List.mem_cons, List.not_mem_nil, or_false] at he
    rcases he with rfl | rfl <;>
      exact ⟨meets_of (by decide +kernel) ⟨by decide +kernel, 5, List.mem_cons_self, by decide +kernel⟩, fun w hw => ⟨by
          simp only [List.mem_cons, List.not_mem_nil, or_false] at hw
          rcases hw with rfl | rfl <;> exact portsReady_of (by decide +kernel), rfl, by
          rintro ⟨x, hx, h⟩
          obtain rfl : x = 5 := List.mem_singleton.1 hx
          exact absurd (show (0x20 : Word).getLsbD (BitVec.toNat (5 : Word) % 2 ^ 6) = false from h) (by decide)⟩,
        ready_of (by decide +kernel), by decide +kernel, fun v => by rfl⟩

theorem flatMap_length {α : Type} (f : α → List Byte) (n : Nat) (h : ∀ x, (f x).length = n) :
    ∀ l : List α, (l.flatMap f).length = n * l.length
  | [] => by simp
  | x :: l => by rw [List.flatMap_cons, List.length_append, h x, flatMap_length f n h l, List.length_cons, Nat.mul_add,
      Nat.mul_one, Nat.add_comm]

theorem leBytes_count : ∀ n v, (leBytes n v).length = n
  | 0, _ => rfl
  | n + 1, v => by rw [leBytes, List.length_cons, leBytes_count n]

theorem fst_length {a : List Byte} {b : List Bool} {n : Nat} (h : a.length = n) : (a, b).1.length = n := h

theorem memBytes_count (m : Memory) : ∀ n a, (memBytes m a n).length = n
  | 0, _ => rfl
  | n + 1, a => by rw [memBytes, List.length_cons, memBytes_count m n]

/-- A bolt of one slice and one row, and a lane of it of supervisor level that can reach the page at 0x10000. -/
def partBolt : Bolt := { wBolt with nslice := 1, rows := 1 }
def partL : Thread := { having (wT 0) 6 0x10000 with plvl := .supervisor }
def weftS : State := (wS partBolt [partL]).putTlb 0 [tlbE 0x1AD]

/-- A part saved by a lane of a state, given its length and the span's check. -/
theorem saves_of {s : State} {t : Thread} {f : Fields} {align n : Nat} {part : State → Lane → Option (List Byte × List Bool)}
    (h : portsReadyB s (rClfl.at 1) f false false [(t.lane, t)] = true)
    (hs : s.loadsDone (laneFor s t (rClfl.at 1) f).tid = true ∧ s.performed (laneFor s t (rClfl.at 1) f).tid = true)
    (hp : ∃ b, part s (laneFor s t (rClfl.at 1) f) = some b ∧ b.1.length = n)
    (hc : chkB (checkSpan s (laneFor s t (rClfl.at 1) f).thread s.cur.core true (addressOf f (laneFor s t (rClfl.at 1) f)) n align)
      (fun _ _ => true) = true) :
    Meets s t (rClfl.at 1) f false false (fun s l => Settled s l ∧ ∃ b k ps, part s l = some b ∧
      checkSpan s l.thread s.cur.core true (addressOf f l) b.1.length align = .ok k ps) := by
  obtain ⟨b, hb, rfl⟩ := hp
  obtain ⟨k, ps, hk, -⟩ := chk_of hc
  exact meets_of h ⟨hs, b, k, ps, hb, hk⟩

/-- A part restored by a lane, given its size and the span's check. -/
theorem restores_of {s : State} {t : Thread} {f : Fields} {align n : Nat} {put : State → Lane → Marked → Option State}
    (h : portsReadyB s (rClfl.at 1) f false false [(t.lane, t)] = true)
    (hs : s.loadsDone (laneFor s t (rClfl.at 1) f).tid = true ∧ s.performed (laneFor s t (rClfl.at 1) f).tid = true)
    (hc : chkB (checkSpan s (laneFor s t (rClfl.at 1) f).thread s.cur.core false (addressOf f (laneFor s t (rClfl.at 1) f)) n align)
      (fun k ps => (put (k.readSpan (laneFor s t (rClfl.at 1) f).thread ps).1 (laneFor s t (rClfl.at 1) f)
        (k.readSpan (laneFor s t (rClfl.at 1) f).thread ps).2).isSome) = true) :
    Meets s t (rClfl.at 1) f false false (fun s l => Settled s l ∧ ∃ k ps,
      checkSpan s l.thread s.cur.core false (addressOf f l) n align = .ok k ps ∧
      put (k.readSpan l.thread ps).1 l (k.readSpan l.thread ps).2 ≠ none) := by
  obtain ⟨k, ps, hk, hq⟩ := chk_of hc
  exact meets_of h ⟨hs, k, ps, hk, fun he => by rw [he] at hq; cases hq⟩

/-- The parts that every thread saves, and those of a bolt. -/
theorem witness_ContextSaves : let f := lForm 0 6 0 0 448
    let saves (s : State) (t : Thread) (align : Nat) (part : State → Lane → Option (List Byte × List Bool)) : Prop :=
      Meets s t (rClfl.at 1) f false false (fun s l => Settled s l ∧ ∃ b k ps, part s l = some b ∧
        checkSpan s l.thread s.cur.core true (addressOf f l) b.1.length align = .ok k ps)
    saves (memS 0x1AD) latM 8 (fun _ l => some (inBytes (partG l.thread),
      (List.range 55).flatMap fun i => List.replicate 8 (l.thread.reg (i + 1)).poison)) ∧
    saves (memS 0x1AD) latM 8 (fun s l => some (inBytes (partS s l.thread), [])) ∧
    saves (memS 0x1AD) latM 8 (fun _ l => some (inBytes (partQ l.thread), [])) ∧
    saves (memS 0x1AD) latM 8 (fun s l => some (inBytes (partT s l.thread), [])) ∧
    saves weftS partL 64 (fun s l => ((boltFor s l).filter fun b => !s.arrayBusy b.id).map fun b =>
      ((List.range (4096 * b.nslice)).flatMap fun e => leBytes 4 (b.accElem e),
        (List.range (4096 * b.nslice)).flatMap fun e => List.replicate 4 (b.accErr.contains e))) ∧
    saves weftS partL 64 (fun s l => ((boltFor s l).filter fun b => !s.spWaits b.id 0 (2048 * b.rows) false).map fun b =>
      (memBytes b.spad 0 (2048 * b.rows), (List.range (2048 * b.rows)).map fun i => b.spPoison.contains (i / 4))) ∧
    saves weftS partL 64 (fun s l => ((boltFor s l).filter fun b => !b.pack).map fun b => (inBytes (s.hPart b), [])) := by
  have len (w : List Nat) : (inBytes w).length = 8 * w.length := flatMap_length _ 8 (leBytes_count 8) w
  have hm : ((List.range (4096 * partBolt.nslice)).flatMap fun e => leBytes 4 (partBolt.accElem e)).length = 16384 := by
    rw [flatMap_length _ 4 fun _ => leBytes_count 4 _, List.length_range]
    decide
  have hh : (inBytes (weftS.hPart partBolt)).length = 6144 := by
    have h1 : (weftS.hPart partBolt).length = 768 := by decide +kernel
    have h2 := len (weftS.hPart partBolt)
    omega
  have hb : boltFor weftS (laneFor weftS partL (rClfl.at 1) (lForm 0 6 0 0 448)) = some partBolt := by decide +kernel
  refine ⟨saves_of (n := 448) (by decide +kernel) (by decide +kernel) ⟨_, rfl, ?_⟩ (by decide +kernel),
    saves_of (n := 128) (by decide +kernel) (by decide +kernel) ⟨_, rfl, len _⟩ (by decide +kernel),
    saves_of (n := 16) (by decide +kernel) (by decide +kernel) ⟨_, rfl, len _⟩ (by decide +kernel),
    saves_of (n := 16) (by decide +kernel) (by decide +kernel) ⟨_, rfl, len _⟩ (by decide +kernel),
    saves_of (n := 16384) (by decide +kernel) (by decide +kernel) ⟨((List.range (4096 * partBolt.nslice)).flatMap fun e => leBytes 4 (partBolt.accElem e), _), by rw [hb]; rfl, fst_length hm⟩ (by decide +kernel),
    saves_of (n := 2048) (by decide +kernel) (by decide +kernel) ⟨_, by rw [hb]; rfl, memBytes_count _ _ _⟩ (by decide +kernel),
    saves_of (n := 6144) (by decide +kernel) (by decide +kernel) ⟨(inBytes (weftS.hPart partBolt), []), by rw [hb]; rfl, hh⟩ (by decide +kernel)⟩
  rw [len]; decide +kernel

/-- The state that a CTXL.s leaves (R410), if the thread's space is its own. -/
def putsS (f : Fields) (k : State) (l : Lane) (m : Marked) : Option State :=
  let w := dwords (m.map (·.1))
  if k.pidMismatch (dwordAt w 1) then none
  else some (k.switchThread k.cur.core ((k.thread? l.tid).getD l.thread)
    ((k.incoming (dwordAt w 0) (dwordAt w 1) (dwordAt w 2)).withSPart w) (nextPc f l.thread.pc))

/-- What a part that every thread restores leaves, and one of a bolt, as far as whether it leaves anything. -/
def putsAll (k : State) (_ : Lane) (_ : Marked) : Option State := some k
def putsBolt (k : State) (l : Lane) (_ : Marked) : Option State := (l.thread.bolt.bind k.bolt?).map fun _ => k

/-- Reading a span leaves the bolts and no trace, where no trace was open. -/
theorem dirHR_quiet (s : State) (line : Nat) : (s.dirHR line).bolts = s.bolts ∧ (s.dirHR line).traces = s.traces := by
  unfold State.dirHR
  rcases h : (s.dir line).st <;> simp [h, State.putDir]

theorem noteSeen_quiet (s : State) (tid st : Nat) : (s.noteSeen tid st).bolts = s.bolts ∧ (s.noteSeen tid st).traces = s.traces := by
  unfold State.noteSeen
  split
  · exact ⟨rfl, rfl⟩
  · split <;> exact ⟨rfl, rfl⟩

theorem recordFor_quiet {s : State} (t : Thread) (va : Nat) (w : Bool) (h : s.traces = []) : s.recordFor t va w = s := by
  unfold State.recordFor
  split
  · simp [State.record, State.trace?, h]
  · rfl

theorem afterRead_quiet (s : State) (pa n : Nat) : (s.afterRead pa n).bolts = s.bolts ∧ (s.afterRead pa n).traces = s.traces := by
  unfold State.afterRead
  split <;> exact ⟨rfl, rfl⟩

theorem portRead_quiet (s : State) (pa n : Nat) : (s.portRead pa n).1.bolts = s.bolts ∧ (s.portRead pa n).1.traces = s.traces := by
  unfold State.portRead
  split
  · exact ⟨rfl, rfl⟩
  · exact afterRead_quiet s pa n

theorem readPiece_quiet {s : State} (t : Thread) (p : Piece) (h : s.traces = []) :
    (s.readPiece t p).1.bolts = s.bolts ∧ (s.readPiece t p).1.traces = [] := by
  unfold State.readPiece
  simp only
  split
  · exact ⟨(portRead_quiet s _ _).1, (portRead_quiet s _ _).2.trans h⟩
  · have hk (k : State) (hb : k.bolts = s.bolts) (ht : k.traces = s.traces) (tid st va pa n : Nat) :
        (((k.noteSeen tid st).recordFor t va false).afterRead pa n).bolts = s.bolts ∧
        (((k.noteSeen tid st).recordFor t va false).afterRead pa n).traces = [] := by
      have h1 := noteSeen_quiet k tid st
      rw [recordFor_quiet t va false (h1.2.trans (ht.trans h))]
      exact ⟨(afterRead_quiet _ pa n).1.trans (h1.1.trans hb), (afterRead_quiet _ pa n).2.trans (h1.2.trans (ht.trans h))⟩
    split
    · exact hk _ (dirHR_quiet s _).1 (dirHR_quiet s _).2 ..
    · exact hk s rfl rfl ..

theorem readSpan_bolts (s : State) (t : Thread) (ps : List Piece) (h : s.traces = []) : (s.readSpan t ps).1.bolts = s.bolts := by
  suffices ∀ (ps : List Piece) (r : State × Marked), r.1.traces = [] →
      (ps.foldl (fun r p => let x := r.1.readPiece t p; (x.1, r.2 ++ x.2)) r).1.bolts = r.1.bolts from this ps (s, []) h
  intro ps
  induction ps with
  | nil => exact fun _ _ => rfl
  | cons p ps ih =>
    intro r hr
    have h1 := readPiece_quiet t p hr
    exact (ih ((r.1.readPiece t p).1, r.2 ++ (r.1.readPiece t p).2) h1.2).trans h1.1

/-- A part of a bolt restored by a lane whose bolt is there. -/
theorem restoresBolt_of {s : State} {t : Thread} {f : Fields} {align n : Nat}
    (h : portsReadyB s (rClfl.at 1) f false false [(t.lane, t)] = true)
    (hs : s.loadsDone (laneFor s t (rClfl.at 1) f).tid = true ∧ s.performed (laneFor s t (rClfl.at 1) f).tid = true)
    (hc : chkB (checkSpan s (laneFor s t (rClfl.at 1) f).thread s.cur.core false (addressOf f (laneFor s t (rClfl.at 1) f)) n align)
      (fun k _ => k.traces.isEmpty && ((laneFor s t (rClfl.at 1) f).thread.bolt.bind k.bolt?).isSome) = true) :
    Meets s t (rClfl.at 1) f false false (fun s l => Settled s l ∧ ∃ k ps,
      checkSpan s l.thread s.cur.core false (addressOf f l) n align = .ok k ps ∧
      putsBolt (k.readSpan l.thread ps).1 l (k.readSpan l.thread ps).2 ≠ none) := by
  obtain ⟨k, ps, hk, hq⟩ := chk_of hc
  rw [Bool.and_eq_true] at hq
  refine meets_of h ⟨hs, k, ps, hk, fun he => ?_⟩
  have hb := readSpan_bolts k (laneFor s t (rClfl.at 1) f).thread ps (List.isEmpty_iff.1 hq.1)
  have hm : (laneFor s t (rClfl.at 1) f).thread.bolt.bind (k.readSpan (laneFor s t (rClfl.at 1) f).thread ps).1.bolt? =
      (laneFor s t (rClfl.at 1) f).thread.bolt.bind k.bolt? := by
    congr 1
    funext i
    exact congrArg (tabGet · i) hb
  unfold putsBolt at he
  rw [hm, Option.map_eq_none_iff] at he
  rw [he] at hq
  cases hq.2

/-- A thread with a queue bound to its port 3. -/
def portT : Thread := { latT with ports := latT.ports.set 3 (.base 8191) }

/-- A latency thread of no permission at the page, one that another core's page table must answer, one that waits. -/
theorem witness_ContextRestores : let f := lForm 0 6 0 0 448
    let restores (s : State) (t : Thread) (align n : Nat) (put : State → Lane → Marked → Option State) : Prop :=
      Meets s t (rClfl.at 1) f false false (fun s l => Settled s l ∧ ∃ k ps,
        checkSpan s l.thread s.cur.core false (addressOf f l) n align = .ok k ps ∧
        put (k.readSpan l.thread ps).1 l (k.readSpan l.thread ps).2 ≠ none)
    (∀ n ∈ [16, 448], restores (memS 0x1AD) latM 8 n putsAll) ∧
    restores (memS 0x1AD) latM 8 128 (putsS f) ∧
    (∀ n ∈ [0, 2048, 6144], restores weftS partL 64 n putsBolt) ∧
    boltFor weftS (laneFor weftS partL (rClfl.at 1) f) = some partBolt ∧ weftS.arrayBusy 1 = false ∧
    weftS.spWaits 1 0 2048 true = false ∧ partBolt.pack = false ∧
    Alone (latS latM) latM (rClfl.at 1) f false false (fun s l => s.loadsDone l.tid = true ∧ s.performed l.tid = true ∧
      ∀ write ∈ [true, false], checkSpan s l.thread s.cur.core write (addressOf f l) 448 8 = .trap s ⟨.page, 0x101C0, true⟩) ∧
    Alone { latS latM with stores := [aStore 7 0] } latM (rClfl.at 1) f false false (fun s l => ¬ Settled s l) ∧
    Alone weftS partL (rClfl.at 1) f false false (fun s l =>
      (s.loadsDone l.tid && s.performed l.tid && !l.thread.onLatency) = true) ∧
    (Ready (latS latM) (rClfl.at 1) f false [(0, latM)] ∧ latM.onLatency = true ∧ (latS latM).loadsDone 7 = true ∧
      (latS latM).performed 7 = true ∧ ∀ v, trapWaits (latS latM) 7 ⟨.needw, v, false⟩ = false) := by
  refine ⟨fun n hn => ?_, restores_of (put := putsS (lForm 0 6 0 0 448)) (by decide +kernel) (by decide +kernel) (by decide +kernel), fun n hn => ?_,
    by decide +kernel, by decide +kernel, by decide +kernel, by decide +kernel,
    alone_of (by decide +kernel) ⟨by decide +kernel, by decide +kernel, fun w hw => ?_⟩,
    alone_of (by decide +kernel) (fun h => absurd h.2 (by decide +kernel)), alone_of (by decide +kernel) (by decide +kernel),
    ready_of (by decide +kernel), by decide +kernel, by decide +kernel, by decide +kernel, fun v => rfl⟩
  · simp only [List.mem_cons, List.not_mem_nil, or_false] at hn
    rcases hn with rfl | rfl <;> exact restores_of (put := putsAll) (by decide +kernel) (by decide +kernel) (by decide +kernel)
  · simp only [List.mem_cons, List.not_mem_nil, or_false] at hn
    rcases hn with rfl | rfl | rfl <;> exact restoresBolt_of (by decide +kernel) (by decide +kernel) (by decide +kernel)
  · simp only [List.mem_cons, List.not_mem_nil, or_false] at hw
    rcases hw with rfl | rfl <;> exact chkTrap_of (by decide +kernel)

/-- A piece of 64 bytes at 0x200000, threads with ports, and a thread that another replaces. -/
theorem witness_ContextLayouts :
    (∃ k ps, checkSpan (memS 0x1AD) latM 256 true 0x10008 448 8 = .ok k ps) ∧
    (∀ a : Access, a.pa = 0x200000 → let p : Piece := (a, 0, 64)
      p.2.1 + p.2.2 ≤ (List.replicate 64 (0 : Byte)).length ∧ PlainRange (memS 0x1AD) p.1.pa p.2.2) ∧
    ((memS 0x1AD).traces = [] ∧ Memory.wf (memS 0x1AD).mem = true) ∧
    (∀ i, i < 8 → (∀ q, portT.port i = .base q → q < 2 ^ 13) ∧ ∀ n, portT.port i = .chan n → n < 2 ^ 13) ∧
    (latT.fmode.toNat < 2 ^ 17 ∧ latT.pwait < 2 ^ 16 ∧ latT.yage < 2 ^ 16 ∧ (latS latT).blockCount latT < 8 ∧
      (latS latT).viewOf latT < 2 ^ 20 ∧ 4 ≤ latT.clock ∧ latT.clock ≤ 19) ∧
    (wT 0).tid ≠ latT.tid := by
  refine ⟨?_, fun a ha => ⟨by simp, plain_of rfl rfl _ _ (by show a.pa + 64 ≤ 0xF800000000; omega)⟩, by decide +kernel, fun i hi => ?_, by decide +kernel, by decide⟩
  · obtain ⟨k, ps, h, -⟩ := chk_of (c := checkSpan (memS 0x1AD) latM 256 true 0x10008 448 8) (p := fun _ _ => true)
      (by decide +kernel)
    exact ⟨k, ps, h⟩
  · have h : ∀ i, i < 8 → portT.port i = .unbound ∨
        portT.port i = .base 8191 := by decide +kernel
    rcases h i hi with h | h
    · exact ⟨fun q hq => (by rw [h] at hq; cases hq), fun n hn => (by rw [h] at hn; cases hn)⟩
    · exact ⟨fun q hq => (by rw [h] at hq; cases hq; decide), fun n hn => (by rw [h] at hn; cases hn)⟩

/-- A weft whose two lanes stand apart, the second one older, with a stall count at an address. -/
def apartS (stall : Nat) (stallPc : Word) (ovr : BitVec 32) (ocount : Nat) : State :=
  (wS wBolt [wT 0, { wT 1 with pc := 0x5000, age := 3 }]).modWeft 0 0 fun w => { w with stall, stallPc, ovr, ocount }

def apartW (stall : Nat) (stallPc : Word) (ovr : BitVec 32) (ocount : Nat) : Weft :=
  { wWeft [wT 0, wT 1] with stall, stallPc, ovr, ocount }

theorem witness_OverridesAndFetchTraps :
    (∀ e ∈ [(16, 0x4000, 0, 0), (15, 0x4000, 1, 64), (16, 0x5000, 1, 63)], let w := apartW e.1 e.2.1 e.2.2.1 e.2.2.2
      (apartS e.1 e.2.1 e.2.2.1 e.2.2.2).weft? 0 0 = some w) ∧
    (IssuesAt (apartS 16 0x4000 0 0) (apartW 16 0x4000 0 0) 0x4000 ∧ OldestAt (apartS 16 0x4000 0 0) (apartW 16 0x4000 0 0) 0x4000 0x5000 ∧
      ¬ IssuesAt (apartS 16 0x5000 1 63) (apartW 16 0x5000 1 63) 0x5000) ∧
    (LaneGroup (wS wBolt [wT 0, wT 1]) (lanesIn [wT 0, wT 1]) ∧
      ∀ tr : Trap, ∀ p ∈ lanesIn [wT 0, wT 1], trapWaits (wS wBolt [wT 0, wT 1]) p.2.tid tr = false) ∧
    (LaneGroup (latS latT) [(0, latT)] ∧ ∀ tr : Trap, tr.cause ≠ .needw → trapWaits (latS latT) 7 tr = false) ∧
    (let s : State := { latS latT with pend := [homePend 7 0] }
     LaneGroup s [(0, latT)] ∧ ∀ tr : Trap, ∃ p ∈ [(0, latT)], trapWaits s p.2.tid tr = true) := by
  refine ⟨by decide +kernel, ⟨?_, ?_, ?_⟩, ⟨group_of (by decide +kernel), fun tr p hp => ?_⟩,
    ⟨group_of (by decide +kernel), fun tr _ => ?_⟩, group_of (by decide +kernel), fun tr => ⟨(0, latT), List.mem_cons_self, ?_⟩⟩
  · unfold IssuesAt; decide +kernel
  · have act : (apartS 16 0x4000 0 0).activeLanes (apartW 16 0x4000 0 0) = [(0, wT 0), (1, { wT 1 with pc := 0x5000, age := 3 })] := by
      decide +kernel
    unfold OldestAt
    rw [act]
    refine ⟨⟨(1, { wT 1 with pc := 0x5000, age := 3 }), ⟨by decide +kernel, by decide, by decide +kernel⟩, rfl⟩, fun p hp => ?_⟩
    exact (by decide +kernel : ∀ p ∈ [(0, wT 0), (1, ({ wT 1 with pc := 0x5000, age := 3 } : Thread))],
      p.2.pc ≠ 0x4000 → 0x5000 ≤ p.2.pc) p hp.1 hp.2.1
  · unfold IssuesAt; decide +kernel
  · have key : ∀ p ∈ lanesIn [wT 0, wT 1], (wS wBolt [wT 0, wT 1]).thread? p.2.tid = some p.2 ∧ p.2.onLatency = false := by
      decide +kernel
    simp [trapWaits, (key p hp).1, (key p hp).2]
  · have h : (latS latT).thread? 7 = some latT ∧ (latS latT).loadsDone 7 = true ∧ (latS latT).performed 7 = true := by decide +kernel
    simp [trapWaits, h.1, h.2.1, h.2.2]
  · have h : ({ latS latT with pend := [homePend 7 0] } : State).thread? 7 = some latT ∧ latT.onLatency = true ∧
        ({ latS latT with pend := [homePend 7 0] } : State).loadsDone 7 = false := by decide +kernel
    show trapWaits ({ latS latT with pend := [homePend 7 0] } : State) 7 tr = true
    simp [trapWaits, h.1, h.2.1, h.2.2]

/-- A thread of user level with words in its inbox, the first of them blocked. -/
def sigT (t : Thread) : Thread := { t with plvl := .user, inbox := [0x45, 0x46, 0x47], sigmask := 0x20 }

theorem takes_sig (t : Thread) : Takes (sigT t) 0x46 [0x45, 0x47] :=
  ⟨rfl, [0x45], [0x47], rfl, rfl, by show (0x20 : Word).getLsbD _ = false; decide, fun x hx => by
    obtain rfl : x = 0x45 := List.mem_singleton.1 hx
    show (0x20 : Word).getLsbD _ = true; decide⟩

theorem deaf_not {t : Thread} (h : t.wait = .none) : ¬ Deaf t := by
  rintro (h1 | h1 | ⟨a, h1⟩ | ⟨a, b, h1⟩ | ⟨a, b, c, h1⟩ | ⟨a, b, c, h1⟩ | ⟨a, b, h1⟩) <;> rw [h] at h1 <;> cases h1

theorem takes_not {t : Thread} (h : t.inbox = []) : ∀ w rest, ¬ Takes t w rest := by
  rintro w rest ⟨-, xs, ys, hi, -⟩
  rw [h] at hi
  cases xs <;> cases hi

theorem witness_SignalsTaken :
    (∀ sub ∈ [Sub.active, .mwait, .barrier .bar], let t := { sigT latT with sub, retPoint := 0x8000 }
      ((latS t).lcore 256).cur = some t.tid ∧ (latS t).thread? t.tid = some t ∧ ((latS t).lcore 256).halted = false ∧
        (latS t).loadsDone t.tid = true) ∧
    (Takes (sigT latT) 0x46 [0x45, 0x47] ∧ ¬ Deaf (sigT latT) ∧ Deaf { sigT latT with wait := .wfi 5 0 none } ∧
      ({ latS latT with pend := [homePend 7 0] } : State).loadsDone 7 = false ∧ ∀ w rest, ¬ Takes latT w rest) ∧
    (∀ sub ∈ [Sub.active, .faultParked, .barrier .bar, .extractParked], let t := { sigT (wT 0) with sub }
      let s := wS wBolt [t]
      (s.weft? 0 0).map (fun w => w.lanes[(0 : Fin 32)]) = some (some t.tid) ∧ s.thread? t.tid = some t ∧
        t.bolt.bind s.bolt? = some wBolt ∧ wBolt.evicting = false) ∧
    (∀ sub ∈ [Sub.active, .faultParked, .barrier .bar], let t := { sigT (wT 0) with sub }
      CalledAway (wS wBolt [t]) t ∧ Keyed (wS wBolt [t]) ∧ t ∈ (wS wBolt [t]).memberThreads (wWeft [t])) ∧
    (let t := { sigT (wT 0) with sub := .extractParked }
     ¬ CalledAway (wS wBolt [t]) t ∧ t ∈ (wS wBolt [t]).memberThreads (wWeft [t])) ∧
    (let t := sigT (wT 0)
     ¬ CalledAway (wS { wBolt with evicting := true } [t]) t) ∧
    (wS { wBolt with evicting := true } [wT 0]).bolt? 1 = some { wBolt with evicting := true } :=
  ⟨by decide +kernel, ⟨takes_sig _, deaf_not (by decide +kernel), .inr (.inr (.inr (.inr (.inr (.inl ⟨_, _, _, rfl⟩))))), by decide +kernel,
    takes_not (by decide +kernel)⟩, by decide +kernel, fun sub hs => by
      have h : Takes { sigT (wT 0) with sub } 0x46 [0x45, 0x47] := takes_sig { wT 0 with sub }
      simp only [List.mem_cons, List.not_mem_nil, or_false] at hs
      rcases hs with rfl | rfl | rfl <;>
        exact ⟨⟨⟨_, _, h⟩, deaf_not (by decide +kernel), by decide +kernel, by
          rintro ⟨b, hb, he⟩
          cases Option.some.inj (hb.symm.trans (show _ = some wBolt by decide +kernel))
          exact absurd he (by decide +kernel)⟩, keyed_of (by decide +kernel), by decide +kernel⟩,
    ⟨fun h => h.2.2.1 (by decide +kernel), by decide +kernel⟩,
    fun h => h.2.2.2 ⟨{ wBolt with evicting := true }, by decide +kernel⟩, by decide +kernel⟩

/-- A report of lane 0 of slot 0, on core 0 with a service queue. -/
def aReport (told : Bool) : Report := { word0 := 0, value := 0x10, pc := 0x4000, told }
def reportS (told : Bool) (q : Queue) : State :=
  (({ wS wBolt [{ wT 0 with sub := .faultParked }] with queues := [(0, q)] }).putW 0
    { wCore [wT 0] with reports := [aReport told] })

/-- A word in the resume queue of die 2, and a fault-parked lane. -/
def resumeS (w : Word) : State := { wS wBolt [{ wT 0 with sub := .faultParked }] with queues := [(1, aQueue 5 [(w, false)])] }

theorem witness_ReportsAndResumes :
    (∀ e ∈ [(false, aQueue 6 (List.replicate 61 (0, false))), (true, aQueue 6 (List.replicate 62 (0, false))), (true, aQueue 0 [])],
      let s := reportS e.1 e.2
      (s.wcore 0).reports = [aReport e.1] ∧ (aReport e.1).slot = 0 ∧ (aReport e.1).lane = 0 ∧ serviceQueueOf s (dieOf 0) = 0 ∧
        (((s.queue 0).lsz ≠ 0 ∧ (s.queue 0).words.length + 3 ≤ 2 ^ (s.queue 0).lsz ∧ s.freeFor 0 false = true) ↔ e.1 = false) ∧
        (s.parkedAt 0 0 0).isSome = true) ∧
    (let s := { blank with queues := [(1, aQueue 5 [(0x3000000000000, false)])] }
     (s.queue ((serviceQueueOf s 2 + 1) % 2 ^ 13)).words = [(0x3000000000000, false)] ∧
      s.freeFor ((serviceQueueOf s 2 + 1) % 2 ^ 13) true = true ∧
      ∀ core slot action mask, core < 144 → dieOf core = 2 → slot < 48 → action < 3 → mask < 2 ^ 32 →
        (0x3000000000000 : Word) ≠ resumeWord core slot action ((tabGet (s.wcore core).epochs slot).getD 0) mask) ∧
    (∀ action ∈ [0, 1, 2], let s := resumeS (resumeWord 0 0 action 0 1)
      dieOf 0 = 2 ∧ (tabGet (s.wcore 0).epochs 0).getD 0 = 0 ∧ (s.queue ((serviceQueueOf s 2 + 1) % 2 ^ 13)).words =
        [(resumeWord 0 0 action 0 1, false)] ∧ s.freeFor ((serviceQueueOf s 2 + 1) % 2 ^ 13) true = true ∧
      (s.queue ((serviceQueueOf s 2 + 1) % 2 ^ 13)).owed = [] ∧ s.parkedAt 0 0 0 = some { wT 0 with sub := .faultParked } ∧ s.performed 9 = true) ∧
    (∀ l t, (resumeS (resumeWord 0 0 0 0 1)).parkedAt 0 0 l = some t → t.lane = l ∧ t.loc = .member 0 0 l) ∧
    (∀ action, Keyed (resumeS (resumeWord 0 0 action 0 1))) ∧ (blank.queue ((serviceQueueOf blank 2 + 1) % 2 ^ 13)).words = [] ∧
    ({ resumeS (resumeWord 0 0 2 0 1) with stores := [aStore 9 0] } : State).performed 9 = false := by
  refine ⟨by decide +kernel, ⟨by decide +kernel, by decide +kernel, ?_⟩, by decide +kernel, fun l t h => ?_, fun _ => keyed_of (by
      show ([(9, { wT 0 with sub := .faultParked })] : Tab Thread).all (fun x => x.2.tid == x.1) = true; decide +kernel),
    by decide +kernel, by decide +kernel⟩
  · intro core slot action mask h1 _ h2 h3 h4 he
    have h0 : ((tabGet (({ blank with queues := [(1, aQueue 5 [(0x3000000000000, false)])] } : State).wcore core).epochs slot).getD 0) = 0 := rfl
    rw [h0] at he
    have := congrArg BitVec.toNat he
    simp only [resumeWord, BitVec.toNat_ofNat] at this
    have h5 : mask + 0 * 2 ^ 32 + action * 2 ^ 48 + slot * 2 ^ 50 + core * 2 ^ 56 < 2 ^ 64 := by omega
    rw [Nat.mod_eq_of_lt h5] at this
    rw [show (0x3000000000000 : Word).toNat = 0x3000000000000 by decide] at this
    omega
  · have key : ∀ l, l < 32 → ∀ t, (resumeS (resumeWord 0 0 0 0 1)).parkedAt 0 0 l = some t → t.lane = l ∧ t.loc = .member 0 0 l := by
      intro l hl t h
      have : ∀ l, l < 32 → ((resumeS (resumeWord 0 0 0 0 1)).parkedAt 0 0 l).elim true (fun t => decide (t.lane = l ∧ t.loc = .member 0 0 l)) = true := by
        decide +kernel
      simpa [h] using this l hl
    by_cases hl : l < 32
    · exact key l hl t h
    · have h1 : (resumeS (resumeWord 0 0 0 0 1)).weft? 0 0 = some (wWeft [wT 0]) := by decide +kernel
      have h2 : (wWeft [wT 0]).lanes[l]? = none := by simpa using Nat.le_of_not_lt hl
      simp [State.parkedAt, h1, h2] at h

/-- A lane that leaves its weft, with a block. -/
def leaverT (asSub : Sub) : Thread :=
  { wT 0 with sub := .extractParked, leave := some (.latency none), asSub, tblk := 0x8000, xr := true }

/-- A thread in transit. -/
def transitT (d : Dest) : Thread := { wT 1 with tid := 20, loc := .transit d }

/-- A thread of no bolt: in transit, or in the pool of weft core 0. -/
def looseT (loc : Loc) : Thread := { Thread.fresh 20 0x10001 0x4000 .user with loc }

/-- Weft core 0 open, with threads in its pool since tick 5. -/
def poolS (n gtick : Nat) : State :=
  let ts := (List.range n).map fun i => { Thread.fresh (20 + i) 0x10001 0x4000 .user with loc := .pooled 0 }
  { blank with
    threads := ts.map fun t => (t.tid, t)
    wcores := [(0, { WCore.halted0 with halted := false, pool := ts.map fun t => (t.tid, 5) })]
    gtick }

theorem witness_ThreadMoves :
    (∀ a ∈ [Sub.active, .faultParked], let s := wS wBolt [leaverT a]
      (s.weft? 0 0).map (fun w => w.lanes[(0 : Fin 32)]) = some (some (leaverT a).tid) ∧
        s.thread? (leaverT a).tid = some (leaverT a) ∧ s.loadsDone (leaverT a).tid = true ∧ Memory.wf s.mem = true ∧
        (leaverT a).wait = .none ∧ (∀ x ∈ s.threads, x.2.tid = x.1)) ∧
    (∀ a, (leaverT a).tblk ≠ 0 ∧ PlainRange (wS wBolt [leaverT a]) ((leaverT a).tblk + 0x20) 24) ∧
    ({ wS wBolt [leaverT .active] with pend := [homePend 9 0] } : State).loadsDone 9 = false ∧
    (∀ d ∈ [none, some 256], let s : State := { latS latT with threads := [(7, latT), (20, transitT (.latency d))] }
      s.thread? 20 = some (transitT (.latency d)) ∧ (s.lcore 256).halted = false ∧ (s.lcore 257).halted = true ∧
        (∀ x ∈ s.threads, x.2.tid = x.1)) ∧
    (let t := transitT (.weft 0)
     let s : State := { wS wBolt [wT 0] with threads := [(9, wT 0), (20, t)] }
     s.thread? 20 = some t ∧ t.spawned = true ∧ t.bolt.bind s.bolt? = some wBolt ∧ t.sub = .active ∧ (s.wcore 0).halted = false ∧
      wBolt.core = 0 ∧ wBolt.bstate = .resident ∧ wBolt.evicting = false ∧
      (s.weft? 0 0).map (fun w => (w.bolt, w.widx, w.lanes[(1 : Fin 32)])) = some (wBolt.id, t.weft, none) ∧ t.weft < 32 ∧
      tabWf (s.wcore 0).slots = true ∧ 1 = t.lane ∧ (∀ x ∈ (s.wcore 0).slots, x.1 = 0) ∧ (∀ x ∈ s.threads, x.2.tid = x.1)) ∧
    (∀ d ∈ [Dest.weft 0, .anyWeft], ∀ n ∈ [0, 30], let t := { looseT (.transit d) with tid := 99 }
      let s : State := { poolS n 0 with threads := (poolS n 0).threads ++ [(99, t)] }
      s.thread? 99 = some t ∧ t.spawned = false ∧ t.bolt = none ∧ (s.wcore 0).halted = false ∧ (s.wcore 0).pool.length = n ∧
        (s.wcore 1).halted = true ∧ (∀ x ∈ s.threads, x.2.tid = x.1)) ∧
    (64 ≤ ((poolS 64 0).wcore 0).pool.length) ∧
    (∀ e ∈ [(1, 2053), (2, 2053), (32, 5), (1, 2052)], let s := poolS e.1 e.2
      let ts := s.threads.map fun p => (p.2, 5)
      (s.wcore 0).pool = ts.map (fun p => (p.1.tid, p.2)) ∧ ts.length = e.1 ∧
        (∀ p ∈ ts, s.thread? p.1.tid = some p.1 ∧ p.1.sub = .active ∧ p.1.like ((ts.head?.map (·.1)).getD latT) = true) ∧
        (ts.map fun p => p.1.tid).Nodup ∧
        ((32 ≤ ts.length ∨ 5 + ((ts.head?.map (·.1)).getD latT).pwait ≤ s.gtick) ↔ e ≠ (1, 2052)) ∧
        s.weft? 0 0 = none ∧ 7 ≤ s.freeBlocks 0 ∧ 16 ≤ s.freeRows 0 ∧ (∀ x ∈ s.threads, x.2.tid = x.1)) ∧
    (∀ s : State, (s.threads.all fun x => x.2.tid == x.1) = true → Keyed s) :=
  ⟨by decide +kernel, fun _ => ⟨by simp [leaverT], plain_of rfl rfl _ _ (by simp [leaverT])⟩, by decide +kernel, by decide +kernel, by decide +kernel,
    by decide +kernel, by decide +kernel, by decide +kernel, fun _ => keyed_of⟩

/-- A state whose region 0 is of the HDM range, with a byte of its entry in the region owner table and requests. -/
def hdmS (own : Byte) (xfers : List Xfer) (gtick : Nat) : State :=
  { blank with
    fw := { blank.fw with hdm := 1, rotbase := 0x40000000 }
    mem := if own = 0 then [] else [(0x40000000, own)]
    xfers
    gtick }

/-- A request for a transfer of region 0 since tick 3. -/
def aXfer (toHost late : Bool) : Xfer := ⟨0, toHost, 3, late, none⟩

/-- A queue with two requests, of which the first one stands. -/
def waitersS : State :=
  { latS latT with queues := [(5, { aQueue 5 [] with waiters := [⟨256, 64, 0x4000, true⟩, ⟨256, 64, 0x5000, true⟩] })] }

theorem witness_QueueAndRegionSteps :
    (∃ w ∈ (waitersS.queue 5).waiters, ¬ standing waitersS w) ∧ (∃ w ∈ (waitersS.queue 5).waiters, standing waitersS w) ∧
    (∀ w ∈ ((boundS 1).queue 0x1A2).waiters, standing (boundS 1) w) ∧
    (∀ toHost late, let x := aXfer toHost late
      xferBit (hdmS 5 [x] 0) 0 = true ∧ ∃ xs ys, (hdmS 5 [x] 0).xfers = xs ++ x :: ys ∧ x.region = 0 ∧ ∀ y ∈ xs, y.region ≠ 0) ∧
    (xferBit (hdmS 1 [] 0) 0 = false ∧ (∀ x ∈ (hdmS 5 [] 0).xfers, x.region ≠ 0)) ∧
    ((¬ ∃ p ∈ (hdmS 5 [] 0).stamps, lineOf (hdmS 5 [] 0) 0 p.1 ∧
        (p.2.rts + 2 ^ 20 - ((hdmS 5 [] 0).gtick + (hdmS 5 [] 0).maxGuard) % 2 ^ 20) % 2 ^ 20 < 2 ^ 19) ∧
      let s : State := { hdmS 5 [] 0 with stamps := [(3, ⟨0, 100⟩)] }
      ∃ p ∈ s.stamps, lineOf s 0 p.1 ∧ (p.2.rts + 2 ^ 20 - (s.gtick + s.maxGuard) % 2 ^ 20) % 2 ^ 20 < 2 ^ 19) ∧
    (let s : State := { latS latT with fw := (hdmS 5 [] 0).fw, pend := [{ homePend 7 0 with phase := .home 0x1000 0 0 }] }
     ∃ p ∈ s.pend, ∃ pa x y t, p.phase = .home pa x y ∧ s.thread? p.tid = some t ∧ t.onLatency = true ∧
      lineOf s 0 (pa / 128)) ∧
    ((hdmS 0 [aXfer false false] 65539).xfers = [aXfer false false] ∧ (aXfer false false).since + 65536 ≤ (hdmS 0 [aXfer false false] 65539).gtick ∧
      (hdmS 0 [aXfer false false] 65538).gtick < (aXfer false false).since + 65536) ∧
    (let s : State := { hdmS 1 [] 256 with dwell := [(0, 256)] }
     tabWf s.dwell = true ∧ tabGet s.dwell 0 = some 256 ∧ 256 ≤ s.gtick ∧ (hdmS 1 [] 255).gtick < 256 ∧ tabGet (hdmS 1 [] 0).dwell 0 = none) ∧
    (∀ own ∈ [0, 1, 3, 5], let s := hdmS (BitVec.ofNat 8 own) [] 0
      inRange s 0 ∧ ¬ inRange s 1 ∧ 0x1FFFFF / 2 ^ 21 = s.fw.hdm.toNat / 2 ^ 21 % 2 ^ 31 + 0 ∧ ([7] : List Byte) ≠ [] ∧
        (0x1FFFFF + ([7] : List Byte).length - 1) / 2 ^ 21 = 0x1FFFFF / 2 ^ 21 ∧
        s.fw.hdm.toNat / 2 ^ 21 % 2 ^ 31 + s.fw.hdm.toNat % 2 ^ 21 ≤ 0x200000 / 2 ^ 21 ∧ s.ownerByte 0 < 8 ∧
        Memory.wf s.mem = true ∧ (ownBit s 0 = true ↔ own ≠ 0) ∧ (xferBit s 0 = true ↔ own = 5)) ∧
    (∀ x, x < 0x1FFFFF ∨ 0x200000 ≤ x ∨ x = 0x1FFFFF → (hdmS 1 [] 0).inRing x = false) ∧
    PlainRange (hdmS 1 [] 0) 0x1FFFFF 1 := by
  refine ⟨⟨⟨256, 64, 0x5000, true⟩, by decide +kernel, ?_⟩, ⟨⟨256, 64, 0x4000, true⟩, by decide +kernel, ?_⟩, fun w hw => ?_,
    fun toHost late => ⟨by cases toHost <;> cases late <;> decide +kernel, [], [], rfl, rfl, fun _ h => (nomatch h)⟩, ⟨by decide +kernel, fun _ h => (nomatch h)⟩,
    ⟨fun ⟨_, h, _⟩ => (nomatch h), ⟨(3, ⟨0, 100⟩), List.mem_cons_self, ?_, by decide +kernel⟩⟩, ⟨_, List.mem_cons_self, 0x1000, 0, 0, latT, rfl, by decide +kernel,
      by decide +kernel, ?_⟩, by decide +kernel, by decide +kernel, ?_, fun x _ => rfl, fun x h1 h2 => ⟨rfl, ?_⟩⟩
  · rintro h
    rw [standing, if_pos rfl] at h
    obtain ⟨tid, t, h1, h2, -, h4⟩ := h
    have e1 : (waitersS.lcore 256).cur = some 7 := by decide +kernel
    cases Option.some.inj (e1.symm.trans h1)
    have e2 : waitersS.thread? 7 = some latT := by decide +kernel
    cases Option.some.inj (e2.symm.trans h2)
    exact absurd h4 (by decide)
  · rw [standing, if_pos rfl]
    exact ⟨7, latT, by decide +kernel, by decide +kernel, by decide +kernel, by decide +kernel⟩
  · have e : ((boundS 1).queue 0x1A2).waiters = [] := by decide +kernel
    rw [e] at hw
    cases hw
  · unfold lineOf; decide +kernel
  · unfold lineOf; decide +kernel
  · unfold inRange; decide +kernel
  · obtain rfl : x = 0x1FFFFF := by omega
    exact ⟨by decide +kernel, by decide +kernel⟩

theorem witness_LinksAndReset :
    (blank.outside.linkDown = false ∧ ({ blank with outside := { blank.outside with linkDown := true } } : State).outside.linkDown = true ∧
      (tabGet blank.outside.ucie 3).getD 0 < 8 ∧
      8 ≤ (tabGet ({ blank with outside := { blank.outside with ucie := [(3, 8)] } } : State).outside.ucie 3).getD 0) ∧
    (∀ e ∈ [(true, 0), (true, 1), (false, 0)], let s : State :=
      { blank with outside := { blank.outside with ports := [(23, { blank.lport 23 with up := e.1, resends := e.2, resendSeq := 9, expect := 9 })] } }
      (s.lport 23).up = e.1 ∧ (s.lport 23).resends = e.2 ∧ (s.lport 23).resendSeq = 9 ∧ (s.lport 23).expect = 9) ∧
    (0xFFA5 : Word).toNat % 2 ^ 8 = 0xA5 ∧ (0xA4 : Word).toNat % 2 ^ 8 ≠ 0xA5 ∧ (List.replicate 32 (0 : Byte)).length = 32 := by
  decide +kernel

theorem witness_RegisterSteps :
    (∀ n ∈ [0, 143, 256, 303], ({ blank with fw := { blank.fw with corsel := BitVec.ofNat 64 n } } : State).fw.corsel.toNat = n) ∧
    wBolt.id = 1 ∧ (wS wBolt [wT 0]).bolt? wBolt.id = some wBolt ∧
    (latS latT).thread? latT.tid = some latT ∧ latT.core? = some 256 ∧ (wS wBolt [wT 0]).thread? 9 = some (wT 0) ∧
    (wT 0).core? = some 0 ∧ (∃ e ∈ systemRegisters, e.2.2 ≠ none) ∧ (∃ e ∈ systemRegisters, e.2.2 = none) ∧
    threadWrites 5 ≠ [] := by decide +kernel

/-- A state in whose memory the bytes at a thread's program counter spell ADD g3, g4, g5, or nothing. -/
def codeS (s : State) (core : Nat) (code : Bool) (agenda : List Turn) : State :=
  { s.putTlb core [{ tlbE 0x1BD with vbase := 0 }] with
    mem := if code then [(0x204000, 0x01), (0x204001, 0x18), (0x204002, 0x88), (0x204003, 0x02)] else []
    agenda }

/-- Whether a fetch gives bytes and leaves the state. -/
def fetchB (r : Fetched) (s : State) (bs : List Byte) : Bool :=
  match r with
  | .code k b => decide (k = s) && b == bs
  | _ => false

theorem fetch_of {r : Fetched} {s : State} {bs : List Byte} (h : fetchB r s bs = true) : r = .code s bs := by
  cases r <;> simp_all [fetchB]

/-- Whether a check passes with a place and leaves the state. -/
def chkIsB (c : Chk Nat) (s : State) (a : Nat) : Bool :=
  match c with
  | .ok k b => decide (k = s) && b == a
  | _ => false

theorem chkIs_of {c : Chk Nat} {s : State} {a : Nat} (h : chkIsB c s a = true) : c = .ok s a := by
  cases c <;> simp_all [chkIsB]

/-- Whether a step answers a next state. -/
def goesOn (r : Result) : Bool :=
  match r with
  | .next _ => true
  | _ => false

theorem goesOn_of {r : Result} (h : goesOn r = true) : ∃ t, r = .next t := by
  cases r <;> simp_all [goesOn]

theorem witness_PrivilegeHolds : let u := { latT with plvl := .user }
    (LaneGroup (latS u) [(0, u)] ∧ instrFields (.eretF (sForm 0 0 0)) = some (0x0B3, sForm 0 0 0) ∧
      (∃ r, opRule 0x0B3 = some r ∧ u.plvl.code < r.level) ∧ trapWaits (latS u) 7 ⟨.priv, 0, false⟩ = false) ∧
    (LaneGroup (wS wBolt [wT 0, wT 1]) (lanesIn [wT 0, wT 1]) ∧ ∀ p ∈ lanesIn [wT 0, wT 1],
      p.2.plvl = .user ∧ trapWaits (wS wBolt [wT 0, wT 1]) p.2.tid ⟨.priv, 0, false⟩ = false) ∧
    (∃ e ∈ systemRegisters, e.1 = (lForm 4 0 0 0 (BitVec.ofNat 32 e.1)).imm.toNat ∧ ∃ lvl, e.2.1 = some lvl ∧ u.plvl.code < lvl) ∧
    (∃ e ∈ systemRegisters, e.1 = (lForm 0 4 0 0 (BitVec.ofNat 32 e.1)).imm.toNat ∧ ∃ lvl, e.2.2 = some lvl ∧ u.plvl.code < lvl) := by
  refine ⟨⟨group_of (by decide +kernel), by decide +kernel, ⟨_, rfl, by decide +kernel⟩, by decide +kernel⟩,
    ⟨group_of (by decide +kernel), by decide +kernel⟩,
    ⟨(0x100, some 1, some 1), by decide +kernel, by decide, 1, rfl, by decide +kernel⟩,
    ⟨(0x100, some 1, some 1), by decide +kernel, by decide, 1, rfl, by decide +kernel⟩⟩

theorem witness_EncodeDecodes :
    (∀ e ∈ [(0x000, sForm 3 4 5), (0x000, { sForm 3 4 5 with e1 := true })], instrFields (.add e.2) = some e) ∧
    (Instr.add (sForm 3 4 5)).wellFormed = true ∧ (Instr.stD { lForm 0 8 9 0 0x100000 with form := .x, pol := 12 }).wellFormed = true ∧
    (Instr.addi { lForm 5 5 0 0 4 with form := .c }).wellFormed = true ∧ (Instr.ffmaS (mForm 10 11 12 13 0)).wellFormed = true ∧
    (instrFields (.ffmaS (mForm 10 11 12 13 0))).isSome = true := by decide +kernel

theorem witness_StepRunsDecoded :
    (∀ code, let s := codeS (latS latT) 256 code [.issueL 256]
      s.off = false ∧ s.agenda = [.issueL 256] ∧ (s.lcore 256).cur = some latT.tid ∧ (s.lcore 256).halted = false ∧
        s.thread? latT.tid = some latT ∧ latT.loc = .latency 256 ∧ latT.sub = .active ∧ latT.entry = none) ∧
    (∀ w more, ¬ Takes latT w more) ∧
    (∀ code, let s := codeS (latS latT) 256 code [.issueL 256]
      let k : State := { s with agenda := [], cur := .latency 256, note := Note.clear }
      fetchAt k 256 latT.pid latT.pc latT.plvl = .code k (if code then [0x01, 0x18, 0x88, 0x02] else [0, 0])) ∧
    Spells [0x01, 0x18, 0x88, 0x02] (.add (sForm 3 4 5)) ∧ (∃ e, decode [0, 0] = .error e) ∧
    (let s := codeS (wS wBolt [wT 0]) 0 true [.slice 0 0]
     let k : State := { (({ s with agenda := [] } : State).putWeft 0 0 (wWeft [wT 0])) with cur := .weft 0 0 0x4000, note := Note.clear }
     s.off = false ∧ s.agenda = [.slice 0 0] ∧ s.weft? 0 0 = some (wWeft [wT 0]) ∧ (wWeft [wT 0]).wstate = .running ∧
      (wWeft [wT 0]).held = true ∧ (s.wcore 0).halted = false ∧ s.bolt? (wWeft [wT 0]).bolt = some wBolt ∧
      wBolt.bstate = .resident ∧ wBolt.evicting = false ∧ (wWeft [wT 0]).ovr = 0 ∧ s.sliceOrder 0 0 = [1, 2, 3, 4, 5, 6, 7] ++ 0 :: [] ∧
      (∀ x ∈ [1, 2, 3, 4, 5, 6, 7], s.weft? 0 x = none) ∧ s.memberThreads (wWeft [wT 0]) = [wT 0] ∧
      ¬ (16 ≤ (wWeft [wT 0]).stall ∧ (0x4000 : Word) = (wWeft [wT 0]).stallPc) ∧ k.issueLanes.head? = some (0, wT 0)) ∧
    (let s := codeS (wS wBolt [wT 0]) 0 true [.slice 0 0]
     let k : State := { (({ s with agenda := [] } : State).putWeft 0 0 (wWeft [wT 0])) with cur := .weft 0 0 0x4000, note := Note.clear }
     (∀ x ys, ¬ Takes (wT 0) x ys) ∧ IssuesAt s (wWeft [wT 0]) 0x4000 ∧
      fetchAt k 0 (wT 0).pid (wT 0).pc (wT 0).plvl = .code k [0x01, 0x18, 0x88, 0x02]) ∧
    (let s := codeS (latS latT) 256 true []
     fetchPlace s 256 0x10001 0x4000 4 .firmware = .ok s 0x204000 ∧ lengthOf (s.byteAt 0x204000).toNat = 4 ∧
      PlainRange s 0x204000 4 ∧ tabGet s.code 256 = none ∧ 4 ≤ s.pageRest 256 0x10001 0x4000 ∧ s.poisonAt 0x204000 4 = false ∧ s.poisonAt 0x204000 1 = false) := by
  refine ⟨fun code => by cases code <;> decide +kernel, takes_not (by decide +kernel), fun code => ?_, rfl, ⟨_, rfl⟩,
    by decide +kernel, ⟨takes_not (by decide +kernel), by unfold IssuesAt; decide +kernel, fetch_of (by decide +kernel)⟩, ?_, by decide +kernel,
    plain_of rfl rfl _ _ (by decide +kernel), by decide +kernel⟩
  · cases code <;> exact fetch_of (by decide +kernel)
  · exact chkIs_of (by decide +kernel)

theorem witness_StepKeeps :
    (codeS (latS latT) 256 true [.issueL 256]).Canonical ∧ Tidy (codeS (latS latT) 256 true [.issueL 256]) ∧
    ∃ t, step (codeS (latS latT) 256 true [.issueL 256]) = .next t :=
  ⟨by unfold State.Canonical; decide +kernel, by unfold Tidy; decide +kernel, goesOn_of (by decide +kernel)⟩

/-! ### Further clauses: one state and operands for each -/

/-- The number that a finite pattern stands for. -/
theorem real_of {fm : FFmt} {v : Nat} {n : Bool} {m : Nat} {e : Int} (h : fm.decode v = .fin n m e) :
    realOf (fm.decode v) = some ((if n then -1 else 1) * (m : ℝ) * (2 : ℝ) ^ e) := by rw [h]; rfl

theorem one_32 : realOf (fp32.decode 0x3F800000) = some 1 := by rw [real_of (n := false) (m := 8388608) (e := -23) (by decide +kernel)]; norm_num
theorem minus_32 : realOf (fp32.decode 0xBF800000) = some (-1) := by rw [real_of (n := true) (m := 8388608) (e := -23) (by decide +kernel)]; norm_num
theorem zero_32 : realOf (fp32.decode 0) = some 0 := by rw [real_of (n := false) (m := 0) (e := -149) (by decide +kernel)]; norm_num

/-- Infinities, NaNs, zeros, and numbers whose sum, difference, product and quotient is zero. -/
theorem witness_SpecialOperands :
    (∀ v ∈ [0x7F800000, 0xFF800000], (fp32.decode v).isInf = true ∧ (fp32.decode v).isNan = false ∧
      (fp32.decode v).isZero = false) ∧ (fp32.decode 0x7F800000).neg ≠ (fp32.decode 0xFF800000).neg ∧
    (fp32.decode 0x7FA00000).isSig = true ∧ (fp32.decode 0x7FC00000).isSig = false ∧ (fp32.decode 0x7FC00000).isNan = true ∧
    (∀ v ∈ [0, 0x80000000], (fp32.decode v).isZero = true ∧ (fp32.decode v).isSig = false ∧ (fp32.decode v).isInf = false) ∧
    (∃ x y, realOf (fp32.decode 0x3F800000) = some x ∧ realOf (fp32.decode 0xBF800000) = some y ∧ x + y = 0 ∧ x - x = 0 ∧
      y ≠ 0 ∧ ∃ z, realOf (fp32.decode 0) = some z ∧ z * x = 0 ∧ z = 0 ∧ x * y + x = 0) := by
  refine ⟨by decide +kernel, by decide +kernel, by decide +kernel, by decide +kernel, by decide +kernel, by decide +kernel,
    1, -1, one_32, minus_32, ?_, ?_, ?_, 0, zero_32, ?_, rfl, ?_⟩ <;> norm_num

/-- Arguments at and beyond the bounds of the approximate functions. -/
theorem witness_ApproximateFunctions :
    (∃ x, realOf (fp32.decode 0x200000) = some x ∧ x ≠ 0 ∧ |x| ≤ (2 : ℝ) ^ (-128 : ℤ)) ∧
    (∃ x, realOf (fp32.decode 0x400000) = some x ∧ (2 : ℝ) ^ (-128 : ℤ) < |x| ∧ |x| = (2 : ℝ) ^ (-127 : ℤ)) ∧
    (∃ x, realOf (fp32.decode 0x7F000000) = some x ∧ |x| = (2 : ℝ) ^ (127 : ℤ)) ∧
    (∃ x, realOf (fp32.decode 0xBF800000) = some x ∧ x < 0) ∧
    (∃ x, realOf (fp32.decode 0x40800000) = some x ∧ 0 < x ∧ x = (2 : ℝ) ^ (2 * 1 : ℤ)) ∧
    (∃ x, realOf (fp32.decode 0x43000000) = some x ∧ 128 ≤ x) ∧
    (∃ x, realOf (fp32.decode 0xC3150000) = some x ∧ x < 128 ∧ x = (-149 : ℤ)) ∧
    (∃ x, realOf (fp32.decode 0x42FE0000) = some x ∧ x = (127 : ℤ)) ∧
    (∃ x, realOf (fp32.decode 0x3F800000) = some x ∧ x = (2 : ℝ) ^ (0 : ℤ)) := by
  have h1 := real_of (fm := fp32) (v := 0x200000) (n := false) (m := 0x200000) (e := -149) (by decide +kernel)
  have h2 := real_of (fm := fp32) (v := 0x400000) (n := false) (m := 0x400000) (e := -149) (by decide +kernel)
  have h3 := real_of (fm := fp32) (v := 0x7F000000) (n := false) (m := 8388608) (e := 104) (by decide +kernel)
  have h4 := real_of (fm := fp32) (v := 0x40800000) (n := false) (m := 8388608) (e := -21) (by decide +kernel)
  have h5 := real_of (fm := fp32) (v := 0x43000000) (n := false) (m := 8388608) (e := -16) (by decide +kernel)
  have h6 := real_of (fm := fp32) (v := 0xC3150000) (n := true) (m := 9764864) (e := -16) (by decide +kernel)
  have h7 := real_of (fm := fp32) (v := 0x42FE0000) (n := false) (m := 16646144) (e := -17) (by decide +kernel)
  refine ⟨⟨_, h1, ?_⟩, ⟨_, h2, ?_⟩, ⟨_, h3, ?_⟩, ⟨_, minus_32, ?_⟩, ⟨_, h4, ?_⟩, ⟨_, h5, ?_⟩, ⟨_, h6, ?_⟩, ⟨_, h7, ?_⟩,
    ⟨_, one_32, ?_⟩⟩ <;> norm_num

/-- A claim behind an acquire that is still pending. -/
theorem witness_PortsThatStopALane_acquire :
    let s : State := { boundS 2 with pend := [{ aPend with kind := .acquire, phase := .home 0 0 0 }] }
    let t := latT.setPort 3 (.base 0x1A2)
    LaneGroup s [(0, t)] ∧ LaneReady s rAlu (sForm 3 59 4) true t ∧ s.mustWait t.tid = true ∧
      s.portQueue t 59 = .ok (.base 0x1A2) :=
  ⟨group_of (by decide +kernel), laneReady_of (by decide +kernel), by decide +kernel, rfl⟩

/-- A thread on its way back, and one that migrates, which have lost a store. -/
theorem witness_ReturnOfExtractedThread_lost : let t : Thread := { extracted with lost := some 0x10000 }
    Ready (latS t) (rNone.at 1) (sForm 0 0 0) false [(0, t)] ∧ t.xr = true ∧ t.loc = .latency 256 ∧
      trapWaits (latS t) t.tid ⟨.mchk, 0x10000, true⟩ = false := ⟨ready_of (by decide +kernel), rfl, rfl, by decide +kernel⟩

theorem witness_Migration_lost : let t : Thread := { having latT 4 303 with lost := some 0x10000 }
    PortsReady (latS t) rSrc1 (sForm 0 4 0) true false [(0, t)] ∧
      (256 ≤ (laneFor (latS t) t rSrc1 (sForm 0 4 0)).a.toNat % 2 ^ 16 ∧
        (laneFor (latS t) t rSrc1 (sForm 0 4 0)).a.toNat % 2 ^ 16 < 304) ∧
      trapWaits (latS t) 7 ⟨.mchk, 0x10000, true⟩ = false := ⟨portsReady_of (by decide +kernel), by decide +kernel, by decide +kernel⟩

/-- A thread to whose core a called thread's mark clings migrates in place. -/
theorem witness_Migration_inPlace : let t : Thread := { having latT 4 256 with xr := true }
    Meets (latS t) t rSrc1 (sForm 0 4 0) true false (fun s l => l.a.toNat % 2 ^ 16 = s.cur.core) :=
  meets_of (by decide +kernel) (by decide +kernel)

/-- The hypotheses of `TrapsChecked` for a lane alone. -/
def StopsAt (s : State) (t : Thread) (r : OpRule) (f : Fields) (irrev : Bool) (check : State → Lane → Option (State × Trap)) :
    Prop :=
  PortsReady s r f irrev false [(t.lane, t)] ∧
    ∃ k tr, check s (laneFor s t r f) = some (k, tr) ∧ trapWaits k t.tid tr = false

/-- Whether checks stop an access with a trap that waits for nothing. -/
def stopsB (tid : Nat) : Option (State × Trap) → Bool
  | some (k, tr) => !trapWaits k tid tr
  | none => false

theorem stopsAt_of {s : State} {t : Thread} {r : OpRule} {f : Fields} {irrev : Bool}
    {check : State → Lane → Option (State × Trap)} (h : portsReadyB s r f irrev false [(t.lane, t)] = true)
    (hc : stopsB t.tid (check s (laneFor s t r f)) = true) : StopsAt s t r f irrev check := by
  refine ⟨portsReady_of h, ?_⟩
  cases hx : check s (laneFor s t r f) with
  | none => rw [hx] at hc; cases hc
  | some x => rw [hx] at hc; exact ⟨x.1, x.2, rfl, by simpa [stopsB] using hc⟩

/-- A lane of a weft on weft core 0 that holds a translation with a leaf, with the page's address in g6. -/
def weftM : Thread := having (wT 0) 6 0x10000
def weftMS (leaf : Word) : State := (wS wBolt [weftM]).putTlb 0 [tlbE leaf]

/-- A misaligned store; one to an SC page without write permission, from a lane of a weft. -/
theorem witness_GlobalStores_traps :
    let fails (f : Fields) (z : Nat) (s : State) (l : Lane) : Option (State × Trap) :=
      if s.mustWait l.tid ∨ s.hasUnchecked l.tid then none else checkFails s l (addressOf f l) z true false 1 false
    let scWeft (f : Fields) (s : State) (l : Lane) : Bool :=
      decide (s.cur.core < 144) && s.scAt s.cur.core l.thread.pid (addressOf f l)
    StopsAt (memS 0x1AD) latM rSt (lForm 0 6 8 0 4) false
      (fun s l => (fails (lForm 0 6 8 0 4) 8 s l).filter fun x => !scWeft (lForm 0 6 8 0 4) x.1 l) ∧
    StopsAt (weftMS 0x1000000000001A5) weftM rSt (lForm 0 6 8 0 8) true
      (fun s l => (fails (lForm 0 6 8 0 8) 8 s l).filter fun x => scWeft (lForm 0 6 8 0 8) x.1 l && inWeft l.thread) :=
  ⟨stopsAt_of (by decide +kernel) (by decide +kernel), stopsAt_of (by decide +kernel) (by decide +kernel)⟩

/-- An AMO and a RED at a misaligned address, and on a page without permission. -/
theorem witness_AtomicOperations_traps :
    StopsAt (memS 0x1AD) latM rAmo (mForm 4 6 5 0 2) true (fun s l =>
      if s.mustWait l.tid ∨ (true = true ∧ (s.performed l.tid = false ∨ l.thread.lost ≠ none)) then none
      else checkFails s l (l.a.toInt + 4) (if (mForm 4 6 5 0 2).w then 4 else 8) true true 2 true) ∧
    StopsAt (latS latM) latM rRed (mForm 0 6 5 0 0) true (fun s l =>
      if s.mustWait l.tid ∨ (false = true ∧ l.thread.lost ≠ none) then none
      else checkFails s l (addressOf (mForm 0 6 5 0 0) l) 8 true false 2 true) :=
  ⟨stopsAt_of (by decide +kernel) (by decide +kernel), stopsAt_of (by decide +kernel) (by decide +kernel)⟩

/-- A CLFL without permission. -/
theorem witness_CopiesAndPrefetches_traps : let f := lForm 0 6 0 0 0
    StopsAt (latS latM) latM rClfl f false (fun s l => if s.mustWait l.tid then none
      else match hostLine f s l with
        | some x => match raced f s l x with
          | .error e => some (x.1, e)
          | .ok _ => none
        | none => checkFails s l (addressOf f l) 1 false true 0 false) :=
  stopsAt_of (by decide +kernel) (by decide +kernel)

/-- A CLFL on a page of mtype 2 and in a region of the device's. -/
theorem witness_CopiesAndPrefetches_more :
    (∃ k a, checkAccess (memS 0x5AD) latM 256 0x10000 1 false true 0 false = .ok k a ∧ (leafMtype a.leaf == 2) = true) ∧
    (∃ k a, checkAccess (memS 0x1AD) latM 256 0x10000 1 false true 0 false = .ok k a ∧
      (leafMtype a.leaf != 2 && !k.hostOwns a.pa) = true) :=
  ⟨passes_of (p := fun _ a => leafMtype a.leaf == 2) (by decide +kernel),
    passes_of (p := fun k a => leafMtype a.leaf != 2 && !k.hostOwns a.pa) (by decide +kernel)⟩

/-- A ROINV behind an acquire. -/
theorem witness_CopiesAndPrefetches_waits :
    Alone { latS latT with pend := [{ aPend with kind := .acquire, phase := .home 0 0 0 }] } latT rNone (sForm 0 0 0) false true
      (fun s l => s.mustWait l.tid = true) := alone_of (by decide +kernel) (by decide +kernel)

/-- A load of the host's unpinned region whose race check passes, and one that it stops. -/
theorem witness_CopiesAndPrefetches_race :
    let f := lForm 0 6 0 0 0
    let s : State := { memS 0x1AD with
      fw := { blank.fw with hdm := 0x200001, rotbase := 0x40000000 }, mem := [(0x40000000, 1)] }
    let w : State := ((latS latM).putTlb 256 [tlbE 0x2000000000001AD])
    let r : State := { w with fw := s.fw, mem := s.mem, shadow := [(0x200000 / 32, ⟨8, 257, 0, 0, false⟩)] }
    (((hostLine f s (laneFor s latM rClfl f)).map fun x => match raced f s (laneFor s latM rClfl f) x with
      | .ok _ => true | .error _ => false) = some true) ∧
    (((hostLine f r (laneFor r latM rClfl f)).map fun x => match raced f r (laneFor r latM rClfl f) x with
      | .ok _ => true | .error _ => false) = some false) := by decide +kernel

/-- The lane of another quarter, at the same quarter operation on another slice. -/
def mT8 : Thread := having (having (having { wT 8 with tid := 17 } 4 0) 5 1216) 6 1

/-- An issue whose lanes name two quarters; the first of them traps without the crook, is accepted with it, and waits with
a claim. -/
theorem witness_Quarters : let t := mT 0 1216 1
    let two := wS mBolt [t, mT8]
    (LaneGroup two (lanesIn [t, mT8]) ∧ touchesPort rMmq (mmqF 0) = false ∧
      ∀ p ∈ lanesIn [t, mT8], p.1 < 32 ∧ LaneReady two rMmq (mmqF 0) false p.2) ∧
    (quartersOf (lanesIn [t, mT8])).length = 2 ∧
    (∀ p ∈ lanesIn [t], two.thread? p.2.tid = some p.2) ∧ ((lanesIn [t]).map fun p => p.2.tid).Nodup ∧
    quarterTrap (mmqF 0) two mBolt (readLane rMmq (mmqF 0) 0 t []) = some ⟨.crook, two.crookStatus mBolt, false⟩ ∧
    trapWaits two t.tid ⟨.crook, two.crookStatus mBolt, false⟩ = false ∧
    (let c := (((wS mBolt [t]).modCrook 0 fun c => { c with holder := some (2, 0), claims := [(1, 0)] }).wcore 0).crook
     c.holder ≠ some (mBolt.id, 0) ∧ ∃ x ∈ c.claims, x.1 = mBolt.id) := by
  refine ⟨⟨group_of (by decide +kernel), by decide +kernel, fun p hp => ?_⟩, by decide +kernel, by decide +kernel,
    by decide +kernel, by decide +kernel, by decide +kernel, by decide +kernel⟩
  simp only [lanesIn, List.map_cons, List.map_nil, List.mem_cons, List.not_mem_nil, or_false] at hp
  rcases hp with rfl | rfl <;> exact ⟨by decide +kernel, laneReady_of (by decide +kernel)⟩

/-- Every other row of the traps at issue. -/
theorem witness_quarterTrap :
    (∀ e ∈ [((mmqF 0), (0 : Word), (1216 : Word), (16 : Word), Cause.prot), (mmqF 0, 0, 1216, 2, .prot),
        (mmqF 1, 5, 1216, 0, .prot), (mmqF 0, 0x800000, 1216, 0, .prot), (mmqF 0, 32, 1216, 0, .align),
        (mmqF 0, 0x10000, 1216, 0, .prot), (mmqF 2, 0, 13, 0, .prot), (mmqF 0, 0, 32, 0, .align)],
      let t := mT e.2.1 e.2.2.1 e.2.2.2.1
      (quarterTrap e.1 (mS mBolt t) mBolt (readLane rMmq e.1 0 t [])).map Trap.cause = some e.2.2.2.2) := by decide +kernel

/-- A bolt whose tile at 2432 is of another depth, and one whose tile there is poisoned. -/
def dBolt : Bolt := { wBolt with spad := [(1, 1), (1217, 1), (2433, 2), (3649, 1), (4865, 1)] }
def pBolt : Bolt := { mBolt with spPoison := [608] }

/-- Waiting quarters that a header stops, at the A tile, at the first tile of B and at the second. -/
theorem witness_headerTrap :
    PlaceOf mBolt (.spad 64) 64 none ∧
    (headerTrap (waitS mBolt aWait) mBolt 64).map Trap.cause = some .prot ∧
    (headerTrap (waitS pBolt aWait) pBolt 2432).map Trap.cause = some .poison ∧
    (headerTrap (waitS mBolt aWait) mBolt 0).isNone = true ∧
    TileAt (waitS mBolt aWait) mBolt 0 none (tileAt 0 none) ∧
    SetAt mBolt [.spad 64] 1 (fun t => (64 + t * 1216 : Nat)) (fun _ => none) ∧
    SetAt mBolt [.spad 4864] 1 (fun t => (4864 + t * 1216 : Nat)) (fun _ => none) ∧
    TileAt (waitS mBolt aWait) mBolt 4864 none (tileAt 4864 none) ∧
    (headerTrap (waitS mBolt aWait) mBolt 6080).map Trap.cause = some .prot ∧
    TileAt (waitS dBolt aWait) dBolt 1216 none (tileAt 1216 none) ∧
    TileAt (waitS dBolt aWait) dBolt 2432 none { tileAt 2432 none with depth := 2 } := by
  refine ⟨.inl ⟨64, rfl, rfl, rfl⟩, by decide +kernel, by decide +kernel, by decide +kernel,
    tileAt_of (v := 0) (by decide) (by decide +kernel), .inl ⟨64, rfl, fun t _ => ⟨rfl, rfl⟩⟩, .inl ⟨4864, rfl, fun t _ => ⟨rfl, rfl⟩⟩,
    tileAt_of (v := 4864) (by decide) (by decide +kernel), by decide +kernel, tileAt_of (v := 1216) (by decide) (by decide +kernel),
    ⟨dBolt, by decide, by decide, by decide, by decide +kernel⟩⟩

/-- A waiting quarter whose operands all stand in buffers of handles, that the crook holds, that it does not, and that finds
no room. -/
theorem witness_acceptWait :
    PlaceOf hBolt (.use 0 0 (some 0)) (((BitVec.ofNat 64 0).toNat + 0 * 1216 : Nat)) (some (0, 0)) ∧
    SetAt hBolt ((List.range 4).map fun t => .use (1 + t) 0 (some 0)) 1 (fun t => ((1216 * (1 + t) : Nat) : Int))
      (fun t => some (1 + t, 0)) ∧
    (∀ t ∈ List.range 4, TileAt (waitS hBolt aWait) hBolt ((1216 * (1 + t) : Nat) : Int) (some (1 + t, 0))
      (tileAt (1216 * (1 + t)) (some (1 + t, 0)))) ∧
    ((waitS hBolt aWait).wcore 0).crook.holder = some (hBolt.id, 0 % hBolt.nstage) ∧
    ¬ ((wS hBolt [wT 0]).wcore 0).crook.holder = some (hBolt.id, 0 % hBolt.nstage) ∧
    ((waitS hBolt aWait).wcore 0).aq.length < 32 := by
  refine ⟨.inr ⟨0, 0, 0, _, rfl, rfl, rfl, rfl, rfl⟩, .inr ⟨fun t => .use (1 + t) 0 (some 0), fun t => ⟨_, _, _, rfl⟩, rfl,
    fun t ht => ?_⟩, fun t ht => ?_, by decide +kernel, by decide +kernel, by decide +kernel⟩
  · have h : t = 0 ∨ t = 1 ∨ t = 2 ∨ t = 3 := by omega
    rcases h with rfl | rfl | rfl | rfl <;> exact .inr ⟨_, _, 0, _, rfl, rfl, rfl, rfl, rfl⟩
  · have h : t = 0 ∨ t = 1 ∨ t = 2 ∨ t = 3 := by have := List.mem_range.1 ht; omega
    rcases h with rfl | rfl | rfl | rfl
    · exact tileAt_of (v := 1216) (by decide) (by decide +kernel)
    · exact tileAt_of (v := 2432) (by decide) (by decide +kernel)
    · exact tileAt_of (v := 3648) (by decide) (by decide +kernel)
    · exact tileAt_of (v := 4864) (by decide) (by decide +kernel)

/-- Two quarters of a stage on two slices with one B set, and one on another set, in the array. -/
def fuseOps (data : Option (List SpData)) : List ArrOp :=
  [anOp aQuarter data, { anOp aQuarter data with id := 1, slice := 1, cycle := 4 },
    { anOp (.quarter (tileAt 0 none) [tileAt 64 none] false) data with id := 2, slice := 2 }]

def fuseS (data : Option (List SpData)) (cyc : Nat) (p : Option Pass) : State :=
  let s := mS mBolt (wT 0)
  s.putW 0 { s.wcore 0 with aq := fuseOps data, cyc, pass := p }

theorem witness_MatrixSteps_fusion :
    (let c := (fuseS none 4 none).wcore 0
     let q := anOp aQuarter none
     let quarter (o : ArrOp) : Bool := match o.kind with | .quarter _ _ _ => true | _ => false
     let free (o : ArrOp) : Bool := quarter o && !(c.aq.any fun x => decide (x.id < o.id) &&
       (x.bolt == o.bolt && x.slice == o.slice || quarter x && !(x.bolt == o.bolt && x.stage == o.stage)))
     c.pass = none ∧ (c.aq.map ArrOp.id).Nodup ∧ c.aq.find? free = some q ∧ q.cycle + 4 ≤ c.cyc ∧ c.cluster.nextPass ≤ c.cyc ∧
      c.cyc < c.cluster.lastEnd + 256) ∧
    (let s := fuseS (some [⟨[], []⟩, ⟨[], []⟩]) 20 (some ⟨[0, 1], 4, 16, 2, 0x10001, 1⟩)
     let c := s.wcore 0
     c.pass = some ⟨[0, 1], 4, 16, 2, 0x10001, 1⟩ ∧ 4 + 16 ≤ c.cyc ∧ (c.aq.map ArrOp.id).Nodup ∧
      s.bolt? mBolt.id = some mBolt ∧ mBolt.bstate ≠ .done ∧
      ∀ o ∈ c.aq.filter (fun o => [0, 1].contains o.id), o.bolt = mBolt.id ∧ ∃ a bs sparse da db,
        o.kind = .quarter a bs sparse ∧ o.data = some (da :: db)) := by
  refine ⟨by decide +kernel, by decide +kernel, by decide +kernel, by decide +kernel, by decide +kernel, by decide +kernel,
    fun o ho => ?_⟩
  have h : ∀ o ∈ ((fuseS (some [⟨[], []⟩, ⟨[], []⟩]) 20 (some ⟨[0, 1], 4, 16, 2, 0x10001, 1⟩)).wcore 0).aq.filter
      (fun o => [0, 1].contains o.id), o.bolt = mBolt.id ∧ o.kind = aQuarter ∧ o.data = some [⟨[], []⟩, ⟨[], []⟩] := by
    decide +kernel
  exact ⟨(h o ho).1, _, _, _, _, _, (h o ho).2.1, (h o ho).2.2⟩

/-- The last vote with claims queued: a release, a pass by the last stage, and a pass by another; a pack bolt's lane, and a
lane on a latency core. -/
theorem witness_CrookGrants_queued :
    let other : Bolt := { wBolt with id := 2 }
    let ot : Thread := { otherT with bolt := some 2 }
    let two (b : Bolt) (c : Crook) : State := { (wS2 b (wT 0) ot).modCrook 0 (fun _ => c) with bolts := [(1, b), (2, other)] }
    let s (b : Bolt) (c : Crook) : State := (two b c).putW 0 { (two b c).wcore 0 with
      slots := [(0, wWeft [wT 0]), (1, { wWeft [ot] with widx := 1, bolt := 2 })] }
    let held : Crook := { Crook.free with holder := some (1, 0), claims := [(2, 0)] }
    let staged : Bolt := { wBolt with nstage := 2 }
    let alone : State := (wS2 staged (wT 0) otherT).modCrook 0 fun _ => { Crook.free with holder := some (1, 0) }
    (AtArray (s wBolt held) rNone (sForm 0 0 0) wBolt [(0, wT 0)] 0 (wT 0) ∧ Keyed (s wBolt held) ∧
      tabWf ((s wBolt held).wcore 0).slots = true ∧ (∀ v ∈ (s wBolt held).voters wBolt 0, v = (wT 0).weft) ∧
      (s wBolt held).bolt? 2 = some other ∧ other.core = wBolt.core ∧ (s wBolt held).voters other 0 ≠ [] ∧
      0 + 1 = wBolt.nstage) ∧
    (AtArray alone rNone (sForm 0 0 0) staged [(0, wT 0)] 0 (wT 0) ∧ Keyed alone ∧ tabWf (alone.wcore 0).slots = true ∧
      (∀ v ∈ alone.voters staged 0, v = (wT 0).weft) ∧ 0 + 1 ≠ staged.nstage ∧ alone.voters staged 1 ≠ []) ∧
    (AtArray (wS { wBolt with pack := true } [wT 0]) rNone (sForm 0 0 0) { wBolt with pack := true } [(0, wT 0)] 0 (wT 0)) ∧
    Ready (latS latT) rDst (sForm 4 0 0) false [(0, latT)] :=
  ⟨⟨atArray_of (by decide +kernel), keyed_of (by decide +kernel), by decide +kernel⟩,
    ⟨atArray_of (by decide +kernel), keyed_of (by decide +kernel), by decide +kernel⟩, atArray_of (by decide +kernel),
    ready_of (by decide +kernel)⟩

/-- Lanes that have lost a store: one at BAR, one that waits to arrive. -/
theorem witness_BarrierArrivals_lost :
    (let t : Thread := { wT 0 with lost := some 0x10000 }
     Alone (wS wBolt [t]) t rBar (sForm 0 4 0) true false
      (fun s l => barrierTrap s l = some ⟨.mchk, 0x10000, true⟩)) ∧
    (let t : Thread := { arrivingT with lost := some 0x10000 }
     (wS wBolt [t]).thread? t.tid = some t ∧ t.sub = .barrier .bar ∧ t.wait = .arriving 6 0 4 ∧ Arrives (wS wBolt [t]) t) := by
  refine ⟨alone_of (by decide +kernel) (by unfold barrierTrap; decide +kernel), by decide +kernel, rfl, rfl, ?_⟩
  exact arrives_of wBolt (by decide +kernel)

/-- The last arrival of a bolt whose other thread waits away from the weft, on a latency core and in transit. -/
theorem witness_BarrierArrivals_away : ∀ loc ∈ [Loc.latency 256, .transit (.weft 0)],
    let b : Bolt := { wBolt with barWord := ⟨false, 2, 1⟩ }
    let x : Thread := { arrivedT with loc, carry := 4 }
    let s : State := { wS b [wT 0] with threads := [(9, wT 0), (10, x)] }
    s.thread? 9 = some (wT 0) ∧ (wT 0).bolt = some b.id ∧ s.bolt? b.id = some b ∧ b.barWord.arrived + 1 = b.barWord.expect ∧
      b.bstate ≠ .saved ∧ s.thread? 10 = some x ∧ x.bwait = some .bar ∧ x.bolt = some b.id ∧ x.inBarrier = true := by
  decide +kernel

/-- Blocks are reclaimed for the oldest resident bolt beside an older one that has ended. -/
theorem witness_WavesAndBlocks_ended : let s : State := { blocksS 2 with bolts := [(1, { wBolt with order := 5 }), (3, { wBolt with id := 3, order := 0, bstate := .done })] }
    (∃ x ∈ s.boltsOn 0, x.bstate = .resident ∧ x.order = 5) ∧ (∀ x ∈ s.boltsOn 0, x.bstate = .resident → 5 ≤ x.order) ∧
      s.freeBlocks 0 < s.needOf (awaitingW [releasedT]) ∧ s.pend = [] := by decide +kernel

/-- Arrivals at a network barrier that take MCHK: for a lost store, and for a package of the domain that cannot be reached;
NBINIT.c of a number out of range; a participant's threads. -/
theorem witness_NetworkBarriers_more : let f := lForm 0 6 8 0 255
    let lost : Thread := { nbT 0 0 [] with lost := some 0x10000 }
    let down : State := { nbS (nbT 0 0 []) with
      fw := { blank.fw with pkgid := 0x100 }, outside := { Outside.reset with routes := [(1, [])] } }
    Alone (nbS lost) lost rClfl f true false (fun s l =>
      arrivalTrap s l.thread (addressOf f l) true = some ⟨.mchk, 0x10000, true⟩) ∧
    Alone down (nbT 0 0 []) rClfl f true false (fun s l =>
      arrivalTrap s l.thread (addressOf f l) true = some ⟨.mchk, 5, false⟩) ∧
    Meets (latS (having latT 8 2)) (having latT 8 2) rClfl (lForm 0 6 0 0 256) false false (fun _ l =>
      255 < addressOf (lForm 0 6 0 0 256) l) ∧
    (let t := nbT 0 0 [(255, 0)]
     Keyed (nbS t) ∧ (nbS t).thread? 7 = some t ∧ partOf t = (false, 7) ∧ tabWf t.nbArr = true ∧
      ∃ x ∈ ((nbS t).nbar? 255).elim [] NBar.parts, (x.isBolt == (partOf t).1 && x.key == (partOf t).2) = true) :=
  ⟨alone_of (by decide +kernel) (by decide +kernel), alone_of (by decide +kernel) (by decide +kernel),
    meets_of (by decide +kernel) (by decide +kernel), keyed_of (by decide +kernel), by decide +kernel, by decide +kernel, by decide +kernel, by decide +kernel⟩

/-- A flock of two bolts on its way out, with as many words in the save pool as given. -/
def outS (areas : List (Word × Bool)) (a : Nat) : State :=
  let b : Bolt := { wBolt with evicting := true, saveArea := a }
  { unitS 1572864 with
    bolts := [(1, b), (4, { b with id := 4, bcoord := 1 })]
    queues := [(0, aQueue 6 [(1, false), (2, false)]), (1, { aQueue 6 areas with all := true })]
    fw := { blank.fw with pools := 0x100000000 } }

/-- The three cases of a save: areas taken already, areas for all, and for one of two. -/
theorem witness_SpawnUnitSteps_saves :
    ∀ e ∈ [([], 0x100000, 0), ([((0x100000 : Word), false), (0x200000, false)], 0, 2), ([(0x100000, false)], 0, 2)],
      let s := outS e.1 e.2.1
      let mine := s.bolts.filter fun b => !b.2.pack && b.2.spawn == 1 && b.2.fcoord == 0 && b.2.bstate != .done
      mine.length = 2 ∧ (∀ b ∈ mine, b.2.evicting = true ∧ b.2.bstate = .resident ∧ s.evictReady b.2 = true) ∧
        (mine.filter fun b => b.2.saveArea == 0).length = e.2.2 ∧ (s.queue s.savePool).words.length = e.1.length ∧
        s.freeFor s.savePool true = true := by decide +kernel

/-- A respawn whose bolt's record overflowed, so that it read and wrote every captured tile. -/
theorem witness_SpawnUnitSteps_round : ∀ round ∈ [1, 7],
    let t : Trace := { aTrace true with round, sel := [0], old := [(0, (false, []))], regions := [(⟨0, 0x20000, 0x1000, 12⟩, 0x100)] }
    let sp : Spawn := { wSpawn with boltsLeft := 0 }
    let s : State := { traceS true with
      traces := [t], mem := (traceS true).mem ++ [(0x2002C4, 1)], spawnU := { SpawnUnit.reset with spawns := [(1, sp)] } }
    let anew := t.old.foldl (fun n o => TileSet.union n ((s.tilesOf t o.1 true).minus o.2)) (false, [])
    tabGet s.spawnU.spawns sp.id = some sp ∧ s.trace? sp.id = some t ∧ sp.running = true ∧ sp.boltsLeft = 0 ∧
      s.spawnU.waiting = [] ∧ t.round ≠ 0 ∧ t.sel ≠ [] ∧ s.readers t anew ≠ [] ∧ t.round < 8 ∧
      (∀ x ∈ s.traces, x.spawn = sp.id → x = t) ∧ t.spawn = sp.id := by decide +kernel

/-- One whose bolt read nothing that was written anew. -/
theorem witness_SpawnUnitSteps_settled :
    let t : Trace := { aTrace true with round := 1, sel := [0], old := [(0, (false, []))] }
    let sp : Spawn := { wSpawn with boltsLeft := 0 }
    let s : State := { traceS true with traces := [t], spawnU := { SpawnUnit.reset with spawns := [(1, sp)] } }
    s.readers t (t.old.foldl (fun n o => TileSet.union n ((s.tilesOf t o.1 true).minus o.2)) (false, [])) = [] ∧
      t.round ≠ 0 ∧ t.sel ≠ [] ∧ s.trace? sp.id = some t := by decide +kernel

/-- The eighth round of one that still has readers. -/
theorem witness_SpawnUnitSteps_last :
    let t : Trace := { aTrace true with round := 8, sel := [0], old := [(0, (false, []))], regions := [(⟨0, 0x20000, 0x1000, 12⟩, 0x100)] }
    let s : State := { traceS true with traces := [t], mem := (traceS true).mem ++ [(0x2002C4, 1)] }
    8 ≤ t.round ∧ s.readers t (t.old.foldl (fun n o => TileSet.union n ((s.tilesOf t o.1 true).minus o.2)) (false, [])) ≠ [] := by
  decide +kernel

/-- A signal of a thread that has lost a store. -/
theorem witness_SignalsAndEvictions_lost : let t : Thread := { opT 9 5 with lost := some 0x10000 }
    Alone (latS t) t rDst2 (sForm 5 8 9) true false
      (fun _ l => (l.thread.lost.map fun v => (⟨.mchk, v, true⟩ : Trap)) = some ⟨.mchk, 0x10000, true⟩) :=
  alone_of (by decide +kernel) (by decide +kernel)

/-- A lane in WFI.t with its bound from a port: it starts to wait, waits, and its bound passes. -/
theorem witness_InvalidationHaltingAndIdling_port :
    let t : Thread := latT.setPort 3 (.base 0x1A2)
    let waits : Thread := { t with wait := .wfiPort 10 7 }
    let s (u : Thread) (g : Nat) : State := { boundS 1 with threads := [(7, u)], gtick := g }
    Meets (s waits 17) waits (rDst1.at 1) (sForm 5 59 0) false false (fun s l => l.thread.onLatency = true ∧
      ∃ g n, l.thread.wait = .wfiPort g n ∧ g + n ≤ s.gtick) ∧
    (PortsReady (s t 0) (rDst1.at 1) (sForm 5 59 0) false false [(0, t)] ∧ t.onLatency = true ∧ t.inbox = [] ∧
      t.wait = .none ∧ ¬ (sForm 5 59 0).s1.val < 56) ∧
    (PortsReady (s waits 16) (rDst1.at 1) (sForm 5 59 0) false false [(0, waits)] ∧ waits.inbox = [] ∧
      waits.wait = .wfiPort 10 7 ∧ (s waits 16).gtick < 10 + 7) :=
  ⟨meets_of (by decide +kernel) ⟨by decide +kernel, 10, 7, rfl, by decide +kernel⟩,
    ⟨portsReady_of (by decide +kernel), by decide +kernel⟩, portsReady_of (by decide +kernel), by decide +kernel⟩

/-- Memory with an s part of space 1 of another process at 0x10000. -/
def alienS : State := { memS 0x1AD with mem := [(0x200008, 1), (0x20000A, 2)] }

/-- Whether the s part that a thread reads is of another process. -/
def alienB (k : State) (ps : List Piece) : Bool :=
  (k.readSpan latM ps).1.pidMismatch (dwordAt (dwords ((k.readSpan latM ps).2.map (·.1))) 1)

/-- The h part in a pack bolt, and an s part of another process. -/
theorem witness_ContextRestores_traps :
    (let b : Bolt := { partBolt with pack := true }
     Alone (wS b [partL]) partL (rClfl.at 1) (lForm 0 6 0 0 448) false false (fun s l =>
      (s.loadsDone l.tid && s.performed l.tid && (boltFor s l).any fun b => b.pack) = true)) ∧
    ∃ k ps, checkSpan alienS latM 256 false 0x10000 128 8 = .ok k ps ∧ alienB k ps = true :=
  ⟨alone_of (by decide +kernel) (by decide +kernel),
    chk_of (c := checkSpan alienS latM 256 false 0x10000 128 8) (p := alienB) (by decide +kernel)⟩

/-- A thread in WFI.t with its bound from a port takes no signal word. -/
theorem witness_SignalsTaken_port : Deaf { latT with wait := .wfiPort 0 5 } :=
  .inr (.inr (.inr (.inr (.inr (.inr ⟨_, _, rfl⟩)))))

/-- Writes of pin that wait for a transfer, and a load of a weft that has yet to read a region. -/
theorem witness_QueueAndRegionSteps_more :
    (let s : State := { hdmS 5 [aXfer true false] 0 with outside := { Outside.reset with pins := [(0, true)] } }
     xferBit s 0 = true ∧ tabGet s.outside.pins 0 = some true ∧ s.xfers = [] ++ aXfer true false :: [] ∧
      Memory.wf s.mem = true ∧ s.ownerByte 0 < 8 ∧ (aXfer true false).host = none) ∧
    (let s : State := { wS wBolt [wT 0] with fw := (hdmS 5 [] 0).fw, pend := [{ homePend 9 0 with phase := .home 0x1000 0 0 }] }
     ∃ p ∈ s.pend, ∃ pa x y t, p.phase = .home pa x y ∧ s.thread? p.tid = some t ∧ lineOf s 0 (pa / 128)) := by
  refine ⟨by decide +kernel, _, List.mem_cons_self, 0x1000, 0, 0, wT 0, rfl, by decide +kernel, ?_⟩
  unfold lineOf
  decide +kernel

/-- A queue whose line holds a push of the device's behind a request that no lane stands at. -/
theorem witness_QueueAndRegionSteps_device :
    let s : State := { latS latT with queues := [(5, { aQueue 5 [] with
      waiters := [⟨256, 64, 0x5000, false⟩, Waiter.device], owed := [7] })] }
    (∃ w ∈ (s.queue 5).waiters, ¬ standing s w) ∧ standing s Waiter.device ∧ (s.queue 5).owed = [7] := by
  refine ⟨⟨⟨256, 64, 0x5000, false⟩, by decide +kernel, ?_⟩, by simp [standing, Waiter.device], by decide +kernel⟩
  rintro h
  rw [standing, if_neg (by decide), if_pos rfl] at h
  obtain ⟨tid, t, h1, h2, -, h4⟩ := h
  have e1 : (latS latT).threads = [(7, latT)] ∧ (({ latS latT with queues := [] } : State).lcore 256).cur = some 7 := by
    decide +kernel
  cases Option.some.inj (e1.2.symm.trans h1)
  have e2 : ({ latS latT with queues := [] } : State).thread? 7 = some latT := by decide +kernel
  cases Option.some.inj (e2.symm.trans h2)
  exact absurd h4 (by decide)

/-- A flit, as its sender builds it. -/
def aFlit (n : Nat) : LFlit := { seq := n, dest := 1, vc := 0, kind := 0, credit := 0, payload := List.replicate 224 0 }

/-- A port that is up and expects 9, with unacknowledged flits. -/
def aPort (un : List LFlit) (resends : Nat) : LPort :=
  { LPort.reset with expect := 9, resends, resendSeq := 5, next := 6, unacked := un }

/-- The 256 bytes of a flit with its CRC as given. -/
def flitWith (f : LFlit) (crc : List Byte) : List Byte :=
  (f.data 6 ++ crc) ++ leBytes 16 (Config.flitParity (f.data 6 ++ crc))

theorem flitWith_facts (n : Nat) {crc : List Byte} (hc : crc.length = 8) (hd : ((aFlit n).data 6).length = 232) :
    (flitWith (aFlit n) crc).length = 256 ∧ flitMended (flitWith (aFlit n) crc) = flitWith (aFlit n) crc ∧
    (flitWith (aFlit n) crc).take 232 = (aFlit n).data 6 ∧ ((flitWith (aFlit n) crc).drop 232).take 8 = crc ∧
    (flitWith (aFlit n) crc).take 8 = ((aFlit n).data 6).take 8 := by
  have he : ((aFlit n).data 6 ++ crc).length = 240 := by rw [List.length_append, hd, hc]
  have ht : (flitWith (aFlit n) crc).take 240 = (aFlit n).data 6 ++ crc := List.take_left' he
  have hr : (flitWith (aFlit n) crc).drop 240 = leBytes 16 (Config.flitParity ((aFlit n).data 6 ++ crc)) := List.drop_left' he
  refine ⟨by rw [flitWith, List.length_append, he, leBytes_count], ?_, ?_, ?_, ?_⟩
  · rw [flitMended, ht, hr, if_pos rfl]
  · rw [flitWith, List.append_assoc]
    exact List.take_left' hd
  · rw [flitWith, List.append_assoc, List.drop_left' hd]
    exact List.take_left' hc
  · rw [flitWith, List.append_assoc]
    exact List.take_append_of_le_length (by omega)

/-- A flit that the port expects, one that it does not, and one whose CRC fails. -/
theorem witness_LinksAndReset_flits :
    let good (b : List Byte) : Prop := leBytes 8 (Config.flitCrc (b.take 232)) = (b.drop 232).take 8
    (∀ n ∈ [9, 8], let b := flitWith (aFlit n) (leBytes 8 (Config.flitCrc ((aFlit n).data 6)))
      b.length = 256 ∧ good (flitMended b) ∧ leNat ((flitMended b).take 8) / 2 ^ 52 % 2 ^ 12 = n) ∧
    (let b := flitWith (aFlit 9) ((leBytes 8 (Config.flitCrc ((aFlit 9).data 6))).map (· + 1))
     b.length = 256 ∧ ¬ good (flitMended b)) ∧
    (aFlit 9).payload.length = 224 := by
  have hd : ∀ n ∈ [9, 8], ((aFlit n).data 6).length = 232 ∧ leNat (((aFlit n).data 6).take 8) / 2 ^ 52 % 2 ^ 12 = n := by
    decide +kernel
  refine ⟨fun n hn => ?_, ?_, by decide +kernel⟩
  · obtain ⟨h1, h2, h3, h4, h5⟩ := flitWith_facts n (leBytes_count 8 _) (hd n hn).1
    refine ⟨h1, ?_, ?_⟩
    · rw [h2]
      beta_reduce
      rw [h3, h4]
    · rw [h2, h5]
      exact (hd n hn).2
  · obtain ⟨h1, h2, h3, h4, -⟩ := flitWith_facts 9 (crc := (leBytes 8 (Config.flitCrc ((aFlit 9).data 6))).map (· + 1))
      (by rw [List.length_map, leBytes_count]) (hd 9 (by decide)).1
    refine ⟨h1, ?_⟩
    rw [h2]
    beta_reduce
    rw [h3, h4]
    cases hx : leBytes 8 (Config.flitCrc ((aFlit 9).data 6)) with
    | nil => exact absurd (leBytes_count 8 (Config.flitCrc ((aFlit 9).data 6))) (by rw [hx]; decide)
    | cons x r =>
      intro h
      have h0 : x = x + 1 := (List.cons.inj h).1
      exact (by decide : ∀ x : Byte, x ≠ x + 1) x h0

/-- NAKs of a flit that is not unacknowledged, that is, and that has failed sixteen times; acknowledgements of some flits
and of all; ports with room and without. -/
theorem witness_LinksAndReset_ports :
    (∀ e ∈ [([], 0, false), ([aFlit 5], 0, true), ([aFlit 5], 16, true)],
      let y := (aPort e.1 e.2.1).acked 5
      y.up = true ∧ ((∃ f ∈ y.unacked, f.seq = 5) ↔ e.2.2 = true) ∧ y.resendSeq = 5 ∧ y.resends = (if e.2.2 then e.2.1 else 0)) ∧
    (let x := aPort [aFlit 4, aFlit 5] 0
     x.unacked = [aFlit 4] ++ [aFlit 5] ∧ (∀ f ∈ [aFlit 4], f.seq ≠ 5) ∧ (aFlit 5).seq = 5) ∧
    (let x := aPort [aFlit 4, aFlit 5] 0
     x.unacked = [aFlit 4, aFlit 5] ++ [] ∧ (∀ f ∈ [aFlit 4, aFlit 5], f.seq ≠ 6) ∧ 6 = x.next ∧ x.next < 2 ^ 12 ∧ x.waiting = []) ∧
    (let x := aPort (List.replicate 1024 (aFlit 4)) 0
     1024 ≤ x.unacked.length ∧ 7 ≠ x.next ∧ ∀ f ∈ x.unacked, f.seq ≠ 7) := by
  refine ⟨by decide +kernel, by decide +kernel, by decide +kernel, (List.length_replicate (n := 1024) (a := aFlit 4)).ge,
    by decide, fun f hf => ?_⟩
  obtain rfl := List.eq_of_mem_replicate (show f ∈ List.replicate 1024 (aFlit 4) from hf)
  decide

/-- An image whose version is below the fused one; that one of a key with the fused digest and a signature that verifies is
accepted. -/
theorem witness_LinksAndReset_images (i : Config.FwImage) (hk : sha256 (beBytes 384 i.key) = Config.fusedDigest)
    (hs : rsaVerify i.key i.signature (sha256 (leBytes 8 i.version ++ leBytes 8 i.length ++ beBytes 384 i.key ++ i.rest)) = true) :
    Accepted blank i ∧ ¬ Accepted { blank with fw := { blank.fw with fwver := BitVec.ofNat 64 1 } } { i with version := 0 } :=
  ⟨⟨hk, by show (0 : Nat) ≤ _; omega, hs⟩, fun h => Nat.not_succ_le_zero 0 (show 1 ≤ 0 from h.2.1)⟩

/-- A core with fewer than seven register blocks that work, and one with seven. -/
theorem witness_RegisterSteps_blocks : ∀ n ∈ [6, 7],
    let s : State := blank.putW 0 { WCore.halted0 with working := n }
    s.fw.corsel.toNat = 0 ∧ ((s.wcore 0).working < 7 ↔ n = 6) := by decide +kernel

/-! ### Known answers of the standards (R10) -/

/-- Bytes given by their number, the first most significant. -/
def hex (n v : Nat) : List Byte := beBytes n v

/-- FIPS 180-4, the digest of "abc". -/
theorem test_sha256 : beNat (sha256 [0x61, 0x62, 0x63]) =
    0xba7816bf8f01cfea414140de5dae2223b00361a396177a9cb410ff61f20015ad := by decide +kernel
/-- FIPS 197, appendix C.3. -/
theorem test_aes : let key := hex 32 0x000102030405060708090a0b0c0d0e0f101112131415161718191a1b1c1d1e1f
    let p := hex 16 0x00112233445566778899aabbccddeeff
    beNat (aes key p) = 0x8ea2b7ca516745bfeafc49904b496089 := by decide +kernel
/-- An LZ4 block of the format's description: four literals, a copy of eight bytes at offset 4, and five literals. -/
theorem test_lz4 : decompress 1 [0x44, 1, 2, 3, 4, 4, 0, 0x50, 9, 9, 9, 9, 9] =
    decompress 1 ([0xF0, 2] ++ [1, 2, 3, 4, 1, 2, 3, 4, 1, 2, 3, 4, 9, 9, 9, 9, 9]) := by decide +kernel
/-- The xxHash description: the 64-bit hash of no bytes under seed 0. -/
theorem test_xxh64 : xxh64 [] = 0xEF46DB3751D8E999 := by decide +kernel
/-- RFC 8878: a frame of one raw block of three bytes with a content size, and the same with a block of RLE. -/
theorem test_zstd : (decompress 2 [0x28, 0xB5, 0x2F, 0xFD, 0x20, 0x03, 0x19, 0, 0, 7, 8, 9]) =
    (decompress 2 [0x28, 0xB5, 0x2F, 0xFD, 0x20, 0x03, 0x18, 0, 0, 7, 8, 9, 0x01, 0, 0]) := by decide +kernel

end Sys2Proof.Tests
end

section
/-! SUPPORT. What an instruction that only computes a result leaves as it was (R8, R58, R98): first what moving queue
words leaves, then an issue whose lanes change their own records, then the raised sets of the float operations (R132),
and which instructions of the model have this form. -/

namespace Sys2Proof.Machine

/-! ### Rings of queues -/

theorem mem_of_tabGet {α : Type} {t : Tab α} {k : Nat} {a : α} (h : tabGet t k = some a) : (k, a) ∈ t := by
  induction t with
  | nil => simp [tabGet] at h
  | cons p t ih =>
    obtain ⟨j, b⟩ := p
    unfold tabGet at h
    split_ifs at h with hj
    · cases h; subst hj; exact List.mem_cons_self
    · exact List.mem_cons_of_mem _ (ih h)

/-- An entry that answers as the one it stands in for changes no question about all entries. -/
theorem any_tabPut {α : Type} (P : α → Bool) (t : Tab α) {k : Nat} {v : α}
    (h : P v = ((tabGet t k).map P).getD false) :
    (tabPut t k v).any (fun q => P q.2) = t.any fun q => P q.2 := by
  induction t with
  | nil => simpa [tabPut, tabGet] using h
  | cons p t ih =>
    obtain ⟨j, b⟩ := p
    unfold tabPut
    split_ifs with h1 h2
    · rw [List.any_cons]
      cases hv : P v with
      | false => rfl
      | true =>
        cases hc : tabGet ((j, b) :: t) k with
        | none => simp [hv, hc] at h
        | some c =>
          rw [hv, hc] at h
          exact (List.any_eq_true.2 ⟨(k, c), mem_of_tabGet hc, h.symm⟩).symm
    · subst h2
      simp_all [tabGet]
    · rw [List.any_cons, List.any_cons, ih (by simpa [tabGet, h2] using h)]

/-- Whether an address lies in the ring of a queue, if the queue is enabled (R334). -/
def Queue.ringHas (q : Queue) (pa : Nat) : Bool :=
  q.lsz != 0 && q.base.toNat ≤ pa && pa < q.base.toNat + 8 * 2 ^ q.lsz

theorem State.inRing_eq (s : State) (pa : Nat) : s.inRing pa = s.queues.any fun q => q.2.ringHas pa := rfl

/-- A queue's record with the same ring leaves the rings as they are. -/
theorem State.inRing_putQueue (s : State) {n : Nat} {r : Queue} (hl : r.lsz = (s.queue n).lsz)
    (hb : r.base = (s.queue n).base) (pa : Nat) : (s.putQueue n r).inRing pa = s.inRing pa := by
  have hr : r.ringHas pa = (s.queue n).ringHas pa := by rw [Queue.ringHas, hl, hb]; rfl
  refine any_tabPut (fun q => q.ringHas pa) s.queues (hr.trans ?_)
  rw [State.queue]
  cases tabGet s.queues n <;> rfl

/-! ### The rest of the machine while queue words move -/

/-- Memory, the vaults, the rings of queues, the firmware registers, the contexts and the accesses in flight stay. -/
structure Steady (s t : State) : Prop where
  mem : t.mem = s.mem
  vmem : t.vmem = s.vmem
  fresh : t.fresh = s.fresh
  ring : ∀ pa, t.inRing pa = s.inRing pa
  fw : t.fw = s.fw
  contexts : t.contexts = s.contexts
  pend : t.pend = s.pend
  stores : t.stores = s.stores

namespace Steady

variable {s t u : State}

theorem trans (h : Steady s t) (h' : Steady t u) : Steady s u :=
  ⟨h'.mem.trans h.mem, h'.vmem.trans h.vmem, h'.fresh.trans h.fresh, fun a => (h'.ring a).trans (h.ring a),
    h'.fw.trans h.fw, h'.contexts.trans h.contexts, h'.pend.trans h.pend, h'.stores.trans h.stores⟩

/-- Threads, cores, bolts, the directory, kept code and the access number are none of it. -/
theorem of_eq (h : t = { s with
    threads := t.threads, lcores := t.lcores, wcores := t.wcores, bolts := t.bolts, dirs := t.dirs, code := t.code,
    seq := t.seq }) : Steady s t := by
  rw [h]
  exact ⟨rfl, rfl, rfl, fun _ => rfl, rfl, rfl, rfl, rfl⟩

theorem refl (s : State) : Steady s s := of_eq rfl

theorem byteAt (h : Steady s t) (a : Nat) : t.byteAt a = s.byteAt a := by
  rw [State.byteAt, State.byteAt, h.ring, h.fresh, h.mem]

theorem vaultByte (h : Steady s t) (a : Nat) : t.vaultByte a = s.vaultByte a := by
  rw [State.vaultByte, State.vaultByte, h.vmem]

theorem putQueue (s : State) {n : Nat} {r : Queue} (hl : r.lsz = (s.queue n).lsz) (hb : r.base = (s.queue n).base) :
    Steady s (s.putQueue n r) := ⟨rfl, rfl, rfl, s.inRing_putQueue hl hb, rfl, rfl, rfl, rfl⟩

end Steady

/-- The threads given, each in the state under its own number. -/
def HoldsOwn (own : List Nat) (s : State) : Prop := ∀ n ∈ own, ∃ u, s.thread? n = some u ∧ u.tid = n

/-- The thread with an inbox and a view. -/
def Thread.receiving (t : Thread) (ib : List Word) (vs : Nat) : Thread := { t with inbox := ib, vstamp := vs }

/-- What the words and the synchronisation of queues change (R58, R92, R93): beside cores, bolts, queues and the
directory, of the threads given their inboxes and views. -/
structure WordsMoved (own : List Nat) (s t : State) : Prop extends Steady s t where
  others : ∀ n, n ∉ own → t.thread? n = s.thread? n
  mine : ∀ n u, s.thread? n = some u → ∃ ib vs, t.thread? n = some (u.receiving ib vs)

namespace WordsMoved

variable {own : List Nat} {s t u : State}

theorem of_threads (h : Steady s t) (ht : t.threads = s.threads) : WordsMoved own s t :=
  have hn (n : Nat) : t.thread? n = s.thread? n := by rw [State.thread?, ht]; rfl
  ⟨h, fun n _ => hn n, fun n u hu => ⟨u.inbox, u.vstamp, (hn n).trans hu⟩⟩

theorem refl (s : State) : WordsMoved own s s := of_threads (.refl s) rfl

theorem trans (h : WordsMoved own s t) (h' : WordsMoved own t u) : WordsMoved own s u := by
  refine ⟨h.toSteady.trans h'.toSteady, fun n hn => (h'.others n hn).trans (h.others n hn), fun n v hv => ?_⟩
  obtain ⟨ib, vs, h1⟩ := h.mine n v hv
  obtain ⟨ib', vs', h2⟩ := h'.mine n _ h1
  exact ⟨ib', vs', h2⟩

theorem holds (h : WordsMoved own s t) (hs : HoldsOwn own s) : HoldsOwn own t := fun n hn => by
  obtain ⟨u, hu, ht⟩ := hs n hn
  obtain ⟨ib, vs, h1⟩ := h.mine n u hu
  exact ⟨_, h1, ht⟩

/-- Steps that each move words, one after another. -/
theorem foldl {α : Type} {g : State → α → State} {l : List α}
    (hg : ∀ a ∈ l, ∀ k, HoldsOwn own k → WordsMoved own k (g k a)) (hs : HoldsOwn own s) :
    WordsMoved own s (l.foldl g s) := by
  induction l generalizing s with
  | nil => exact .refl s
  | cons a l ih =>
    have h1 := hg a List.mem_cons_self s hs
    exact h1.trans (ih (fun b hb => hg b (List.mem_cons_of_mem _ hb)) (h1.holds hs))

theorem putThread {v : Thread} (hv : s.thread? v.tid = some v) (hn : v.tid ∈ own) (ib : List Word) (vs : Nat) :
    WordsMoved own s (s.putThread (v.receiving ib vs)) := by
  refine ⟨.of_eq rfl, fun n h => State.thread?_putThread_other s fun e => h ?_, fun n u hu => ?_⟩
  · rwa [← e]
  · by_cases e : v.tid = n
    · subst e
      cases hv.symm.trans hu
      exact ⟨ib, vs, State.thread?_putThread_same s _⟩
    · exact ⟨u.inbox, u.vstamp, (State.thread?_putThread_other s (t := v.receiving ib vs) e).trans hu⟩

theorem modThread (hs : HoldsOwn own s) {n : Nat} (hn : n ∈ own) {g : Thread → Thread}
    (hg : ∀ u, ∃ ib vs, g u = u.receiving ib vs) : WordsMoved own s (s.modThread n g) := by
  obtain ⟨u, hu, rfl⟩ := hs n hn
  obtain ⟨ib, vs, h1⟩ := hg u
  rw [State.modThread_of s hu, h1]
  exact putThread hu hn ib vs

theorem modBolt (s : State) (n : Nat) (g : Bolt → Bolt) : WordsMoved own s (s.modBolt n g) := by
  unfold State.modBolt
  split
  · exact of_threads (.of_eq rfl) rfl
  · exact .refl s

theorem putQueue (s : State) {n : Nat} {r : Queue} (hl : r.lsz = (s.queue n).lsz) (hb : r.base = (s.queue n).base) :
    WordsMoved own s (s.putQueue n r) := of_threads (.putQueue s hl hb) rfl

/-- A push (R92), at an inbox of one of the threads given. -/
theorem pushWord (hs : HoldsOwn own s) {q : QId} (hq : ∀ n, q = .inbox n → n ∈ own) (w : Word) (p : Bool) :
    WordsMoved own s (s.pushWord q w p) := by
  cases q with
  | base n => exact putQueue s rfl rfl
  | chan b n => exact modBolt s b _
  | inbox n => exact modThread hs (hq n rfl) fun u => ⟨_, u.vstamp, rfl⟩

/-- The device's waiting pushes that a pop serves (R335). -/
theorem settleQueue (hs : HoldsOwn own s) (q n : Nat) : WordsMoved own s (s.settleQueue q n) := by
  induction n generalizing s with
  | zero => exact .refl s
  | succ n ih =>
    simp only [State.settleQueue]
    split
    · exact .refl s
    · next w owed _ =>
      split_ifs
      · have h1 := putQueue (own := own) s (n := q)
          (r := { s.queue q with owed, waiters := (s.queue q).waiters.erase Waiter.device }) rfl rfl
        have h2 := pushWord (h1.holds hs) (q := .base q) (fun _ h => by cases h) w false
        exact (h1.trans h2).trans (ih (h2.holds (h1.holds hs)))
      · exact .refl s

/-- A pop (R92), from an inbox of one of the threads given. -/
theorem takeWords (hs : HoldsOwn own s) {q : QId} (hq : ∀ n, q = .inbox n → n ∈ own) (used : List Nat) :
    WordsMoved own s (s.takeWords q used) := by
  unfold State.takeWords
  split_ifs
  · exact .refl s
  · cases q with
    | base n =>
      have h1 := putQueue (own := own) s (n := n) (r := { s.queue n with
        head := ((s.queue n).head + used.length) % 2 ^ (s.queue n).lsz
        words := dropAt used 0 (s.queue n).words }) rfl rfl
      exact h1.trans (settleQueue (h1.holds hs) n _)
    | chan b n => exact modBolt s b _
    | inbox n => exact modThread hs (hq n rfl) fun u => ⟨_, u.vstamp, rfl⟩

/-- A request that no longer waits (R335). -/
theorem waitDone (hs : HoldsOwn own s) (q : Nat) (me : Waiter) : WordsMoved own s (s.waitDone q me) := by
  unfold State.waitDone
  simp only
  split_ifs
  · have h1 := putQueue (own := own) s (n := q)
      (r := { s.queue q with waiters := (s.queue q).waiters.filter (· != me) }) rfl rfl
    exact h1.trans (settleQueue (h1.holds hs) q _)
  · exact .refl s

theorem raiseView (hs : HoldsOwn own s) {n : Nat} (hn : n ∈ own) (stamp : Nat) :
    WordsMoved own s (s.raiseView n stamp) := by
  obtain ⟨v, hv, rfl⟩ := hs n hn
  unfold State.raiseView
  simp only [hv]
  split
  · exact of_threads (.of_eq rfl) rfl
  · next c _ =>
    have h1 (l : LCore) : WordsMoved own s (s.putL c l) := of_threads (.of_eq rfl) rfl
    exact (h1 _).trans (putThread (s := s.putL c _) hv hn v.inbox _)
  · exact putThread hv hn v.inbox _

/-- An acquire of one of the threads given (R93). -/
theorem acquired (hs : HoldsOwn own s) {n : Nat} (hn : n ∈ own) : WordsMoved own s (s.acquired n) := by
  unfold State.acquired State.acquireView
  have h1 := raiseView hs hn s.viewCeil
  cases (s.thread? n).bind Thread.core? with
  | none => exact h1
  | some c => exact h1.trans (of_threads (.of_eq rfl) rfl)

/-- A release (R93). -/
theorem released (s : State) (n : Nat) : WordsMoved own s (s.released n) := by
  unfold State.released
  cases (s.thread? n).bind Thread.core? with
  | none => exact .refl s
  | some c =>
    have h1 : WordsMoved own s (s.bumpRel c) := by
      unfold State.bumpRel
      split_ifs <;> exact of_threads (.of_eq rfl) rfl
    exact h1.trans (of_threads (.of_eq rfl) rfl)

end WordsMoved

/-! ### The queues of a group -/

/-- A port that reaches an inbox reaches the thread's own (R91). -/
theorem portQueue_inbox {s : State} {t : Thread} {reg n : Nat} (h : s.portQueue t reg = .ok (.inbox n)) :
    n = t.tid := by
  unfold State.portQueue at h
  split at h
  · cases h
  · split_ifs at h; cases h
  · cases h; rfl
  · split_ifs at h
    split at h <;> cases h

/-- A claim names the queue that its lane's port reaches. -/
theorem fieldClaims_queue {s : State} {u : Use} {ls : List (Nat × Nat)} {c : Claim} (h : c ∈ fieldClaims s u ls) :
    ∃ t, s.thread? c.tid = some t ∧ s.portQueue t u.reg = .ok c.q := by
  induction ls with
  | nil => simp [fieldClaims] at h
  | cons p ls ih =>
    rw [fieldClaims.eq_2] at h
    split at h
    · next q hq =>
      rcases List.mem_cons.1 h with rfl | h
      · obtain ⟨t, ht, e⟩ := Option.map_eq_some_iff.1 hq
        exact ⟨t, ht, e⟩
      · exact ih h
    · exact ih h

/-- A group pops from no inbox but those of its own lanes. -/
theorem groupPops_inbox {s : State} {r : OpRule} {f : Fields} {ls : List (Nat × Thread)} (hg : LaneGroup s ls)
    {p : Nat × Popped} (hp : p ∈ s.groupPops r f ls) {n : Nat} (hq : p.2.q = .inbox n) :
    n ∈ ls.map fun q => q.2.tid := by
  rw [State.groupPops, popsOf, List.mem_map] at hp
  obtain ⟨c, hc, rfl⟩ := hp
  have hmem := ranked_go_mem _ _ hc
  obtain ⟨u, -, hu⟩ := List.mem_flatMap.1 hmem
  obtain ⟨t, ht, e⟩ := fieldClaims_queue hu
  obtain ⟨l, hl, htid⟩ := List.mem_map.1 (groupClaims_mem hmem)
  have hlt : t = l.2 := Option.some.inj (ht.symm.trans (htid ▸ hg.held l hl))
  refine List.mem_map.2 ⟨l, hl, ?_⟩
  rw [← hlt]
  exact (portQueue_inbox (e.trans (congrArg _ hq))).symm

/-- A lane pushes to no inbox but its own. -/
theorem pushOf_inbox {k : State} {r : OpRule} {f : Fields} {l : Lane} {v : Word} {x : QId × Word × Bool}
    (hx : x ∈ pushOf k r f l v) {n : Nat} (hq : x.1 = .inbox n) : n = l.thread.tid := by
  unfold pushOf at hx
  split_ifs at hx
  · split at hx
    · next q e =>
      rw [List.mem_singleton] at hx
      subst hx
      exact portQueue_inbox (e.trans (congrArg _ hq))
    · simp at hx
  · simp at hx

theorem mem_inTurn_pushes {r : OpRule} {f : Fields} {eff : State → Lane → State} {val : State → Lane → Word} {s : State}
    {ls : List Lane} {x : QId × Word × Bool} (hx : x ∈ (inTurn r f eff val s ls).2) :
    ∃ k, ∃ l ∈ ls, ∃ v, x ∈ pushOf k r f l v := by
  induction ls generalizing s with
  | nil => simp [inTurn] at hx
  | cons l ls ih =>
    simp only [inTurn, List.mem_append] at hx
    rcases hx with hx | hx
    · exact ⟨_, l, List.mem_cons_self, _, hx⟩
    · obtain ⟨k, m, hm, v, h⟩ := ih hx
      exact ⟨k, m, List.mem_cons_of_mem _ hm, v, h⟩

/-- A list of queues gathered from words holds queues of those words only. -/
theorem mem_gatheredQueues {l : List (Nat × Popped)} {acc : List QId} {q : QId}
    (h : q ∈ l.foldl (fun a p => if a.contains p.2.q then a else a ++ [p.2.q]) acc) : q ∈ acc ∨ ∃ p ∈ l, p.2.q = q := by
  induction l generalizing acc with
  | nil => exact .inl h
  | cons p l ih =>
    rcases ih h with h | ⟨x, hx, e⟩
    · dsimp only at h
      split_ifs at h
      · exact .inl h
      · rcases List.mem_append.1 h with h | h
        · exact .inl h
        · exact .inr ⟨p, List.mem_cons_self, (List.mem_singleton.1 h).symm⟩
    · exact .inr ⟨x, List.mem_cons_of_mem _ hx, e⟩

/-- The words of a group move. -/
theorem WordsMoved.moveWords {own : List Nat} {s : State} (hs : HoldsOwn own s) {pops : List (Nat × Popped)}
    (hpop : ∀ p ∈ pops, ∀ n, p.2.q = .inbox n → n ∈ own) (done : List Nat) {pushes : List (QId × Word × Bool)}
    (hpush : ∀ x ∈ pushes, ∀ n, x.1 = .inbox n → n ∈ own) : WordsMoved own s (moveWords s pops done pushes) := by
  have hpushed (k : State) (h : WordsMoved own s k) :
      WordsMoved own s (pushes.foldl (fun k x => k.pushWord x.1 x.2.1 x.2.2) k) :=
    h.trans (.foldl (fun x hx _ hj => .pushWord hj (hpush x hx) _ _) (h.holds hs))
  refine hpushed _ (.foldl (fun q hq k hk => .takeWords hk (fun n e => ?_) _) hs)
  obtain ⟨p, hp, rfl⟩ := (mem_gatheredQueues hq).resolve_left List.not_mem_nil
  exact hpop p (List.mem_of_mem_filter hp) n e

/-- What a group leaves beside its lanes' own effects, which stand in k (R58, R92, R93). -/
theorem WordsMoved.settled {s k : State} {r : OpRule} {f : Fields} {ls : List (Nat × Thread)} (hg : LaneGroup s ls)
    (hk : HoldsOwn (ls.map fun p => p.2.tid) k) {pushes : List (QId × Word × Bool)}
    (hpush : ∀ x ∈ pushes, ∀ n, x.1 = .inbox n → n ∈ ls.map fun p => p.2.tid) :
    WordsMoved (ls.map fun p => p.2.tid) k (s.settled r f ls pushes k) := by
  have h1 := WordsMoved.moveWords hk (fun p hp n => groupPops_inbox hg (r := r) (f := f) hp)
    (ls.map fun p => p.2.tid) hpush
  have h2 := h1.trans (WordsMoved.foldl (l := s.groupPops r f ls)
    (fun p hp j hj => WordsMoved.acquired hj (groupPops_mem hp)) (h1.holds hk))
  have h3 (j : State) (h : WordsMoved (ls.map fun p => p.2.tid) k j) : WordsMoved (ls.map fun p => p.2.tid) k
      (if pushes.isEmpty then j else (ls.map fun p => p.2.tid).foldl (fun j t => j.released t) j) := by
    split_ifs
    · exact h
    · exact h.trans (WordsMoved.foldl (fun t _ j _ => WordsMoved.released j t) (h.holds hk))
  have h4 := h3 _ h2
  exact (h4.trans (WordsMoved.foldl (fun u _ j hj => WordsMoved.waitDone hj _ _) (h4.holds hk))).trans
    (.of_threads (.of_eq rfl) rfl)

/-! ### Lanes that change their own records alone -/

theorem inTurn_putThread (r : OpRule) (f : Fields) (h : Lane → Thread) (val : State → Lane → Word) (s : State)
    (ls : List Lane) : (inTurn r f (fun k l => k.putThread (h l)) val s ls).1 = s.putThreads (ls.map h) := by
  induction ls generalizing s with
  | nil => rfl
  | cons l ls ih => exact ih _

/-- Lanes that change their own records alone find their own threads untouched, each in its turn. -/
theorem needInTurn_putThread {need : Lane → Prop} {h : Lane → Thread} {g : Nat × Thread → Lane} {s : State}
    {ls : List (Nat × Thread)} (hn : (ls.map fun p => p.2.tid).Nodup) (hh : ∀ p ∈ ls, s.thread? p.2.tid = some p.2)
    (hg : ∀ p, (g p).tid = p.2.tid ∧ (g p).thread = p.2) (htid : ∀ p, (h (g p)).tid = p.2.tid)
    (hneed : ∀ p ∈ ls, need (g p)) :
    needInTurn (fun _ l => need l) (fun k l => k.putThread (h l)) s (ls.map g) := by
  induction ls generalizing s with
  | nil => trivial
  | cons p ls ih =>
    rw [List.map_cons, List.nodup_cons] at hn
    refine ⟨⟨?_, hneed p List.mem_cons_self⟩, ih hn.2 (fun q hq => ?_) fun q hq => hneed q (List.mem_cons_of_mem _ hq)⟩
    · rw [(hg p).1, (hg p).2]
      exact hh p List.mem_cons_self
    · rw [State.thread?_putThread_other, hh q (List.mem_cons_of_mem _ hq)]
      rw [htid]
      exact fun e => hn.1 (e ▸ List.mem_map_of_mem (f := fun p : Nat × Thread => p.2.tid) hq)

theorem State.lanesTo_eq (s : State) (ls : List (Nat × Thread)) (h : Nat → Thread → Thread) :
    s.lanesTo ls h = { s.bump with threads := (s.lanesTo ls h).threads } := congrArg State.bump (s.putThreads_eq _)

theorem Ready.groupClaims_nil {s : State} {r : OpRule} {f : Fields} {irrev : Bool} {ls : List (Nat × Thread)}
    (h : Ready s r f irrev ls) : s.groupClaims r f ls = [] := by
  have huses : (usesOf r f).filter Use.isPort = [] := by
    rw [List.filter_eq_nil_iff]
    intro u hu
    simp [(usesOf_noPort h.ports).2 u hu]
  simp [State.groupClaims, claimsOf, huses]

/-- In a form without queue ports a group leaves its lanes' records and nothing else. -/
theorem Ready.after_putThread {s : State} {r : OpRule} {f : Fields} {irrev : Bool} {ls : List (Nat × Thread)}
    (hr : Ready s r f irrev ls) (h : Lane → Thread) (val : State → Lane → Word) :
    s.after r f ls (fun k l => k.putThread (h l)) val = s.lanesTo ls fun n t => h (readLane r f n t []) := by
  have hpush : pushesRd r f = false := (usesOf_noPort hr.ports).1
  have hpops : s.groupPops r f ls = [] := by simp [State.groupPops, popsOf, hr.groupClaims_nil, ranked, ranked.go]
  have hto : pushesOf s r f ls = [] := by simp [pushesOf, hpush]
  have hwords : (inTurn r f (fun k l => k.putThread (h l)) val s (ls.map (s.laneOf r f ls))).2 = [] := by
    rw [List.eq_nil_iff_forall_not_mem]
    intro x hx
    obtain ⟨k, l, -, v, hm⟩ := mem_inTurn_pushes hx
    simp [pushOf, hpush] at hm
  have hlane : h ∘ s.laneOf r f ls = fun p => h (readLane r f p.1 p.2 []) := by
    funext p
    simp [State.laneOf, State.lanePops, hpops]
  rw [State.after, hwords, inTurn_putThread, List.map_map, hlane]
  simp [State.settled, State.unqueued, moveWords, hpops, hr.groupClaims_nil, hto, baseUses, State.lanesTo]

section Own

variable {i : Instr} {r : OpRule} {f : Fields} {need : Lane → Prop} {h : Lane → Thread} {v : Lane → Word} {s : State}
  {ls : List (Nat × Thread)}

/-- An instruction whose lanes change their own records alone completes for every group that nothing stops. -/
theorem Runs.exec_own
    (hr : Runs i r f false true (fun _ l => need l) (fun k l => k.putThread (h l)) fun _ l => v l)
    (htid : ∀ l, (h l).tid = l.thread.tid) (hp : PortsReady s r f false true ls)
    (hneed : ∀ p ∈ ls, ∀ pops, need (readLane r f p.1 p.2 pops)) :
    exec i s = .next (s.after r f ls (fun k l => k.putThread (h l)) fun _ l => v l) :=
  hr s ls hp (needInTurn_putThread (g := s.laneOf r f ls) hp.group.nodup hp.group.held (fun _ => ⟨rfl, rfl⟩)
    (fun _ => htid _) fun p hm => hneed p hm _)

/-- What a group leaves whose lanes change their own records alone: the records of its threads, with what its words and
their synchronisation do to their inboxes and views; every other thread, memory, and what is in flight. -/
theorem LaneGroup.after_putThread (hg : LaneGroup s ls) (htid : ∀ l, (h l).tid = l.thread.tid) :
    let t := s.after r f ls (fun k l => k.putThread (h l)) fun _ l => v l
    Steady s t ∧ (∀ n, (∀ p ∈ ls, p.2.tid ≠ n) → t.thread? n = s.thread? n) ∧
    ∀ p ∈ ls, ∃ pops ib vs,
      t.thread? p.2.tid = some ((h (readLane r f p.1 p.2 pops)).receiving ib vs) := by
  intro t
  let us := (ls.map (s.laneOf r f ls)).map h
  have htids : us.map Thread.tid = ls.map fun p => p.2.tid := by
    rw [List.map_map, List.map_map]
    exact List.map_congr_left fun p _ => htid _
  have hown : ∀ p ∈ ls, (s.putThreads us).thread? p.2.tid = some (h (s.laneOf r f ls p)) := fun p hp => by
    have := s.thread?_putThreads_mem (l := us) (t := h (s.laneOf r f ls p)) (by rw [htids]; exact hg.nodup)
      (List.mem_map_of_mem (List.mem_map_of_mem hp))
    rwa [htid] at this
  have hholds : HoldsOwn (ls.map fun p => p.2.tid) (s.putThreads us) := fun n hn => by
    obtain ⟨p, hp, rfl⟩ := List.mem_map.1 hn
    exact ⟨_, hown p hp, htid _⟩
  have hmoved : WordsMoved (ls.map fun p => p.2.tid) (s.putThreads us) t := by
    change WordsMoved _ _ (s.settled r f ls _ (inTurn r f _ _ s _).1)
    rw [inTurn_putThread]
    exact WordsMoved.settled (r := r) (f := f) hg hholds
      (pushes := (inTurn r f (fun k l => k.putThread (h l)) (fun _ l => v l) s (ls.map (s.laneOf r f ls))).2)
      fun x hx n e => by
        obtain ⟨k, l, hl, w, hm⟩ := mem_inTurn_pushes hx
        obtain ⟨p, hp, rfl⟩ := List.mem_map.1 hl
        rw [pushOf_inbox hm e]
        exact List.mem_map.2 ⟨p, hp, rfl⟩
  refine ⟨?_, fun n hn => ?_, fun p hp => ?_⟩
  · refine Steady.trans ?_ hmoved.toSteady
    rw [s.putThreads_eq us]
    exact .of_eq rfl
  · rw [hmoved.others n fun hm => by
      obtain ⟨p, hp, e⟩ := List.mem_map.1 hm
      exact hn p hp e]
    refine s.thread?_putThreads_other us fun u hu e => ?_
    obtain ⟨p, hp, e'⟩ := List.mem_map.1 (htids ▸ List.mem_map_of_mem hu : u.tid ∈ ls.map fun p => p.2.tid)
    exact hn p hp (e'.trans e)
  · obtain ⟨ib, vs, e⟩ := hmoved.mine _ _ (hown p hp)
    exact ⟨_, ib, vs, e⟩

/-- In a form without queue ports the records of the group's threads are all that differs. -/
theorem Ready.exec_own
    (hr : Runs i r f false true (fun _ l => need l) (fun k l => k.putThread (h l)) fun _ l => v l)
    (htid : ∀ l, (h l).tid = l.thread.tid) (hp : Ready s r f false ls)
    (hneed : ∀ p ∈ ls, ∀ pops, need (readLane r f p.1 p.2 pops)) :
    ∃ t, exec i s = .next t ∧ Steady s t ∧ (∀ n, (∀ p ∈ ls, p.2.tid ≠ n) → t.thread? n = s.thread? n) ∧
      t = { s.bump with threads := t.threads } ∧
      ∀ p ∈ ls, t.thread? p.2.tid = some (h (readLane r f p.1 p.2 [])) := by
  have hports := hp.toPorts true
  obtain ⟨hsteady, hothers, -⟩ := hp.group.after_putThread (r := r) (f := f) (h := h) (v := v) htid
  rw [hp.after_putThread] at hsteady hothers
  refine ⟨_, by rw [hr.exec_own htid hports hneed, hp.after_putThread], hsteady, hothers, s.lanesTo_eq ls _,
    fun p hm => ?_⟩
  have htids : (ls.map fun p => h (readLane r f p.1 p.2 [])).map Thread.tid = ls.map fun p => p.2.tid := by
    rw [List.map_map]
    exact List.map_congr_left fun p _ => htid _
  have := s.thread?_putThreads_mem (t := h (readLane r f p.1 p.2 [])) (by rw [htids]; exact hp.group.nodup)
    (List.mem_map_of_mem (f := fun p : Nat × Thread => h (readLane r f p.1 p.2 [])) hm)
  rwa [htid] at this

end Own

/-! ### The record of a lane with its result -/

theorem Thread.setReg_eq (t : Thread) (n : Nat) (x : Reg) : t.setReg n x = { t with regs := (t.setReg n x).regs } := by
  unfold Thread.setReg
  split <;> rfl

/-- A result changes rd, pc, and rgn where a port is an operand (R58, R165). -/
theorem Lane.got_eq (l : Lane) (r : OpRule) (f : Fields) (v : Word) :
    l.got r f false v = { l.thread with
      regs := (l.got r f false v).regs
      pc := nextPc f l.thread.pc
      rgn := if touchesPort r f then nextPc f l.thread.pc else l.thread.rgn } := by
  unfold Lane.got
  rw [Bool.false_or]
  cases pushesRd r f with
  | true => rfl
  | false => exact congrArg (Thread.past · f (touchesPort r f)) (l.thread.setReg_eq f.rd _)

/-- A result leaves every register but rd, and g0 (R56). -/
theorem Lane.got_reg (l : Lane) (r : OpRule) (f : Fields) (v : Word) {n : Nat} (hn : n ≠ f.rd.val ∨ n = 0) :
    (l.got r f false v).reg n = l.thread.reg n := by
  rcases hn with hn | rfl
  · change (ite _ _ _ : Thread).reg n = _
    split_ifs
    · rfl
    · exact Thread.reg_setReg_other _ _ hn.symm
  · rw [Thread.reg_zero, Thread.reg_zero]

@[simp] theorem Lane.got_tid (l : Lane) (r : OpRule) (f : Fields) (v : Word) :
    (l.got r f false v).tid = l.thread.tid := by
  rw [Lane.got_eq]

/-- What an instruction that computes a result may change of a thread's record: rd, the sticky flags of fmode, and what
g takes from the record it leaves. -/
def OnlyResult (f : Fields) (g : Thread → Thread → Thread) (t u : Thread) : Prop :=
  (∀ n, n ≠ f.rd.val ∨ n = 0 → u.reg n = t.reg n) ∧
  (∀ k, k < 4 ∨ 9 ≤ k → u.fmode.getLsbD k = t.fmode.getLsbD k) ∧
  u = { g t u with regs := u.regs, pc := nextPc f t.pc }

/-- What a form with queue ports changes besides: rgn, and an inbox and a view. -/
def withPorts (r : OpRule) (f : Fields) (t u : Thread) : Thread :=
  { t with rgn := if touchesPort r f then nextPc f t.pc else t.rgn, inbox := u.inbox, vstamp := u.vstamp }

theorem Lane.got_onlyResult (l : Lane) {r : OpRule} {f : Fields} (v : Word) (hp : touchesPort r f = false) :
    OnlyResult f (fun t _ => t) l.thread (l.got r f false v) := by
  refine ⟨fun n hn => l.got_reg r f v hn, fun k _ => ?_, ?_⟩
  · rw [Lane.got_eq]
  · rw [Lane.got_eq, hp]; rfl

theorem Lane.got_onlyResult_ports (l : Lane) (r : OpRule) (f : Fields) (v : Word) (ib : List Word) (vs : Nat) :
    OnlyResult f (withPorts r f) l.thread ((l.got r f false v).receiving ib vs) := by
  refine ⟨fun n hn => l.got_reg r f v hn, fun k _ => ?_, ?_⟩
  · rw [Lane.got_eq]; rfl
  · rw [Lane.got_eq]; rfl

/-! ### Raised sets (R132) -/

/-- A lane whose thread has a raised set in its sticky flags (R131, R132). -/
def Lane.raising (l : Lane) (x : Nat) : Lane :=
  { l with thread := { l.thread with fmode := l.thread.fmode ||| BitVec.ofNat 64 (16 * x) } }

/-- Bits 4 to 8 of fmode are all that a raised set sets (R131). -/
theorem Lane.raising_fmode (l : Lane) {x k : Nat} (hx : x < 32) (hk : k < 4 ∨ 9 ≤ k) :
    (l.raising x).thread.fmode.getLsbD k = l.thread.fmode.getLsbD k := by
  have hbit : (16 * x).testBit k = false := by
    rcases hk with hk | hk
    · rw [show 16 * x = x * 2 ^ 4 by omega, Nat.testBit_mul_two_pow]
      simp [Nat.not_le.2 hk]
    · refine Nat.testBit_lt_two_pow (lt_of_lt_of_le (b := 2 ^ 9) (by omega) (Nat.pow_le_pow_right (by omega) hk))
  simp [Lane.raising, BitVec.getLsbD_or, BitVec.getLsbD_ofNat, hbit]

theorem Lane.raising_onlyResult (l : Lane) {r : OpRule} {f : Fields} (v : Word) {x : Nat} (hx : x < 32)
    (hp : touchesPort r f = false) :
    OnlyResult f (fun t u => { t with fmode := u.fmode }) l.thread ((l.raising x).got r f false v) := by
  refine ⟨fun n hn => (l.raising x).got_reg r f v hn, fun k hk => ?_, ?_⟩
  · rw [Lane.got_eq]; exact l.raising_fmode hx hk
  · rw [Lane.got_eq, hp]; rfl

theorem Lane.raising_onlyResult_ports (l : Lane) (r : OpRule) (f : Fields) (v : Word) {x : Nat} (hx : x < 32)
    (ib : List Word) (vs : Nat) :
    OnlyResult f (fun t u => { withPorts r f t u with fmode := u.fmode }) l.thread
      (((l.raising x).got r f false v).receiving ib vs) := by
  refine ⟨fun n hn => (l.raising x).got_reg r f v hn, fun k hk => ?_, ?_⟩
  · rw [Lane.got_eq]; exact l.raising_fmode hx hk
  · rw [Lane.got_eq]; rfl

/-- With no flag enabled to trap, none does (R132). -/
theorem Thread.mathTraps_disabled {t : Thread} (h : t.fmode.toNat / 2 ^ 12 % 32 = 0) (x : Nat) :
    t.mathTraps x = false := by
  have : bitsAt t.fmode.toNat 12 5 = 0 := h
  simp [Thread.mathTraps, this]

/-- A lane whose raised set meets no enabled flag completes (R132). -/
theorem flagged_of_noTrap {k : State} {l : Lane} {x : Nat} (v : Word) (hh : k.thread? l.tid = some l.thread)
    (hm : l.thread.mathTraps x = false) : flagged k l v x = .value (k.putThread (l.raising x).thread) v := by
  simp only [flagged, hh, hm]
  rfl

/-- A flag-raising operation whose raised sets meet no enabled flag: each lane's record takes its flags and its
result. -/
theorem runs_flagged {i : Instr} {r : OpRule} {f : Fields} {v : Lane → Word} {x : Lane → Nat}
    (h : ∀ s, exec i s = issuePlain r f (fun s l => flagged s l (v l) (x l)) s) :
    Runs i r f false true (fun _ l => l.thread.mathTraps (x l) = false)
      (fun k l => k.putThread ((l.raising (x l)).got r f false (v l))) fun _ l => v l :=
  runs_of h fun g l ht hh hm => by
    have hh' : (g.all.putThread (l.raising (x l)).thread).thread? l.tid = some (l.raising (x l)).thread := by
      rw [ht]; exact State.thread?_putThread_same _ _
    have hput (u : Thread) (hu : u.tid = l.thread.tid) :
        (g.all.putThread (l.raising (x l)).thread).putThread u = g.all.putThread u :=
      State.putThread_putThread _ hu.symm
    rw [lane_value (flagged_of_noTrap (v l) hh hm) hh' ht.symm, hput]
    · rfl
    · exact (l.raising (x l)).got_tid r f (v l)

/-- A result whose raised set holds flags of R132 alone. -/
def Raised {α : Type} (x : α × Nat) : Prop := x.2 < 32

namespace Raised

variable {α : Type}

theorem of_flags {x : Nat} (p : α) (hx : x < 32) : Raised (p, x) := hx

theorem none (p : α) : Raised (p, 0) := of_flags p (by decide)

theorem ite {c : Prop} [Decidable c] {a b : α × Nat} (ha : Raised a) (hb : Raised b) : Raised (if c then a else b) := by
  split_ifs <;> assumption

/-- The set that raises a flag under a condition. -/
theorem flag_lt (c : Prop) [Decidable c] {x : Nat} (hx : x < 32) : (if c then x else 0) < 32 := by
  split_ifs
  · exact hx
  · decide

theorem xNV_lt : xNV < 32 := by decide

theorem nan (f : FFmt) {x : Nat} (hx : x < 32) : Raised (f.nanRes x) := hx

theorem invalid (f : FFmt) : Raised (f.nanRes xNV) := nan f xNV_lt

theorem sigX_lt (l : List FVal) : sigX l < 32 := flag_lt _ xNV_lt

/-- A NaN with NV under a condition. -/
theorem nanIf (f : FFmt) (c : Prop) [Decidable c] : Raised (f.nanRes (if c then xNV else 0)) := nan f (flag_lt c xNV_lt)

theorem round (f : FFmt) (mode : RMode) (neg : Bool) (m : Nat) (e : Int) : Raised (f.round mode neg m e) := by
  refine ite (of_flags _ (by decide)) (of_flags _ ?_)
  split_ifs <;> decide

theorem roundDy (f : FFmt) (mode : RMode) (zneg : Bool) (x : Dy) : Raised (f.roundDy mode zneg x) :=
  ite (none _) (round ..)

theorem add (f : FFmt) (mode : RMode) (a b : FVal) : Raised (f.add mode a b) :=
  ite (nan f (sigX_lt _)) (ite (ite (none _) (invalid f)) (ite (none _) (ite (none _) (roundDy ..))))

theorem sub (f : FFmt) (mode : RMode) (a b : FVal) : Raised (f.sub mode a b) := add ..

theorem mul (f : FFmt) (mode : RMode) (a b : FVal) : Raised (f.mul mode a b) :=
  ite (nan f (sigX_lt _)) (ite (invalid f) (ite (none _) (roundDy ..)))

theorem fma (f : FFmt) (mode : RMode) (a b c : FVal) : Raised (f.fma mode a b c) :=
  ite (invalid f) (ite (invalid f) (ite (nan f (by decide))
    (ite (ite (invalid f) (none _)) (ite (none _) (roundDy ..)))))

theorem div (f : FFmt) (mode : RMode) : ∀ a b : FVal, Raised (f.div mode a b)
  | .nan _, _ => nan f (sigX_lt _)
  | .inf _, .nan _ => nan f (sigX_lt _)
  | .fin _ _ _, .nan _ => nan f (sigX_lt _)
  | .inf _, .inf _ => invalid f
  | .inf _, .fin _ _ _ => none _
  | .fin _ _ _, .inf _ => none _
  | .fin _ _ _, .fin _ _ _ => ite (ite (invalid f) (of_flags _ (by decide))) (ite (none _) (round ..))

theorem sqrt (f : FFmt) (mode : RMode) : ∀ a : FVal, Raised (f.sqrt mode a)
  | .nan _ => nanIf ..
  | .inf _ => ite (invalid f) (none _)
  | .fin _ _ _ => ite (none _) (ite (invalid f) (round ..))

theorem convert (f : FFmt) (mode : RMode) : ∀ a : FVal, Raised (f.convert mode a)
  | .nan _ => nanIf ..
  | .inf _ => none _
  | .fin _ _ _ => ite (none _) (round ..)

theorem integral (f : FFmt) (mode : RMode) : ∀ a : FVal, Raised (f.integral mode a)
  | .nan _ => nanIf ..
  | .inf _ => none _
  | .fin _ _ _ => ite (none _) (none _)

theorem toInteger (mode : RMode) (lo hi : Int) : ∀ a : FVal, Raised (toInteger mode lo hi a)
  | .nan _ => of_flags _ xNV_lt
  | .inf _ => of_flags _ xNV_lt
  | .fin _ _ _ => ite (of_flags _ xNV_lt) (ite (of_flags _ xNV_lt) (of_flags _ (flag_lt _ (by decide))))

theorem minMax (fm : FFmt) (least : Bool) (a b : Word) : Raised (minMax fm least a b) := of_flags _ (sigX_lt _)

/-- The raised set of FCMP (R135). -/
theorem fcmp (p : α) (a b : Prop) [Decidable a] [Decidable b] :
    Raised (p, if a then 0 else if b then xNV else 0) := by
  refine of_flags p ?_
  split_ifs <;> decide

/-- FRCP of R142. -/
theorem rcp (v : Nat) : Raised (rcp v) := by
  unfold Machine.rcp
  split
  · exact nanIf ..
  · exact none _
  · refine ite (of_flags _ (by decide)) (ite (of_flags _ (by decide)) ?_)
    split <;> exact none _

/-- FRSQ of R142. -/
theorem rsq (v : Nat) : Raised (rsq v) := by
  unfold Machine.rsq
  split
  · exact nanIf ..
  · exact ite (invalid _) (none _)
  · refine ite (of_flags _ (by decide)) (ite (invalid _) ?_)
    split <;> exact none _

/-- FEXP2 of R142. -/
theorem exp2 (v : Nat) : Raised (exp2 v) := by
  unfold Machine.exp2
  split
  · exact nanIf ..
  · exact none _
  · refine ite (of_flags _ (by decide)) ?_
    dsimp only
    split
    · exact none _
    · exact ite (none _) (none _)

/-- FLOG2 of R142. -/
theorem log2 (v : Nat) : Raised (log2 v) := by
  unfold Machine.log2
  split
  · exact nanIf ..
  · exact ite (invalid _) (none _)
  · exact ite (of_flags _ (by decide)) (ite (invalid _) (ite (none _) (ite (none _) (none _))))

/-- FSIN and FCOS of R142. -/
theorem trig (fn : Config.Approx) (zero : Bool → Nat) (v : Nat) : Raised (trig fn zero v) := by
  unfold Machine.trig
  split
  · exact nanIf ..
  · exact invalid _
  · exact ite (none _) (none _)

/-- PDOTF of R150. -/
theorem dotFloat (code a b c : Nat) : Raised (dotFloat code a b c) := by
  refine ite (nanIf ..) (ite (invalid _) ?_)
  split
  · exact none _
  · exact ite (none _) (roundDy ..)

/-- PSCL of R151. -/
theorem scaleInt (mode : RMode) (i : Int) : ∀ sc : FVal, Raised (scaleInt mode i sc)
  | .nan _ => nanIf ..
  | .inf _ => ite (invalid _) (none _)
  | .fin _ _ _ => roundDy ..

end Raised

/-! ### The instructions -/

/-- An instruction that computes its result from the operands alone (R98, R130, R144). -/
def ComputesResult (e : Instr × OpRule) (f : Fields) : Prop := ∃ v : Lane → Word, ∀ s, exec e.1 s = issueValue e.2 f v s

/-- An instruction that computes its result and a set of flags of R132 from the operands alone. -/
def RaisesFlags (e : Instr × OpRule) (f : Fields) : Prop :=
  ∃ (v : Lane → Word) (x : Lane → Nat), (∀ l, x l < 32) ∧
    ∀ s, exec e.1 s = issuePlain e.2 f (fun s l => flagged s l (v l) (x l)) s

theorem RaisesFlags.of_float {i : Instr} {r : OpRule} {f : Fields} {op : Lane → FRes}
    (h : ∀ s, exec i s = issueFloat r f op s) (hop : ∀ l, Raised (op l)) : RaisesFlags (i, r) f := ⟨_, _, hop, h⟩

end Sys2Proof.Machine

namespace Sys2Proof.Claims

open Sys2Proof.Machine

theorem computes_integerResults (f : Fields) : ∀ e ∈ integerResults f, ComputesResult e f := by
  intro e he
  simp only [integerResults] at he
  fin_cases he <;> exact ⟨_, fun _ => rfl⟩

theorem computes_bitResults (f : Fields) : ∀ e ∈ bitResults f, ComputesResult e f := by
  intro e he
  simp only [bitResults] at he
  fin_cases he <;> exact ⟨_, fun _ => rfl⟩

theorem computes_packedResults (f : Fields) : ∀ e ∈ packedResults f, ComputesResult e f := by
  intro e he
  simp only [packedResults] at he
  fin_cases he <;> exact ⟨_, fun _ => rfl⟩

theorem flags_flaggedArithmetic (f : Fields) : ∀ e ∈ flaggedArithmetic f, RaisesFlags e f := by
  simp only [flaggedArithmetic, List.forall_mem_cons]
  exact ⟨
    .of_float (fun _ => rfl) fun _ => .add .., .of_float (fun _ => rfl) fun _ => .add ..,
    .of_float (fun _ => rfl) fun _ => .sub .., .of_float (fun _ => rfl) fun _ => .sub ..,
    .of_float (fun _ => rfl) fun _ => .mul .., .of_float (fun _ => rfl) fun _ => .mul ..,
    .of_float (fun _ => rfl) fun _ => .div .., .of_float (fun _ => rfl) fun _ => .div ..,
    .of_float (fun _ => rfl) fun _ => .fma .., .of_float (fun _ => rfl) fun _ => .fma ..,
    .of_float (fun _ => rfl) fun _ => .sqrt .., .of_float (fun _ => rfl) fun _ => .sqrt ..,
    .of_float (fun _ => rfl) fun _ => .integral .., .of_float (fun _ => rfl) fun _ => .integral ..,
    .of_float (fun _ => rfl) fun _ => .minMax .., .of_float (fun _ => rfl) fun _ => .minMax ..,
    .of_float (fun _ => rfl) fun _ => .minMax .., .of_float (fun _ => rfl) fun _ => .minMax ..,
    .of_float (fun _ => rfl) fun _ => .fcmp .., .of_float (fun _ => rfl) fun _ => .fcmp ..,
    List.forall_mem_nil _⟩

theorem flags_flaggedOthers (f : Fields) : ∀ e ∈ flaggedOthers f, RaisesFlags e f := by
  simp only [flaggedOthers, List.forall_mem_cons]
  exact ⟨
    .of_float (fun _ => rfl) fun _ => .convert .., .of_float (fun _ => rfl) fun _ => .convert ..,
    .of_float (fun _ => rfl) fun _ => .convert .., .of_float (fun _ => rfl) fun _ => .convert ..,
    ⟨_, _, fun _ => Raised.toInteger .., fun _ => rfl⟩, ⟨_, _, fun _ => Raised.toInteger .., fun _ => rfl⟩,
    ⟨_, _, fun _ => Raised.toInteger .., fun _ => rfl⟩, ⟨_, _, fun _ => Raised.toInteger .., fun _ => rfl⟩,
    .of_float (fun _ => rfl) fun _ => .roundDy .., .of_float (fun _ => rfl) fun _ => .roundDy ..,
    .of_float (fun _ => rfl) fun _ => .roundDy .., .of_float (fun _ => rfl) fun _ => .roundDy ..,
    .of_float (fun _ => rfl) fun _ => .rcp _, .of_float (fun _ => rfl) fun _ => .rsq _,
    .of_float (fun _ => rfl) fun _ => .exp2 _, .of_float (fun _ => rfl) fun _ => .log2 _,
    .of_float (fun _ => rfl) fun _ => .trig .., .of_float (fun _ => rfl) fun _ => .trig ..,
    .of_float (fun _ => rfl) fun _ => .dotFloat .., .of_float (fun _ => rfl) fun _ => .dotFloat ..,
    .of_float (fun _ => rfl) fun _ => .dotFloat .., .of_float (fun _ => rfl) fun _ => .scaleInt ..,
    List.forall_mem_nil _⟩

end Sys2Proof.Claims

namespace Sys2Proof.Claims.ResultsChangeNothingElse

open Sys2Proof.Machine

/-- Everything that a result leaves, whatever the form: memory, the vaults, contexts, firmware registers, accesses in
flight, and every thread that is none of the group's. -/
def Kept (s : State) (ls : List (Nat × Thread)) (t : State) : Prop :=
  (∀ a, t.byteAt a = s.byteAt a) ∧ (∀ a, t.vaultByte a = s.vaultByte a) ∧ t.fw = s.fw ∧ t.contexts = s.contexts ∧
  t.pend = s.pend ∧ t.stores = s.stores ∧ ∀ n, (∀ p ∈ ls, p.2.tid ≠ n) → t.thread? n = s.thread? n

/-- Everything that a result leaves besides in a form without queue ports. -/
def Whole (s t : State) : Prop :=
  t.bolts = s.bolts ∧ t.queues = s.queues ∧ t.wcores = s.wcores ∧ t.lcores = s.lcores ∧
  t = { s.bump with threads := t.threads }

/-- What a result leaves of the records of the group's threads. -/
def Lanes (f : Fields) (ls : List (Nat × Thread)) (t : State) (g : Thread → Thread → Thread) : Prop :=
  ∀ p ∈ ls, ∃ u, t.thread? p.2.tid = some u ∧ OnlyResult f g p.2 u

section

variable {i : Instr} {r : OpRule} {f : Fields} {need : Lane → Prop} {h : Lane → Thread} {v : Lane → Word} {s : State}
  {ls : List (Nat × Thread)} {g : Thread → Thread → Thread}

theorem kept_of_steady {t : State} (hs : Steady s t) (ho : ∀ n, (∀ p ∈ ls, p.2.tid ≠ n) → t.thread? n = s.thread? n) :
    Kept s ls t := ⟨hs.byteAt, hs.vaultByte, hs.fw, hs.contexts, hs.pend, hs.stores, ho⟩

theorem whole_of_eq {t : State} (ht : t = { s.bump with threads := t.threads }) : Whole s t :=
  ⟨(congrArg State.bolts ht :), (congrArg State.queues ht :), (congrArg State.wcores ht :),
    (congrArg State.lcores ht :), ht⟩

/-- An instruction that changes its lanes' own records, by a result alone, in a form without queue ports. -/
theorem of_ready (hr : Runs i r f false true (fun _ l => need l) (fun k l => k.putThread (h l)) fun _ l => v l)
    (htid : ∀ l, (h l).tid = l.thread.tid) (hneed : ∀ p ∈ ls, ∀ pops, need (readLane r f p.1 p.2 pops))
    (hrec : ∀ l, touchesPort r f = false → OnlyResult f g l.thread (h l)) (hp : Ready s r f false ls) :
    ∃ t, exec i s = .next t ∧ Kept s ls t ∧ Whole s t ∧ Lanes f ls t g := by
  obtain ⟨t, he, hs, ho, ht, hl⟩ := hp.exec_own hr htid hneed
  exact ⟨t, he, kept_of_steady hs ho, whole_of_eq ht, fun p hm => ⟨_, hl p hm, hrec _ hp.ports⟩⟩

/-- An instruction that changes its lanes' own records, by a result alone, in any form. -/
theorem of_portsReady (hr : Runs i r f false true (fun _ l => need l) (fun k l => k.putThread (h l)) fun _ l => v l)
    (htid : ∀ l, (h l).tid = l.thread.tid) (hneed : ∀ p ∈ ls, ∀ pops, need (readLane r f p.1 p.2 pops))
    (hrec : ∀ l ib vs, OnlyResult f g l.thread ((h l).receiving ib vs)) (hp : PortsReady s r f false true ls) :
    ∃ t, exec i s = .next t ∧ Kept s ls t ∧ Lanes f ls t g := by
  obtain ⟨hs, ho, hl⟩ := hp.group.after_putThread (r := r) (f := f) (h := h) (v := v) htid
  refine ⟨_, hr.exec_own htid hp hneed, kept_of_steady hs ho, fun p hm => ?_⟩
  obtain ⟨pops, ib, vs, hu⟩ := hl p hm
  exact ⟨_, hu, hrec (readLane r f p.1 p.2 pops) ib vs⟩

end

/-- An instruction that computes its result from the operands alone (R98, R144). -/
theorem of_computes {e : Instr × OpRule} {f : Fields} (he : ComputesResult e f) (s : State) (ls : List (Nat × Thread)) :
    (Ready s e.2 f false ls → ∃ t, exec e.1 s = .next t ∧ Kept s ls t ∧ Whole s t ∧ Lanes f ls t fun t _ => t) ∧
    (PortsReady s e.2 f false true ls → ∃ t, exec e.1 s = .next t ∧ Kept s ls t ∧ Lanes f ls t (withPorts e.2 f)) := by
  obtain ⟨v, hv⟩ := he
  have hr := (yields_of_issueValue hv fun _ => rfl).2
  have htid (l : Lane) := l.got_tid e.2 f (v l)
  exact ⟨of_ready (need := fun _ => True) hr htid (fun _ _ _ => trivial) fun l => l.got_onlyResult (v l),
    of_portsReady (need := fun _ => True) hr htid (fun _ _ _ => trivial) fun l => l.got_onlyResult_ports e.2 f (v l)⟩

/-- An instruction that raises floating-point flags, where no flag is to trap (R130 to R132). -/
theorem of_flags {e : Instr × OpRule} {f : Fields} (he : RaisesFlags e f) (s : State) (ls : List (Nat × Thread))
    (hm : ∀ p ∈ ls, p.2.fmode.toNat / 2 ^ 12 % 32 = 0) :
    (Ready s e.2 f false ls → ∃ t, exec e.1 s = .next t ∧ Kept s ls t ∧ Whole s t ∧
      Lanes f ls t fun t u => { t with fmode := u.fmode }) ∧
    (PortsReady s e.2 f false true ls → ∃ t, exec e.1 s = .next t ∧ Kept s ls t ∧
      Lanes f ls t fun t u => { withPorts e.2 f t u with fmode := u.fmode }) := by
  obtain ⟨v, x, hx, hv⟩ := he
  have hr := runs_flagged hv
  have htid (l : Lane) := (l.raising (x l)).got_tid e.2 f (v l)
  have hneed : ∀ p ∈ ls, ∀ pops,
      (readLane e.2 f p.1 p.2 pops).thread.mathTraps (x (readLane e.2 f p.1 p.2 pops)) = false :=
    fun p hp _ => Thread.mathTraps_disabled (hm p hp) _
  exact ⟨of_ready hr htid hneed fun l => l.raising_onlyResult (v l) (hx l),
    of_portsReady hr htid hneed fun l => l.raising_onlyResult_ports e.2 f (v l) (hx l)⟩

end Sys2Proof.Claims.ResultsChangeNothingElse

open Sys2Proof.Machine Sys2Proof.Claims

/-- Settles O7: every result instruction is an issue whose lanes change their own records alone, of which a result takes
rd, pc, rgn at a port, and the sticky flags; the words of a group's queues touch no thread but its own lanes', and no
memory. -/
theorem resultsChangeNothingElse : Obligations.ResultsChangeNothingElse := by
  intro f s ls kept whole lane ports
  refine ⟨fun e he => ?_, fun e he hm => ?_⟩
  · have hc : ComputesResult e f := by
      rcases List.mem_append.1 he with he | he
      · rcases List.mem_append.1 he with he | he
        · exact computes_integerResults f e he
        · exact computes_bitResults f e he
      · exact computes_packedResults f e he
    exact ResultsChangeNothingElse.of_computes hc s ls
  · have hc : RaisesFlags e f := by
      rcases List.mem_append.1 he with he | he
      · exact flags_flaggedArithmetic f e he
      · exact flags_flaggedOthers f e he
    exact ResultsChangeNothingElse.of_flags hc s ls hm

end

section
/-! SUPPORT. Taking a trap (R168, R169, R382 to R388): on a latency core the trap registers and the handler, in a weft
the fault park and its report. -/

namespace Sys2Proof.Machine

open Sys2Proof.Claims

theorem trapCause_eq (c : Cause) (l : Level) (adr : Bool) :
    trapCause c l adr = BitVec.ofNat 64 (c.code + 2 ^ 8 * l.code + if adr then 2 ^ 10 else 0) := by
  rw [trapCause, Nat.mul_comm l.code]
  rfl

/-- A handler's thread is the thread with its trap registers set, at the handler's level and address. -/
theorem handled_eq (s : State) (t : Thread) (tr : Trap) (trappc : Word) (firmware : Bool) :
    handled s t tr trappc firmware = { t.trapRegs tr trappc with
      plvl := if firmware then .firmware else .supervisor
      pc := if firmware then s.fw.fvec else s.fw.svec } := by
  rw [Thread.trapRegs, trapCause_eq]
  rfl

theorem faultParked_eq (t : Thread) (tr : Trap) (trappc entry : Word) :
    faultParked t tr trappc entry = { t.trapRegs tr trappc with sub := .faultParked, pc := entry, rgn := entry } := by
  rw [Thread.trapRegs, trapCause_eq]
  rfl

theorem reportOf_eq (s : State) (core slot lane : Nat) (t : Thread) (tr : Trap) (trappc : Word) :
    reportOf s core slot lane t tr trappc =
      ⟨reportWord s core slot lane t.tid tr.cause.code, tr.val, trappc, false⟩ := by
  simp only [reportOf, reportWord, Report.mk.injEq, and_true]
  congr 1
  ring

theorem parkFault_eq (s : State) (core slot lane : Nat) (t : Thread) (tr : Trap) (trappc entry : Word) :
    parkFault s core slot lane t tr trappc entry = (s.putThread (faultParked t tr trappc entry)).putW core
      { s.wcore core with reports := (s.wcore core).reports ++ [reportOf s core slot lane t tr trappc] } := by
  rw [parkFault, faultParked_eq, reportOf_eq]

/-! ### Entry to a handler of a latency core (R385) -/

section

variable (s : State) (core : Nat) {t : Thread} (tr : Trap) (trappc : Word)

theorem enterHandler_supervisor (hc : tr.cause ≠ .mchk) (hl : t.plvl = .user) :
    enterHandler s core t tr trappc = s.putThread (handled s t tr trappc false) := by
  have hp : (t.trapRegs tr trappc).plvl = .user := hl
  simp [enterHandler, enterVector, hp, hc, handled_eq]

theorem enterHandler_firmware (h : tr.cause = .mchk ∨ t.plvl ≠ .user)
    (hb : ¬ (t.plvl = .firmware ∧ (s.lcore core).busy = true)) :
    enterHandler s core t tr trappc =
      (s.putThread (handled s t tr trappc true)).putL core { s.lcore core with busy := true } := by
  have hp : (t.trapRegs tr trappc).plvl = t.plvl := rfl
  rw [enterHandler, enterVector, hp, if_neg hb, if_pos (by simpa using h), handled_eq]
  rfl

theorem enterHandler_halts (hl : t.plvl = .firmware) (hb : (s.lcore core).busy = true) :
    enterHandler s core t tr trappc = ((s.putThread { handled s t tr trappc true with plvl := t.plvl, pc := t.pc }).putL
      core { s.lcore core with halted := true }).logMck := by
  have hp : (t.trapRegs tr trappc).plvl = t.plvl := rfl
  rw [enterHandler, enterVector, hp, if_pos ⟨hl, hb⟩, handled_eq]
  rfl

end

/-! ### Where a trap is taken -/

section

variable {s : State} {t : Thread} (f : Fields) (tr : Trap) (irrev next : Bool)

/-- A trap on a latency core, except the NEEDW of a thread that migrates instead (R176). -/
theorem takeTrap_latency {c : Nat} (h : s.thread? t.tid = some t) (hl : t.loc = .latency c)
    (hn : ¬ (tr.cause = .needw ∧ t.nw = true)) :
    takeTrap s t.tid f tr irrev next =
      let trappc := if next then nextPc f t.pc else t.pc
      enterHandler s c (if next ∨ tr.cause = .sysc then { t with rgn := trappc } else t) tr trappc := by
  simp only [takeTrap, h, hl, if_neg hn, Bool.or_eq_true, beq_iff_eq]

theorem takeTrap_member {c slot lane : Nat} (h : s.thread? t.tid = some t) (hl : t.loc = .member c slot lane)
    (hc : tr.cause ≠ .sysc) :
    takeTrap s t.tid f tr irrev next =
      let trappc := if next then nextPc f t.pc else t.pc
      parkFault s c slot lane t tr trappc
        (if next then trappc else if irrev ∨ tr.cause = .mchk then t.pc else t.rgn) := by
  simp only [takeTrap, h, hl, if_neg hc, Bool.or_eq_true, beq_iff_eq]

/-- A call of the system by a lane of a weft (R169). -/
theorem takeTrap_member_sysc {c slot lane : Nat} (h : s.thread? t.tid = some t) (hl : t.loc = .member c slot lane)
    (hc : tr.cause = .sysc) :
    takeTrap s t.tid f tr irrev next =
      let trappc := if next then nextPc f t.pc else t.pc
      s.putThread { parkExtract { t with pc := trappc, rgn := trappc } (.latency none) .active with
        xr := true, entry := some (14, tr.val) } := by
  simp only [takeTrap, h, hl, if_pos hc]

end

end Sys2Proof.Machine

open Sys2Proof Sys2Proof.Machine Sys2Proof.Claims

theorem Sys2Proof.Claims.trapEntryOnLatencyCore : TrapEntryOnLatencyCore := by
  refine ⟨by decide, fun s t c f tr irrev next hs hl hn => ?_⟩
  have he := takeTrap_latency f tr irrev next hs hl hn
  intro trappc t1
  have hp : t1.plvl = t.plvl := by unfold t1; split_ifs <;> rfl
  have hpc : t1.pc = t.pc := by unfold t1; split_ifs <;> rfl
  change takeTrap s t.tid f tr irrev next = enterHandler s c t1 tr trappc at he
  rw [he, ← hp, ← hpc]
  exact ⟨enterHandler_supervisor s c tr _, enterHandler_firmware s c tr _, enterHandler_halts s c tr _⟩

theorem Sys2Proof.Claims.trapEntryOnWeftCore : TrapEntryOnWeftCore := by
  intro s t c slot lane f tr irrev next hs hl trappc entry
  refine ⟨fun hc => ?_, fun hc => takeTrap_member_sysc f tr irrev next hs hl hc⟩
  rw [takeTrap_member f tr irrev next hs hl hc, ← parkFault_eq]

/-- Settles O18: each kind of core has one equation for the trap that it takes, and one for each handler. -/
theorem trapEntry : Obligations.TrapEntry := ⟨trapEntryOnLatencyCore, trapEntryOnWeftCore⟩

end

section
/-! SUPPORT. Migration (R34, R172, R173, R393, R397): what MIG does to one lane, by its destination, and what leaving a
latency core keeps of a thread. -/

namespace Sys2Proof.Machine

/-! ### Leaving a latency core (R172) -/

@[simp] theorem State.bumpRel_threads (s : State) (c : Nat) : (s.bumpRel c).threads = s.threads := by
  unfold State.bumpRel; split <;> rfl

@[simp] theorem State.bumpRel_fw (s : State) (c : Nat) : (s.bumpRel c).fw = s.fw := by
  unfold State.bumpRel; split <;> rfl

@[simp] theorem State.mergeAgent_threads (s : State) (c : Nat) : (s.mergeAgent c).threads = s.threads := rfl

@[simp] theorem State.mergeAgent_fw (s : State) (c : Nat) : (s.mergeAgent c).fw = s.fw := rfl

/-- A thread that leaves its core gives up its monitor and a wait for it, and nothing else (R260). -/
theorem Thread.dropMonitor_eq (t : Thread) :
    t.dropMonitor = { t with monitor := t.dropMonitor.monitor, sub := t.dropMonitor.sub, wait := t.dropMonitor.wait } := by
  unfold Thread.dropMonitor
  dsimp only
  split_ifs <;> rfl

@[simp] theorem Thread.dropMonitor_tid (t : Thread) : t.dropMonitor.tid = t.tid := by rw [t.dropMonitor_eq]

theorem departLatency_thread (s : State) (c : Nat) (t : Thread) (d : Dest) :
    (departLatency s c t d).thread? t.tid = some { t.dropMonitor with loc := .transit d, xr := false } := by
  have h := State.thread?_putThread_same ((s.bumpRel c).mergeAgent c)
    { t.dropMonitor with loc := .transit d, xr := false }
  rwa [t.dropMonitor_tid] at h

theorem departLatency_cur (s : State) (c : Nat) (t : Thread) (d : Dest) :
    ((departLatency s c t d).lcore c).cur = none := by simp [departLatency]

@[simp] theorem departLatency_fw (s : State) (c : Nat) (t : Thread) (d : Dest) : (departLatency s c t d).fw = s.fw := by
  simp [departLatency]

theorem moveThread_latency {s : State} {t : Thread} {c : Nat} (h : s.thread? t.tid = some t) (hl : t.loc = .latency c)
    (f : Fields) (d : Dest) : moveThread s t.tid f d = departLatency s c (t.past f true) d := by
  simp only [moveThread, h]
  split
  · next e => cases hl.symm.trans e; rfl
  · next e => cases hl.symm.trans e
  · next e _ => exact absurd hl (e _)

theorem moveThread_member {s : State} {t : Thread} {c slot lane : Nat} (h : s.thread? t.tid = some t)
    (hl : t.loc = .member c slot lane) (f : Fields) (d : Dest) :
    moveThread s t.tid f d =
      s.putThread { t.past f true with sub := .extractParked, leave := some d, asSub := .active, xr := false } := by
  simp only [moveThread, h]
  split
  · next e => cases hl.symm.trans e
  · rfl
  · next e => exact absurd hl (e _ _ _)

/-! ### MIG for one lane -/

/-- Whether a lane that leaves for a destination may go: its accesses are performed, and on a latency core its loads
are delivered (R34, R172). -/
def mayLeave (s : State) (l : Lane) : Prop :=
  s.performed l.tid = true ∧ (l.thread.onLatency = true → s.loadsDone l.tid = true)

section

variable {f : Fields} {dst : State → Lane → Except Trap (Option Dest)} {s : State} {l : Lane} {d : Dest}

theorem migBody_stays (h : dst s l = .ok none) (hh : s.thread? l.tid = some l.thread) :
    migBody f dst s l = .done (s.putThread { l.thread with xr := false }) := by
  simp only [migBody, h, State.modThread_of s hh]

theorem migBody_leaves (h : dst s l = .ok (some d)) (hl : l.thread.lost = none) (hp : mayLeave s l) :
    migBody f dst s l = .placed (moveThread s l.tid f d) := by
  obtain ⟨h1, h2⟩ := hp
  have hw : (!s.performed l.tid || (l.thread.onLatency && !s.loadsDone l.tid)) = false := by simpa [h1] using h2
  simp [migBody, h, lostStore, lostTrap, hl, hw]

theorem migBody_lost {v : Word} (h : dst s l = .ok (some d)) (hl : l.thread.lost = some v) :
    migBody f dst s l = .trap ⟨.mchk, v, true⟩ false := by
  simp [migBody, h, lostStore, lostTrap, hl]

theorem migBody_waits (h : dst s l = .ok (some d)) (hl : l.thread.lost = none)
    (hw : s.performed l.tid = false ∨ l.thread.onLatency = true ∧ s.loadsDone l.tid = false) :
    migBody f dst s l = .wait id := by
  have hw' : (!s.performed l.tid || (l.thread.onLatency && !s.loadsDone l.tid)) = true := by simpa using hw
  simp [migBody, h, lostStore, lostTrap, hl, hw']

end

/-- Every instruction whose meaning is MIG with some destination. -/
theorem migrates_of {i : Instr} {r : OpRule} {f : Fields} {dst : State → Lane → Except Trap (Option Dest)}
    {dest : State → Lane → Option Dest} {allowed : State → Lane → Prop}
    (hexec : ∀ s, exec i s = issue r f true (fun _ => none) false (migBody f dst) s) (hrd : r.rd ≠ .reg)
    (hd : ∀ s l, allowed s l → dst s l = .ok (dest s l)) :
    Runs i r f true false
      (fun s l => allowed s l ∧ ∀ d, dest s l = some d → l.thread.lost = none ∧ s.performed l.tid = true ∧
        (l.thread.onLatency = true → s.loadsDone l.tid = true))
      (fun k l => match dest k l with
        | none => k.putThread { l.thread.past f true with xr := false }
        | some d => moveThread k l.tid f d) (fun _ _ => 0) ∧
    (∀ s n t v, PortsReady s r f true false [(n, t)] → allowed s (s.laneOf r f [(n, t)] (n, t)) →
      dest s (s.laneOf r f [(n, t)] (n, t)) ≠ none → t.lost = some v → trapWaits s t.tid ⟨.mchk, v, true⟩ = false →
      exec i s = .next (s.unqueued r f [(n, t)] (takeTrap s t.tid f ⟨.mchk, v, true⟩ true false)).bump) ∧
    WaitsAlone i r f true false (fun s l => allowed s l ∧ l.thread.lost = none ∧ dest s l ≠ none ∧
      (s.performed l.tid = false ∨ l.thread.onLatency = true ∧ s.loadsDone l.tid = false)) := by
  refine ⟨runs_of hexec fun g l ht hh hn => ?_, fun s n t v hr ha hne hl hw => ?_,
    waits_alone_of hexec fun s l ht hh hy => ?_⟩
  · obtain ⟨ha, hgo⟩ := hn
    have hdst := hd g.all l ha
    cases he : dest g.all l with
    | none =>
      rw [he] at hdst
      have hh' : (g.all.putThread { l.thread with xr := false }).thread? l.tid = some { l.thread with xr := false } := by
        rw [ht]; exact State.thread?_putThread_same _ _
      rw [lane_done (migBody_stays hdst hh) hh' (rd_none_push hrd)
        (g.all.putThread { l.thread.past f true with xr := false }) 0, State.putThread_putThread _ (by rfl)]
      rfl
    | some d =>
      rw [he] at hdst
      obtain ⟨hl, hp⟩ := hgo d he
      exact lane_placed (migBody_leaves hdst hl hp) (rd_none_push hrd) _ 0
  · obtain ⟨d, he⟩ := Option.ne_none_iff_exists'.1 hne
    have hdst := hd _ _ ha
    rw [he] at hdst
    rw [hexec, issue_trap_alone hr _ rfl (migBody_lost hdst hl) hw, Bool.true_or]
  · obtain ⟨ha, hl, hne, hwait⟩ := hy
    obtain ⟨d, he⟩ := Option.ne_none_iff_exists'.1 hne
    have hdst := hd _ _ ha
    rw [he] at hdst
    exact migBody_waits hdst hl hwait

/-! ### The destination of MIG.c (R172) -/

/-- The cores that MIG.c may name: its own, a latency core, and the weft core of its bolt or, without one, any. -/
def migCAllows (s : State) (l : Lane) : Prop :=
  let c := l.a.toNat % 2 ^ 16
  c = s.cur.core ∨ (256 ≤ c ∧ c < 304) ∨ (c < 144 ∧ (l.thread.boltCore = none ∨ l.thread.boltCore = some c))

theorem migCDest_allowed {s : State} {l : Lane} (h : migCAllows s l) :
    migCDest s l = .ok (let c := l.a.toNat % 2 ^ 16
      if c = s.cur.core then none else if 256 ≤ c then some (.latency (some c)) else some (.weft c)) := by
  simp only [migCAllows, migCDest, Nat.reducePow] at h ⊢
  generalize l.a.toNat % 65536 = c at h ⊢
  by_cases h1 : c = s.cur.core
  · simp [h1]
  · rcases h.resolve_left h1 with ⟨h2, h3⟩ | ⟨h2, hb⟩
    · simp [h1, h2, h3, isLat]
    · have h3 : ¬ 256 ≤ c := by omega
      rcases hb with hb | hb <;> simp [h1, h2, h3, isLat, isWeft, hb]

theorem migCDest_prot {s : State} {l : Lane} (h : ¬ migCAllows s l) : migCDest s l = .error ⟨.prot, l.a, false⟩ := by
  simp only [migCAllows, migCDest, Nat.reducePow, not_or] at h ⊢
  generalize l.a.toNat % 65536 = c at h ⊢
  obtain ⟨h1, h2, h3⟩ := h
  have hlat : isLat c = false := by simpa [isLat] using h2
  by_cases hw : c < 144
  · have hb : (l.thread.boltCore.isSome && l.thread.boltCore != some c) = true := by
      cases hc : l.thread.boltCore <;> simp_all
    simp [h1, hlat, isWeft, hw, hb]
  · simp [h1, hlat, isWeft, hw]

end Sys2Proof.Machine

open Sys2Proof Sys2Proof.Machine Sys2Proof.Claims

/-- Settles O17: MIG is one body with a destination; the three instructions differ in how they find it. -/
theorem migration : Obligations.Migration := by
  refine ⟨fun f i r dest hi => ?_, fun s t f d hs => ⟨fun c hl => ?_, fun c slot lane hl =>
    moveThread_member hs hl f d⟩⟩
  · intro allowed
    rcases hi with ⟨rfl, rfl, rfl⟩ | ⟨rfl, rfl, rfl⟩ | ⟨rfl, rfl, rfl⟩
    · obtain ⟨h1, h2, h3⟩ := migrates_of (i := .migL f) (allowed := allowed) (fun _ => rfl) (by decide) fun _ _ _ => rfl
      exact ⟨h1, h2, h3, fun h => by cases h⟩
    · obtain ⟨h1, h2, h3⟩ := migrates_of (i := .migW f) (allowed := allowed) (fun _ => rfl) (by decide) fun _ _ _ => rfl
      exact ⟨h1, h2, h3, fun h => by cases h⟩
    · obtain ⟨h1, h2, h3⟩ := migrates_of (i := .migC f) (allowed := allowed) (fun _ => rfl) (by decide)
        fun s l ha => migCDest_allowed (ha rfl)
      refine ⟨h1, h2, h3, fun _ => traps_alone_of (fun _ => rfl) fun s l tr _ _ hy => ?_⟩
      obtain ⟨hc, rfl⟩ : ¬ migCAllows s l ∧ ⟨.prot, l.a, false⟩ = tr := by
        dsimp only at hy
        split_ifs at hy with hc
        exact ⟨hc, Option.some.inj hy⟩
      simp only [migBody, migCDest_prot hc]
  · rw [moveThread_latency hs hl]
    refine ⟨_, departLatency_thread s c (t.past f true) d, rfl, ?_⟩
    rw [(t.past f true).dropMonitor_eq]
    exact ⟨rfl, rfl, rfl, rfl, rfl, departLatency_cur .., departLatency_fw ..⟩

end

section
/-! SUPPORT. Why O15 fails: the statement takes each lane's thread to stand under its own number, but not that the weft
names its lanes by those numbers. -/

namespace Sys2Proof.Claims.RejoinWaitsForAll

open Sys2Proof.Machine

/-- The fields of REJOIN. -/
def fields : Fields := sForm 0 0 0

/-- A lane of a weft whose number is 2. -/
def lane : Thread := { Thread.fresh 2 0 0x4000 .user with loc := .member 0 0 0 }

/-- A weft that names its only lane by the number 1. -/
def weft : Weft :=
  { bolt := 0, widx := 0, lanes := (Vector.replicate 32 none).set 0 (some 1), ovr := 0, ocount := 0, stall := 0,
    stallPc := 0, spass := 0, wstate := .running, blocks := 7, held := true, next := 0, carry := 0, reclaimed := false,
    ready := 0, eligible := false, waitQ := [] }

/-- The lane's record stands under its own number and under the number that its weft has for it. -/
def start : State :=
  { State.reset with
    threads := [(1, lane), (2, lane)]
    wcores := [(0, { WCore.halted0 with slots := [(0, weft)] })]
    cur := .weft 0 0 0x4000 }

/-- The lane at its REJOIN. -/
def waiting : Thread := { lane with sub := .rejoin 4 }

theorem start_ready : Ready start rNone fields false [(0, lane)] where
  group := ⟨by decide, by decide, by decide, by decide⟩
  ports := by decide
  lane := fun p hp => by
    rw [List.mem_singleton] at hp
    subst hp
    exact ⟨by decide, by decide, by decide, by decide, by decide⟩

/-- The record under the lane's own number waits; its weft still finds it active under the other, and releases nothing. -/
theorem exec_start : ∃ t, exec (.rejoin fields) start = .next t ∧ t.thread? 2 = some waiting := ⟨_, rfl, by decide⟩

end Sys2Proof.Claims.RejoinWaitsForAll

open Sys2Proof Sys2Proof.Machine Sys2Proof.Claims

open Sys2Proof.Claims.RejoinWaitsForAll in
/-- Refutes O15: where a weft names its only lane by a number that is not the lane's own, REJOIN parks the record under
the lane's own number, the weft still finds an active lane, and the lane stays at its REJOIN though no other member is
left to wait for. -/
theorem not_yieldingWaitingAndRejoining : ¬ Obligations.YieldingWaitingAndRejoining := by
  intro h
  obtain ⟨-, hall⟩ := (h.2 fields).2 start [(0, lane)] 0 0 0x4000 weft [] rfl start_ready (by decide) rfl (by decide)
    (by decide) (by simp)
  obtain ⟨t, ht, hgo, -⟩ := hall (by simp)
  obtain ⟨t', ht', hw⟩ := exec_start
  cases ht.symm.trans ht'
  have hleft := (hgo waiting (.inr ⟨_, List.mem_cons_self, rfl⟩)).1 fun v hv => by
    rcases hv with hv | ⟨p, hp, rfl⟩
    · simp at hv
    · rw [List.mem_singleton] at hp
      exact le_of_eq (by rw [hp]; rfl)
  have : waiting = waiting.leaveRejoin := Option.some.inj (hw.symm.trans hleft)
  exact absurd (congrArg Thread.sub this) (by decide)

end

section
/-! SUPPORT. The checks that precede an instruction's own effect (R31, R57, R92, R384, R396), for a lane alone: an issue
whose lane traps early, one that is blocked, and one whose lane traps once nothing blocks it. -/

namespace Sys2Proof.Machine

/-! ### One lane that something stops -/

theorem claimsOf_nil (s : State) (r : OpRule) (f : Fields) : claimsOf s r f [] = [] := by
  rw [claimsOf, List.flatMap_eq_nil_iff]
  intro u _
  rfl

theorem pushesOf_nil (s : State) (r : OpRule) (f : Fields) : pushesOf s r f [] = [] := by
  unfold pushesOf
  split_ifs <;> rfl

section

variable {s : State} {r : OpRule} {f : Fields} {irrev : Bool} {pre : Thread → Option Trap} {carries : Bool} {body : Body}
  {n : Nat} {t : Thread} {tr : Trap}

/-- A lane alone that a check before its sources' words stops takes that trap and nothing else happens (R57, R384). -/
theorem issue_early (hg : LaneGroup s [(n, t)])
    (h : laneTrap s t r f (pre t) (dryClaims s r f pre [(n, t)]) = some tr) (hw : trapWaits s t.tid tr = false) :
    issue r f irrev pre carries body s =
      .next (takeTrap s t.tid f tr (irrev || touchesPort r f) false).bump := by
  have hearly : [(n, t)].filterMap (fun p => (laneTrap s p.2 r f (pre p.2)
      (dryClaims s r f pre [(n, t)])).map fun tr => (p.2, tr)) = [(t, tr)] := by simp [h]
  have hlanes : [(n, t)].filter (fun p => (laneTrap s p.2 r f (pre p.2) (dryClaims s r f pre [(n, t)])).isNone) = [] := by
    simp [h]
  have hblock : ∀ pc, groupBlocked s r f (irrev || touchesPort r f) [] [] pc = false := fun pc => by
    simp [groupBlocked, pushesOf_nil, claimQueues, pushesFit, baseUses]
  simp only [issue, hg.lanes, hearly, hlanes, List.map_nil, claimsOf_nil, pushesOf_nil, hblock]
  simp [hw, settlePops, popsOf, ranked, ranked.go, runLanesBody, Issuing.trap, Issuing.finish, baseUses, moveWords]

/-- What an issue comes to whose lane, alone, takes no trap of its own checks (R57). -/
theorem issue_unstopped (hg : LaneGroup s [(n, t)])
    (h : laneTrap s t r f (pre t) (dryClaims s r f pre [(n, t)]) = none) :
    issue r f irrev pre carries body s =
      let cs := s.groupClaims r f [(n, t)]
      let uses := baseUses cs (pushesOf s r f [(n, t)])
      let run := fun pops => runLanesBody r f (irrev || touchesPort r f) (lateTrap s r f carries) body pops
        ⟨s, s, [], [], false, none, []⟩ [(n, t)]
      let pops := s.groupPops r f [(n, t)]
      if groupBlocked s r f (irrev || touchesPort r f) [(n, t)] cs t.pc then
        .next (uses.foldl (fun s u => s.waitAt u.1 (s.cur.waiter t.pc u.2)) s).block
      else (run pops).finish pops uses (s.cur.waiter t.pc) := by
  have hearly : [(n, t)].filterMap (fun p => (laneTrap s p.2 r f (pre p.2)
      (dryClaims s r f pre [(n, t)])).map fun tr => (p.2, tr)) = [] := by simp [h]
  have hlanes : [(n, t)].filter (fun p => (laneTrap s p.2 r f (pre p.2) (dryClaims s r f pre [(n, t)])).isNone) =
      [(n, t)] := by simp [h]
  have hcs : claimsOf s r f ([(n, t)].map fun p => (p.1, p.2.tid)) = s.groupClaims r f [(n, t)] := rfl
  simp only [issue, hg.lanes, hearly, hlanes, hcs, takeTraps, List.any_nil, Bool.false_eq_true, if_false, List.find?_nil,
    List.head?_cons, Option.map_some, Option.getD_some]
  rw [settlePops_alone _ (fun c hc => by simpa using groupClaims_mem hc)]
  rfl

/-- A lane alone that takes its trap once nothing blocks it (R384). -/
theorem issue_late (hg : LaneGroup s [(n, t)])
    (h : laneTrap s t r f (pre t) (dryClaims s r f pre [(n, t)]) = none)
    (hb : groupBlocked s r f (irrev || touchesPort r f) [(n, t)] (s.groupClaims r f [(n, t)]) t.pc = false)
    (hl : lateTrap s r f carries t (s.lanePops r f [(n, t)] t.tid) = some tr) (hw : trapWaits s t.tid tr = false) :
    issue r f irrev pre carries body s =
      .next (s.unqueued r f [(n, t)] (takeTrap s t.tid f tr (irrev || touchesPort r f) false)).bump := by
  have hl' : lateTrap s r f carries t (((s.groupPops r f [(n, t)]).filter fun p => p.1 == t.tid).map (·.2)) = some tr := hl
  rw [issue_unstopped hg h]
  simp [hb, runLanesBody, hl', Issuing.trap, hw, Issuing.finish, moveWords, State.unqueued]

end

/-! ### Forms without queue ports -/

/-- An instruction whose meaning is an issue that is not irrevocable by its kind and has no check of its own. -/
def IssuesPlainly (i : Instr) (r : OpRule) (f : Fields) : Prop :=
  ∃ carries body, ∀ s, exec i s = issue r f false (fun _ => none) carries body s

section

variable {s : State} {r : OpRule} {f : Fields} {n : Nat} {t : Thread} {i : Instr} (hp : touchesPort r f = false)

include hp

theorem ports_nil : (usesOf r f).filter Use.isPort = [] := by
  rw [List.filter_eq_nil_iff]
  intro u hu
  simp [(usesOf_noPort hp).2 u hu]

theorem dryClaims_noPort (s : State) (pre : Thread → Option Trap) (ls : List (Nat × Thread)) :
    dryClaims s r f pre ls = [] := by
  rw [dryClaims, openClaims, ports_nil hp]
  rfl

theorem groupClaims_noPort (s : State) (ls : List (Nat × Thread)) : s.groupClaims r f ls = [] := by
  rw [State.groupClaims, claimsOf, ports_nil hp]
  rfl

/-- Without ports the source fields' checks are those of their e bits (R57). -/
theorem useTrap_noPort {u : Use} (hu : u ∈ usesOf r f) :
    useTrap s t [] u = if u.e && u.regs.any fun n => !(t.reg n).full then some (Trap.plain .empty u.field) else none := by
  rw [useTrap, fieldTrap, (usesOf_noPort hp).2 u hu, if_neg Bool.false_ne_true]
  split <;> simp_all

theorem groupBlocked_noPort (s : State) (t : Thread) (pc : Word) :
    groupBlocked s r f false [(n, t)] [] pc = regsBlock t r f := by
  simp [groupBlocked, pushesOf, (usesOf_noPort hp).1, claimQueues, pushesFit, baseUses]

/-- A check of a lane alone that fails is the only effect. -/
theorem exec_early (hi : IssuesPlainly i r f) (hg : LaneGroup s [(n, t)]) {tr : Trap}
    (h : laneTrap s t r f none [] = some tr) (hw : trapWaits s t.tid tr = false) :
    exec i s = .next (takeTrap s t.tid f tr false false).bump := by
  obtain ⟨carries, body, hexec⟩ := hi
  rw [hexec, issue_early hg (by rw [dryClaims_noPort hp]; exact h) hw, hp, Bool.false_or]

/-- A lane alone that its registers block waits (R57). -/
theorem exec_blocked (hi : IssuesPlainly i r f) (hg : LaneGroup s [(n, t)]) (h : laneTrap s t r f none [] = none)
    (hb : regsBlock t r f = true) : exec i s = .next s.block := by
  obtain ⟨carries, body, hexec⟩ := hi
  rw [hexec, issue_unstopped hg (by rw [dryClaims_noPort hp]; exact h), groupClaims_noPort hp, hp, Bool.false_or]
  simp only [groupBlocked_noPort hp, hb, if_true, pushesOf, (usesOf_noPort hp).1]
  rfl

/-- A lane alone that nothing blocks takes the trap of a poisoned source (R396). -/
theorem exec_poison (hi : IssuesPlainly i r f) (hg : LaneGroup s [(n, t)]) (h : laneTrap s t r f none [] = none)
    (hb : regsBlock t r f = false) {m : Nat} (hm : poisonedSource t r f = some m)
    (hw : trapWaits s t.tid (Trap.plain .poison m) = false) :
    exec i s = .next (takeTrap s t.tid f (Trap.plain .poison m) false false).bump := by
  obtain ⟨carries, body, hexec⟩ := hi
  have hl : ∀ pops, lateTrap s r f carries t pops = some (Trap.plain .poison m) := fun pops => by
    simp [lateTrap, poisonTrap, hm]
  rw [hexec, issue_late hg (by rw [dryClaims_noPort hp]; exact h)
    (by rw [groupClaims_noPort hp, hp, Bool.false_or, groupBlocked_noPort hp, hb]) (hl _) hw, hp, Bool.false_or,
    State.unqueued, groupClaims_noPort hp]
  simp [pushesOf, (usesOf_noPort hp).1, baseUses]

end

/-! ### Which check fails -/

section

variable {s : State} {r : OpRule} {f : Fields} {t : Thread}

theorem laneTrap_priv (h : t.plvl.code < r.level) (un : List Claim) :
    laneTrap s t r f none un = some ⟨.priv, 0, false⟩ := by
  simp only [laneTrap, gateTrap, if_pos h]
  rfl

/-- The lowest register above the block count is named (R31). -/
theorem laneTrap_blocks (hl : r.level ≤ t.plvl.code) {m : Nat} (hm : m ∈ allNamed r f) (hb : 8 * s.blockCount t ≤ m)
    (hmin : ∀ k ∈ allNamed r f, 8 * s.blockCount t ≤ k → m ≤ k) (un : List Claim) :
    laneTrap s t r f none un = some ⟨.prot, BitVec.ofNat 64 m, false⟩ := by
  have ha : aboveBlocks r f (s.blockCount t) = some m := by
    rw [aboveBlocks, List.min?_eq_some_iff]
    simpa [hm, hb] using hmin
  simp only [laneTrap, gateTrap, if_neg (Nat.not_lt.2 hl), ha]
  rfl

/-- Past the level and the block count, the sources are checked in order (R57). -/
theorem laneTrap_sources (hl : r.level ≤ t.plvl.code) (hb : ∀ m ∈ allNamed r f, m < 8 * s.blockCount t)
    (un : List Claim) : laneTrap s t r f none un = (usesOf r f).findSome? (useTrap s t un) := by
  simp only [laneTrap, gateTrap, if_neg (Nat.not_lt.2 hl), aboveBlocks_none hb, Option.map_none]
  rfl

theorem regsBlock_eq (t : Thread) (r : OpRule) (f : Fields) : regsBlock t r f =
    (((usesOf r f).any fun u => !u.e && u.regs.any fun n => !(t.reg n).full) || (r.pol && !(t.reg f.pol).full) ||
      (writeRegs r f).any fun n => !(t.reg n).full) := by
  rw [regsBlock, writeRegs]
  congr 1
  split <;> simp_all

theorem regsBlock_of_empty (he : ∀ u ∈ usesOf r f, u.e = true → ∀ m ∈ u.regs, (t.reg m).full = true)
    (h : (∃ u ∈ usesOf r f, ∃ m ∈ u.regs, (t.reg m).full = false) ∨ ∃ m ∈ writeRegs r f, (t.reg m).full = false) :
    regsBlock t r f = true := by
  rw [regsBlock_eq, Bool.or_eq_true, Bool.or_eq_true]
  rcases h with ⟨u, hu, m, hm, hf⟩ | ⟨m, hm, hf⟩
  · have hue : u.e = false := by
      by_contra h
      exact absurd (he u hu (by simpa using h) m hm) (by simp [hf])
    exact .inl (.inl (List.any_eq_true.2 ⟨u, hu, by simpa [hue] using ⟨m, hm, hf⟩⟩))
  · exact .inr (List.any_eq_true.2 ⟨m, hm, by simp [hf]⟩)

theorem regsBlock_of_full (h : ∀ m ∈ readRegs r f ++ writeRegs r f, (t.reg m).full = true) : regsBlock t r f = false := by
  have h1 : ((usesOf r f).any fun u => !u.e && u.regs.any fun n => !(t.reg n).full) = false := by
    simp only [List.any_eq_false, Bool.and_eq_true, not_and]
    intro u hu _
    have : ∀ m ∈ u.regs, (t.reg m).full = true := fun m hm =>
      h m (List.mem_append_left _ (readRegs_sources (List.mem_flatMap.2 ⟨u, hu, hm⟩)))
    simpa using this
  have h2 : (r.pol && !(t.reg f.pol).full) = false := by
    cases hp : r.pol
    · rfl
    · simp [h f.pol.val (List.mem_append_left _ (List.mem_append_right _ (by simp [hp])))]
  have h3 : ((writeRegs r f).any fun n => !(t.reg n).full) = false := by
    simpa using fun m hm => h m (List.mem_append_right _ hm)
  rw [regsBlock_eq, h1, h2, h3]
  rfl

theorem poisonedSource_first {ms ns : List Nat} {m : Nat} (h : readRegs r f = ms ++ m :: ns)
    (hm : (t.reg m).poison = true) (hms : ∀ k ∈ ms, (t.reg k).poison = false) : poisonedSource t r f = some m := by
  change (readRegs r f).find? (fun n => (t.reg n).poison) = some m
  rw [h, List.find?_append, List.find?_eq_none.2 fun k hk => by simp [hms k hk], List.find?_cons_of_pos (by exact hm)]
  rfl

end

end Sys2Proof.Machine

namespace Sys2Proof.Claims

open Sys2Proof.Machine

theorem checksBeforeIssue : ChecksBeforeIssue := by
  intro f s n t i r hg hp hi traps
  have hplain : IssuesPlainly i r f := by
    rcases hi with ⟨rfl, rfl⟩ | ⟨rfl, rfl⟩ | ⟨rfl, rfl⟩ | ⟨rfl, rfl⟩ <;> exact ⟨_, _, fun _ => rfl⟩
  refine ⟨fun hl => exec_early hp hplain hg (laneTrap_priv hl []), fun hl =>
    ⟨fun m hm hb hmin => exec_early hp hplain hg (laneTrap_blocks hl hm hb hmin []), fun hb =>
      ⟨fun us u vs huses he hempty hus => ?_, fun hfull => ?_⟩⟩⟩
  · have hmem : ∀ v ∈ us ++ u :: vs, v ∈ usesOf r f := fun v hv => huses ▸ hv
    have hpass : us.findSome? (useTrap s t []) = none := by
      rw [List.findSome?_eq_none_iff]
      intro v hv
      rw [useTrap_noPort hp (hmem v (by simp [hv]))]
      cases hve : v.e
      · simp
      · simpa using hus v hv hve
    have hu : useTrap s t [] u = some ⟨.empty, BitVec.ofNat 64 u.field, false⟩ := by
      obtain ⟨m, hm, hf⟩ := hempty
      rw [useTrap_noPort hp (hmem u (by simp)), if_pos]
      · rfl
      · simpa [he] using ⟨m, hm, hf⟩
    refine exec_early hp hplain hg ?_
    rw [laneTrap_sources hl hb, huses, List.findSome?_append, hpass, List.findSome?_cons, hu]
    rfl
  · have hpass : laneTrap s t r f none [] = none := by
      rw [laneTrap_sources hl hb, List.findSome?_eq_none_iff]
      intro u hu
      rw [useTrap_noPort hp hu]
      cases hue : u.e
      · simp
      · simpa using hfull u hu hue
    exact ⟨fun h => exec_blocked hp hplain hg hpass (regsBlock_of_empty hfull h), fun hall ms m ns hm hpoison hms =>
      exec_poison hp hplain hg hpass (regsBlock_of_full hall) (poisonedSource_first hm hpoison hms)⟩

end Sys2Proof.Claims
end

section
/-! SUPPORT. The queue ports of a lane alone (R57, R92): its claims in the order of its fields, which of them are served,
and the first of its sources that traps. -/

namespace Sys2Proof.Machine

/-! ### Places in lists -/

/-- The first element of a list of which each one before answers nothing. -/
theorem findSome?_split {α β : Type} {g : α → Option β} {us vs : List α} {u : α} {b : β} (hus : ∀ v ∈ us, g v = none)
    (hu : g u = some b) : (us ++ u :: vs).findSome? g = some b := by
  rw [List.findSome?_append, List.findSome?_eq_none_iff.2 hus, List.findSome?_cons, hu]
  rfl

/-- Elements that answer nothing may be left out. -/
theorem findSome?_filter_of {α β : Type} {g : α → Option β} {p : α → Bool} {l : List α}
    (h : ∀ a ∈ l, p a = false → g a = none) : (l.filter p).findSome? g = l.findSome? g := by
  induction l with
  | nil => rfl
  | cons a l ih =>
    have ih' := ih fun b hb => h b (List.mem_cons_of_mem _ hb)
    cases hp : p a with
    | true => rw [List.filter_cons_of_pos hp, List.findSome?_cons, List.findSome?_cons, ih']
    | false =>
      rw [List.filter_cons_of_neg (by simp [hp]), List.findSome?_cons, h a List.mem_cons_self hp, ih']

/-- If each element with a property has fewer than w of its kind before it, there are at most w in all. -/
theorem length_filter_le {α : Type} {P : α → Bool} {w : Nat} {l : List α}
    (h : ∀ us u vs, l = us ++ u :: vs → P u = true → (us.filter P).length < w) : (l.filter P).length ≤ w := by
  induction l using List.reverseRecOn with
  | nil => simp
  | append_singleton l a ih =>
    rw [List.filter_append]
    cases ha : P a with
    | true => simpa [List.filter_cons, ha] using h l a [] (by simp) ha
    | false => simpa [List.filter_cons, ha] using ih fun us u vs e => h us u (vs ++ [a]) (by simp [e])

/-- A claim's place is the number of claims on its queue before it. -/
theorem mem_ranked_go {seen cs : List Claim} {p : Claim × Nat} (h : p ∈ ranked.go seen cs) :
    ∃ xs ys, cs = xs ++ p.1 :: ys ∧
      p.2 = (seen.filter fun d => d.q == p.1.q).length + (xs.filter fun d => d.q == p.1.q).length := by
  induction cs generalizing seen with
  | nil => simp [ranked.go] at h
  | cons c cs ih =>
    rw [ranked.go] at h
    rcases List.mem_cons.1 h with rfl | h
    · exact ⟨[], cs, rfl, by simp⟩
    · obtain ⟨xs, ys, e, hk⟩ := ih h
      refine ⟨c :: xs, ys, by rw [e]; rfl, ?_⟩
      rw [hk, List.filter_cons, List.filter_cons]
      split
      · simp only [List.length_cons]; omega
      · rfl

theorem ranked_go_split (seen xs ys : List Claim) (c : Claim) :
    (c, (seen.filter fun d => d.q == c.q).length + (xs.filter fun d => d.q == c.q).length) ∈
      ranked.go seen (xs ++ c :: ys) := by
  induction xs generalizing seen with
  | nil => rw [List.nil_append, ranked.go]; simp
  | cons x xs ih =>
    rw [List.cons_append, ranked.go]
    refine List.mem_cons_of_mem _ ?_
    have := ih (x :: seen)
    rw [List.filter_cons] at this ⊢
    split at this <;> simp_all [Nat.add_assoc, Nat.add_comm 1]

/-- Which claims go unserved (R92): those on a queue whose claims all have e = 1, with no word left for them. -/
theorem mem_unserved {s : State} {cs : List Claim} {c : Claim} : c ∈ unserved s cs ↔
    ∃ xs ys, cs = xs ++ c :: ys ∧ (∀ d ∈ cs, d.q = c.q → d.e = true) ∧
      (s.queueWords c.q).length ≤ (xs.filter fun d => d.q == c.q).length := by
  simp only [unserved, List.mem_map, List.mem_filter, Bool.and_eq_true, List.all_eq_true, Bool.or_eq_true,
    bne_iff_ne, decide_eq_true_eq, ne_eq, ← imp_iff_not_or]
  constructor
  · rintro ⟨p, ⟨hp, hall, hw⟩, rfl⟩
    obtain ⟨xs, ys, e, hk⟩ := mem_ranked_go hp
    exact ⟨xs, ys, e, hall, by simpa [hk] using hw⟩
  · rintro ⟨xs, ys, e, hall, hw⟩
    refine ⟨(c, (xs.filter fun d => d.q == c.q).length), ⟨?_, hall, hw⟩, rfl⟩
    have := ranked_go_split [] xs ys c
    rw [← e, List.filter_nil, List.length_nil, Nat.zero_add] at this
    exact this

theorem claimQueues_of_mem {cs : List Claim} {c : Claim} (h : c ∈ cs) : c.q ∈ claimQueues cs := by
  have key : ∀ (l : List Claim) (acc : List QId), (c ∈ l ∨ c.q ∈ acc) →
      c.q ∈ l.foldl (fun l c => if l.contains c.q then l else l ++ [c.q]) acc := by
    intro l
    induction l with
    | nil => intro acc h; simpa using h
    | cons d l ih =>
      intro acc h
      refine ih _ ?_
      rcases h with h | h
      · rcases List.mem_cons.1 h with rfl | h
        · refine .inr ?_
          dsimp only
          split_ifs with hc
          · exact List.contains_iff_mem.1 hc
          · simp
        · exact .inl h
      · refine .inr ?_
        dsimp only
        split_ifs
        · exact h
        · exact List.mem_append_left _ h
  exact key cs [] (.inl h)

/-! ### The claims of a lane alone -/

/-- Whether a source field's port reaches a queue. -/
def portOk (s : State) (t : Thread) (u : Use) : Bool := (s.portQueue t u.reg).isOk

/-- The claim that a lane makes through a port that reaches a queue. -/
def claimAt (s : State) (t : Thread) (u : Use) : Claim :=
  ⟨u.field, t.tid, (s.portQueue t u.reg).toOption.getD (.inbox t.tid), u.e⟩

section

variable {s : State} {t : Thread} {u : Use}

theorem portOk_iff : portOk s t u = true ↔ ∃ q, s.portQueue t u.reg = .ok q := by
  unfold portOk
  cases s.portQueue t u.reg <;> simp [Except.isOk, Except.toBool]

theorem claimAt_q_iff (h : portOk s t u = true) {q : QId} : (claimAt s t u).q = q ↔ s.portQueue t u.reg = .ok q := by
  obtain ⟨p, hp⟩ := portOk_iff.1 h
  simp [claimAt, hp, Except.toOption]

theorem fieldClaims_alone (h : s.thread? t.tid = some t) (n : Nat) (u : Use) :
    fieldClaims s u [(n, t.tid)] = if portOk s t u then [claimAt s t u] else [] := by
  rw [fieldClaims.eq_2, h, Option.map_some]
  cases hq : s.portQueue t u.reg <;> simp [portOk, claimAt, hq, fieldClaims, Except.isOk, Except.toBool, Except.toOption]

theorem length_filter_claims {us : List Use} (h : ∀ u ∈ us, portOk s t u = true) (q : QId) :
    ((us.map (claimAt s t)).filter fun c => c.q == q).length =
      (us.filter fun u => decide (s.portQueue t u.reg = .ok q)).length := by
  rw [List.filter_map, List.length_map]
  congr 1
  refine List.filter_congr fun u hu => ?_
  exact decide_eq_decide.2 (claimAt_q_iff (h u hu))

end

/-- Fields in turn, of which each is reached once all before it are in order. -/
theorem flatMap_reached {α : Type} {P : Use → Bool} {g : Use → List α} (hg : ∀ u, P u = false → g u = [])
    {l : List Use} (hl : l.Pairwise fun u v => u.field < v.field) :
    l.flatMap (fun u => if l.all fun v => u.field ≤ v.field || P v then g u else []) = (l.takeWhile P).flatMap g := by
  induction l with
  | nil => rfl
  | cons a l ih =>
    obtain ⟨ha, hl⟩ := List.pairwise_cons.1 hl
    have h1 : ((a :: l).all fun v => a.field ≤ v.field || P v) = true := by
      simp only [List.all_cons, le_refl, decide_true, Bool.true_or, Bool.true_and, List.all_eq_true]
      intro v hv
      simp [(ha v hv).le]
    have h2 : ∀ u ∈ l, ((a :: l).all fun v => u.field ≤ v.field || P v) =
        (P a && l.all fun v => u.field ≤ v.field || P v) := fun u hu => by
      simp [Nat.not_le.2 (ha u hu)]
    rw [List.flatMap_cons, if_pos h1, List.takeWhile_cons]
    cases hP : P a with
    | true =>
      simp only [hP, Bool.true_and] at h2
      rw [if_pos rfl, List.flatMap_cons, ← ih hl]
      congr 1
      refine List.flatMap_congr fun u hu => ?_
      rw [h2 u hu]
    | false =>
      simp only [hP, Bool.false_and] at h2
      rw [if_neg Bool.false_ne_true, hg a hP, List.nil_append, List.flatMap_nil, List.flatMap_eq_nil_iff]
      intro u hu
      rw [h2 u hu, if_neg Bool.false_ne_true]

theorem usesOf_pairwise (r : OpRule) (f : Fields) : (usesOf r f).Pairwise fun u v => u.field < v.field :=
  List.Pairwise.filter _ (by simp)

theorem usesOf_field_inj {r : OpRule} {f : Fields} {u v : Use} (hu : u ∈ usesOf r f) (hv : v ∈ usesOf r f)
    (h : u.field = v.field) : u = v := by
  have hn : ((usesOf r f).map Use.field).Nodup := List.Pairwise.map _ (fun _ _ => ne_of_lt) (usesOf_pairwise r f)
  exact List.inj_on_of_nodup_map hn hu hv h

section

variable {s : State} {r : OpRule} {f : Fields} {t : Thread} {n : Nat}

/-- The source fields that name queue ports, in order. -/
def portUses (r : OpRule) (f : Fields) : List Use := (usesOf r f).filter Use.isPort

/-- Those before the first whose port reaches no queue. -/
def openUses (s : State) (t : Thread) (r : OpRule) (f : Fields) : List Use := (portUses r f).takeWhile (portOk s t)

theorem portUses_pairwise (r : OpRule) (f : Fields) : (portUses r f).Pairwise fun u v => u.field < v.field :=
  (usesOf_pairwise r f).filter _

theorem openUses_ok {u : Use} (h : u ∈ openUses s t r f) : portOk s t u = true := List.mem_takeWhile_imp h

theorem mem_portUses {u : Use} : u ∈ portUses r f ↔ u ∈ usesOf r f ∧ u.isPort = true := List.mem_filter

theorem openUses_prefix (s : State) (t : Thread) (r : OpRule) (f : Fields) :
    ∃ rest, portUses r f = openUses s t r f ++ rest := ⟨_, (List.takeWhile_append_dropWhile).symm⟩

theorem groupClaims_alone (h : s.thread? t.tid = some t) (hall : openUses s t r f = portUses r f) :
    s.groupClaims r f [(n, t)] = (openUses s t r f).map (claimAt s t) := by
  have : ∀ u ∈ portUses r f, fieldClaims s u [(n, t.tid)] = [claimAt s t u] := fun u hu => by
    rw [fieldClaims_alone h, if_pos (openUses_ok (hall ▸ hu))]
  change (portUses r f).flatMap (fun u => fieldClaims s u [(n, t.tid)]) = _
  rw [hall, List.flatMap_congr this]
  exact List.map_eq_flatMap.symm

/-- A field without a port stops no ready lane. -/
theorem fieldTrap_reg {irrev : Bool} (h : LaneReady s r f irrev t) {u : Use} (hu : u ∈ usesOf r f)
    (hp : u.isPort = false) : fieldTrap s t u = none :=
  fieldTrap_none (by simp [hp]) (by
    rw [List.any_eq_false]
    intro m hm
    simp [(h.sources m (readRegs_sources (List.mem_flatMap.2 ⟨u, hu, hm⟩))).1])

theorem fieldTrap_error {u : Use} (hp : u.isPort = true) {tr : Trap} (h : s.portQueue t u.reg = .error tr) :
    fieldTrap s t u = some tr := by
  rw [fieldTrap, if_pos hp, h]

theorem fieldTrap_isNone {irrev : Bool} (h : LaneReady s r f irrev t) {u : Use} (hu : u ∈ usesOf r f) :
    (fieldTrap s t u).isNone = (!u.isPort || portOk s t u) := by
  cases hp : u.isPort with
  | false => simp [fieldTrap_reg h hu hp]
  | true =>
    cases hq : s.portQueue t u.reg with
    | error e => simp [fieldTrap_error hp hq, portOk, hq, Except.isOk, Except.toBool]
    | ok q => simp [fieldTrap, hp, hq, portOk, Except.isOk, Except.toBool]

theorem openClaims_alone {irrev : Bool} (h : LaneReady s r f irrev t) (hs : s.thread? t.tid = some t) :
    openClaims s r f [(n, t)] = (openUses s t r f).map (claimAt s t) := by
  have hreach : ∀ k, reachesField s t r f k = (portUses r f).all fun v => k ≤ v.field || portOk s t v := fun k => by
    rw [reachesField, portUses, List.all_filter, Bool.eq_iff_iff, List.all_eq_true, List.all_eq_true]
    refine forall₂_congr fun u hu => ?_
    rw [fieldTrap_isNone h hu]
    cases u.isPort <;> simp
  have hclaims : ∀ u, fieldClaims s u (([(n, t)].filter fun p => reachesField s p.2 r f u.field).map fun p =>
      (p.1, p.2.tid)) = if (portUses r f).all fun v => u.field ≤ v.field || portOk s t v then
        fieldClaims s u [(n, t.tid)] else [] := fun u => by
    rw [← hreach]
    cases hr : reachesField s t r f u.field <;> simp [hr, fieldClaims]
  have hopen : ∀ u ∈ openUses s t r f, fieldClaims s u [(n, t.tid)] = [claimAt s t u] := fun u hu => by
    rw [fieldClaims_alone hs, if_pos (openUses_ok hu)]
  change (portUses r f).flatMap _ = _
  rw [List.flatMap_congr fun u _ => hclaims u, flatMap_reached (P := portOk s t) _ (portUses_pairwise r f)]
  · exact (List.flatMap_congr hopen).trans List.map_eq_flatMap.symm
  · intro u hu
    rw [fieldClaims_alone hs, if_neg (by simp [hu])]

/-! ### The claims that are not served -/

/-- Whether a claim that has others before it is served (R92). -/
def Served (s : State) (t : Thread) (claims us : List Use) (u : Use) : Prop := ∀ q, s.portQueue t u.reg = .ok q →
  (∃ v ∈ claims, s.portQueue t v.reg = .ok q ∧ v.e = false) ∨
    (us.filter fun v => decide (s.portQueue t v.reg = .ok q)).length < (s.queueWords q).length

/-- Uses at the same field of a list whose fields rise stand at the same place. -/
theorem split_unique {us us' vs vs' : List Use} {u u' : Use} (h : us ++ u :: vs = us' ++ u' :: vs')
    (hl : (us ++ u :: vs).Pairwise fun u v => u.field < v.field) (hf : u.field = u'.field) : us = us' ∧ u = u' := by
  have hcases := List.append_eq_append_iff.1 h
  rw [List.pairwise_append, List.pairwise_cons] at hl
  obtain ⟨-, ⟨hvs, -⟩, hus⟩ := hl
  rcases hcases with ⟨as, rfl, e⟩ | ⟨as, rfl, e⟩
  · cases as with
    | nil => exact ⟨(List.append_nil us).symm, (List.cons.inj e).1⟩
    | cons a as =>
      have := hvs u' (by rw [(List.cons.inj e).2]; simp)
      omega
  · cases as with
    | nil => exact ⟨List.append_nil us', (List.cons.inj e).1.symm⟩
    | cons a as =>
      have := hus u' (by rw [(List.cons.inj e).1]; simp) u List.mem_cons_self
      omega

/-- A claim is not served exactly when its field's is not. -/
theorem unserved_iff {us vs : List Use} {u : Use} (hs : openUses s t r f = us ++ u :: vs) :
    ((unserved s ((openUses s t r f).map (claimAt s t))).any fun c => c.tid == t.tid && c.field == u.field) = true ↔
      ¬ Served s t (openUses s t r f) us u := by
  have hok : ∀ v ∈ openUses s t r f, portOk s t v = true := fun v hv => openUses_ok hv
  have hmem : ∀ v ∈ us ++ u :: vs, v ∈ openUses s t r f := fun v hv => hs ▸ hv
  have hpair : (us ++ u :: vs).Pairwise fun u v => u.field < v.field :=
    hs ▸ (portUses_pairwise r f).sublist (List.takeWhile_sublist _)
  have hcount := length_filter_claims (us := us) (t := t) fun v hv => hok v (hmem v (by simp [hv]))
  simp only [List.any_eq_true, Bool.and_eq_true, beq_iff_eq, Served, not_forall, not_or, not_exists, not_and, not_lt,
    Bool.not_eq_false]
  constructor
  · rintro ⟨c, hc, -, hfield⟩
    obtain ⟨xs, ys, e, hall, hw⟩ := mem_unserved.1 hc
    obtain ⟨us', l, e1, rfl, e2⟩ := List.map_eq_append_iff.1 e
    obtain ⟨u', vs', rfl, rfl, -⟩ := List.map_eq_cons_iff.1 e2
    obtain ⟨rfl, rfl⟩ := split_unique (hs.symm.trans e1) hpair hfield.symm
    refine ⟨_, (claimAt_q_iff (hok u (hmem u (by simp)))).1 rfl, fun v hv hq => ?_, by rwa [← hcount]⟩
    exact hall _ (List.mem_map_of_mem hv) ((claimAt_q_iff (hok v hv)).2 hq)
  · rintro ⟨q, hq, hall, hw⟩
    have hcq := (claimAt_q_iff (hok u (hmem u (by simp)))).2 hq
    refine ⟨claimAt s t u, mem_unserved.2 ⟨us.map (claimAt s t), vs.map (claimAt s t), by simp [hs], fun d hd hdq => ?_,
      by rw [hcq, hcount]; exact hw⟩, rfl, rfl⟩
    obtain ⟨v, hv, rfl⟩ := List.mem_map.1 hd
    exact hall v hv ((claimAt_q_iff (hok v hv)).1 (hdq.trans hcq))

/-- A field that claims nothing is not among the claims that are not served. -/
theorem unserved_field {c : Claim} (h : c ∈ unserved s ((openUses s t r f).map (claimAt s t))) :
    ∃ u ∈ openUses s t r f, c.field = u.field := by
  obtain ⟨xs, ys, e, -⟩ := mem_unserved.1 h
  obtain ⟨u, hu, rfl⟩ := List.mem_map.1 (e ▸ (by simp : c ∈ xs ++ c :: ys))
  exact ⟨u, hu, rfl⟩

/-! ### The first source that traps -/

/-- The claims of a ready lane alone that are not served. -/
theorem dryClaims_alone {irrev : Bool} (h : LaneReady s r f irrev t) (hs : s.thread? t.tid = some t) :
    dryClaims s r f (fun _ => none) [(n, t)] = unserved s ((openUses s t r f).map (claimAt s t)) := by
  rw [dryClaims, ← openClaims_alone (n := n) h hs]
  simp [gateTrap_none h]

/-- Of a ready lane's fields those that name ports may trap. -/
theorem laneTrap_ports {irrev : Bool} (h : LaneReady s r f irrev t) :
    laneTrap s t r f none (unserved s ((openUses s t r f).map (claimAt s t))) =
      (portUses r f).findSome? (useTrap s t (unserved s ((openUses s t r f).map (claimAt s t)))) := by
  rw [laneTrap_sources h.level h.blocks, portUses, findSome?_filter_of fun u hu hp => ?_]
  have hne : ((unserved s ((openUses s t r f).map (claimAt s t))).any fun c =>
      c.tid == t.tid && c.field == u.field) = false := by
    simp only [List.any_eq_false, Bool.and_eq_true, beq_iff_eq, not_and]
    intro c hc _ e
    obtain ⟨v, hv, hf⟩ := unserved_field hc
    obtain ⟨hv, hvp⟩ := mem_portUses.1 (List.takeWhile_subset _ hv)
    rw [usesOf_field_inj hu hv (e.symm.trans hf), hvp] at hp
    exact absurd hp (by decide)
  simp only [useTrap, fieldTrap_reg h hu hp, hne]
  rfl

theorem useTrap_ok {u : Use} (hu : u ∈ openUses s t r f) (un : List Claim) :
    useTrap s t un u = if un.any fun c => c.tid == t.tid && c.field == u.field then
      some ⟨.qempty, BitVec.ofNat 64 u.field, false⟩ else none := by
  obtain ⟨q, hq⟩ := portOk_iff.1 (openUses_ok hu)
  have hp := (mem_portUses.1 (List.takeWhile_subset _ hu)).2
  simp only [useTrap, fieldTrap, hp, hq, if_true]
  rfl

/-- The first claim of a ready lane alone that is not served traps (R92). -/
theorem laneTrap_unserved {irrev : Bool} (h : LaneReady s r f irrev t) {us vs : List Use} {u : Use}
    (hs : openUses s t r f = us ++ u :: vs) (hu : ¬ Served s t (openUses s t r f) us u)
    (hus : ∀ xs v ys, us = xs ++ v :: ys → Served s t (openUses s t r f) xs v) :
    laneTrap s t r f none (unserved s ((openUses s t r f).map (claimAt s t))) =
      some ⟨.qempty, BitVec.ofNat 64 u.field, false⟩ := by
  obtain ⟨rest, hrest⟩ := openUses_prefix s t r f
  rw [laneTrap_ports h, hrest, hs, List.append_assoc, List.cons_append]
  refine findSome?_split (fun v hv => ?_) ?_
  · obtain ⟨xs, ys, rfl⟩ := List.append_of_mem hv
    rw [← hs, useTrap_ok (by rw [hs]; simp), if_neg]
    exact fun hany => (unserved_iff (by rw [hs, List.append_assoc]; rfl)).1 hany (hus xs v ys rfl)
  · rw [← hs, useTrap_ok (by rw [hs]; simp), if_pos ((unserved_iff hs).2 hu)]

section

variable {irrev : Bool} (h : LaneReady s r f irrev t)
  (hall : ∀ us u vs, openUses s t r f = us ++ u :: vs → Served s t (openUses s t r f) us u)

include hall

theorem useTrap_served {u : Use} (hu : u ∈ openUses s t r f) :
    useTrap s t (unserved s ((openUses s t r f).map (claimAt s t))) u = none := by
  obtain ⟨xs, ys, e⟩ := List.append_of_mem hu
  rw [useTrap_ok hu, if_neg]
  exact fun hany => (unserved_iff e).1 hany (hall xs u ys e)

include h

/-- With every claim served, the first port that reaches no queue traps (R92). -/
theorem laneTrap_unreached {u : Use} {vs : List Use} {tr : Trap} (hu : portUses r f = openUses s t r f ++ u :: vs)
    (htr : s.portQueue t u.reg = .error tr) :
    laneTrap s t r f none (unserved s ((openUses s t r f).map (claimAt s t))) = some tr := by
  have hp : u.isPort = true := (mem_portUses.1 (hu ▸ (by simp) : u ∈ portUses r f)).2
  rw [laneTrap_ports h]
  conv_lhs => rw [hu]
  refine findSome?_split (fun v hv => useTrap_served hall hv) ?_
  simp only [useTrap, fieldTrap_error hp htr]

/-- With every claim served and every port reaching a queue, no source traps. -/
theorem laneTrap_served (hu : openUses s t r f = portUses r f) :
    laneTrap s t r f none (unserved s ((openUses s t r f).map (claimAt s t))) = none := by
  rw [laneTrap_ports h, ← hu, List.findSome?_eq_none_iff]
  exact fun v hv => useTrap_served hall hv

end

/-! ### What blocks a lane alone at its ports -/

/-- Claims that are all served wait where there is not a word for each: one of them has e = 0 (R92). -/
theorem claimsWait_of_served (hall : ∀ us u vs, openUses s t r f = us ++ u :: vs → Served s t (openUses s t r f) us u)
    {q : QId} (hq : (s.queueWords q).length <
      ((openUses s t r f).filter fun u => decide (s.portQueue t u.reg = .ok q)).length) :
    ((claimQueues ((openUses s t r f).map (claimAt s t))).any fun q =>
      claimsWait s ((openUses s t r f).map (claimAt s t)) q) = true := by
  have he : ∃ v ∈ openUses s t r f, s.portQueue t v.reg = .ok q ∧ v.e = false := by
    by_contra hne
    refine absurd (length_filter_le fun us u vs e hu => ?_) (Nat.not_le.2 hq)
    exact (hall us u vs e q (of_decide_eq_true hu)).resolve_left hne
  obtain ⟨v, hv, hvq, hve⟩ := he
  have hcq := (claimAt_q_iff (openUses_ok hv)).2 hvq
  have hmem : claimAt s t v ∈ (openUses s t r f).map (claimAt s t) := List.mem_map_of_mem hv
  refine List.any_eq_true.2 ⟨q, hcq ▸ claimQueues_of_mem hmem, ?_⟩
  rw [claimsWait, Bool.and_eq_true, List.any_eq_true, decide_eq_true_eq]
  refine ⟨⟨claimAt s t v, List.mem_filter.2 ⟨hmem, by simpa using hcq⟩, by simp [claimAt, hve]⟩, ?_⟩
  rw [length_filter_claims fun u hu => openUses_ok hu]
  exact hq

theorem claimsWait_false (hq : ∀ q, ((openUses s t r f).filter fun u => decide (s.portQueue t u.reg = .ok q)).length ≤
      (s.queueWords q).length) : ((claimQueues ((openUses s t r f).map (claimAt s t))).any fun q =>
      claimsWait s ((openUses s t r f).map (claimAt s t)) q) = false := by
  rw [List.any_eq_false]
  intro q _
  rw [claimsWait, Bool.and_eq_true, decide_eq_true_eq, length_filter_claims fun u hu => openUses_ok hu]
  exact fun h => absurd h.2 (Nat.not_lt.2 (hq q))

end

/-! ### Requests that wait -/

/-- A request that waits changes a queue's line and no word (R335). -/
theorem waitAt_keeps (s : State) (q : Nat) (me : Waiter) :
    s.waitAt q me = { s with queues := (s.waitAt q me).queues } ∧
      ∀ n, (s.waitAt q me).queueWords n = s.queueWords n := by
  refine ⟨rfl, fun n => ?_⟩
  cases n with
  | base n =>
    by_cases h : q = n
    · subst h; simp [State.queueWords, State.waitAt]
    · simp [State.queueWords, State.waitAt, State.queue_putQueue_other _ _ h]
  | chan b n => rfl
  | inbox n => rfl

theorem foldl_waitAt_keeps {α : Type} (q : α → Nat) (w : State → α → Waiter) (l : List α) (s : State) :
    ∃ qs, l.foldl (fun s u => s.waitAt (q u) (w s u)) s = { s with queues := qs } ∧
      ∀ n, ({ s with queues := qs } : State).queueWords n = s.queueWords n := by
  induction l generalizing s with
  | nil => exact ⟨s.queues, rfl, fun _ => rfl⟩
  | cons u l ih =>
    obtain ⟨qs, h1, h2⟩ := ih (s.waitAt (q u) (w s u))
    exact ⟨qs, h1, fun n => (h2 n).trans ((waitAt_keeps s (q u) (w s u)).2 n)⟩

end Sys2Proof.Machine

namespace Sys2Proof.Claims

open Sys2Proof.Machine

/-! ### What a port reaches (R91, R92) -/

section

variable {s : State} {t : Thread} {reg : Nat}

theorem portQueue_unbound (h : t.port (reg - 56) = .unbound) :
    s.portQueue t reg = .error ⟨.prot, BitVec.ofNat 64 reg, false⟩ := by
  unfold State.portQueue
  rw [h]
  rfl

theorem portQueue_base {q : Nat} (h : t.port (reg - 56) = .base q) : s.portQueue t reg =
    if (s.queue q).granted t.pid then .ok (.base q) else .error ⟨.prot, BitVec.ofNat 64 reg, false⟩ := by
  unfold State.portQueue
  rw [h]
  rfl

theorem portQueue_own (h : t.port (reg - 56) = .inbox) : s.portQueue t reg = .ok (.inbox t.tid) := by
  unfold State.portQueue
  rw [h]

theorem portQueue_chan_latency {n : Nat} (h : t.port (reg - 56) = .chan n) (hl : t.onLatency = true) :
    s.portQueue t reg = .error ⟨.needw, BitVec.ofNat 64 reg, false⟩ := by
  unfold State.portQueue
  rw [h]
  dsimp only
  rw [if_pos hl]
  rfl

theorem portQueue_chan {n b : Nat} (h : t.port (reg - 56) = .chan n) (hl : t.onLatency = false) (hb : t.bolt = some b) :
    s.portQueue t reg = .ok (.chan b n) := by
  unfold State.portQueue
  rw [h]
  dsimp only
  rw [if_neg (by simp [hl]), hb]

end

section

variable {f : Fields} {s : State} {n : Nat} {t : Thread} (hg : LaneGroup s [(n, t)]) (h : LaneReady s rAlu f true t)
  (htouch : touchesPort rAlu f = true)

include hg h htouch

/-- ADD with queue ports whose sources trap. -/
theorem add_early {tr : Trap} (htr : laneTrap s t rAlu f none
      (unserved s ((openUses s t rAlu f).map (claimAt s t))) = some tr) (hw : trapWaits s t.tid tr = false) :
    exec (.add f) s = .next (takeTrap s t.tid f tr true false).bump := by
  have hdry := dryClaims_alone (n := n) h (hg.held (n, t) (by simp))
  change issue rAlu f false (fun _ => none) true _ s = _
  rw [issue_early hg (by rw [hdry]; exact htr) hw, htouch, Bool.or_true]

/-- ADD with queue ports that waits: only lines of queues change. -/
theorem add_blocked (hno : laneTrap s t rAlu f none (unserved s ((openUses s t rAlu f).map (claimAt s t))) = none)
    (hb : groupBlocked s rAlu f true [(n, t)] (s.groupClaims rAlu f [(n, t)]) t.pc = true) :
    ∃ t', exec (.add f) s = .next t' ∧ t' = { s.block with queues := t'.queues } ∧
      ∀ q, t'.queueWords q = s.queueWords q := by
  have hdry := dryClaims_alone (n := n) h (hg.held (n, t) (by simp))
  obtain ⟨qs, e, hq⟩ := foldl_waitAt_keeps Prod.fst (fun s u => s.cur.waiter t.pc u.2)
    (baseUses (s.groupClaims rAlu f [(n, t)]) (pushesOf s rAlu f [(n, t)])) s
  refine ⟨({ s with queues := qs } : State).block, ?_, rfl, hq⟩
  change issue rAlu f false (fun _ => none) true _ s = _
  rw [issue_unstopped hg (by rw [hdry]; exact hno), htouch, Bool.or_true]
  dsimp only
  rw [if_pos hb]
  exact congrArg (fun k => Host.Outcome.next k.block) e

/-- ADD with queue ports whose rd's port traps. -/
theorem add_late {tr : Trap}
    (hno : laneTrap s t rAlu f none (unserved s ((openUses s t rAlu f).map (claimAt s t))) = none)
    (hb : groupBlocked s rAlu f true [(n, t)] (s.groupClaims rAlu f [(n, t)]) t.pc = false)
    (htr : rdTrap s t rAlu f = some tr) (hw : trapWaits s t.tid tr = false) :
    exec (.add f) s = .next (s.unqueued rAlu f [(n, t)] (takeTrap s t.tid f tr true false)).bump := by
  have hdry := dryClaims_alone (n := n) h (hg.held (n, t) (by simp))
  have hlate : ∀ pops, lateTrap s rAlu f true t pops = some tr := fun pops => by
    simp only [lateTrap, poisonTrap_none h pops (.inl rfl), htr]
  change issue rAlu f false (fun _ => none) true _ s = _
  rw [issue_late hg (by rw [hdry]; exact hno) (by rw [htouch, Bool.or_true]; exact hb) (hlate _) hw, htouch, Bool.or_true]

end

/-- What a lane that pushes to a full queue, or to one that is not there, pushes to (R92). -/
theorem pushesOf_alone {s : State} {r : OpRule} {f : Fields} {n : Nat} {t : Thread} {q : QId} (hp : pushesRd r f = true)
    (hq : s.portQueue t f.rd = .ok q) (hne : ∀ m, q ≠ .inbox m) : pushesOf s r f [(n, t)] = [(t.tid, q)] := by
  cases q with
  | inbox m => exact absurd rfl (hne m)
  | base m => simp [pushesOf, hp, hq]
  | chan b m => simp [pushesOf, hp, hq]

theorem portsThatStopALane : PortsThatStopALane := by
  refine ⟨fun s t reg => ⟨portQueue_unbound, fun q => portQueue_base, portQueue_own, fun n => portQueue_chan_latency,
    fun n b => portQueue_chan⟩, fun f s n t hg h => ?_⟩
  intro uses reaches claims served stop late words htouch
  have hs := hg.held (n, t) (by simp)
  have hclaims : claims = openUses s t rAlu f := rfl
  have hserved : ∀ us u, served us u ↔ Served s t (openUses s t rAlu f) us u := fun us u => Iff.rfl
  simp only [hserved]
  refine ⟨fun us u vs e hu hus => add_early hg h htouch (laneTrap_unserved h e hu hus), fun hall =>
    ⟨fun u vs tr e htr => add_early hg h htouch (laneTrap_unreached h hall e htr), fun hopen => ?_⟩⟩
  have hno := laneTrap_served h hall hopen
  have hcs : s.groupClaims rAlu f [(n, t)] = (openUses s t rAlu f).map (claimAt s t) := groupClaims_alone hs hopen
  refine ⟨fun hblock => add_blocked hg h htouch hno ?_, fun hwords hpush hwait hturn => ?_⟩
  · rw [hcs]
    simp only [groupBlocked, Bool.or_eq_true]
    rcases hblock with hw | ⟨huses, hm⟩ | ⟨q, hpush, hq, hne, hcap⟩
    · obtain ⟨q, hq⟩ := not_forall.1 hw
      exact .inl (.inl (.inl (.inl (.inl (.inr (claimsWait_of_served hall (Nat.not_le.1 hq)))))))
    · obtain ⟨u, hu⟩ := List.exists_mem_of_ne_nil _ huses
      have hu : u ∈ openUses s t rAlu f := by rw [← hclaims, hopen]; exact hu
      exact .inl (.inr (List.any_eq_true.2 ⟨claimAt s t u, List.mem_map_of_mem hu, hm⟩))
    · refine .inl (.inl (.inl (.inl (.inr ?_))))
      simp [pushesOf_alone hpush hq hne, pushesFit]
      omega
  · have hfree (hto : pushesOf s rAlu f [(n, t)] = []) :
        groupBlocked s rAlu f true [(n, t)] (s.groupClaims rAlu f [(n, t)]) t.pc = false := by
      have hacq : (s.groupClaims rAlu f [(n, t)]).any (fun c => s.mustWait c.tid) = false := by
        rcases hwait with hnil | hm
        · rw [hcs, ← hclaims, hopen, hnil]
          rfl
        · rw [List.any_eq_false]
          intro c hc
          have : c.tid = t.tid := by simpa using groupClaims_mem hc
          simp [this, hm]
      have hline : (baseUses (s.groupClaims rAlu f [(n, t)]) []).any
          (fun u => s.behind u.1 (s.cur.waiter t.pc u.2)) = false := by
        rw [List.any_eq_false]
        intro u hu
        simp [hturn u hu]
      have hclaim := claimsWait_false (r := rAlu) (f := f) (t := t) hwords
      rw [← hcs] at hclaim
      simp [groupBlocked, hto, regsBlock_false h, hclaim, pushesFit, h.checked rfl, hacq, hline]
    refine ⟨fun tr htr => ?_, fun m htr => ?_⟩
    · exact add_late hg h htouch hno (hfree (by simp [pushesOf, hpush, htr])) (by simp [rdTrap, hpush, htr])
    · exact add_late hg h htouch hno (hfree (by simp [pushesOf, hpush, htr])) (by simp [rdTrap, hpush, htr, Trap.plain])

end Sys2Proof.Claims

open Sys2Proof.Machine Sys2Proof.Claims

/-- Settles O19: an issue of a lane alone either traps early, is blocked, or traps late; its sources are checked in the
order of their fields. -/
theorem checksBeforeIssueAndAtPorts : Obligations.ChecksBeforeIssueAndAtPorts :=
  ⟨checksBeforeIssue, portsThatStopALane⟩

end

section
/-! SUPPORT. How a weft chooses what it issues (R25, R26): the least address of its lanes, the oldest waiting group and
the override set, as the sets that they are; and the traps of the fetch (R54). -/

namespace Sys2Proof.Machine

/-! ### Least addresses and greatest ages -/

theorem leastOf_eq_min? (l : List Nat) : leastOf l = l.min? := by
  induction l with
  | nil => rfl
  | cons a l ih =>
    rw [leastOf, ih, List.min?_cons]
    cases l.min? <;> rfl

theorem leastOf_eq_some_iff {l : List Nat} {a : Nat} : leastOf l = some a ↔ a ∈ l ∧ ∀ b ∈ l, a ≤ b := by
  rw [leastOf_eq_min?, List.min?_eq_some_iff]

theorem lowestPc_eq_some_iff {ls : List (Nat × Thread)} {a : Word} :
    lowestPc ls = some a ↔ (∃ p ∈ ls, p.2.pc = a) ∧ ∀ p ∈ ls, a ≤ p.2.pc := by
  have hof : ∀ p : Nat × Thread, BitVec.ofNat 64 p.2.pc.toNat = p.2.pc := fun p => by
    rw [BitVec.ofNat_toNat, BitVec.setWidth_eq]
  rw [lowestPc, Option.map_eq_some_iff]
  simp only [leastOf_eq_some_iff, List.mem_map, forall_exists_index, and_imp, forall_apply_eq_imp_iff₂]
  constructor
  · rintro ⟨x, ⟨⟨p, hp, rfl⟩, hle⟩, rfl⟩
    exact ⟨⟨p, hp, (hof p).symm⟩, fun q hq => by rw [hof]; exact hle q hq⟩
  · rintro ⟨⟨p, hp, rfl⟩, hle⟩
    exact ⟨_, ⟨⟨p, hp, rfl⟩, fun q hq => hle q hq⟩, hof p⟩

theorem lowestPc_isSome {ls : List (Nat × Thread)} {p : Nat × Thread} (h : p ∈ ls) : ∃ a, lowestPc ls = some a := by
  cases ls with
  | nil => cases h
  | cons q ls =>
    simp only [lowestPc, List.map_cons, leastOf]
    split <;> exact ⟨_, rfl⟩

/-- The greatest age from a bound on: no age is greater, and it is the bound or the age of one of them. -/
theorem foldl_max_age (ls : List (Nat × Thread)) (m : Nat) : let g := ls.foldl (fun m p => max m p.2.age) m
    m ≤ g ∧ (∀ p ∈ ls, p.2.age ≤ g) ∧ (g = m ∨ ∃ p ∈ ls, p.2.age = g) := by
  induction ls generalizing m with
  | nil => simp
  | cons q ls ih =>
    obtain ⟨h1, h2, h3⟩ := ih (max m q.2.age)
    refine ⟨(le_max_left ..).trans h1, fun p hp => ?_, ?_⟩
    · rcases List.mem_cons.1 hp with rfl | hp
      · exact (le_max_right ..).trans h1
      · exact h2 p hp
    · rcases h3 with h3 | ⟨p, hp, e⟩
      · rcases max_choice m q.2.age with h | h
        · exact .inl (h3.trans h)
        · exact .inr ⟨q, List.mem_cons_self, (h3.trans h).symm⟩
      · exact .inr ⟨p, List.mem_cons_of_mem _ hp, e⟩

theorem le_greatestAge {ls : List (Nat × Thread)} {p : Nat × Thread} (h : p ∈ ls) : p.2.age ≤ greatestAge ls :=
  (foldl_max_age ls 0).2.1 p h

theorem greatestAge_attained {ls : List (Nat × Thread)} {q : Nat × Thread} (h : q ∈ ls) :
    ∃ p ∈ ls, p.2.age = greatestAge ls := by
  rcases (foldl_max_age ls 0).2.2 with h0 | hp
  · exact ⟨q, h, le_antisymm (le_greatestAge h) (h0.le.trans (Nat.zero_le _))⟩
  · exact hp

/-! ### Positions of lanes -/

theorem mem_lanesFrom {l : List (Option Nat)} {k i tid : Nat} :
    (i, tid) ∈ lanesFrom k l ↔ k ≤ i ∧ l[i - k]? = some (some tid) := by
  induction l generalizing k with
  | nil => simp [lanesFrom]
  | cons o l ih =>
    have hget : k + 1 ≤ i → (o :: l)[i - k]? = l[i - (k + 1)]? := fun h => by
      rw [show i - k = i - (k + 1) + 1 by omega, List.getElem?_cons_succ]
    have hrest : (i, tid) ∈ lanesFrom (k + 1) l ↔ k + 1 ≤ i ∧ (o :: l)[i - k]? = some (some tid) :=
      ih.trans (and_congr_right fun h => by rw [hget h])
    have hfirst : (o :: l)[k - k]? = some o := by simp
    cases o with
    | none =>
      rw [lanesFrom, hrest]
      refine ⟨fun ⟨h, e⟩ => ⟨by omega, e⟩, fun ⟨h, e⟩ => ⟨?_, e⟩⟩
      rcases Nat.lt_or_eq_of_le h with h | rfl
      · exact h
      · rw [hfirst] at e
        cases e
    | some x =>
      rw [lanesFrom, List.mem_cons, hrest, Prod.mk.injEq]
      constructor
      · rintro (⟨rfl, rfl⟩ | ⟨h, e⟩)
        · exact ⟨le_rfl, hfirst⟩
        · exact ⟨by omega, e⟩
      · rintro ⟨h, e⟩
        rcases Nat.lt_or_eq_of_le h with h | rfl
        · exact .inr ⟨h, e⟩
        · rw [hfirst] at e
          exact .inl ⟨rfl, (Option.some.inj (Option.some.inj e)).symm⟩

theorem mem_members {w : Weft} {i tid : Nat} : (i, tid) ∈ w.members ↔ w.lanes.toList[i]? = some (some tid) := by
  rw [Weft.members, mem_lanesFrom]
  simp

theorem mem_activeLanes {s : State} {w : Weft} {i : Nat} {t : Thread} : (i, t) ∈ s.activeLanes w ↔
    ∃ tid, w.lanes.toList[i]? = some (some tid) ∧ s.thread? tid = some t ∧ t.active = true := by
  simp only [State.activeLanes, List.mem_filter, List.mem_filterMap, Option.map_eq_some_iff, Prod.mk.injEq]
  constructor
  · rintro ⟨⟨⟨j, tid⟩, hm, u, hu, rfl, rfl⟩, ha⟩
    exact ⟨tid, mem_members.1 hm, hu, ha⟩
  · rintro ⟨tid, hm, hu, ha⟩
    exact ⟨⟨(i, tid), mem_members.2 hm, t, hu, rfl, rfl⟩, ha⟩

/-- A position of a weft has one lane. -/
theorem activeLanes_unique {s : State} {w : Weft} {i : Nat} {t u : Thread} (ht : (i, t) ∈ s.activeLanes w)
    (hu : (i, u) ∈ s.activeLanes w) : t = u := by
  obtain ⟨x, hx, hxt, -⟩ := mem_activeLanes.1 ht
  obtain ⟨y, hy, hyu, -⟩ := mem_activeLanes.1 hu
  cases hx.symm.trans hy
  exact Option.some.inj (hxt.symm.trans hyu)

theorem getLsbD_laneMask {l : List Nat} {i : Nat} (hi : i < 32) : (laneMask l).getLsbD i = true ↔ i ∈ l := by
  have key : ∀ (l : List Nat) (m : BitVec 32),
      (l.foldl (fun m i => m ||| BitVec.ofNat 32 (2 ^ i)) m).getLsbD i = true ↔ m.getLsbD i = true ∨ i ∈ l := by
    intro l
    induction l with
    | nil => simp
    | cons j l ih =>
      intro m
      rw [List.foldl_cons, ih, BitVec.getLsbD_or, BitVec.getLsbD_ofNat, Nat.testBit_two_pow, List.mem_cons]
      simp only [hi, decide_true, Bool.true_and, Bool.or_eq_true, decide_eq_true_eq, or_assoc, eq_comm (a := j)]
  rw [laneMask, key]
  simp

/-! ### The issue address and the oldest waiting group -/

/-- The lanes among which a weft chooses its issue address are those of its override set, if it has any (R26). -/
theorem mem_chosen {s : State} {w : Weft} {p : Nat × Thread} :
    p ∈ (if (overridden w (s.activeLanes w)).isEmpty then s.activeLanes w else overridden w (s.activeLanes w)) ↔
      p ∈ s.activeLanes w ∧ ((∃ q ∈ s.activeLanes w, w.ovr.getLsbD q.1 = true) → w.ovr.getLsbD p.1 = true) := by
  have hover : ∀ q, q ∈ overridden w (s.activeLanes w) ↔ q ∈ s.activeLanes w ∧ w.ovr.getLsbD q.1 = true :=
    fun q => List.mem_filter
  by_cases h : ∃ q ∈ s.activeLanes w, w.ovr.getLsbD q.1 = true
  · obtain ⟨q, hq⟩ := h
    have hne : (overridden w (s.activeLanes w)).isEmpty = false :=
      List.isEmpty_eq_false_iff.2 (List.ne_nil_of_mem ((hover q).2 hq))
    rw [hne, if_neg Bool.false_ne_true, hover]
    exact and_congr_right fun _ => ⟨fun h _ => h, fun h => h ⟨q, hq⟩⟩
  · have hnil : (overridden w (s.activeLanes w)).isEmpty = true := by
      rw [List.isEmpty_iff, List.eq_nil_iff_forall_not_mem]
      exact fun q hq => h ⟨q, (hover q).1 hq⟩
    rw [hnil, if_pos rfl]
    exact ⟨fun hp => ⟨hp, fun h' => absurd h' h⟩, And.left⟩

open Sys2Proof.Claims in
theorem issueAddress_iff (s : State) (w : Weft) (a : Word) : s.issueAddress w = some a ↔ IssuesAt s w a := by
  rw [State.issueAddress, lowestPc_eq_some_iff]
  simp only [mem_chosen, IssuesAt, and_imp, and_assoc]

open Sys2Proof.Claims in
theorem stalled_iff (s : State) (w : Weft) : s.stalled w = true ↔ 16 ≤ w.stall ∧ IssuesAt s w w.stallPc := by
  rw [State.stalled, Bool.and_eq_true, decide_eq_true_eq, ← issueAddress_iff]
  refine and_congr_right fun _ => ?_
  cases s.issueAddress w <;> simp

/-- The lanes of a weft that stalls, by their positions. -/
def stalledLanes (s : State) (w : Weft) : List Nat :=
  ((s.activeLanes w).filter fun p => p.2.pc == w.stallPc).map (·.1)

/-- The other lanes of a weft that stalls stand at other addresses. -/
theorem mem_others {s : State} {w : Weft} {p : Nat × Thread} :
    p ∈ (s.activeLanes w).filter (fun p => !(stalledLanes s w).contains p.1) ↔
      p ∈ s.activeLanes w ∧ p.2.pc ≠ w.stallPc := by
  rw [List.mem_filter]
  refine and_congr_right fun hp => ?_
  have : p.1 ∈ stalledLanes s w ↔ p.2.pc = w.stallPc := by
    simp only [stalledLanes, List.mem_map, List.mem_filter, beq_iff_eq]
    constructor
    · rintro ⟨⟨i, t⟩, ⟨hq, e⟩, rfl⟩
      rwa [activeLanes_unique hq hp] at e
    · exact fun e => ⟨p, ⟨hp, e⟩, rfl⟩
  simp [this]

open Sys2Proof.Claims in
/-- The lanes of the oldest waiting group of a weft that stalls (R26). -/
theorem mem_oldestWaiting {s : State} {w : Weft} {p : Nat × Thread} :
    p ∈ s.oldestWaiting w (stalledLanes s w) ↔ p ∈ s.activeLanes w ∧ OldestAt s w w.stallPc p.2.pc := by
  have hbest : ∀ q, q ∈ ((s.activeLanes w).filter fun p => !(stalledLanes s w).contains p.1).filter (fun p =>
        p.2.age == greatestAge ((s.activeLanes w).filter fun p => !(stalledLanes s w).contains p.1)) ↔
      q ∈ s.activeLanes w ∧ q.2.pc ≠ w.stallPc ∧ ∀ r ∈ s.activeLanes w, r.2.pc ≠ w.stallPc → r.2.age ≤ q.2.age := by
    intro q
    rw [List.mem_filter, mem_others, and_assoc, beq_iff_eq]
    refine and_congr_right fun hq => and_congr_right fun hpc => ⟨fun e r hr hrpc => ?_, fun h => ?_⟩
    · rw [e]
      exact le_greatestAge (mem_others.2 ⟨hr, hrpc⟩)
    · obtain ⟨r, hr, e⟩ := greatestAge_attained (mem_others.2 ⟨hq, hpc⟩)
      obtain ⟨hr, hrpc⟩ := mem_others.1 hr
      exact le_antisymm (le_greatestAge (mem_others.2 ⟨hq, hpc⟩)) (e ▸ h r hr hrpc)
  have hoa : ∀ a, lowestPc (((s.activeLanes w).filter fun p => !(stalledLanes s w).contains p.1).filter fun p =>
        p.2.age == greatestAge ((s.activeLanes w).filter fun p => !(stalledLanes s w).contains p.1)) = some a ↔
      OldestAt s w w.stallPc a := fun a => by
    rw [lowestPc_eq_some_iff]
    simp only [hbest, OldestAt]
  simp only [State.oldestWaiting]
  split
  · next h =>
    refine ⟨fun hp => absurd hp List.not_mem_nil, fun hp => ?_⟩
    rw [← hoa, h] at hp
    cases hp.2
  · next a h =>
    rw [List.mem_filter, beq_iff_eq, ← hoa, h, Option.some.injEq]
    exact and_congr_right fun _ => eq_comm

/-! ### The traps of the fetch (R54) -/

/-- A trap at an instruction's own address needs nothing of the instruction. -/
theorem takeTrap_fields (s : State) (tid : Nat) (f g : Fields) (tr : Trap) (irrev : Bool) :
    takeTrap s tid f tr irrev false = takeTrap s tid g tr irrev false := rfl

open Sys2Proof.Claims in
theorem fetchTraps_of {i : Instr} {tr : Trap} (h : ∀ s, exec i s = trapAll tr s) : FetchTraps i tr := by
  intro s ls hg
  rw [h, trapAll, hg.lanes]
  refine ⟨fun hw f => ?_, fun hw => if_pos ?_⟩
  · rw [if_neg (by simpa using hw)]
    rfl
  · simpa using hw

end Sys2Proof.Machine

open Sys2Proof Sys2Proof.Machine Sys2Proof.Claims

/-- Settles O47: the issue address and the oldest waiting group are those that R26 names, whatever the weft holds. -/
theorem overridesAndFetchTraps : Obligations.OverridesAndFetchTraps := by
  refine ⟨issueAddress_iff, fun s core slot w hw => ⟨fun hdue => ?_, fun hnot => ?_, fun hdue => ?_, fun hnot => ?_⟩,
    fun raw => fetchTraps_of fun _ => rfl, fun adr c hc => ?_⟩
  · refine ⟨laneMask ((s.oldestWaiting w (stalledLanes s w)).map (·.1)), ?_, fun i hi =>
      (getLsbD_laneMask hi).trans ?_⟩
    · change Host.Outcome.next ((tryStallYield core slot s).getD s) = _
      simp only [tryStallYield, hw, (stalled_iff s w).2 hdue, if_true]
      rfl
    · simp only [List.mem_map, mem_oldestWaiting, Prod.exists, exists_and_right, exists_eq_right]
  · have hs : s.stalled w = false := by
      rw [← Bool.not_eq_true, stalled_iff, not_and_or, Nat.not_le]
      exact hnot
    change Host.Outcome.next ((tryStallYield core slot s).getD s) = _
    simp [tryStallYield, hw, hs]
  · change Host.Outcome.next ((tryOverrideLimit core slot s).getD s) = _
    simp only [tryOverrideLimit, hw]
    rw [if_pos hdue]
    rfl
  · change Host.Outcome.next ((tryOverrideLimit core slot s).getD s) = _
    simp only [tryOverrideLimit, hw]
    rw [if_neg (by rw [not_and_or, not_not, Nat.not_le]; exact hnot)]
    rfl
  · simp only [List.mem_cons, List.not_mem_nil, or_false] at hc
    rcases hc with rfl | rfl | rfl <;> exact fetchTraps_of fun _ => rfl

end

section
/-! SUPPORT. Who takes a signal (R392, R393): the oldest takeable word, an instruction that takes none, and lanes that
leave their weft for one. -/

namespace Sys2Proof.Machine

open Sys2Proof.Claims

/-! ### The oldest takeable word -/

theorem dropAt_below {α : Type} (l : List α) {i k : Nat} (h : i < k) : dropAt [i] k l = l := by
  induction l generalizing k with
  | nil => rfl
  | cons a l ih =>
    have : [i].contains k = false := by simp; omega
    rw [dropAt, this, if_neg Bool.false_ne_true, ih (by omega)]

theorem dropAt_length {α : Type} (xs ys : List α) (w : α) (k : Nat) :
    dropAt [k + xs.length] k (xs ++ w :: ys) = xs ++ ys := by
  induction xs generalizing k with
  | nil =>
    have : [k + ([] : List α).length].contains k = true := by simp
    rw [List.nil_append, dropAt, this, if_pos rfl]
    exact dropAt_below ys (Nat.lt_succ_self k)
  | cons x xs ih =>
    have : [k + (x :: xs).length].contains k = false := by simp
    rw [List.cons_append, dropAt, this, if_neg Bool.false_ne_true, List.length_cons,
      show k + (xs.length + 1) = k + 1 + xs.length by omega, ih, List.cons_append]

/-- The first element with a property, found by its place. -/
theorem findSome?_range_iff {α : Type} {P : α → Bool} {l : List α} {g : Nat → Nat} {j : Nat} {w : α} :
    (List.range l.length).findSome? (fun i => (l[i]?).bind fun w => if P w then some (g i, w) else none) = some (j, w) ↔
      ∃ xs ys, l = xs ++ w :: ys ∧ j = g xs.length ∧ P w = true ∧ ∀ x ∈ xs, P x = false := by
  induction l generalizing g with
  | nil => simp
  | cons a l ih =>
    rw [List.length_cons, List.range_succ_eq_map, List.findSome?_cons, List.findSome?_map]
    cases ha : P a with
    | true =>
      simp only [List.getElem?_cons_zero, Option.bind_some, ha, if_true, Option.some.injEq, Prod.mk.injEq]
      constructor
      · rintro ⟨rfl, rfl⟩
        exact ⟨[], l, rfl, rfl, ha, fun x hx => absurd hx List.not_mem_nil⟩
      · rintro ⟨xs, ys, e, hj, hw, hxs⟩
        cases xs with
        | nil => exact ⟨hj.symm, (List.cons.inj e).1⟩
        | cons x xs =>
          have := hxs x List.mem_cons_self
          rw [← (List.cons.inj e).1, ha] at this
          cases this
    | false =>
      simp only [List.getElem?_cons_zero, Option.bind_some, ha, Bool.false_eq_true, if_false, Function.comp_def,
        Nat.succ_eq_add_one, List.getElem?_cons_succ]
      rw [ih (g := fun i => g (i + 1))]
      constructor
      · rintro ⟨xs, ys, rfl, rfl, hw, hxs⟩
        refine ⟨a :: xs, ys, rfl, rfl, hw, fun x hx => ?_⟩
        rcases List.mem_cons.1 hx with rfl | hx
        · exact ha
        · exact hxs x hx
      · rintro ⟨xs, ys, e, hj, hw, hxs⟩
        cases xs with
        | nil =>
          rw [(List.cons.inj e).1, hw] at ha
          cases ha
        | cons x xs =>
          exact ⟨xs, ys, (List.cons.inj e).2, hj, hw,
            fun y hy => hxs y (List.mem_cons_of_mem _ hy)⟩

theorem takeable_eq_some_iff {t : Thread} {i : Nat} {w : Word} : t.takeable = some (i, w) ↔
    t.plvl = .user ∧ ∃ xs ys, t.inbox = xs ++ w :: ys ∧ i = xs.length ∧ t.unblocked w = true ∧
      ∀ x ∈ xs, t.unblocked x = false := by
  have hfind : t.takeable = if t.plvl ≠ .user then none else (List.range t.inbox.length).findSome? fun i =>
      (t.inbox[i]?).bind fun w => if t.unblocked w then some (id i, w) else none := by
    unfold Thread.takeable
    congr 2
    funext i
    cases t.inbox[i]? <;> rfl
  rw [hfind]
  by_cases hl : t.plvl = .user
  · rw [if_neg (not_not.2 hl), findSome?_range_iff]
    simp [hl]
  · simp [hl]

/-- A word that a thread may take is the one that the model finds, with its place (R392). -/
theorem takes_iff {t : Thread} {w : Word} {rest : List Word} : Takes t w rest ↔
    ∃ i, t.takeable = some (i, w) ∧ rest = dropAt [i] 0 t.inbox := by
  have hmask : ∀ x : Word, (t.sigmask.getLsbD (x.toNat % 2 ^ 6) = !t.unblocked x) := fun x => by
    simp [Thread.unblocked, signalNum, bitsAt]
  simp only [takeable_eq_some_iff, Takes, hmask, Bool.not_eq_false', Bool.not_eq_true']
  constructor
  · rintro ⟨hl, xs, ys, e, rfl, hw, hxs⟩
    refine ⟨xs.length, ⟨hl, xs, ys, e, rfl, hw, hxs⟩, ?_⟩
    have := dropAt_length xs ys w 0
    rw [Nat.zero_add] at this
    rw [e, this]
  · rintro ⟨i, ⟨hl, xs, ys, e, rfl, hw, hxs⟩, hr⟩
    refine ⟨hl, xs, ys, e, ?_, hw, hxs⟩
    have := dropAt_length xs ys w 0
    rw [Nat.zero_add] at this
    rw [hr, e, this]

theorem takeable_isSome_iff {t : Thread} : t.takeable.isSome = true ↔ ∃ w rest, Takes t w rest := by
  rw [Option.isSome_iff_exists]
  constructor
  · rintro ⟨⟨i, w⟩, h⟩
    exact ⟨w, _, takes_iff.2 ⟨i, h, rfl⟩⟩
  · rintro ⟨w, rest, h⟩
    obtain ⟨i, h, -⟩ := takes_iff.1 h
    exact ⟨_, h⟩

/-! ### Instructions that take no signal -/

theorem deaf_iff {t : Thread} : t.deaf = true ↔ Deaf t := by
  rw [Thread.deaf, Deaf]
  cases t.wait <;> simp

/-- What an instruction keeps of its wait makes it one that takes no signal (R395). -/
theorem kept_of_not_deaf {t : Thread} (h : ¬ Deaf t) : t.wait.kept = .none := by
  rw [Deaf] at h
  cases hw : t.wait <;> simp_all [Wait.kept]

/-- A thread that is taken from an instruction which may be taken back has done nothing there (R392). -/
theorem interrupted_eq {t u : Thread} (h : ¬ Deaf t) (hu : u = (match t.sub with
    | .mwait => { t with sub := .active, wait := .none }
    | .barrier _ => { t with
        regs := Vector.ofFn fun i => if t.carry.getLsbD i.val then t.regs[i] else Reg.zero
        sub := .active
        retPoint := t.pc }
    | _ => { t with wait := .none })) : t.interrupted = u := by
  rw [hu, Thread.interrupted, Thread.carryOnly, kept_of_not_deaf h] <;> rfl

/-- Being taken from an instruction changes no pc, level or inbox. -/
theorem interrupted_keeps (t : Thread) :
    t.interrupted.plvl = t.plvl ∧ t.interrupted.inbox = t.inbox ∧ t.interrupted.pc = t.pc := by
  unfold Thread.interrupted Thread.carryOnly
  split <;> exact ⟨rfl, rfl, rfl⟩

theorem called_iff {s : State} {t : Thread} : s.called t = true ↔ CalledAway s t := by
  have he : s.evicting t = true ↔ ∃ b, t.bolt.bind s.bolt? = some b ∧ b.evicting = true := by
    rw [State.evicting]
    cases t.bolt.bind s.bolt? <;> simp
  have hd : t.deaf = false ↔ ¬ Deaf t := by rw [← deaf_iff, Bool.not_eq_true]
  have hs : (t.sub != .extractParked) = true ↔ t.sub ≠ .extractParked := bne_iff_ne
  simp only [State.called, Bool.and_eq_true, Bool.not_eq_true', hs, hd, takeable_isSome_iff, CalledAway, ← he,
    Bool.not_eq_true]
  tauto

theorem called_eq (t : Thread) : t.called = calledAway t := rfl

@[simp] theorem called_tid (t : Thread) : t.called.tid = t.tid := rfl

/-- Threads that are each set once are as they were set, and the others as they were. -/
theorem thread?_foldl_putThread {g : Thread → Thread} (hg : ∀ t, (g t).tid = t.tid) {l : List Thread} {s : State}
    {t : Thread} (hl : ∀ u ∈ l, u.tid = t.tid → u = t) :
    (t ∈ l → (l.foldl (fun s u => s.putThread (g u)) s).thread? t.tid = some (g t)) ∧
    (t ∉ l → (l.foldl (fun s u => s.putThread (g u)) s).thread? t.tid = s.thread? t.tid) := by
  induction l generalizing s with
  | nil => exact ⟨fun h => absurd h List.not_mem_nil, fun _ => rfl⟩
  | cons u l ih =>
    obtain ⟨h1, h2⟩ := ih (s := s.putThread (g u)) fun v hv => hl v (List.mem_cons_of_mem _ hv)
    refine ⟨fun h => ?_, fun h => ?_⟩
    · by_cases ht : t ∈ l
      · exact h1 ht
      · obtain rfl := (List.mem_cons.1 h).resolve_right ht
        rw [List.foldl_cons, h2 ht, ← hg t, State.thread?_putThread_same]
    · have hne : u.tid ≠ t.tid := fun e => h (hl u List.mem_cons_self e ▸ List.mem_cons_self)
      rw [List.foldl_cons, h2 fun ht => h (List.mem_cons_of_mem _ ht),
        State.thread?_putThread_other _ (by rwa [hg])]

theorem memberThreads_held {s : State} {w : Weft} (hk : Keyed s) {t : Thread} (h : t ∈ s.memberThreads w) :
    s.thread? t.tid = some t := by
  obtain ⟨p, -, hp⟩ := List.mem_filterMap.1 h
  rwa [hk _ _ hp]

/-- Taking a signal on a latency core (R385, R392). -/
theorem trySignalTake_of {s : State} {core : Nat} {t : Thread} {w : Word} {rest : List Word}
    (hcur : (s.lcore core).cur = some t.tid) (hs : s.thread? t.tid = some t) (hh : (s.lcore core).halted = false)
    (ht : Takes t w rest) (hd : ¬ Deaf t) (hl : s.loadsDone t.tid = true) : trySignalTake core s =
      some (s.putThread (handled s { t.interrupted with inbox := rest } ⟨.signal, w, false⟩ t.pc false)) := by
  obtain ⟨i, hi, rfl⟩ := takes_iff.1 ht
  have hd' : t.deaf = false := by rw [← Bool.not_eq_true, deaf_iff]; exact hd
  obtain ⟨hp, -, hpc⟩ := interrupted_keeps t
  rw [← enterHandler_supervisor s core ⟨.signal, w, false⟩ t.pc (t := { t.interrupted with inbox := dropAt [i] 0 t.inbox })
    Cause.noConfusion (hp.trans ht.1)]
  simp only [trySignalTake, hh, hcur, Option.bind_some, hs, hi, hd', hl, Bool.false_eq_true, if_false, Bool.not_true,
    Bool.or_self, hpc]

theorem trySignalTake_none {s : State} {core : Nat} {t : Thread} (hcur : (s.lcore core).cur = some t.tid)
    (hs : s.thread? t.tid = some t) (h : (s.lcore core).halted = true ∨ (∀ w rest, ¬ Takes t w rest) ∨ Deaf t ∨
      s.loadsDone t.tid = false) : trySignalTake core s = none := by
  simp only [trySignalTake, hcur, Option.bind_some, hs]
  cases hh : (s.lcore core).halted
  · rw [if_neg Bool.false_ne_true]
    cases hi : t.takeable with
    | none => rfl
    | some x =>
      have ht : ∃ w rest, Takes t w rest := takeable_isSome_iff.1 (by rw [hi]; rfl)
      obtain ⟨w, rest, ht⟩ := ht
      have : (t.deaf || !s.loadsDone t.tid) = true := by
        rw [Bool.or_eq_true, deaf_iff, Bool.not_eq_true']
        exact ((h.resolve_left (by simp [hh])).resolve_left fun hn => hn w rest ht)
      simp only [this, if_true]
  · rfl

theorem laneOf_slot {s : State} {core slot : Nat} {lane : Fin 32} {w : Weft} {t : Thread}
    (hw : s.weft? core slot = some w) (hl : w.lanes[lane] = some t.tid) (hs : s.thread? t.tid = some t) :
    ((s.weft? core slot).bind fun w => (w.lanes.toList[lane.val]?).getD none).bind s.thread? = some t := by
  have : w.lanes.toList[lane.val]? = some (some t.tid) := by
    rw [← hl]
    simp
  rw [hw, Option.bind_some, this, Option.getD_some, Option.bind_some, hs]

end Sys2Proof.Machine

open Sys2Proof Sys2Proof.Machine Sys2Proof.Claims

/-- Settles O48: the word that a thread takes is the oldest that its mask lets through, and a lane is called away exactly
when it may take one. -/
theorem signalsTaken : Obligations.SignalsTaken := by
  refine ⟨fun s core t hcur hs => ⟨fun w rest hh ht hd hl u hu => ?_, fun h => ?_⟩,
    fun s core slot lane w t hw hl hs => ⟨fun h => ?_, fun h => ?_⟩, fun s w hk t ht => ?_, fun s t v hs => ?_⟩
  · change Host.Outcome.next ((trySignalTake core s).getD s) = _
    rw [trySignalTake_of hcur hs hh ht hd hl, interrupted_eq hd hu]
    rfl
  · change Host.Outcome.next ((trySignalTake core s).getD s) = _
    rw [trySignalTake_none hcur hs h]
    rfl
  · change Host.Outcome.next ((trySignalExtraction core slot lane s).getD s) = _
    simp only [trySignalExtraction, laneOf_slot hw hl hs, called_iff.2 h, if_true, Option.getD_some, called_eq]
  · change Host.Outcome.next ((trySignalExtraction core slot lane s).getD s) = _
    have : s.called t = false := by rw [← Bool.not_eq_true, called_iff]; exact h
    simp only [trySignalExtraction, laneOf_slot hw hl hs, this]
    rfl
  · have hs := memberThreads_held hk ht
    have hl : ∀ u ∈ (s.memberThreads w).filter s.called, u.tid = t.tid → u = t := fun u hu e =>
      Option.some.inj ((memberThreads_held hk (List.mem_of_mem_filter hu)).symm.trans (e ▸ hs))
    obtain ⟨h1, h2⟩ := thread?_foldl_putThread (s := s) (g := Thread.called) (fun _ => rfl) hl
    refine ⟨fun h => h1 (List.mem_filter.2 ⟨ht, called_iff.2 h⟩), fun h => (h2 fun hm => h ?_).trans hs⟩
    exact called_iff.1 (List.mem_filter.1 hm).2
  · exact congrArg Host.Outcome.next (State.modThread_of s hs _)

end

section
/-! SUPPORT. From a turn to the instruction that it runs (R26, R54, R153, R155): the issue of a latency core, the cycle of
a slice, and the bytes that a fetch gives. -/

namespace Sys2Proof.Machine

open Sys2Proof.Claims

/-! ### What an issue runs -/

section

variable {s k : State} {t : Thread} {bs : List Byte}

theorem runIssue_code {i : Instr} {more : List Byte} (hh : s.issueHead = some t)
    (hf : fetchAt s s.cur.core t.pid t.pc t.plvl = .code k bs) (hd : decode bs = .ok (i, more)) :
    runIssue s = exec i k := by
  simp only [runIssue, prepare, hh, hf, hd]

theorem runIssue_illegal {e : DecodeError} (hh : s.issueHead = some t)
    (hf : fetchAt s s.cur.core t.pid t.pc t.plvl = .code k bs) (hd : decode bs = .error e) :
    runIssue s = exec (.illegalInstruction (BitVec.ofNat 64 (leNat (bs.take 8)))) k := by
  simp only [runIssue, prepare, hh, hf, hd]
  rfl

end

theorem issueHead_latency {s : State} {c : Nat} {t : Thread} (hc : s.cur = .latency c)
    (hcur : (s.lcore c).cur = some t.tid) (ht : s.thread? t.tid = some t) : s.issueHead = some t := by
  simp [State.issueHead, State.issueLanes, State.runLanes, hc, hcur, ht]

/-- A latency core whose thread is active and takes no trap or signal issues (R155, R392). -/
theorem issueLatency_runs {s : State} {c : Nat} {t : Thread} (hcur : (s.lcore c).cur = some t.tid)
    (hh : (s.lcore c).halted = false) (ht : s.thread? t.tid = some t) (ha : t.sub = .active) (he : t.entry = none)
    (hs : (∀ w more, ¬ Takes t w more) ∨ Deaf t) : issueLatency c s = runIssue (s.ready (.latency c)) := by
  have hsig : trySignalTake c s = none := trySignalTake_none hcur ht (.inr (hs.imp_right .inl))
  have hkeep : (t.takeable.isSome && !t.deaf) = false := by
    rcases hs with hn | hd
    · have : t.takeable.isSome = false := by
        rw [← Bool.not_eq_true, takeable_isSome_iff]
        exact fun ⟨w, rest, h⟩ => hn w rest h
      rw [this, Bool.false_and]
    · rw [deaf_iff.2 hd, Bool.not_true, Bool.and_false]
  simp [issueLatency, hcur, ht, hh, State.takesEntry, he, hsig, Thread.active, ha, hkeep]

theorem step_turn {s : State} {t : Turn} {rest : List Turn} (ho : s.off = false) (ha : s.agenda = t :: rest) :
    step s = runTurn t { s with agenda := rest } := by
  simp only [step, ho, Bool.false_eq_true, if_false, runStep, ha]

/-! ### The cycle of a slice -/

/-- A slot whose weft does not run is passed over (R153). -/
theorem examine_idle {s : State} {c slot : Nat}
    (h : ∀ v, s.weft? c slot = some v → v.wstate ≠ .running ∨ v.held = false) : examine c slot s = .passed s := by
  unfold examine
  cases hw : s.weft? c slot with
  | none => rfl
  | some v =>
    have : s.weftRuns c v = false := by
      rcases h v hw with hs | hh
      · simp [State.weftRuns, hs]
      · simp [State.weftRuns, hh]
    simp only [this, Bool.not_false, if_true]

theorem issueFirst_idle {s : State} {c : Nat} {pre post : List Nat}
    (h : ∀ x ∈ pre, ∀ v, s.weft? c x = some v → v.wstate ≠ .running ∨ v.held = false) :
    issueFirst c (pre ++ post) s = issueFirst c post s := by
  induction pre with
  | nil => rfl
  | cons x pre ih =>
    rw [List.cons_append, issueFirst, examine_idle (h x List.mem_cons_self)]
    exact ih fun y hy => h y (List.mem_cons_of_mem _ hy)

theorem callLanes_none {s : State} {w : Weft} (h : ∀ u ∈ s.memberThreads w, ∀ x ys, ¬ Takes u x ys) :
    s.callLanes w = s := by
  have : (s.memberThreads w).filter s.called = [] := by
    rw [List.filter_eq_nil_iff]
    intro u hu hc
    obtain ⟨⟨x, ys, ht⟩, -⟩ := called_iff.1 hc
    exact h u hu x ys ht
  rw [State.callLanes, this]
  rfl

theorem trimOverride_same {s : State} {w : Weft} (h : w.ovr = 0 ∨ ∃ p ∈ s.activeLanes w, w.ovr.getLsbD p.1 = true) :
    s.trimOverride w = w := by
  unfold State.trimOverride
  split_ifs with he
  · rcases h with h | ⟨p, hp, hb⟩
    · rw [← h]
    · exact absurd (List.isEmpty_iff.1 he) (List.ne_nil_of_mem (List.mem_filter.2 ⟨hp, hb⟩))
  · rfl

theorem weftRuns_true {s : State} {c : Nat} {w : Weft} {b : Bolt} (hw : w.wstate = .running) (hh : w.held = true)
    (hc : (s.wcore c).halted = false) (hb : s.bolt? w.bolt = some b) (hr : b.bstate = .resident)
    (he : b.evicting = false) : s.weftRuns c w = true := by
  simp [State.weftRuns, hw, hh, hc, hb, hr, he]

theorem activeLanes_putWeft (s : State) (c slot : Nat) (v w : Weft) :
    (s.putWeft c slot v).activeLanes w = s.activeLanes w := rfl

/-- A weft whose override set has a lane left, or none at first, that does not stall (R26). -/
theorem tryStallYield_none {s : State} {c slot : Nat} {w : Weft} {a : Word} (ha : IssuesAt s w a)
    (hs : ¬ (16 ≤ w.stall ∧ a = w.stallPc)) : tryStallYield c slot (s.putWeft c slot w) = none := by
  have hi : (s.putWeft c slot w).issueAddress w = some a := (issueAddress_iff s w a).2 ha
  have hn : ¬ (s.putWeft c slot w).stalled w = true := by
    rw [stalled_iff, ← issueAddress_iff, hi, Option.some_inj]
    exact hs
  cases hw : (s.putWeft c slot w).weft? c slot with
  | none => simp only [tryStallYield, hw]
  | some v =>
    have hv : v = w := by
      simpa [State.weft?, State.putWeft, tabGet_tabPut_same] using hw.symm
    subst hv
    simp only [tryStallYield, hw, if_neg hn]

/-- What the examination of a weft is, after its issue (R153). -/
noncomputable def examinedBy (c slot : Nat) (a : Word) (ls : List (Nat × Thread)) (r : Result) : Examined :=
  match r with
  | .next k =>
    if k.note.blocked then .passed (k.afterIssue c slot a ls) else .issues (.next ((k.noteSlot c slot).afterIssue c slot a ls))
  | r => .issues r

/-- The examination of a weft that runs, that no signal changes and that does not stall (R26, R153). -/
theorem examine_runs {s : State} {c slot : Nat} {w : Weft} {a : Word} (hw : s.weft? c slot = some w)
    (hr : s.weftRuns c w = true) (hm : ∀ u ∈ s.memberThreads w, ∀ x ys, ¬ Takes u x ys)
    (ho : w.ovr = 0 ∨ ∃ p ∈ s.activeLanes w, w.ovr.getLsbD p.1 = true) (ha : IssuesAt s w a)
    (hs : ¬ (16 ≤ w.stall ∧ a = w.stallPc)) : examine c slot s =
      examinedBy c slot a (s.activeLanes w) (runIssue ((s.putWeft c slot w).ready (.weft c slot a))) := by
  have hi : (s.putWeft c slot w).issueAddress w = some a := (issueAddress_iff s w a).2 ha
  simp only [examine, hw, hr, Bool.not_true, Bool.false_eq_true, if_false, callLanes_none hm, trimOverride_same ho,
    tryStallYield_none ha hs, hi]
  rfl

/-- A slice ends with the first weft that issues, and goes on past one that blocks (R153). -/
theorem issueFirst_runs {s : State} {c slot : Nat} {post : List Nat} {a : Word} {ls : List (Nat × Thread)} {r : Result}
    (h : examine c slot s = examinedBy c slot a ls r) :
    (∀ k, r = .next k → issueFirst c (slot :: post) s =
      if k.note.blocked then issueFirst c post (k.afterIssue c slot a ls)
      else .next ((k.noteSlot c slot).afterIssue c slot a ls)) ∧
    ((∀ k, r ≠ .next k) → issueFirst c (slot :: post) s = r) := by
  refine ⟨?_, fun hn => ?_⟩
  · rintro k rfl
    rw [issueFirst, h]
    cases hb : k.note.blocked <;> simp [examinedBy, hb]
  · rw [issueFirst, h]
    cases r with
    | next k => exact absurd rfl (hn k)
    | _ => rfl

/-! ### The bytes of a fetch -/

theorem lengthOf_pos (b : Nat) : 0 < lengthOf b := by
  unfold lengthOf
  cases formOf b with
  | none => decide
  | some f => cases f <;> decide

/-- The place of a fetch's first byte is that of its part (R55, R202). -/
theorem fetchPlace_one {s : State} {core pid va n pa : Nat} {l : Level} (h : fetchPlace s core pid va n l = .ok s pa) :
    fetchPlace s core pid va 1 l = .ok s pa := by
  unfold fetchPlace at h ⊢
  cases hv : canonicalWord (BitVec.ofNat 64 va)
  · simp [hv] at h
  simp only [hv, Bool.not_true, Bool.false_eq_true, if_false] at h ⊢
  cases ht : translate s core pid va .fetch l with
  | error t => simp [ht] at h
  | ok kt =>
    obtain ⟨k, t⟩ := kt
    simp only [ht] at h ⊢
    cases hp : k.place t.pa with
    | ram p =>
      simp only [hp, Nat.sub_self, Nat.add_zero] at h ⊢
      cases ho : k.ownCheck p with
      | ok =>
        simp only [ho] at h ⊢
        cases hq : k.ownCheck (p + (n - 1)) <;> simp_all
      | refused j => simp [ho] at h
      | wait j =>
        simp only [ho] at h
        cases hq : k.ownCheck (p + (n - 1)) <;> simp [hq] at h
    | remote p => simpa only [hp] using h
    | _ => simp [hp] at h

theorem bytesAt_plain {s : State} {pa n : Nat} (h : PlainRange s pa n) : s.bytesAt pa n = memBytes s.mem pa n := by
  induction n generalizing pa with
  | zero => rfl
  | succ n ih =>
    have hr : s.inRing pa = false := (h pa (le_refl _) (by omega)).1
    have htail := ih (pa := pa + 1) fun x hx hn => h x (by omega) (by omega)
    rw [memBytes, ← htail, State.bytesAt, List.range_succ_eq_map, List.map_cons, List.map_map]
    congr 1
    · simp [State.byteAt, hr]
    · exact List.map_congr_left fun i _ => congrArg s.byteAt (by simp; omega)

/-- A part of a fetch from plain memory that its core keeps no older bytes of (R55). -/
theorem fetchPart_plain {s : State} {core pid va n pa : Nat} {l : Level} (hp : fetchPlace s core pid va n l = .ok s pa)
    (hr : PlainRange s pa n) (hc : tabGet s.code core = none) (hz : s.poisonAt pa n = false) :
    fetchPart s core pid va n l = .code s (memBytes s.mem pa n) := by
  have hread : s.afterRead pa n = s := by
    rw [State.afterRead, if_neg]
    simp only [List.any_eq_true, List.mem_range, not_exists, not_and, Bool.not_eq_true]
    exact fun i hi => (hr (pa + i) (by omega) (by omega)).1
  simp only [fetchPart, hp, hz, Bool.false_eq_true, if_false, hread, State.codeAt, hc, bytesAt_plain hr]

theorem fetchAt_plain {s : State} {core pid pa : Nat} {pc : Word} {l : Level}
    (hp : fetchPlace s core pid pc.toNat (lengthOf (s.byteAt pa).toNat) l = .ok s pa)
    (hr : PlainRange s pa (lengthOf (s.byteAt pa).toNat)) (hc : tabGet s.code core = none)
    (hn : lengthOf (s.byteAt pa).toNat ≤ s.pageRest core pid pc.toNat)
    (hz : s.poisonAt pa (lengthOf (s.byteAt pa).toNat) = false) (h1 : s.poisonAt pa 1 = false) :
    fetchAt s core pid pc l = .code s (memBytes s.mem pa (lengthOf (s.byteAt pa).toNat)) := by
  have hpos := lengthOf_pos (s.byteAt pa).toNat
  have hfirst := fetchPart_plain (fetchPlace_one hp) (fun x hx hx1 => hr x hx (by omega)) hc h1
  have hb : memBytes s.mem pa 1 = [s.byteAt pa] := by
    simp [memBytes, State.byteAt, (hr pa (le_refl _) (by omega)).1]
  rw [hb] at hfirst
  simp only [fetchAt, hfirst, min_eq_left hn, fetchPart_plain hp hr hc hz, if_true]

end Sys2Proof.Machine

open Sys2Proof.Machine Sys2Proof.Claims

/-- Settles O56: a turn is examined up to its issue, whose fetch and decoding choose the instruction. -/
theorem stepRunsDecoded : Obligations.StepRunsDecoded := by
  refine ⟨fun s k c rest t bs hoff hag hcur hh ht _ ha he hs hf => ?_,
    ?_, fun s core pid pa pc l hp hr hc hn hz h1 => fetchAt_plain hp hr hc hn hz h1⟩
  · have hrun : step s = runIssue (({ s with agenda := rest } : State).ready (.latency c)) :=
      (step_turn hoff hag).trans (issueLatency_runs hcur hh ht ha he hs)
    have hhd : (({ s with agenda := rest } : State).ready (.latency c)).issueHead = some t :=
      issueHead_latency rfl hcur ht
    exact ⟨fun i more hd => hrun.trans (runIssue_code hhd hf hd), fun e hd => hrun.trans (runIssue_illegal hhd hf hd)⟩
  · intro s k c n slot pre post rest w b a m t bs i more hoff hag hord hpre hw hst hheld hh hb hres hev hm ho hia hns s0 s1
      hhead hf hd
    have hrun : runIssue (s0.ready (.weft c slot a)) = exec i k :=
      runIssue_code (t := t) (by rw [State.issueHead]; change s1.issueLanes.head?.map _ = _; rw [hhead]; rfl) hf hd
    have hstep : step s = issueFirst c (slot :: post) { s with agenda := rest } := by
      refine (step_turn hoff hag).trans ?_
      change issueFirst c (s.sliceOrder c n) _ = _
      rw [hord, issueFirst_idle]
      exact hpre
    have hex := examine_runs (s := { s with agenda := rest }) hw (weftRuns_true hst hheld hh hb hres hev) hm ho hia hns
    rw [hrun] at hex
    obtain ⟨hnext, hother⟩ := issueFirst_runs (post := post) hex
    exact ⟨fun k' hk => hstep.trans (hnext k' hk), fun hk => hstep.trans (hother hk)⟩

end

section
/-! SUPPORT. SIG and EVCT (R404 to R406): what each answers for one lane. -/

namespace Sys2Proof.Machine

open Sys2Proof.Claims

/-- An instruction whose body leaves a value in a general register answers it. -/
theorem answers_of {i : Instr} {r : OpRule} {f : Fields} {irrev : Bool} {body : Body} {need : State → Lane → Prop}
    {eff : State → Lane → State × Word} (hexec : ∀ s, exec i s = issue r f irrev (fun _ => none) false body s)
    (hrd : r.rd ≠ .reg)
    (hbody : ∀ s l, s.thread? l.tid = some l.thread → need s l → body s l = .value (eff s l).1 (eff s l).2) :
    Answers i r f irrev need eff := by
  refine runs_of hexec fun g l _ hh hn => ?_
  have hp := rd_none_push (f := f) hrd
  simp only [Issuing.lane, hbody g.all l hh hn, Issuing.result, hp, pushOf, Bool.false_eq_true, if_false,
    List.append_nil]

/-! ### SIG -/

theorem sigThreads_eq (s : State) (k : SigTarget) (v : Nat) : s.sigThreads k v = signalled s k v := rfl

theorem signalValid_eq_false {w : Word} : signalValid w = false ↔ w.toNat % 2 ^ 6 = 0 ∨ w.toNat / 2 ^ 6 % 2 ^ 10 ≠ 0 := by
  have : signalValid w = true ↔ ¬ (w.toNat % 2 ^ 6 = 0 ∨ w.toNat / 2 ^ 6 % 2 ^ 10 ≠ 0) := by
    simp [signalValid, signalNum, bitsAt]
  rw [← Bool.not_eq_true, this, not_not]

theorem sysRefusal_eq (c : Nat) : sysRefusal c = refused c := by
  have h : (2 ^ 63 : Word) = 9223372036854775808#64 := by decide +kernel
  have hp : (2 : Nat) ^ 63 = 9223372036854775808 := by norm_num
  rw [sysRefusal, refused, hp, BitVec.ofNat_add, h]

theorem sigLane_lost {k : SigTarget} {s : State} {l : Lane} {v : Word} (h : l.thread.lost = some v) :
    sigLane k s l = .trap ⟨.mchk, v, true⟩ false := by
  simp [sigLane, lostTrap, h]

theorem sigLane_waits {k : SigTarget} {s : State} {l : Lane} (h : l.thread.lost = none) (hp : s.performed l.tid = false) :
    sigLane k s l = .wait id := by
  simp [sigLane, lostTrap, h, hp]

/-- The refusals of a SIG, in the order of R405. -/
theorem sigRefusal_eq {k : SigTarget} {me : Thread} {ts : List Thread} {w : Word} : sigRefusal k me ts w =
    if w.toNat % 2 ^ 6 = 0 ∨ w.toNat / 2 ^ 6 % 2 ^ 10 ≠ 0 then some 3
    else if ts = [] then some 1
    else if me.plvl = .user ∧ ∃ t ∈ ts, t.pid ≠ me.pid then some 2
    else if k = .thread ∧ ts.filter (fun t => t.inbox.length < 64) = [] then some 4
    else none := by
  have hroom : (k = .thread ∧ (ts.all fun t => decide (64 ≤ t.inbox.length)) = true) ↔
      k = .thread ∧ ts.filter (fun t => t.inbox.length < 64) = [] := by
    simp [List.filter_eq_nil_iff]
  have hpid : (me.plvl = .user ∧ (ts.any fun t => t.pid != me.pid) = true) ↔
      me.plvl = .user ∧ ∃ t ∈ ts, t.pid ≠ me.pid := by simp
  unfold sigRefusal
  simp only [Bool.not_eq_true', signalValid_eq_false, List.isEmpty_iff, hpid, hroom]

theorem sigLane_answers {k : SigTarget} {s : State} {l : Lane} (h : l.thread.lost = none) (hp : s.performed l.tid = true) :
    sigLane k s l = .value (signals k s l).1 (signals k s l).2 := by
  simp only [sigLane, lostTrap, h, hp, Option.map_none, Bool.not_true, Bool.false_eq_true, if_false, sysRefusal_eq,
    sigThreads_eq, sigRefusal_eq, signals]
  split_ifs <;> rfl

/-! ### EVCT -/

section

variable {k : EvctTarget} {s : State} {l : Lane}

theorem evctLane_waits {ks : List (Nat × Nat)} (h : l.thread.wait = .evct ks) (hx : ∃ x ∈ ks, s.leavingFlock x = true) :
    evctLane k s l = .wait id := by
  have : ks.any s.leavingFlock = true := List.any_eq_true.2 hx
  simp only [evctLane, h, this, if_true]

theorem evctLane_done {ks : List (Nat × Nat)} (h : l.thread.wait = .evct ks) (hx : ∀ x ∈ ks, s.leavingFlock x = false) :
    evctLane k s l = .value (s.modThread l.tid fun t => { t with wait := .none }) (BitVec.ofNat 64 ks.length) := by
  have : ks.any s.leavingFlock = false := by simpa [List.any_eq_false] using hx
  simp only [evctLane, h, this, Bool.false_eq_true, if_false]

variable (h : ∀ ks, l.thread.wait ≠ .evct ks)
include h

theorem evctLane_refused (he : s.evctExists k l.a.toNat = false) : evctLane k s l = .value s (refused 1) := by
  unfold evctLane
  split
  · next ks hw => exact absurd hw (h ks)
  · simp only [he, Bool.not_false, if_true, sysRefusal_eq]

theorem evctLane_nothing (he : s.evctExists k l.a.toNat = true) (hn : evicted k s l = []) :
    evctLane k s l = .value (if k = .context then s.clearContext l.a.toNat else s) 0 := by
  have hn' : s.evctFlocks k l.a.toNat = [] := hn
  unfold evctLane
  split
  · next ks hw => exact absurd hw (h ks)
  · simp [he, hn', State.beginEvct]

theorem evctLane_begins (he : s.evctExists k l.a.toNat = true) (hn : evicted k s l ≠ []) :
    evctLane k s l = .wait fun z => (z.beginEvct k l.a.toNat).modThread l.tid fun t =>
      { t with wait := .evct (evicted k s l) } := by
  have hn' : (s.evctFlocks k l.a.toNat).isEmpty = false := by simpa [evicted] using hn
  unfold evctLane
  split
  · next ks hw => exact absurd hw (h ks)
  · simp [he, hn', evicted]

end

/-- An EVCT whose meaning is its body with a target. -/
theorem evicts_of {i : Instr} {f : Fields} {k : EvctTarget}
    (hexec : ∀ s, exec i s = issue (rDst1.at 1) f false (fun _ => none) false (evctLane k) s) : Evicts i f k := by
  refine ⟨answers_of hexec (by decide) fun s l hh hn => ?_, fun s n t hr hf he hn => ⟨_, rfl, ?_⟩,
    waits_alone_of hexec fun s l _ _ ⟨ks, hw, hx⟩ => evctLane_waits hw hx⟩
  · rcases hn with ⟨hf, hn⟩ | ⟨ks, hw, hx⟩
    · split
      · next ks hw => exact absurd hw (hf ks)
      · cases he : s.evctExists k l.a.toNat with
        | false => exact evctLane_refused hf he
        | true => exact evctLane_nothing hf he (hn.resolve_left (by simp [he]))
    · rw [evctLane_done hw hx]
      simp only [hw]
  · rw [hexec, issue_wait_alone hr _ rfl _ (evctLane_begins hf he hn)]
    rfl

end Sys2Proof.Machine

open Sys2Proof Sys2Proof.Machine Sys2Proof.Claims

/-- Settles O44: SIG and EVCT each answer what their lane finds, wait, or trap before it. -/
theorem signalsAndEvictions : Obligations.SignalsAndEvictions := by
  have hsig : ∀ {i : Instr} {f : Fields} {k : SigTarget},
      (∀ s, exec i s = issue rDst2 f true (fun _ => none) false (sigLane k) s) →
      Answers i rDst2 f true (fun s l => l.thread.lost = none ∧ s.performed l.tid = true) (signals k) ∧
      TrapsAlone i rDst2 f true false (fun _ l => l.thread.lost.map fun v => ⟨.mchk, v, true⟩) false ∧
      WaitsAlone i rDst2 f true false fun s l => l.thread.lost = none ∧ s.performed l.tid = false := by
    intro i f k hexec
    refine ⟨answers_of hexec (by decide) fun s l _ hn => sigLane_answers hn.1 hn.2,
      traps_alone_of hexec fun s l tr _ _ hy => ?_, waits_alone_of hexec fun s l _ _ hy => sigLane_waits hy.1 hy.2⟩
    obtain ⟨v, hv, rfl⟩ := Option.map_eq_some_iff.1 hy
    exact sigLane_lost hv
  refine fun f => ⟨fun e he => ?_, fun e he => ?_⟩
  · simp only [List.mem_cons, List.not_mem_nil, or_false] at he
    rcases he with rfl | rfl | rfl
    · exact hsig fun _ => rfl
    · exact hsig fun _ => rfl
    · exact hsig fun _ => rfl
  · simp only [List.mem_cons, List.not_mem_nil, or_false] at he
    rcases he with rfl | rfl | rfl | rfl
    · exact evicts_of fun _ => rfl
    · exact evicts_of fun _ => rfl
    · exact evicts_of fun _ => rfl
    · exact evicts_of fun _ => rfl

end

section
/-! SUPPORT. Why O50 fails: its first part takes the threads of the state to stand under their own numbers, but not that
the slots of the core each stand in its table once, and a slot that is freed is deleted once. -/

namespace Sys2Proof.Claims.SlotListedTwice

open Sys2Proof.Machine

/-- A lane of a pack weft on its way to a latency core. -/
def lane : Thread :=
  { Thread.fresh 1 0 0x4000 .user with
    loc := .member 0 0 0, sub := .extractParked, leave := some (.latency none), bolt := some 1 }

/-- The pack weft, of which it is the only member. -/
def weft : Weft :=
  { bolt := 1, widx := 0, lanes := (Vector.replicate 32 none).set 0 (some 1), ovr := 0, ocount := 0, stall := 0,
    stallPc := 0, spass := 0, wstate := .running, blocks := 7, held := true, next := 0, carry := 0, reclaimed := false,
    ready := 0, eligible := false, waitQ := [] }

/-- Core 0 lists slot 0 twice. -/
def start : State :=
  { State.reset with
    threads := [(1, lane)]
    bolts := [(1, Bolt.packed 1 0 0 0)]
    wcores := [(0, { WCore.halted0 with slots := [(0, weft), (0, weft)] })] }

theorem start_keyed : Keyed start := fun n t h => by
  simp only [State.thread?, start, tabGet] at h
  split_ifs at h with h1
  cases h
  exact h1

/-- The weft that its last lane leaves is dissolved; its slot still holds the weft that the table lists behind it. -/
theorem weft_left : ∃ t, exec (.laneExtraction 0 0 0) start = .next t ∧ t.weft? 0 0 = some weft := ⟨_, rfl, by decide⟩

end Sys2Proof.Claims.SlotListedTwice

open Sys2Proof Sys2Proof.Machine Sys2Proof.Claims

open Sys2Proof.Claims.SlotListedTwice in
/-- Refutes O50: where a core's table lists a slot twice, the last lane of a pack weft leaves, its slot is deleted once,
and the weft that stands behind it in the table still names the lane. -/
theorem not_threadMoves : ¬ Obligations.ThreadMoves := by
  intro h
  obtain ⟨s', u, hs, -, -, -, -, -, -, -, -, -, -, hleft, -⟩ := (h.1 start 0 0 0 weft lane (.latency none) start_keyed rfl
    rfl rfl rfl rfl (by decide) (by simp [lane, Thread.fresh])).1 (.inl rfl) (by decide)
  obtain ⟨t, ht, hw⟩ := weft_left
  cases hs.symm.trans ht
  exact absurd (hleft weft hw) (by decide)

end

section
/-! SUPPORT. Issues by leaders (R291): for a leader that nothing stops, what its body says for every lane that shares its
outcome; then the issues of one leader, and of one leader for each quarter. -/

namespace Sys2Proof.Machine

open Sys2Proof.Claims

/-! ### One leader -/

/-- What a leader's outcome does for the lanes that share it. -/
def leadEnd (f : Fields) (tids : List Nat) (s : State) : Act → State
  | .done k => doneTids k f tids none
  | .value k v => doneTids k f tids (some v)
  | .trap t _ => if leadWaits s tids t then s.block else trapTids s f tids t
  | .trapAfter keep t => if leadWaits s tids t then s.block else trapTids (keep s) f tids t
  | .wait keep => (keep s).block
  | _ => s

section

variable {s : State} {r : OpRule} {f : Fields}

theorem leadTrap_none {l : Lead} (h : LaneReady s r f false l.thread) (hp : touchesPort r f = false) :
    leadTrap s r f l = none :=
  laneTrap_none h fun u hu hq => by simp [(usesOf_noPort hp).2 u hu] at hq

/-- A leader that nothing stops does what its body says. -/
theorem leadStep_ready {l : Lead} (h : LaneReady s r f false l.thread) (hp : touchesPort r f = false) (body : Body) :
    leadStep r f body false s l = leadEnd f l.tids s (body s (readLane r f l.lane l.thread [])) := by
  simp only [leadStep, leadTrap_none h hp, Bool.false_eq_true, if_false, poisonTrap_none h [] (carries := false) (.inr (by simp))]
  cases body s (readLane r f l.lane l.thread []) <;> rfl

theorem leadBlocked_false {l : Lead} (h : LaneReady s r f false l.thread)
    (ht : r.rd = .gen → ∀ x ∈ l.tids, ∀ u, s.thread? x = some u → (u.reg f.rd).full = true) :
    leadBlocked s r f l = false := by
  rw [leadBlocked, regsBlock_false h, Bool.false_or]
  by_cases hr : r.rd = .gen
  · have hany : (l.tids.any fun t => match s.thread? t with
        | some u => !(u.reg f.rd).full
        | none => false) = false := by
      rw [List.any_eq_false]
      intro x hx
      cases hu : s.thread? x with
      | none => simp
      | some u => simp [ht hr x hx u hu]
    rw [hr]
    exact (Bool.true_and _).trans hany
  · have : (r.rd == Role.gen) = false := by simpa using hr
    rw [this, Bool.false_and]

/-- Issues by leaders that nothing stops. -/
theorem issueLeads_ready {leads : List Lead} (h : ∀ l ∈ leads, LaneReady s r f false l.thread)
    (ht : r.rd = .gen → ∀ l ∈ leads, ∀ x ∈ l.tids, ∀ u, s.thread? x = some u → (u.reg f.rd).full = true) (body : Body) :
    issueLeads r f leads body s = .next (leads.foldl (leadStep r f body false) s).bump := by
  have : leadsHeld s r f leads = false := by
    rw [leadsHeld, List.any_eq_false]
    intro l hl
    rw [leadBlocked_false (h l hl) fun hr => ht hr l hl, Bool.and_false]
    exact Bool.false_ne_true
  rw [issueLeads, this]

/-! ### The lanes that share an outcome -/

variable {ls : List (Nat × Thread)}

theorem trapWaits_member {tr : Trap} {t : Thread} (hh : s.thread? t.tid = some t) (hl : t.onLatency = false) :
    trapWaits s t.tid tr = false := by
  simp [trapWaits, hh, hl]

theorem leadWaits_false {tids : List Nat} {tr : Trap} (h : ∀ x ∈ tids, trapWaits s x tr = false) :
    leadWaits s tids tr = false := by
  rw [leadWaits, List.any_eq_false]
  exact fun x hx => by rw [h x hx]; exact Bool.false_ne_true

theorem trapTids_map (tr : Trap) (ls : List (Nat × Thread)) :
    trapTids s f (ls.map fun p => p.2.tid) tr = ls.foldl (fun k p => takeTrap k p.2.tid f tr false false) s := by
  rw [trapTids, List.foldl_map]

/-- A lane past an instruction of its leader, with the result that there is for rd. -/
def Thread.led (f : Fields) (v : Option Word) (t : Thread) : Thread :=
  match v with
  | some v => t.got f false v
  | none => t.past f false

@[simp] theorem Thread.led_tid (f : Fields) (v : Option Word) (t : Thread) : (t.led f v).tid = t.tid := by
  cases v <;> simp [Thread.led]

theorem doneTids_cons (x : Nat) (tids : List Nat) (v : Option Word) {t : Thread} (h : s.thread? x = some t)
    (hx : t.tid = x) : doneTids s f (x :: tids) v = doneTids (s.putThread (t.led f v)) f tids v := by
  subst hx
  cases v with
  | none =>
    rw [doneTids, List.foldl_cons]
    exact congrArg (fun k => doneTids k f tids none) (State.advance_of s h f false)
  | some v =>
    rw [doneTids, List.foldl_cons]
    refine congrArg (fun k => doneTids k f tids (some v)) ?_
    change (s.modThread t.tid fun t => t.setReg f.rd ⟨v, true, false⟩).advance t.tid f false = _
    rw [State.modThread_of s h]
    exact (congrArg (fun n => (s.putThread (t.setReg f.rd ⟨v, true, false⟩)).advance n f false)
      (Thread.setReg_tid t f.rd _).symm).trans (State.advance_putThread s _ f false)

/-- A completed instruction changes the lanes' own records alone. -/
theorem doneTids_map (v : Option Word) (hn : (ls.map fun p => p.2.tid).Nodup) (hh : ∀ p ∈ ls, s.thread? p.2.tid = some p.2) :
    doneTids s f (ls.map fun p => p.2.tid) v = s.putThreads (ls.map fun p => p.2.led f v) := by
  induction ls generalizing s with
  | nil => rfl
  | cons p ls ih =>
    rw [List.map_cons, List.nodup_cons] at hn
    rw [List.map_cons, doneTids_cons _ _ _ (hh p List.mem_cons_self) rfl, List.map_cons, State.putThreads_cons]
    refine ih hn.2 fun q hq => ?_
    rw [State.thread?_putThread_other, hh q (List.mem_cons_of_mem _ hq)]
    rw [Thread.led_tid]
    exact fun he => hn.1 (he ▸ List.mem_map_of_mem (f := fun p : Nat × Thread => p.2.tid) hq)

end

/-! ### One leader for a whole group -/

/-- The leader of some lanes: the lowest of them. -/
def leadOf : List (Nat × Thread) → Option Lead
  | [] => none
  | (i, t) :: rest => some ⟨i, t, t.tid :: rest.map fun p => p.2.tid⟩

theorem soleLead_eq {s : State} {ls : List (Nat × Thread)} (h : s.issueLanes = ls) : s.soleLead = (leadOf ls).toList := by
  rw [State.soleLead, h]
  cases ls <;> rfl

theorem leadOf_head {ls : List (Nat × Thread)} {n : Nat} {t : Thread} (h : ls.head? = some (n, t)) :
    leadOf ls = some ⟨n, t, ls.map fun p => p.2.tid⟩ := by
  cases ls with
  | nil => cases h
  | cons p ls => cases h; rfl

/-- A group at an instruction of the matrix group whose lowest lane nothing stops (R291, R308). -/
structure Led (s : State) (r : OpRule) (f : Fields) (ls : List (Nat × Thread)) (n : Nat) (t : Thread) : Prop where
  group : LaneGroup s ls
  first : ls.head? = some (n, t)
  lane : LaneReady s r f false t
  ports : touchesPort r f = false
  targets : ∀ p ∈ ls, ∀ m ∈ writeRegs r f, (p.2.reg m).full = true

section

variable {s : State} {r : OpRule} {f : Fields} {ls : List (Nat × Thread)} {n : Nat} {t : Thread}

theorem led_of_atArray {b : Bolt} (h : AtArray s r f b ls n t) : Led s r f ls n t :=
  ⟨h.group, h.first, h.lane, h.ports, h.targets⟩

theorem led_of_ready (h : Ready s r f false [(n, t)]) : Led s r f [(n, t)] n t :=
  ⟨h.group, rfl, h.lane _ List.mem_cons_self, h.ports, fun p hp => (h.lane p hp).target⟩

/-- The full destinations of a group, as its leader looks them up. -/
theorem full_destinations (h : Led s r f ls n t) (hr : r.rd = .gen) :
    ∀ x ∈ ls.map fun p => p.2.tid, ∀ u, s.thread? x = some u → (u.reg f.rd).full = true := by
  intro x hx u hu
  obtain ⟨p, hp, rfl⟩ := List.mem_map.1 hx
  cases (h.group.held p hp).symm.trans hu
  by_cases hb : f.rd.val < 56
  · refine h.targets p hp _ ?_
    simp [writeRegs, hr, namedRegs, hb]
  · have : p.2.reg f.rd = Reg.zero := by simp [Thread.reg, hb]
    rw [this]
    rfl

/-- An issue of one leader whom nothing stops. -/
theorem issueOnce_led (h : Led s r f ls n t) (body : Body) : issueOnce r f body s =
    .next (leadEnd f (ls.map fun p => p.2.tid) s (body s (readLane r f n t []))).bump := by
  have hl : s.soleLead = [⟨n, t, ls.map fun p => p.2.tid⟩] := by
    rw [soleLead_eq h.group.lanes, leadOf_head h.first]; rfl
  rw [issueOnce, hl, issueLeads_ready (by simpa using h.lane) (by simpa using full_destinations h), List.foldl_cons,
    List.foldl_nil, leadStep_ready h.lane h.ports]

end

/-! ### One leader for each quarter -/

/-- A quarter's part of an issue: that of its leader. -/
def quarterStep (r : OpRule) (f : Fields) (body : Body) (g : List (Nat × Thread)) (k : State) : State :=
  (leadOf g).elim k (leadStep r f body false k)

theorem quarterStep_cons {r : OpRule} {f : Fields} {body : Body} {n : Nat} {t : Thread} {rest : List (Nat × Thread)}
    {k : State} (h : LaneReady k r f false t) (hp : touchesPort r f = false) :
    quarterStep r f body ((n, t) :: rest) k =
      leadEnd f (((n, t) :: rest).map fun p => p.2.tid) k (body k (readLane r f n t [])) :=
  leadStep_ready (l := ⟨n, t, _⟩) h hp body

theorem quarterLeads_eq {s : State} {ls : List (Nat × Thread)} (h : s.issueLanes = ls) :
    s.quarterLeads = (quartersOf ls).filterMap leadOf := by
  have hlead : s.quarterLeads = (List.range 4).filterMap fun q => leadOf (ls.filter fun p => p.1 / 8 == q) := by
    rw [State.quarterLeads, h] <;> rfl
  rw [hlead, quartersOf, List.filterMap_filter, List.filterMap_map]
  congr 1
  funext q
  rw [Function.comp]
  split_ifs with hq
  · rfl
  · rw [show ls.filter (fun p => p.1 / 8 == q) = [] by simpa using hq]
    rfl

theorem leads_quarters {s : State} {ls : List (Nat × Thread)} (h : s.issueLanes = ls) {l : Lead}
    (hl : l ∈ s.quarterLeads) : ∃ p ∈ ls, p.2 = l.thread := by
  rw [quarterLeads_eq h] at hl
  obtain ⟨g, hg, hlg⟩ := List.mem_filterMap.1 hl
  obtain ⟨q, -, rfl⟩ := List.mem_map.1 (List.mem_of_mem_filter hg)
  cases he : ls.filter (fun p => p.1 / 8 == q) with
  | nil => rw [he] at hlg; cases hlg
  | cons p rest =>
    rw [he] at hlg
    cases hlg
    exact ⟨p, List.mem_of_mem_filter (he ▸ List.mem_cons_self), rfl⟩

/-- An issue whose quarters follow one another, each by its leader. -/
theorem issueQuarters_ready {s : State} {r : OpRule} {f : Fields} {ls : List (Nat × Thread)} (h : s.issueLanes = ls)
    (hr : r.rd ≠ .gen) (hl : ∀ l ∈ s.quarterLeads, LaneReady s r f false l.thread) (body : Body) :
    issueLeads r f s.quarterLeads body s =
      .next ((quartersOf ls).foldl (fun k g => quarterStep r f body g k) s).bump := by
  rw [issueLeads_ready hl (fun he => absurd he hr), quarterLeads_eq h, List.foldl_filterMap]
  congr 3
  funext k g
  rw [quarterStep]
  cases leadOf g <;> rfl

/-- Lanes that stand in one quarter. -/
theorem quartersOf_single {ls : List (Nat × Thread)} {n : Nat} (hne : ls ≠ []) (h : InQuarter true ls n) :
    quartersOf ls = [ls] := by
  obtain ⟨hn, hq⟩ := h rfl
  have hsel : ∀ q, ls.filter (fun p => p.1 / 8 == q) = if q = n / 8 then ls else [] := fun q => by
    split_ifs with he
    · exact List.filter_eq_self.2 fun p hp => by simpa [he] using hq p hp
    · exact List.filter_eq_nil_iff.2 fun p hp => by simpa [hq p hp] using Ne.symm he
  have hlt : n / 8 < 4 := by omega
  simp only [quartersOf, hsel, List.range_succ, List.range_zero]
  generalize n / 8 = q at hlt
  interval_cases q <;> simp [hne]

/-- An issue whose lanes stand in one quarter, and whose leader nothing stops. -/
theorem issueQuarters_led {s : State} {r : OpRule} {f : Fields} {ls : List (Nat × Thread)} {n : Nat} {t : Thread}
    (h : Led s r f ls n t) (hr : r.rd ≠ .gen) (hq : InQuarter true ls n) (body : Body) :
    issueLeads r f s.quarterLeads body s =
      .next (leadEnd f (ls.map fun p => p.2.tid) s (body s (readLane r f n t []))).bump := by
  have hone := quartersOf_single h.group.inhabited hq
  have hleads : ∀ l ∈ s.quarterLeads, LaneReady s r f false l.thread := by
    rw [quarterLeads_eq h.group.lanes, hone]
    simpa [leadOf_head h.first] using h.lane
  rw [issueQuarters_ready h.group.lanes hr hleads, hone, List.foldl_cons, List.foldl_nil, quarterStep, leadOf_head h.first,
    Option.elim_some, leadStep_ready h.lane h.ports]

end Sys2Proof.Machine
end

section
/-! SUPPORT. What the array waits for before it accepts (R292, R294, R296, R309): operands as they become tiles, and a wait
that stands alone in its weft's queue. -/

namespace Sys2Proof.Machine

open Sys2Proof.Claims

/-! ### Scratchpad ranges (R183) -/

section

variable {s : State} {b m : Bolt} {v : Int}

theorem spCheck_ok {align z : Nat} (h0 : 0 ≤ v) (h1 : v < 2 ^ 23) (ha : v % align = 0)
    (hf : s.foldBolt b (v.toNat / 2 ^ 21) = some m) (hz : v.toNat % 2 ^ 21 + z ≤ 2048 * m.rows) :
    spCheck s b v align z = .ok ⟨m, v.toNat % 2 ^ 21⟩ := by
  have hr : ¬ (v < 0 ∨ 2 ^ 23 ≤ v) := by omega
  have hs : ¬ m.size < v.toNat % 2 ^ 21 + z := by rw [Bolt.size]; omega
  simp only [spCheck, if_neg hr, ha, ne_eq, not_true, if_false, hf, if_neg hs]

/-! ### Operands (R292, R309) -/

/-- A tile at an address is what looking there finds. -/
theorem lookAt_tile {buf : Option (Nat × Nat)} {t : Tile} (h : TileAt s b v buf t) : lookAt s b v buf = .tile t := by
  obtain ⟨m, h0, h1, ha, hf, hok, hz, hs, hs', hp, rfl⟩ := h
  have hd : hdrDepth (leNat (m.bytes (v.toNat % 2 ^ 21) 64)) =
      leNat (memBytes m.spad (v.toNat % 2 ^ 21) 64) / 2 ^ 8 % 2 ^ 8 := rfl
  have hc : spCheck s b v 64 64 = .ok ⟨m, v.toNat % 2 ^ 21⟩ := spCheck_ok h0 h1 ha hf (by omega)
  have hsz : ¬ m.size < v.toNat % 2 ^ 21 + (704 + 512 * (leNat (memBytes m.spad (v.toNat % 2 ^ 21) 64) / 2 ^ 8 % 2 ^ 8)) := by
    rw [Bolt.size]; omega
  have hok' : headerOk (leNat (m.bytes (v.toNat % 2 ^ 21) 64)) = true := hok
  simp only [lookAt, hc, hs, hp, hok', hd, Bool.not_true, Bool.false_or, decide_eq_true_eq, if_neg hsz, tileBytes, hs',
    Bool.false_eq_true, if_false]

/-- An operand as an instruction names it: at an address, or by a handle and an offset. -/
def opndOf (byHandle : Bool) (h : Nat) (v : Int) : Opnd := if byHandle then .use h v none else .spad v.toNat

/-- An operand with the buffer that a hit gives it (R278). -/
def Opnd.given (b : Bolt) (o : Opnd) : Opnd :=
  match o with
  | .use h x none => .use h x ((b.handle? h).bind fun y => y.hit x)
  | o => o

/-- Whether an operand needs no fill. -/
def Opnd.placed (o : Opnd) : Bool :=
  match o with
  | .use _ _ none => false
  | _ => true

theorem giveBuffers_placed {os : List Opnd} (h : ∀ o ∈ os, (o.given b).placed = true) :
    giveBuffers b os = os.map (Opnd.given b) := by
  induction os with
  | nil => rfl
  | cons o os ih =>
    have ih := ih fun x hx => h x (List.mem_cons_of_mem _ hx)
    have ho := h o List.mem_cons_self
    rcases o with a | ⟨hd, x, _ | j⟩
    · simp [giveBuffers, Opnd.given, ih]
    · cases hh : (b.handle? hd).bind fun y => y.hit x with
      | none => simp [Opnd.given, hh, Opnd.placed] at ho
      | some j => simp [giveBuffers, Opnd.given, hh, ih]
    · simp [giveBuffers, Opnd.given, ih]

/-- An operand that names a tile needs no fill, and looking at it finds the tile. -/
theorem lookOpnd_tile {byHandle : Bool} {h : Nat} {t : Tile} (ht : OperandTile s b byHandle h v t) :
    ((opndOf byHandle h v).given b).placed = true ∧ lookOpnd s b ((opndOf byHandle h v).given b) = .tile t := by
  cases byHandle with
  | false =>
    have ht : TileAt s b v none t := ht
    obtain ⟨m, h0, -⟩ := id ht
    refine ⟨rfl, ?_⟩
    change lookAt s b (v.toNat : Int) none = _
    rw [Int.toNat_of_nonneg h0, lookAt_tile ht]
  | true =>
    obtain ⟨x, j, hx, hj, hplace⟩ := ht
    have hx' : b.handle? h = some x := hx
    have hg : (opndOf true h v).given b = .use h v (some j) := by simp [opndOf, Opnd.given, hx', hj]
    rw [hg]
    refine ⟨rfl, ?_⟩
    simp only [lookOpnd, lookBuffer, hx']
    cases hf : (x.fills[j]?).getD none with
    | none =>
      rw [hf] at hplace
      exact lookAt_tile hplace
    | some id =>
      rw [hf] at hplace
      obtain ⟨hr, rfl⟩ := hplace
      cases hjob : s.job? id with
      | none => simp only [hjob]
      | some job => simp [hjob, hr job hjob]

/-- The later tiles of a B set, each of the depth of the first. -/
theorem lookRest_tiles {d : Nat} {l : List (Opnd × Tile)} (h : ∀ p ∈ l, lookOpnd s b p.1 = .tile p.2 ∧ p.2.depth = d) :
    lookRest s b d (l.map (·.1)) = .tiles (l.map (·.2)) := by
  induction l with
  | nil => rfl
  | cons p l ih =>
    obtain ⟨hl, hd⟩ := h p List.mem_cons_self
    simp only [List.map_cons, lookRest, hl, hd, ne_eq, not_true, if_false, ih fun q hq => h q (List.mem_cons_of_mem _ hq)]

end

/-! ### The operands of a quarter (R292, R309) -/

theorem handleWord_eq (v : Word) : handleWord v = (useOf v).1 := by simp [handleWord, bitsAt, useOf]

theorem offsetWord_eq (v : Word) : offsetWord v = (useOf v).2 := by
  have hv := v.isLt
  rw [offsetWord, sextN, useOf]
  simp only [Nat.reducePow] at hv ⊢
  split_ifs <;> push_cast <;> omega

theorem sliceBy_ok {b : Bolt} {f : Fields} {v : Word} (h : v.toNat < 16) (hs : f.rd.val + v.toNat < b.nslice) :
    sliceBy b f v = .ok (f.rd.val + v.toNat) := by
  have h1 : bitsAt v.toNat 4 60 = 0 := by simp only [bitsAt, Nat.reducePow]; omega
  have h2 : bitsAt v.toNat 0 4 = v.toNat := by simp only [bitsAt, Nat.reducePow]; omega
  simp [sliceBy, h1, h2, sliceOf, hs]

section

variable {s : State} {b : Bolt} {f : Fields} {v : Word}

/-- The operands of a quarter's B set, from the tiles that they name. -/
def setOf (byHandle : Bool) (h : Nat) (v : Int) : List Opnd :=
  if byHandle then (List.range 4).map fun t => .use (h + t) v none else [.spad v.toNat]

theorem operandTile_check {v : Int} {h : Nat} {t : Tile} (ht : OperandTile s b false h v t) :
    ∃ p, spCheck s b v 64 64 = .ok p := by
  obtain ⟨m, h0, h1, ha, hf, -, hz, -⟩ := ht
  exact ⟨_, spCheck_ok h0 h1 ha hf (by omega)⟩

theorem operandA_ok {t : Tile} (hw : f.mod.getLsbD 0 = true → v.toNat / 16 % 16 = 0)
    (ht : OperandTile s b (f.mod.getLsbD 0) (useOf v).1
      (if f.mod.getLsbD 0 then (useOf v).2 + f.imm.toInt else v.toInt + f.imm.toInt) t) :
    operandA s b f v = .ok (opndOf (f.mod.getLsbD 0) (useOf v).1
      (if f.mod.getLsbD 0 then (useOf v).2 + f.imm.toInt else v.toInt + f.imm.toInt)) := by
  cases hb : f.mod.getLsbD 0 with
  | false =>
    simp only [hb, Bool.false_eq_true, if_false] at ht ⊢
    obtain ⟨p, hp⟩ := operandTile_check ht
    simp only [operandA, hb, Bool.false_eq_true, if_false, Fields.simm, hp, opndOf]
  | true =>
    simp only [hb, if_true] at ht ⊢
    obtain ⟨x, j, hx, -⟩ := ht
    have hx' : b.handle? (useOf v).1 = some x := hx
    have h1 : bitsAt v.toNat 4 4 = 0 := by simpa [bitsAt] using hw hb
    simp [operandA, hb, h1, handleWord_eq, offsetWord_eq, hx', opndOf, Fields.simm]

theorem operandB_ok {t0 : Tile} {ts : Nat → Tile}
    (hw : f.mod.getLsbD 1 = true → v.toNat / 16 % 16 = 0 ∧ v.toNat % 16 ≤ 12)
    (h0 : OperandTile s b (f.mod.getLsbD 1) (useOf v).1 (if f.mod.getLsbD 1 then (useOf v).2 else v.toInt) t0)
    (ht : f.mod.getLsbD 1 = true → ∀ i < 4, OperandTile s b true ((useOf v).1 + i) (useOf v).2 (ts i)) :
    operandB s b f v = .ok (setOf (f.mod.getLsbD 1) (useOf v).1 (if f.mod.getLsbD 1 then (useOf v).2 else v.toInt)) := by
  cases hb : f.mod.getLsbD 1 with
  | false =>
    simp only [hb, Bool.false_eq_true, if_false] at h0 ⊢
    obtain ⟨p, hp⟩ := operandTile_check h0
    obtain ⟨m, hv, -⟩ := h0
    have hnat : v.toInt.toNat = v.toNat := by rw [BitVec.toInt_eq_toNat_cond] at hv ⊢; split_ifs at hv ⊢ <;> omega
    simp only [operandB, hb, Bool.false_eq_true, if_false, hp, setOf, hnat]
  | true =>
    obtain ⟨hz, h12⟩ := hw hb
    have h1 : bitsAt v.toNat 4 4 = 0 := by simpa [bitsAt] using hz
    have h3 : ¬ 15 < (useOf v).1 + 3 := by simp only [useOf]; omega
    have hany : ((List.range 4).any fun t => (b.handle? ((useOf v).1 + t)).isNone) = false := by
      rw [List.any_eq_false]
      intro i hi
      obtain ⟨x, j, hx, -⟩ := ht hb i (List.mem_range.1 hi)
      have hx' : b.handle? ((useOf v).1 + i) = some x := hx
      simp [hx']
    have hc : ¬ (bitsAt v.toNat 4 4 ≠ 0 ∨ 15 < (useOf v).1 + 3 ∨
        ((List.range 4).any fun t => (b.handle? ((useOf v).1 + t)).isNone) = true) := by
      rw [hany]; simp [h1, h3]
    simp only [operandB, hb, if_true, handleWord_eq, offsetWord_eq, if_neg hc, setOf]

end

/-- The tiles of a B set in the scratchpad. -/
theorem lookSet_spad {s : State} {b : Bolt} {v : Int} {h : Nat} {ts : Nat → Tile}
    (ht : ∀ i < 4, (ts i).depth = (ts 0).depth ∧
      OperandTile s b false (h + i) (v + (i * (704 + 512 * (ts 0).depth) : Nat)) (ts i)) :
    lookSet s b ((setOf false h v).map (Opnd.given b)) = .tiles [ts 0, ts 1, ts 2, ts 3] := by
  have hv : 0 ≤ v := by
    obtain ⟨m, h0, -⟩ := (ht 0 (by omega)).2
    simpa using h0
  have hl : ∀ i < 4, lookOpnd s b (.spad (v.toNat + i * tileBytes (ts 0).depth)) = .tile (ts i) := fun i hi => by
    have hn : (v + (i * (704 + 512 * (ts 0).depth) : Nat)).toNat = v.toNat + i * tileBytes (ts 0).depth := by
      rw [tileBytes]; omega
    have := (lookOpnd_tile (ht i hi).2).2
    rw [opndOf, hn] at this
    exact this
  have hrest : lookRest s b (ts 0).depth ((List.range 3).map fun t => Opnd.spad (v.toNat + (t + 1) * tileBytes (ts 0).depth)) =
      .tiles [ts 1, ts 2, ts 3] := by
    refine lookRest_tiles (l := [(.spad (v.toNat + 1 * tileBytes (ts 0).depth), ts 1),
      (.spad (v.toNat + 2 * tileBytes (ts 0).depth), ts 2), (.spad (v.toNat + 3 * tileBytes (ts 0).depth), ts 3)]) ?_
    intro p hp
    simp only [List.mem_cons, List.not_mem_nil, or_false] at hp
    rcases hp with rfl | rfl | rfl
    · exact ⟨hl 1 (by omega), (ht 1 (by omega)).1⟩
    · exact ⟨hl 2 (by omega), (ht 2 (by omega)).1⟩
    · exact ⟨hl 3 (by omega), (ht 3 (by omega)).1⟩
  have h0 := hl 0 (by omega)
  rw [Nat.zero_mul, Nat.add_zero] at h0
  simp only [setOf, Bool.false_eq_true, if_false, List.map_cons, List.map_nil, Opnd.given, lookSet, h0, hrest]

/-- The tiles of a B set of handles. -/
theorem lookSet_use {s : State} {b : Bolt} {v : Int} {h : Nat} {ts : Nat → Tile}
    (ht : ∀ i < 4, (ts i).depth = (ts 0).depth ∧ OperandTile s b true (h + i) v (ts i)) :
    lookSet s b ((setOf true h v).map (Opnd.given b)) = .tiles [ts 0, ts 1, ts 2, ts 3] := by
  have hl : ∀ i < 4, lookOpnd s b (Opnd.given b (.use (h + i) v none)) = .tile (ts i) := fun i hi =>
    (lookOpnd_tile (ht i hi).2).2
  have hrest : lookRest s b (ts 0).depth [Opnd.given b (.use (h + 1) v none), Opnd.given b (.use (h + 2) v none),
      Opnd.given b (.use (h + 3) v none)] = .tiles [ts 1, ts 2, ts 3] := by
    refine lookRest_tiles (l := [(Opnd.given b (.use (h + 1) v none), ts 1), (Opnd.given b (.use (h + 2) v none), ts 2),
      (Opnd.given b (.use (h + 3) v none), ts 3)]) ?_
    intro p hp
    simp only [List.mem_cons, List.not_mem_nil, or_false] at hp
    rcases hp with rfl | rfl | rfl
    · exact ⟨hl 1 (by omega), (ht 1 (by omega)).1⟩
    · exact ⟨hl 2 (by omega), (ht 2 (by omega)).1⟩
    · exact ⟨hl 3 (by omega), (ht 3 (by omega)).1⟩
  have h0 := hl 0 (by omega)
  have hset : (setOf true h v).map (Opnd.given b) = [Opnd.given b (.use (h + 0) v none), Opnd.given b (.use (h + 1) v none),
      Opnd.given b (.use (h + 2) v none), Opnd.given b (.use (h + 3) v none)] := rfl
  rw [hset]
  have hu : Opnd.given b (.use (h + 0) v none) = .use (h + 0) v ((b.handle? (h + 0)).bind fun y => y.hit v) := rfl
  rw [hu] at h0 ⊢
  simp only [lookSet, h0, hrest]

/-- The A operand of a quarter, and its B set, as its lane names them. -/
def quarterA (f : Fields) (l : Lane) : Opnd :=
  opndOf (f.mod.getLsbD 0) (useOf l.a).1 (if f.mod.getLsbD 0 then (useOf l.a).2 + f.imm.toInt else l.a.toInt + f.imm.toInt)

def quarterB (f : Fields) (l : Lane) : List Opnd :=
  setOf (f.mod.getLsbD 1) (useOf l.b).1 (if f.mod.getLsbD 1 then (useOf l.b).2 else l.b.toInt)

section

variable {f : Fields} {sparse : Bool} {s : State} {b : Bolt} {l : Lane} {slice : Nat} {kind : ArrKind}

/-- The tiles of a quarter's B set, by their number. -/
theorem quarterTiles_set (h : QuarterTiles f sparse s b l slice kind) : ∃ (a : Tile) (ts : Nat → Tile),
    kind = .quarter a [ts 0, ts 1, ts 2, ts 3] sparse ∧ ∀ i < 4, (ts i).depth = (ts 0).depth ∧
      OperandTile s b (f.mod.getLsbD 1) ((useOf l.b).1 + i)
        (if f.mod.getLsbD 1 then (useOf l.b).2 else l.b.toInt + (i * (704 + 512 * (ts 0).depth) : Nat)) (ts i) := by
  obtain ⟨-, -, -, -, a, t0, t1, t2, t3, rfl, -, hbs⟩ := h
  refine ⟨a, fun i => [t0, t1, t2, t3].getD i t0, rfl, fun i hi => ?_⟩
  interval_cases i
  · exact hbs (0, t0) (by simp)
  · exact hbs (1, t1) (by simp)
  · exact hbs (2, t2) (by simp)
  · exact hbs (3, t3) (by simp)

/-- The operands of a quarter whose tiles are readable need no fill. -/
theorem quarterTiles_placed (h : QuarterTiles f sparse s b l slice kind) :
    ∀ o ∈ quarterA f l :: quarterB f l, (o.given b).placed = true := by
  intro o ho
  rcases List.mem_cons.1 ho with rfl | ho
  · obtain ⟨-, -, -, -, a, -, -, -, -, -, ha, -⟩ := h
    exact (lookOpnd_tile ha).1
  · obtain ⟨-, ts, -, hB⟩ := quarterTiles_set h
    cases hb : f.mod.getLsbD 1 with
    | false =>
      rw [quarterB, hb] at ho
      rw [List.mem_singleton.1 ho]
      rfl
    | true =>
      rw [quarterB, hb] at ho
      obtain ⟨i, hi, rfl⟩ := List.mem_map.1 ho
      have := (hB i (List.mem_range.1 hi)).2
      rw [hb] at this
      exact (lookOpnd_tile this).1

/-- A quarter whose tiles are readable passes its checks. -/
theorem quarterTiles_checks (h : QuarterTiles f sparse s b l slice kind) (hs : slice < b.nslice) :
    quarterChecks s b f l = .ok (slice, quarterA f l, quarterB f l) := by
  obtain ⟨-, ts, -, hB⟩ := quarterTiles_set h
  obtain ⟨hc, rfl, hwa, hwb, a, -, -, -, -, -, ha, -⟩ := h
  have hB0 := (hB 0 (by omega)).2
  simp only [Nat.zero_mul, Nat.cast_zero, Int.add_zero, Nat.add_zero] at hB0
  have hopB := operandB_ok (ts := ts) hwb hB0 fun hb i hi => by
    have := (hB i hi).2
    rw [hb] at this
    exact this
  simp only [quarterChecks, sliceBy_ok hc hs, operandA_ok hwa ha, hopB]
  rfl

/-- Looking at the operands of a quarter whose tiles are readable finds the tiles. -/
theorem quarterTiles_looks (h : QuarterTiles f sparse s b l slice kind) :
    ∃ ta tb, kind = .quarter ta tb sparse ∧ lookOpnd s b ((quarterA f l).given b) = .tile ta ∧
      lookSet s b ((quarterB f l).map (Opnd.given b)) = .tiles tb := by
  obtain ⟨a, ts, hk, hB⟩ := quarterTiles_set h
  refine ⟨a, _, hk, ?_, ?_⟩
  · obtain ⟨-, -, -, -, a', _, _, _, _, hk', ha, -⟩ := h
    cases hk.symm.trans hk'
    exact (lookOpnd_tile ha).2
  · rw [quarterB]
    cases hb : f.mod.getLsbD 1 with
    | false =>
      simp only [hb, Bool.false_eq_true, if_false] at hB ⊢
      exact lookSet_spad hB
    | true =>
      simp only [hb, if_true] at hB ⊢
      exact lookSet_use hB

end

/-! ### A wait alone in its weft's queue -/

@[simp] theorem State.weft?_putWeft_same (s : State) (c n : Nat) (w : Weft) : (s.putWeft c n w).weft? c n = some w := by
  simp [State.weft?, State.putWeft, tabGet_tabPut_same]

@[simp] theorem State.putWeft_putWeft (s : State) (c n : Nat) (v w : Weft) :
    (s.putWeft c n v).putWeft c n w = s.putWeft c n w := by
  simp [State.putWeft, State.putW, State.wcore, tabPut_tabPut, tabGet_tabPut_same]

theorem State.modWeft_of {s : State} {c n : Nat} {w : Weft} (h : s.weft? c n = some w) (g : Weft → Weft) :
    s.modWeft c n g = s.putWeft c n (g w) := by simp [State.modWeft, h]

/-- The bare kind of an operand is that of the operand with its buffer. -/
theorem plain_given (b : Bolt) (n : Nat) (sp : Bool) (a : Opnd) (bs : List Opnd) :
    (WaitKind.quarter n sp (a.given b) (bs.map (Opnd.given b))).plain = (WaitKind.quarter n sp a bs).plain := by
  have hbare : ∀ o : Opnd, (WaitKind.quarter n sp (o.given b) []).plain = (WaitKind.quarter n sp o []).plain := by
    rintro (a | ⟨h, x, _ | j⟩) <;> rfl
  simp only [WaitKind.plain, List.map_nil, WaitKind.quarter.injEq, true_and, and_true] at hbare ⊢
  rw [List.map_map]
  exact ⟨hbare a, List.map_congr_left fun o _ => hbare o⟩

/-- A wait whose operands need no fill. -/
def QWait.settled (b : Bolt) (q : QWait) : QWait :=
  { q with kind := match q.kind with
      | .quarter n sp a bs => .quarter n sp (a.given b) (bs.map (Opnd.given b))
      | k => k }

theorem give_settled {b : Bolt} {q : QWait} (h : ∀ o ∈ q.opnds, (o.given b).placed = true) : q.give b = q.settled b := by
  obtain ⟨leader, pc, f, slice, _ | _⟩ := q
  · have := giveBuffers_placed h
    simp only [QWait.opnds, List.map_cons] at this
    simp only [QWait.give, this, QWait.settled]
  · rfl

theorem settled_same (b : Bolt) (q : QWait) : (q.settled b).same q = true := by
  obtain ⟨leader, pc, f, slice, _ | _⟩ := q
  · simp [QWait.settled, QWait.same, plain_given]
  · simp [QWait.settled, QWait.same]

theorem same_refl (q : QWait) : q.same q = true := by simp [QWait.same]

section

variable {s : State} {l : Lane} {b : Bolt} {q : QWait} {w : Weft}

/-- The state with a wait alone in the queue of its weft, its operands with their buffers. -/
def queued (s : State) (b : Bolt) (slot : Nat) (w : Weft) (q : QWait) : State :=
  s.putWeft b.core slot { w with waitQ := [q.settled b] }

theorem enqueue_alone {slot : Nat} (hw : s.weft? b.core slot = some w) (hq : w.waitQ = []) (hs : s.waitStands w q = true)
    (hp : ∀ o ∈ q.opnds, (o.given b).placed = true) :
    (s.modWeft b.core slot fun w => w.enqueue q).giveWaits b.core slot b = queued s b slot w q := by
  have hen : w.enqueue q = { w with waitQ := [q] } := by simp [Weft.enqueue, hq]
  have hstand : (s.putWeft b.core slot { w with waitQ := [q] }).waitStands { w with waitQ := [q] } q = true := hs
  have hgive : giveAll b [q] = [q.settled b] := by
    rw [← give_settled hp]
    simp only [giveAll]
    split_ifs <;> rfl
  rw [State.modWeft_of hw, hen, State.giveWaits, State.modWeft_of (State.weft?_putWeft_same ..), State.putWeft_putWeft]
  simp only [List.filter_cons, List.filter_nil, hstand, if_true, hgive]
  rfl

/-- A wait alone in its queue is accepted at once where the array accepts it, and waits there where it does not. -/
theorem submitWait_alone (hw : s.weft? b.core l.thread.slot = some w) (hq : w.waitQ = []) (hs : s.waitStands w q = true)
    (hp : ∀ o ∈ q.opnds, (o.given b).placed = true) :
    (∀ k, (queued s b l.thread.slot w q).acceptWait b w.widx (q.settled b) = .ok k →
      submitWait s l b q = .done (k.modWeft b.core l.thread.slot fun w => w.dequeue (q.settled b))) ∧
    ((queued s b l.thread.slot w q).acceptWait b w.widx (q.settled b) = .wait → ∃ keep,
      submitWait s l b q = .wait keep ∧ keep s = (queued s b l.thread.slot w q).noteArray b.core) := by
  have hk := enqueue_alone (slot := l.thread.slot) hw hq hs hp
  have hwk : (queued s b l.thread.slot w q).weft? b.core l.thread.slot = some { w with waitQ := [q.settled b] } :=
    State.weft?_putWeft_same ..
  have hfind : ({ w with waitQ := [q.settled b] } : Weft).waitQ.find? (fun p => p.same q) = some (q.settled b) := by
    simp [settled_same]
  have hfirst : ({ w with waitQ := [q.settled b] } : Weft).firstAt (q.settled b) = true := by simp [Weft.firstAt]
  refine ⟨fun k ha => ?_, fun ha => ⟨fun k =>
    ((k.modWeft b.core l.thread.slot fun w => w.enqueue q).giveWaits b.core l.thread.slot b).noteArray b.core, ?_, ?_⟩⟩
  · simp only [submitWait, hk, hwk, hfind, hfirst, Bool.not_true, Bool.false_eq_true, if_false]
    rw [show ({ w with waitQ := [q.settled b] } : Weft).widx = w.widx from rfl, ha]
  · simp only [submitWait, hk, hwk, hfind, hfirst, Bool.not_true, Bool.false_eq_true, if_false]
    rw [show ({ w with waitQ := [q.settled b] } : Weft).widx = w.widx from rfl, ha]
  · simp only [hk]

end

end Sys2Proof.Machine
end

section
/-! SUPPORT. What the array accepts at once (R294 to R296, R309 to R313), what each matrix instruction does for its leader,
and O34. -/

namespace Sys2Proof.Machine

open Sys2Proof.Claims

/-! ### Acceptance from the queue of a weft -/

/-- A state that differs from another in its weft cores and in the next access number alone. -/
def CoresOnly (s k : State) : Prop := k = { s with wcores := k.wcores, seq := k.seq }

theorem CoresOnly.trans {s k j : State} (h : CoresOnly s k) (h' : CoresOnly k j) : CoresOnly s j := by
  rw [CoresOnly] at h h' ⊢
  rw [h', h]

theorem coresOnly_putW (s : State) (c : Nat) (w : WCore) : CoresOnly s (s.putW c w) := rfl

theorem coresOnly_acceptOp (s : State) (b : Bolt) (weft stage slice : Nat) (kind : ArrKind) :
    CoresOnly s (s.acceptOp b weft stage slice kind) := rfl

/-- A state that differs from another by an operation that the array of a core has accepted from the queue of a weft, which
it leaves empty. -/
structure AcceptedFrom (s : State) (b : Bolt) (slot : Nat) (o : ArrOp) (g : Crook) (k : State) : Prop where
  aq : (k.wcore b.core).aq = (s.wcore b.core).aq ++ [o]
  queue : (k.weft? b.core slot).map Weft.waitQ = some []
  crook : (k.wcore b.core).crook = g
  only : CoresOnly s k

section

variable {s : State} {b : Bolt} {slot : Nat} {w : Weft} {q : QWait}

theorem dequeue_alone (w : Weft) (q : QWait) : ({ w with waitQ := [q] } : Weft).dequeue q = { w with waitQ := [] } := by
  simp [Weft.dequeue, same_refl]

/-- What accepting the wait in a weft's queue leaves. -/
theorem acceptOp_queued (weft slice : Nat) (kind : ArrKind) :
    AcceptedFrom s b slot (accepting s b weft slice kind) (s.wcore b.core).crook
      (((queued s b slot w q).acceptOp b weft (weft % b.nstage) slice kind).modWeft b.core slot
        fun w => w.dequeue (q.settled b)) := by
  have hw : ((queued s b slot w q).acceptOp b weft (weft % b.nstage) slice kind).weft? b.core slot =
      some { w with waitQ := [q.settled b] } := by
    simp [State.acceptOp, State.bump, State.weft?, queued, State.putWeft, State.wcore, State.putW, tabGet_tabPut_same]
  rw [State.modWeft_of hw, dequeue_alone]
  refine ⟨?_, ?_, ?_, ((coresOnly_putW s _ _).trans (coresOnly_acceptOp _ _ _ _ _ _)).trans (coresOnly_putW _ _ _)⟩
  · simp [State.acceptOp, State.bump, queued, State.putWeft, State.wcore, State.putW, tabGet_tabPut_same, accepting]
  · simp
  · simp [State.acceptOp, State.bump, queued, State.putWeft, State.wcore, State.putW, tabGet_tabPut_same]

/-- What accepting the quarter in a weft's queue leaves: the crook notes the cycle. -/
theorem acceptQuarter_queued (weft slice : Nat) (kind : ArrKind) :
    AcceptedFrom s b slot (accepting s b weft slice kind)
      { (s.wcore b.core).crook with lastAcc := some (s.wcore b.core).cyc }
      ((((queued s b slot w q).acceptOp b weft (weft % b.nstage) slice kind).modCrook b.core fun c =>
        { c with lastAcc := some (s.wcore b.core).cyc }).modWeft b.core slot fun w => w.dequeue (q.settled b)) := by
  have hw : (((queued s b slot w q).acceptOp b weft (weft % b.nstage) slice kind).modCrook b.core fun c =>
      { c with lastAcc := some (s.wcore b.core).cyc }).weft? b.core slot = some { w with waitQ := [q.settled b] } := by
    simp [State.acceptOp, State.bump, State.weft?, queued, State.putWeft, State.wcore, State.putW, tabGet_tabPut_same,
      State.modCrook]
  rw [State.modWeft_of hw, dequeue_alone]
  refine ⟨?_, ?_, ?_, (((coresOnly_putW s _ _).trans (coresOnly_acceptOp _ _ _ _ _ _)).trans (coresOnly_putW _ _ _)).trans
    (coresOnly_putW _ _ _)⟩
  · simp [State.acceptOp, State.bump, queued, State.putWeft, State.wcore, State.putW, tabGet_tabPut_same, accepting,
      State.modCrook]
  · simp
  · simp [State.acceptOp, State.bump, queued, State.putWeft, State.wcore, State.putW, tabGet_tabPut_same, State.modCrook]

@[simp] theorem queued_aq : ((queued s b slot w q).wcore b.core).aq = (s.wcore b.core).aq := by
  simp [queued, State.putWeft]

@[simp] theorem queued_crook : ((queued s b slot w q).wcore b.core).crook = (s.wcore b.core).crook := by
  simp [queued, State.putWeft]

@[simp] theorem queued_cyc : ((queued s b slot w q).wcore b.core).cyc = (s.wcore b.core).cyc := by
  simp [queued, State.putWeft]

/-- The operations of all arrays do not depend on the queues of wefts. -/
theorem storeGuard_queued (hw : s.weft? b.core slot = some w) (bolt lo n : Nat) :
    (queued s b slot w q).storeGuard bolt lo n = s.storeGuard bolt lo n := by
  have hc : ∃ c, tabGet s.wcores b.core = some c := by
    cases hc : tabGet s.wcores b.core with
    | some c => exact ⟨c, rfl⟩
    | none => simp [State.weft?, State.wcore, hc, WCore.halted0, tabGet] at hw
  obtain ⟨c, hc⟩ := hc
  simp only [State.storeGuard, State.allArrOps, List.any_flatMap, queued, State.putWeft, State.putW]
  refine any_tabPut (fun c : WCore => c.aq.any fun o => o.writes.any fun r => r.meets bolt lo n) _ ?_
  simp [State.wcore, hc]

/-- The bolt of a lane in a weft core. -/
theorem onArray_of {l : Lane} (hl : l.thread.onLatency = false) (hb : l.thread.bolt = some b.id) (hs : s.bolt? b.id = some b)
    (hp : b.pack = false) (body : Bolt → Act) : onArray s l body = body b := by
  simp [onArray, hl, hb, hs, hp]

/-- The lanes of a weft that stand at a lane's instruction are those of a wait of its own. -/
theorem waitStands_of {quarters : Bool} {n : Nat} {t : Thread} (h : LeadsWeft s quarters w n t) (hq : q.leader = t.tid)
    (hpc : q.pc = t.pc) (hn : q.quarter? = if quarters then some (n / 8) else none) : s.waitStands w q = true := by
  obtain ⟨rest, hrest⟩ := h
  have hsh : s.sharers w q = t.tid :: rest.map (·.2) := by
    have hf : s.sharers w q = (w.members.filter fun p => (!quarters || p.1 / 8 == n / 8) &&
        ((s.thread? p.2).map fun u => u.active && u.pc == t.pc).getD false).map (·.2) := by
      rw [State.sharers]
      congr 1
      refine List.filter_congr fun p _ => ?_
      rw [hn, hpc]
      cases quarters <;> cases s.thread? p.2 <;> rfl
    rw [hf, hrest]
    rfl
  simp [State.waitStands, hsh, hq]

end

/-! ### The statements' forms -/

section

variable {i : Instr} {r : OpRule} {f : Fields} {quarters : Bool} {body : State → Lane → Bolt → Act}

/-- An instruction whose meaning is an issue by leaders, of one for the group or of one for each quarter. -/
def LedBy (i : Instr) (r : OpRule) (f : Fields) (quarters : Bool) (body : State → Lane → Bolt → Act) : Prop :=
  ∀ s ls n t, Led s r f ls n t → InQuarter quarters ls n → exec i s =
    .next (leadEnd f (ls.map fun p => p.2.tid) s (onArray s (readLane r f n t []) (body s (readLane r f n t [])))).bump

theorem ledBy_once (h : ∀ s, exec i s = issueOnce r f (fun s l => onArray s l (body s l)) s) : LedBy i r f false body :=
  fun s _ _ _ hl _ => (h s).trans (issueOnce_led hl _)

theorem ledBy_quarters (h : ∀ s, exec i s = issueLeads r f s.quarterLeads (fun s l => onArray s l (body s l)) s)
    (hr : r.rd ≠ .gen) : LedBy i r f true body :=
  fun s _ _ _ hl hq => (h s).trans (issueQuarters_led hl hr hq _)

/-- The lead of an issue is one of its lanes. -/
theorem head_mem {α : Type} {ls : List α} {a : α} (h : ls.head? = some a) : a ∈ ls := List.mem_of_mem_head? h

theorem matrixActs_of {need : State → Bolt → Lane → Prop} {eff : State → Bolt → Lane → State}
    {got : State → Bolt → Lane → Option Word} (h : LedBy i r f false body)
    (hkeep : ∀ s b l, (eff s b l).threads = s.threads)
    (hbody : ∀ s b l, s.bolt? b.id = some b → need s b l →
      body s l b = (got s b l).elim (.done (eff s b l)) (.value (eff s b l))) : MatrixActs i r f need eff got := by
  intro s b ls n t ha hp hn
  have hl := ha.cores _ (head_mem ha.first)
  rw [h s ls n t (led_of_atArray ha) (fun hq => by cases hq), onArray_of hl ha.bolt ha.held hp, hbody s b _ ha.held hn]
  have hheld : ∀ p ∈ ls, (eff s b (readLane r f n t [])).thread? p.2.tid = some p.2 := fun p hpm => by
    rw [State.thread?, hkeep]
    exact ha.group.held p hpm
  cases hg : got s b (readLane r f n t []) with
  | none =>
    refine congrArg (fun k : State => Host.Outcome.next k.bump) ?_
    exact doneTids_map none ha.group.nodup hheld
  | some v =>
    refine congrArg (fun k : State => Host.Outcome.next k.bump) ?_
    exact doneTids_map (some v) ha.group.nodup hheld

theorem matrixWaits_of {why : State → Bolt → Lane → Prop} (h : LedBy i r f false body)
    (hbody : ∀ s b l, why s b l → body s l b = .wait fun k => k) : MatrixWaits i r f why := by
  intro s b ls n t ha hp hn
  have hl := ha.cores _ (head_mem ha.first)
  rw [h s ls n t (led_of_atArray ha) (fun hq => by cases hq), onArray_of hl ha.bolt ha.held hp, hbody s b _ hn]
  rfl

theorem matrixTraps_of {why : State → Bolt → Lane → Option Trap} (h : LedBy i r f quarters body)
    (hbody : ∀ s b l tr, why s b l = some tr → body s l b = .trap tr false) : MatrixTraps i r f quarters why := by
  refine ⟨fun s b ls n t tr ha hq hw => ?_, fun s n t hr hl hn hwait => ⟨Config.openTrapval s.fresh, ?_⟩⟩
  · have hl := ha.cores _ (head_mem ha.first)
    have hact : onArray s (readLane r f n t []) (body s (readLane r f n t [])) = .trap tr false := by
      cases hp : b.pack with
      | false =>
        rw [hp] at hw
        rw [onArray_of hl ha.bolt ha.held hp, hbody s b _ tr hw]
      | true =>
        rw [hp] at hw
        cases hw
        have hb : (readLane r f n t []).thread.bolt = some b.id := ha.bolt
        have hl' : (readLane r f n t []).thread.onLatency = false := hl
        simp only [onArray, hl', Bool.false_eq_true, if_false, hb, Option.bind_some, ha.held, hp, if_true]
        rfl
    have hwaits : leadWaits s (ls.map fun p => p.2.tid) tr = false := leadWaits_false fun x hx => by
      obtain ⟨p, hp, rfl⟩ := List.mem_map.1 hx
      exact trapWaits_member (ha.group.held p hp) (ha.cores p hp)
    rw [h s ls n t (led_of_atArray ha) hq, hact, leadEnd, hwaits, if_neg Bool.false_ne_true, trapTids_map]
  · have hl' : (readLane r f n t []).thread.onLatency = true := hl
    have hq : InQuarter quarters [(n, t)] n := fun _ => ⟨hn, fun p hp => by rw [List.mem_singleton.1 hp]⟩
    have hwaits : ∀ tr, (∀ v, tr ≠ Trap.mk .needw v false) ∨ leadWaits s ([(n, t)].map fun p => p.2.tid) tr = false := by
      intro tr
      by_cases he : ∃ v, tr = ⟨.needw, v, false⟩
      · obtain ⟨v, rfl⟩ := he
        exact .inr (leadWaits_false fun x hx => by rw [List.mem_singleton.1 hx]; exact hwait v)
      · exact .inl fun v hv => he ⟨v, hv⟩
    rw [h s _ n t (led_of_ready hr) hq, onArray, hl', if_pos rfl, leadEnd,
      (hwaits _).resolve_left (fun hne => hne _ rfl), if_neg Bool.false_ne_true]
    rfl

end

end Sys2Proof.Machine
end

section
/-! SUPPORT. The matrix instructions one by one: what their leaders' bodies say (R291, R304, R309 to R316), and O34. -/

namespace Sys2Proof.Machine

open Sys2Proof.Claims

/-! ### Stops before the array (R309, R311) -/

section

variable {s : State} {b : Bolt} {f : Fields} {l : Lane}

theorem sliceOf_room {k off : Nat} (h : k + off < b.nslice) : sliceOf b k off = .ok (k + off) := by
  rw [sliceOf, if_neg (by omega)]

theorem sliceOf_beyond {k off : Nat} (h : b.nslice ≤ k + off) :
    sliceOf b k off = .error ⟨.prot, BitVec.ofNat 64 (k + off), false⟩ := by
  rw [sliceOf, if_pos h]; rfl

theorem sliceBy_wide {v : Word} (h : 16 ≤ v.toNat) : sliceBy b f v = .error ⟨.prot, v, false⟩ := by
  have hv := v.isLt
  have h1 : bitsAt v.toNat 4 60 ≠ 0 := by simp only [bitsAt, Nat.reducePow] at hv ⊢; omega
  simp [sliceBy, h1]

theorem sliceBy_beyond {v : Word} (h : v.toNat < 16) (hs : b.nslice ≤ f.rd.val + v.toNat) :
    sliceBy b f v = .error ⟨.prot, BitVec.ofNat 64 (f.rd.val + v.toNat), false⟩ := by
  have h1 : bitsAt v.toNat 4 60 = 0 := by simp only [bitsAt, Nat.reducePow]; omega
  have h2 : bitsAt v.toNat 0 4 = v.toNat := by simp only [bitsAt, Nat.reducePow]; omega
  simp only [sliceBy, h1, h2, ne_eq, not_true, if_false, sliceOf_beyond hs]

/-- The check of a tile's address says what `tileStop` says. -/
theorem spCheck_tile (v : Int) : (∀ tr, tileStop s b v = some tr → spCheck s b v 64 64 = .error tr) ∧
    (tileStop s b v = none → ∃ p, spCheck s b v 64 64 = .ok p) := by
  have h64 : ((64 : Nat) : Int) = 64 := rfl
  simp only [tileStop, spCheck, h64]
  by_cases hr : v < 0 ∨ 2 ^ 23 ≤ v
  · rw [if_pos hr, if_pos hr]
    exact ⟨fun tr h => by cases h; rfl, fun h => by cases h⟩
  by_cases ha : v % 64 ≠ 0
  · rw [if_neg hr, if_neg hr, if_pos ha, if_pos ha]
    exact ⟨fun tr h => by cases h; rfl, fun h => by cases h⟩
  rw [if_neg hr, if_neg hr, if_neg ha, if_neg ha]
  cases s.foldBolt b (v.toNat / 2 ^ 21) with
  | none => exact ⟨fun tr h => by cases h; rfl, fun h => by cases h⟩
  | some m =>
    by_cases hm : m.size < v.toNat % 2 ^ 21 + 64
    · have hm' : ¬ v.toNat % 2 ^ 21 + 64 ≤ 2048 * m.rows := by rw [Bolt.size] at hm; omega
      simp only [Option.map_some, Option.getD_some, decide_eq_true_eq, if_pos hm, if_neg hm']
      exact ⟨fun tr h => by cases h; rfl, fun h => by cases h⟩
    · have hm' : v.toNat % 2 ^ 21 + 64 ≤ 2048 * m.rows := by rw [Bolt.size] at hm; omega
      simp only [Option.map_some, Option.getD_some, decide_eq_true_eq, if_neg hm, if_pos hm']
      exact ⟨fun tr h => (by cases h), fun _ => ⟨_, rfl⟩⟩

/-- The stop of a quarter's A operand (R292, R309). -/
def stopA (f : Fields) (s : State) (b : Bolt) (l : Lane) : Option Trap :=
  if f.mod.getLsbD 0 then
    if l.a.toNat / 16 % 16 ≠ 0 ∨ (tabGet b.handles (l.a.toNat % 16)).isNone = true then some ⟨.prot, l.a, false⟩ else none
  else tileStop s b (l.a.toInt + f.imm.toInt)

/-- The stop of a quarter's B set (R292, R309). -/
def stopB (f : Fields) (s : State) (b : Bolt) (l : Lane) : Option Trap :=
  if f.mod.getLsbD 1 then
    if l.b.toNat / 16 % 16 ≠ 0 ∨ 12 < l.b.toNat % 16 ∨
        ∃ t ∈ List.range 4, (tabGet b.handles (l.b.toNat % 16 + t)).isNone = true then some ⟨.prot, l.b, false⟩
    else none
  else tileStop s b l.b.toInt

theorem operandA_stop : (∀ tr, stopA f s b l = some tr → operandA s b f l.a = .error tr) ∧
    (stopA f s b l = none → ∃ o, operandA s b f l.a = .ok o) := by
  rw [stopA, operandA]
  cases f.mod.getLsbD 0 with
  | true =>
    have hw : handleWord l.a = l.a.toNat % 16 := handleWord_eq l.a
    have hb : bitsAt l.a.toNat 4 4 = l.a.toNat / 16 % 16 := rfl
    simp only [if_true, hw, hb, Bolt.handle?]
    split_ifs
    · exact ⟨fun tr h => by cases h; rfl, fun h => by cases h⟩
    · exact ⟨fun tr h => (by cases h), fun _ => ⟨_, rfl⟩⟩
  | false =>
    obtain ⟨he, hk⟩ := spCheck_tile (s := s) (b := b) (l.a.toInt + f.imm.toInt)
    simp only [Bool.false_eq_true, if_false, Fields.simm]
    refine ⟨fun tr h => by rw [he tr h], fun h => ?_⟩
    obtain ⟨p, hp⟩ := hk h
    exact ⟨_, by rw [hp]⟩

theorem operandB_stop {tr : Trap} (h : stopB f s b l = some tr) : operandB s b f l.b = .error tr := by
  rw [stopB] at h
  rw [operandB]
  cases hm : f.mod.getLsbD 1 with
  | true =>
    have hw : handleWord l.b = l.b.toNat % 16 := handleWord_eq l.b
    have hb : bitsAt l.b.toNat 4 4 = l.b.toNat / 16 % 16 := rfl
    simp only [hm, if_true] at h
    simp only [if_true, hw, hb, Bolt.handle?, List.any_eq_true]
    split_ifs at h with hc
    cases h
    rw [if_pos]
    obtain hz | h12 | hu := hc
    · exact .inl hz
    · exact .inr (.inl (by omega))
    · exact .inr (.inr hu)
  | false =>
    simp only [hm, Bool.false_eq_true, if_false] at h ⊢
    rw [(spCheck_tile _).1 tr h]

/-- A quarter may issue exactly where its bolt holds the crook or has a claim (R301, R309). -/
theorem holds_or_due (st : Nat) : (!s.holds b st && !s.due b st) =
    decide ((s.wcore b.core).crook.holder.map (·.1) ≠ some b.id ∧ ∀ x ∈ (s.wcore b.core).crook.claims, x.1 ≠ b.id) := by
  rw [Bool.eq_iff_iff, decide_eq_true_eq]
  simp only [State.holds, State.due, State.claims]
  cases (s.wcore b.core).crook.holder with
  | none => simp
  | some p =>
    obtain ⟨id, k⟩ := p
    by_cases h1 : id = b.id
    · by_cases h2 : k = st <;> simp [h1, h2]
    · simp [h1]

end

/-! ### The array of a core and the queues of its wefts -/

section

variable {s : State} {b : Bolt} {slot : Nat} {w : Weft} {q : QWait}

theorem arrayFree_of {core : Nat} (h : (s.wcore core).aq.length < 32) : s.arrayFree core = true := decide_eq_true h

@[simp] theorem queued_arrayFree : (queued s b slot w q).arrayFree b.core = s.arrayFree b.core := by
  rw [State.arrayFree, queued_aq, State.arrayFree]

@[simp] theorem queued_holds (st : Nat) : (queued s b slot w q).holds b st = s.holds b st := by
  rw [State.holds, queued_crook, State.holds]

end

/-! ### MMQ and MMQS -/

/-- What MMQ and MMQS do for the leader of a quarter. -/
def mmqBody (f : Fields) (sparse : Bool) (s : State) (l : Lane) (b : Bolt) : Act :=
  let st := l.thread.weftStage b
  if !s.holds b st && !s.due b st then .trap ⟨.crook, s.crookStatus b, false⟩ false
  else
    match quarterChecks s b f l with
    | .error t => .trap t false
    | .ok (k, a, bs) => submitWait s l b ⟨l.tid, l.thread.pc, f, k, .quarter (l.lane / 8) sparse a bs⟩

/-- The wait of a quarter whose tiles are readable. -/
def quarterWait (f : Fields) (sparse : Bool) (l : Lane) (slice : Nat) : QWait :=
  ⟨l.tid, l.thread.pc, f, slice, .quarter (l.lane / 8) sparse (quarterA f l) (quarterB f l)⟩

section

variable {f : Fields} {sparse : Bool} {s : State} {b : Bolt} {l : Lane} {slice : Nat} {kind : ArrKind} {w : Weft}

theorem mmqBody_trap {tr : Trap} (h : quarterTrap f s b l = some tr) : mmqBody f sparse s l b = .trap tr false := by
  have hstops : quarterTrap f s b l =
      if (s.wcore b.core).crook.holder.map (·.1) ≠ some b.id ∧ ∀ x ∈ (s.wcore b.core).crook.claims, x.1 ≠ b.id then
        some ⟨.crook, s.crookStatus b, false⟩
      else if 16 ≤ l.c.toNat then some ⟨.prot, l.c, false⟩
      else if b.nslice ≤ f.rd.val + l.c.toNat then some ⟨.prot, BitVec.ofNat 64 (f.rd.val + l.c.toNat), false⟩
      else (stopA f s b l).elim (stopB f s b l) some := by
    rw [quarterTrap]
    congr 3
    change (match stopA f s b l with
      | some tr => some tr
      | none => stopB f s b l) = _
    cases stopA f s b l <;> rfl
  rw [hstops] at h
  rw [mmqBody]
  simp only [holds_or_due, decide_eq_true_eq]
  split_ifs at h ⊢ with h1 h2 h3
  · cases h; rfl
  · cases h; simp only [quarterChecks, sliceBy_wide h2]
  · cases h; simp only [quarterChecks, sliceBy_beyond (by omega) h3]
  · have hk := sliceBy_ok (f := f) (Nat.lt_of_not_le h2) (Nat.lt_of_not_le h3)
    cases ha : stopA f s b l with
    | some tr' =>
      rw [ha] at h
      cases h
      simp only [quarterChecks, hk, operandA_stop.1 _ ha]
    | none =>
      rw [ha] at h
      obtain ⟨o, ho⟩ := operandA_stop.2 ha
      simp only [quarterChecks, hk, ho, operandB_stop h]

/-- A quarter whose tiles are readable goes to the queue of its weft. -/
theorem mmqBody_submits (hc : s.holds b (l.thread.weftStage b) = true ∨ s.due b (l.thread.weftStage b) = true)
    (h : QuarterTiles f sparse s b l slice kind) (hs : slice < b.nslice) :
    mmqBody f sparse s l b = submitWait s l b (quarterWait f sparse l slice) := by
  have hno : (!s.holds b (l.thread.weftStage b) && !s.due b (l.thread.weftStage b)) = false := by
    rcases hc with hc | hc <;> simp [hc]
  simp only [mmqBody, hno, Bool.false_eq_true, if_false, quarterTiles_checks h hs]
  rfl

/-- What the array makes of a quarter whose tiles are readable, alone in the queue of its weft. -/
theorem acceptWait_quarter (slot widx : Nat) (h : QuarterTiles f sparse s b l slice kind) :
    (queued s b slot w (quarterWait f sparse l slice)).acceptWait b widx ((quarterWait f sparse l slice).settled b) =
      if !s.holds b (widx % b.nstage) || !s.arrayFree b.core then .wait
      else .ok (((queued s b slot w (quarterWait f sparse l slice)).acceptOp b widx (widx % b.nstage) slice kind).modCrook
        b.core fun c => { c with lastAcc := some (s.wcore b.core).cyc }) := by
  have h' : QuarterTiles f sparse (queued s b slot w (quarterWait f sparse l slice)) b l slice kind := h
  obtain ⟨ta, tb, rfl, hA, hB⟩ := quarterTiles_looks h'
  change (queued s b slot w _).acceptQuarter b widx slice sparse ((quarterA f l).given b)
    ((quarterB f l).map (Opnd.given b)) = _
  simp only [State.acceptQuarter, hA, hB, queued_holds, queued_arrayFree, queued_cyc]

variable (hw : s.weft? b.core l.thread.slot = some w) (hwi : w.widx = l.thread.weft) (hwq : w.waitQ = [])
  (hlead : LeadsWeft s true w l.lane l.thread) (htid : l.tid = l.thread.tid) (hs : slice < b.nslice)
  (ht : QuarterTiles f sparse s b l slice kind)

include hw hwi hwq hlead htid hs ht

/-- A quarter that the crook holds, with room in the array, is accepted as it issues. -/
theorem mmqBody_accepts (hh : (s.wcore b.core).crook.holder = some (b.id, stageOf b l))
    (hroom : (s.wcore b.core).aq.length < 32) : ∃ k, mmqBody f sparse s l b = .done k ∧
      AcceptedFrom s b l.thread.slot (accepting s b l.thread.weft slice kind)
        { (s.wcore b.core).crook with lastAcc := some (s.wcore b.core).cyc } k := by
  have hhold : s.holds b (l.thread.weft % b.nstage) = true := by simp [State.holds, hh, stageOf]
  have hfree : s.arrayFree b.core = true := arrayFree_of hroom
  have hstand := waitStands_of (q := quarterWait f sparse l slice) hlead htid rfl rfl
  have hacc := acceptWait_quarter (w := w) l.thread.slot w.widx ht
  rw [hwi, hhold, hfree] at hacc
  rw [mmqBody_submits (.inl hhold) ht hs]
  refine ⟨_, (submitWait_alone hw hwq hstand (quarterTiles_placed ht)).1 _ ?_,
    acceptQuarter_queued (w := w) _ _ _⟩
  rw [hwi]
  exact hacc

/-- A quarter whose bolt has the crook for another stage or a claim waits. -/
theorem mmqBody_due (hh : (s.wcore b.core).crook.holder ≠ some (b.id, stageOf b l))
    (hd : (s.wcore b.core).crook.holder.map (·.1) = some b.id ∨ ∃ x ∈ (s.wcore b.core).crook.claims, x.1 = b.id) :
    ∃ keep, mmqBody f sparse s l b = .wait keep ∧
      keep s = (queued s b l.thread.slot w (quarterWait f sparse l slice)).noteArray b.core := by
  have hhold : s.holds b (l.thread.weft % b.nstage) = false := by simpa [State.holds, stageOf] using hh
  have hdue : s.due b (l.thread.weft % b.nstage) = true := by
    have := holds_or_due (s := s) (b := b) (l.thread.weft % b.nstage)
    rw [decide_eq_false (by
      rintro ⟨h1, h2⟩
      rcases hd with hd | ⟨x, hx, hd⟩
      · exact h1 hd
      · exact h2 x hx hd)] at this
    simpa [hhold] using this
  have hstand := waitStands_of (q := quarterWait f sparse l slice) hlead htid rfl rfl
  have hacc := acceptWait_quarter (w := w) l.thread.slot w.widx ht
  rw [hwi, hhold] at hacc
  rw [mmqBody_submits (.inr hdue) ht hs]
  refine (submitWait_alone hw hwq hstand (quarterTiles_placed ht)).2 ?_
  rw [hwi]
  exact hacc

end

/-! ### MZERO, MLDA and MSTA -/

/-- What MZERO does for its leader. -/
def mzeroBody (f : Fields) (s : State) (l : Lane) (b : Bolt) : Act :=
  match sliceBy b f l.a with
  | .error t => .trap t false
  | .ok k => submitNow s l b k .zero

/-- What MLDA does for its leader. -/
def mldaBody (bf : Bool) (f : Fields) (s : State) (l : Lane) (b : Bolt) : Act :=
  match moveCheck s b f l (if bf then 2 else 4) with
  | .error t => .trap t false
  | .ok m =>
    if s.scoreboard m.range.bolt m.range.lo (m.range.hi - m.range.lo) then .wait fun k => k
    else submitNow s l b m.slice (.load m.range m.addr m.pitch bf)

/-- What MSTA does for its leader. -/
def mstaBody (fmt : Nat) (f : Fields) (s : State) (l : Lane) (b : Bolt) : Act :=
  match moveCheck s b f l (elemBytes fmt) with
  | .error t => .trap t false
  | .ok m => submitWait s l b ⟨l.tid, l.thread.pc, f, m.slice, .store m.range m.addr m.pitch fmt⟩

section

variable {f : Fields} {s : State} {b : Bolt} {l : Lane} {slice z addr pitch : Nat} {range : SpRange} {w : Weft}

/-- With nothing of its weft waiting and room in the array, an operation is accepted. -/
theorem submitNow_free {kind : ArrKind} (hm : s.matrixWaits b l.thread.weft = false)
    (hr : (s.wcore b.core).aq.length < 32) :
    submitNow s l b slice kind = .done (withOp s b l.thread.weft slice kind) := by
  have hfree : s.arrayFree b.core = true := arrayFree_of hr
  simp only [submitNow, hm, Bool.false_eq_true, if_false, hfree, if_true]
  rfl

theorem moveCheck_ok (h : Moves f z s b l slice range addr pitch) (hs : slice < b.nslice) :
    moveCheck s b f l z = .ok ⟨slice, range, addr, pitch⟩ := by
  obtain ⟨ha, hw20, hp16, hp, h0, h1, rfl, rfl, rfl, m, hf, rfl, hhi, -⟩ := h
  have e1 : bitsAt l.b.toNat 20 44 = 0 := by simp only [bitsAt, Nat.reducePow] at hw20 ⊢; omega
  have e2 : bitsAt l.b.toNat 0 16 = l.b.toNat % 2 ^ 16 := by simp [bitsAt]
  have e3 : bitsAt l.b.toNat 16 4 = l.b.toNat / 2 ^ 16 := by simp only [bitsAt, Nat.reducePow] at hw20 ⊢; omega
  have hadd : l.addr f = addressOf f l := rfl
  have hc := spCheck_ok (align := 16) h0 h1 (by exact_mod_cast ha) hf hhi
  have hno : ¬ ((0 : Nat) ≠ 0 ∨ l.b.toNat % 2 ^ 16 % 16 ≠ 0 ∨ l.b.toNat % 2 ^ 16 < 128 * z) := by omega
  simp only [moveCheck, hadd, e1, e2, e3, ha, ne_eq, not_true, if_false] at hno ⊢
  simp only [if_neg hno, hc, sliceOf_room hs]

/-- The first check of a load or store that fails. -/
theorem moveCheck_trap {tr : Trap} (h : moveTrap f z s b l = some tr) : moveCheck s b f l z = .error tr := by
  have hlt := l.b.isLt
  have e2 : bitsAt l.b.toNat 0 16 = l.b.toNat % 2 ^ 16 := by simp [bitsAt]
  have hadd : l.addr f = addressOf f l := rfl
  simp only [moveTrap] at h
  simp only [moveCheck, hadd, e2]
  by_cases ha : addressOf f l % 16 ≠ 0
  · rw [if_pos ha] at h
    cases h
    rw [if_pos ha]; rfl
  rw [if_neg ha] at h ⊢
  by_cases hp : 2 ^ 20 ≤ l.b.toNat ∨ l.b.toNat % 2 ^ 16 % 16 ≠ 0 ∨ l.b.toNat % 2 ^ 16 < 128 * z
  · rw [if_pos hp] at h
    cases h
    rw [if_pos]
    rcases hp with hp | hp
    · exact .inl (by simp only [bitsAt, Nat.reducePow] at hlt hp ⊢; omega)
    · exact .inr hp
  rw [if_neg hp] at h
  have hno : ¬ (bitsAt l.b.toNat 20 44 ≠ 0 ∨ l.b.toNat % 2 ^ 16 % 16 ≠ 0 ∨ l.b.toNat % 2 ^ 16 < 128 * z) := by
    have : bitsAt l.b.toNat 20 44 = 0 := by simp only [bitsAt, Nat.reducePow] at hp ⊢; omega
    rw [this]; omega
  have e3 : bitsAt l.b.toNat 16 4 = l.b.toNat / 2 ^ 16 := by simp only [bitsAt, Nat.reducePow] at hp ⊢; omega
  rw [if_neg hno, e3]
  by_cases hr : addressOf f l < 0 ∨ 2 ^ 23 ≤ addressOf f l
  · rw [if_pos (hr.elim .inl fun h => .inr (.inl h))] at h
    cases h
    simp only [spCheck, if_pos hr]; rfl
  have hal : ¬ addressOf f l % ((16 : Nat) : Int) ≠ 0 := by exact_mod_cast ha
  cases hf : s.foldBolt b ((addressOf f l).toNat / 2 ^ 21) with
  | none =>
    rw [hf, if_pos (.inr (.inr rfl))] at h
    cases h
    simp only [spCheck, if_neg hr, if_neg hal, hf]; rfl
  | some m =>
    simp only [hf, Option.map_some, Option.getD_some, decide_eq_false_iff_not] at h
    by_cases hm : m.size < (addressOf f l).toNat % 2 ^ 21 + (31 * (l.b.toNat % 2 ^ 16) + 128 * z)
    · rw [if_pos (.inr (.inr (by rw [Bolt.size] at hm; omega)))] at h
      cases h
      simp only [spCheck, if_neg hr, if_neg hal, hf, if_pos hm]; rfl
    · have hin : ¬ (addressOf f l < 0 ∨ 2 ^ 23 ≤ addressOf f l ∨ ¬ (addressOf f l).toNat % 2 ^ 21 +
          (31 * (l.b.toNat % 2 ^ 16) + 128 * z) ≤ 2048 * m.rows) := by rw [Bolt.size] at hm; omega
      rw [if_neg hin] at h
      split_ifs at h with hsl
      cases h
      simp only [spCheck, if_neg hr, if_neg hal, hf, if_neg hm, sliceOf_beyond hsl]

/-- A store whose range no copy in flight meets is accepted as it issues. -/
theorem mstaBody_accepts {fmt : Nat} (hw : s.weft? b.core l.thread.slot = some w) (hwi : w.widx = l.thread.weft)
    (hwq : w.waitQ = []) (hlead : LeadsWeft s false w l.lane l.thread) (htid : l.tid = l.thread.tid)
    (hs : slice < b.nslice) (hroom : (s.wcore b.core).aq.length < 32)
    (hm : Moves f (elemBytes fmt) s b l slice range addr pitch)
    (hg : s.storeGuard range.bolt range.lo (range.hi - range.lo) = false) : ∃ k, mstaBody fmt f s l b = .done k ∧
      AcceptedFrom s b l.thread.slot (accepting s b l.thread.weft slice (.store range addr pitch fmt))
        (s.wcore b.core).crook k := by
  have hstand := waitStands_of (q := ⟨l.tid, l.thread.pc, f, slice, .store range addr pitch fmt⟩) hlead htid rfl rfl
  have hsb : s.scoreboard range.bolt range.lo (range.hi - range.lo) = false := by
    obtain ⟨-, -, -, -, -, -, -, -, -, m, -, rfl, -, hsb⟩ := hm
    rwa [Nat.add_sub_cancel_left]
  simp only [mstaBody, moveCheck_ok hm hs]
  refine ⟨_, (submitWait_alone hw hwq hstand (by simp [QWait.opnds])).1 _ ?_,
    acceptOp_queued (w := w) (q := ⟨l.tid, l.thread.pc, f, slice, .store range addr pitch fmt⟩) _ _ _⟩
  have hsb' : ∀ q, (queued s b l.thread.slot w q).scoreboard range.bolt range.lo (range.hi - range.lo) = false :=
    fun q => hsb
  have hfree : ∀ q, (queued s b l.thread.slot w q).arrayFree b.core = true := fun q => by
    simpa [State.arrayFree, arrayRoom] using hroom
  simp only [State.acceptWait, QWait.settled, State.acceptStore, hsb', storeGuard_queued hw, hg, hfree, hwi]
  rfl

end

/-! ### MERR -/

/-- What MERR.r does for its leader. -/
def merrRBody (s : State) (l : Lane) (b : Bolt) : Act :=
  if weftBusy s l b then .wait fun k => k
  else if bitsAt l.a.toNat 3 61 ≠ 0 then .trap ⟨.prot, l.a, false⟩ false
  else .value s (b.logEntry (bitsAt l.a.toNat 0 3))

/-- What MERR.c does for its leader. -/
def merrCBody (s : State) (l : Lane) (b : Bolt) : Act :=
  if weftBusy s l b then .wait fun k => k
  else .done (s.modBolt b.id fun b => { b with merr := 0, elog := List.replicate 8 0 })

theorem entry_wide (v : Word) : bitsAt v.toNat 3 61 ≠ 0 ↔ 8 ≤ v.toNat := by
  have := v.isLt
  simp only [bitsAt, Nat.reducePow] at this ⊢
  omega

theorem entry_low {v : Word} (h : v.toNat < 8) : bitsAt v.toNat 0 3 = v.toNat := by
  simp only [bitsAt, Nat.reducePow]; omega

/-! ### The statements' forms for what is accepted through a queue -/

section

variable {s k : State} {b : Bolt} {slot : Nat} {o : ArrOp} {g : Crook} {f : Fields} {ls : List (Nat × Thread)}

theorem putThreads_threads {s k : State} (h : k.threads = s.threads) (l : List Thread) :
    (k.putThreads l).threads = (s.putThreads l).threads := by
  induction l generalizing s k with
  | nil => exact h
  | cons t l ih => exact ih (by simp only [State.putThread, h])

/-- Lanes that go on with an accepted operation. -/
theorem acceptedFrom_past (h : AcceptedFrom s b slot o g k) (hn : (ls.map fun p => p.2.tid).Nodup)
    (hh : ∀ p ∈ ls, s.thread? p.2.tid = some p.2) :
    AcceptedFrom s b slot o g { doneTids k f (ls.map fun p => p.2.tid) none with threads := s.threads } ∧
      (doneTids k f (ls.map fun p => p.2.tid) none).threads = (s.putThreads (ls.map fun p => p.2.past f false)).threads := by
  have hthreads : k.threads = s.threads := by have := h.only; rw [CoresOnly] at this; rw [this]
  have hheld : ∀ p ∈ ls, k.thread? p.2.tid = some p.2 := fun p hp => by rw [State.thread?, hthreads]; exact hh p hp
  rw [doneTids_map none hn hheld]
  refine ⟨?_, putThreads_threads hthreads _⟩
  rw [State.putThreads_eq]
  obtain ⟨haq, hqu, hcr, honly⟩ := h
  refine ⟨haq, hqu, hcr, ?_⟩
  rw [CoresOnly] at honly ⊢
  rw [honly]

/-- The form of `Accepts`, from what a leader's body says. -/
theorem accepts_of {i : Instr} {r : OpRule} {quarters : Bool} {op : State → Bolt → Lane → Nat → ArrKind → Prop}
    {body : State → Lane → Bolt → Act} (h : LedBy i r f quarters body)
    (hbody : ∀ s b l w slice kind, s.weft? b.core l.thread.slot = some w → w.widx = l.thread.weft → w.waitQ = [] →
      LeadsWeft s quarters w l.lane l.thread → l.tid = l.thread.tid → op s b l slice kind → slice < b.nslice →
      (s.wcore b.core).aq.length < 32 → ∃ k, body s l b = .done k ∧
        AcceptedFrom s b l.thread.slot (accepting s b l.thread.weft slice kind)
          (if quarters then { (s.wcore b.core).crook with lastAcc := some (s.wcore b.core).cyc } else (s.wcore b.core).crook)
          k) : Accepts i r f quarters op := by
  intro s b ls n t core slot lane w slice kind ha hp hq hloc hw hwi hwq hlead hop hs hroom
  have hl := ha.cores _ (head_mem ha.first)
  have hslot : t.slot = slot := by rw [Thread.slot, hloc]
  subst hslot
  obtain ⟨k, hk, hacc⟩ := hbody s b (readLane r f n t []) w slice kind hw hwi hwq hlead rfl hop hs hroom
  refine ⟨_, by rw [h s ls n t (led_of_atArray ha) hq, onArray_of hl ha.bolt ha.held hp, hk, leadEnd], ?_⟩
  obtain ⟨⟨haq, hqu, hcr, honly⟩, hthreads⟩ := acceptedFrom_past (f := f) hacc ha.group.nodup ha.group.held
  rw [CoresOnly] at honly
  exact ⟨haq, hqu, hcr, hthreads, (congrArg State.mem honly :), (congrArg State.vmem honly :), (congrArg State.bolts honly :),
    (congrArg State.jobs honly :)⟩

end

end Sys2Proof.Machine
end

section
/-! SUPPORT. The forms of O34 instruction by instruction, and O34. -/

namespace Sys2Proof.Machine

open Sys2Proof.Claims

/-! ### Who leads -/

theorem ledBy_mmq (f : Fields) : ∀ e ∈ [(Instr.mmq f, false), (.mmqs f, true)], LedBy e.1 rMmq f true (mmqBody f e.2) := by
  intro e he
  simp only [List.mem_cons, List.not_mem_nil, or_false] at he
  rcases he with rfl | rfl
  · exact ledBy_quarters (fun _ => rfl) (by decide)
  · exact ledBy_quarters (fun _ => rfl) (by decide)

theorem ledBy_mzero (f : Fields) : LedBy (.mzero f) rMzero f false (mzeroBody f) := ledBy_once fun _ => rfl

/-- The loads, with the bytes of an element and whether it is a bf16 (R312). -/
theorem ledBy_mlda (f : Fields) : ∀ e ∈ [(Instr.mldaF32 f, 4, false), (.mldaBf f, 2, true)],
    LedBy e.1 rMlda f false (mldaBody e.2.2 f) ∧ e.2.1 = if e.2.2 then 2 else 4 := by
  intro e he
  simp only [List.mem_cons, List.not_mem_nil, or_false] at he
  rcases he with rfl | rfl
  · exact ⟨ledBy_once fun _ => rfl, rfl⟩
  · exact ⟨ledBy_once fun _ => rfl, rfl⟩

/-- The stores, with the bytes of an element and its format (R313). -/
theorem ledBy_msta (f : Fields) : ∀ e ∈ [(Instr.mstaF32 f, 4, 0), (.mstaBf f, 2, 2), (.mstaH f, 2, 1), (.mstaE4 f, 1, 3),
    (.mstaE5 f, 1, 4)], LedBy e.1 rMlda f false (mstaBody e.2.2 f) ∧ e.2.1 = elemBytes e.2.2 := by
  intro e he
  simp only [List.mem_cons, List.not_mem_nil, or_false] at he
  rcases he with rfl | rfl | rfl | rfl | rfl
  · exact ⟨ledBy_once fun _ => rfl, (by decide : 4 = elemBytes 0)⟩
  · exact ⟨ledBy_once fun _ => rfl, (by decide : 2 = elemBytes 2)⟩
  · exact ⟨ledBy_once fun _ => rfl, (by decide : 2 = elemBytes 1)⟩
  · exact ⟨ledBy_once fun _ => rfl, (by decide : 1 = elemBytes 3)⟩
  · exact ⟨ledBy_once fun _ => rfl, (by decide : 1 = elemBytes 4)⟩

theorem ledBy_merrR (f : Fields) : LedBy (.merrR f) rMerr f false merrRBody := ledBy_once fun _ => rfl

theorem ledBy_merrC (f : Fields) : LedBy (.merrC f) rNone f false merrCBody := ledBy_once fun _ => rfl

/-! ### Quarters -/

theorem accepts_mmq {i : Instr} {f : Fields} {sparse : Bool} (h : LedBy i rMmq f true (mmqBody f sparse)) :
    Accepts i rMmq f true (QuarterOp f sparse) :=
  accepts_of h fun _ _ _ _ _ _ hw hwi hwq hlead htid hop hs hroom =>
    mmqBody_accepts hw hwi hwq hlead htid hs hop.2 hop.1 hroom

/-- A quarter's part of an issue of MMQ or MMQS. -/
def mmqPart (f : Fields) (sparse : Bool) (g : List (Nat × Thread)) (k : State) : State :=
  quarterStep rMmq f (mmqLane f sparse) g k

section

variable {f : Fields} {sparse : Bool} {k : State} {b : Bolt} {n : Nat} {t : Thread} {rest : List (Nat × Thread)}
  (hp : touchesPort rMmq f = false) (hr : LaneReady k rMmq f false t) (hl : t.onLatency = false)
  (hb : t.bolt = some b.id) (hs : k.bolt? b.id = some b) (hpk : b.pack = false)

include hp hr hl hb hs hpk

theorem mmqPart_cons : mmqPart f sparse ((n, t) :: rest) k = leadEnd f (((n, t) :: rest).map fun p => p.2.tid) k
    (mmqBody f sparse k (readLane rMmq f n t []) b) := by
  rw [mmqPart, quarterStep_cons hr hp]
  refine congrArg (leadEnd f _ k) ?_
  exact onArray_of (l := readLane rMmq f n t []) hl hb hs hpk (mmqBody f sparse k (readLane rMmq f n t []))

/-- A quarter that a check stops. -/
theorem mmqPart_trap {tr : Trap} (h : quarterTrap f k b (readLane rMmq f n t []) = some tr)
    (hw : ∀ p ∈ (n, t) :: rest, trapWaits k p.2.tid tr = false) : mmqPart f sparse ((n, t) :: rest) k =
      ((n, t) :: rest).foldl (fun k p => takeTrap k p.2.tid f tr false false) k := by
  have hwaits : leadWaits k (((n, t) :: rest).map fun p => p.2.tid) tr = false := leadWaits_false fun x hx => by
    obtain ⟨p, hp, rfl⟩ := List.mem_map.1 hx
    exact hw p hp
  rw [mmqPart_cons hp hr hl hb hs hpk, mmqBody_trap h, leadEnd, hwaits, if_neg Bool.false_ne_true, trapTids_map]

variable (hh : ∀ p ∈ (n, t) :: rest, k.thread? p.2.tid = some p.2)
  (hn : (((n, t) :: rest).map fun p => p.2.tid).Nodup) {slice : Nat} {kind : ArrKind} {w : Weft}
  (hw : k.weft? b.core t.slot = some w) (hwi : w.widx = t.weft) (hwq : w.waitQ = [])
  (hlead : LeadsWeft k true w n t) (hsl : slice < b.nslice)

include hw hwi hwq hlead hsl

include hh hn in
/-- A quarter that is accepted as it issues. -/
theorem mmqPart_accepts (hroom : (k.wcore b.core).aq.length < 32)
    (ho : QuarterOp f sparse k b (readLane rMmq f n t []) slice kind) :
    ((mmqPart f sparse ((n, t) :: rest) k).wcore b.core).aq = (k.wcore b.core).aq ++ [accepting k b t.weft slice kind] ∧
    ((mmqPart f sparse ((n, t) :: rest) k).wcore b.core).crook =
      { (k.wcore b.core).crook with lastAcc := some (k.wcore b.core).cyc } ∧
    (mmqPart f sparse ((n, t) :: rest) k).threads =
      (k.putThreads (((n, t) :: rest).map fun p => p.2.past f false)).threads ∧
    (mmqPart f sparse ((n, t) :: rest) k).mem = k.mem ∧ (mmqPart f sparse ((n, t) :: rest) k).bolts = k.bolts := by
  obtain ⟨j, hj, hacc⟩ := mmqBody_accepts (l := readLane rMmq f n t []) hw hwi hwq hlead rfl hsl ho.2 ho.1 hroom
  obtain ⟨⟨haq, -, hcr, honly⟩, hthreads⟩ := acceptedFrom_past (f := f) hacc hn hh
  rw [mmqPart_cons hp hr hl hb hs hpk, hj, leadEnd]
  rw [CoresOnly] at honly
  exact ⟨haq, hcr, hthreads, (congrArg State.mem honly :), (congrArg State.bolts honly :)⟩

/-- A quarter that is due waits. -/
theorem mmqPart_due (hno : (k.wcore b.core).crook.holder ≠ some (b.id, stageOf b (readLane rMmq f n t [])))
    (hd : (k.wcore b.core).crook.holder.map (·.1) = some b.id ∨ ∃ x ∈ (k.wcore b.core).crook.claims, x.1 = b.id)
    (ht : QuarterTiles f sparse k b (readLane rMmq f n t []) slice kind) :
    ((mmqPart f sparse ((n, t) :: rest) k).wcore b.core).aq = (k.wcore b.core).aq ∧
    (mmqPart f sparse ((n, t) :: rest) k).threads = k.threads ∧
    (mmqPart f sparse ((n, t) :: rest) k).note.blocked = true := by
  obtain ⟨keep, hk, hkeep⟩ := mmqBody_due (l := readLane rMmq f n t []) hw hwi hwq hlead rfl hsl ht hno hd
  rw [mmqPart_cons hp hr hl hb hs hpk, hk, leadEnd, hkeep, State.noteArray]
  split_ifs
  · exact ⟨queued_aq, rfl, rfl⟩
  · exact ⟨queued_aq, rfl, rfl⟩

end

theorem quarters_mmq {i : Instr} {f : Fields} {sparse : Bool}
    (h : ∀ s, exec i s = issueLeads rMmq f s.quarterLeads (mmqLane f sparse) s) : Quarters i f sparse := by
  refine ⟨mmqPart f sparse, fun s ls hg hp hl => ?_, ?_⟩
  · rw [h, issueQuarters_ready hg.lanes (by decide) fun l hl' => ?_]
    · rfl
    · obtain ⟨p, hp', he⟩ := leads_quarters hg.lanes hl'
      exact he ▸ (hl p hp').2
  · intro k b n t rest hp hr hl hb hs hpk hn hh hnd
    refine ⟨fun tr htr hw => mmqPart_trap hp hr hl hb hs hpk htr hw, ?_⟩
    intro core slot lane w slice kind hloc hw hwi hwq hlead hsl hroom
    have hslot : t.slot = slot := by rw [Thread.slot, hloc]
    subst hslot
    exact ⟨mmqPart_accepts hp hr hl hb hs hpk hh hnd hw hwi hwq hlead hsl hroom,
      mmqPart_due hp hr hl hb hs hpk hw hwi hwq hlead hsl⟩

theorem quarters_of (f : Fields) : ∀ e ∈ [(Instr.mmq f, false), (.mmqs f, true)], Quarters e.1 f e.2 := by
  intro e he
  simp only [List.mem_cons, List.not_mem_nil, or_false] at he
  rcases he with rfl | rfl
  · exact quarters_mmq fun _ => rfl
  · exact quarters_mmq fun _ => rfl

/-! ### Loads, stores and zeroings -/

theorem mzero_acts (f : Fields) : MatrixActs (.mzero f) rMzero f
    (fun s b l => l.a.toNat < 16 ∧ f.rd.val + l.a.toNat < b.nslice ∧ s.matrixWaits b l.thread.weft = false ∧
      (s.wcore b.core).aq.length < 32)
    (fun s b l => withOp s b l.thread.weft (f.rd.val + l.a.toNat) .zero) (fun _ _ _ => none) := by
  refine matrixActs_of (ledBy_mzero f) (fun _ _ _ => rfl) fun s b l _ hn => ?_
  obtain ⟨h16, hs, hm, hr⟩ := hn
  simp only [mzeroBody, sliceBy_ok h16 hs, submitNow_free hm hr, Option.elim_none]

theorem mzero_traps (f : Fields) : MatrixTraps (.mzero f) rMzero f false (fun _ b l =>
    if 16 ≤ l.a.toNat then some ⟨.prot, l.a, false⟩
    else if b.nslice ≤ f.rd.val + l.a.toNat then some ⟨.prot, BitVec.ofNat 64 (f.rd.val + l.a.toNat), false⟩
    else none) := by
  refine matrixTraps_of (ledBy_mzero f) fun s b l tr h => ?_
  rw [mzeroBody]
  split_ifs at h with h1 h2
  · cases h; rw [sliceBy_wide h1]
  · cases h; rw [sliceBy_beyond (by omega) h2]

section

variable {i : Instr} {f : Fields} {z : Nat}

theorem mlda_acts {bf : Bool} (h : LedBy i rMlda f false (mldaBody bf f)) (hz : z = if bf then 2 else 4)
    (slice : Nat) (range : SpRange) (addr pitch : Nat) : MatrixActs i rMlda f
      (fun s b l => Moves f z s b l slice range addr pitch ∧ slice < b.nslice ∧ s.matrixWaits b l.thread.weft = false ∧
        (s.wcore b.core).aq.length < 32)
      (fun s b l => withOp s b l.thread.weft slice (.load range addr pitch bf)) (fun _ _ _ => none) := by
  subst hz
  refine matrixActs_of h (fun _ _ _ => rfl) fun s b l _ hn => ?_
  obtain ⟨hm, hs, hmw, hr⟩ := hn
  have hsb : s.scoreboard range.bolt range.lo (range.hi - range.lo) = false := by
    obtain ⟨-, -, -, -, -, -, -, -, -, m, -, rfl, -, hsb⟩ := hm
    rwa [Nat.add_sub_cancel_left]
  simp only [mldaBody, moveCheck_ok hm hs, hsb, Bool.false_eq_true, if_false, submitNow_free hmw hr, Option.elim_none]

theorem mlda_traps {bf : Bool} (h : LedBy i rMlda f false (mldaBody bf f)) (hz : z = if bf then 2 else 4) :
    MatrixTraps i rMlda f false (moveTrap f z) := by
  subst hz
  refine matrixTraps_of h fun s b l tr htr => ?_
  simp only [mldaBody, moveCheck_trap htr]

theorem msta_accepts {fmt : Nat} (h : LedBy i rMlda f false (mstaBody fmt f)) (hz : z = elemBytes fmt) :
    Accepts i rMlda f false (fun s b l slice kind => ∃ range addr pitch, Moves f z s b l slice range addr pitch ∧
      s.storeGuard range.bolt range.lo (range.hi - range.lo) = false ∧ kind = .store range addr pitch fmt) := by
  subst hz
  refine accepts_of h fun s b l w slice kind hw hwi hwq hlead htid hop hs hroom => ?_
  obtain ⟨range, addr, pitch, hm, hg, rfl⟩ := hop
  exact mstaBody_accepts hw hwi hwq hlead htid hs hroom hm hg

theorem msta_traps {fmt : Nat} (h : LedBy i rMlda f false (mstaBody fmt f)) (hz : z = elemBytes fmt) :
    MatrixTraps i rMlda f false (moveTrap f z) := by
  subst hz
  refine matrixTraps_of h fun s b l tr htr => ?_
  simp only [mstaBody, moveCheck_trap htr]

end

/-! ### MERR -/

theorem merrR_acts (f : Fields) : MatrixActs (.merrR f) rMerr f (fun s b l => weftWaits s b l = false ∧ l.a.toNat < 8)
    (fun s _ _ => s)
    (fun _ b l => some (if l.a.toNat < b.merr.toNat % 16 then (b.elog[l.a.toNat]?).getD 0 else 0)) := by
  refine matrixActs_of (ledBy_merrR f) (fun _ _ _ => rfl) fun s b l _ hn => ?_
  obtain ⟨hw, h8⟩ := hn
  have hbusy : weftBusy s l b = false := hw
  have hlog : b.logEntry (bitsAt l.a.toNat 0 3) =
      if l.a.toNat < b.merr.toNat % 16 then (b.elog[l.a.toNat]?).getD 0 else 0 := by
    rw [entry_low h8, Bolt.logEntry, bitsAt, Nat.pow_zero, Nat.div_one]
    rfl
  simp only [merrRBody, hbusy, Bool.false_eq_true, if_false, if_neg (mt (entry_wide l.a).1 (Nat.not_le_of_lt h8)), hlog,
    Option.elim_some]

theorem merrC_acts (f : Fields) : MatrixActs (.merrC f) rNone f (fun s b l => weftWaits s b l = false)
    (fun s b _ => s.putBolt { b with merr := 0, elog := List.replicate 8 0 }) (fun _ _ _ => none) := by
  refine matrixActs_of (ledBy_merrC f) (fun _ _ _ => rfl) fun s b l hs hw => ?_
  have hbusy : weftBusy s l b = false := hw
  simp only [merrCBody, hbusy, Bool.false_eq_true, if_false, State.modBolt, hs, Option.elim_none]

theorem merrR_traps (f : Fields) : MatrixTraps (.merrR f) rMerr f false (fun s b l =>
    if weftWaits s b l = false ∧ 8 ≤ l.a.toNat then some ⟨.prot, l.a, false⟩ else none) := by
  refine matrixTraps_of (ledBy_merrR f) fun s b l tr h => ?_
  split_ifs at h with hc
  cases h
  have hbusy : weftBusy s l b = false := hc.1
  simp only [merrRBody, hbusy, Bool.false_eq_true, if_false, if_pos ((entry_wide l.a).2 hc.2)]

theorem merrC_traps (f : Fields) : MatrixTraps (.merrC f) rNone f false (fun _ _ _ => none) :=
  matrixTraps_of (ledBy_merrC f) fun _ _ _ _ h => by cases h

theorem merrR_waits (f : Fields) : MatrixWaits (.merrR f) rMerr f (fun s b l => weftWaits s b l = true) :=
  matrixWaits_of (ledBy_merrR f) fun _ _ _ h => if_pos h

theorem merrC_waits (f : Fields) : MatrixWaits (.merrC f) rNone f (fun s b l => weftWaits s b l = true) :=
  matrixWaits_of (ledBy_merrC f) fun _ _ _ h => if_pos h

end Sys2Proof.Machine

open Sys2Proof Sys2Proof.Machine Sys2Proof.Claims

/-- Settles O34: every matrix instruction does for its lanes what its leader's body says; a quarter or a store that stands
alone in its weft's queue is accepted from there in the same issue. -/
theorem matrixInstructions : Obligations.MatrixInstructions := by
  intro f
  refine ⟨fun e he => ?_, mzero_acts f, mzero_traps f, fun e he => ?_, fun e he => ?_, merrR_acts f, merrC_acts f,
    merrR_traps f, merrC_traps f, merrR_waits f, merrC_waits f⟩
  · have hled := ledBy_mmq f e he
    exact ⟨accepts_mmq hled, matrixTraps_of hled fun _ _ _ _ => mmqBody_trap, quarters_of f e he⟩
  · obtain ⟨hled, hz⟩ := ledBy_mlda f e he
    exact ⟨mlda_acts hled hz, mlda_traps hled hz⟩
  · obtain ⟨hled, hz⟩ := ledBy_msta f e he
    exact ⟨msta_accepts hled hz, msta_traps hled hz⟩

end

section
/-! SUPPORT. What the end of a thread leaves alone (R39, R339, R340): an ended thread stays ended, nothing new is to be
delivered, and of the bolts that live on neither the count of threads, nor the state, nor the word of BAR, nor the
allotment changes. -/

namespace Sys2Proof.Machine

open Sys2Proof.Claims

/-! ### Calm steps -/

/-- A thread of which nothing is left to observe (R39). -/
structure Thread.Over (u : Thread) : Prop where
  loc : u.loc = .exited
  ports : u.ports = Vector.replicate 8 .unbound
  inbox : u.inbox = []
  bwait : u.bwait = none

/-- A change of a thread's record that leaves an ended thread ended. -/
def Thread.Spares (t u : Thread) : Prop := u.tid = t.tid ∧ (t.Over → u.Over)

theorem Thread.Spares.of_eq {t u : Thread} (ht : u.tid = t.tid) (hl : u.loc = t.loc) (hp : u.ports = t.ports)
    (hi : u.inbox = t.inbox) (hb : u.bwait = t.bwait) : t.Spares u :=
  ⟨ht, fun h => ⟨hl.trans h.loc, hp.trans h.ports, hi.trans h.inbox, hb.trans h.bwait⟩⟩

/-- Every bolt stands under its own number, in the order of the numbers. -/
def BoltsKeyed (l : Tab Bolt) : Prop := tabWf l = true ∧ ∀ x ∈ l, x.2.id = x.1

/-- What a step that ends no thread of a bolt leaves of it. -/
structure Bolt.Alike (b c : Bolt) : Prop where
  id : c.id = b.id
  live : c.live = b.live
  bstate : c.bstate = b.bstate
  pack : c.pack = b.pack
  expect : c.barWord.expect = b.barWord.expect
  spad : c.spad = b.spad

theorem Bolt.Alike.refl (b : Bolt) : b.Alike b := ⟨rfl, rfl, rfl, rfl, rfl, rfl⟩

theorem Bolt.Alike.trans {b c d : Bolt} (h : b.Alike c) (h' : c.Alike d) : b.Alike d :=
  ⟨h'.id.trans h.id, h'.live.trans h.live, h'.bstate.trans h.bstate, h'.pack.trans h.pack, h'.expect.trans h.expect,
    h'.spad.trans h.spad⟩

theorem tabGet_id {l : Tab Bolt} (h : BoltsKeyed l) {n : Nat} {b : Bolt} (hb : tabGet l n = some b) : b.id = n :=
  h.2 _ (mem_of_tabGet hb)

theorem BoltsKeyed.tabPut {l : Tab Bolt} (h : BoltsKeyed l) (b : Bolt) : BoltsKeyed (tabPut l b.id b) := by
  refine ⟨tabWfFrom_tabPut (Nat.zero_le _) _ h.1, fun x hx => ?_⟩
  rcases mem_tabPut hx with rfl | hx
  · rfl
  · exact h.2 x hx

/-- A state whose threads and bolts stand under their own numbers. -/
def Sound (s : State) : Prop := Keyed s ∧ BoltsKeyed s.bolts

/-- What a step leaves that ends no thread and no bolt. -/
structure Calmly (s k : State) : Prop where
  sound : Sound k
  pend : k.pend = s.pend
  ended : ∀ n u, s.thread? n = some u → u.Over → ∃ v, k.thread? n = some v ∧ v.Over
  bolts : ∀ n b, s.bolt? n = some b → b.pack = false → ∃ c, k.bolt? n = some c ∧ b.Alike c
  known : ∀ n c, k.bolt? n = some c → ∃ b, s.bolt? n = some b ∧ b.Alike c

/-- A step of sound states that ends no thread and no bolt. -/
def Calm (s k : State) : Prop := Sound s → Calmly s k

namespace Calm

variable {s k j : State}

theorem of_sound (h : Sound s → Calm s k) : Calm s k := fun hs => h hs hs

theorem refl (s : State) : Calm s s := fun hs => ⟨hs, rfl, fun _ u h ho => ⟨u, h, ho⟩,
  fun _ b h _ => ⟨b, h, .refl b⟩, fun _ b h => ⟨b, h, .refl b⟩⟩

theorem trans (h : Calm s k) (h' : Calm k j) : Calm s j := by
  intro hs
  obtain ⟨hk, hp, he, hb, hf⟩ := h hs
  obtain ⟨hj, hp', he', hb', hf'⟩ := h' hk
  refine ⟨hj, hp'.trans hp, fun n u hu ho => ?_, fun n b hn hpk => ?_, fun n d hd => ?_⟩
  · obtain ⟨v, hv, hvo⟩ := he n u hu ho
    exact he' n v hv hvo
  · obtain ⟨c, hc, hbc⟩ := hb n b hn hpk
    obtain ⟨d, hd, hcd⟩ := hb' n c hc (hbc.pack.trans hpk)
    exact ⟨d, hd, hbc.trans hcd⟩
  · obtain ⟨c, hc, hcd⟩ := hf' n d hd
    obtain ⟨b, hb, hbc⟩ := hf n c hc
    exact ⟨b, hb, hbc.trans hcd⟩

/-- A step that leaves threads, bolts and undelivered results alone. -/
theorem of_eq (ht : k.threads = s.threads) (hb : k.bolts = s.bolts) (hp : k.pend = s.pend) : Calm s k := by
  have hn : ∀ n, k.thread? n = s.thread? n := fun n => by rw [State.thread?, ht]; rfl
  have hm : ∀ n, k.bolt? n = s.bolt? n := fun n => by rw [State.bolt?, hb]; rfl
  refine fun hs => ⟨⟨fun n t hnt => hs.1 n t (by rwa [← hn]), by rw [hb]; exact hs.2⟩, hp,
    fun n u hu ho => ⟨u, (hn n).trans hu, ho⟩, fun n b hnb _ => ⟨b, (hm n).trans hnb, .refl b⟩,
    fun n b hnb => ⟨b, (hm n).symm.trans hnb, .refl b⟩⟩

/-- A calm step after a change of what it does not speak of. -/
theorem of_rest (h : Calm k j) (ht : k.threads = s.threads := by rfl) (hb : k.bolts = s.bolts := by rfl)
    (hp : k.pend = s.pend := by rfl) : Calm s j := (of_eq ht hb hp).trans h

/-- A calm step before a change of what it does not speak of. -/
theorem and_rest (h : Calm s k) (ht : j.threads = k.threads := by rfl) (hb : j.bolts = k.bolts := by rfl)
    (hp : j.pend = k.pend := by rfl) : Calm s j := h.trans (of_eq ht hb hp)

theorem foldl {α : Type} {g : State → α → State} {l : List α} (hg : ∀ a k, Calm k (g k a)) : Calm s (l.foldl g s) := by
  induction l generalizing s with
  | nil => exact .refl s
  | cons a l ih => exact (hg a s).trans ih

theorem ite {p : Prop} [Decidable p] (h : Calm s k) (h' : Calm s j) : Calm s (if p then k else j) := by
  split_ifs
  · exact h
  · exact h'

/-- The record of a thread replaced, of one that is over by one that is. -/
theorem and_putThread (h : Calm s k) {t u : Thread} (ht : s.thread? u.tid = some t) (hu : t.Over → u.Over) :
    Calm s (k.putThread u) := by
  intro hs
  obtain ⟨hk, hp, he, hb, hf⟩ := h hs
  refine ⟨⟨fun n v hv => ?_, hk.2⟩, hp, fun n v hv ho => ?_, hb, hf⟩
  · by_cases hn : u.tid = n
    · subst hn
      rw [State.thread?_putThread_same] at hv
      exact Option.some.inj hv ▸ rfl
    · exact hk.1 n v (by rwa [State.thread?_putThread_other k hn] at hv)
  · by_cases hn : u.tid = n
    · subst hn
      cases ht.symm.trans hv
      exact ⟨u, State.thread?_putThread_same k u, hu ho⟩
    · obtain ⟨w, hw, hwo⟩ := he n v hv ho
      exact ⟨w, (State.thread?_putThread_other k hn).trans hw, hwo⟩

theorem putThread {t u : Thread} (ht : s.thread? u.tid = some t) (h : t.Over → u.Over) : Calm s (s.putThread u) :=
  and_putThread (.refl s) ht h

/-- A change of the record that a thread has. -/
theorem modThread_of {n : Nat} {f : Thread → Thread} (hf : ∀ t, s.thread? n = some t → t.Spares (f t)) :
    Calm s (s.modThread n f) := of_sound fun hs => by
  cases ht : s.thread? n with
  | none => rw [State.modThread, ht]; exact .refl s
  | some t =>
    obtain ⟨hid, ho⟩ := hf t ht
    rw [State.modThread_of s ht]
    exact putThread (t := t) (by rw [hid, hs.1 n t ht, ht]) ho

theorem modThread (n : Nat) {f : Thread → Thread} (hf : ∀ t : Thread, t.Spares (f t)) : Calm s (s.modThread n f) :=
  modThread_of fun t _ => hf t

/-- A change of the records of some threads. -/
theorem mapThreads {c : Nat × Thread → Bool} {f : Nat × Thread → Thread}
    (hf : ∀ (n : Nat) (t : Thread), c (n, t) = true → t.Spares (f (n, t))) :
    Calm s { s with threads := s.threads.map fun p => if c p then (p.1, f p) else p } := by
  have hget : ∀ n, ({ s with threads := s.threads.map fun p => if c p then (p.1, f p) else p } : State).thread? n =
      (s.thread? n).map fun t => if c (n, t) then f (n, t) else t := by
    intro n
    simp only [State.thread?]
    induction s.threads with
    | nil => rfl
    | cons p l ih =>
      obtain ⟨j, t⟩ := p
      by_cases hj : j = n
      · subst hj
        cases hc : c (j, t) <;> simp [tabGet, hc]
      · cases hc : c (j, t) <;> simp [tabGet, hc, hj, ih]
  have hsp : ∀ (n : Nat) (t : Thread), t.Spares (if c (n, t) then f (n, t) else t) := fun n t => by
    cases hc : c (n, t)
    · exact ⟨rfl, id⟩
    · exact hf n t hc
  refine fun hs => ⟨⟨fun n v hv => ?_, hs.2⟩, rfl, fun n u hu ho => ?_, fun _ b h _ => ⟨b, h, .refl b⟩,
    fun _ b h => ⟨b, h, .refl b⟩⟩
  · rw [hget, Option.map_eq_some_iff] at hv
    obtain ⟨t, ht, rfl⟩ := hv
    exact (hsp n t).1.trans (hs.1 n t ht)
  · exact ⟨_, by rw [hget, hu]; rfl, (hsp n u).2 ho⟩

/-- A change of a bolt that ends nothing of it. -/
theorem modBolt_of {n : Nat} {f : Bolt → Bolt} (hf : ∀ b, s.bolt? n = some b → b.Alike (f b)) : Calm s (s.modBolt n f) := by
  intro hs
  cases hb : s.bolt? n with
  | none => rw [State.modBolt, hb]; exact Calm.refl s hs
  | some b =>
    have ha := hf b hb
    rw [State.modBolt_of s hb]
    have hid : (f b).id = n := ha.id.trans (tabGet_id hs.2 hb)
    refine ⟨⟨hs.1, hs.2.tabPut _⟩, rfl, fun _ u h ho => ⟨u, h, ho⟩, fun m c hc hp => ?_, fun m c hc => ?_⟩
    · by_cases he : (f b).id = m
      · have hnm : n = m := hid.symm.trans he
        subst hnm
        cases hb.symm.trans hc
        exact ⟨f b, by rw [← he]; exact tabGet_tabPut_same _ _ _, ha⟩
      · exact ⟨c, (tabGet_tabPut_other _ _ he).trans hc, .refl c⟩
    · by_cases he : (f b).id = m
      · subst he
        cases hc.symm.trans (State.bolt?_putBolt_same s (f b))
        exact ⟨b, by rw [hid]; exact hb, ha⟩
      · exact ⟨c, (State.bolt?_putBolt_other s he).symm.trans hc, .refl c⟩

theorem modBolt (n : Nat) {f : Bolt → Bolt} (hf : ∀ b : Bolt, b.Alike (f b)) : Calm s (s.modBolt n f) :=
  modBolt_of fun b _ => hf b

/-- A pack bolt that is dissolved. -/
theorem dropPack {n : Nat} {b : Bolt} (hb : s.bolt? n = some b) (hp : b.pack = true) :
    Calm s { s with bolts := tabDel s.bolts b.id } := by
  intro hs
  have hid := tabGet_id hs.2 hb
  refine ⟨⟨hs.1, tabWfFrom_tabDel hs.2.1, fun x hx => hs.2.2 x (mem_tabDel hx)⟩, rfl, fun _ u h ho => ⟨u, h, ho⟩,
    fun m c hc hcp => ?_, fun m c hc => ?_⟩
  · by_cases he : b.id = m
    · subst he
      rw [← hid] at hb
      cases hb.symm.trans hc
      rw [hp] at hcp
      cases hcp
    · exact ⟨c, (tabGet_tabDel_other _ he).trans hc, .refl c⟩
  · by_cases he : b.id = m
    · subst he
      cases hc.symm.trans (tabGet_tabDel_same _ hs.2.1)
    · exact ⟨c, (tabGet_tabDel_other _ he).symm.trans hc, .refl c⟩

end Calm

end Sys2Proof.Machine
end

section
/-! SUPPORT. What the device does on its own at many places: writes to memory and to its queues (R246, R334, R335, R400),
walks (R205), and grants of the crook (R302). Whatever a relation of states asks of a step, these steps keep it, as soon as
it asks nothing of memory, the directory, cores and queues, and of threads no more than that a monitor may fire and a
CROOK.t complete. -/

namespace Sys2Proof.Machine

open Sys2Proof.Claims

theorem spares_fire (t : Thread) : t.Spares t.fire := by
  have hset : ∀ (u : Thread) n r, u.Spares (u.setReg n r) := fun u n r => by
    unfold Thread.setReg; split <;> exact ⟨rfl, fun h => ⟨h.loc, h.ports, h.inbox, h.bwait⟩⟩
  simp only [Thread.fire, Thread.endMwait]
  split
  · obtain ⟨hid, ho⟩ := hset { t with monitor := { t.monitor with fired := true } } _ ⟨BitVec.ofNat 64 0, true, false⟩
    exact ⟨hid, fun h => have h' := ho ⟨h.loc, h.ports, h.inbox, h.bwait⟩; ⟨h'.loc, h'.ports, h'.inbox, h'.bwait⟩⟩
  · exact ⟨rfl, fun h => ⟨h.loc, h.ports, h.inbox, h.bwait⟩⟩

theorem spares_pastCrook (t : Thread) : t.Spares t.pastCrook := by
  unfold Thread.pastCrook
  split_ifs
  · exact .of_eq rfl rfl rfl rfl rfl
  · exact ⟨rfl, id⟩

/-- A relation between states that the device's own steps keep. -/
structure Framed (R : State → State → Prop) : Prop where
  refl : ∀ s, R s s
  trans : ∀ {s k j}, R s k → R k j → R s j
  rest : ∀ {s k : State}, k = { s with
    mem := k.mem, memPoison := k.memPoison, lcores := k.lcores, wcores := k.wcores, queues := k.queues, stamps := k.stamps,
    dirs := k.dirs, code := k.code, xfers := k.xfers, outside := k.outside, fresh := k.fresh } → R s k
  fire : ∀ s pa, R s (s.fireMonitors pa)
  mod : ∀ s n {f : Thread → Thread}, (∀ t : Thread, t.Spares (f t)) → R s (s.modThread n f)

namespace Framed

variable {R : State → State → Prop} (h : Framed R)

include h

variable {s : State}

theorem of_rest {k j : State} (hr : R k j) (hk : k = { s with
    mem := k.mem, memPoison := k.memPoison, lcores := k.lcores, wcores := k.wcores, queues := k.queues, stamps := k.stamps,
    dirs := k.dirs, code := k.code, xfers := k.xfers, outside := k.outside, fresh := k.fresh } := by rfl) : R s j :=
  h.trans (h.rest hk) hr

theorem and_rest {k j : State} (hr : R s k) (hj : j = { k with
    mem := j.mem, memPoison := j.memPoison, lcores := j.lcores, wcores := j.wcores, queues := j.queues, stamps := j.stamps,
    dirs := j.dirs, code := j.code, xfers := j.xfers, outside := j.outside, fresh := j.fresh } := by rfl) : R s j :=
  h.trans hr (h.rest hj)

omit h in
theorem ite (_ : Framed R) {p : Prop} [Decidable p] {k j : State} (hk : R s k) (hj : R s j) : R s (if p then k else j) := by
  split_ifs
  · exact hk
  · exact hj

theorem foldl {α : Type} {g : State → α → State} {l : List α} (hg : ∀ a k, R k (g k a)) : R s (l.foldl g s) := by
  induction l generalizing s with
  | nil => exact h.refl s
  | cons a l ih => exact h.trans (hg a s) ih

variable (s)

/-! ### Memory and the directory -/

theorem putDir (line : Nat) (d : Dir) : R s (s.putDir line d) := h.rest rfl

theorem dirWT (own : Option Nat) (line : Nat) (mask : BitVec 128) : R s (s.dirWT own line mask) := by
  simp only [State.dirWT]
  split
  · exact h.refl s
  · exact h.ite (h.refl s) (h.putDir s _ _)
  · exact h.putDir s _ _

theorem putBytes (pa : Nat) (bs : List Byte) (pz : List Bool) : R s (s.putBytes pa bs pz) := by
  simp only [State.putBytes]
  exact h.ite (h.rest rfl) (h.rest rfl)

theorem setOwnerByte (r v : Nat) : R s (s.setOwnerByte r v) := h.rest rfl

theorem requestXfer (r : Nat) (th : Bool) (o : Option (Nat × Bool × List Byte)) : R s (s.requestXfer r th o) := by
  simp only [State.requestXfer]
  exact h.ite (h.rest rfl) (h.rest rfl)

theorem writeOwner (r v : Nat) (fw : Bool) : R s (s.writeOwner r v fw) := by
  have hpin : ∀ pin, R s (s.writePin r pin) := fun pin => by
    simp only [State.writePin, State.putPin]
    exact h.ite (h.rest rfl) (h.ite (h.setOwnerByte s _ _) (h.refl s))
  have hown : ∀ k host, R k (k.writeOwn r host) := fun k host => h.ite (h.refl k) (h.requestXfer k _ _ _)
  simp only [State.writeOwner]
  exact h.ite (h.trans (hpin _) (hown _ _)) (h.refl s)

theorem putStored (pa : Nat) (bs : List Byte) (pz : List Bool) (fw : Bool) : R s (s.putStored pa bs pz fw) := by
  simp only [State.putStored]
  refine h.ite (h.foldl fun i k => ?_) (h.putBytes s _ _ _)
  split
  · exact h.writeOwner k _ _ _
  · exact h.putBytes k _ _ _

theorem engineWrite (guard view pa : Nat) (bs : List Byte) (pz : List Bool) (fw : Bool) :
    R s (s.engineWrite guard view pa bs pz fw) := by
  simp only [State.engineWrite]
  exact h.trans (h.trans (h.and_rest (h.dirWT s _ _ _)) (h.putStored _ _ _ _ _)) (h.fire _ _)

theorem deviceWriteRun (pa : Nat) (bs : List Byte) (pz : List Bool) (n : Nat) : R s (s.deviceWriteRun pa bs pz n) := by
  induction n generalizing s pa bs pz with
  | zero => exact h.refl s
  | succ n ih =>
    simp only [State.deviceWriteRun, State.deviceWrite]
    exact h.ite (h.refl s) (h.trans (h.engineWrite s _ _ _ _ _ _) (ih _ _ _ _))

theorem writeArea (pa : Nat) (bs : List Byte) (pz : List Bool) : R s (s.writeArea pa bs pz) := h.deviceWriteRun s _ _ _ _

theorem touchHeader (id : Nat) : R s (s.touchHeader id) := by
  simp only [State.touchHeader]
  split
  · exact h.refl s
  · exact h.ite (h.writeArea s _ _ _) (h.refl s)

/-! ### Queues of the device (R334, R335) -/

theorem pushBase (q : Nat) (w : Word) (p : Bool) : R s (s.pushWord (.base q) w p) := h.rest rfl

theorem devicePush (q : Nat) (w : Word) : R s (s.devicePush q w) := by
  simp only [State.devicePush]
  exact h.ite (h.pushBase s _ _ _) (h.rest rfl)

theorem settleQueue (q n : Nat) : R s (s.settleQueue q n) := by
  induction n generalizing s with
  | zero => exact h.refl s
  | succ n ih =>
    simp only [State.settleQueue]
    split
    · exact h.refl s
    · exact h.ite (h.of_rest (h.trans (h.pushBase _ _ _ _) (ih _))) (h.refl s)

theorem setQueueWord (q i v : Nat) : R s (s.setQueueWord q i v) :=
  h.of_rest (h.settleQueue _ _ _)

theorem regStore (pa : Nat) (bs : List Byte) (n : Nat) : R s (s.regStore pa bs n) := by
  induction n generalizing s pa bs with
  | zero => exact h.refl s
  | succ n ih =>
    have hw : ∀ m v, R s ((s.deviceRegWrite pa m v).getD s) := fun m v => by
      simp only [State.deviceRegWrite]
      split
      · exact h.refl s
      · split_ifs
        · exact h.trans (h.setQueueWord s _ _ _) (h.setQueueWord _ _ _ _)
        · exact h.setQueueWord s _ _ _
    simp only [State.regStore]
    exact h.ite (h.refl s) (h.trans (hw _ _) (ih _ _ _))

theorem portWrite (guard view pa : Nat) (bs : List Byte) (pz : List Bool) (fw : Bool) :
    R s (s.portWrite guard view pa bs pz fw) :=
  h.ite (h.regStore s _ _ _) (h.engineWrite s _ _ _ _ _ _)

/-! ### The crook (R302) -/

theorem grantCrook (core id stage : Nat) : R s (s.grantCrook core id stage) :=
  h.of_rest (h.foldl fun _ _ => h.mod _ _ spares_pastCrook)

theorem nextCrook (core : Nat) : R s (s.nextCrook core) := by
  simp only [State.nextCrook]
  split
  · exact h.rest rfl
  · exact h.and_rest (h.grantCrook s _ _ _)

theorem passCrook (core : Nat) (b : Bolt) (stage : Nat) : R s (s.passCrook core b stage) := by
  simp only [State.passCrook]
  exact h.ite (h.and_rest (h.nextCrook s core)) (h.grantCrook s _ _ _)

theorem settleCrook (core n : Nat) : R s (s.settleCrook core n) := by
  induction n generalizing s with
  | zero => exact h.refl s
  | succ n ih =>
    simp only [State.settleCrook]
    split
    · exact h.refl s
    · split
      · exact h.trans (h.nextCrook s core) (ih _)
      · refine h.ite (h.ite (h.refl s) (h.ite (h.trans (h.passCrook s _ _ _) (ih _)) (h.trans (h.nextCrook s core) (ih _)))) ?_
        refine h.ite (h.trans (h.ite (h.nextCrook s core) (h.passCrook s _ _ _)) (ih _)) (h.refl s)

theorem checkCrook (core : Nat) : R s (s.checkCrook core) := h.settleCrook s _ _

theorem dropCrook (core id : Nat) : R s (s.dropCrook core id) := by
  simp only [State.dropCrook]
  split
  · exact h.ite (h.trans (h.nextCrook s core) (h.checkCrook _ _)) (h.rest rfl)
  · exact h.rest rfl

theorem putWeft (core slot : Nat) (w : Weft) : R s (s.putWeft core slot w) := h.rest rfl

theorem dropSlot (core slot : Nat) : R s (s.dropSlot core slot) := h.rest rfl

theorem walk {k : State} {pid va : Nat} {a : AccKind} {l : Level} {t : Trans} {n : Nat}
    (hw : walk s pid va a l = .ok (k, t, n)) : R s k := by
  simp only [Machine.walk] at hw
  split at hw
  · cases hw
  split at hw
  · cases hw
  split at hw
  · cases hw
  split at hw
  · cases hw
  split at hw
  · cases hw
  simp only [Except.ok.injEq, Prod.mk.injEq] at hw
  obtain ⟨rfl, -, -⟩ := hw
  refine h.ite (h.refl s) ?_
  split
  · exact h.engineWrite s _ _ _ _ _ _
  · exact h.engineWrite s _ _ _ _ _ _
  · exact h.refl s

theorem deviceAddr {k : State} {pid : Nat} {level : Level} {va : Int} {a : AccKind} {p : Nat}
    (hd : deviceAddr s pid level va a = some (k, p)) : R s k := by
  simp only [Machine.deviceAddr] at hd
  split at hd
  · cases hd
  split at hd
  · cases hd
  · next j t n hw =>
    have hc := h.walk s hw
    split at hd
    · split at hd <;> cases hd; exact hc
    · split at hd <;> cases hd; exact hc
    · split at hd <;> cases hd; exact hc
    · cases hd

theorem areaPut (tr : Trace) (off v : Nat) {k : State} (hp : s.areaPut tr off v = some k) : R s k := by
  simp only [State.areaPut, Option.map_eq_some_iff] at hp
  obtain ⟨x, hx, rfl⟩ := hp
  exact h.trans (h.deviceAddr s hx) (h.portWrite _ _ _ _ _ _ _)

end Framed

end Sys2Proof.Machine
end

section
/-! SUPPORT. The calm steps of the end of a thread and of a bolt (R39, R325, R331, R339, R340), function by function. -/

namespace Sys2Proof.Machine

open Sys2Proof.Claims

namespace Calm

theorem framed : Framed Calm where
  refl := refl
  trans := trans
  rest h := of_eq (congrArg State.threads h :) (congrArg State.bolts h :) (congrArg State.pend h :)
  fire _ pa := mapThreads (c := fun p => p.2.monitor.armed && p.2.monitor.line == pa / 128) (f := fun p => p.2.fire)
    fun _ t _ => spares_fire t
  mod _ n _ hf := modThread n hf

variable (s : State)

/-- An event for the event thread, unless that has ended (R394). -/
theorem deviceEvent (code detail : Nat) : Calm s (s.deviceEvent code detail) := by
  simp only [State.deviceEvent]
  refine .ite (of_eq rfl rfl rfl) ?_
  split
  · next t ht =>
    split_ifs with hc
    · refine modThread_of fun u hu => ⟨rfl, fun ho => ?_⟩
      cases ht.symm.trans hu
      simp [ho.loc] at hc
    · exact of_eq rfl rfl rfl
  · exact of_eq rfl rfl rfl

theorem retire (t : Thread) : Calm s (s.retire t) := by
  simp only [State.retire]
  exact .ite (framed.devicePush s _ _) (of_rest (deviceEvent _ _ _))

/-! ### Acquires and releases -/

theorem raiseView (tid stamp : Nat) : Calm s (s.raiseView tid stamp) := by
  refine of_sound fun hs => ?_
  have hput : ∀ (k : State) (t : Thread), k.thread? tid = some t → s.thread? tid = some t →
      Calm k (k.putThread { t with vstamp := stampMax t.vstamp stamp }) := fun k t hk ht => by
    have hid : t.tid = tid := hs.1 tid t ht
    exact putThread (t := t) (by rw [hid]; exact hk) fun h => ⟨h.loc, h.ports, h.inbox, h.bwait⟩
  simp only [State.raiseView]
  split
  · exact .refl s
  · next t ht =>
    split
    · exact of_eq rfl rfl rfl
    · exact of_rest (hput _ t ht ht)
    · exact hput s t ht ht

/-- A view that rises leaves the bolts alone. -/
theorem bolts_acquired (tid : Nat) : (s.acquired tid).bolts = s.bolts := by
  have hv : ∀ stamp, (s.raiseView tid stamp).bolts = s.bolts := fun stamp => by
    simp only [State.raiseView]
    split
    · rfl
    · split <;> rfl
  simp only [State.acquired, State.acquireView]
  split
  · exact hv _
  · exact hv _

theorem acquired (tid : Nat) : Calm s (s.acquired tid) := by
  simp only [State.acquired, State.acquireView]
  split
  · exact (raiseView s _ _).and_rest
  · exact raiseView s _ _

theorem released (tid : Nat) : Calm s (s.released tid) := by
  simp only [State.released, State.bumpRel]
  split
  · split_ifs
    · exact of_eq rfl rfl rfl
    · exact of_eq rfl rfl rfl
  · exact .refl s

theorem raiseSpawn (t : Thread) : Calm s (s.raiseSpawn t) := by
  simp only [State.raiseSpawn]
  split
  · exact of_eq rfl rfl rfl
  · exact .refl s

/-! ### Network barriers (R328 to R332) -/

theorem setNbWords (p : Bool × Nat) (ws : List NbWord) : Calm s (s.setNbWords p ws) := by
  simp only [State.setNbWords]
  exact .ite ((modBolt (f := fun b => { b with nb := ws }) _ fun b => ⟨rfl, rfl, rfl, rfl, rfl, rfl⟩).trans
    (framed.touchHeader _ _)) (modThread _ fun t => .of_eq rfl rfl rfl rfl rfl)

theorem forgetArrivals (n : Nat) (p : Bool × Nat) : Calm s (s.forgetArrivals n p) := by
  have h := mapThreads (s := s) (c := fun q => decide (participant q.2 = p ∧ (tabGet q.2.nbArr n).isSome))
    (f := fun q => { q.2 with nbArr := tabDel q.2.nbArr n }) fun _ t _ => .of_eq rfl rfl rfl rfl rfl
  simp only [decide_eq_true_eq] at h
  exact h

theorem depart (n : Nat) (p : Bool × Nat) : Calm s (s.depart n p) := by
  simp only [State.depart]
  split
  · exact .refl s
  · split
    · exact .refl s
    · have h := (setNbWords s p ((s.nbWords p).filter fun w => w.nbid != n)).trans (forgetArrivals _ n p)
      exact .ite h.and_rest h.and_rest

theorem departAll (p : Bool × Nat) : Calm s (s.departAll p) := .foldl fun w k => depart k w.nbid p

theorem moveReg (n : Nat) (p : Bool × Nat) : Calm s (s.moveReg n p) := by
  simp only [State.moveReg]
  split
  · exact .refl s
  · split
    · exact .ite (.refl s) (of_eq rfl rfl rfl)
    · exact .refl s

theorem partArrives (n : Nat) (p : Bool × Nat) : Calm s (s.partArrives n p) := by
  simp only [State.partArrives, State.modNbWord]
  split
  · exact moveReg s n p
  · split
    · exact moveReg s n p
    · next b _ _ x _ =>
        exact (moveReg s n p).trans (of_rest (k := (s.moveReg n p).putNbar n (b.setPart { x with arrived := true }))
          (and_rest (setNbWords _ p _)))

theorem checkNarr (id : Nat) : Calm s (s.checkNarr id) := by
  simp only [State.checkNarr]
  split
  · exact .refl s
  · exact .foldl fun w k => .ite (partArrives k _ _) (.refl k)

/-! ### Wefts (R24, R28, R34, R35) -/

theorem spares_leaveRejoin (t : Thread) : t.Spares t.leaveRejoin := by
  unfold Thread.leaveRejoin
  split
  · exact .of_eq rfl rfl rfl rfl rfl
  · exact ⟨rfl, id⟩

theorem modWeft (core slot : Nat) (f : Weft → Weft) : Calm s (s.modWeft core slot f) := by
  simp only [State.modWeft]
  split
  · exact framed.putWeft s _ _ _
  · exact .refl s

theorem releaseRejoin {ts : List Thread} (ht : ∀ t ∈ ts, s.thread? t.tid = some t) : Calm s (s.releaseRejoin ts) := by
  have h : ∀ (a : Nat) (us : List Thread) (k : State), Calm s k → (∀ t ∈ us, s.thread? t.tid = some t) →
      Calm s (us.foldl (fun k t => if t.pc.toNat = a then k.putThread t.leaveRejoin else k) k) := by
    intro a us
    induction us with
    | nil => exact fun k hk _ => hk
    | cons t us ih =>
      intro k hk hus
      refine ih _ (.ite ?_ hk) fun u hu => hus u (List.mem_cons_of_mem _ hu)
      obtain ⟨hid, ho⟩ := spares_leaveRejoin t
      exact hk.and_putThread (t := t) (by rw [hid]; exact hus t List.mem_cons_self) ho
  exact h _ ts s (.refl s) ht

theorem settle (core slot : Nat) : Calm s (s.settle core slot) := by
  simp only [State.settle]
  split
  · exact .refl s
  · refine .ite ?_ (.ite ?_ (.ite (framed.putWeft s _ _ _) (.refl s)))
    · split
      · next b hb =>
        split_ifs with hp
        · exact of_rest (k := s.dropSlot core slot) (dropPack (s := s.dropSlot core slot) hb hp)
        · exact (framed.putWeft s _ _ _).trans (framed.checkCrook _ _)
      · exact framed.dropSlot s _ _
    · next w _ =>
      refine of_sound fun hs => releaseRejoin s fun t ht => ?_
      obtain ⟨p, -, hp⟩ := List.mem_filterMap.1 ht
      rw [hs.1 _ t hp, hp]

theorem vacate (core slot lane : Nat) : Calm s (s.vacate core slot lane) := (modWeft s _ _ _).trans (settle _ _ _)

theorem unseat (t : Thread) : Calm s (s.unseat t) := by
  simp only [State.unseat]
  split
  · exact of_eq rfl rfl rfl
  · exact vacate s _ _ _
  · exact .refl s

/-! ### Barriers (R325) -/

theorem formWaves (b : Bolt) (slots : List Nat) : Calm s (s.formWaves b slots) :=
  and_rest (.foldl fun x k => framed.putWeft k _ _ _)

/-- A change of a barrier's word that keeps the count of BAR. -/
theorem setBar {n : Nat} {k : BarKind} {stage : Nat} {g : Bolt → BarWord}
    (hg : k = .bar → ∀ b, s.bolt? n = some b → (g b).expect = b.barWord.expect) :
    Calm s ((s.modBolt n fun b => b.setBar k stage (g b)).touchHeader n) := by
  refine (modBolt_of fun b hb => ?_).trans (framed.touchHeader _ _)
  cases k with
  | bar => exact ⟨rfl, rfl, rfl, rfl, hg rfl b hb, rfl⟩
  | barSt =>
    simp only [Bolt.setBar]
    split <;> exact ⟨rfl, rfl, rfl, rfl, rfl, rfl⟩
  | fbar => exact ⟨rfl, rfl, rfl, rfl, rfl, rfl⟩

theorem released_tid (t : Thread) : t.released.tid = t.tid := by
  have hb : ∀ (p : Bool) (u v : Thread), u.tid = t.tid → v.tid = t.tid → (if p then u else v).tid = t.tid :=
    fun p u v hu hv => by cases p <;> assumption
  unfold Thread.released
  cases t.loc with
  | member _ _ _ => rfl
  | saved => rfl
  | _ => exact hb t.inBarrier _ _ (by simp only [Thread.carryOnly]) (by simp only)

/-- The release of a barrier. -/
theorem releaseBarrier (b : Bolt) (hb : s.bolt? b.id = some b) (k : BarKind) (stage : Nat) :
    Calm s (s.releaseBarrier b k stage) := by
  have hacq : ∀ (l : List Nat) (j : State), Calm j (l.foldl (fun j tid => j.acquired tid) j) ∧
      (l.foldl (fun j tid => j.acquired tid) j).bolts = j.bolts := fun l => by
    induction l with
    | nil => exact fun j => ⟨.refl j, rfl⟩
    | cons x l ih => exact fun j => ⟨(acquired j x).trans (ih _).1, (ih _).2.trans (bolts_acquired j x)⟩
  simp only [State.releaseBarrier]
  refine .trans (.trans (.trans ?_ (hacq _ _).1) (setBar _ fun hk x hx => ?_)) (.foldl fun x j => ?_)
  · refine mapThreads (c := fun p => p.2.bwait == some k && s.inScope b k stage p.2) (f := fun p => p.2.released)
      fun n t hc => ⟨?_, fun ho => ?_⟩
    · exact released_tid t
    · simp [ho.bwait] at hc
  · subst hk
    rw [State.bolt?, (hacq _ _).2] at hx
    cases hb.symm.trans hx
    rfl
  · exact .ite (formWaves j _ _) (.refl j)

theorem checkBarrier (id : Nat) (k : BarKind) (stage : Nat) : Calm s (s.checkBarrier id k stage) := by
  refine of_sound fun hs => ?_
  simp only [State.checkBarrier]
  split
  · exact .refl s
  · next b hb =>
    have hid := tabGet_id hs.2 hb
    exact .ite (releaseBarrier s b (by rw [hid]; exact hb) k stage) (.refl s)

/-! ### The end of a bolt and of a process (R340, R348) -/

theorem passFlockWord (b : Bolt) : Calm s (s.passFlockWord b) := by
  simp only [State.passFlockWord]
  split
  · exact .ite ((modBolt (f := fun z => { z with flWord := b.flWord }) _ fun z => ⟨rfl, rfl, rfl, rfl, rfl, rfl⟩).trans
      (framed.touchHeader _ _)) (.refl s)
  · exact .refl s

theorem leaveWaiting (b : Bolt) : Calm s (s.leaveWaiting b) := by
  simp only [State.leaveWaiting]
  exact .ite (.ite (.refl s) (framed.devicePush s _ _)) (of_rest (framed.devicePush _ _ _))

theorem freeWefts (b : Bolt) : Calm s (s.freeWefts b) := and_rest (.foldl fun (x : Nat × Weft) k => framed.dropSlot k b.core x.1)

end Calm

end Sys2Proof.Machine
end

section
/-! SUPPORT. What remains of a thread that has exited and of its bolt (R39, R325, R339, R340). -/

namespace Sys2Proof.Machine

open Sys2Proof.Claims

/-! ### The exit of a process (R348) -/

namespace Calm

variable (s : State)

theorem areaPut (tr : Trace) (off v : Nat) : Calm s ((s.areaPut tr off v).getD s) := by
  cases h : s.areaPut tr off v with
  | none => exact .refl s
  | some k => exact framed.areaPut s tr off v h

theorem closeTrace (tr : Trace) : Calm s (s.closeTrace tr) := by
  simp only [State.closeTrace]
  have h : Calm s (((s.areaPut tr 0 ((s.areaRead tr 0).2 % 2 ^ 62)).getD s).modTrace tr.spawn
      fun t => { t with shut := true, busy := false }) := (areaPut s _ _ _).and_rest
  split
  · exact .ite h h.and_rest
  · exact h

theorem processEnd (pid : Nat) : Calm s (s.processEnd pid) := by
  simp only [State.processEnd]
  exact .ite (.refl s) (and_rest (.foldl fun tr k => closeTrace k tr))

end Calm

/-! ### Where a bolt stands -/

/-- A sound state that holds a bolt like the one given. -/
structure Holding (b : Bolt) (k : State) : Prop where
  sound : Sound k
  bolt : ∃ x, k.bolt? b.id = some x ∧ b.Alike x

variable {s k : State} {b c : Bolt}

theorem Holding.calm (h : Holding b k) {j : State} (hc : Calm k j) (hp : b.pack = false) : Holding b j := by
  obtain ⟨hs, x, hx, hbx⟩ := h
  obtain ⟨y, hy, hxy⟩ := (hc hs).bolts _ x hx (hbx.pack.trans hp)
  exact ⟨(hc hs).sound, y, hy, hbx.trans hxy⟩

/-- A change of the bolt that is held. -/
theorem Holding.modBolt (h : Holding b k) {f : Bolt → Bolt} (hf : ∀ x, b.Alike x → c.Alike (f x)) :
    Holding c (k.modBolt b.id f) := by
  obtain ⟨hs, x, hx, hbx⟩ := h
  have ha := hf x hbx
  rw [State.modBolt_of k hx]
  refine ⟨⟨hs.1, hs.2.tabPut _⟩, f x, ?_, ha⟩
  rw [← ha.id, State.bolt?_putBolt_same]

/-! ### A thread that has ended (R39) -/

/-- A sound state in which a thread is over. -/
structure Gone (tid : Nat) (k : State) : Prop where
  sound : Sound k
  thread : ∃ u, k.thread? tid = some u ∧ u.Over
  pend : ∀ p ∈ k.pend, p.tid ≠ tid

theorem Gone.calm {tid : Nat} (h : Gone tid k) {j : State} (hc : Calm k j) : Gone tid j := by
  obtain ⟨hs, ⟨u, hu, ho⟩, hp⟩ := h
  exact ⟨(hc hs).sound, (hc hs).ended _ u hu ho, by rw [(hc hs).pend]; exact hp⟩

theorem ended_tid (t : Thread) : t.ended.tid = t.tid := by
  simp only [Thread.ended, Thread.dropMonitor]
  split_ifs <;> rfl

/-- A thread put down as ended, its undelivered results forgotten, before it leaves its place. -/
theorem gone_ended {t : Thread} (hs : Sound s) :
    Gone t.tid (((s.forget t.tid).departAll (false, t.tid)).putThread t.ended) := by
  have hf : Sound (s.forget t.tid) := hs
  obtain ⟨hk, hp, -⟩ := Calm.departAll (s.forget t.tid) (false, t.tid) hf
  refine ⟨⟨fun n v hv => ?_, hk.2⟩, ⟨t.ended, ?_, ⟨rfl, rfl, rfl, rfl⟩⟩, fun p hm => ?_⟩
  · by_cases hn : t.ended.tid = n
    · subst hn
      rw [State.thread?_putThread_same] at hv
      exact Option.some.inj hv ▸ rfl
    · exact hk.1 n v (by rwa [State.thread?_putThread_other _ hn] at hv)
  · rw [← ended_tid t, State.thread?_putThread_same]
  · have hm : p ∈ (s.forget t.tid).pend := hp ▸ hm
    simpa using (List.mem_filter.1 hm).2

theorem gone_endThread {t : Thread} (hs : Sound s) : Gone t.tid (s.endThread t) :=
  ((gone_ended hs).calm (.unseat _ t)).calm (.retire _ t)

theorem holding_endThread (h : Holding b s) (hp : b.pack = false) (t : Thread) : Holding b (s.endThread t) := by
  have hf : Holding b (s.forget t.tid) := ⟨h.sound, h.bolt⟩
  have hd : Holding b (((s.forget t.tid).departAll (false, t.tid)).putThread t.ended) :=
    ⟨(gone_ended h.sound).sound, (hf.calm (.departAll _ _) hp).bolt⟩
  exact (hd.calm (.unseat _ t) hp).calm (.retire _ t) hp

/-! ### The exit of a thread of a spawn (R339) -/

/-- A bolt as an exit leaves what it counts. -/
def Bolt.fewer (b : Bolt) : Bolt :=
  { b with live := b.live - 1, barWord := { b.barWord with expect := b.barWord.expect - 1 } }

/-- The barriers' words lowered, from a state that holds the bolt. -/
theorem holding_lowered (h : Holding b k) (hp : b.pack = false) (stage : Nat) :
    Holding { b with barWord := { b.barWord with expect := b.barWord.expect - 1 } }
      (((k.lowerExpect b .bar stage).lowerExpect b .barSt stage).lowerExpect b .fbar stage) := by
  have h1 : Holding { b with barWord := { b.barWord with expect := b.barWord.expect - 1 } } (k.lowerExpect b .bar stage) := by
    have hm := h.modBolt (c := { b with barWord := { b.barWord with expect := b.barWord.expect - 1 } })
      (f := fun x => x.setBar .bar stage { x.bar .bar stage with expect := (x.bar .bar stage).expect - 1 })
      fun x hx => ⟨hx.id, hx.live, hx.bstate, hx.pack, congrArg (· - 1) hx.expect, hx.spad⟩
    exact hm.calm (Calm.framed.touchHeader _ _) hp
  exact (h1.calm (.setBar _ fun h => by cases h) hp).calm (.setBar _ fun h => by cases h) hp

/-- The state of an exit with its thread's barriers and bolt counting it no more, the thread itself still there. -/
def State.uncounted (s : State) (t : Thread) (b : Bolt) : State :=
  let s := (s.released t.tid).raiseSpawn t
  let s := ((s.lowerExpect b .bar t.stage).lowerExpect b .barSt t.stage).lowerExpect b .fbar t.stage
  (s.modBolt b.id fun x => { x with live := x.live - 1 }).touchHeader b.id

theorem exitThread_eq (t : Thread) : s.exitThread t b =
    (((((s.uncounted t b).endThread t).checkNarr b.id).checkBarrier b.id .bar t.stage).checkBarrier b.id .barSt
      t.stage).checkBarrier b.id .fbar t.stage := rfl

theorem calm_checks (id stage : Nat) : Calm k
    ((((k.checkNarr id).checkBarrier id .bar stage).checkBarrier id .barSt stage).checkBarrier id .fbar stage) :=
  (((Calm.checkNarr k id).trans (.checkBarrier _ _ _ _)).trans (.checkBarrier _ _ _ _)).trans (.checkBarrier _ _ _ _)

section

variable {t : Thread} (hs : Sound s) (hb : s.bolt? b.id = some b) (hp : b.pack = false)

include hs hb hp

theorem holding_uncounted : Holding b.fewer (s.uncounted t b) := by
  have h0 : Holding b s := ⟨hs, b, hb, .refl b⟩
  have h1 := holding_lowered ((h0.calm (.released s t.tid) hp).calm (.raiseSpawn _ t) hp) hp t.stage
  refine Holding.calm ?_ (Calm.framed.touchHeader _ b.id) hp
  exact h1.modBolt (c := b.fewer) fun x hx =>
    ⟨hx.id, congrArg (· - 1) hx.live, hx.bstate, hx.pack, hx.expect, hx.spad⟩

theorem holding_exitThread : Holding b.fewer (s.exitThread t b) := by
  rw [exitThread_eq]
  exact (holding_endThread (holding_uncounted hs hb hp) hp t).calm (calm_checks _ _) hp

theorem gone_exitThread : Gone t.tid (s.exitThread t b) := by
  rw [exitThread_eq]
  exact (gone_endThread (holding_uncounted hs hb hp).sound).calm (calm_checks _ _)

end

/-! ### The end of a bolt (R340) -/

/-- A bolt that has ended, its rows and slices apart. -/
def Bolt.closed (b : Bolt) : Bolt :=
  { b with handles := [], chans := [], decl := none, bstate := .done, evicting := false }

/-- The end of a bolt is calm up to the bolt's own record. -/
theorem closeBolt_calm (s : State) (id : Nat) : ∃ k, Calm s k ∧ s.closeBolt id = k.modBolt id Bolt.closed := by
  simp only [State.closeBolt]
  split
  · next hn => exact ⟨s, .refl s, by rw [State.modBolt, hn]⟩
  · next b hb =>
    refine ⟨_, ?_, rfl⟩
    have h1 := (Calm.passFlockWord s b).trans (.leaveWaiting _ b)
    have h2 := h1.trans (.ite (p := b.bstate = .resident) (.freeWefts _ b) (.refl _))
    have h3 := h2.trans (.ite (p := b.bstate = .resident) (Calm.framed.dropCrook _ b.core id) (.refl _))
    have h4 := h3.trans (.departAll _ (true, id))
    split
    · exact h4.and_rest
    · exact h4

/-- In a table in the order of its keys, what a filter leaves stood there before. -/
theorem tabGet_of_filter {α : Type} {q : Nat × α → Bool} {n : Nat} {a : α} : ∀ {lo : Nat} {l : Tab α},
    tabWfFrom lo l = true → tabGet (l.filter q) n = some a → tabGet l n = some a
  | _, [], _, h => h
  | _, (j, x) :: l, hw, h => by
    simp only [tabWfFrom, Bool.and_eq_true] at hw
    by_cases hj : j = n
    · subst hj
      rw [List.filter_cons] at h
      split_ifs at h
      · simpa [tabGet] using h
      · cases (tabGet_below (Nat.lt_succ_self j) (tabWfFrom_filter q hw.2)).symm.trans h
    · have hl : tabGet (l.filter q) n = some a := by
        rw [List.filter_cons] at h
        split_ifs at h
        · simpa [tabGet, hj] using h
        · exact h
      simpa [tabGet, hj] using tabGet_of_filter hw.2 hl

theorem sound_reap (hs : Sound s) : Sound s.reap :=
  ⟨hs.1, tabWfFrom_filter _ hs.2.1, fun x hx => hs.2.2 x (List.mem_of_mem_filter hx)⟩

theorem gone_endBolt {tid id : Nat} (h : Gone tid s) : Gone tid (s.endBolt id) := by
  obtain ⟨k, hc, he⟩ := closeBolt_calm s id
  have hk := h.calm hc
  rw [State.endBolt, he]
  have hm : Gone tid (k.modBolt id Bolt.closed) := by
    cases hb : k.bolt? id with
    | none => rw [State.modBolt, hb]; exact hk
    | some b =>
      rw [State.modBolt_of k hb]
      exact ⟨⟨hk.sound.1, hk.sound.2.tabPut _⟩, hk.thread, hk.pend⟩
  exact ⟨sound_reap hm.sound, hm.thread, hm.pend⟩

/-- Of a bolt that has ended, nothing stays but what is done. -/
theorem done_endBolt (h : Holding b s) (hp : b.pack = false) :
    Sound (s.endBolt b.id) ∧ ∀ x, (s.endBolt b.id).bolt? b.id = some x → x.bstate = .done := by
  obtain ⟨k, hc, he⟩ := closeBolt_calm s b.id
  have hm := (h.calm hc hp).modBolt (c := b.closed) (f := Bolt.closed)
    fun x hx => ⟨hx.id, hx.live, rfl, hx.pack, hx.expect, hx.spad⟩
  rw [State.endBolt, he]
  obtain ⟨hs, y, hy, hby⟩ := hm
  refine ⟨sound_reap hs, fun x hx => ?_⟩
  have hx' := tabGet_of_filter hs.2.1 hx
  cases hx'.symm.trans hy
  exact hby.bstate

/-! ### EXIT (R339, R340) -/

/-- After an exit: its thread is over, and its bolt counts it no more or has ended. -/
theorem exitOf_leaves {t : Thread} (hs : Sound s) (ht : t.bolt = some b.id) (hb : s.bolt? b.id = some b)
    (hp : b.pack = false) (hr : b.bstate = .resident) :
    Gone t.tid (s.exitOf t) ∧ (b.live ≠ 1 → b.live ≠ 0 → Holding b.fewer (s.exitOf t)) ∧
    (b.live = 1 → ∀ x, (s.exitOf t).bolt? b.id = some x → x.bstate = .done) := by
  have hg := gone_exitThread (t := t) hs hb hp
  have hh := holding_exitThread (t := t) hs hb hp
  have hover : (s.exitThread t b).boltOver b.id = (b.live - 1 == 0) := by
    obtain ⟨-, x, hx, hbx⟩ := hh
    have hx' : (s.exitThread t b).bolt? b.id = some x := hx
    have h1 : x.live = b.live - 1 := hbx.live
    have h2 : x.bstate = b.bstate := hbx.bstate
    have h3 : x.pack = b.pack := hbx.pack
    simp [State.boltOver, hx', h1, h2, h3, hr, hp]
  have heq : s.exitOf t = (if (s.exitThread t b).boltOver b.id then (s.exitThread t b).endBolt b.id
      else s.exitThread t b).processEnd t.pid := by
    simp only [State.exitOf, ht, Option.bind_some, hb]
  rw [heq, hover]
  refine ⟨?_, fun h1 h0 => ?_, fun h1 x hx => ?_⟩
  · refine Gone.calm ?_ (.processEnd _ _)
    split_ifs
    · exact gone_endBolt hg
    · exact hg
  · have hno : (b.live - 1 == 0) = false := by simp; omega
    rw [hno, if_neg Bool.false_ne_true]
    exact hh.calm (.processEnd _ _) hp
  · have hyes : (b.live - 1 == 0) = true := by simp [h1]
    rw [hyes, if_pos rfl] at hx
    obtain ⟨hsd, hdone⟩ := done_endBolt (b := b.fewer) hh hp
    obtain ⟨y, hy, hyx⟩ := (Calm.processEnd _ t.pid hsd).known _ x hx
    exact hyx.bstate.trans (hdone y hy)

/-- A successor fits where its descriptor says so (R37, R340). -/
theorem successorFits_says {t : Thread} {w : List Nat} (h : s.successorFits t b w = true) :
    descValid w = true ∧ (descOf w).nflock = 1 ∧ (descOf w).fm1 = 0 ∧ ((descOf w).spbytes + 2047) / 2048 ≤ b.rows ∧
      (descOf w).nslice ≤ b.nslice := by
  simp only [State.successorFits, Bool.and_eq_true, beq_iff_eq, Desc.f, Desc.rows] at h
  obtain ⟨⟨⟨⟨⟨⟨⟨⟨hv, hn⟩, hf⟩, hr⟩, hsl⟩, -⟩, -⟩, -⟩, -⟩ := h
  exact ⟨hv, hn, by omega, of_decide_eq_true hr, of_decide_eq_true hsl⟩

/-! ### What the instruction does to its lane (R339) -/

/-- A lane alone whose body has placed its thread, in a form without queue ports. -/
theorem issue_placed_alone {r : OpRule} {f : Fields} {irrev carries : Bool} {n : Nat} {t : Thread}
    (h : PortsReady s r f irrev carries [(n, t)]) (hp : touchesPort r f = false) {body : Body}
    (hb : body s (s.laneOf r f [(n, t)] (n, t)) = .placed k) :
    issue r f irrev (fun _ => none) carries body s = .next k.bump := by
  have hr : Ready s r f irrev [(n, t)] := ⟨h.group, hp, fun p hm => by simpa [hp] using h.lane p hm⟩
  have hl : s.laneOf r f [(n, t)] (n, t) = readLane r f n t [] := by
    simp [State.laneOf, State.lanePops, State.groupPops, hr.groupClaims_nil, popsOf, ranked, ranked.go]
  rw [issue_fold hr _ (fun _ _ => rfl) carries body (fun _ _ => k) fun ms p ns he g hg => ?_, List.foldl_cons,
    List.foldl_nil]
  have hms : ms = [] ∧ p = (n, t) := by
    cases ms with
    | nil => exact ⟨rfl, (List.cons.inj he).1.symm⟩
    | cons m ms => simp at he
  obtain ⟨rfl, rfl⟩ := hms
  rw [hl] at hb
  simp only [Issuing.lane, hg, List.foldl_nil, hb]
  rfl

section

variable {next : Lane → Option Int} {l : Lane}

theorem exitLane_call (h : l.thread.spawn = 0) : exitLane next s l = .trap ⟨.sysc, 1, false⟩ false := by
  have hs : l.thread.spawned = false := by simp [Thread.spawned, h]
  simp only [exitLane, hs, Bool.not_false, if_true]
  rfl

theorem exitLane_lost (h : l.thread.spawn ≠ 0) {v : Word} (hl : l.thread.lost = some v) :
    exitLane next s l = .trap ⟨.mchk, v, true⟩ false := by
  have hs : l.thread.spawned = true := by simpa [Thread.spawned] using h
  simp [exitLane, hs, lostStore, lostTrap, hl]

theorem exitLane_early (h : l.thread.spawn ≠ 0) (hl : l.thread.lost = none) (hp : s.performed l.tid = false) :
    exitLane next s l = .wait fun k => k := by
  have hs : l.thread.spawned = true := by simpa [Thread.spawned] using h
  simp [exitLane, hs, lostStore, lostTrap, hl, hp]

variable (h : l.thread.spawn ≠ 0) (hl : l.thread.lost = none) (hp : s.performed l.tid = true)
  (ht : s.thread? l.tid = some l.thread) (hb : l.thread.bolt.bind s.bolt? = some b)

include h hl hp ht hb

theorem exitLane_exits (hn : next l = none ∨ b.live ≠ 1) : exitLane next s l = .placed (s.exitOf l.thread) := by
  have hs : l.thread.spawned = true := by simpa [Thread.spawned] using h
  rcases hn with hn | hn
  · simp [exitLane, hs, lostStore, lostTrap, hl, hp, ht, hb, hn]
  · cases hv : next l <;> simp [exitLane, hs, lostStore, lostTrap, hl, hp, ht, hb, hv, hn]

theorem exitLane_last {v : Int} (hn : next l = some v) (h1 : b.live = 1) : exitLane next s l =
    if s.arrayBusy b.id then .wait fun k => k
    else Chk.act (fun k => chkDwords l.thread k.cur.core 32 k v) s fun k w =>
      match if k.successorFits l.thread b w then none else k.wordXfer (k.refusedSpawn l.thread (descOf w)) with
      | some _ => .wait fun k => (k.wordXfer (k.refusedSpawn l.thread (descOf w))).getD k
      | none => .placed (k.exitTo l.thread b w) := by
  have hs : l.thread.spawned = true := by simpa [Thread.spawned] using h
  simp only [exitLane, hs, lostStore, lostTrap, hl, hp, ht, hb, hn, h1, Bool.not_true, Bool.false_eq_true, if_false,
    Option.map_none, ne_eq, not_true] <;> rfl

/-- The array's last operations of the bolt are waited for (R340). -/
theorem exitLane_busy {v : Int} (hn : next l = some v) (h1 : b.live = 1) (ho : ∃ o ∈ s.allArrOps, o.bolt = b.id) :
    exitLane next s l = .wait fun k => k := by
  have ha : s.arrayBusy b.id = true := by simpa [State.arrayBusy] using ho
  rw [exitLane_last h hl hp ht hb hn h1, if_pos ha]

/-- The last exit of a bolt under a successor's name (R37, R340). -/
theorem exitLane_to {v : Int} (hn : next l = some v) (h1 : b.live = 1) (ho : ∀ o ∈ s.allArrOps, o.bolt ≠ b.id)
    {w : List Nat} (hc : chkDwords l.thread s.cur.core 32 s v = .ok k w)
    (hf : k.successorFits l.thread b w = true ∨ k.wordXfer (k.refusedSpawn l.thread (descOf w)) = none) :
    exitLane next s l = .placed (k.exitTo l.thread b w) := by
  have ha : s.arrayBusy b.id = false := by
    rw [State.arrayBusy, List.any_eq_false]
    exact fun o ho' => by simpa using ho o ho'
  have hx : (if k.successorFits l.thread b w then none else k.wordXfer (k.refusedSpawn l.thread (descOf w))) = none := by
    rcases hf with hf | hf
    · rw [if_pos hf]
    · rw [hf, ite_self]
  rw [exitLane_last h hl hp ht hb hn h1, ha, if_neg Bool.false_ne_true]
  simp only [Chk.act, hc, hx]

end

/-- EXIT and EXIT.s, for one lane (R37, R39, R339, R340). -/
theorem exits_of {i : Instr} {r : OpRule} {f : Fields} {named : Bool}
    (hexec : ∀ s, exec i s = settled (issue r f true (fun _ => none) false
      (exitLane fun l => if named then some l.a.toInt else none) s)) {n : Nat} {t : Thread}
    (h : PortsReady s r f true false [(n, t)]) :
    (t.spawn = 0 → trapWaits s t.tid ⟨.sysc, 1, false⟩ = false → exec i s = .next (afterExit
      (s.unqueued r f [(n, t)] (takeTrap s t.tid f ⟨.sysc, 1, false⟩ true false)))) ∧
    (t.spawn ≠ 0 → ∀ v, t.lost = some v → trapWaits s t.tid ⟨.mchk, v, true⟩ = false → exec i s = .next (afterExit
      (s.unqueued r f [(n, t)] (takeTrap s t.tid f ⟨.mchk, v, true⟩ true false)))) ∧
    (t.spawn ≠ 0 → t.lost = none → s.performed t.tid = false → exec i s = .next s.block.settleCur) ∧
    (t.spawn ≠ 0 → t.lost = none → s.performed t.tid = true → touchesPort r f = false →
      ∀ b, t.bolt.bind s.bolt? = some b →
      (named = false ∨ b.live ≠ 1 → exec i s = .next (afterExit (s.exitOf t))) ∧
      (named = true → b.live = 1 → (∀ o ∈ s.allArrOps, o.bolt ≠ b.id) →
        ∀ k w, chkDwords t s.cur.core 32 s (s.laneOf r f [(n, t)] (n, t)).a.toInt = .ok k w →
        (k.successorFits t b w = true ∨ k.wordXfer (k.refusedSpawn t (descOf w)) = none) →
        exec i s = .next (afterExit (k.exitTo t b w))) ∧
      (named = true → b.live = 1 → (∃ o ∈ s.allArrOps, o.bolt = b.id) → exec i s = .next s.block.settleCur)) := by
  have hheld : s.thread? t.tid = some t := h.group.held (n, t) List.mem_cons_self
  refine ⟨fun h0 hw => ?_, fun h0 v hl hw => ?_, fun h0 hl hp => ?_, fun h0 hl hp hq b hb => ⟨fun hn => ?_, ?_, ?_⟩⟩
  · rw [hexec, issue_trap_alone h _ rfl (exitLane_call h0) hw]
    rfl
  · rw [hexec, issue_trap_alone h _ rfl (exitLane_lost h0 hl) hw]
    rfl
  · rw [hexec, issue_wait_alone h _ rfl _ (exitLane_early h0 hl hp)]
    rfl
  · rw [hexec, issue_placed_alone h hq (exitLane_exits h0 hl hp hheld hb ?_)]
    · rfl
    · exact hn.imp_left fun hn => by rw [hn]; rfl
  · rintro rfl h1 ho k w hc hf
    rw [hexec, issue_placed_alone h hq (exitLane_to h0 hl hp hheld hb rfl h1 ho hc hf)]
    rfl
  · rintro rfl h1 ho
    rw [hexec, issue_wait_alone h _ rfl _ (exitLane_busy h0 hl hp hheld hb rfl h1 ho)]
    rfl

end Sys2Proof.Machine

open Sys2Proof Sys2Proof.Machine Sys2Proof.Claims

/-- Settles O41: what the instruction does to its lane branch by branch; and, since every step of an exit but its own counts
is calm, what the thread and its bolt are afterwards. -/
theorem threadExits : Obligations.ThreadExits := by
  refine ⟨fun f e he s n t h => ?_, fun s t b _ _ _ hk hw hids _ ht hb hp hr _ _ => ?_, fun s t b w => successorFits_says⟩
  · simp only [List.mem_cons, List.not_mem_nil, or_false] at he
    rcases he with rfl | rfl
    · exact exits_of (named := false) (fun _ => rfl) h
    · exact exits_of (named := true) (fun _ => rfl) h
  · obtain ⟨hg, hlive, hdone⟩ := exitOf_leaves (t := t) ⟨hk, hw, hids⟩ ht hb hp hr
    obtain ⟨u, hu, hl, hports, hi, hbw⟩ := hg.thread
    refine ⟨⟨u, hu, hl, hports, hi, hbw⟩, hg.pend, fun h1 h0 => ?_, hdone⟩
    obtain ⟨x, hx, ha⟩ := (hlive h1 h0).bolt
    exact ⟨x, hx, ha.live, ha.bstate, ha.expect, ha.spad⟩

end

section
/-! SUPPORT. Why O37 fails: an arrival writes the barrier's word to the header of the bolt that holds it, in its save area
where that bolt is saved (R400), and a write fires the monitors that other threads have armed on its line (R260). The
statement of an arrival that does not release lets no other thread change, whatever state the bolt is in. -/

namespace Sys2Proof.Claims.WatchedSaveArea

open Sys2Proof.Machine

/-- A bolt of two threads, saved at address 0x4000. -/
def bolt : Bolt := { Bolt.packed 1 0 0 0 with
  pack := false, live := 2, barWord := ⟨false, 2, 0⟩, bstate := .saved, saveArea := 0x4000 }

/-- Its thread that arrives, a member of a weft. -/
def lane : Thread := { Thread.fresh 1 0 0x8000 .user with spawn := 1, bolt := some 1, loc := .member 0 0 0 }

/-- A thread on a latency core that watches the line of the save area. -/
def watcher : Thread := { Thread.fresh 2 0 0x8000 .user with
  loc := .latency 256, monitor := ⟨0x4000 / 128, true, false, false⟩ }

def weft : Weft := { Weft.fresh 1 0 7 0 with
  lanes := (Vector.replicate 32 none).set 0 (some 1), wstate := .running, held := true }

def start : State :=
  { State.reset with
    threads := [(1, lane), (2, watcher)]
    bolts := [(1, bolt)]
    wcores := [(0, { WCore.halted0 with slots := [(0, weft)] })] }

theorem start_keyed : Keyed start := fun n t h => by
  simp only [State.thread?, start, tabGet] at h
  split_ifs at h with h1 h2
  · cases h; exact h1
  · cases h; exact h2

/-- The arrival at BAR fires the monitor. -/
theorem watcher_fired :
    (((start.arriveBarrier 1 .bar 0 0 4).thread? 2).map fun u => u.monitor.fired) = some true := by decide +kernel

end Sys2Proof.Claims.WatchedSaveArea

open Sys2Proof Sys2Proof.Machine Sys2Proof.Claims

open Sys2Proof.Claims.WatchedSaveArea in
/-- Refutes O37: the first of two lanes of a saved bolt arrives at BAR, its word is written to the bolt's save area, and that
fires the monitor of a thread that watches the line; the statement leaves every other thread as it was. -/
theorem not_boltBarriers : ¬ Obligations.BoltBarriers := by
  intro h
  obtain ⟨-, others, -⟩ := (h.1.2.2 start lane bolt bolt .bar 0 0 4 0 0 0 weft start_keyed rfl (by decide) rfl rfl rfl
    (fun e => by cases e) rfl rfl rfl rfl rfl (by decide)).1 (by decide)
  have hw := watcher_fired
  rw [show (start.arriveBarrier 1 .bar 0 0 4).thread? 2 = start.thread? 2 from others 2 (by decide)] at hw
  exact absurd hw (by decide)

end

section
/-! SUPPORT. Why O40 fails: its statement of a respawn's last round changes every trace of the spawn and names, under that
change, the readers of the trace that is changed; RESPAWN_ROUND (R353) asks for the readers of the open trace alone. The two
differ where a closed trace of the spawn is still kept to be reported (R360). -/

namespace Sys2Proof.Claims.ClosedTrace

open Sys2Proof.Machine

/-- A spawn whose bolts have all ended. -/
def ended : Spawn :=
  { id := 1, pid := 0x10001, level := .user, order := 0, seq := 0, boltsLeft := 0, started := [], running := true,
    broke := false, vf := 0, desc := {
      pclass := 1, prio := 0, trace := true, nstage := 1, nflock := 1, t := 1, fm1 := 0, entry := 0, args := [], blocks := 7,
      nslice := 0, spbytes := 0, done := 0, seq := 0, tarea := 0x10200, ebolt := 0, tlen := 0x200, chans := [] } }

/-- Its open trace, in the eighth round: its one bolt ran, and had written nothing before. -/
def opened : Trace :=
  { spawn := 1, pid := 0x10001, level := .firmware, tarea := 0x10200, nbolt := 1, ebolt := 0,
    regions := [(⟨0, 0x20000, 0x1000, 12⟩, 0x100)], busy := true, broken := false, shut := false, unsettled := false,
    round := 8, nrerun := 0, sel := [0], old := [(0, (false, []))] }

/-- A closed trace of the same spawn that captured no bolt. -/
def closed : Trace := { opened with nbolt := 0, shut := true }

/-- Five levels of tables take the page of the trace area to 0x200000, where the bolt's record has overflowed: the bolt
read and wrote every captured tile. -/
def start : State :=
  { State.reset with
    fw := { State.reset.fw with spcbase := 0x1000 }
    mem := [(0x1020, 0x01), (0x1022, 0x01), (0x1028, 0x01), (0x1029, 0x20), (0x2000, 0x03), (0x2001, 0x30), (0x3000, 0x03),
      (0x3001, 0x40), (0x4000, 0x03), (0x4001, 0x50), (0x5000, 0x03), (0x5001, 0x60), (0x6008, 0x2D), (0x600A, 0x20),
      (0x2002C4, 1)]
    traces := [opened, closed]
    spawnU := { SpawnUnit.reset with spawns := [(1, ended)] } }

/-- The tiles written anew in the round. -/
def anew : TileSet :=
  opened.old.foldl (fun n o => TileSet.union n ((start.tilesOf opened o.1 true).minus o.2)) (false, [])

/-- The bolt of the open trace reads what it wrote anew, so both traces are left unsettled. -/
theorem round_unsettled : (tryRespawnRound 1 start).map (fun s => s.traces.map Trace.unsettled) = some [true, true] := by
  decide +kernel

/-- The closed trace has no bolt that could read it. -/
theorem closed_settled :
    (start.modTrace 1 fun t => { t with sel := [], unsettled := !(start.readers t anew).isEmpty }).traces.map Trace.unsettled =
      [true, false] := by
  decide +kernel

end Sys2Proof.Claims.ClosedTrace

open Sys2Proof Sys2Proof.Machine Sys2Proof.Claims

open Sys2Proof.Claims.ClosedTrace in
/-- Refutes O40: a spawn's eighth round ends with readers of the tiles written anew in its open trace, while a closed trace of
the same spawn has none; the model leaves both unsettled, the statement only the open one. -/
theorem not_spawnUnitSteps : ¬ Obligations.SpawnUnitSteps := by
  intro h
  obtain ⟨-, -, -, -, -, -, -, -, rounds, -⟩ := h
  obtain ⟨goesOn, -⟩ := rounds start ended opened rfl rfl
  have hstep := (goesOn rfl rfl (fun w hw => by cases hw) (by decide) (by decide)).1 (.inr (by decide))
  obtain ⟨k, hk, hu⟩ := Option.map_eq_some_iff.1 round_unsettled
  have hexec : exec (.respawnRound ended.id) start = .next k := congrArg (fun o => Host.Outcome.next (Option.getD o start)) hk
  obtain rfl := Host.Outcome.next.inj (hexec.symm.trans hstep)
  exact absurd (hu.symm.trans closed_settled) (by decide)

end

section
/-! SUPPORT. The encoder and the decoder (R44 to R53, R85): the bytes of a number give it back, the fields of each form
stand where the decoder looks for them, and the compact code that stands for fields expands to them. -/

namespace Sys2Proof.Machine

/-! ### Bytes of a number (R4) -/

@[simp] theorem length_leBytes (n v : Nat) : (leBytes n v).length = n := by
  induction n generalizing v with
  | zero => rfl
  | succ n ih => rw [leBytes, List.length_cons, ih]

theorem leNat_leBytes (n v : Nat) : leNat (leBytes n v) = v % 256 ^ n := by
  induction n generalizing v with
  | zero => simp [leBytes, leNat, Nat.mod_one]
  | succ n ih => rw [leBytes, leNat, ih, BitVec.toNat_ofNat, Nat.pow_succ' (n := n), Nat.mod_mul]

/-! ### Compact codes (R46, R85) -/

/-- The code that is found stands for the opcode and the fields. -/
theorem findCompact_eq_some {op : Nat} {f : Fields} {c : Nat × Nat × Nat} {rows : List CRow} {n : Nat}
    (h : findCompact op f n rows = some c) :
    n ≤ c.1 ∧ ∃ row, rows[c.1 - n]? = some row ∧ compactMatches op f row = true ∧ c.2 = compactArgs row f := by
  induction rows generalizing n with
  | nil => simp [findCompact] at h
  | cons row rows ih =>
    rw [findCompact] at h
    split_ifs at h with hm
    · cases h
      exact ⟨le_rfl, row, by simp, hm, rfl⟩
    · obtain ⟨hn, r, hr, h⟩ := ih h
      refine ⟨by omega, r, ?_, h⟩
      rwa [show c.1 - n = c.1 - (n + 1) + 1 by omega, List.getElem?_cons_succ]

/-- What a compact code that stands for an opcode and fields is (R85, R86). -/
theorem compactOf_eq_some {op : Nat} {f : Fields} {code d s : Nat} (h : compactOf op f = some (code, d, s)) :
    (1 ≤ code ∧ code ≤ 64) ∧ d < 16 ∧ s < 16 ∧ ∃ row, compactRows[code - 1]? = some row ∧ row.op = op ∧
      compactFields row d s = f ∧ compactUnused row d s = true := by
  obtain ⟨h1, row, hrow, hm, ha⟩ := findCompact_eq_some h
  have hlt : code - 1 < compactRows.length := (List.getElem?_eq_some_iff.1 hrow).1
  have hlen : compactRows.length = 64 := by decide
  simp only [compactMatches, ← ha, Bool.and_eq_true, beq_iff_eq, decide_eq_true_eq] at hm
  obtain ⟨⟨⟨⟨hop, hd⟩, hs⟩, hf⟩, hu⟩ := hm
  exact ⟨⟨h1, by omega⟩, hd, hs, row, hrow, hop, hf, hu⟩

/-! ### Fields that are an encoding (R52) -/

/-- Fields that R52 does not reject fit in their form. -/
theorem formHolds_of_reject? {op : Nat} {r : OpRule} {f : Fields} (h : reject? op r f = none) : formHolds f = true := by
  by_contra hf
  rw [Bool.not_eq_true] at hf
  simp only [reject?, hf, Bool.not_false, if_true] at h
  split_ifs at h

end Sys2Proof.Machine

namespace Sys2Proof

open Machine

/-- An instruction's opcode and fields name it, and R52 accepts them. -/
theorem instrOf_instrFields (i : Instr) : Laws.Opcodes.Statement i := by
  intro op f h
  cases i <;> cases h <;> exact ⟨by decide, rfl, rfl⟩

/-! ### Bits of a form (R46 to R50) -/

theorem bitAt_bitNat {v lo : Nat} {b : Bool} (h : v / 2 ^ lo % 2 = bitNat b) : bitAt v lo = b := by
  rw [bitAt, h]
  cases b <;> rfl

theorem field6_val {v lo : Nat} {x : Fin 64} (h : v / 2 ^ lo % 64 = x.val) : field6 v lo = x := Fin.ext h

theorem ofNat_bitsAt {v lo n : Nat} {x : BitVec n} (h : v / 2 ^ lo % 2 ^ n = x.toNat) :
    BitVec.ofNat n (bitsAt v lo n) = x := by
  rw [bitsAt, h, BitVec.ofNat_toNat, BitVec.setWidth_eq]

theorem bitNat_lt (b : Bool) : bitNat b < 2 := by cases b <;> decide

section

variable {op : Nat} {f : Fields} (hc : f.form ≠ .c)

include hc

theorem formOf_encodeBits : formOf (encodeBits op f % 256) = some f.form := by
  cases hf : f.form with
  | c => exact absurd hf hc
  | s =>
    simp only [formOf, encodeBits, hf, beq_iff_eq]
    rw [if_neg (by omega), if_pos (by omega)]
  | m =>
    simp only [formOf, encodeBits, hf, beq_iff_eq]
    rw [if_neg (by omega), if_neg (by omega), if_pos (by omega)]
  | l =>
    simp only [formOf, encodeBits, hf, beq_iff_eq]
    rw [if_neg (by omega), if_neg (by omega), if_neg (by omega), if_pos (by omega)]
  | x =>
    simp only [formOf, encodeBits, hf, beq_iff_eq]
    rw [if_neg (by omega), if_neg (by omega), if_neg (by omega), if_neg (by omega), if_pos (by omega)]

variable (hop : op < 512)

include hop

theorem encodeBits_lt : encodeBits op f < 256 ^ f.form.bytes := by
  have h1 := bitNat_lt f.e1
  have h2 := bitNat_lt f.e2
  have h3 := bitNat_lt f.e3
  cases hf : f.form
  case c => exact absurd hf hc
  all_goals
    simp only [encodeBits, Form.bytes, hf]
    omega

theorem opcodeAt_encodeBits : opcodeAt f.form (encodeBits op f) = op := by
  have h1 := bitNat_lt f.e1
  have h2 := bitNat_lt f.e2
  have h3 := bitNat_lt f.e3
  cases hf : f.form
  case c => exact absurd hf hc
  all_goals
    simp only [encodeBits, opcodeAt, bitsAt, hf]
    omega

theorem fieldsAt_encodeBits (h : formHolds f = true) : fieldsAt f.form (encodeBits op f) = f := by
  obtain ⟨form, rd, s1, s2, s3, e1, e2, e3, mod, pol, imm⟩ := f
  have h1 := bitNat_lt e1
  have h2 := bitNat_lt e2
  have h3 := bitNat_lt e3
  simp only [formHolds] at h
  cases form with
  | c => exact absurd rfl hc
  | s =>
    simp only [Bool.and_eq_true, beq_iff_eq, Bool.not_eq_true'] at h
    obtain ⟨⟨⟨⟨rfl, rfl⟩, rfl⟩, rfl⟩, rfl⟩ := h
    simp only [encodeBits, fieldsAt, Fields.mk.injEq, true_and, and_true]
    exact ⟨field6_val (by omega), field6_val (by omega), field6_val (by omega), bitAt_bitNat (by omega),
      bitAt_bitNat (by omega)⟩
  | m =>
    simp only [Bool.and_eq_true, beq_iff_eq] at h
    obtain ⟨rfl, rfl⟩ := h
    simp only [encodeBits, fieldsAt, Fields.mk.injEq, true_and, and_true]
    exact ⟨field6_val (by omega), field6_val (by omega), field6_val (by omega), field6_val (by omega),
      bitAt_bitNat (by omega), bitAt_bitNat (by omega), bitAt_bitNat (by omega), ofNat_bitsAt (by omega)⟩
  | l =>
    simp only [Bool.and_eq_true, beq_iff_eq, Bool.not_eq_true'] at h
    obtain ⟨⟨⟨rfl, rfl⟩, rfl⟩, himm⟩ := h
    simp only [encodeBits, fieldsAt, Fields.mk.injEq, true_and]
    refine ⟨field6_val (by omega), field6_val (by omega), field6_val (by omega), bitAt_bitNat (by omega),
      bitAt_bitNat (by omega), ofNat_bitsAt (by omega), ?_⟩
    rw [ofNat_bitsAt (x := imm.setWidth 23) (by rw [BitVec.toNat_setWidth]; omega), himm]
  | x =>
    simp only [encodeBits, fieldsAt, Fields.mk.injEq, true_and]
    exact ⟨field6_val (by omega), field6_val (by omega), field6_val (by omega), field6_val (by omega),
      bitAt_bitNat (by omega), bitAt_bitNat (by omega), bitAt_bitNat (by omega), ofNat_bitsAt (by omega),
      field6_val (by omega), ofNat_bitsAt (by omega)⟩

/-- The bits that R47, R48 and R50 keep 0 are 0. -/
theorem reservedBits_encodeBits :
    ((f.form == .s && bitAt (encodeBits op f) 31) || (f.form == .m && bitAt (encodeBits op f) 47)) = false ∧
      (f.form == .x && bitsAt (encodeBits op f) 49 9 != 0) = false := by
  have h1 := bitNat_lt f.e1
  have h2 := bitNat_lt f.e2
  have h3 := bitNat_lt f.e3
  cases e : f.form with
  | c => exact absurd e hc
  | s =>
    have h : bitAt (encodeBits op f) 31 = false := by
      simp only [bitAt, encodeBits, e, beq_eq_false_iff_ne]
      omega
    simp [h]
  | m =>
    have h : bitAt (encodeBits op f) 47 = false := by
      simp only [bitAt, encodeBits, e, beq_eq_false_iff_ne]
      omega
    simp [h]
  | l => exact ⟨rfl, rfl⟩
  | x =>
    have h : bitsAt (encodeBits op f) 49 9 = 0 := by
      simp only [bitsAt, encodeBits, e]
      omega
    simp [h]

/-- The bits of an instruction that is no C form decode to it (R47 to R53). -/
theorem decodeBits_encodeBits {r : OpRule} (hr : opRule op = some r) (h : reject? op r f = none) :
    decodeBits f.form (encodeBits op f) = .ok (op, f) := by
  have ho := opcodeAt_encodeBits hc hop
  have hf := fieldsAt_encodeBits hc hop (formHolds_of_reject? h)
  obtain ⟨htop, hext⟩ := reservedBits_encodeBits hc hop
  cases e : f.form <;> rw [e] at ho hf htop hext
  case c => exact absurd e hc
  all_goals simp only [decodeBits, ho, hr, hf, h, htop, hext, Bool.false_eq_true, if_false]

end

/-- The bits of a C form decode to what its code stands for (R46, R85). -/
theorem decodeBits_compact {op : Nat} {f : Fields} {v : Nat} (h : encodeCompact op f = some v) :
    v < 256 ^ 2 ∧ formOf (v % 256) = some .c ∧ decodeBits .c v = .ok (op, f) := by
  obtain ⟨⟨code, d, s⟩, hc, rfl⟩ := Option.map_eq_some_iff.1 h
  obtain ⟨hcode, hd, hs, row, hrow, rfl, rfl, hu⟩ := compactOf_eq_some hc
  have h1 : bitsAt (2 * code + 2 ^ 8 * s + 2 ^ 12 * d) 1 7 = code := by rw [bitsAt]; omega
  have h2 : bitsAt (2 * code + 2 ^ 8 * s + 2 ^ 12 * d) 12 4 = d := by rw [bitsAt]; omega
  have h3 : bitsAt (2 * code + 2 ^ 8 * s + 2 ^ 12 * d) 8 4 = s := by rw [bitsAt]; omega
  have h0 : (code == 0) = false := by simp; omega
  refine ⟨by simp only; omega, ?_, ?_⟩
  · simp only [formOf, beq_iff_eq]
    rw [if_pos (by omega)]
  · simp only [decodeBits, h1, h2, h3, hrow, h0, hu, Bool.not_true, Bool.or_self, Bool.false_eq_true, if_false]

/-! ### Bytes of an instruction -/

/-- What the bytes of a form's bits decode to, whatever follows them (R44). -/
theorem decodeFields_leBytes {form : Form} {v op : Nat} {f : Fields} (hv : v < 256 ^ form.bytes)
    (hf : formOf (v % 256) = some form) (hd : decodeBits form v = .ok (op, f)) (rest : List Byte) :
    decodeFields (leBytes form.bytes v ++ rest) = .ok (op, f, rest) := by
  have hlen := length_leBytes form.bytes v
  have hnat : leNat ((leBytes form.bytes v ++ rest).take form.bytes) = v := by
    rw [List.take_left' hlen, leNat_leBytes, Nat.mod_eq_of_lt hv]
  have hdrop := List.drop_left' (l₂ := rest) hlen
  obtain ⟨n, hn⟩ : ∃ n, form.bytes = n + 1 := by cases form <;> exact ⟨_, rfl⟩
  have hcons : leBytes form.bytes v ++ rest = BitVec.ofNat 8 v :: (leBytes n (v / 256) ++ rest) := by
    rw [hn, leBytes, List.cons_append]
  have hb : formOf (BitVec.ofNat 8 v).toNat = some form := by rw [BitVec.toNat_ofNat]; exact hf
  have hshort : ¬ (leBytes form.bytes v ++ rest).length < form.bytes := by
    rw [List.length_append, hlen]; omega
  rw [hcons] at hnat hdrop hshort ⊢
  simp only [decodeFields, hb, if_neg hshort, hnat, hd, hdrop]

/-- Fields that R52 accepts are encoded by bits of their form that decode to them. -/
theorem encode_of_fieldsOk {i : Instr} {op : Nat} {f : Fields} (hi : instrFields i = some (op, f)) (hop : op < 512)
    (h : fieldsOk op f = true) : ∃ v, encode i = some (leBytes f.form.bytes v) ∧ v < 256 ^ f.form.bytes ∧
      formOf (v % 256) = some f.form ∧ decodeBits f.form v = .ok (op, f) := by
  unfold fieldsOk at h
  split at h
  · cases h
  · next r hr =>
    by_cases hc : f.form = .c
    · rw [if_pos (by simpa using hc)] at h
      obtain ⟨v, hv⟩ : ∃ v, encodeCompact op f = some v := by
        rwa [← Option.isSome_iff_exists, encodeCompact, Option.isSome_map]
      refine ⟨v, by simp [encode, hi, hc, hv, Form.bytes], ?_⟩
      rw [hc]
      exact decodeBits_compact hv
    · rw [if_neg (by simpa using hc), Option.isNone_iff_eq_none] at h
      exact ⟨encodeBits op f, by simp [encode, hi, hc], encodeBits_lt hc hop, formOf_encodeBits hc,
        decodeBits_encodeBits hc hop hr h⟩

end Sys2Proof

open Sys2Proof Sys2Proof.Machine

/-- Settles O55: the bits of each form are read back field by field, a compact code by its row; an opcode and its fields
name one instruction. -/
theorem encodeDecodes : Obligations.EncodeDecodes := by
  intro i op f rest hwf hif
  obtain ⟨hop, hi, hok⟩ := instrOf_instrFields i op f hif
  obtain ⟨v, he, hv, hf, hd⟩ := encode_of_fieldsOk hif hop (hok ▸ hwf)
  refine ⟨_, he, length_leBytes _ _, ?_⟩
  simp only [decode, decodeFields_leBytes hv hf hd, hi]

/-- Settles O54: each word is decoded by evaluation. -/
theorem decodeWords : Obligations.DecodeWords :=
  ⟨rfl, rfl, rfl, rfl, rfl, rfl, rfl, rfl, rfl, rfl, rfl, rfl, rfl, rfl, rfl, rfl, rfl, rfl, rfl, rfl, rfl, rfl, rfl,
    rfl, rfl, rfl, rfl, rfl, rfl, rfl, rfl, rfl⟩

end

section
/-! SUPPORT. Branches and jumps (R156 to R158): a lane that jumps, and the conditions of R81 as the statements name
them. -/

namespace Sys2Proof.Machine

open Sys2Proof.Claims

/-! ### Conditions (R81) -/

theorem sval_low (v : Word) : sval true v = (v.setWidth 32).toInt := by
  simp only [sval, sextN, if_true, BitVec.toInt, BitVec.toNat_setWidth]

/-- The conditions of the model are those between the words or between their low halves. -/
theorem condHolds_eq_condOn (code n : Nat) (x y : BitVec n) :
    condHolds code x.toInt y.toInt x.toNat y.toNat = condOn code n x y := by
  have he : (x.toNat == y.toNat) = (x == y) := by
    rw [Bool.eq_iff_iff, beq_iff_eq, beq_iff_eq, BitVec.toNat_inj]
  have hs (a b : Int) : decide (b ≤ a) = !decide (a < b) := by
    rw [← decide_not]; exact decide_eq_decide.2 Int.not_lt.symm
  have hu (a b : Nat) : decide (b ≤ a) = !decide (a < b) := by
    rw [← decide_not]; exact decide_eq_decide.2 Nat.not_lt.symm
  unfold condHolds condOn
  split <;> simp only [bne, he, hs, hu, BitVec.slt, BitVec.ult]

theorem condWords_eq_condAt (code : Nat) (w : Bool) (a b : Word) : condWords code w a b = condAt code w a b := by
  cases w with
  | false => exact condHolds_eq_condOn code 64 a b
  | true =>
    rw [condWords, sval_low, sval_low]
    exact condHolds_eq_condOn code 32 (a.setWidth 32) (b.setWidth 32)

/-! ### Jumps -/

/-- What a control instruction does for a lane: it jumps where it is taken, with a link where it leaves one. -/
def branchBody (f : Fields) (taken : Lane → Bool) (target : Lane → Word) (links : Bool) : Body := fun s l =>
  if taken l then jumpTo s (target l) (if links then some (nextPc f l.thread.pc) else none) else .done s

theorem jumpTo_odd {s : State} {pc : Word} (h : pc.getLsbD 0 = true) (link : Option Word) :
    jumpTo s pc link = .trap ⟨.align, pc, true⟩ false := by rw [jumpTo, if_pos h]

theorem jumpTo_even {s : State} {pc : Word} (h : pc.getLsbD 0 = false) (link : Option Word) :
    jumpTo s pc link = .jump s pc link := by rw [jumpTo, h, if_neg Bool.false_ne_true]

section

variable {i : Instr} {r : OpRule} {f : Fields} {taken : Lane → Bool} {target : Lane → Word} {links : Bool}

/-- A lane that jumps (R156, R165): it leaves its link, goes to the target, and notes a backward jump. -/
theorem lane_jump {irrev : Bool} {body : Body} {g : Issuing} {l : Lane} {pc : Word}
    (hb : body g.all l = .jump g.all pc (if links then some (nextPc f l.thread.pc) else none))
    (hh : g.all.thread? l.tid = some l.thread) (ht : l.tid = l.thread.tid) :
    g.lane r f irrev body l = { g with
      all := (g.all.putThread (landed (if links then l.thread.setReg f.rd ⟨nextPc f l.thread.pc, true, false⟩
        else l.thread) pc irrev)).noteBack l.thread.pc pc
      done := g.done ++ [l.tid] } := by
  have hland (k : State) (t : Thread) (hk : k.thread? l.tid = some t) :
      k.modThread l.tid (fun t => if irrev then { t with pc, rgn := pc } else { t with pc }) =
        k.putThread (landed t pc irrev) := by
    rw [State.modThread_of k hk]
    cases irrev <;> rfl
  simp only [Issuing.lane, hb]
  congr 2
  cases links with
  | false => exact hland _ _ hh
  | true =>
    have hset := State.modThread_of g.all hh fun t => t.setReg f.rd ⟨nextPc f l.thread.pc, true, false⟩
    have hput : (g.all.putThread (l.thread.setReg f.rd ⟨nextPc f l.thread.pc, true, false⟩)).thread? l.tid =
        some (l.thread.setReg f.rd ⟨nextPc f l.thread.pc, true, false⟩) := by
      rw [ht, ← Thread.setReg_tid]; exact State.thread?_putThread_same _ _
    simp only [if_true, State.setReg, hset, hland _ _ hput]
    exact State.putThread_putThread _ rfl

/-- An instruction whose meaning is a jump where it is taken. -/
theorem branching_of (hrd : r.rd ≠ .reg) (hexec : ∀ s, exec i s =
      issue r f false (fun _ => none) (decide (r = rJmp ∨ r = rJal)) (branchBody f taken target links) s) :
    Branching i r f taken target links := by
  refine ⟨runs_of hexec fun g l ht hh hn => ?_, traps_alone_of hexec fun s l tr _ _ hy => ?_⟩
  · have hp := rd_none_push (f := f) hrd
    cases hk : taken l with
    | false =>
      have hb : branchBody f taken target links g.all l = .done g.all := by simp [branchBody, hk]
      rw [lane_done hb hh hp g.all 0]
      simp [pushOf, hp]
    | true =>
      have hb : branchBody f taken target links g.all l = .jump g.all (target l)
          (if links then some (nextPc f l.thread.pc) else none) := by
        rw [branchBody, if_pos hk, jumpTo_even (hn hk)]
      rw [lane_jump hb hh ht]
      simp only [if_true, pushOf, hp, Bool.false_eq_true, if_false, List.append_nil, branchTo, State.noteBack,
        Bool.false_or]
  · split_ifs at hy with hk
    cases hy
    rw [branchBody, if_pos hk.1, jumpTo_odd hk.2]

end

end Sys2Proof.Machine

open Sys2Proof.Machine Sys2Proof.Claims

/-- Settles O14: every branch and jump is one body with a condition, a target and a link or none. -/
theorem branchesAndJumps : Obligations.BranchesAndJumps := by
  intro f rel
  have hbr : (fun l : Lane => condWords f.cond f.w l.a l.b) = fun l => condAt (f.mod.toNat % 16) f.w l.a l.b :=
    funext fun l => condWords_eq_condAt ..
  refine ⟨branching_of (by decide) fun s => ?_, branching_of (by decide) fun _ => rfl,
    branching_of (by decide) fun _ => rfl, branching_of (by decide) fun _ => rfl, branching_of (by decide) fun _ => rfl,
    branching_of (by decide) fun s => ?_⟩
  · rw [← hbr]
    rfl
  · have haddr : (fun l : Lane => l.a + f.imm.signExtend 64) = fun l => wordOfInt (l.addr f) := funext fun l => by
      rw [wordOfInt, Lane.addr, BitVec.ofInt_add, BitVec.ofInt_toInt]
      rfl
    rw [haddr]
    rfl

end

section
/-! SUPPORT. Full bits and queue bindings (R88, R94, R108 to R110): when EMPT and FILL wait, which binding QBIND makes,
and the status word of a port. -/

namespace Sys2Proof.Machine

open Sys2Proof.Claims

/-! ### Full bits (R108) -/

theorem aimsAt_eq_false_iff {s : State} {tid n : Nat} : s.aimsAt tid n = false ↔ NothingAims s tid n := by
  simp only [State.aimsAt, State.pendOf, NothingAims, List.any_eq_false, List.mem_filter, beq_iff_eq, Bool.or_eq_true,
    Bool.and_eq_true, bne_iff_ne, not_or, and_imp, not_and, not_not]
  refine forall_congr' fun x => imp_congr_right fun _ => imp_congr_right fun _ => and_congr_right fun _ =>
    imp_congr_right fun _ => ?_
  exact ⟨fun h h0 h1 => h0 (h h1), fun h h1 => by_contra fun h0 => h h0 h1⟩

theorem fullBody_done {f : Fields} {full : Bool} {s : State} {l : Lane} (h : NothingAims s l.tid f.s1)
    (hh : s.thread? l.tid = some l.thread) :
    fullBody f full s l = .done (s.putThread (withFull l.thread f.s1 full)) := by
  rw [fullBody, aimsAt_eq_false_iff.2 h, State.modThread_of s hh, if_neg Bool.false_ne_true]
  rfl

theorem aimsAt_congr {s k : State} (h : k.pend = s.pend) (tid n : Nat) : k.aimsAt tid n = s.aimsAt tid n := by
  rw [State.aimsAt, State.aimsAt, State.pendOf, State.pendOf, h]

@[simp] theorem advance_pend (s : State) (tid : Nat) (f : Fields) (irrev : Bool) :
    (s.advance tid f irrev).pend = s.pend := State.modThread_pend ..

/-- EMPT and FILL in a group: whatever lanes have done is kept nowhere, and a lane waits where a result aims at its
register. -/
theorem runLanes_fullBody {s : State} {f : Fields} {full irrev : Bool} {own : Thread → List Popped → Option Trap}
    {ls : List (Nat × Thread)} (hown : ∀ p ∈ ls, own p.2 [] = none) (g : Issuing) (hp : g.all.pend = s.pend)
    (hk : g.kept = s) (hd : g.device = none) :
    let out := runLanesBody rEmpt f irrev own (fullBody f full) [] g ls
    out.kept = s ∧ out.device = none ∧ out.waits = (g.waits || ls.any fun p => s.aimsAt p.2.tid f.s1) := by
  induction ls generalizing g with
  | nil => exact ⟨hk, hd, (Bool.or_false _).symm⟩
  | cons p ls ih =>
    obtain ⟨n, t⟩ := p
    have hrest := fun g => ih (fun p h => hown p (List.mem_cons_of_mem _ h)) g
    have hnone : own t [] = none := hown (n, t) List.mem_cons_self
    simp only [runLanesBody, List.filter_nil, List.map_nil, hnone, List.any_cons]
    have hb : fullBody f full g.all (readLane rEmpt f n t []) = if s.aimsAt t.tid f.s1 then .wait id else
        .done (g.all.modThread t.tid fun t => t.setFull f.s1 full) := by
      rw [← aimsAt_congr hp]
      rfl
    cases ha : s.aimsAt t.tid f.s1 with
    | true =>
      simp only [Issuing.lane, hb, ha, if_true, Bool.true_or, Bool.or_true]
      have := hrest { g with kept := id g.kept, waits := true } hp hk hd
      rwa [Bool.true_or] at this
    | false =>
      simp only [Issuing.lane, hb, ha, Bool.false_eq_true, if_false, Bool.false_or]
      exact hrest _ (by simp [hp]) hk hd

/-- A group of EMPT or FILL waits while a result aims at the register of one of its lanes (R57, R108). -/
theorem issue_fullBody_waits {s : State} {f : Fields} {full : Bool} {ls : List (Nat × Thread)}
    (h : Ready s rEmpt f false ls) (hw : ∃ p ∈ ls, ¬ NothingAims s p.2.tid f.s1) :
    issuePlain rEmpt f (fullBody f full) s = .next s.block := by
  have hany : (ls.any fun p => s.aimsAt p.2.tid f.s1) = true := by
    obtain ⟨p, hp, ha⟩ := hw
    exact List.any_eq_true.2 ⟨p, hp, by rwa [← aimsAt_eq_false_iff, Bool.not_eq_false] at ha⟩
  obtain ⟨hk, hd, hwaits⟩ := runLanes_fullBody (s := s) (f := f) (full := full) (irrev := false)
    (own := lateTrap s rEmpt f true)
    (fun p hp => lateTrap_none (h.lane p hp) [] (.inl rfl) fun hq => absurd hq (by simp [pushesRd, rEmpt]))
    ⟨s, s, [], [], false, none, []⟩ rfl rfl rfl
  rw [issuePlain, issue_ready h _ (fun _ _ => rfl)]
  simp only [Issuing.finish, hk, hd, hwaits, hany, Bool.or_true, if_true]

theorem runs_full {i : Instr} {f : Fields} {full : Bool}
    (hexec : ∀ s, exec i s = issuePlain rEmpt f (fullBody f full) s) :
    Runs i rEmpt f false true (fun s l => NothingAims s l.tid f.s1)
      (fun k l => k.putThread ((withFull l.thread f.s1 full).past f (touchesPort rEmpt f))) (fun _ _ => 0) :=
  runs_done (fun _ l => withFull l.thread f.s1 full) hexec (by decide) fun _ _ ht hh hn =>
    ⟨fullBody_done hn hh, by rw [withFull, Thread.setReg_tid, ht]⟩

/-! ### Bindings (R94, R109) -/

theorem bindQueue_eq (f : Fields) (v : Word) :
    (f.imm.setWidth 13 + v.setWidth 13 : BitVec 13).toNat = (f.imm.toNat % 8192 + v.toNat % 8192) % 8192 := by
  rw [BitVec.toNat_add, BitVec.toNat_setWidth, BitVec.toNat_setWidth]

theorem bindChannel_eq (f : Fields) (v : Word) :
    (f.imm.setWidth 5 + v.setWidth 5 : BitVec 5).toNat = (f.imm.toNat % 8192 + v.toNat % 32) % 32 := by
  rw [BitVec.toNat_add, BitVec.toNat_setWidth, BitVec.toNat_setWidth]
  omega

/-- A channel exists where its depth code is not 0 (R323). -/
theorem chan?_eq_none_iff {o : Option Bolt} {n : Nat} :
    (o.bind fun b => b.chan? n) = none ↔ ((o.bind fun b => tabGet b.chans n).map Chan.dcode).getD 0 = 0 := by
  cases o with
  | none => simp
  | some b => cases h : tabGet b.chans n <;> simp [Bolt.chan?, h]

section

variable {s : State} {f : Fields} {l : Lane} (hf : f.imm.toNat < 2 ^ 15)

include hf

theorem bindCode_eq : (f.imm >>> 13).toNat % 4 = f.imm.toNat / 8192 := by
  rw [BitVec.toNat_ushiftRight, Nat.shiftRight_eq_div_pow]
  omega

/-- The model's binding is the one that R94 and R109 name. -/
theorem bindTarget_ok {p : Port} (h : bindingOf s f l = some p) : bindTarget s f l = .ok p := by
  rw [bindingOf, bindCode_eq hf] at h
  simp only [bindQueue_eq, bindChannel_eq] at h
  unfold bindTarget
  split at h
  · next hc =>
    simp only [hc]
    split_ifs at h ⊢ with hg
    exact congrArg Except.ok (Option.some.inj h)
  · next hc =>
    simp only [hc]
    split_ifs at h ⊢ with hl hn
    rw [← chan?_eq_none_iff] at hn
    obtain ⟨c, hcc⟩ := Option.ne_none_iff_exists'.1 hn
    rw [hcc]
    exact congrArg Except.ok (Option.some.inj h)
  · next hc =>
    simp only [hc]
    exact congrArg Except.ok (Option.some.inj h)
  · cases h

theorem bindTarget_error {tr : Trap} (h : bindTrapOf s f l = some tr) : bindTarget s f l = .error tr := by
  rw [bindTrapOf, bindCode_eq hf] at h
  simp only [bindQueue_eq, bindChannel_eq] at h
  unfold bindTarget
  split at h
  · dsimp only
    split_ifs at h ⊢ with hg
    exact congrArg Except.error (Option.some.inj h)
  · dsimp only
    split_ifs at h ⊢ with hl hn
    · exact congrArg Except.error (Option.some.inj h)
    · rw [chan?_eq_none_iff.2 hn]
      exact congrArg Except.error (Option.some.inj h)
  · cases h

end

/-! ### Status words (R110) -/

theorem statusWord_eq (kind id cap occ : Nat) : statusWord kind id cap occ =
    BitVec.ofNat 64 (kind * 2 ^ 62 + id * 2 ^ 49 + (cap - 1) * 2 ^ 25 + occ) := by
  rw [statusWord]
  congr 1
  omega

theorem portStatus_eq (s : State) (t : Thread) (p : Port) : portStatus s t p = statusOf s t p := by
  unfold portStatus statusOf
  cases p with
  | unbound => rfl
  | inbox => exact statusWord_eq ..
  | base q =>
    simp only [statusWord_eq]
    split_ifs with hg
    · have hl : (s.queue q).lsz ≠ 0 := fun h => by simp [Queue.granted, h] at hg
      rw [State.queueCap, if_neg hl]
      rfl
    · rfl
  | chan n =>
    simp only [statusWord_eq]
    cases t.bolt with
    | none => rfl
    | some b =>
      simp only [State.queueCap, State.queueWords, Option.bind_some]
      cases s.bolt? b with
      | none => rfl
      | some b =>
        simp only [Option.bind_some]
        cases b.chan? n with
        | none => rfl
        | some c => simp only [Bolt.chanWords, List.length_map, List.length_range]

/-- What QSTAT does for a lane (R110). -/
def qstatBody (f : Fields) : Body := fun s l =>
  match l.thread.port (f.s1.val - 56), l.thread.onLatency with
  | .chan _, true => .trap (Trap.plain .needw f.s1) false
  | _, _ => .value s (portStatus s l.thread (l.thread.port (f.s1.val - 56)))

theorem qstatBody_needw {f : Fields} {l : Lane} {n : Nat} (h : l.thread.port (f.s1.val - 56) = .chan n)
    (hl : l.thread.onLatency = true) (s : State) : qstatBody f s l = .trap (Trap.plain .needw f.s1) false := by
  unfold qstatBody
  rw [h, hl]

theorem qstatBody_value {f : Fields} {l : Lane}
    (h : l.thread.onLatency = false ∨ ∀ n, l.thread.port (f.s1.val - 56) ≠ .chan n) (s : State) :
    qstatBody f s l = .value s (statusOf s l.thread (l.thread.port (f.s1.val - 56))) := by
  rw [← portStatus_eq]
  unfold qstatBody
  split
  · next n hp hl =>
    rcases h with h | h
    · exact absurd hl (by simp [h])
    · exact absurd hp (h n)
  · rfl

@[simp] theorem Thread.setPort_tid (t : Thread) (k : Nat) (p : Port) : (t.setPort k p).tid = t.tid := by
  unfold Thread.setPort; split <;> rfl

end Sys2Proof.Machine

namespace Sys2Proof.Claims

open Sys2Proof.Machine

theorem fullBits : FullBits := fun _ =>
  ⟨runs_full fun _ => rfl, runs_full fun _ => rfl, yields_of_issueValue (fun _ => rfl) fun _ => rfl,
    fun _ _ hr hw => ⟨issue_fullBody_waits hr hw, issue_fullBody_waits hr hw⟩⟩

theorem queueBindings : QueueBindings := by
  intro f hf
  refine ⟨traps_alone_of (fun _ => rfl) fun s l tr _ _ hy => ?_,
    traps_alone_of (body := qstatBody f) (fun _ => rfl) fun s l tr _ _ hy => ?_,
    runs_done (fun k l => l.thread.setPort (f.rd.val - 56) ((bindingOf k f l).getD .unbound)) (fun _ => rfl) (by decide)
      fun s l ht hh hn => ⟨?_, by rw [Thread.setPort_tid, ht]⟩,
    runs_done (fun k l => l.thread.setPort (f.s1.val - 56) .unbound) (fun _ => rfl) (by decide)
      fun s l ht hh _ => ⟨by rw [State.modThread_of s hh], by rw [Thread.setPort_tid, ht]⟩,
    runs_of (body := qstatBody f) (fun _ => rfl) fun g l ht hh hn => ?_⟩
  · simp only [bindTarget_error hf hy]
  · split at hy
    · next n hp =>
      split_ifs at hy with hl
      rw [← Option.some.inj hy]
      exact qstatBody_needw hp hl s
    · cases hy
  · obtain ⟨p, hp⟩ := Option.isSome_iff_exists.1 hn
    simp only [bindTarget_ok hf hp, hp, State.modThread_of s hh, Option.getD_some]
  · have hp : pushesRd rQstat f = false := rd_none_push (by decide)
    rw [lane_value (qstatBody_value hn g.all) hh ht.symm]
    simp only [pushOf, hp, Bool.false_eq_true, if_false]
    rfl

end Sys2Proof.Claims
end

section
/-! SUPPORT. The words of queues (R58, R92, R323, R334, R335): what a pop and a push leave of a base-die queue and of
every other, and of the ring in which a channel's bolt keeps its words. -/

namespace Sys2Proof.Machine

/-! ### Base-die queues (R334, R335) -/

theorem dropAt_range {α : Type} (k i : Nat) (l : List α) : dropAt (List.range k) i l = l.drop (k - i) := by
  induction l generalizing i with
  | nil => simp [dropAt]
  | cons a l ih =>
    rw [dropAt, ih]
    by_cases h : i < k
    · rw [if_pos (by simpa using h), show k - i = k - (i + 1) + 1 by omega, List.drop_succ_cons]
    · rw [if_neg (by simpa using h), show k - i = 0 by omega, show k - (i + 1) = 0 by omega]
      rfl

/-- A change of one base-die queue. -/
structure QueueOnly (q : Nat) (s t : State) : Prop where
  rest : t = { s with queues := t.queues }
  others : ∀ m, m ≠ q → t.queue m = s.queue m

namespace QueueOnly

variable {q : Nat} {s t u : State}

theorem refl (q : Nat) (s : State) : QueueOnly q s s := ⟨rfl, fun _ _ => rfl⟩

theorem trans (h : QueueOnly q s t) (h' : QueueOnly q t u) : QueueOnly q s u := by
  refine ⟨?_, fun m hm => (h'.others m hm).trans (h.others m hm)⟩
  rw [h'.rest, h.rest]

theorem putQueue (q : Nat) (s : State) (r : Queue) : QueueOnly q s (s.putQueue q r) :=
  ⟨rfl, fun _ hm => State.queue_putQueue_other s r hm.symm⟩

theorem pushWord (q : Nat) (s : State) (w : Word) (p : Bool) : QueueOnly q s (s.pushWord (.base q) w p) :=
  putQueue q s _

theorem settleQueue (q n : Nat) (s : State) : QueueOnly q s (s.settleQueue q n) := by
  induction n generalizing s with
  | zero => exact refl q s
  | succ n ih =>
    simp only [State.settleQueue]
    split
    · exact refl q s
    · split_ifs
      · exact ((putQueue q s _).trans (pushWord q _ _ _)).trans (ih _)
      · exact refl q s

theorem takeWords (q : Nat) (s : State) (used : List Nat) : QueueOnly q s (s.takeWords (.base q) used) := by
  unfold State.takeWords
  split_ifs
  · exact refl q s
  · exact (putQueue q s _).trans (settleQueue q _ _)

end QueueOnly

/-- The words that a queue has room for (R334). -/
def Queue.space (r : Queue) : Nat := (if r.lsz = 0 then 0 else 2 ^ r.lsz) - r.words.length

/-- The pushes that wait at a queue, in their order (R335). -/
def State.pushLine (s : State) (r : Queue) : List Waiter := r.waiters.filter fun w => !w.pop && s.stillWaits w

/-- How many pushes of the device are first in the line (R335). -/
def State.deviceFirst (s : State) (r : Queue) : Nat :=
  ((s.pushLine r).takeWhile fun w => decide (w = Waiter.device)).length

section

variable {s : State} {q : Nat}

theorem roomFor_one_iff : s.roomFor q 1 = true ↔ 0 < (s.queue q).space := by
  simp only [State.roomFor, Queue.space, Bool.and_eq_true, bne_iff_ne, decide_eq_true_eq]
  split_ifs with h
  · simp [h]
  · simp only [ne_eq, h, not_false_eq_true, true_and]
    omega

theorem firstPush_device_iff : s.firstPush q = some Waiter.device ↔ 0 < s.deviceFirst (s.queue q) := by
  rw [State.firstPush, ← List.head?_filter, State.deviceFirst, State.pushLine]
  cases (s.queue q).waiters.filter fun w => !w.pop && s.stillWaits w with
  | nil => simp
  | cons w ws => by_cases h : w = Waiter.device <;> simp [h]

/-- Once the first push of the device is served, those behind it are first (R335). -/
theorem deviceFirst_erase {r : Queue} (h : 0 < s.deviceFirst r) :
    s.deviceFirst { r with waiters := r.waiters.erase Waiter.device } + 1 = s.deviceFirst r := by
  rw [State.deviceFirst, State.deviceFirst, State.pushLine, State.pushLine, ← List.erase_filter]
  rw [State.deviceFirst, State.pushLine] at h
  cases hl : r.waiters.filter fun w => !w.pop && s.stillWaits w with
  | nil => rw [hl] at h; simp at h
  | cons w ws =>
    rw [hl] at h
    by_cases hw : w = Waiter.device
    · subst hw
      rw [List.erase_cons_head, List.takeWhile_cons_of_pos (by simp), List.length_cons]
    · simp [hw] at h

/-- The record of a queue into which a waiting push of the device has gone (R335). -/
def Queue.served (r : Queue) (owed : List Word) (tail : Nat) (w : Word) : Queue :=
  { r with owed, tail, waiters := r.waiters.erase Waiter.device, words := r.words ++ [(w, false)] }

/-- A push that is served takes one place in the queue and one in the line. -/
theorem min_served {r : Queue} (hf : 0 < s.deviceFirst r) (hs : 0 < r.space) (owed : List Word) (tail : Nat)
    (w : Word) :
    min (r.served owed tail w).space (s.deviceFirst (r.served owed tail w)) + 1 = min r.space (s.deviceFirst r) := by
  have h1 : (r.served owed tail w).space + 1 = r.space := by
    change (if r.lsz = 0 then 0 else 2 ^ r.lsz) - (r.words ++ [(w, false)]).length + 1 = _
    rw [List.length_append, List.length_singleton]
    unfold Queue.space at hs ⊢
    omega
  have h2 : s.deviceFirst (r.served owed tail w) + 1 = s.deviceFirst r := deviceFirst_erase hf
  omega

theorem deviceFirst_putQueue (r x : Queue) : (s.putQueue q x).deviceFirst r = s.deviceFirst r := rfl

end

/-- The device's own pushes that are first in the line enter a queue as far as it has room (R335). -/
theorem settleQueue_words {q n : Nat} {s : State} (hn : (s.queue q).owed.length ≤ n) :
    ((s.settleQueue q n).queue q).words = (s.queue q).words ++
      ((s.queue q).owed.take (min (s.queue q).space (s.deviceFirst (s.queue q)))).map fun w => (w, false) := by
  induction n generalizing s with
  | zero => simp [State.settleQueue, List.eq_nil_of_length_eq_zero (Nat.le_zero.1 hn)]
  | succ n ih =>
    simp only [State.settleQueue]
    cases ho : (s.queue q).owed with
    | nil => simp
    | cons w owed =>
      rw [ho, List.length_cons] at hn
      simp only [firstPush_device_iff, roomFor_one_iff]
      split_ifs with h
      · obtain ⟨hf, hs⟩ := h
        have hstep := min_served hf hs owed (((s.queue q).tail + 1) % 2 ^ (s.queue q).lsz) w
        rw [ih (by simp only [State.pushWord, State.queue_putQueue_same]; omega)]
        simp only [State.pushWord, State.queue_putQueue_same, deviceFirst_putQueue, ← hstep, List.take_succ_cons,
          List.map_cons, List.append_assoc, List.singleton_append]
        rfl
      · have h0 : min (s.queue q).space (s.deviceFirst (s.queue q)) = 0 := by omega
        simp [h0]

/-- A pop of a base-die queue: its head words leave, and the device's waiting pushes follow into the room (R92,
R335). -/
theorem takeWords_base (s : State) (n : Nat) {k : Nat} (hk : 0 < k) :
    ((s.takeWords (.base n) (List.range k)).queue n).words = (s.queue n).words.drop k ++
      ((s.queue n).owed.take (min ((if (s.queue n).lsz = 0 then 0 else 2 ^ (s.queue n).lsz) -
        ((s.queue n).words.length - k)) (s.deviceFirst (s.queue n)))).map fun w => (w, false) := by
  have hne : (List.range k).isEmpty = false := by simp; omega
  simp only [State.takeWords, hne, Bool.false_eq_true, if_false]
  rw [settleQueue_words (by rw [State.queue_putQueue_same])]
  simp only [State.queue_putQueue_same, dropAt_range, Nat.sub_zero, deviceFirst_putQueue, Queue.space, List.length_drop]
  rfl

/-! ### Inboxes (R391) -/

theorem takeWords_inbox {s : State} {n : Nat} {u : Thread} (h : s.thread? n = some u) {k : Nat} (hk : 0 < k) :
    s.takeWords (.inbox n) (List.range k) = s.putThread { u with inbox := u.inbox.drop k } := by
  have hne : (List.range k).isEmpty = false := by simp; omega
  simp only [State.takeWords, hne, Bool.false_eq_true, if_false, State.modThread_of s h, dropAt_range, Nat.sub_zero]

/-! ### Channels (R323) -/

/-- Bytes that are written where they stand change nothing. -/
theorem memByte_rewritten {m spad : Memory} (hm : Memory.wf m = true) (h : ∀ a, memByte m a = memByte spad a)
    (o n a : Nat) :
    memByte (memStore m o (memBytes spad o n)) a = memByte spad a := by
  induction n generalizing m o with
  | zero => exact h a
  | succ n ih =>
    refine ih (Memory.wf_spPut hm _ _) (fun b => ?_) (o + 1)
    by_cases hb : o = b
    · subst hb
      exact memByte_spPut_same hm _ _
    · rw [memByte_spPut_other _ _ hb, h]

theorem leBytes_leNat (l : List Byte) : leBytes l.length (leNat l) = l := by
  induction l with
  | nil => rfl
  | cons b l ih =>
    have hb := b.isLt
    rw [leNat, List.length_cons, leBytes, show (b.toNat + 256 * leNat l) / 256 = leNat l by omega, ih]
    congr 1
    apply BitVec.eq_of_toNat_eq
    rw [BitVec.toNat_ofNat]
    omega

theorem leNat_lt (l : List Byte) : leNat l < 256 ^ l.length := by
  induction l with
  | nil => simp [leNat]
  | cons b l ih =>
    have hb := b.isLt
    rw [leNat, List.length_cons, Nat.pow_succ']
    omega

theorem length_memBytes (m : Memory) (a n : Nat) : (memBytes m a n).length = n := by
  induction n generalizing a with
  | zero => rfl
  | succ n ih => rw [memBytes, List.length_cons, ih]

/-- Eight bytes of memory, as a word and as bytes again. -/
theorem leBytes_word (m : Memory) (a : Nat) :
    leBytes 8 (BitVec.ofNat 64 (leNat (memBytes m a 8))).toNat = memBytes m a 8 := by
  have hlt := leNat_lt (memBytes m a 8)
  have hle := leBytes_leNat (memBytes m a 8)
  rw [length_memBytes] at hlt hle
  rw [BitVec.toNat_ofNat, Nat.mod_eq_of_lt (by simpa using hlt), hle]

/-- The ring of a channel with the words given written anew from its head (R323). -/
def Chan.rewrite (c : Chan) (head : Nat) (left : List (Word × Bool)) (m : Memory × List Nat) : Memory × List Nat :=
  (List.range left.length).foldl
    (fun m i =>
      let o := c.offset (head + i)
      let w := (left[i]?).getD (0, false)
      (memStore m.1 o (leBytes 8 w.1.toNat), addrMark m.2 (o / 4) 2 w.2)) m

/-- A ring in which the words after the first k stand where they stood has the bytes that it had. -/
theorem memByte_rewrite {b : Bolt} (hb : Memory.wf b.spad = true) (c : Chan) (k a : Nat) (pz : List Nat) :
    memByte (c.rewrite (c.head + k) ((b.chanWords c).drop k) (b.spad, pz)).1 a = memByte b.spad a := by
  have key : Memory.wf (c.rewrite (c.head + k) ((b.chanWords c).drop k) (b.spad, pz)).1 = true ∧
      ∀ a, memByte (c.rewrite (c.head + k) ((b.chanWords c).drop k) (b.spad, pz)).1 a = memByte b.spad a := by
    unfold Chan.rewrite
    refine List.foldlRecOn (motive := fun m : Memory × List Nat =>
      Memory.wf m.1 = true ∧ ∀ a, memByte m.1 a = memByte b.spad a) _ _ ⟨hb, fun _ => rfl⟩ fun m hm i hi => ?_
    have hword : ((((b.chanWords c).drop k)[i]?).getD (0, false)).1 =
        BitVec.ofNat 64 (leNat (memBytes b.spad (c.offset (c.head + k + i)) 8)) := by
      have hlt : k + i < c.occ := by
        simp [Bolt.chanWords] at hi
        omega
      simp [Bolt.chanWords, hlt, Nat.add_assoc]
    simp only [hword, leBytes_word]
    exact ⟨Memory.wf_memStore hm.1 _ _, memByte_rewritten hm.1 hm.2 _ _⟩
  exact key.2 a

theorem chan?_eq_some {b : Bolt} {n : Nat} {c : Chan} :
    b.chan? n = some c ↔ tabGet b.chans n = some c ∧ c.dcode ≠ 0 := by
  simp [Bolt.chan?, Option.filter_eq_some_iff]

theorem chan?_tabPut_same (b : Bolt) (n : Nat) {c : Chan} (h : c.dcode ≠ 0) :
    ({ b with chans := tabPut b.chans n c } : Bolt).chan? n = some c :=
  chan?_eq_some.2 ⟨tabGet_tabPut_same _ _ _, h⟩

theorem chan?_tabPut_other (b : Bolt) {n m : Nat} (c : Chan) (h : n ≠ m) :
    ({ b with chans := tabPut b.chans n c } : Bolt).chan? m = b.chan? m := by
  rw [Bolt.chan?, Bolt.chan?, tabGet_tabPut_other _ _ h]

/-- A change of one bolt, of its scratchpad and of one of its channels. -/
structure ChanOnly (s t : State) (b b' : Bolt) (n : Nat) (c : Chan) : Prop where
  bolt : t.bolt? b.id = some b'
  chan : b'.chan? n = some c
  chans : ∀ m, m ≠ n → b'.chan? m = b.chan? m
  bolts : ∀ m, m ≠ b.id → t.bolt? m = s.bolt? m
  rest : t = { s with bolts := t.bolts }

theorem chanOnly_putBolt (s : State) (b : Bolt) (n : Nat) {c : Chan} (h : c.dcode ≠ 0) (m : Memory) (pz : List Nat) :
    ChanOnly s (s.putBolt { b with spad := m, spPoison := pz, chans := tabPut b.chans n c }) b
      { b with spad := m, spPoison := pz, chans := tabPut b.chans n c } n c where
  bolt := State.bolt?_putBolt_same s { b with spad := m, spPoison := pz, chans := tabPut b.chans n c }
  chan := chan?_tabPut_same b n h
  chans := fun _ hm => chan?_tabPut_other b c hm.symm
  bolts := fun _ hm => State.bolt?_putBolt_other s hm.symm
  rest := rfl

section

variable {s : State} {b : Bolt} {n : Nat} {c : Chan} (hb : s.bolt? b.id = some b) (hc : b.chan? n = some c)

include hb hc

/-- A pop of a channel (R92, R323). -/
theorem takeWords_chan (hw : Memory.wf b.spad = true) {k : Nat} (hk : 0 < k) : ∃ b' : Bolt,
    ChanOnly s (s.takeWords (.chan b.id n) (List.range k)) b b' n { c with head := (c.head + k) % 2 ^ 15 } ∧
      ∀ a, memByte b'.spad a = memByte b.spad a := by
  have hne : (List.range k).isEmpty = false := by simp; omega
  simp only [State.takeWords, hne, Bool.false_eq_true, if_false, State.modBolt_of s hb, hc, dropAt_range, Nat.sub_zero,
    List.length_range]
  exact ⟨_, chanOnly_putBolt s b n (c := { c with head := (c.head + k) % 2 ^ 15 }) (chan?_eq_some.1 hc).2 _ _,
    fun a => memByte_rewrite hw c k a b.spPoison⟩

/-- A push to a channel (R92, R323). -/
theorem pushWord_chan (w : Word) (p : Bool) : ∃ b' : Bolt,
    ChanOnly s (s.pushWord (.chan b.id n) w p) b b' n { c with tail := (c.tail + 1) % 2 ^ 15 } ∧
      b'.spad = memStore b.spad (c.offset c.tail) (leBytes 8 w.toNat) := by
  simp only [State.pushWord, State.modBolt_of s hb, hc]
  exact ⟨_, chanOnly_putBolt s b n (c := { c with tail := (c.tail + 1) % 2 ^ 15 }) (chan?_eq_some.1 hc).2 _ _, rfl⟩

end

end Sys2Proof.Machine

namespace Sys2Proof.Claims

open Sys2Proof.Machine

theorem queueWords_base (s : State) (n : Nat) : s.queueWords (.base n) = (s.queue n).words := rfl

theorem queueWords : QueueWords := by
  refine ⟨fun s n k hk _ => ?_, fun s n w p => ?_, fun s n k u hu ht => ?_, fun s b n c hw hb hc _ =>
    ⟨fun k hk _ => ?_, fun w _ => ?_⟩⟩
  · have h := QueueOnly.takeWords n s (List.range k)
    exact ⟨takeWords_base s n hk, fun m hm => congrArg Queue.words (h.others m hm), h.rest⟩
  · have h := QueueOnly.pushWord n s w p
    refine ⟨?_, fun m hm => congrArg Queue.words (h.others m hm), h.rest⟩
    simp only [State.pushWord, queueWords_base, State.queue_putQueue_same]
  · subst ht
    rcases Nat.eq_zero_or_pos k with rfl | hk
    · exact ⟨hu, fun _ _ => rfl, rfl⟩
    · rw [takeWords_inbox hu hk]
      exact ⟨State.thread?_putThread_same s { u with inbox := u.inbox.drop k },
        fun m hm => State.thread?_putThread_other s hm.symm, rfl⟩
  · obtain ⟨b', h, hbytes⟩ := takeWords_chan hb hc hw hk
    exact ⟨b', h.bolt, hbytes, h.chan, h.chans, h.bolts, h.rest⟩
  · obtain ⟨b', h, hspad⟩ := pushWord_chan hb hc w false
    have hlen := length_leBytes 8 w.toNat
    refine ⟨b', h.bolt, ?_, fun a ha => ?_, h.chan, h.chans, h.bolts, h.rest⟩
    · have := memBytes_memStore hw (c.offset c.tail) (leBytes 8 w.toNat)
      rwa [hlen, ← hspad] at this
    · rw [hspad]
      exact memByte_memStore_out _ _ _ _ (by rw [hlen]; exact ha)

end Sys2Proof.Claims

open Sys2Proof.Machine Sys2Proof.Claims

/-- Settles O8: a register's full bit, a port's binding and a queue's words each change by an operation of their own. -/
theorem fullBitsAndQueues : Obligations.FullBitsAndQueues := ⟨fullBits, queueBindings, queueWords⟩

end

section
/-! SUPPORT. TLBI, HALT and WFI (R407 to R409): which translations a TLBI drops and what it does for one lane, what
emptying a core and halting the package leave halted, and what WFI does for one lane. -/

namespace Sys2Proof.Machine

open Sys2Proof.Claims

theorem bitsAt_zero (v n : Nat) : bitsAt v 0 n = v % 2 ^ n := by rw [bitsAt, Nat.pow_zero, Nat.div_one]

/-! ### What is dropped -/

theorem hits_iff {d : Drop} {core : Nat} {e : Tlb} : d.hits core e = true ↔ Drops d core e := by
  cases d with
  | va v => rw [Drop.hits, Drops, beq_iff_eq, eq_comm]
  | vaIn v n =>
    rw [Drop.hits, Drops, Tlb.covers, Bool.and_eq_true, Bool.or_eq_true, beq_iff_eq, beq_iff_eq, and_comm,
      eq_comm (a := e.vbase)]
  | space n => simp [Drop.hits, Drops]
  | all => simp [Drop.hits, Drops]
  | core c => simp [Drop.hits, Drops]

theorem tabGet_map {α : Type} (g : Nat → α → α) (t : Tab α) (k : Nat) :
    tabGet (t.map fun p => (p.1, g p.1 p.2)) k = (tabGet t k).map (g k) := by
  induction t with
  | nil => rfl
  | cons p t ih =>
    obtain ⟨j, a⟩ := p
    simp only [List.map_cons, tabGet, ih]
    split_ifs with h
    · rw [h]; rfl
    · rfl

theorem mem_filter_drop {d : Drop} {core : Nat} {e : Tlb} {l : List Tlb} :
    e ∈ l.filter (fun e => !d.hits core e) ↔ e ∈ l ∧ ¬ Drops d core e := by
  rw [List.mem_filter, Bool.not_eq_true', ← hits_iff, Bool.not_eq_true]

theorem mem_dropTlb_wcore {s : State} {d : Drop} {core : Nat} {e : Tlb} :
    e ∈ ((s.dropTlb d).wcore core).tlb ↔ e ∈ (s.wcore core).tlb ∧ ¬ Drops d core e := by
  have h : (s.dropTlb d).wcore core = ((tabGet s.wcores core).map fun w =>
      { w with tlb := w.tlb.filter fun e => !d.hits core e }).getD WCore.halted0 :=
    congrArg (Option.getD · _) (tabGet_map
      (fun c (w : WCore) => ({ w with tlb := w.tlb.filter fun e => !d.hits c e } : WCore)) _ _)
  rw [h, State.wcore]
  cases tabGet s.wcores core with
  | none => simp [WCore.halted0]
  | some w => exact mem_filter_drop

theorem mem_dropTlb_lcore {s : State} {d : Drop} {core : Nat} {e : Tlb} :
    e ∈ ((s.dropTlb d).lcore core).tlb ↔ e ∈ (s.lcore core).tlb ∧ ¬ Drops d core e := by
  have h : (s.dropTlb d).lcore core = ((tabGet s.lcores core).map fun w =>
      { w with tlb := w.tlb.filter fun e => !d.hits core e }).getD LCore.halted0 :=
    congrArg (Option.getD · _) (tabGet_map
      (fun c (w : LCore) => ({ w with tlb := w.tlb.filter fun e => !d.hits c e } : LCore)) _ _)
  rw [h, State.lcore]
  cases tabGet s.lcores core with
  | none => simp [LCore.halted0]
  | some w => exact mem_filter_drop

/-! ### One lane -/

section

variable {d : Lane → Drop} {s : State} {l : Lane}

theorem tlbiLane_done {m : Nat} (h : l.thread.wait = .jobs m) (hu : s.usesDropped (d l) m = false) :
    tlbiLane d s l = .done ((s.dropTlb (d l)).modThread l.tid fun t => { t with wait := .none }) := by
  unfold tlbiLane
  rw [h]
  simp only [hu, Bool.false_eq_true, if_false]

theorem tlbiLane_used {m : Nat} (h : l.thread.wait = .jobs m) (hu : s.usesDropped (d l) m = true) :
    tlbiLane d s l = .wait id := by
  unfold tlbiLane
  rw [h]
  simp only [hu, if_true]

variable (h : ∀ m, l.thread.wait ≠ .jobs m)

include h

theorem tlbiLane_stores (hs : s.storesOf l.tid ≠ []) : tlbiLane d s l = .wait id := by
  unfold tlbiLane
  split
  · next m hm => exact absurd hm (h m)
  · rw [if_pos (by simpa using hs)]

theorem tlbiLane_first (hs : s.storesOf l.tid = []) : tlbiLane d s l =
    if s.usesDropped (d l) s.seq then
      .wait fun k => (k.dropTlb (d l)).modThread l.tid fun t => { t with wait := .jobs s.seq }
    else .done (s.dropTlb (d l)) := by
  unfold tlbiLane
  split
  · next m hm => exact absurd hm (h m)
  · rw [hs]
    rfl

end

/-! ### A group -/

/-- What every lane's effect keeps holds for each lane of a group in turn. -/
theorem needInTurn_and {need : State → Lane → Prop} {eff : State → Lane → State} {P : State → Prop}
    (heff : ∀ k l, P k → P (eff k l)) {ls : List Lane} {s : State} (hs : P s) (h : needInTurn need eff s ls) :
    needInTurn (fun k l => P k ∧ need k l) eff s ls := by
  induction ls generalizing s with
  | nil => trivial
  | cons l ls ih => exact ⟨⟨h.1.1, hs, h.1.2⟩, ih (heff s l hs) h.2⟩

@[simp] theorem advance_cur (s : State) (tid : Nat) (f : Fields) (irrev : Bool) :
    (s.advance tid f irrev).cur = s.cur := State.modThread_cur ..

/-- What TLBI leaves for a lane that goes on: the translations dropped, and its wait ended. -/
def tlbiEffect (d : State → Lane → Drop) (k : State) (l : Lane) : State :=
  match l.thread.wait with
  | .jobs _ => (k.dropTlb (d k l)).modThread l.tid fun t => { t with wait := .none }
  | _ => k.dropTlb (d k l)

@[simp] theorem tlbiEffect_cur (d : State → Lane → Drop) (k : State) (l : Lane) : (tlbiEffect d k l).cur = k.cur := by
  unfold tlbiEffect
  split
  · exact State.modThread_cur ..
  · rfl

theorem tlbiEffect_first {d : State → Lane → Drop} {l : Lane} (h : ∀ m, l.thread.wait ≠ .jobs m) (k : State) :
    tlbiEffect d k l = k.dropTlb (d k l) := by
  unfold tlbiEffect
  split
  · next m hm => exact absurd hm (h m)
  · rfl

theorem tlbiEffect_last {d : State → Lane → Drop} {l : Lane} {m : Nat} (h : l.thread.wait = .jobs m) (k : State) :
    tlbiEffect d k l = (k.dropTlb (d k l)).modThread l.tid fun t => { t with wait := .none } := by
  unfold tlbiEffect
  rw [h]

/-- Every TLBI is one body with what it drops, which may depend on the core that issues it. -/
theorem invalidates_of {i : Instr} {r : OpRule} {f : Fields} {d : State → Lane → Drop} {dropped : State → Lane → Drop}
    (hexec : ∀ s, exec i s = issue r f false (fun _ => none) false (tlbiLane (dropped s)) s) (hrd : r.rd ≠ .reg)
    (hd : ∀ s k, k.cur = s.cur → dropped s = d k) : Invalidates i r f d := by
  have hp := rd_none_push (f := f) hrd
  refine ⟨fun s ls hr hn => ?_, ?_, fun s n t hr hy => ?_⟩
  · rw [hexec]
    refine issue_turn hr _ (fun _ _ => rfl) _ (fun k l => k.cur = s.cur ∧ _)
      (fun k l => (tlbiEffect d k l).advance l.tid f (touchesPort r f)) _ (fun g l ht hh hneed => ?_)
      (needInTurn_and (P := fun k => k.cur = s.cur) (fun k l hk => by simpa using hk) rfl hn)
    have hb : tlbiLane (dropped s) g.all l = .done (tlbiEffect d g.all l) := by
      rw [hd s g.all hneed.1]
      rcases hneed.2 with ⟨hw, hs, hu⟩ | ⟨m, hm, hu⟩
      · rw [tlbiLane_first hw hs, if_neg (by simp [hu]), tlbiEffect_first hw]
      · rw [tlbiLane_done hm hu, tlbiEffect_last hm]
    simp only [Issuing.lane, hb, pushOf, hp, Bool.false_eq_true, if_false, List.append_nil, Bool.false_or]
  · intro s n t hr hw hs l hu
    rw [hexec, hd s s rfl, issue_wait_alone hr _ rfl _ ((tlbiLane_first hw hs).trans (if_pos hu))]
    rfl
  · rw [hexec, hd s s rfl]
    refine issue_wait_alone hr _ rfl id ?_
    rcases hy with ⟨hw, hs⟩ | ⟨m, hm, hu⟩
    · exact tlbiLane_stores hw hs
    · exact tlbiLane_used hm hu

/-! ### Halting (R408) -/

/-- Whether each weft core is halted is as it was. -/
def HaltsAlike (s t : State) : Prop := ∀ c, (t.wcore c).halted = (s.wcore c).halted

namespace HaltsAlike

variable {s t u : State}

theorem of_wcores (h : t.wcores = s.wcores) : HaltsAlike s t := fun c => by rw [State.wcore, State.wcore, h]

theorem trans (h : HaltsAlike s t) (h' : HaltsAlike t u) : HaltsAlike s u := fun c => (h' c).trans (h c)

theorem foldl {α : Type} {g : State → α → State} {l : List α} (hg : ∀ a k, HaltsAlike k (g k a)) :
    HaltsAlike s (l.foldl g s) := by
  induction l generalizing s with
  | nil => exact of_wcores rfl
  | cons a l ih => exact (hg a s).trans ih

theorem putW (s : State) (c : Nat) {w : WCore} (h : w.halted = (s.wcore c).halted) :
    HaltsAlike s (s.putW c w) := fun d => by
  by_cases e : c = d
  · subst e
    rw [State.wcore_putW_same, h]
  · rw [State.wcore_putW_other _ _ e]

theorem bumpRel (s : State) (c : Nat) : HaltsAlike s (s.bumpRel c) := by
  unfold State.bumpRel
  split_ifs
  · exact putW s c rfl
  · exact of_wcores rfl

theorem evictFlock (s : State) (k : Nat × Nat) : HaltsAlike s (s.evictFlock k) :=
  foldl fun _ _ => foldl fun _ _ => of_wcores (State.modBolt_wcores ..)

theorem clearPacks (s : State) (c : Nat) (which : Bolt → Bool) : HaltsAlike s (s.clearPacks c which) :=
  foldl fun _ _ => foldl fun _ _ => foldl fun _ _ => of_wcores (by
    rw [State.modThread_wcores, State.unsubmit, State.modThread_wcores])

theorem clearPool (s : State) (c : Nat) (which : Thread → Bool) : HaltsAlike s (s.clearPool c which) := by
  unfold State.clearPool
  exact trans (putW s c (by rfl)) (foldl fun _ k => (bumpRel k c).trans (of_wcores rfl))

end HaltsAlike

/-- A core that is emptied is halted and closed (R408). -/
theorem emptyCore_same (s : State) (c : Nat) :
    ((s.emptyCore c).wcore c).halted = true ∧ ((s.emptyCore c).wcore c).closed = true := by
  simp [State.emptyCore]

theorem emptyCore_keeps {s : State} {d : Nat} (h : (s.wcore d).halted = true) (c : Nat) :
    ((s.emptyCore c).wcore d).halted = true := by
  by_cases e : c = d
  · subst e
    exact (emptyCore_same s c).1
  · have hk := ((HaltsAlike.foldl (s := s) (l := s.flocksOn c) fun k s => .evictFlock s k).trans
      (.clearPacks _ c fun _ => true)).trans (.clearPool _ c fun _ => true)
    rw [State.emptyCore, State.wcore_putW_other _ _ e, hk, h]

theorem haltLatency_keeps {s : State} {d : Nat} (h : (s.lcore d).halted = true) (c : Nat) :
    ((s.haltLatency c).lcore d).halted = true := by
  by_cases e : c = d
  · subst e
    rw [State.haltLatency, State.lcore_putL_same]
  · rw [State.haltLatency, State.lcore_putL_other _ _ e, h]

/-- What one of the steps of a fold makes true and the others keep is true after it. -/
theorem foldl_establishes {α : Type} {P : State → Prop} {g : State → α → State} {a : α} (hset : ∀ s, P (g s a))
    (hkeep : ∀ s b, P s → P (g s b)) {l : List α} (ha : a ∈ l) (s : State) : P (l.foldl g s) := by
  have hall : ∀ (l : List α) (s : State), P s → P (l.foldl g s) := by
    intro l
    induction l with
    | nil => exact fun s h => h
    | cons b l ih => exact fun s h => ih _ (hkeep s b h)
  obtain ⟨xs, ys, rfl⟩ := List.append_of_mem ha
  rw [List.foldl_append, List.foldl_cons]
  exact hall ys _ (hset _)

/-- HALT.p halts every core (R408). -/
theorem haltPackage_wcore (s : State) {c : Nat} (h : c < 144) : (s.haltPackage.wcore c).halted = true := by
  have hl : HaltsAlike ((List.range 144).foldl State.emptyCore s) s.haltPackage := .foldl fun _ _ => .of_wcores rfl
  rw [hl]
  exact foldl_establishes (P := fun k => (k.wcore c).halted = true) (fun k => (emptyCore_same k c).1)
    (fun _ d hk => emptyCore_keeps hk d) (List.mem_range.2 h) s

theorem haltPackage_lcore (s : State) {c : Nat} (h : 256 ≤ c) (h' : c < 304) : (s.haltPackage.lcore c).halted = true :=
  foldl_establishes (P := fun k => (k.lcore c).halted = true) (a := c - 256)
    (fun k => by rw [show 256 + (c - 256) = c by omega, State.haltLatency, State.lcore_putL_same])
    (fun _ d hk => haltLatency_keeps hk (256 + d)) (List.mem_range.2 (by omega)) _

/-! ### The lanes of HALT -/

theorem touchesPort_rNone (level : Nat) (f : Fields) : touchesPort (rNone.at level) f = false := by
  have h1 : roleS1 (rNone.at level) f = .zero := ite_self _
  have h2 : roleS2 (rNone.at level) f = .zero := ite_self _
  have h3 : roleS3 (rNone.at level) f = .zero := ite_self _
  have huses : usesOf (rNone.at level) f = [] := by
    simp only [usesOf, h1, h2, h3]
    rfl
  rw [touchesPort, huses, rd_none_push (r := rNone.at level) (nofun : Role.zero ≠ Role.reg)]
  rfl

/-- An instruction without operands whose lanes leave an effect and go on. -/
theorem runs_advance {i : Instr} {r : OpRule} {f : Fields} {body : Body} {need : State → Lane → Prop}
    {eff : State → Lane → State} (hexec : ∀ s, exec i s = issue r f false (fun _ => none) false body s)
    (ht : touchesPort r f = false) (hbody : ∀ s l, need s l → body s l = .done (eff s l)) :
    Runs i r f false false need (fun k l => (eff k l).advance l.tid f false) fun _ _ => 0 := by
  refine runs_of hexec fun g l _ _ hn => ?_
  simp only [Issuing.lane, hbody g.all l hn, ht, pushOf, (usesOf_noPort ht).1, Bool.false_eq_true, if_false,
    List.append_nil, Bool.or_false]

/-- What HALT does for a lane (R408). -/
def haltBody : Body := fun s l =>
  if !l.thread.onLatency then .done (s.emptyCore s.cur.core)
  else if !s.performed l.tid then .wait id
  else .done (s.haltLatency s.cur.core)

theorem haltBody_done {s : State} {l : Lane} (h : l.thread.onLatency = true → s.performed l.tid = true) :
    haltBody s l = .done (if l.thread.onLatency then s.haltLatency s.cur.core else s.emptyCore s.cur.core) := by
  cases hl : l.thread.onLatency with
  | false => simp [haltBody, hl]
  | true => simp [haltBody, hl, h hl]

theorem haltBody_waits {s : State} {l : Lane} (h : l.thread.onLatency = true) (hp : s.performed l.tid = false) :
    haltBody s l = .wait id := by
  simp [haltBody, h, hp]

/-- What HALT.p does for a lane (R408). -/
def haltAllBody : Body := fun s l => if !s.performed l.tid then .wait id else .done s.haltPackage

/-- HALT (R408): on a latency core once its thread's accesses are performed, on a weft core at once. -/
theorem halts (f : Fields) :
    Runs (.halt f) (rNone.at 1) f false false (fun s l => l.thread.onLatency = true → s.performed l.tid = true)
      (fun k l =>
        (if l.thread.onLatency then k.haltLatency k.cur.core else k.emptyCore k.cur.core).advance l.tid f false)
      (fun _ _ => 0) ∧
    WaitsAlone (.halt f) (rNone.at 1) f false false
      (fun s l => l.thread.onLatency = true ∧ s.performed l.tid = false) :=
  ⟨runs_advance (body := haltBody) (fun _ => rfl) (touchesPort_rNone 1 f) fun _ _ hn => haltBody_done hn,
    waits_alone_of (body := haltBody) (fun _ => rfl) fun _ _ _ _ hy => haltBody_waits hy.1 hy.2⟩

/-- HALT.p (R408). -/
theorem halts_package (f : Fields) :
    Runs (.haltP f) (rNone.at 2) f false false (fun s l => s.performed l.tid = true)
      (fun k l => k.haltPackage.advance l.tid f false) (fun _ _ => 0) ∧
    WaitsAlone (.haltP f) (rNone.at 2) f false false (fun s l => s.performed l.tid = false) :=
  ⟨runs_advance (body := haltAllBody) (fun _ => rfl) (touchesPort_rNone 2 f) fun _ _ hn => by simp [haltAllBody, hn],
    waits_alone_of (body := haltAllBody) (fun _ => rfl) fun _ _ _ _ hy => by simp [haltAllBody, hy]⟩

/-! ### WFI (R409) -/

/-- How a thread waits that begins its WFI, with the bound of a WFI.t (R58, R409). -/
def wfiWait (f : Fields) (bound : Option Nat) (gtick : Nat) : Wait :=
  match bound with
  | some n => if f.s1.val < 56 then .wfi f.rd.val gtick (some n) else .wfiPort gtick n
  | none => .wfi f.rd.val gtick none

section

variable {f : Fields} {bound : Lane → Option Nat} {s : State} {l : Lane}

/-- Whether a thread's inbox holds a word that its mask lets through (R392). -/
theorem unblocked_iff {t : Thread} :
    t.inbox.any t.unblocked = true ↔ ∃ w ∈ t.inbox, t.sigmask.getLsbD (w.toNat % 2 ^ 6) = false := by
  simp [Thread.unblocked, signalNum, bitsAt]

theorem wfiLane_weft (h : l.thread.onLatency = false) :
    wfiLane f bound s l = .trapAfter State.bumpFresh ⟨.needw, Config.openTrapval s.fresh, false⟩ := by
  simp [wfiLane, h]

theorem wfiLane_hears (h : l.thread.onLatency = true) (hw : l.thread.inbox.any l.thread.unblocked = true) :
    wfiLane f bound s l = .value (s.modThread l.tid fun t => { t with wait := .none }) 0 := by
  simp only [wfiLane, h, hw, Bool.not_true, Bool.false_eq_true, if_false, if_true]

variable (h : l.thread.onLatency = true) (hw : l.thread.inbox.any l.thread.unblocked = false)

include h hw

theorem wfiLane_timedOut {g n : Nat} (hp : l.thread.wait = .wfiPort g n) (hg : g + n ≤ s.gtick) :
    wfiLane f bound s l = .value (s.modThread l.tid fun t => { t with wait := .none }) 1 := by
  simp only [wfiLane, h, hw, hp, hg, Bool.not_true, Bool.false_eq_true, if_false, if_true]

theorem wfiLane_still
    (hs : (∃ rd g b, l.thread.wait = .wfi rd g b) ∨ ∃ g b, l.thread.wait = .wfiPort g b ∧ s.gtick < g + b) :
    wfiLane f bound s l = .wait id := by
  rcases hs with ⟨rd, g, b, hs⟩ | ⟨g, b, hs, hg⟩
  · simp only [wfiLane, h, hw, hs, Bool.not_true, Bool.false_eq_true, if_false]
  · simp only [wfiLane, h, hw, hs, if_neg (Nat.not_le.2 hg), Bool.not_true, Bool.false_eq_true, if_false]

theorem wfiLane_begins (h1 : ∀ rd g b, l.thread.wait ≠ .wfi rd g b) (h2 : ∀ g b, l.thread.wait ≠ .wfiPort g b) :
    wfiLane f bound s l = .wait fun k => k.modThread l.tid fun t => { t with wait := wfiWait f (bound l) k.gtick } := by
  simp only [wfiLane, h, hw, Bool.not_true, Bool.false_eq_true, if_false]
  cases hx : l.thread.wait with
  | wfi rd g b => exact absurd hx (h1 rd g b)
  | wfiPort g b => exact absurd hx (h2 g b)
  | _ => rfl

end

/-- A lane alone whose trap leaves something behind takes it there. -/
theorem issue_trapAfter_alone {s : State} {r : OpRule} {f : Fields} {irrev carries : Bool} {n : Nat} {t : Thread}
    (h : Ready s r f irrev [(n, t)]) {body : Body} {keep : State → State} {tr : Trap}
    (hb : body s (readLane r f n t []) = .trapAfter keep tr) (hw : trapWaits (keep s) t.tid tr = false) :
    issue r f irrev (fun _ => none) carries body s = .next (takeTrap (keep s) t.tid f tr irrev false).bump := by
  have hlate : lateTrap s r f carries t [] = none :=
    lateTrap_none (h.lane (n, t) (by simp)) [] (.inr (by simp)) fun hq =>
      absurd hq (by simp [(usesOf_noPort h.ports).1])
  have htid : (readLane r f n t []).tid = t.tid := rfl
  rw [issue_ready h _ (fun _ _ => rfl)]
  simp [runLanesBody, hlate, Issuing.lane, hb, Issuing.trap, htid, hw, Issuing.finish, moveWords]

/-- WFI answers 0 where its thread hears a word, and 1 once its bound has passed (R409). -/
theorem answers_wfi {i : Instr} {r : OpRule} {f : Fields} {bound : Lane → Option Nat}
    (hexec : ∀ s, exec i s = issue r f false (fun _ => none) false (wfiLane f bound) s) (hrd : r.rd ≠ .reg) :
    Answers i r f false (fun s l => l.thread.onLatency = true ∧
        ((∃ w ∈ l.thread.inbox, l.thread.sigmask.getLsbD (w.toNat % 2 ^ 6) = false) ∨
          ∃ g n, l.thread.wait = .wfiPort g n ∧ g + n ≤ s.gtick))
      (fun k l => (k.modThread l.tid fun t => { t with wait := .none },
        if l.thread.inbox.any fun w => !l.thread.sigmask.getLsbD (w.toNat % 2 ^ 6) then 0 else 1)) := by
  refine answers_of hexec hrd fun s l _ ⟨hl, hn⟩ => ?_
  rw [← unblocked_iff] at hn
  have hany : (fun w : Word => !l.thread.sigmask.getLsbD (w.toNat % 2 ^ 6)) = l.thread.unblocked :=
    funext fun w => by rw [Thread.unblocked, signalNum, bitsAt_zero]
  cases hw : l.thread.inbox.any l.thread.unblocked with
  | true => simp only [wfiLane_hears hl hw, hany, hw, if_true]
  | false =>
    obtain ⟨g, n, hp, hg⟩ := hn.resolve_left (by simp [hw])
    simp only [wfiLane_timedOut hl hw hp hg, hany, hw, Bool.false_eq_true, if_false]

/-- WFI in a weft (R409). -/
theorem wfi_needsOther {i : Instr} {r : OpRule} {f : Fields} {bound : Lane → Option Nat}
    (hexec : ∀ s, exec i s = issue r f false (fun _ => none) false (wfiLane f bound) s) :
    NeedsOther i r f false fun _ t => t.onLatency = false := fun s n t hr hl hw =>
  ⟨Config.openTrapval s.fresh, by rw [hexec, issue_trapAfter_alone hr (wfiLane_weft hl) (hw _)]⟩

theorem exec_wfiTimeout {s : State} {t : Thread} {rd g n : Nat} (hs : s.thread? t.tid = some t)
    (hw : t.wait = .wfi rd g (some n)) : exec (.wfiTimeout t.tid) s = .next (if s.gtick < g + n then s else
      s.putThread { t.setReg rd ⟨1, true, false⟩ with wait := .none, pc := t.pc + 4 }) := by
  change Host.Outcome.next ((tryWfiTimeout t.tid s).getD s) = _
  rw [tryWfiTimeout, hs]
  simp only [hw]
  split_ifs <;> rfl

end Sys2Proof.Machine

open Sys2Proof.Machine Sys2Proof.Claims

/-- Settles O45: every TLBI is one body with what it drops, both halts answer once their thread's accesses are
performed, and both forms of WFI are one body with a bound or none. -/
theorem invalidationHaltingAndIdling : Obligations.InvalidationHaltingAndIdling := by
  refine ⟨fun f => ?_, fun s d core e => ⟨mem_dropTlb_wcore, mem_dropTlb_lcore⟩, fun f => ?_, emptyCore_same,
    fun s core => ⟨haltPackage_wcore s, haltPackage_lcore s⟩, ?_, ?_⟩
  · exact ⟨invalidates_of (fun _ => rfl) (by decide) fun _ _ _ => rfl,
      invalidates_of (fun _ => rfl) (by decide) fun _ _ _ => funext fun _ => by rw [bitsAt_zero],
      invalidates_of (fun _ => rfl) (by decide) fun _ _ _ => funext fun _ => by rw [bitsAt_zero],
      invalidates_of (fun _ => rfl) (by decide) fun _ _ _ => rfl,
      invalidates_of (fun _ => rfl) (by decide) fun _ _ h => by rw [h]⟩
  · obtain ⟨hruns, hwaits⟩ := halts f
    exact ⟨hruns, hwaits, halts_package f⟩
  · intro f e he
    obtain ⟨hexec, hrd⟩ : (∀ s, exec e.1 s = issue e.2.1 f false (fun _ => none) false (wfiLane f e.2.2) s) ∧
        e.2.1.rd ≠ .reg := by
      simp only [List.mem_cons, List.not_mem_nil, or_false] at he
      rcases he with rfl | rfl
      · exact ⟨fun _ => rfl, show (rDst.at 1).rd ≠ .reg by decide⟩
      · exact ⟨fun s => by simp only [← bitsAt_zero]; rfl, show (rDst1.at 1).rd ≠ .reg by decide⟩
    refine ⟨answers_wfi hexec hrd, fun s n t hr hl hn => ?_, wfi_needsOther hexec⟩
    have hdeaf : t.inbox.any t.unblocked = false := by rw [← Bool.not_eq_true]; exact mt unblocked_iff.1 hn
    refine ⟨fun h1 h2 => ?_, fun h => ?_⟩
    · rw [hexec, issue_wait_alone hr _ rfl _ (wfiLane_begins hl hdeaf h1 h2)]
      rfl
    · rw [hexec, issue_wait_alone hr _ rfl _ (wfiLane_still hl hdeaf h)]
      rfl
  · intro s t rd g n hs hw
    rw [exec_wfiTimeout hs hw]
    exact ⟨fun h => by rw [if_neg (Nat.not_lt.2 h)], fun h => by rw [if_pos h]⟩

end

section
/-! SUPPORT. Lanes below the level that an instruction or a register asks for (R95, R96, R384): what PRIV in one lane
leaves of the others, a group whose lanes all take it, and which instructions ask for a level (R69, R78). -/

namespace Sys2Proof.Machine

open Sys2Proof.Claims

/-! ### PRIV in one lane and the other lanes -/

theorem Level.ne_firmware_of_code_lt {l : Level} (h : l.code < 2) : l ≠ .firmware := by
  rintro rfl
  exact absurd h (by decide)

section

variable {s : State} {t : Thread} (f : Fields) (irrev : Bool) {x : Nat}

/-- PRIV stays with its lane: below firmware level it logs no machine check, so it leaves other threads and the loads in
flight. -/
theorem takeTrap_priv_others (ht : s.thread? t.tid = some t) (hl : t.plvl ≠ .firmware) (hx : t.tid ≠ x) :
    (takeTrap s t.tid f ⟨.priv, 0, false⟩ irrev false).thread? x = s.thread? x ∧
      (takeTrap s t.tid f ⟨.priv, 0, false⟩ irrev false).pend = s.pend := by
  have hput : ∀ u : Thread, u.tid = t.tid → (s.putThread u).thread? x = s.thread? x := fun u hu =>
    State.thread?_putThread_other s (hu ▸ hx)
  cases hloc : t.loc with
  | latency c =>
    rw [takeTrap_latency f _ irrev false ht hloc (by simp)]
    cases hp : t.plvl with
    | user =>
      simp only [Bool.false_eq_true, reduceCtorEq, or_self, if_false,
        enterHandler_supervisor s c ⟨.priv, 0, false⟩ t.pc (by decide) hp]
      exact ⟨hput _ rfl, rfl⟩
    | supervisor =>
      simp only [Bool.false_eq_true, reduceCtorEq, or_self, if_false,
        enterHandler_firmware s c (t := t) ⟨.priv, 0, false⟩ t.pc (.inr (by simp [hp])) (by simp [hp])]
      exact ⟨hput _ rfl, rfl⟩
    | firmware => exact absurd hp hl
  | member c slot lane =>
    rw [takeTrap_member f _ irrev false ht hloc (by simp), parkFault_eq]
    exact ⟨hput _ rfl, rfl⟩
  | _ => simp [takeTrap, ht, hloc]

/-- Whether PRIV must wait in a lane rests on the thread and on its loads in flight (R385). -/
theorem trapWaits_priv_congr {k : State} (ht : k.thread? x = s.thread? x) (hp : k.pend = s.pend) :
    trapWaits k x ⟨.priv, 0, false⟩ = trapWaits s x ⟨.priv, 0, false⟩ := by
  simp only [trapWaits, State.loadsDone, State.pendOf, ht, hp]
  rfl

end

/-! ### A group whose lanes all take PRIV -/

/-- Lanes below firmware level at which PRIV can be taken at once. -/
structure TakesPriv (s : State) (ls : List (Nat × Thread)) : Prop where
  nodup : (ls.map fun p => p.2.tid).Nodup
  held : ∀ p ∈ ls, s.thread? p.2.tid = some p.2
  below : ∀ p ∈ ls, p.2.plvl ≠ .firmware
  ready : ∀ p ∈ ls, trapWaits s p.2.tid ⟨.priv, 0, false⟩ = false

/-- The lanes after the first stand as they did once it has trapped. -/
theorem TakesPriv.tail {s : State} {p : Nat × Thread} {ls : List (Nat × Thread)} (h : TakesPriv s (p :: ls)) (f : Fields)
    (irrev : Bool) : TakesPriv (takeTrap s p.2.tid f ⟨.priv, 0, false⟩ irrev false) ls := by
  obtain ⟨hn, hh, hb, hr⟩ := h
  rw [List.map_cons, List.nodup_cons] at hn
  have hother : ∀ q ∈ ls, p.2.tid ≠ q.2.tid := fun q hq he => hn.1 (he ▸ List.mem_map_of_mem (f := fun p => p.2.tid) hq)
  have hkeep := fun q hq => takeTrap_priv_others f irrev (hh p List.mem_cons_self) (hb p List.mem_cons_self) (hother q hq)
  refine ⟨hn.2, fun q hq => ?_, fun q hq => hb q (List.mem_cons_of_mem _ hq), fun q hq => ?_⟩
  · rw [(hkeep q hq).1, hh q (List.mem_cons_of_mem _ hq)]
  · rw [trapWaits_priv_congr (hkeep q hq).1 (hkeep q hq).2, hr q (List.mem_cons_of_mem _ hq)]

section

variable {s : State} {r : OpRule} {f : Fields} {irrev carries : Bool} {pre : Thread → Option Trap} {body : Body}
  {ls : List (Nat × Thread)}

/-- Lanes that take PRIV before their bodies trap in turn, and nothing else happens. -/
theorem runLanesBody_priv {own : Thread → List Popped → Option Trap} {pops : List (Nat × Popped)} (h : TakesPriv s ls)
    (hown : ∀ p ∈ ls, ∀ mine, own p.2 mine = some ⟨.priv, 0, false⟩) (out : List Nat) :
    let k := ls.foldl (fun k p => takeTrap k p.2.tid f ⟨.priv, 0, false⟩ irrev false) s
    runLanesBody r f irrev own body pops ⟨s, s, [], [], false, none, out⟩ ls =
      ⟨k, k, [], [], false, none, out ++ ls.map fun p => p.2.tid⟩ := by
  induction ls generalizing s out with
  | nil => simp [runLanesBody]
  | cons p ls ih =>
    obtain ⟨n, t⟩ := p
    have hw : trapWaits s t.tid ⟨.priv, 0, false⟩ = false := h.ready _ List.mem_cons_self
    rw [runLanesBody, hown (n, t) List.mem_cons_self]
    simp only [Issuing.trap, hw, Bool.false_eq_true, if_false]
    rw [ih (h.tail f irrev) (fun q hq => hown q (List.mem_cons_of_mem _ hq))]
    simp

/-- Where all lanes share a trap, it is the one found for each. -/
theorem find?_sharedTrap {tr : Trap} {p : Nat × Thread} (hp : p ∈ ls) :
    ∃ u, ((ls.map fun q => (q.2, tr)).find? fun q => q.1.tid == p.2.tid) = some (u, tr) := by
  cases hf : (ls.map fun q => (q.2, tr)).find? fun q => q.1.tid == p.2.tid with
  | none => exact absurd (List.find?_eq_none.1 hf _ (List.mem_map_of_mem hp)) (by simp)
  | some q =>
    obtain ⟨u, -, rfl⟩ := List.mem_map.1 (List.mem_of_find?_eq_some hf)
    exact ⟨u.2, rfl⟩

/-- A group whose lanes all fail a check before their sources with PRIV traps lane by lane (R384). -/
theorem issue_priv (hg : LaneGroup s ls) {lvl : Nat} (hle : lvl ≤ 2) (hl : ∀ p ∈ ls, p.2.plvl.code < lvl)
    (hw : ∀ p ∈ ls, trapWaits s p.2.tid ⟨.priv, 0, false⟩ = false)
    (hgate : ∀ p ∈ ls, gateTrap s p.2 r f (pre p.2) = some ⟨.priv, 0, false⟩) :
    issue r f false pre carries body s = .next (ls.foldl (fun k p =>
      takeTrap k p.2.tid f ⟨.priv, 0, false⟩ (touchesPort r f) false) s).bump := by
  have hb : ∀ p ∈ ls, p.2.plvl ≠ .firmware := fun p hp => Level.ne_firmware_of_code_lt ((hl p hp).trans_le hle)
  have htrap : ∀ un, ∀ p ∈ ls, laneTrap s p.2 r f (pre p.2) un = some ⟨.priv, 0, false⟩ := fun un p hp => by
    rw [laneTrap, hgate p hp]
  have hearly : ∀ un, ls.filterMap (fun p => (laneTrap s p.2 r f (pre p.2) un).map fun tr => (p.2, tr)) =
      ls.map fun p => (p.2, (⟨.priv, 0, false⟩ : Trap)) := fun un => by
    rw [← List.filterMap_eq_map]
    exact List.filterMap_congr fun p hp => by rw [htrap un p hp]; rfl
  have hlanes : ∀ un, ls.filter (fun p => (laneTrap s p.2 r f (pre p.2) un).isNone) = [] := fun un =>
    List.filter_eq_nil_iff.2 fun p hp => by simp [htrap un p hp]
  have hwaits : (ls.map fun p => (p.2, (⟨.priv, 0, false⟩ : Trap))).any (fun p => trapWaits s p.1.tid p.2) = false := by
    simpa [List.any_eq_false] using hw
  have hblock : ∀ pc, groupBlocked s r f (touchesPort r f) [] [] pc = false := fun pc => by
    simp [groupBlocked, pushesOf_nil, claimQueues, pushesFit, baseUses]
  simp only [issue, Bool.false_or, hg.lanes, hearly, hlanes, List.map_nil, claimsOf_nil, pushesOf_nil, hblock, hwaits,
    Bool.false_eq_true, if_false, List.length_nil, settlePops]
  rw [runLanesBody_priv ⟨hg.nodup, hg.held, hb, hw⟩]
  · simp [popsOf, ranked, ranked.go, Issuing.finish, baseUses, moveWords]
  · intro p hp mine
    obtain ⟨u, hu⟩ := find?_sharedTrap (tr := ⟨.priv, 0, false⟩) hp
    simp only [hu]

end

/-! ### Which instructions ask for a level -/

/-- The opcodes that need a level: ERET.s and ERET.f (R69), and EVCT to CTXL (R78). -/
theorem opcode_of_level {op : Nat} {r : OpRule} (hop : op < 512) (hr : opRule op = some r) (hl : 0 < r.level) :
    op = 0x0B2 ∨ op = 0x0B3 ∨ 0x193 ≤ op ∧ op ≤ 0x1AD := by
  have h : ∀ op < 512, (opRule op).all (fun r => r.level == 0) ∨ op = 0x0B2 ∨ op = 0x0B3 ∨ 0x193 ≤ op ∧ op ≤ 0x1AD := by
    decide +kernel
  refine (h op hop).resolve_left fun h0 => ?_
  rw [hr, Option.all_some, beq_iff_eq] at h0
  exact hl.ne' h0

/-- What needs a level is an issue with no check of its own, and not irrevocable by its kind. -/
theorem exec_leveled {i : Instr} {op : Nat} {f : Fields} {r : OpRule} (hi : instrFields i = some (op, f))
    (hr : opRule op = some r) (hl : 0 < r.level) (s : State) :
    ∃ carries body, exec i s = issue r f false (fun _ => none) carries body s := by
  obtain ⟨hop, hof, -⟩ := instrOf_instrFields i op f hi
  rcases opcode_of_level hop hr hl with rfl | rfl | ⟨hlo, hhi⟩
  on_goal 3 => interval_cases op
  all_goals
    cases hof
    cases hr
    exact ⟨_, _, rfl⟩

theorem opRule_level_le {op : Nat} {r : OpRule} (hop : op < 512) (hr : opRule op = some r) : r.level ≤ 2 := by
  have h : ∀ op < 512, (opRule op).all (fun r => r.level ≤ 2) := by decide +kernel
  simpa [hr] using h op hop

/-! ### Which registers ask for a level (R96, R386, R422) -/

theorem systemRegisters_levels : ∀ e ∈ systemRegisters, sysReadLevel e.1 = e.2.1 ∧ sysWriteLevel e.1 = e.2.2 := by
  decide

theorem systemRegisters_level_le : ∀ e ∈ systemRegisters, ∀ l, e.2.1 = some l ∨ e.2.2 = some l → l ≤ 2 := by
  have h : ∀ e ∈ systemRegisters, e.2.1.all (· ≤ 2) ∧ e.2.2.all (· ≤ 2) := by decide
  intro e he l hl
  obtain ⟨hr, hw⟩ := h e he
  rcases hl with hl | hl
  · simpa [hl] using hr
  · simpa [hl] using hw

section

variable {s : State} {t : Thread} {f : Fields}

/-- A lane below the level of an instruction stops at PRIV, whatever its own check says (R384). -/
theorem gateTrap_level {r : OpRule} (h : t.plvl.code < r.level) (pre : Option Trap) :
    gateTrap s t r f pre = some ⟨.priv, 0, false⟩ := if_pos h

/-- A check at the place of PRIV is the first of an instruction that asks for no level (R95). -/
theorem gateTrap_own {r : OpRule} (h : r.level = 0) (tr : Trap) : gateTrap s t r f (some tr) = some tr := by
  rw [gateTrap, h, if_neg (Nat.not_lt_zero _)]

/-- The check of SRD at the place of PRIV (R95). -/
def srdCheck (n : Nat) (t : Thread) : Option Trap :=
  match sysReadLevel n with
  | some l => if t.plvl.code < l then some (Trap.plain .priv 0) else none
  | none => none

theorem exec_srd (f : Fields) (s : State) :
    ∃ body, exec (.srd f) s = issue rSrd f false (srdCheck f.imm.toNat) true body s := ⟨_, rfl⟩

theorem exec_swr (f : Fields) (s : State) :
    ∃ body, exec (.swr f) s = issue rSwr f false (swrCheck f.imm.toNat) false body s := ⟨_, rfl⟩

theorem srdCheck_below {n lvl : Nat} (h : sysReadLevel n = some lvl) (hl : t.plvl.code < lvl) :
    srdCheck n t = some ⟨.priv, 0, false⟩ := by
  rw [srdCheck, h]
  exact if_pos hl

theorem swrCheck_below {n lvl : Nat} (h : sysWriteLevel n = some lvl) (hl : t.plvl.code < lvl) :
    swrCheck n t = some ⟨.priv, 0, false⟩ := by
  rw [swrCheck, h]
  exact if_pos hl

end

end Sys2Proof.Machine

open Sys2Proof Sys2Proof.Machine Sys2Proof.Claims

/-- Settles O53: an instruction's level and a register's row are checked at one place, and PRIV there touches no other
lane. -/
theorem privilegeHolds : Obligations.PrivilegeHolds := by
  refine ⟨fun i op f r s ls hg hi hr hl hw => ?_, fun f s ls hg hw e he hn => ⟨fun lvl hlvl hl => ?_,
    fun lvl hlvl hl => ?_⟩⟩
  · obtain ⟨p, hp⟩ := List.exists_mem_of_ne_nil _ hg.inhabited
    obtain ⟨carries, body, hexec⟩ := exec_leveled hi hr (Nat.zero_lt_of_lt (hl p hp)) s
    exact hexec.trans (issue_priv hg (opRule_level_le (instrOf_instrFields i op f hi).1 hr) hl hw fun p hp =>
      gateTrap_level (hl p hp) _)
  · obtain ⟨body, hexec⟩ := exec_srd f s
    have hread : sysReadLevel f.imm.toNat = some lvl := hn ▸ (systemRegisters_levels e he).1.trans hlvl
    exact hexec.trans (issue_priv hg (systemRegisters_level_le e he lvl (.inl hlvl)) hl hw fun p hp => by
      rw [srdCheck_below hread (hl p hp), gateTrap_own rfl])
  · obtain ⟨body, hexec⟩ := exec_swr f s
    have hwrite : sysWriteLevel f.imm.toNat = some lvl := hn ▸ (systemRegisters_levels e he).2.trans hlvl
    exact hexec.trans (issue_priv hg (systemRegisters_level_le e he lvl (.inr hlvl)) hl hw fun p hp => by
      rw [swrCheck_below hwrite (hl p hp), gateTrap_own rfl])

end

section
/-! SUPPORT. How an instruction is encoded (R52, R66): which fields an opcode accepts, and that every form of an opcode
has fields that it accepts. -/

namespace Sys2Proof.Machine

/-- Fields that are an encoding of an opcode with a rule, in a form that is not compact (R52). -/
structure FitsRule (r : OpRule) (f : Fields) : Prop where
  form : f.form ∈ r.forms
  room : formHolds f = true
  rd : r.rd.ok f.rd = true
  s1 : (roleS1 r f).ok f.s1 = true
  s2 : (roleS2 r f).ok f.s2 = true
  s3 : (roleS3 r f).ok f.s3 = true
  mod : r.mod.ok f.mod = true
  imm : f.form = .l ∨ f.form = .x → r.imm.ok f = true

theorem fitsRule_of_reject? {op : Nat} {r : OpRule} {f : Fields} (h : reject? op r f = none) : FitsRule r f := by
  unfold reject? at h
  split_ifs at h with hform hroom hrole hempty hmod himm
  all_goals
    simp only [Bool.not_eq_true, Bool.not_eq_false', Bool.and_eq_true, List.contains_iff_mem] at hform hroom hrole hmod
    simp only [Bool.and_eq_true, Bool.or_eq_true, beq_iff_eq, Bool.not_eq_true', not_and, Bool.not_eq_false] at himm
    obtain ⟨⟨⟨hrd, h1⟩, h2⟩, h3⟩ := hrole
    exact ⟨hform, hroom, hrd, h1, h2, h3, hmod, himm⟩

/-- Fields without operands in a form; n is the immediate of an L form. -/
def blank (fm : Form) (n : BitVec 32) : Fields :=
  { form := fm, rd := 0, s1 := 0, s2 := 0, s3 := 0, e1 := false, e2 := false, e3 := false, mod := 0, pol := 0
    imm := if fm = .l then n else 0 }

namespace FitsRule

variable {r : OpRule} {f : Fields}

theorem s3_zero (h : FitsRule r f) (hr : r.s3 = .zero) : f.s3 = 0 := by
  have h3 := h.s3
  rw [roleS3, hr, ite_self] at h3
  simpa [Role.ok] using h3

theorem s2_zero (h : FitsRule r f) (hr : r.s2 = .zero) : f.s2 = 0 := by
  have h2 := h.s2
  rw [roleS2, hr, ite_self] at h2
  simpa [Role.ok] using h2

theorem mod_zero (h : FitsRule r f) (hr : r.mod = .none) : f.mod = 0 := by
  have hm := h.mod
  rw [hr] at hm
  simpa [ModKind.ok, ← BitVec.toNat_inj] using hm

theorem short (h : FitsRule r f) (hf : f.form = .s) : f.s3 = 0 ∧ f.mod = 0 := by
  have hroom := h.room
  rw [formHolds, hf] at hroom
  simp only [Bool.and_eq_true, beq_iff_eq] at hroom
  obtain ⟨⟨⟨⟨hs3, -⟩, hmod⟩, -⟩, -⟩ := hroom
  exact ⟨hs3, hmod⟩

theorem s1_zero (h : FitsRule r f) (hr : r.s1 = .zero) : f.s1 = 0 := by
  have h1 := h.s1
  rw [roleS1, hr, ite_self] at h1
  simpa [Role.ok] using h1

/-- The immediate stands in place of s2 (R65). -/
theorem s2_zero_of_imm (h : FitsRule r f) (hr : r.immS2 = true) (hf : f.form = .l ∨ f.form = .x) : f.s2 = 0 := by
  have himm : immForS2 r f = true := by rcases hf with hf | hf <;> rw [immForS2, hr, hf] <;> rfl
  have h2 := h.s2
  rw [roleS2, himm, Bool.or_true, if_pos rfl] at h2
  simpa [Role.ok] using h2

theorem s3_zero_of_form (h : FitsRule r f) (hf : f.form ≠ .m ∧ f.form ≠ .x) : f.s3 = 0 := by
  have h3 := h.s3
  rw [roleS3, if_neg (by simpa using hf)] at h3
  simpa [Role.ok] using h3

/-- A condition code of R81; code 0 reads no source. -/
theorem cond (h : FitsRule r f) (hr : r.mod = .condW) :
    f.mod.toNat % 16 ≤ 10 ∧ (f.mod.toNat % 16 = 0 → f.s1 = 0 ∧ f.s2 = 0) := by
  have hm := h.mod
  simp only [hr, ModKind.ok, Bool.and_eq_true, decide_eq_true_eq] at hm
  refine ⟨hm.2, fun h0 => ?_⟩
  have halways : condAlways r f = true := by rw [condAlways, condOf, hr, Fields.cond, h0]; rfl
  have h1 := h.s1
  have h2 := h.s2
  rw [roleS1, halways, if_pos rfl] at h1
  rw [roleS2, halways, Bool.true_or, if_pos rfl] at h2
  exact ⟨by simpa [Role.ok] using h1, by simpa [Role.ok] using h2⟩

end FitsRule

end Sys2Proof.Machine

namespace Sys2Proof.Claims

open Sys2Proof.Machine

/-- An instruction is encoded as its opcode's rule says, if each form of the rule has an immediate it accepts. -/
theorem encodes_of {c : Fields → Instr} {op : Nat} {forms : List Form} {fits : Fields → Prop} {r : OpRule}
    (hi : ∀ f, instrFields (c f) = some (op, f)) (hr : opRule op = some r) (hforms : r.forms = forms) (n : BitVec 32)
    (hblank : ∀ fm ∈ forms, fm ≠ .c ∧ reject? op r (blank fm n) = none) (hfits : ∀ f, FitsRule r f → fits f) :
    Encodes c op forms fits := by
  subst hforms
  have hwf (f : Fields) (hc : f.form ≠ .c) : (c f).wellFormed = (reject? op r f).isNone := by
    rw [(instrOf_instrFields (c f) op f (hi f)).2.2, fieldsOk, hr]
    exact if_neg (by simpa using hc)
  refine ⟨fun f => ⟨hi f, fun hw hc => ?_⟩, fun fm hfm => ⟨blank fm n, rfl, ?_⟩⟩
  · have ha := fitsRule_of_reject? (Option.isNone_iff_eq_none.1 (hwf f hc ▸ hw))
    exact ⟨ha.form, hfits f ha⟩
  · obtain ⟨hc, hb⟩ := hblank fm hfm
    rw [hwf _ hc, hb]
    rfl

end Sys2Proof.Claims
end

section
/-! SUPPORT. Results of integer instructions (R98 to R107): the operations on n bits that the model computes on numbers,
and an instruction whose result is one of them at either width. -/

namespace Sys2Proof.Machine

open Sys2Proof.Claims

/-! ### Values at a width (R98) -/

theorem uval_low (v : Word) : uval true v = (v.setWidth 32).toNat := by
  rw [uval, if_pos rfl, BitVec.toNat_setWidth]

theorem sextN_toInt {n : Nat} (x : BitVec n) : sextN x.toNat n = x.toInt := by
  rw [sextN, BitVec.toInt, Nat.mod_eq_of_lt x.isLt]

theorem res_low (x : Int) : res true x = (BitVec.ofInt 32 x).signExtend 64 := by
  have h : (x % 2 ^ 32).toNat = (BitVec.ofInt 32 x).toNat := by rw [BitVec.toNat_ofInt]; rfl
  rw [res, if_pos rfl, h, sextN_toInt, wordOfInt, BitVec.signExtend]

/-- A result of R98 that is an n-bit operation of the operands' values at either width. -/
theorem res_eq_atWidth {op : (n : Nat) → BitVec n → BitVec n → BitVec n} (g : Nat → Int → Nat → Int → Nat → Int)
    (h : ∀ n, n = 32 ∨ n = 64 → ∀ a b : BitVec n, BitVec.ofInt n (g n a.toInt a.toNat b.toInt b.toNat) = op n a b)
    (w : Bool) (a b : Word) :
    res w (g (opBits w) (sval w a) (uval w a) (sval w b) (uval w b)) = atWidth w op a b := by
  cases w with
  | false => exact h 64 (.inr rfl) a b
  | true =>
    rw [res_low, sval_low, sval_low, uval_low, uval_low]
    exact congrArg (BitVec.signExtend 64) (h 32 (.inl rfl) (a.setWidth 32) (b.setWidth 32))

theorem shiftCount_eq (w : Bool) (b : Word) : shiftCount w b = uval w b % opBits w := by
  cases w
  · rfl
  · simp only [shiftCount, uval, opBits, if_true]; omega

/-! ### Operations on n bits -/

section

variable {n : Nat} (a b : BitVec n)

theorem ofInt_toNat : BitVec.ofInt n a.toNat = a := by
  rw [BitVec.ofInt_natCast, BitVec.ofNat_toNat, BitVec.setWidth_eq]

theorem ofInt_add_toInt : BitVec.ofInt n (a.toInt + b.toInt) = a + b := by
  rw [BitVec.ofInt_add, BitVec.ofInt_toInt, BitVec.ofInt_toInt]

theorem ofInt_sub_toInt : BitVec.ofInt n (a.toInt - b.toInt) = a - b := by
  rw [Int.sub_eq_add_neg, BitVec.ofInt_add, BitVec.ofInt_neg, BitVec.ofInt_toInt, BitVec.ofInt_toInt,
    BitVec.sub_eq_add_neg]

theorem ofInt_mul_toInt : BitVec.ofInt n (a.toInt * b.toInt) = a * b := by
  rw [BitVec.ofInt_mul, BitVec.ofInt_toInt, BitVec.ofInt_toInt]

theorem emod_mul_self_ediv (z : Int) {m : Int} (hm : 0 < m) : z % (m * m) / m = z / m % m := by
  rw [Int.emod_def, Int.emod_def, Int.mul_assoc, Int.sub_eq_add_neg, ← Int.mul_neg, Int.add_mul_ediv_left _ _ hm.ne',
    ← Int.sub_eq_add_neg, Int.ediv_ediv_of_nonneg hm.le]

/-- The high half of a product (R100). -/
theorem extractLsb'_ofInt (z : Int) : (BitVec.ofInt (2 * n) z).extractLsb' n n = BitVec.ofInt n (z / 2 ^ n) := by
  have hm : (0 : Int) < 2 ^ n := by positivity
  have hz : 0 ≤ z % (2 ^ n * 2 ^ n) := Int.emod_nonneg _ (by positivity)
  have hpow : ((2 ^ (2 * n) : Nat) : Int) = 2 ^ n * 2 ^ n := by rw [two_mul, pow_add]; push_cast; rfl
  apply BitVec.eq_of_toNat_eq
  rw [BitVec.extractLsb'_toNat, BitVec.toNat_ofInt, BitVec.toNat_ofInt, Nat.shiftRight_eq_div_pow, hpow]
  zify
  rw [Int.toNat_of_nonneg hz, Int.toNat_of_nonneg (Int.emod_nonneg _ (by positivity)), emod_mul_self_ediv z hm,
    Int.emod_emod]

/-- The value of an operand of MULH to MULHSU, as its signedness says (R100). -/
theorem widened (sa : Bool) : (if sa then a.signExtend (2 * n) else a.setWidth (2 * n)) =
    BitVec.ofInt (2 * n) (if sa then a.toInt else a.toNat) := by
  cases sa
  · simp only [Bool.false_eq_true, if_false, BitVec.ofInt_natCast, BitVec.ofNat_toNat]
  · rfl

theorem mulHigh_eq (sa sb : Bool) : mulHigh sa sb n a b =
    BitVec.ofInt n ((if sa then a.toInt else a.toNat) * (if sb then b.toInt else b.toNat) / 2 ^ n) := by
  simp only [mulHigh, widened, ← BitVec.ofInt_mul, extractLsb'_ofInt]

theorem toInt_eq_zero : b.toInt = 0 ↔ b = 0#n := by
  rw [← BitVec.toInt_inj, BitVec.toInt_zero]

theorem toNat_eq_zero : b.toNat = 0 ↔ b = 0#n := by
  rw [← BitVec.toNat_inj, BitVec.toNat_ofNat, Nat.zero_mod]

theorem ofInt_neg_one : BitVec.ofInt n (-1) = BitVec.allOnes n := by
  rw [← BitVec.neg_one_eq_allOnes, BitVec.ofInt_neg]
  rfl

theorem ofInt_divSigned : BitVec.ofInt n (divSigned a.toInt b.toInt) =
    if b = 0#n then BitVec.allOnes n else a.sdiv b := by
  simp only [divSigned, toInt_eq_zero]
  split_ifs
  · exact ofInt_neg_one
  · rw [← BitVec.toInt_inj, BitVec.toInt_ofInt, BitVec.toInt_sdiv]

theorem ofInt_remSigned : BitVec.ofInt n (remSigned a.toInt b.toInt) = if b = 0#n then a else a.srem b := by
  simp only [remSigned, toInt_eq_zero]
  split_ifs
  · exact BitVec.ofInt_toInt
  · rw [← BitVec.toInt_srem, BitVec.ofInt_toInt]

theorem ofInt_divUnsigned : BitVec.ofInt n (if b.toNat = 0 then -1 else (a.toNat / b.toNat : Nat)) =
    if b = 0#n then BitVec.allOnes n else a.udiv b := by
  simp only [toNat_eq_zero]
  split_ifs
  · exact ofInt_neg_one
  · exact ofInt_toNat (a / b)

theorem ofInt_remUnsigned : BitVec.ofInt n (a.toNat % b.toNat : Nat) = if b = 0#n then a else a.umod b := by
  split_ifs with h
  · rw [h, BitVec.toNat_ofNat, Nat.zero_mod, Nat.mod_zero, ofInt_toNat]
  · exact ofInt_toNat (a % b)

theorem ofInt_shiftLeft (k : Nat) : BitVec.ofInt n (a.toNat * 2 ^ k : Nat) = a <<< k := by
  rw [BitVec.ofInt_natCast, ← Nat.shiftLeft_eq]
  rfl

theorem ofInt_shiftRight (k : Nat) : BitVec.ofInt n (a.toNat / 2 ^ k : Nat) = a >>> k := by
  rw [← Nat.shiftRight_eq_div_pow]
  exact ofInt_toNat (a >>> k)

theorem ofInt_sshiftRight (k : Nat) : BitVec.ofInt n (a.toInt / 2 ^ k) = a.sshiftRight k := by
  rw [show (2 : Int) ^ k = (2 ^ k : Nat) by push_cast; rfl, ← Int.shiftRight_eq_div_pow, ← BitVec.toInt_sshiftRight,
    BitVec.ofInt_toInt]

/-- The bits of a rotated number. -/
theorem testBit_rotl {x k i : Nat} (hx : x < 2 ^ n) (hk : k < n) (hi : i < n) :
    (rotl n x k).testBit i = if i < k then x.testBit (n - k + i) else x.testBit (i - k) := by
  rcases Nat.eq_zero_or_pos k with rfl | h0
  · rfl
  · have hlow : x / 2 ^ (n - k) < 2 ^ k := by
      rw [Nat.div_lt_iff_lt_mul (by positivity), ← pow_add, show k + (n - k) = n by omega]
      exact hx
    rw [rotl, if_neg h0.ne', Nat.testBit_mod_two_pow, decide_eq_true hi, Bool.true_and, Nat.mul_comm,
      Nat.testBit_two_pow_mul_add _ hlow, Nat.testBit_div_two_pow, Nat.add_comm i]

theorem ofInt_rotl {k : Nat} (hk : k < n) : BitVec.ofInt n (rotl n a.toNat k) = a.rotateLeft k := by
  apply BitVec.eq_of_getLsbD_eq
  intro i hi
  rw [BitVec.ofInt_natCast, BitVec.getLsbD_ofNat, testBit_rotl a.isLt hk hi, BitVec.getLsbD_rotateLeft,
    Nat.mod_eq_of_lt hk]
  simp only [hi, decide_true, Bool.true_and, cond_eq_ite, decide_eq_true_eq, BitVec.getLsbD]

/-- A rotate right by k is a rotate left by n - k (R102). -/
theorem ofInt_rotr {k : Nat} (hk : k < n) : BitVec.ofInt n (rotl n a.toNat ((n - k) % n)) = a.rotateRight k := by
  apply BitVec.eq_of_getLsbD_eq
  intro i hi
  rw [BitVec.ofInt_natCast, BitVec.getLsbD_ofNat, testBit_rotl a.isLt (Nat.mod_lt _ (by omega)) hi,
    BitVec.getLsbD_rotateRight, Nat.mod_eq_of_lt hk]
  simp only [hi, decide_true, Bool.true_and, cond_eq_ite, decide_eq_true_eq, BitVec.getLsbD]
  rcases Nat.eq_zero_or_pos k with rfl | h0
  · simp [hi]
  · rw [Nat.mod_eq_of_lt (by omega), show n - (n - k) = k by omega]

theorem ofInt_min_toInt : BitVec.ofInt n (min a.toInt b.toInt) = if a.slt b then a else b := by
  simp only [BitVec.slt_iff_toInt_lt]
  split_ifs with h
  · rw [min_eq_left h.le, BitVec.ofInt_toInt]
  · rw [min_eq_right (not_lt.1 h), BitVec.ofInt_toInt]

theorem ofInt_max_toInt : BitVec.ofInt n (max a.toInt b.toInt) = if b.slt a then a else b := by
  simp only [BitVec.slt_iff_toInt_lt]
  split_ifs with h
  · rw [max_eq_left h.le, BitVec.ofInt_toInt]
  · rw [max_eq_right (not_lt.1 h), BitVec.ofInt_toInt]

theorem ofInt_min_toNat : BitVec.ofInt n (min a.toNat b.toNat : Nat) = if a.ult b then a else b := by
  simp only [BitVec.ult_iff_lt, BitVec.lt_def]
  split_ifs with h
  · rw [min_eq_left h.le, ofInt_toNat]
  · rw [min_eq_right (not_lt.1 h), ofInt_toNat]

theorem ofInt_max_toNat : BitVec.ofInt n (max a.toNat b.toNat : Nat) = if b.ult a then a else b := by
  simp only [BitVec.ult_iff_lt, BitVec.lt_def]
  split_ifs with h
  · rw [max_eq_left h.le, ofInt_toNat]
  · rw [max_eq_right (not_lt.1 h), ofInt_toNat]

theorem ofInt_natAbs : BitVec.ofInt n a.toInt.natAbs = if a.slt 0#n then -a else a := by
  simp only [BitVec.slt_iff_toInt_lt, BitVec.toInt_zero]
  split_ifs with h
  · rw [Int.ofNat_natAbs_of_nonpos h.le, BitVec.ofInt_neg, BitVec.ofInt_toInt]
  · rw [Int.natAbs_of_nonneg (not_lt.1 h), BitVec.ofInt_toInt]

end

/-- A sign-extended immediate has its value at either width (R51, R98). -/
theorem sval_immediate (w : Bool) (x : BitVec 32) : sval w (x.signExtend 64) = x.toInt := by
  cases w with
  | false => exact BitVec.toInt_signExtend_of_le (by decide)
  | true =>
    have hlow : (x.signExtend 64).setWidth 32 = x := by
      apply BitVec.eq_of_getLsbD_eq
      intro i hi
      rw [BitVec.getLsbD_setWidth, BitVec.getLsbD_signExtend, if_pos hi, decide_eq_true hi,
        decide_eq_true (by omega), Bool.true_and, Bool.true_and]
    rw [sval_low, hlow]

theorem append_low (x : BitVec 32) (a : Word) :
    BitVec.ofNat 64 (x.toNat * 2 ^ 32 + a.toNat % 2 ^ 32) = x ++ a.setWidth 32 := by
  apply BitVec.eq_of_toNat_eq
  rw [BitVec.toNat_append, BitVec.toNat_setWidth, ← Nat.shiftLeft_add_eq_or_of_lt (Nat.mod_lt _ (by decide)),
    Nat.shiftLeft_eq, BitVec.toNat_ofNat, Nat.mod_eq_of_lt]
  omega

/-! ### Instructions of two operands -/

section

variable {i : Instr} {r : OpRule} {f : Fields}

/-- An instruction whose result is a function of its operands' values at a width (R98). -/
theorem yieldsOp_of {op : (n : Nat) → BitVec n → BitVec n → BitVec n} (g : Nat → Int → Nat → Int → Nat → Int)
    (hexec : ∀ s, exec i s = issueValue r f (fun l => res f.w (g (opBits f.w) (sval f.w l.a) (uval f.w l.a)
      (sval f.w (l.opB r f)) (uval f.w (l.opB r f)))) s)
    (h : ∀ n, n = 32 ∨ n = 64 → ∀ a b : BitVec n, BitVec.ofInt n (g n a.toInt a.toNat b.toInt b.toNat) = op n a b) :
    YieldsOp i r f op :=
  yields_of_issueValue hexec fun _ => res_eq_atWidth g h ..

/-- A shift or a rotate, its count taken modulo the width (R102). -/
theorem yieldsOp_of_shift {op : (n : Nat) → BitVec n → Nat → BitVec n} (g : Nat → Int → Nat → Nat → Int)
    (hexec : ∀ s, exec i s = issueValue r f (fun l => res f.w (g (opBits f.w) (sval f.w l.a) (uval f.w l.a)
      (shiftCount f.w (l.opB r f)))) s)
    (h : ∀ n (a : BitVec n) k, k < n → BitVec.ofInt n (g n a.toInt a.toNat k) = op n a k) :
    YieldsOp i r f (fun n a b => op n a (b.toNat % n)) := by
  refine yieldsOp_of (fun n x y _ z => g n x y (z % n)) (fun s => ?_) fun n hn a b => h n a _ (Nat.mod_lt _ (by omega))
  simp only [hexec, shiftCount_eq]

end

/-! ### Bits (R103) -/

theorem bitAt_eq_testBit (x i : Nat) : bitAt x i = x.testBit i := by
  rw [bitAt, Nat.testBit_eq_decide_div_mod_eq]
  rfl

theorem testBit_bitsAt (v lo n i : Nat) : (bitsAt v lo n).testBit i = (decide (i < n) && v.testBit (lo + i)) := by
  rw [bitsAt, Nat.testBit_mod_two_pow, Nat.testBit_div_two_pow, Nat.add_comm]

/-- How far a test holds along a range. -/
theorem length_takeWhile_range {p : Nat → Bool} {m n : Nat} (hm : m ≤ n) (hp : ∀ i < m, p i = true)
    (hs : m < n → p m = false) : ((List.range n).takeWhile p).length = m := by
  obtain ⟨d, rfl⟩ := Nat.exists_eq_add_of_le hm
  rw [List.range_add, List.takeWhile_append_of_pos fun i hi => hp i (List.mem_range.1 hi), List.length_append,
    List.length_range]
  cases d with
  | zero => rfl
  | succ d => simp [List.range_succ_eq_map, hs (by omega)]

theorem clzN_eq {n : Nat} (a : BitVec n) : clzN n a.toNat = leadingZeros n a := by
  unfold clzN leadingZeros
  split_ifs with h
  · obtain rfl : a = 0#n := BitVec.eq_of_toNat_eq (by simpa using h)
    exact (length_takeWhile_range le_rfl (fun i _ => by simp) fun h => absurd h (Nat.lt_irrefl n)).symm
  · have hlog : a.toNat.log2 < n := (Nat.log2_lt h).2 a.isLt
    refine (length_takeWhile_range (by omega) (fun i hi => ?_) fun _ => ?_).symm
    · have hlt : a.toNat < 2 ^ (n - 1 - i) := (Nat.log2_lt h).1 (by omega)
      rw [BitVec.getMsbD_eq_getLsbD, BitVec.getLsbD, Nat.testBit_lt_two_pow hlt, Bool.and_false, Bool.not_false]
    · rw [BitVec.getMsbD_eq_getLsbD, BitVec.getLsbD, show n - 1 - (n - 1 - a.toNat.log2) = a.toNat.log2 by omega,
        Nat.testBit_log2 h]
      simp
      omega

/-- A number's lowest set bit. -/
theorem xor_and_sub_one (m q : Nat) : (2 ^ m * (2 * q + 1)) ^^^ (2 ^ m * (2 * q + 1) &&& (2 ^ m * (2 * q + 1) - 1)) =
    2 ^ m := by
  have h1 : 2 ^ m * (2 * q + 1) = 2 ^ (m + 1) * q + 2 ^ m := by ring
  have h2 : 2 ^ m * (2 * q + 1) - 1 = 2 ^ (m + 1) * q + (2 ^ m - 1) := by
    rw [h1]; have := Nat.two_pow_pos m; omega
  have hlt : 2 ^ m < 2 ^ (m + 1) := Nat.pow_lt_pow_right (by decide) (Nat.lt_succ_self m)
  apply Nat.eq_of_testBit_eq
  intro i
  rw [h2, h1, Nat.testBit_xor, Nat.testBit_and, Nat.testBit_two_pow_mul_add _ hlt,
    Nat.testBit_two_pow_mul_add _ (by omega), Nat.testBit_two_pow, Nat.testBit_two_pow_sub_one]
  split_ifs with hi
  · by_cases h : m = i
    · simp [h]
    · simp [h]
  · simp; omega

theorem ctzN_eq {n : Nat} (a : BitVec n) : ctzN n a.toNat = trailingZeros n a := by
  unfold ctzN trailingZeros
  split_ifs with h
  · obtain rfl : a = 0#n := BitVec.eq_of_toNat_eq (by simpa using h)
    exact (length_takeWhile_range le_rfl (fun i _ => by simp) fun h => absurd h (Nat.lt_irrefl n)).symm
  · obtain ⟨m, k, ⟨q, rfl⟩, hk⟩ := Nat.exists_eq_two_pow_mul_odd h
    have hm : m < n := by
      by_contra hmn
      have h1 := Nat.pow_le_pow_right (show 0 < 2 by decide) (not_lt.1 hmn)
      have h2 := Nat.le_mul_of_pos_right (2 ^ m) (show 0 < 2 * q + 1 by omega)
      have h3 := a.isLt
      omega
    have hbit (i : Nat) : a.getLsbD i = (decide (m ≤ i) && (2 * q + 1).testBit (i - m)) := by
      rw [BitVec.getLsbD, hk, Nat.testBit_two_pow_mul]
    rw [hk, xor_and_sub_one, Nat.log2_two_pow]
    refine (length_takeWhile_range hm.le (fun i hi => ?_) fun _ => ?_).symm
    · simp [hbit, Nat.not_le.2 hi]
    · simp [hbit]

theorem popcN_eq {n : Nat} (a : BitVec n) : popcN n a.toNat = onesIn n a := by
  simp only [popcN, onesIn, bitAt_eq_testBit, BitVec.getLsbD]

theorem testBit_brevN (n x i : Nat) (h : i < n) : (brevN n x).testBit i = x.testBit (n - 1 - i) := by
  induction n generalizing i with
  | zero => omega
  | succ n ih =>
    have hstep : brevN (n + 1) x = 2 * brevN n x + bitsAt x n 1 := by
      simp [brevN, List.range_succ]
    have hb : bitsAt x n 1 < 2 ^ 1 := Nat.mod_lt _ (by decide)
    rw [hstep, ← pow_one 2, Nat.testBit_two_pow_mul_add _ hb]
    split_ifs with h0
    · obtain rfl : i = 0 := by omega
      rw [testBit_bitsAt]
      rfl
    · rw [ih _ (by omega), show n - 1 - (i - 1) = n + 1 - 1 - i by omega]

theorem testBit_leNat (l : List Byte) (i j : Nat) (hj : j < 8) :
    (leNat l).testBit (8 * i + j) = ((l[i]?).getD 0).getLsbD j := by
  induction l generalizing i with
  | nil => simp [leNat]
  | cons b l ih =>
    rw [leNat, Nat.add_comm, show 256 = 2 ^ 8 from rfl, Nat.testBit_two_pow_mul_add _ b.isLt]
    cases i with
    | zero => simp [hj, BitVec.getLsbD]
    | succ i => rw [if_neg (by omega), show 8 * (i + 1) + j - 8 = 8 * i + j by omega, ih, List.getElem?_cons_succ]

theorem getElem?_leBytes {n i : Nat} (v : Nat) (h : i < n) :
    (leBytes n v)[i]? = some (BitVec.ofNat 8 (v / 256 ^ i)) := by
  induction n generalizing v i with
  | zero => omega
  | succ n ih =>
    cases i with
    | zero => simp [leBytes]
    | succ i => rw [leBytes, List.getElem?_cons_succ, ih _ (by omega), Nat.div_div_eq_div_mul, ← Nat.pow_succ']

theorem testBit_bswapN {n i j : Nat} (x : Nat) (hi : i < n / 8) (hj : j < 8) :
    (bswapN n x).testBit (8 * i + j) = x.testBit (8 * (n / 8 - 1 - i) + j) := by
  have hlen := length_leBytes (n / 8) x
  rw [bswapN, testBit_leNat _ _ _ hj, List.getElem?_reverse (by omega), hlen, getElem?_leBytes _ (by omega),
    Option.getD_some, BitVec.getLsbD_ofNat, decide_eq_true hj, Bool.true_and, show 256 = 2 ^ 8 from rfl, ← Nat.pow_mul,
    Nat.testBit_div_two_pow, Nat.add_comm]

/-! ### Bit fields (R104) -/

/-- A word with bits inserted. -/
theorem insertField_eq (base a p w : Nat) :
    insertField base a p w = 2 ^ p * (2 ^ w * (base / 2 ^ p / 2 ^ w) + a % 2 ^ w) + base % 2 ^ p := by
  have h1 := Nat.div_add_mod base (2 ^ p)
  have h2 := Nat.div_add_mod (base / 2 ^ p) (2 ^ w)
  have h3 : base = 2 ^ p * (2 ^ w * (base / 2 ^ p / 2 ^ w)) + bitsAt base p w * 2 ^ p + base % 2 ^ p := by
    rw [bitsAt, Nat.mul_comm _ (2 ^ p), ← Nat.mul_add, h2, h1]
  rw [insertField, Nat.mul_add, Nat.mul_comm (a % 2 ^ w)]
  omega

theorem testBit_insertField (base a p w i : Nat) : (insertField base a p w).testBit i =
    if p ≤ i ∧ i < p + w then a.testBit (i - p) else base.testBit i := by
  rw [insertField_eq, Nat.testBit_two_pow_mul_add _ (Nat.mod_lt _ (Nat.two_pow_pos p)),
    Nat.testBit_two_pow_mul_add _ (Nat.mod_lt _ (Nat.two_pow_pos w)), Nat.testBit_mod_two_pow, Nat.testBit_mod_two_pow,
    Nat.testBit_div_two_pow, Nat.testBit_div_two_pow]
  by_cases h1 : i < p
  · simp [h1]
  · by_cases h2 : i - p < w
    · rw [if_neg h1, if_pos h2, if_pos (by omega), decide_eq_true h2, Bool.true_and]
    · rw [if_neg h1, if_neg h2, if_neg (by omega), show i - p - w + w + p = i by omega]

theorem sextN_eq (v n : Nat) : sextN v n = (BitVec.ofNat n v).toInt := by
  rw [← sextN_toInt, BitVec.toNat_ofNat, sextN, sextN, Nat.mod_mod]

/-- A field with its sign (R104). -/
theorem getLsbD_signedField (v : Nat) {p w i : Nat} (hw : 0 < w) (hi : i < 64) :
    (wordOfInt (sextN (bitsAt v p w) w)).getLsbD i = v.testBit (p + min i (w - 1)) := by
  rw [sextN_eq, wordOfInt, ← BitVec.signExtend, BitVec.getLsbD_signExtend, BitVec.msb_eq_getLsbD_last]
  simp only [BitVec.getLsbD_ofNat, testBit_bitsAt, hi, decide_true, Bool.true_and]
  by_cases h : i < w
  · simp [h, min_eq_left (by omega : i ≤ w - 1)]
  · simp [h, min_eq_right (by omega : w - 1 ≤ i)]
    omega

end Sys2Proof.Machine
end

section
/-! SUPPORT. The integer instructions (R99 to R107), each with its encodings and its result. -/

open Sys2Proof Sys2Proof.Machine Sys2Proof.Claims

/-- Settles O1: a sum of values is the sum of words at either width. -/
theorem additionAndConstants : Obligations.AdditionAndConstants := by
  refine ⟨fun e he => ?_, encodes_of (r := rAddi) (fun _ => rfl) rfl rfl 0 (by decide) fun _ _ => trivial,
    encodes_of (r := rLi) (fun _ => rfl) rfl rfl 0 (by decide) fun _ h => ⟨h.s1_zero rfl, h.s2_zero rfl⟩,
    encodes_of (r := rLih) (fun _ => rfl) rfl rfl 0 (by decide) fun _ _ => trivial,
    encodes_of (r := rLi) (fun _ => rfl) rfl rfl 0 (by decide) fun _ _ => trivial, fun f =>
    ⟨yieldsOp_of (fun _ a _ b _ => a + b) (fun _ => rfl) fun _ _ => ofInt_add_toInt,
      yieldsOp_of (fun _ a _ b _ => a - b) (fun _ => rfl) fun _ _ => ofInt_sub_toInt,
      yields_of_issueValue (fun _ => rfl) fun l => ?_, yields_of_issueValue (fun _ => rfl) fun _ => rfl,
      yields_of_issueValue (fun _ => rfl) fun l => append_low f.imm l.a,
      yields_of_issueValue (fun _ => rfl) fun _ => rfl⟩⟩
  · fin_cases he <;> exact encodes_of (r := rAlu) (fun _ => rfl) rfl rfl 0 (by decide) fun f h =>
      ⟨fun hf => by rw [Fields.w, (h.short hf).2]; rfl, fun _ => h.s3_zero rfl⟩
  · rw [Fields.simm, ← sval_immediate f.w f.imm]
    exact res_eq_atWidth (fun _ a _ b _ => a + b) (fun _ _ => ofInt_add_toInt) f.w l.a (f.imm.signExtend 64)

/-- Settles O2: the model's quotients, remainders and products of values are those of words, at either width. -/
theorem multiplicationAndDivision : Obligations.MultiplicationAndDivision := by
  refine ⟨fun e he => ?_, fun f => ⟨
    yieldsOp_of (fun _ a _ b _ => a * b) (fun _ => rfl) fun _ _ => ofInt_mul_toInt,
    yieldsOp_of (fun n a _ b _ => a * b / 2 ^ n) (fun _ => rfl) fun _ _ a b => (mulHigh_eq a b true true).symm,
    yieldsOp_of (fun n _ a _ b => (a * b / 2 ^ n : Nat)) (fun _ => rfl)
      fun _ _ a b => (mulHigh_eq a b false false).symm,
    yieldsOp_of (fun n a _ _ b => a * b / 2 ^ n) (fun _ => rfl) fun _ _ a b => (mulHigh_eq a b true false).symm,
    yieldsOp_of (fun _ a _ b _ => divSigned a b) (fun _ => rfl) fun _ _ => ofInt_divSigned,
    yieldsOp_of (fun _ _ a _ b => if b = 0 then -1 else (a / b : Nat)) (fun _ => rfl) fun _ _ => ofInt_divUnsigned,
    yieldsOp_of (fun _ a _ b _ => remSigned a b) (fun _ => rfl) fun _ _ => ofInt_remSigned,
    yieldsOp_of (fun _ _ a _ b => (a % b : Nat)) (fun _ => rfl) fun _ _ => ofInt_remUnsigned⟩⟩
  fin_cases he <;> exact encodes_of (r := rAlu) (fun _ => rfl) rfl rfl 0 (by decide) fun f h => h.s3_zero rfl

/-- Settles O3: logic is the model's own; a shift or a rotate of a value is that of the word, bit by bit. -/
theorem logicAndShifts : Obligations.LogicAndShifts := by
  refine ⟨fun e he => ?_, fun e he => ?_, fun f => ⟨
    yields_of_issueValue (fun _ => rfl) fun _ => rfl, yields_of_issueValue (fun _ => rfl) fun _ => rfl,
    yields_of_issueValue (fun _ => rfl) fun _ => rfl, yields_of_issueValue (fun _ => rfl) fun _ => rfl,
    yields_of_issueValue (fun _ => rfl) fun _ => rfl, yields_of_issueValue (fun _ => rfl) fun _ => rfl,
    yieldsOp_of_shift (fun _ _ a k => (a * 2 ^ k : Nat)) (fun _ => rfl) fun _ a k _ => ofInt_shiftLeft a k,
    yieldsOp_of_shift (fun _ _ a k => (a / 2 ^ k : Nat)) (fun _ => rfl) fun _ a k _ => ofInt_shiftRight a k,
    yieldsOp_of_shift (fun _ a _ k => a / 2 ^ k) (fun _ => rfl) fun _ a k _ => ofInt_sshiftRight a k,
    yieldsOp_of_shift (fun n _ a k => rotl n a k) (fun _ => rfl) fun _ a _ hk => ofInt_rotl a hk,
    yieldsOp_of_shift (fun n _ a k => rotl n a ((n - k) % n)) (fun _ => rfl) fun _ a _ hk => ofInt_rotr a hk⟩⟩
  · fin_cases he <;> exact encodes_of (r := rLogic) (fun _ => rfl) rfl rfl 0 (by decide) fun f h =>
      ⟨h.mod_zero rfl, h.s2_zero_of_imm rfl⟩
  · fin_cases he <;> exact encodes_of (r := rShift) (fun _ => rfl) rfl rfl 0 (by decide) fun f h hf =>
      ⟨h.s2_zero_of_imm rfl (.inl hf), by simpa [ImmKind.ok, rShift] using h.imm (.inl hf)⟩

namespace Sys2Proof.Claims

theorem bitCounting : BitCounting := by
  refine ⟨fun e he => ?_, fun f => ⟨
    yieldsOp_of (fun n _ a _ _ => clzN n a) (fun _ => rfl) fun _ _ a _ => by rw [clzN_eq, BitVec.ofInt_natCast],
    yieldsOp_of (fun n _ a _ _ => ctzN n a) (fun _ => rfl) fun _ _ a _ => by rw [ctzN_eq, BitVec.ofInt_natCast],
    yieldsOp_of (fun n _ a _ _ => popcN n a) (fun _ => rfl) fun _ _ a _ => by rw [popcN_eq, BitVec.ofInt_natCast],
    ⟨fun n a _ => BitVec.ofNat n (brevN n a.toNat),
      yieldsOp_of (fun n _ a _ _ => brevN n a) (fun _ => rfl) fun _ _ _ _ => BitVec.ofInt_natCast ..,
      fun n _ a _ i hi => ?_⟩,
    ⟨fun n a _ => BitVec.ofNat n (bswapN n a.toNat),
      yieldsOp_of (fun n _ a _ _ => bswapN n a) (fun _ => rfl) fun _ _ _ _ => BitVec.ofInt_natCast ..,
      fun n _ a _ i j hi hj => ?_⟩⟩⟩
  · fin_cases he <;> exact encodes_of (r := rUnary) (fun _ => rfl) rfl rfl 0 (by decide) fun _ h => h.s2_zero rfl
  · rw [BitVec.getLsbD_ofNat, decide_eq_true hi, Bool.true_and, testBit_brevN n _ i hi]
    rfl
  · rw [BitVec.getLsbD_ofNat, decide_eq_true (by omega), Bool.true_and, testBit_bswapN _ hi hj]
    rfl

/-- The immediate of a bit field (R104), in the L form of an instruction that takes one. -/
theorem fieldImmediate {r : OpRule} {f : Fields} (h : FitsRule r f) (hr : r.imm = .field) (hs : r.immS2 = true)
    (hf : f.form = .l) :
    f.s2 = 0 ∧ f.s3 = 0 ∧ f.imm.toNat < 2 ^ 13 ∧ f.imm.toNat / 64 ≠ 0 ∧ f.imm.toNat / 64 ≤ 64 ∧
      f.imm.toNat % 64 + f.imm.toNat / 64 ≤ 64 := by
  have hi := h.imm (.inl hf)
  simp only [hr, ImmKind.ok, Bool.and_eq_true, decide_eq_true_eq, bne_iff_ne] at hi
  obtain ⟨⟨⟨hlt, hne⟩, hle⟩, hsum⟩ := hi
  exact ⟨h.s2_zero_of_imm hs (.inl hf), h.s3_zero_of_form (by simp [hf]), hlt, hne, hle, hsum⟩

theorem bitFields : BitFields := by
  refine ⟨?_, fun f => ?_⟩
  · simp only [List.forall_mem_cons]
    exact ⟨encodes_of (r := rBfx) (fun _ => rfl) rfl rfl 64 (by decide) fun f h =>
        ⟨fun e => absurd e (by decide), fieldImmediate h rfl rfl⟩,
      encodes_of (r := rBfx) (fun _ => rfl) rfl rfl 64 (by decide) fun f h =>
        ⟨fun e => absurd e (by decide), fieldImmediate h rfl rfl⟩,
      encodes_of (r := rBfi) (fun _ => rfl) rfl rfl 64 (by decide) fun f h =>
        ⟨fun _ => by simpa [Role.ok, rBfi] using h.rd, fieldImmediate h rfl rfl⟩, List.forall_mem_nil _⟩
  · intro pos wide hform
    have himm : immForS2 rBfx f = decide (f.form = .l) := by rcases hform with h | h <;> rw [immForS2, h] <;> rfl
    have hpos (l : Lane) : fieldPos rBfx f l = pos l := by
      rw [fieldPos, himm]
      exact if_congr decide_eq_true_iff rfl rfl
    have hwide (l : Lane) : fieldWidth rBfx f l = wide l := by
      rw [fieldWidth, himm, hpos]
      exact congrArg (min · _) (if_congr decide_eq_true_iff rfl rfl)
    have hbase (l : Lane) : fieldPos rBfi f l = pos l ∧ fieldWidth rBfi f l = wide l := ⟨hpos l, hwide l⟩
    refine ⟨⟨_, yields_of_issueValue (fun _ => rfl) fun _ => rfl, fun l i hi => ?_⟩,
      ⟨_, yields_of_issueValue (fun _ => rfl) fun _ => rfl, fun l i hi => ?_⟩,
      ⟨fun l => BitVec.ofNat 64 (insertField (l.thread.reg f.rd).val.toNat l.a.toNat (pos l) (wide l)),
        runs_of (fun _ => rfl) fun g l ht hh hn => ?_, fun l i hi => ?_⟩,
      traps_alone_of (fun _ => rfl) fun s l tr _ _ hy => ?_⟩
    · simp only [hpos, hwide]
      split_ifs with h0
      · simp [h0]
      · have h1 := Nat.pos_of_ne_zero h0
        rw [getLsbD_signedField _ h1 hi, decide_eq_true h1]
        rfl
    · rw [hpos, hwide, BitVec.getLsbD_ofNat, testBit_bitsAt, decide_eq_true hi]
      rfl
    · refine lane_value ?_ hh ht.symm
      simp only [hn, hbase l, Bool.false_eq_true, if_false]
    · rw [BitVec.getLsbD_ofNat, decide_eq_true hi, testBit_insertField]
      rfl
    · split_ifs at hy with hp
      cases hy
      simp only [hp, if_true]

theorem minimumMaximumSelection : MinimumMaximumSelection := by
  refine ⟨fun e he => ?_, encodes_of (r := rUnary) (fun _ => rfl) rfl rfl 0 (by decide) fun _ h => h.s2_zero rfl,
    encodes_of (r := rSel) (fun _ => rfl) rfl rfl 0 (by decide) fun _ h => h.mod_zero rfl, fun f =>
    ⟨yieldsOp_of (fun _ a _ b _ => min a b) (fun _ => rfl) fun _ _ => ofInt_min_toInt,
      yieldsOp_of (fun _ a _ b _ => max a b) (fun _ => rfl) fun _ _ => ofInt_max_toInt,
      yieldsOp_of (fun _ _ a _ b => (min a b : Nat)) (fun _ => rfl) fun _ _ => ofInt_min_toNat,
      yieldsOp_of (fun _ _ a _ b => (max a b : Nat)) (fun _ => rfl) fun _ _ => ofInt_max_toNat,
      yieldsOp_of (fun _ a _ _ _ => a.natAbs) (fun _ => rfl) fun _ _ a _ => ofInt_natAbs a,
      yields_of_issueValue (fun _ => rfl) fun _ => ite_not ..⟩⟩
  fin_cases he <;> exact encodes_of (r := rAlu) (fun _ => rfl) rfl rfl 0 (by decide) fun _ h => h.s3_zero rfl

theorem encodes_cmpi : Encodes .cmpi 0x028 [.l, .x] (fun f => f.mod.toNat % 16 ≤ 10 ∧
    (f.mod.toNat % 16 = 0 → f.s1 = 0 ∧ f.s2 = 0 ∧ f.imm = 0)) := by
  refine encodes_of (r := rCmpi) (fun _ => rfl) rfl rfl 0 (by decide) fun f h => ⟨(h.cond rfl).1, fun h0 => ?_⟩
  obtain ⟨h1, h2⟩ := (h.cond rfl).2 h0
  have hi := h.imm (by simpa [rCmpi] using h.form)
  simp only [rCmpi, ImmKind.ok, Fields.cond, h0, bne_self_eq_false, Bool.false_or, beq_iff_eq] at hi
  exact ⟨h1, h2, BitVec.eq_of_toNat_eq hi⟩

theorem comparisonAndMoves : ComparisonAndMoves := by
  have hcond (f : Fields) (l : Lane) (x : Word) : wordOfBool (condWords f.cond f.w l.a x) =
      if condAt (f.mod.toNat % 16) f.w l.a x then 1 else 0 := by rw [condWords_eq_condAt]; rfl
  have hsext (n : Nat) (l : Lane) : wordOfInt (sextN l.a.toNat n) = (l.a.setWidth n).signExtend 64 := by
    rw [sextN_eq, BitVec.ofNat_toNat]
    rfl
  have hzext (n : Nat) (l : Lane) : BitVec.ofNat 64 (l.a.toNat % 2 ^ n) = (l.a.setWidth n).setWidth 64 := by
    rw [← BitVec.toNat_setWidth, BitVec.ofNat_toNat]
  refine ⟨encodes_of (r := rCmp) (fun _ => rfl) rfl rfl 0 (by decide) fun f h =>
      ⟨(h.cond rfl).1, fun hf => (h.short hf).2, (h.cond rfl).2⟩, encodes_cmpi, fun e he => ?_, fun f =>
    ⟨yields_of_issueValue (fun _ => rfl) fun l => hcond f l l.b,
      yields_of_issueValue (fun _ => rfl) fun l => hcond f l _,
      yields_of_issueValue (fun _ => rfl) fun _ => rfl, yields_of_issueValue (fun _ => rfl) (hsext 8),
      yields_of_issueValue (fun _ => rfl) (hsext 16), yields_of_issueValue (fun _ => rfl) (hsext 32),
      yields_of_issueValue (fun _ => rfl) (hzext 8), yields_of_issueValue (fun _ => rfl) (hzext 16),
      yields_of_issueValue (fun _ => rfl) (hzext 32)⟩⟩
  fin_cases he <;> exact encodes_of (r := rMov) (fun _ => rfl) rfl rfl 0 (by decide) fun _ h => h.s2_zero rfl

end Sys2Proof.Claims

/-- Settles O4: the model's counts and fields, on numbers, have the bits that the rules name. -/
theorem bitCountingAndFields : Obligations.BitCountingAndFields := ⟨bitCounting, bitFields⟩

/-- Settles O5: selections and comparisons of values are those of words; the extensions are the library's. -/
theorem selectionComparisonAndMoves : Obligations.SelectionComparisonAndMoves :=
  ⟨minimumMaximumSelection, comparisonAndMoves⟩

end

section
/-! SUPPORT. Rounding to integers (R112, R114, R136, R137, R139, R141): the value of a pattern by its fields, a number
that a format holds rounded to itself, and a magnitude rounded to a whole number. -/

namespace Sys2Proof.Machine

open Sys2Proof.Claims

/-! ### Finite values (R112) -/

theorem two_pow_eb {fm : FFmt} (heb : 0 < fm.eb) : 2 ^ fm.eb = 2 * (fm.bias + 1) := by
  have hb : fm.bias + 1 = 2 ^ (fm.eb - 1) := Nat.sub_add_cancel (Nat.two_pow_pos _)
  rw [hb, ← Nat.pow_succ']
  congr 1
  omega

/-- What a pattern of a finite value holds. -/
theorem decode_fin {fm : FFmt} (heb : 1 < fm.eb) {p : Nat} {n : Bool} {m : Nat} {e : Int}
    (h : fm.decode p = .fin n m e) :
    n = bitAt p (fm.eb + fm.fb) ∧ m < 2 ^ (fm.fb + 1) ∧ e ≤ fm.bias - fm.fb := by
  have hfrac : bitsAt p 0 fm.fb < 2 ^ fm.fb := Nat.mod_lt _ (Nat.two_pow_pos _)
  have hex : bitsAt p fm.fb fm.eb < 2 ^ fm.eb := Nat.mod_lt _ (Nat.two_pow_pos _)
  have hpow := two_pow_eb (fm := fm) (by omega)
  have hbias : 1 ≤ fm.bias := by
    have := Nat.pow_le_pow_right (show 0 < 2 by decide) heb
    omega
  rw [Nat.pow_succ']
  unfold FFmt.decode at h
  simp only at h
  split_ifs at h with h1 h2 h3
  · cases h
    exact ⟨rfl, by omega, by rw [FFmt.emin]; omega⟩
  · cases h
    exact ⟨rfl, by omega, by rw [FFmt.emin]; omega⟩

section

variable {fm : FFmt} (n : Bool) {k frac : Nat}

/-- A pattern by its fields (R112). -/
def fieldsPattern (fm : FFmt) (n : Bool) (ex frac : Nat) : Nat := 2 ^ fm.fb * (2 ^ fm.eb * n.toNat + ex) + frac

theorem signed_eq (fm : FFmt) (n : Bool) (ex frac : Nat) :
    fm.signed n (2 ^ fm.fb * ex + frac) = fieldsPattern fm n ex frac := by
  rw [FFmt.signed, fieldsPattern, pow_add]
  cases n
  · simp
  · simp; ring

theorem fields_fieldsPattern {ex : Nat} (hex : ex < 2 ^ fm.eb) (hf : frac < 2 ^ fm.fb) :
    bitsAt (fieldsPattern fm n ex frac) 0 fm.fb = frac ∧ bitsAt (fieldsPattern fm n ex frac) fm.fb fm.eb = ex ∧
      bitAt (fieldsPattern fm n ex frac) (fm.eb + fm.fb) = n ∧ fieldsPattern fm n ex frac < 2 ^ fm.width := by
  have hdiv : fieldsPattern fm n ex frac / 2 ^ fm.fb = 2 ^ fm.eb * n.toNat + ex := by
    rw [fieldsPattern, Nat.mul_add_div (Nat.two_pow_pos _), Nat.div_eq_of_lt hf, Nat.add_zero]
  have hdiv' : (2 ^ fm.eb * n.toNat + ex) / 2 ^ fm.eb = n.toNat := by
    rw [Nat.mul_add_div (Nat.two_pow_pos _), Nat.div_eq_of_lt hex, Nat.add_zero]
  refine ⟨?_, ?_, ?_, ?_⟩
  · rw [bitsAt_zero, fieldsPattern, Nat.mul_add_mod, Nat.mod_eq_of_lt hf]
  · rw [bitsAt, hdiv, Nat.mul_add_mod, Nat.mod_eq_of_lt hex]
  · rw [bitAt, Nat.add_comm fm.eb, pow_add, ← Nat.div_div_eq_div_mul, hdiv, hdiv']
    cases n <;> rfl
  · have hw : 2 ^ fm.width = 2 * 2 ^ fm.eb * 2 ^ fm.fb := by rw [FFmt.width]; ring
    rw [hw, ← Nat.div_lt_iff_lt_mul (Nat.two_pow_pos _), hdiv, ← Nat.div_lt_iff_lt_mul (Nat.two_pow_pos _), hdiv']
    exact n.toNat_lt

/-- A zero (R112). -/
theorem stands_zero (heb : 0 < fm.eb) (n : Bool) :
    Stands fm (fm.signed n 0) 0 ∧ bitAt (fm.signed n 0) (fm.eb + fm.fb) = n := by
  obtain ⟨h1, h2, h3, h4⟩ := fields_fieldsPattern (fm := fm) n (Nat.two_pow_pos fm.eb) (Nat.two_pow_pos fm.fb)
  have h5 := Nat.one_lt_two_pow heb.ne'
  rw [show fm.signed n 0 = fieldsPattern fm n 0 0 from signed_eq fm n 0 0]
  refine ⟨⟨h4, ?_⟩, h3⟩
  simp only [FFmt.decode, h1, h2, h3, if_neg (show ¬ 0 = 2 ^ fm.eb - 1 by omega), if_true, realOf]
  simp

/-- A normal value (R112): the exponent field is k + 1, and M is the significand. -/
theorem stands_normal {M : Nat} (hM : 2 ^ fm.fb ≤ M) (hM' : M < 2 ^ (fm.fb + 1)) (hk : k + 2 < 2 ^ fm.eb) :
    Stands fm (fm.signed n (k * 2 ^ fm.fb + M)) ((if n then -1 else 1) * M * (2 : ℝ) ^ (fm.emin - fm.fb + k)) ∧
      bitAt (fm.signed n (k * 2 ^ fm.fb + M)) (fm.eb + fm.fb) = n := by
  obtain ⟨frac, rfl⟩ := Nat.exists_eq_add_of_le hM
  rw [Nat.pow_succ] at hM'
  obtain ⟨h1, h2, h3, h4⟩ := fields_fieldsPattern (fm := fm) n (ex := k + 1) (frac := frac) (by omega) (by omega)
  rw [show k * 2 ^ fm.fb + (2 ^ fm.fb + frac) = 2 ^ fm.fb * (k + 1) + frac by ring, signed_eq]
  refine ⟨⟨h4, ?_⟩, h3⟩
  simp only [FFmt.decode, h1, h2, h3, if_neg (show ¬ k + 1 = 2 ^ fm.eb - 1 by omega), if_neg (Nat.succ_ne_zero k),
    realOf]
  rw [show fm.emin - ↑fm.fb + ↑(k + 1) - 1 = fm.emin - fm.fb + k by push_cast; ring]

end

/-! ### Exact rounding (R114) -/

/-- A number that is a multiple of the unit is rounded to itself. -/
theorem roundAt_exact (mode : RMode) (neg : Bool) {m M : Nat} {e q : Int} (h : (m : ℝ) * 2 ^ e = M * 2 ^ q) :
    roundAt mode neg m e q = (M, false) := by
  have h2 : (2 : ℝ) ≠ 0 := two_ne_zero
  rw [roundAt]
  split_ifs with hq
  · have hM : M = m * 2 ^ (e - q).toNat := by
      rw [← Nat.cast_inj (R := ℝ)]
      push_cast
      rw [← zpow_natCast, Int.toNat_of_nonneg (by omega), zpow_sub₀ h2, ← mul_div_assoc, h,
        mul_div_cancel_right₀ _ (zpow_ne_zero _ h2)]
    rw [hM]
  · have hm : m = 2 ^ (q - e).toNat * M := by
      rw [← Nat.cast_inj (R := ℝ)]
      push_cast
      rw [← zpow_natCast, Int.toNat_of_nonneg (by omega), zpow_sub₀ h2, div_mul_eq_mul_div, mul_comm _ (M : ℝ), ← h,
        mul_div_cancel_right₀ _ (zpow_ne_zero _ h2)]
    have hup : roundsUp mode neg M 0 (q - e).toNat = false := by cases mode <;> simp [roundsUp]
    rw [hm]
    simp only [Nat.mul_div_cancel_left _ (Nat.two_pow_pos _), Nat.mul_mod_right, hup]
    rfl

/-- The place of the highest bit of a magnitude. -/
theorem log2_of_normal {m M fb : Nat} {e t : Int} (hM : 2 ^ fb ≤ M) (hM' : M < 2 ^ (fb + 1))
    (h : (m : ℝ) * 2 ^ e = M * 2 ^ (t - fb)) : e + m.log2 = t := by
  have h1 : (1 : ℝ) < 2 := one_lt_two
  have hpow (a : ℕ) (b : Int) : (2 : ℝ) ^ a * 2 ^ b = 2 ^ (a + b) := by rw [← zpow_natCast, ← zpow_add₀ two_ne_zero]
  have hm : m ≠ 0 := by
    rintro rfl
    have : 0 < (M : ℝ) * 2 ^ (t - fb) := by
      have : 0 < M := (Nat.two_pow_pos fb).trans_le hM
      positivity
    rw [Nat.cast_zero, zero_mul] at h
    exact absurd h this.ne
  have hlow : (2 : ℝ) ^ (m.log2 + e) ≤ m * 2 ^ e := by
    rw [← hpow]
    gcongr
    exact_mod_cast Nat.log2_self_le hm
  have hhigh : (m : ℝ) * 2 ^ e < 2 ^ (((m.log2 + 1 : ℕ) : Int) + e) := by
    rw [← hpow]
    gcongr
    exact_mod_cast Nat.lt_log2_self
  have hlow' : (2 : ℝ) ^ (fb + (t - fb)) ≤ M * 2 ^ (t - fb) := by
    rw [← hpow]
    gcongr
    exact_mod_cast hM
  have hhigh' : (M : ℝ) * 2 ^ (t - fb) < 2 ^ (((fb + 1 : ℕ) : Int) + (t - fb)) := by
    rw [← hpow]
    gcongr
    exact_mod_cast hM'
  have ht := (zpow_lt_zpow_iff_right₀ h1).1 ((hlow.trans_eq h).trans_lt hhigh')
  have ht' := (zpow_lt_zpow_iff_right₀ h1).1 ((hlow'.trans_eq h.symm).trans_lt hhigh)
  omega

/-- A nonzero number that a format holds is rounded to itself, and raises no flag. -/
theorem round_exact {fm : FFmt} (heb : 0 < fm.eb) (mode : RMode) (neg : Bool) {m M : Nat} {e t : Int}
    (hM : 2 ^ fm.fb ≤ M) (hM' : M < 2 ^ (fm.fb + 1)) (ht : fm.emin ≤ t) (ht' : t ≤ fm.bias)
    (h : (m : ℝ) * 2 ^ e = M * 2 ^ (t - fm.fb)) :
    fm.round mode neg m e = (fm.signed neg ((t - fm.emin).toNat * 2 ^ fm.fb + M), 0) := by
  have hlog := log2_of_normal hM hM' h
  have hround := roundAt_exact mode neg h
  have hmag : roundMag fm.emin fm.fb mode neg m e = ((t - fm.emin).toNat * 2 ^ fm.fb + M, false, false) := by
    simp only [roundMag, hlog, max_eq_left ht, hround, sub_add_cancel]
    simp [ht]
  have hmax : (t - fm.emin).toNat * 2 ^ fm.fb + M ≤ fm.maxMag := by
    have hk : (t - fm.emin).toNat + 2 ≤ 2 ^ fm.eb - 1 := by
      have := two_pow_eb heb
      rw [FFmt.emin] at ht ⊢
      omega
    have := Nat.mul_le_mul_right (2 ^ fm.fb) hk
    rw [FFmt.maxMag, FFmt.infMag]
    rw [Nat.add_mul] at this
    omega
  unfold FFmt.round
  rw [hmag]
  exact if_neg (not_lt.2 hmax)

/-- A number of a format's precision has its first bit at a place of its own. -/
theorem exists_normal {fb m : Nat} (e : Int) (hm : m ≠ 0) (hm' : m < 2 ^ (fb + 1)) :
    ∃ M : Nat, 2 ^ fb ≤ M ∧ M < 2 ^ (fb + 1) ∧ (m : ℝ) * 2 ^ e = M * 2 ^ (e + m.log2 - fb) := by
  have hlog : m.log2 < fb + 1 := (Nat.log2_lt hm).2 hm'
  have hsplit : m.log2 + (fb - m.log2) = fb := by omega
  refine ⟨m * 2 ^ (fb - m.log2), ?_, ?_, ?_⟩
  · calc 2 ^ fb = 2 ^ m.log2 * 2 ^ (fb - m.log2) := by rw [← pow_add, hsplit]
      _ ≤ _ := Nat.mul_le_mul_right _ (Nat.log2_self_le hm)
  · calc m * 2 ^ (fb - m.log2) < 2 ^ (m.log2 + 1) * 2 ^ (fb - m.log2) :=
          Nat.mul_lt_mul_of_pos_right Nat.lt_log2_self (Nat.two_pow_pos _)
      _ = 2 ^ (fb + 1) := by rw [← pow_add]; congr 1; omega
  · push_cast
    rw [mul_assoc, ← zpow_natCast, ← zpow_add₀ two_ne_zero]
    congr 2
    omega

/-! ### Rounding to an integer (R114, R139, R141) -/

/-- The whole number that a magnitude x of a sign rounds to in a mode (R114). -/
def RoundsMag (mode : RMode) (neg : Bool) (x : ℝ) (r : Nat) : Prop :=
  match mode with
  | .rtz => r ≤ x ∧ x < r + 1
  | .rdn => if neg then x ≤ r ∧ r < x + 1 else r ≤ x ∧ x < r + 1
  | .rup => if neg then r ≤ x ∧ x < r + 1 else x ≤ r ∧ r < x + 1
  | .rne => 2 * |x - r| ≤ 1 ∧ (2 * |x - r| = 1 → r % 2 = 0)
  | .rmm => 2 * |x - r| ≤ 1 ∧ (2 * |x - r| = 1 → x < r)

/-- A whole number is rounded to itself. -/
theorem roundsMag_exact (mode : RMode) (neg : Bool) (n : Nat) : RoundsMag mode neg n n := by
  cases mode <;> cases neg <;> simp [RoundsMag]

/-- A whole number n with a fraction, rounded as the fraction's place among the halves says. -/
theorem roundsMag_roundsUp (mode : RMode) (neg : Bool) (n : Nat) {rem d : Nat} (h0 : rem ≠ 0) (hrem : rem < 2 ^ d) :
    RoundsMag mode neg (n + (rem : ℝ) / 2 ^ d) (if roundsUp mode neg n rem d then n + 1 else n : Nat) := by
  have hpos : (0 : ℝ) < 2 ^ d := by positivity
  have hlt : (rem : ℝ) / 2 ^ d < 1 := (div_lt_one hpos).2 (by exact_mod_cast hrem)
  have hgt : 0 < (rem : ℝ) / 2 ^ d := by have := Nat.pos_of_ne_zero h0; positivity
  have hhalf : 2 ^ d < 2 * rem ↔ 1 < 2 * ((rem : ℝ) / 2 ^ d) := by
    rw [← mul_div_assoc, one_lt_div hpos]; exact_mod_cast Iff.rfl
  have heq : 2 * rem = 2 ^ d ↔ 2 * ((rem : ℝ) / 2 ^ d) = 1 := by
    rw [← mul_div_assoc, div_eq_one_iff_eq hpos.ne']; exact_mod_cast Iff.rfl
  have hle : 2 ^ d ≤ 2 * rem ↔ 1 ≤ 2 * ((rem : ℝ) / 2 ^ d) := by
    rw [← mul_div_assoc, one_le_div hpos]; exact_mod_cast Iff.rfl
  have hdown : |n + (rem : ℝ) / 2 ^ d - n| = (rem : ℝ) / 2 ^ d := by rw [add_sub_cancel_left, abs_of_pos hgt]
  have hup : |n + (rem : ℝ) / 2 ^ d - (n + 1 : ℕ)| = 1 - (rem : ℝ) / 2 ^ d := by
    push_cast
    rw [add_sub_add_left_eq_sub, abs_of_neg (by linarith), neg_sub]
  have hbelow : (n : ℝ) ≤ n + (rem : ℝ) / 2 ^ d ∧ n + (rem : ℝ) / 2 ^ d < n + 1 := ⟨by linarith, by linarith⟩
  have habove : n + (rem : ℝ) / 2 ^ d ≤ (n + 1 : ℕ) ∧ (n + 1 : ℕ) < n + (rem : ℝ) / 2 ^ d + 1 := by
    push_cast
    exact ⟨by linarith, by linarith⟩
  generalize (rem : ℝ) / 2 ^ d = x at *
  cases mode with
  | rtz => exact hbelow
  | rdn =>
    have hneg : roundsUp .rdn neg n rem d = neg := by simp [roundsUp, h0]
    rw [hneg]
    cases neg with
    | false => exact hbelow
    | true => exact habove
  | rup =>
    have hneg : roundsUp .rup neg n rem d = !neg := by simp [roundsUp, h0]
    rw [hneg]
    cases neg with
    | false => exact habove
    | true => exact hbelow
  | rne =>
    simp only [RoundsMag, roundsUp, Bool.or_eq_true, Bool.and_eq_true, decide_eq_true_eq, beq_iff_eq, hhalf, heq,
      bne_iff_ne]
    split_ifs with h
    · rw [hup]
      refine ⟨?_, fun h1 => ?_⟩
      · rcases h with h | ⟨⟨h, -⟩, -⟩ <;> linarith
      · rcases h with h | ⟨⟨-, h⟩, -⟩
        · linarith
        · omega
    · rw [hdown]
      exact ⟨le_of_not_gt fun hx => h (.inl hx), fun h1 => by_contra fun h2 => h (.inr ⟨⟨h1, by omega⟩, h0⟩)⟩
  | rmm =>
    simp only [RoundsMag, roundsUp, Bool.and_eq_true, decide_eq_true_eq, hle, bne_iff_ne]
    split_ifs with h
    · rw [hup]
      exact ⟨by linarith [h.1], fun _ => by push_cast; linarith⟩
    · rw [hdown]
      have h1 : 2 * x < 1 := by by_contra hx; exact h ⟨not_lt.1 hx, h0⟩
      exact ⟨h1.le, fun h2 => absurd h2 h1.ne⟩

/-- What a magnitude rounds to at unit 1, and whether it is exact. -/
theorem roundAt_integer (mode : RMode) (neg : Bool) (m : Nat) (e : Int) :
    RoundsMag mode neg (m * (2 : ℝ) ^ e) (roundAt mode neg m e 0).1 ∧
      ((roundAt mode neg m e 0).2 = false ↔ ((roundAt mode neg m e 0).1 : ℝ) = m * (2 : ℝ) ^ e) := by
  by_cases hex : ∃ M : Nat, (m : ℝ) * 2 ^ e = M
  · obtain ⟨M, hM⟩ := hex
    rw [roundAt_exact mode neg (M := M) (by rw [hM, zpow_zero, mul_one]), hM]
    exact ⟨roundsMag_exact mode neg M, by simp⟩
  · have he : e < 0 := by
      by_contra he
      refine hex ⟨m * 2 ^ e.toNat, ?_⟩
      push_cast
      rw [← zpow_natCast, Int.toNat_of_nonneg (not_lt.1 he)]
    obtain ⟨d, rfl⟩ : ∃ d : Nat, e = -d := ⟨(-e).toNat, by omega⟩
    have hx : (m : ℝ) * 2 ^ (-(d : Int)) = (m / 2 ^ d : ℕ) + ((m % 2 ^ d : ℕ) : ℝ) / 2 ^ d := by
      rw [zpow_neg, zpow_natCast, ← div_eq_mul_inv, div_eq_iff (by positivity), add_mul,
        div_mul_cancel₀ _ (by positivity)]
      exact_mod_cast (Nat.div_add_mod' m (2 ^ d)).symm
    have h0 : m % 2 ^ d ≠ 0 := fun h0 => hex ⟨m / 2 ^ d, by rw [hx, h0, Nat.cast_zero, zero_div, add_zero]⟩
    have hd : (0 - -(d : Int)).toNat = d := by omega
    simp only [roundAt, if_neg (not_le.2 he), hd]
    rw [hx]
    exact ⟨roundsMag_roundsUp mode neg _ h0 (Nat.mod_lt _ (Nat.two_pow_pos d)), by simp [h0],
      fun h => absurd ⟨_, hx.trans h.symm⟩ hex⟩

theorem RoundsMag.lt_succ {mode : RMode} {neg : Bool} {x : ℝ} {r : Nat} (h : RoundsMag mode neg x r) : r < x + 1 := by
  cases mode with
  | rtz => exact h.1.trans_lt (lt_add_one x)
  | rdn =>
    cases neg with
    | false => exact h.1.trans_lt (lt_add_one x)
    | true => exact h.2
  | rup =>
    cases neg with
    | false => exact h.2
    | true => exact h.1.trans_lt (lt_add_one x)
  | rne => linarith [abs_le.1 (by linarith [h.1] : |x - r| ≤ 1 / 2)]
  | rmm => linarith [abs_le.1 (by linarith [h.1] : |x - r| ≤ 1 / 2)]

/-- A whole number that a magnitude rounds to is, with its sign, the integer that the value rounds to. -/
theorem roundsToInt_of_mag {mode : RMode} {neg : Bool} {x : ℝ} {r : Nat} (hx : 0 ≤ x) (h : RoundsMag mode neg x r) :
    RoundsToInt mode ((if neg then -1 else 1) * x) (if neg then -(r : Int) else r) := by
  have hr : (0 : ℝ) ≤ r := r.cast_nonneg
  cases neg with
  | false =>
    simp only [Bool.false_eq_true, if_false, one_mul]
    cases mode with
    | rtz =>
      simp only [RoundsToInt, Int.cast_natCast, abs_of_nonneg hx, abs_of_nonneg hr]
      exact ⟨h.1, h.2, mul_nonneg hr hx⟩
    | rdn => exact (Int.floor_eq_iff.2 (by simpa [RoundsMag] using h)).symm
    | rup => exact (Int.ceil_eq_iff.2 (by simpa [RoundsMag, sub_lt_iff_lt_add, and_comm] using h)).symm
    | rne =>
      simp only [RoundsToInt, Int.cast_natCast]
      exact ⟨h.1, fun h1 => by have := h.2 h1; omega⟩
    | rmm =>
      simp only [RoundsToInt, Int.cast_natCast, abs_of_nonneg hx, abs_of_nonneg hr]
      exact h
  | true =>
    have hsub : |-x - -(r : ℝ)| = |x - r| := by rw [← abs_neg]; congr 1; ring
    simp only [if_true, neg_one_mul]
    cases mode with
    | rtz =>
      simp only [RoundsToInt, Int.cast_neg, Int.cast_natCast, abs_neg, abs_of_nonneg hx, abs_of_nonneg hr]
      exact ⟨h.1, h.2, by rw [neg_mul_neg]; exact mul_nonneg hr hx⟩
    | rdn =>
      refine (Int.floor_eq_iff.2 ?_).symm
      obtain ⟨h1, h2⟩ : x ≤ r ∧ r < x + 1 := by simpa [RoundsMag] using h
      push_cast
      constructor <;> linarith
    | rup =>
      refine (Int.ceil_eq_iff.2 ?_).symm
      obtain ⟨h1, h2⟩ : r ≤ x ∧ x < r + 1 := by simpa [RoundsMag] using h
      push_cast
      constructor <;> linarith
    | rne =>
      simp only [RoundsToInt, Int.cast_neg, Int.cast_natCast, hsub]
      exact ⟨h.1, fun h1 => by have := h.2 h1; omega⟩
    | rmm =>
      simp only [RoundsToInt, Int.cast_neg, Int.cast_natCast, hsub, abs_neg, abs_of_nonneg hx, abs_of_nonneg hr]
      exact h

/-- An integer with the sign of a value. -/
def withSign (neg : Bool) (r : Nat) : Int := if neg then -(r : Int) else r

theorem roundAt_zero (mode : RMode) (neg : Bool) (e : Int) : (roundAt mode neg 0 e 0).1 = 0 := by
  rw [roundAt_exact mode neg (M := 0) (by simp)]

/-- A finite value converted to an integer of bounds about 0 (R139). -/
theorem toInteger_fin (mode : RMode) {lo hi : Int} (hlo : lo ≤ 0) (hhi : 0 < hi) (n : Bool) (m : Nat) (e : Int) :
    let z := withSign n (roundAt mode n m e 0).1
    let x : ℝ := (if n then -1 else 1) * m * 2 ^ e
    toInteger mode lo hi (.fin n m e) =
      if z < lo ∨ hi < z then (if x < 0 then lo else hi, xNV) else (z, if (z : ℝ) = x then 0 else xNX) := by
  intro z x
  have hx0 : 0 ≤ (m : ℝ) * 2 ^ e := by positivity
  have hx : x = (if n then -1 else 1) * ((m : ℝ) * 2 ^ e) := mul_assoc ..
  have hz : (z : ℝ) = x ↔ (roundAt mode n m e 0).2 = false := by
    rw [(roundAt_integer mode n m e).2, hx]
    cases n <;> simp [z, withSign]
  have hneg : z < lo → x < 0 := fun h => by
    cases n with
    | false => simp [z, withSign] at h; omega
    | true =>
      have hm : m ≠ 0 := by
        rintro rfl
        simp [z, withSign, roundAt_zero] at h
        omega
      have : 0 < (m : ℝ) * 2 ^ e := by have := Nat.pos_of_ne_zero hm; positivity
      rw [hx, if_pos rfl]
      linarith
  have hpos : hi < z → n = false ∧ ¬ x < 0 := fun h => by
    cases n with
    | false => exact ⟨rfl, by rw [hx]; simpa using hx0⟩
    | true => simp [z, withSign] at h; omega
  have hdef : toInteger mode lo hi (.fin n m e) = if z < lo then (lo, xNV)
      else if hi < z then (if n then lo else hi, xNV) else (z, if (roundAt mode n m e 0).2 then xNX else 0) := rfl
  rw [hdef]
  by_cases h1 : z < lo
  · rw [if_pos h1, if_pos (.inl h1), if_pos (hneg h1)]
  · rw [if_neg h1]
    by_cases h2 : hi < z
    · obtain ⟨hn, hx⟩ := hpos h2
      rw [if_pos h2, hn, if_pos (Or.inr h2), if_neg hx]
      rfl
    · rw [if_neg h2, if_neg (not_or.2 ⟨h1, h2⟩)]
      simp only [hz]
      cases (roundAt mode n m e 0).2 <;> rfl

/-- A whole number that a format's value rounds to has a place in the format. -/
theorem exists_precise {fm : FFmt} {mode : RMode} {n : Bool} {m : Nat} {e : Int} (hfb : fm.fb ≤ fm.bias)
    (hm : m < 2 ^ (fm.fb + 1)) (he : e ≤ fm.bias - fm.fb) :
    ∃ (k : Nat) (g : Int), k < 2 ^ (fm.fb + 1) ∧ 0 ≤ g ∧ g ≤ fm.bias - fm.fb ∧
      ((roundAt mode n m e 0).1 : ℝ) = k * 2 ^ g := by
  by_cases h0 : 0 ≤ e
  · refine ⟨m, e, hm, h0, he, ?_⟩
    have hex : (m : ℝ) * 2 ^ e = (m * 2 ^ e.toNat : ℕ) * 2 ^ (0 : Int) := by
      push_cast
      rw [← zpow_natCast, Int.toNat_of_nonneg h0, zpow_zero, mul_one]
    rw [roundAt_exact mode n hex, hex, zpow_zero, mul_one]
  · refine ⟨(roundAt mode n m e 0).1, 0, ?_, le_rfl, by omega, by rw [zpow_zero, mul_one]⟩
    have hlt := (roundAt_integer mode n m e).1.lt_succ
    have hhalf : (m : ℝ) * 2 ^ e ≤ m * 2 ^ (-1 : Int) := by
      gcongr
      · exact one_le_two
      · omega
    have hm' : (m : ℝ) < 2 ^ (fm.fb + 1) := by exact_mod_cast hm
    have hr : ((roundAt mode n m e 0).1 : ℝ) < 2 ^ fm.fb + 1 := by
      rw [zpow_neg_one] at hhalf
      rw [pow_succ] at hm'
      linarith
    have hr' : (roundAt mode n m e 0).1 < 2 ^ fm.fb + 1 := by exact_mod_cast hr
    have := Nat.one_le_two_pow (n := fm.fb)
    rw [Nat.pow_succ]
    omega

/-- A finite value rounded to an integral value (R141). -/
theorem integral_fin {fm : FFmt} (mode : RMode) {n : Bool} {m : Nat} {e : Int} (heb : 1 < fm.eb) (hfb : fm.fb ≤ fm.bias)
    (hm : m < 2 ^ (fm.fb + 1)) (he : e ≤ fm.bias - fm.fb) :
    (fm.integral mode (.fin n m e)).2 = 0 ∧
      Stands fm (fm.integral mode (.fin n m e)).1 (withSign n (roundAt mode n m e 0).1) ∧
      bitAt (fm.integral mode (.fin n m e)).1 (fm.eb + fm.fb) = n := by
  obtain ⟨k, g, hk, hg, hg', hr⟩ := exists_precise (mode := mode) (n := n) hfb hm he
  have hdef : fm.integral mode (.fin n m e) = if (roundAt mode n m e 0).1 = 0 then (fm.signed n 0, 0)
      else ((fm.round .rne n (roundAt mode n m e 0).1 0).1, 0) := rfl
  rw [hdef]
  split_ifs with h0
  · obtain ⟨h1, h2⟩ := stands_zero (fm := fm) (by omega) n
    refine ⟨rfl, ?_, h2⟩
    rw [h0]
    simpa [withSign] using h1
  · have hk0 : k ≠ 0 := by
      rintro rfl
      rw [Nat.cast_zero, zero_mul] at hr
      exact h0 (by exact_mod_cast hr)
    obtain ⟨M, hM, hM', hkM⟩ := exists_normal g hk0 hk
    have hlog : k.log2 < fm.fb + 1 := (Nat.log2_lt hk0).2 hk
    have hbias := two_pow_eb (fm := fm) (by omega)
    have hbias' := Nat.pow_le_pow_right (show 0 < 2 by decide) heb
    have hlow : fm.emin ≤ g + k.log2 := by rw [FFmt.emin]; omega
    have hround := round_exact (by omega) .rne n hM hM' hlow (by omega) (m := (roundAt mode n m e 0).1) (e := 0)
      (by rw [zpow_zero, mul_one, hr, hkM])
    obtain ⟨h1, h2⟩ := stands_normal (fm := fm) n hM hM' (k := (g + k.log2 - fm.emin).toNat) (by
      rw [FFmt.emin] at hlow ⊢
      omega)
    rw [hround]
    refine ⟨rfl, ?_, h2⟩
    convert h1 using 1
    rw [Int.toNat_of_nonneg (by omega), show fm.emin - fm.fb + (g + k.log2 - fm.emin) = g + k.log2 - fm.fb by ring,
      mul_assoc, ← hkM, ← hr]
    cases n <;> simp [withSign]

end Sys2Proof.Machine

namespace Sys2Proof.Claims

open Sys2Proof.Machine

theorem rmode_eq_modeFor (f : Fields) (t : Thread) : t.rmode f = modeFor f t := by
  rw [Thread.rmode, modeFor]
  generalize (if f.mod.toNat % 8 = 0 then t.fmode.toNat % 8 else f.mod.toNat % 8) = code
  unfold rmodeOf
  split <;> simp_all

theorem mathTraps_eq_false (t : Thread) (x : Nat) : t.mathTraps x = false ↔ t.fmode.toNat / 2 ^ 12 % 32 &&& x = 0 := by
  rw [Thread.mathTraps, bne_eq_false_iff_eq]
  rfl

/-- A flag-raising operation completes, or traps MATH (R132). -/
theorem runs_traps_flagged {i : Instr} {r : OpRule} {f : Fields} {op : Lane → Word × Nat}
    (h : ∀ s, exec i s = issuePlain r f (fun s l => flagged s l (op l).1 (op l).2) s) :
    Runs i r f false true (fun _ l => l.thread.fmode.toNat / 2 ^ 12 % 32 &&& (op l).2 = 0)
      (fun k l => k.putThread (({ l with thread := { l.thread with
        fmode := l.thread.fmode ||| BitVec.ofNat 64 (16 * (op l).2) } } : Lane).got r f false (op l).1))
      (fun _ l => (op l).1) ∧
    TrapsAlone i r f false true (fun _ l => mathTrap (fun l => (0, (op l).2)) l) false := by
  refine ⟨?_, traps_alone_of h fun s l tr ht hh hy => ?_⟩
  · simp only [← mathTraps_eq_false]
    exact runs_flagged h
  · unfold mathTrap at hy
    split_ifs at hy with hm
    cases hy
    rw [← mathTraps_eq_false, Bool.not_eq_false] at hm
    simp only [flagged, hh, hm, if_true]
    rfl

theorem conversion_values : ∀ fm ∈ [fp64, fp32], ∀ (mode : RMode) (p : Nat) (lo hi : Int), lo ≤ 0 → 0 < hi →
    let a := fm.decode p
    (a.isNan = true → toInteger mode lo hi a = (0, xNV)) ∧
    (a.isInf = true → toInteger mode lo hi a = (if a.neg then lo else hi, xNV)) ∧
    ∀ x, realOf a = some x → ∃ z : Int, RoundsToInt mode x z ∧
      (toInteger mode lo hi a =
        if z < lo ∨ hi < z then (if x < 0 then lo else hi, xNV) else (z, if (z : ℝ) = x then 0 else xNX)) ∧
      (fm.integral mode a).2 = 0 ∧ Stands fm (fm.integral mode a).1 z ∧
      bitAt (fm.integral mode a).1 (fm.eb + fm.fb) = a.neg := by
  intro fm hfm mode p lo hi hlo hhi a
  have hfm' : 1 < fm.eb ∧ fm.fb ≤ fm.bias := by
    fin_cases hfm <;> decide
  obtain ⟨heb, hfb⟩ := hfm'
  cases ha : a with
  | nan sig => exact ⟨fun _ => rfl, fun h => absurd h Bool.false_ne_true, fun x h => by cases h⟩
  | inf n => exact ⟨fun h => absurd h Bool.false_ne_true, fun _ => rfl, fun x h => by cases h⟩
  | fin n m e =>
    refine ⟨fun h => absurd h Bool.false_ne_true, fun h => absurd h Bool.false_ne_true, fun x h => ?_⟩
    cases h
    obtain ⟨-, hm, he⟩ := decode_fin heb ha
    obtain ⟨h1, h2, h3⟩ := integral_fin (n := n) mode heb hfb hm he
    refine ⟨withSign n (roundAt mode n m e 0).1, ?_, toInteger_fin mode hlo hhi n m e, h1, h2, h3⟩
    rw [mul_assoc]
    exact roundsToInt_of_mag (by positivity) (roundAt_integer mode n m e).1

theorem cvtBounds_eq (u w : Bool) : cvtBounds u w = intBoundsFor u w := by
  cases u <;> cases w <;> simp [cvtBounds, intBoundsFor]

theorem val_eq_valueIn (fm : FFmt) (w : Word) : fm.val w = valueIn fm w := rfl

theorem res_eq (w : Bool) (z : Int) : res w z = if w then (BitVec.ofInt 32 z).signExtend 64 else BitVec.ofInt 64 z := by
  cases w
  · rw [res, if_neg Bool.false_ne_true, if_neg Bool.false_ne_true, wordOfInt]
  · exact res_low z

theorem integerOf_eq (fm : FFmt) (u : Bool) (f : Fields) (l : Lane) : integerOf fm u f l =
    let b := cvtBounds u f.fw
    let r := toInteger (l.thread.rmode f) b.1 b.2 (fm.val l.a)
    (res f.fw r.1, r.2) := by
  simp only [integerOf, res_eq, cvtBounds_eq, rmode_eq_modeFor, val_eq_valueIn]

theorem fcvti_eq (fm : FFmt) (u : Bool) (f : Fields) (s : State) : fcvti fm u f s =
    issuePlain rFcvti f (fun s l => flagged s l (integerOf fm u f l).1 (integerOf fm u f l).2) s := by
  simp only [fcvti, integerOf_eq]

theorem conversionToIntegers : ConversionToIntegers := by
  refine ⟨fun f => ?_, conversion_values⟩
  simp only [List.forall_mem_cons]
  exact ⟨runs_traps_flagged (op := integerOf fp64 false f) (fcvti_eq fp64 false f),
    runs_traps_flagged (op := integerOf fp32 false f) (fcvti_eq fp32 false f),
    runs_traps_flagged (op := integerOf fp64 true f) (fcvti_eq fp64 true f),
    runs_traps_flagged (op := integerOf fp32 true f) (fcvti_eq fp32 true f), List.forall_mem_nil _⟩

theorem fclass_eq (fm : FFmt) (w : Word) : 2 ^ fclass fm w =
    match valueIn fm w with
    | .inf neg => if neg then 1 else 128
    | .nan sig => if sig then 256 else 512
    | .fin neg m _ =>
      if m = 0 then if neg then 8 else 16
      else if m < 2 ^ fm.fb then if neg then 4 else 32
      else if neg then 2 else 64 := by
  unfold fclass
  change 2 ^ (match valueIn fm w with | .nan s => _ | .inf n => _ | .fin n m e => _) = _
  cases valueIn fm w with
  | nan sig => cases sig <;> rfl
  | inf n => cases n <;> rfl
  | fin n m e =>
    dsimp only
    split_ifs <;> rfl

theorem newSign_eq (code : Nat) (a b : Bool) : newSign code a b =
    match code with
    | 0 => b
    | 1 => !b
    | _ => a != b := by
  unfold newSign
  split
  · next h => subst h; rfl
  · split
    · next h => subst h; rfl
    · split <;> first | omega | rfl

theorem classAndSign : ClassAndSign := by
  intro f fm
  refine ⟨yields_of_issueValue (fun _ => rfl) fun l => congrArg _ (fclass_eq fm l.a),
    yields_of_issueValue (v := fun l => BitVec.ofNat 64 (fm.signed
      (newSign (f.mod.toNat / 64) (bitAt l.a.toNat (fm.eb + fm.fb)) (bitAt l.b.toNat (fm.eb + fm.fb)))
      (bitsAt l.a.toNat 0 (fm.eb + fm.fb)))) (fun _ => rfl) fun l => ?_⟩
  have hsigned (b : Bool) (x : Nat) : fm.signed b x = x + b.toNat * 2 ^ (fm.eb + fm.fb) := by
    cases b <;> simp [FFmt.signed, Nat.add_comm]
  have htop : fm.width - 1 = fm.eb + fm.fb := by rw [FFmt.width]; omega
  rw [hsigned, newSign_eq, bitAt_eq_testBit, bitAt_eq_testBit, bitsAt_zero]
  dsimp only
  rw [htop]
  rfl
end Sys2Proof.Claims

open Sys2Proof.Claims

/-- Settles O12: a magnitude's fraction says which whole number it rounds to, and the format holds that number. -/
theorem floatToIntegerClassAndSign : Obligations.FloatToIntegerClassAndSign := ⟨conversionToIntegers, classAndSign⟩

end

section
/-! ### The reset state (R422, R423) -/

open Sys2Proof Sys2Proof.Machine

/-- Only latency core 256 has an entry at reset, so every other latency core reads as halted. -/
theorem Sys2Proof.Machine.State.lcore_reset (core : Nat) : State.reset.lcore core =
    if core = 256 then { LCore.halted0 with cur := some Config.bootTid, halted := false } else LCore.halted0 := by
  by_cases hcore : core = 256
  · subst hcore
    rfl
  · simp [State.reset, State.lcore, tabGet, hcore, Ne.symm hcore]

/-- Settles O57: the tables of weft cores and contexts are empty at reset, and the one entry of latency core 256 tells
it from the others. -/
theorem resetValues : Obligations.ResetValues := by
  refine ⟨rfl, rfl, rfl, rfl, rfl, rfl, rfl, fun core => ?_, fun _ => rfl,
    ⟨Config.bootTid, Thread.boot, rfl, rfl, rfl, rfl, rfl, rfl, rfl, rfl, rfl, rfl, rfl, rfl, rfl, rfl, rfl⟩,
    fun _ => ⟨rfl, rfl, rfl, rfl⟩, fun core => ⟨rfl, rfl, rfl, rfl, ?_, ?_⟩, rfl, rfl, rfl, rfl, rfl, rfl, rfl, rfl,
    rfl, rfl, rfl, rfl, rfl, rfl, rfl, rfl, rfl, rfl, rfl, rfl, rfl⟩
  · by_cases hcore : core = 256 <;> simp [State.lcore_reset, LCore.halted0, hcore]
  · by_cases hcore : core = 256 <;> simp [State.lcore_reset, LCore.halted0, hcore]
  · by_cases hcore : core = 256 <;> simp [State.lcore_reset, LCore.halted0, hcore]
end

section
/-! ### Asynchronous results (R88) -/

open Sys2Proof Sys2Proof.Machine

namespace Sys2Proof.Machine

/-- The thread after an asynchronous result of a register, or of a pair, set what it aims at (R88): emptied, filled or
delivered. -/
def Thread.aimedAt (t : Thread) (rd : Nat) (pair : Bool) (lo hi : Reg → Reg) : Thread :=
  let u := t.setReg rd (lo (t.reg rd))
  if pair && rd != 0 then u.setReg (rd + 1) (hi (u.reg (rd + 1))) else u

theorem Thread.aimedAt_regs (t : Thread) (rd : Nat) (pair : Bool) (lo hi : Reg → Reg) :
    t.aimedAt rd pair lo hi = { t with regs := (t.aimedAt rd pair lo hi).regs } := by
  unfold Thread.aimedAt
  simp only
  split
  · rw [Thread.setReg_eq, Thread.setReg_eq t rd]
  · exact t.setReg_eq _ _

@[simp] theorem Thread.aimedAt_tid (t : Thread) (rd : Nat) (pair : Bool) (lo hi : Reg → Reg) :
    (t.aimedAt rd pair lo hi).tid = t.tid := by rw [Thread.aimedAt_regs]

section
variable (t : Thread) {rd : Nat} {pair : Bool} (lo hi : Reg → Reg)

/-- The register that a result names. -/
theorem Thread.reg_aimedAt_low (h0 : rd ≠ 0) (hrd : rd < 56) : (t.aimedAt rd pair lo hi).reg rd = lo (t.reg rd) := by
  have hset := t.reg_setReg_same (lo (t.reg rd)) (Nat.pos_of_ne_zero h0) hrd
  unfold Thread.aimedAt
  simp only
  split
  · rw [Thread.reg_setReg_other _ _ (by omega), hset]
  · exact hset

/-- The second register of a pair. -/
theorem Thread.reg_aimedAt_high (hpair : pair = true) (h0 : rd ≠ 0) (hrd : rd < 55) :
    (t.aimedAt rd pair lo hi).reg (rd + 1) = hi (t.reg (rd + 1)) := by
  simp [Thread.aimedAt, hpair, h0, Thread.reg_setReg_same _ _ (Nat.succ_pos rd) (by omega : rd + 1 < 56),
    Thread.reg_setReg_other t _ (by omega : rd ≠ rd + 1)]

/-- A register that a result does not aim at; g0 is none (R56). -/
theorem Thread.reg_aimedAt_other {n : Nat} (hn : ¬ (n ≠ 0 ∧ (n = rd ∨ pair = true ∧ rd ≠ 0 ∧ n = rd + 1))) :
    (t.aimedAt rd pair lo hi).reg n = t.reg n := by
  obtain rfl | h0 := Nat.eq_zero_or_pos n
  · simp
  have hlow : rd ≠ n := fun h => hn ⟨h0.ne', .inl h.symm⟩
  have hhigh : (pair && rd != 0) = true → rd + 1 ≠ n := fun hp h => by
    simp only [Bool.and_eq_true, bne_iff_ne] at hp
    exact hn ⟨h0.ne', .inr ⟨hp.1, hp.2, h.symm⟩⟩
  unfold Thread.aimedAt
  simp only
  split
  · next hp => rw [Thread.reg_setReg_other _ _ (hhigh hp), Thread.reg_setReg_other _ _ hlow]
  · exact t.reg_setReg_other _ hlow

/-- One change of every register that a result aims at. -/
theorem Thread.reg_aimedAt (g : Reg → Reg) (hrd : rd < 56) (hp : pair = true → rd < 55) (n : Nat) :
    ((n ≠ 0 ∧ (n = rd ∨ pair = true ∧ rd ≠ 0 ∧ n = rd + 1)) → (t.aimedAt rd pair g g).reg n = g (t.reg n)) ∧
    (¬ (n ≠ 0 ∧ (n = rd ∨ pair = true ∧ rd ≠ 0 ∧ n = rd + 1)) → (t.aimedAt rd pair g g).reg n = t.reg n) := by
  refine ⟨?_, t.reg_aimedAt_other g g⟩
  rintro ⟨h0, rfl | ⟨hpair, hrd0, rfl⟩⟩
  · exact t.reg_aimedAt_low g g h0 hrd
  · exact t.reg_aimedAt_high g g hpair hrd0 (hp hpair)

end

/-! ### An asynchronous result at the state (R88) -/

variable {s : State} {t : Thread} {p : Pend}

theorem State.addPend_of (ht : s.thread? t.tid = some t) (hp : p.tid = t.tid) :
    s.addPend p = (({ s with pend := s.pend ++ [p] } : State).putThread
      (t.aimedAt p.rd p.pair ({ · with full := false }) ({ · with full := false }))).bump := by
  unfold State.addPend State.expect
  rw [hp, State.modThread_of _ (show ({ s with pend := s.pend ++ [p] } : State).thread? t.tid = some t from ht)]
  rfl

theorem State.cancel_of (ht : s.thread? t.tid = some t) (hp : p.tid = t.tid) :
    s.cancel p = ({ s with pend := s.pend.filter fun q => q.id != p.id } : State).putThread
      (t.aimedAt p.rd p.pair ({ · with full := true }) ({ · with full := true })) := by
  unfold State.cancel
  rw [hp, State.modThread_of _
    (show ({ s with pend := s.pend.filter fun q => q.id != p.id } : State).thread? t.tid = some t from ht)]
  rfl

theorem State.deliver_of (ht : s.thread? t.tid = some t) (hp : p.tid = t.tid) (lo hi : Word) (poison : Bool) :
    s.deliver p lo hi poison = ({ s with pend := s.pend.filter fun q => q.id != p.id } : State).putThread
      (t.aimedAt p.rd p.pair (fun _ => ⟨lo, true, poison⟩) (fun _ => ⟨hi, true, poison⟩)) := by
  have hput : ({ s with pend := s.pend.filter fun q => q.id != p.id } : State).thread? t.tid = some t := ht
  unfold State.deliver State.setReg Thread.aimedAt
  simp only [hp, State.modThread_of _ hput]
  split
  · have hset := State.thread?_putThread_same ({ s with pend := s.pend.filter fun q => q.id != p.id } : State)
      (t.setReg p.rd ⟨lo, true, poison⟩)
    rw [Thread.setReg_tid] at hset
    rw [State.modThread_of _ hset, State.putThread_putThread _ (by simp)]
  · rfl

theorem exec_loadCompletion_eq (id : Nat) :
    exec (.loadCompletion id) s = .next ((tryLoadCompletion id s).getD s) := rfl

/-- A result that is ready is delivered. -/
theorem tryLoadCompletion_ready {lo hi : Word} {poison : Bool} (hphase : p.phase = .ready lo hi poison)
    (hfind : s.pend.find? (fun q => q.id == p.id) = some p) :
    tryLoadCompletion p.id s = some (s.deliver p lo hi poison) := by
  simp [tryLoadCompletion, State.pend?, hfind, hphase]

/-- LOAD_COMPLETION of a result that is ready. -/
theorem exec_loadCompletion_ready {lo hi : Word} {poison : Bool} (ht : s.thread? t.tid = some t) (hp : p.tid = t.tid)
    (hphase : p.phase = .ready lo hi poison) (hfind : s.pend.find? (fun q => q.id == p.id) = some p) :
    exec (.loadCompletion p.id) s = .next (({ s with pend := s.pend.filter fun q => q.id != p.id } : State).putThread
      (t.aimedAt p.rd p.pair (fun _ => ⟨lo, true, poison⟩) (fun _ => ⟨hi, true, poison⟩))) := by
  rw [exec_loadCompletion_eq, tryLoadCompletion_ready hphase hfind, Option.getD_some, State.deliver_of ht hp]

/-- Nothing else is delivered. -/
theorem tryLoadCompletion_eq_none {id : Nat}
    (h : ∀ p, s.pend.find? (fun q => q.id == id) = some p → ∀ lo hi poison, p.phase ≠ .ready lo hi poison) :
    tryLoadCompletion id s = none := by
  unfold tryLoadCompletion
  split
  · next p hfind =>
    split
    · next lo hi poison hphase => exact absurd hphase (h p hfind lo hi poison)
    · rfl
  · rfl

end Sys2Proof.Machine

/-- Settles O20: issue, completion and cancellation are each one setting of the registers that the result aims at, and
of the list of results in flight. -/
theorem asynchronousResults : Obligations.AsynchronousResults := by
  refine ⟨fun s t p ht hp hrd hpair => ?_, fun s id h => ?_⟩
  · intro aims
    have back : ∀ (k : State) lo hi, (k.putThread (t.aimedAt p.rd p.pair lo hi)).thread? t.tid =
        some (t.aimedAt p.rd p.pair lo hi) := fun k lo hi => by
      simpa using k.thread?_putThread_same (t.aimedAt p.rd p.pair lo hi)
    refine ⟨⟨_, ?_, ?_, t.reg_aimedAt ({ · with full := false }) hrd hpair, t.aimedAt_regs .., State.addPend_of ht hp⟩,
      fun lo hi poison hphase hfind => ⟨_,
        t.aimedAt p.rd p.pair (fun _ => ⟨lo, true, poison⟩) (fun _ => ⟨hi, true, poison⟩),
        exec_loadCompletion_ready ht hp hphase hfind, back _ _ _, rfl, fun h0 => t.reg_aimedAt_low _ _ h0 hrd,
        fun hp2 h0 => t.reg_aimedAt_high _ _ hp2 h0 (hpair hp2), fun n => t.reg_aimedAt_other _ _,
        t.aimedAt_regs .., rfl⟩,
      ⟨_, ?_, t.reg_aimedAt ({ · with full := true }) hrd hpair⟩⟩
    · rw [State.addPend_of ht hp]
      exact back _ _ _
    · rw [State.addPend_of ht hp]
      rfl
    · rw [State.cancel_of ht hp]
      exact back _ _ _
  · rw [exec_loadCompletion_eq, tryLoadCompletion_eq_none h, Option.getD_none]
end

section
/-! ### The system registers (R95 to R97, R111) -/

open Sys2Proof Sys2Proof.Machine Sys2Proof.Claims

namespace Sys2Proof.Machine

/-! ### What SRD reads (R96, R386, R422) -/

theorem snstat_eq (s : State) : s.snstat = ((s.sensor s.fw.snsel.toNat).raw % 2 ^ 16).toNat +
    if (s.sensor s.fw.snsel.toNat).suspect then 2 ^ 16 else 0 := by
  unfold State.snstat flag
  split <;> simp [*]

/-- Whether a state differs from another in threads' records alone. -/
def OnlyThreads (s k : State) : Prop := k = { s with threads := k.threads }

theorem OnlyThreads.putThread {s k : State} (h : OnlyThreads s k) (t : Thread) : OnlyThreads s (k.putThread t) := by
  unfold OnlyThreads at h ⊢
  rw [h]
  rfl

/-- What SRD reads does not depend on the threads' records but on the one it is given. -/
theorem OnlyThreads.sysRead {s k : State} (h : OnlyThreads s k) (t : Thread) (n : Nat) :
    k.sysRead t k.cur.core n = s.sysRead t s.cur.core n := by
  rw [h]
  rfl

/-! ### SRD and SWR as issues (R95, R97) -/

section

variable {s : State} {f : Fields} {ls : List (Nat × Thread)} {lvl : Nat}

/-- A lane at a level that may read passes the check of SRD. -/
theorem srdCheck_none {n : Nat} {t : Thread} (h : sysReadLevel n = some lvl) (hl : lvl ≤ t.plvl.code) :
    srdCheck n t = none := by
  rw [srdCheck, h]
  exact if_neg (Nat.not_lt.2 hl)

/-- A lane at a level that may write passes the check of SWR. -/
theorem swrCheck_none {n : Nat} {t : Thread} (h : sysWriteLevel n = some lvl) (hl : lvl ≤ t.plvl.code) :
    swrCheck n t = none := by
  rw [swrCheck, h]
  exact if_neg (Nat.not_lt.2 hl)

/-- The body of SRD for a register that can be read. -/
theorem exec_srd_of (h : sysReadLevel f.imm.toNat = some lvl) :
    exec (.srd f) s = issue rSrd f false (srdCheck f.imm.toNat) true
      (fun s l => .value s (s.sysRead l.thread s.cur.core f.imm.toNat)) s := by
  show issue rSrd f false (srdCheck f.imm.toNat) true (fun s l => if (sysReadLevel f.imm.toNat).isNone then
    .trapAfter State.bumpFresh ⟨.prot, Config.openTrapval s.fresh, false⟩ else .value s _) s = _
  rw [h]
  rfl

/-- The body of SWR for a register that can be written, pkgrst apart. -/
theorem exec_swr_of (h : sysWriteLevel f.imm.toNat = some lvl) (hne : f.imm.toNat ≠ 0x818) :
    exec (.swr f) s = issue rSwr f false (swrCheck f.imm.toNat) false
      (fun k l => .done (if threadScope f.imm.toNat = true ∨ s.lastWriter f f.imm.toNat = some l.tid then
        k.sysWrite l.thread k.cur.core f.imm.toNat l.a else k)) s := by
  show execSwr f s = _
  unfold execSwr
  simp only [h, Option.isNone_some, Bool.false_eq_true, if_false, hne, false_and]
  congr 1
  funext k l
  split <;> rfl

/-- SRD of lanes whose levels may read: each receives the register's value as the group found it. -/
theorem exec_srd_ready (hp : PortsReady s rSrd f false true ls) (h : sysReadLevel f.imm.toNat = some lvl)
    (hl : ∀ p ∈ ls, lvl ≤ p.2.plvl.code) :
    exec (.srd f) s = .next (s.after rSrd f ls
      (fun k l => k.putThread (l.got rSrd f false (s.sysRead l.thread s.cur.core f.imm.toNat)))
      fun _ l => s.sysRead l.thread s.cur.core f.imm.toNat) := by
  have hturn := needInTurn_putThread (need := fun _ => True)
    (h := fun l => l.got rSrd f false (s.sysRead l.thread s.cur.core f.imm.toNat)) (g := s.laneOf rSrd f ls)
    hp.group.nodup hp.group.held (fun _ => ⟨rfl, rfl⟩) (fun p => Lane.got_tid ..)
    fun _ _ => trivial
  rw [exec_srd_of h]
  exact issue_turn hp _ (fun p hm => srdCheck_none h (hl p hm)) _ (fun k _ => OnlyThreads s k ∧ True) _ _
    (fun g l ht hh hneed => lane_value (congrArg (Act.value g.all) (hneed.1.sysRead l.thread _)) hh ht.symm)
    (needInTurn_and (fun k l hk => hk.putThread _) rfl hturn)

/-! ### The lane whose value is written (R97) -/

/-- Where nothing stops a group, the last of its lanes is the one whose value a register of wider scope takes. -/
theorem lastWriter_of {n : Nat} {ms : List (Nat × Thread)} {p : Nat × Thread}
    (hp : PortsReady s rSwr f false false (ms ++ [p])) (hpre : ∀ q ∈ ms ++ [p], swrCheck n q.2 = none) :
    s.lastWriter f n = some p.2.tid := by
  have hun : dryClaims s rSwr f (swrCheck n) (ms ++ [p]) = [] := dryClaims_nil hp.lane _ hpre hp.bound hp.words
  have hlanes : (ms ++ [p]).filter (fun q => (laneTrap s q.2 rSwr f (swrCheck n q.2) []).isNone) = ms ++ [p] := by
    rw [List.filter_eq_self]
    intro q hq
    rw [hpre q hq, laneTrap_none (hp.lane q hq) (hp.bound q hq)]
    rfl
  have hclean : ((ms ++ [p]).filter fun q => (poisonTrap q.2 rSwr f false
      (((popsOf s (s.groupClaims rSwr f (ms ++ [p]))).filter fun x => x.1 == q.2.tid).map (·.2))).isSome).map
      (fun q => q.2.tid) = [] := by
    rw [List.map_eq_nil_iff, List.filter_eq_nil_iff]
    intro q hq
    have hnone := poisonTrap_none (hp.lane q hq) _ (lanePops_clean hp q.2.tid)
    show ¬ (poisonTrap q.2 rSwr f false (s.lanePops rSwr f (ms ++ [p]) q.2.tid)).isSome = true
    rw [hnone]
    exact Bool.false_ne_true
  unfold State.lastWriter
  simp only [hp.group.lanes, hun, hlanes]
  rw [show claimsOf s rSwr f ((ms ++ [p]).map fun q => (q.1, q.2.tid)) = s.groupClaims rSwr f (ms ++ [p]) from rfl,
    settlePops_done hclean, hclean]
  simp

/-- Lanes before the last that only move on leave everything but threads' records, and each lane its own as it was. -/
theorem needInTurn_advance {eff : State → Lane → State} {g : Nat × Thread → Lane} {irrev : Bool}
    (hg : ∀ q, (g q).tid = q.2.tid ∧ (g q).thread = q.2) {ms : List (Nat × Thread)} {p : Nat × Thread} {k : State}
    (heff : ∀ q ∈ ms, ∀ k, eff k (g q) = k.advance q.2.tid f irrev)
    (hn : ((ms ++ [p]).map fun q => q.2.tid).Nodup) (hh : ∀ q ∈ ms ++ [p], k.thread? q.2.tid = some q.2)
    (hcur : k.cur = s.cur) : needInTurn (fun k _ => k.cur = s.cur) eff k ((ms ++ [p]).map g) := by
  induction ms generalizing k with
  | nil =>
    refine ⟨⟨?_, hcur⟩, trivial⟩
    rw [(hg p).1, (hg p).2]
    exact hh p List.mem_cons_self
  | cons q ms ih =>
    have hq := hh q List.mem_cons_self
    rw [List.cons_append, List.map_cons, List.nodup_cons] at hn
    refine ⟨⟨by rw [(hg q).1, (hg q).2]; exact hq, hcur⟩, ?_⟩
    rw [heff q List.mem_cons_self]
    refine ih (fun x hx => heff x (List.mem_cons_of_mem _ hx)) hn.2 (fun x hx => ?_) ((advance_cur ..).trans hcur)
    rw [State.advance_of _ hq, State.thread?_putThread_other, hh x (List.mem_cons_of_mem _ hx)]
    exact fun e => hn.1 (List.mem_map.2 ⟨x, hx, e.symm⟩)

/-! ### What SWR leaves (R95, R97) -/

/-- SWR of a register of thread scope: each lane writes its own. -/
theorem exec_swr_thread (hp : PortsReady s rSwr f false false ls) (h : sysWriteLevel f.imm.toNat = some lvl)
    (hl : ∀ p ∈ ls, lvl ≤ p.2.plvl.code) (hscope : threadScope f.imm.toNat = true) (hne : f.imm.toNat ≠ 0x818) :
    exec (.swr f) s = .next (s.after rSwr f ls
      (fun k l => k.putThread ((l.thread.sysWrite f.imm.toNat l.a).past f (touchesPort rSwr f))) fun _ _ => 0) := by
  have htid (t : Thread) (v : Word) : (t.sysWrite f.imm.toNat v).tid = t.tid := by
    unfold Thread.sysWrite
    split <;> rfl
  rw [exec_swr_of h hne]
  refine issue_turn hp _ (fun p hm => swrCheck_none h (hl p hm)) _ (fun _ _ => True) _ _
    (fun g l ht hh _ => ?_) (needInTurn_putThread (need := fun _ => True)
      (h := fun l => (l.thread.sysWrite f.imm.toNat l.a).past f (touchesPort rSwr f)) (g := s.laneOf rSwr f ls)
      hp.group.nodup hp.group.held (fun _ => ⟨rfl, rfl⟩) (fun p => htid ..) fun _ _ => trivial)
  have hb : g.all.sysWrite l.thread g.all.cur.core f.imm.toNat l.a =
      g.all.putThread (l.thread.sysWrite f.imm.toNat l.a) := by
    unfold State.sysWrite
    rw [if_pos hscope, ← ht, State.modThread_of _ hh]
  have hrd : pushesRd rSwr f = false := rfl
  simp only [Issuing.lane, hscope, true_or, if_true, hb, pushOf, hrd, Bool.false_eq_true, if_false, List.append_nil,
    Bool.false_or]
  rw [ht, ← htid l.thread l.a, State.advance_putThread]

/-- SWR of a register of wider scope: the last lane writes it, and every lane moves on. -/
theorem exec_swr_wide {ms : List (Nat × Thread)} {p : Nat × Thread}
    (hp : PortsReady s rSwr f false false (ms ++ [p])) (h : sysWriteLevel f.imm.toNat = some lvl)
    (hl : ∀ q ∈ ms ++ [p], lvl ≤ q.2.plvl.code) (hscope : threadScope f.imm.toNat = false)
    (hne : f.imm.toNat ≠ 0x818) :
    exec (.swr f) s = .next (s.after rSwr f (ms ++ [p])
      (fun k l => (if l.tid = p.2.tid then k.sysWrite l.thread s.cur.core f.imm.toNat l.a else k).advance l.tid f
        (touchesPort rSwr f)) fun _ _ => 0) := by
  have hpre : ∀ q ∈ ms ++ [p], swrCheck f.imm.toNat q.2 = none := fun q hm => swrCheck_none h (hl q hm)
  have hbefore : ∀ q ∈ ms, q.2.tid ≠ p.2.tid := fun q hq => by
    have hn := hp.group.nodup
    rw [List.map_append, List.nodup_append] at hn
    exact hn.2.2 _ (List.mem_map_of_mem hq) _ List.mem_cons_self
  have hlast (l : Lane) : (threadScope f.imm.toNat = true ∨ s.lastWriter f f.imm.toNat = some l.tid) ↔
      l.tid = p.2.tid := by
    rw [lastWriter_of hp hpre, hscope, Option.some_inj, eq_comm (a := l.tid)]
    simp
  rw [exec_swr_of h hne]
  refine issue_turn hp _ hpre _ (fun k _ => k.cur = s.cur) _ _ (fun g l ht hh hcur => ?_)
    (needInTurn_advance (irrev := touchesPort rSwr f) (fun _ => ⟨rfl, rfl⟩)
      (fun q hq k => by rw [if_neg (show (s.laneOf ..).tid ≠ _ from hbefore q hq)]; rfl) hp.group.nodup hp.group.held
      rfl)
  have hrd : pushesRd rSwr f = false := rfl
  simp only [Issuing.lane, hlast, hcur, pushOf, hrd, Bool.false_eq_true, if_false, List.append_nil, Bool.false_or]

end

/-! ### Fields of a word as masks (R6) -/

/-- A field of a word in its place is the word under the field's mask. -/
theorem ofNat_bitsAt (v : Word) (lo n : Nat) :
    BitVec.ofNat 64 (bitsAt v.toNat lo n * 2 ^ lo) = v &&& BitVec.ofNat 64 ((2 ^ n - 1) * 2 ^ lo) := by
  apply BitVec.eq_of_getLsbD_eq
  intro i hi
  rw [BitVec.getLsbD_and, BitVec.getLsbD_ofNat, BitVec.getLsbD_ofNat, Nat.testBit_mul_two_pow, Nat.testBit_mul_two_pow,
    testBit_bitsAt, Nat.testBit_two_pow_sub_one, BitVec.testBit_toNat]
  by_cases hlo : lo ≤ i
  · rw [Nat.add_sub_cancel' hlo]
    simp [hi, hlo, Bool.and_comm]
  · simp [hlo]

/-- A field above others is in another place than they. -/
theorem ofNat_add_field (a i b : Nat) (h : b < 2 ^ i) :
    BitVec.ofNat 64 (a * 2 ^ i + b) = BitVec.ofNat 64 (a * 2 ^ i) ||| BitVec.ofNat 64 b := by
  rw [Nat.mul_comm, Nat.two_pow_add_eq_or_of_lt h]
  exact BitVec.ofNat_or

theorem and_or_and (v m n : Word) : v &&& m ||| v &&& n = v &&& (m ||| n) := by
  ext i
  simp [Bool.and_or_distrib_left]

theorem bitsAt_lt (v lo n : Nat) : bitsAt v lo n < 2 ^ n := Nat.mod_lt _ (Nat.two_pow_pos n)

/-- A field at bit 0. -/
theorem ofNat_bitsAt_low (v : Word) (n : Nat) :
    BitVec.ofNat 64 (bitsAt v.toNat 0 n) = v &&& BitVec.ofNat 64 (2 ^ n - 1) := by
  simpa using ofNat_bitsAt v 0 n

/-- Two fields of a word, one above the other. -/
theorem ofNat_two_fields (v : Word) {lo n lo' n' : Nat} (h : lo + n ≤ lo') :
    BitVec.ofNat 64 (bitsAt v.toNat lo' n' * 2 ^ lo' + bitsAt v.toNat lo n * 2 ^ lo) =
      v &&& (BitVec.ofNat 64 ((2 ^ n' - 1) * 2 ^ lo') ||| BitVec.ofNat 64 ((2 ^ n - 1) * 2 ^ lo)) := by
  have hlow : bitsAt v.toNat lo n * 2 ^ lo < 2 ^ lo' :=
    calc bitsAt v.toNat lo n * 2 ^ lo
      _ < 2 ^ n * 2 ^ lo := Nat.mul_lt_mul_of_pos_right (bitsAt_lt ..) (Nat.two_pow_pos lo)
      _ = 2 ^ (lo + n) := by rw [Nat.mul_comm, Nat.pow_add]
      _ ≤ 2 ^ lo' := Nat.pow_le_pow_right (by decide) h
  rw [ofNat_add_field _ _ _ hlow, ofNat_bitsAt, ofNat_bitsAt, and_or_and]

theorem ofNat_two_fields_low (v : Word) {n lo' n' : Nat} (h : n ≤ lo') :
    BitVec.ofNat 64 (bitsAt v.toNat lo' n' * 2 ^ lo' + bitsAt v.toNat 0 n) =
      v &&& (BitVec.ofNat 64 ((2 ^ n' - 1) * 2 ^ lo') ||| BitVec.ofNat 64 (2 ^ n - 1)) := by
  simpa using ofNat_two_fields v (lo := 0) (n := n) (lo' := lo') (n' := n') (by omega)

/-- pools as a write leaves it (R422). -/
theorem ofNat_pools (v : Word) :
    BitVec.ofNat 64 (bitsAt v.toNat 0 13 + bitsAt v.toNat 16 13 * 2 ^ 16 + bitsAt v.toNat 32 13 * 2 ^ 32) =
      v &&& 0x1FFF1FFF1FFF#64 := by
  have hlow : bitsAt v.toNat 0 13 < 2 ^ 13 := bitsAt_lt ..
  have hmid : bitsAt v.toNat 16 13 < 2 ^ 13 := bitsAt_lt ..
  rw [Nat.add_comm, ofNat_add_field _ 32 _ (by omega), Nat.add_comm (bitsAt v.toNat 0 13),
    ofNat_two_fields_low v (by decide), ofNat_bitsAt, and_or_and]
  rfl

theorem toNat_and_low (v : Word) (n : Nat) (hn : n ≤ 64) :
    (v &&& BitVec.ofNat 64 (2 ^ n - 1)).toNat = bitsAt v.toNat 0 n := by
  rw [← ofNat_bitsAt_low, BitVec.toNat_ofNat, Nat.mod_eq_of_lt]
  exact (bitsAt_lt ..).trans_le (Nat.pow_le_pow_right (by decide) hn)

/-- fmode as a write leaves it (R131): the reserved bits 0 and frm clamped. -/
theorem ofNat_fmodeMask (v : Word) : BitVec.ofNat 64 (fmodeMask v.toNat) =
    (v &&& 0x1F1F0#64) ||| (if 5 < (v &&& 7#64).toNat then 5#64 else v &&& 7#64) := by
  have hfrm : (v &&& 7#64).toNat = bitsAt v.toNat 0 3 := toNat_and_low v 3 (by decide)
  have hhigh := ofNat_two_fields v (lo := 4) (n := 5) (lo' := 12) (n' := 5) (by decide)
  have hsplit : fmodeMask v.toNat =
      (bitsAt v.toNat 12 5 * 2 ^ 8 + bitsAt v.toNat 4 5) * 2 ^ 4 + min 5 (bitsAt v.toNat 0 3) := by
    unfold fmodeMask
    omega
  rw [hsplit, ofNat_add_field _ _ _ (by omega), hfrm,
    show (bitsAt v.toNat 12 5 * 2 ^ 8 + bitsAt v.toNat 4 5) * 2 ^ 4 =
      bitsAt v.toNat 12 5 * 2 ^ 12 + bitsAt v.toNat 4 5 * 2 ^ 4 by omega, hhigh]
  congr 1
  split
  · next h => rw [Nat.min_eq_left h.le]
  · next h =>
    rw [Nat.min_eq_right (Nat.not_lt.1 h)]
    exact ofNat_bitsAt_low v 3

/-- rdctl as a write leaves it (R422): its ring size clamped. -/
theorem ofNat_rdctlMask (v : Word) : BitVec.ofNat 64 (rdctlMask v.toNat) = (v &&& 0xFFFFFFFFFF001#64) |||
    BitVec.ofNat 64 (2 * if v.toNat / 2 % 32 < 4 then 4 else min 20 (v.toNat / 2 % 32)) := by
  have hring : clamp 4 20 (bitsAt v.toNat 1 5) =
      if v.toNat / 2 % 32 < 4 then 4 else min 20 (v.toNat / 2 % 32) := by
    show max 4 (min 20 (v.toNat / 2 % 32)) = _
    split <;> omega
  generalize hr : (if v.toNat / 2 % 32 < 4 then 4 else min 20 (v.toNat / 2 % 32)) = ring at hring ⊢
  have hle : ring ≤ 20 := by
    rw [← hr]
    split <;> omega
  have hbit : bitsAt v.toNat 0 1 < 2 ^ 1 := bitsAt_lt ..
  have hmask := ofNat_two_fields_low v (n := 1) (lo' := 12) (n' := 40) (by decide)
  rw [ofNat_add_field _ 12 _ (by omega)] at hmask
  rw [rdctlMask, hring, Nat.add_assoc, ofNat_add_field _ 12 _ (by omega), show ring * 2 = ring * 2 ^ 1 from rfl,
    ofNat_add_field _ 1 _ hbit, BitVec.or_comm (BitVec.ofNat 64 (ring * 2 ^ 1)), ← BitVec.or_assoc, hmask,
    show ring * 2 ^ 1 = 2 * ring by omega]
  rfl

/-! ### The tables of what a write leaves -/

/-- A register of thread scope keeps what its row says (R95, R96, R131). -/
theorem thread_sysWrite (t : Thread) (v : Word) : ∀ e ∈ threadWrites v, t.sysWrite e.1 v = e.2 t := by
  have hcause : BitVec.ofNat 64 (bitsAt v.toNat 0 11) = v &&& 0x7FF#64 := ofNat_bitsAt_low v 11
  have hpwait : min v.toNat 65535 = if 65535 < v.toNat then 65535 else v.toNat := by split <;> omega
  have hyage : clamp 16 65535 v.toNat =
      if v.toNat < 16 then 16 else if 65535 < v.toNat then 65535 else v.toNat := by
    unfold clamp
    split
    · omega
    · split <;> omega
  simp [threadWrites, Thread.sysWrite, ofNat_fmodeMask, hcause, hpwait, hyage]

/-- A package register keeps what its row says (R95, R386, R422). -/
theorem fw_write (r : FwRegs) (v : Word) : ∀ e ∈ packageWrites v, r.write e.1 v = e.2 r := by
  have hsvcq : BitVec.ofNat 64 (bitsAt v.toNat 0 13) = v &&& 0x1FFF#64 := ofNat_bitsAt_low v 13
  have hspc : BitVec.ofNat 64 (bitsAt v.toNat 5 47 * 32) = v &&& 0xFFFFFFFFFFFE0#64 := ofNat_bitsAt v 5 47
  have hsw : BitVec.ofNat 64 (bitsAt v.toNat 30 11 * 1073741824) = v &&& 0x1FFC0000000#64 := ofNat_bitsAt v 30 11
  have hhdm : BitVec.ofNat 64 (bitsAt v.toNat 0 52) = v &&& 0xFFFFFFFFFFFFF#64 := ofNat_bitsAt_low v 52
  have hlog : BitVec.ofNat 64 (bitsAt v.toNat 12 40 * 4096 + bitsAt v.toNat 0 5) = v &&& 0xFFFFFFFFFF01F#64 :=
    ofNat_two_fields_low v (n := 5) (lo' := 12) (n' := 40) (by decide)
  have hpkg : BitVec.ofNat 64 (bitsAt v.toNat 0 6 + bitsAt v.toNat 8 6 * 256) = v &&& 0x3F3F#64 := by
    rw [Nat.add_comm]
    exact ofNat_two_fields_low v (n := 6) (lo' := 8) (n' := 6) (by decide)
  have hpools := ofNat_pools v
  norm_num only at hpools
  simp [packageWrites, FwRegs.write, hsvcq, hspc, hsw, hhdm, hlog, hpkg, hpools, ofNat_rdctlMask, Nat.min_comm]

/-- hdm's write leaves the package registers as they were written. -/
theorem resetOwners_fw (s : State) : s.resetOwners.fw = s.fw := by
  unfold State.resetOwners
  generalize bitsAt s.fw.hdm.toNat 0 21 = n
  induction n with
  | zero => rfl
  | succ n ih =>
    rw [List.range_succ, List.foldl_append]
    exact ih

/-- Of the package registers only rdctl and hdm do more than keep what is written, tlim, snstat, corctl and pkgrst
apart (R422). -/
theorem writeFw_packageWrites (s : State) (v : Word) : ∀ e ∈ packageWrites v,
    (s.writeFw e.1 v).fw = s.fw.write e.1 v ∧
      (e.1 ≠ 0x807 → e.1 ≠ 0x817 → s.writeFw e.1 v = { s with fw := s.fw.write e.1 v }) := by
  simp [packageWrites, State.writeFw, resetOwners_fw]

theorem sysWrite_packageWrites (s : State) (t : Thread) (core : Nat) (v : Word) : ∀ e ∈ packageWrites v,
    s.sysWrite t core e.1 v = s.writeFw e.1 v := by
  simp [packageWrites, State.sysWrite, threadScope]

/-- The writable registers of thread scope are those of the table. -/
theorem threadScope_iff {n lvl : Nat} (h : sysWriteLevel n = some lvl) :
    threadScope n = true ↔ ∃ e ∈ threadWrites 0, e.1 = n := by
  have hn : ¬ (n ≤ 0x00B ∨ n = 0x00F ∨ (0x017 ≤ n ∧ n ≤ 0x019) ∨ n = 0x819) := fun hn => by
    rw [sysWriteLevel, if_pos hn] at h
    exact Option.some_ne_none _ h.symm
  simp only [threadScope, threadWrites, Bool.or_eq_true, decide_eq_true_eq, Bool.and_eq_true,
    List.exists_mem_cons_iff, List.not_mem_nil, false_and, exists_false, or_false]
  omega

/-- guard and its bounds (R246). -/
theorem clamp_gset (x : Nat) : clamp 1 255 x = if x < 1 then 1 else min 255 x := by
  unfold clamp
  split <;> omega

end Sys2Proof.Machine

/-- What SRD reads of a thread and of its core (R96, R386). -/
theorem sysRead_thread_rows (s : State) (t : Thread) (core : Nat) :
    s.sysRead t core 0x002 = (if t.onLatency then 0 else BitVec.ofNat 64 t.lane) ∧
    s.sysRead t core 0x003 = (if t.onLatency then 0 else BitVec.ofNat 64 t.weft) ∧
    s.sysRead t core 0x018 = BitVec.ofInt 64 (if core < 144 then s.heat (2 * core) else s.reading (heatColumn core)) ∧
    s.sysRead t core 0x019 = (if core < 144 then BitVec.ofNat 64 (s.wcore core).vfloor else 0) ∧
    s.sysRead t core 0x802 = if core < 144 then (s.wcore core).sscr else (s.lcore core).sscr := by
  refine ⟨apply_ite (BitVec.ofNat 64) .., apply_ite (BitVec.ofNat 64) .., ?_, ?_, ?_⟩
  · simp [State.sysRead, State.temp, isWeft, wordOfInt]
  · show BitVec.ofNat 64 (if isWeft core then (s.wcore core).vfloor else 0) = _
    simp [isWeft, apply_ite (BitVec.ofNat 64)]
  · simp [State.sysRead, isWeft]

/-- R95, R96, R111: what SRD reads, and that it changes nothing else. -/
theorem systemRegisterReads : SystemRegisterReads := by
  refine ⟨systemRegisters_levels, fun f s ls hp ⟨lvl, h, hl⟩ => exec_srd_ready hp h hl, fun s t core => ?_⟩
  obtain ⟨hlane, hweft, htemp, hvfloor, hsscr⟩ := sysRead_thread_rows s t core
  simp only [List.forall_mem_append, List.forall_mem_cons, List.not_mem_nil, IsEmpty.forall_iff, implies_true, and_true]
  refine ⟨⟨⟨rfl, rfl, hlane, hweft, rfl, rfl, rfl, rfl, rfl, rfl, rfl, rfl, rfl, rfl, rfl, rfl, rfl, rfl, rfl, rfl, rfl,
    rfl, rfl, hvfloor, rfl, rfl, rfl, rfl⟩, ?_, htemp, rfl, hsscr, congrArg (BitVec.ofNat 64) (snstat_eq s), rfl⟩,
    rfl, rfl, rfl, rfl, rfl, rfl, rfl, rfl, rfl, rfl, rfl, rfl, rfl, rfl, rfl, rfl, rfl, rfl, rfl, rfl, rfl, rfl, rfl,
    rfl⟩
  show ((s.weftOf t).map Weft.spass).getD 0 = _
  unfold State.weftOf
  cases t.loc <;> rfl

/-- R95 to R97, R111: what SWR leaves. -/
theorem systemRegisterWrites : SystemRegisterWrites := by
  refine ⟨fun f s ls hp ⟨lvl, h, hl⟩ => ⟨fun l _ e he hn => hn ▸ thread_sysWrite l.thread l.a e he, fun hrow => ?_,
    fun ms p hls hrow hne => ?_⟩, fun s t core v => ⟨rfl, rfl, fun e he => ?_, fun hw => ?_, fun hlo hhi => ?_,
      fun hw => ?_, fun hlo hhi => ?_, ?_⟩⟩
  · have hscope := (threadScope_iff h).2 hrow
    exact exec_swr_thread hp h hl hscope fun hpkg => by simp [hpkg, threadScope] at hscope
  · subst hls
    have hscope : threadScope f.imm.toNat = false := Bool.eq_false_iff.2 fun hs => by
      obtain ⟨e, he, hn⟩ := (threadScope_iff h).1 hs
      exact hrow e he hn
    exact exec_swr_wide hp h hl hscope hne
  · rw [sysWrite_packageWrites s t core v e he, ← fw_write s.fw v e he]
    exact writeFw_packageWrites s v e he
  · simp [State.sysWrite, threadScope, isWeft, hw]
  · simp [State.sysWrite, threadScope, isWeft, show ¬ core < 144 by omega]
  · simp [State.sysWrite, threadScope, isWeft, hw, clamp_gset]
  · simp [State.sysWrite, threadScope, isWeft, show ¬ core < 144 by omega, clamp_gset]
  · simp [State.sysWrite, threadScope, slopeMask, clamp, bitsAt]

/-- Settles O9: SRD and SWR are issues whose lanes read one value each and write it lane by lane, or the last lane
alone. -/
theorem systemRegisters : Obligations.SystemRegisters := ⟨systemRegisterReads, systemRegisterWrites⟩
end

section
/-! SUPPORT. Lingoton (R414, R415): what a flit holds, the window of a port, and
what a port does with a flit and a NAK. -/

open Sys2Proof Sys2Proof.Machine Sys2Proof.Claims

namespace Sys2Proof.Machine

/-! ### Flits (R414, R415) -/

theorem fitted_of_length {n : Nat} {bs : List Byte} (h : bs.length = n) : fitted n bs = bs := by
  subst h
  simp [fitted]

section

variable (f : LFlit) (ack : Nat)

/-- The header of a flit (R414). -/
def LFlit.head : Nat :=
  f.credit % 2 ^ 32 + f.kind % 32 * 2 ^ 32 + f.vc % 8 * 2 ^ 37 + ack % 4096 * 2 ^ 40 + f.seq % 4096 * 2 ^ 52

theorem LFlit.data_eq : f.data ack = leBytes 8 (f.head ack) ++ fitted 224 f.payload := rfl

theorem LFlit.length_data : (f.data ack).length = 232 := by
  simp [LFlit.data_eq, length_leBytes, fitted]
  omega

theorem LFlit.bytes_eq : f.bytes ack = (f.data ack ++ leBytes 8 (Config.flitCrc (f.data ack))) ++
    leBytes 16 (Config.flitParity (f.data ack ++ leBytes 8 (Config.flitCrc (f.data ack)))) := rfl

/-- The data of a flit and their CRC stand before its parity. -/
theorem LFlit.take_bytes :
    (f.bytes ack).take 240 = f.data ack ++ leBytes 8 (Config.flitCrc (f.data ack)) := by
  rw [LFlit.bytes_eq]
  exact List.take_left' (by simp [LFlit.length_data, length_leBytes])

theorem LFlit.drop_bytes : (f.bytes ack).drop 240 =
    leBytes 16 (Config.flitParity (f.data ack ++ leBytes 8 (Config.flitCrc (f.data ack)))) := by
  rw [LFlit.bytes_eq]
  exact List.drop_left' (by simp [LFlit.length_data, length_leBytes])

/-- A flit as it was sent stays under FEC. -/
theorem flitMended_bytes : flitMended (f.bytes ack) = f.bytes ack := by
  rw [flitMended, f.take_bytes, f.drop_bytes, if_pos rfl]

theorem LFlit.take_data : (f.bytes ack).take 232 = f.data ack := by
  rw [LFlit.bytes_eq, List.append_assoc]
  exact List.take_left' (f.length_data ack)

theorem LFlit.take_crc : ((f.bytes ack).drop 232).take 8 = leBytes 8 (Config.flitCrc (f.data ack)) := by
  rw [LFlit.bytes_eq, List.append_assoc, List.drop_left' (f.length_data ack)]
  exact List.take_left' (length_leBytes ..)

theorem LFlit.take_head : (f.bytes ack).take 8 = leBytes 8 (f.head ack) := by
  rw [LFlit.bytes_eq, LFlit.data_eq, List.append_assoc, List.append_assoc]
  exact List.take_left' (length_leBytes ..)

theorem LFlit.payload_bytes (h : f.payload.length = 224) : ((f.bytes ack).drop 8).take 224 = f.payload := by
  rw [LFlit.bytes_eq, LFlit.data_eq, fitted_of_length h, List.append_assoc, List.append_assoc,
    List.drop_left' (length_leBytes ..)]
  exact List.take_left' h

/-- The fields of a header do not overlap (R414). -/
theorem LFlit.head_lt : f.head ack < 256 ^ 8 := by
  have hcredit := Nat.mod_lt f.credit (Nat.two_pow_pos 32)
  have hkind := Nat.mod_lt f.kind (show 32 > 0 by decide)
  have hvc := Nat.mod_lt f.vc (show 8 > 0 by decide)
  have hack := Nat.mod_lt ack (show 4096 > 0 by decide)
  have hseq := Nat.mod_lt f.seq (show 4096 > 0 by decide)
  unfold LFlit.head
  omega

end

/-- What a flit holds, byte by byte (R414). -/
theorem flit_layout (f : LFlit) (ack : Nat) (h : f.payload.length = 224) :
    let b := f.bytes ack
    b.length = 256 ∧ flitMended b = b ∧ (b.drop 8).take 224 = f.payload ∧
    leBytes 8 (Config.flitCrc (b.take 232)) = (b.drop 232).take 8 ∧
    leNat (b.take 8) = f.credit % 2 ^ 32 + f.kind % 2 ^ 5 * 2 ^ 32 + f.vc % 2 ^ 3 * 2 ^ 37 + ack % 2 ^ 12 * 2 ^ 40 +
      f.seq % 2 ^ 12 * 2 ^ 52 := by
  refine ⟨?_, flitMended_bytes f ack, f.payload_bytes ack h, by rw [f.take_data, f.take_crc], ?_⟩
  · simp [LFlit.bytes_eq, LFlit.length_data, length_leBytes]
  · rw [f.take_head, leNat_leBytes, Nat.mod_eq_of_lt (f.head_lt ack)]
    rfl

/-! ### The window of a port (R415) -/

/-- The flits that leave the line of a port, under the next seqs. -/
def LPort.sent (x : LPort) (n : Nat) : List LFlit :=
  (List.range n).filterMap fun i => (x.waiting[i]?).map fun f => { f with seq := (x.next + i) % 4096 }

theorem LPort.pump_eq (x : LPort) : x.pump = { x with
    next := (x.next + min (1024 - x.unacked.length) x.waiting.length) % 4096
    unacked := x.unacked ++ x.sent (min (1024 - x.unacked.length) x.waiting.length)
    waiting := x.waiting.drop (min (1024 - x.unacked.length) x.waiting.length) } := rfl

/-- As far as the line reaches, each flit goes out. -/
theorem LPort.sent_succ (x : LPort) {n : Nat} {f : LFlit} (h : x.waiting[n]? = some f) :
    x.sent (n + 1) = x.sent n ++ [{ f with seq := (x.next + n) % 4096 }] := by
  simp [LPort.sent, List.range_succ, h]

theorem LPort.length_sent (x : LPort) {n : Nat} (h : n ≤ x.waiting.length) : (x.sent n).length = n := by
  induction n with
  | zero => rfl
  | succ n ih =>
    rw [x.sent_succ (List.getElem?_eq_getElem h), List.length_append, ih (Nat.le_of_succ_le h), List.length_singleton]

theorem LPort.getElem?_sent (x : LPort) {n i : Nat} {f : LFlit} (h : n ≤ x.waiting.length) (hi : i < n)
    (hf : x.waiting[i]? = some f) : (x.sent n)[i]? = some { f with seq := (x.next + i) % 4096 } := by
  induction n with
  | zero => exact absurd hi (Nat.not_lt_zero i)
  | succ n ih =>
    have hlen := x.length_sent (Nat.le_of_succ_le h)
    rw [x.sent_succ (List.getElem?_eq_getElem h)]
    rcases Nat.lt_succ_iff_lt_or_eq.1 hi with hlt | rfl
    · rw [List.getElem?_append_left (hlen.symm ▸ hlt)]
      exact ih (Nat.le_of_succ_le h) hlt
    · rw [List.getElem?_append_right hlen.le, hlen, Nat.sub_self]
      rw [List.getElem?_eq_getElem h, Option.some_inj] at hf
      simp [hf]

/-- An acknowledgement of what comes before the seq expected next (R415). -/
theorem LPort.acked_eq (x : LPort) {seq : Nat} {as bs : List LFlit} (hun : x.unacked = as ++ bs)
    (has : ∀ f ∈ as, f.seq ≠ seq) (hbs : bs = [] ∧ seq = x.next ∨ ∃ f r, bs = f :: r ∧ f.seq = seq) :
    x.acked seq =
      LPort.pump { x with
        unacked := bs
        resends := if bs.any fun f => f.seq == x.resendSeq then x.resends else 0 } := by
  have hleft : (as ++ bs).dropWhile (fun f => f.seq != seq) = bs := by
    rw [List.dropWhile_append_of_pos fun f hf => bne_iff_ne.2 (has f hf)]
    obtain ⟨rfl, -⟩ | ⟨f, r, rfl, hf⟩ := hbs
    · rfl
    · simp [hf]
  have hknown : seq = x.next ∨ (as ++ bs).any (fun f => f.seq == seq) = true := by
    refine hbs.imp (·.2) ?_
    rintro ⟨f, r, rfl, hf⟩
    simp [hf]
  rw [LPort.acked, hun, if_pos hknown, hleft]

theorem port_acked (x : LPort) (seq : Nat) (as bs : List LFlit) (hun : x.unacked = as ++ bs)
    (has : ∀ f ∈ as, f.seq ≠ seq) (hbs : bs = [] ∧ seq = x.next ∨ ∃ f r, bs = f :: r ∧ f.seq = seq) :
    let n := min (1024 - bs.length) x.waiting.length
    ∃ out, out.length = n ∧
      (∀ i f, i < n → x.waiting[i]? = some f → out[i]? = some { f with seq := (x.next + i) % 2 ^ 12 }) ∧
      x.acked seq = { x with
        unacked := bs ++ out
        waiting := x.waiting.drop n
        next := (x.next + n) % 2 ^ 12
        resends := if bs.any fun f => f.seq == x.resendSeq then x.resends else 0 } :=
  ⟨x.sent _, x.length_sent (Nat.min_le_right ..), fun _ _ => x.getElem?_sent (Nat.min_le_right ..),
    x.acked_eq hun has hbs⟩

/-- A seq that the port knows nothing of acknowledges nothing. -/
theorem port_acked_unknown (x : LPort) (seq : Nat) (hnext : seq ≠ x.next) (hun : ∀ f ∈ x.unacked, f.seq ≠ seq) :
    x.acked seq = x := by
  have : ¬ (seq = x.next ∨ x.unacked.any (fun f => f.seq == seq) = true) := by simpa [hnext] using hun
  rw [LPort.acked, if_neg this]

/-- A flit goes out at once while the window has room for it, and waits otherwise. -/
theorem port_enqueue (x : LPort) (f : LFlit) (hnext : x.next < 2 ^ 12)
    (hline : x.waiting = [] ∨ 1024 ≤ x.unacked.length) :
    x.enqueue f = withFlit x f := by
  rw [LPort.enqueue, LPort.pump_eq, withFlit]
  by_cases hroom : x.unacked.length < 1024
  · have hempty : x.waiting = [] := hline.resolve_right (Nat.not_le.2 hroom)
    have hone : min (1024 - x.unacked.length) 1 = 1 := by omega
    simp [hempty, hroom, hone, LPort.sent, List.range_succ]
  · have hzero : 1024 - x.unacked.length = 0 := by omega
    simpa [hroom, hzero, LPort.sent] using hnext

/-! ### LINGOTON_FLIT_RECEIVE and LINGOTON_NAK (R414, R415) -/

section

variable {s : State} {port seq : Nat} {data check : List Byte}

theorem lingoton_idle (h : (s.lport port).up = false ∨ 24 ≤ port) :
    exec (.lingotonFlitReceive port data check) s = .next s ∧ exec (.lingotonNak port seq) s = .next s := by
  have hdown : (!(s.lport port).up || decide (24 ≤ port)) = true := by simpa using h
  constructor
  · show execLingotonFlitReceive port data check s = _
    simp [execLingotonFlitReceive, hdown]
  · show execLingotonNak port seq s = _
    simp [execLingotonNak, hdown]

theorem lingotonFlitReceive_length (h : (data ++ check).length ≠ 256) :
    exec (.lingotonFlitReceive port data check) s = .next s := by
  show execLingotonFlitReceive port data check s = _
  simp only [execLingotonFlitReceive, bne_iff_ne.2 h, Bool.or_true, if_true]

/-- A port that is up and receives 256 bytes goes by what FEC leaves of them. -/
theorem lingotonFlitReceive_up (hup : (s.lport port).up = true) (hport : port < 24)
    (hlen : (data ++ check).length = 256) :
    exec (.lingotonFlitReceive port data check) s = .next
      (let x := s.lport port
      let b := flitMended (data ++ check)
      if !flitGood b then s.putPort port { x with nak := some x.expect }
      else if flitSeq b = x.expect then
        s.putPort port ({ x with expect := (x.expect + 1) % 4096, nak := none }.acked (flitAck b))
      else s) := by
  have hgo : (!(s.lport port).up || decide (24 ≤ port) || (data ++ check).length != 256) = false := by
    simpa [hup, hlen] using hport
  show execLingotonFlitReceive port data check s = _
  simp only [execLingotonFlitReceive, hgo, Bool.false_eq_true, if_false]

/-- A flit whose CRC fails is answered with a NAK. -/
theorem lingotonFlitReceive_bad (hup : (s.lport port).up = true) (hport : port < 24)
    (hlen : (data ++ check).length = 256) (hbad : flitGood (flitMended (data ++ check)) = false) :
    exec (.lingotonFlitReceive port data check) s =
      .next (s.putPort port { s.lport port with nak := some (s.lport port).expect }) := by
  rw [lingotonFlitReceive_up hup hport hlen]
  simp only [hbad, Bool.not_false, if_true]

/-- The flit that is expected is accepted. -/
theorem lingotonFlitReceive_expected (hup : (s.lport port).up = true) (hport : port < 24)
    (hlen : (data ++ check).length = 256) (hgood : flitGood (flitMended (data ++ check)) = true)
    (hseq : flitSeq (flitMended (data ++ check)) = (s.lport port).expect) :
    exec (.lingotonFlitReceive port data check) s = .next (s.putPort port
      (LPort.acked { s.lport port with expect := ((s.lport port).expect + 1) % 4096, nak := none }
        (flitAck (flitMended (data ++ check))))) := by
  rw [lingotonFlitReceive_up hup hport hlen]
  simp only [hgood, hseq, Bool.not_true, Bool.false_eq_true, if_false, if_true]

/-- Another flit is dropped. -/
theorem lingotonFlitReceive_other (hup : (s.lport port).up = true) (hport : port < 24)
    (hlen : (data ++ check).length = 256) (hgood : flitGood (flitMended (data ++ check)) = true)
    (hseq : flitSeq (flitMended (data ++ check)) ≠ (s.lport port).expect) :
    exec (.lingotonFlitReceive port data check) s = .next s := by
  rw [lingotonFlitReceive_up hup hport hlen]
  simp only [hgood, hseq, Bool.not_true, Bool.false_eq_true, if_false]

theorem flitGood_iff (b : List Byte) :
    flitGood b = true ↔ leBytes 8 (Config.flitCrc (b.take 232)) = (b.drop 232).take 8 := beq_iff_eq

/-- A NAK that names no flit in flight acknowledges what comes before it. -/
theorem lingotonNak_unknown (hup : (s.lport port).up = true) (hport : port < 24)
    (h : ∀ f ∈ ((s.lport port).acked seq).unacked, f.seq ≠ seq) :
    exec (.lingotonNak port seq) s = .next (s.putPort port ((s.lport port).acked seq)) := by
  show execLingotonNak port seq s = _
  have hany : ((s.lport port).acked seq).unacked.any (fun f => f.seq == seq) = false := by simpa using h
  simp [execLingotonNak, hup, Nat.not_le.2 hport, hany]

/-- A NAK that names a flit in flight has it resent, or after 16 resends takes the port down. -/
theorem lingotonNak_known (hup : (s.lport port).up = true) (hport : port < 24)
    (h : ∃ f ∈ ((s.lport port).acked seq).unacked, f.seq = seq) :
    exec (.lingotonNak port seq) s = .next
      (let y := (s.lport port).acked seq
      let n := if y.resends ≠ 0 ∧ y.resendSeq = seq then y.resends + 1 else 1
      if n ≤ 16 then s.putPort port { y with resends := n, resendSeq := seq }
      else
        (s.putPort port { y with resends := n, resendSeq := seq, up := false, unacked := [], waiting := [] }).reroute
          (y.unacked ++ y.waiting)) := by
  show execLingotonNak port seq s = _
  have hany : ((s.lport port).acked seq).unacked.any (fun f => f.seq == seq) = true := by simpa using h
  simp only [execLingotonNak, hup, Nat.not_le.2 hport, hany, Bool.not_true, Bool.false_or, decide_false,
    Bool.false_eq_true, if_false]

end

end Sys2Proof.Machine
end

section
/-! SUPPORT. Die-to-die links (R413): what a link that goes down leaves counted and halted. -/

open Sys2Proof Sys2Proof.Machine Sys2Proof.Claims

namespace Sys2Proof.Machine

/-! ### A die-to-die link that goes down (R413) -/

/-- A step counts no machine check and leaves the die-to-die links as they stand. -/
def LinksAlike (s t : State) : Prop := t.mcks = s.mcks ∧ t.outside.linkDown = s.outside.linkDown

namespace LinksAlike

variable {s t u : State}

theorem refl (s : State) : LinksAlike s s := ⟨rfl, rfl⟩

theorem trans (h : LinksAlike s t) (h' : LinksAlike t u) : LinksAlike s u :=
  ⟨h'.1.trans h.1, h'.2.trans h.2⟩

theorem foldl {α : Type} {g : State → α → State} {l : List α} (hg : ∀ a k, LinksAlike k (g k a)) :
    LinksAlike s (l.foldl g s) := by
  induction l generalizing s with
  | nil => exact refl s
  | cons a l ih => exact (hg a s).trans ih

theorem ite {p : Prop} [Decidable p] (ht : LinksAlike s t) (hu : LinksAlike s u) :
    LinksAlike s (if p then t else u) := by
  split_ifs
  · exact ht
  · exact hu

variable (s)

theorem modThread (n : Nat) (f : Thread → Thread) : LinksAlike s (s.modThread n f) :=
  ⟨State.modThread_mcks .., by rw [State.modThread_outside]⟩

theorem putW (c : Nat) (w : WCore) : LinksAlike s (s.putW c w) := ⟨rfl, rfl⟩

theorem modBolt (n : Nat) (f : Bolt → Bolt) : LinksAlike s (s.modBolt n f) :=
  ⟨State.modBolt_mcks .., by rw [State.modBolt_outside]⟩

/-! #### Writes of the device -/

theorem putBytes (pa : Nat) (bs : List Byte) (pz : List Bool) : LinksAlike s (s.putBytes pa bs pz) := by
  simp only [State.putBytes]
  exact ite ⟨rfl, rfl⟩ ⟨rfl, rfl⟩

theorem writeOwner (r v : Nat) (fw : Bool) : LinksAlike s (s.writeOwner r v fw) := by
  have hpin (pin : Bool) : LinksAlike s (s.writePin r pin) := by
    simp only [State.writePin, State.putPin]
    exact ite ⟨rfl, rfl⟩ (ite ⟨rfl, rfl⟩ (refl s))
  have hown (k : State) (host : Bool) : LinksAlike k (k.writeOwn r host) := by
    simp only [State.writeOwn, State.requestXfer]
    exact ite (refl k) (ite ⟨rfl, rfl⟩ ⟨rfl, rfl⟩)
  simp only [State.writeOwner]
  exact ite ((hpin _).trans (hown _ _)) (refl s)

theorem putStored (pa : Nat) (bs : List Byte) (pz : List Bool) (fw : Bool) :
    LinksAlike s (s.putStored pa bs pz fw) := by
  simp only [State.putStored]
  refine ite (foldl fun i k => ?_) (putBytes s _ _ _)
  split
  · exact writeOwner k _ _ _
  · exact putBytes k _ _ _

theorem dirWT (own : Option Nat) (line : Nat) (mask : BitVec 128) : LinksAlike s (s.dirWT own line mask) := by
  simp only [State.dirWT]
  split
  · exact refl s
  · exact ite (refl s) ⟨rfl, rfl⟩
  · exact ⟨rfl, rfl⟩

theorem engineWrite (guard view pa : Nat) (bs : List Byte) (pz : List Bool) (fw : Bool) :
    LinksAlike s (s.engineWrite guard view pa bs pz fw) := by
  have hdir := dirWT s none (pa / 128) (byteMask pa bs.length)
  exact trans (t := State.putStored _ pa bs pz fw) ((trans (t := State.putStamp _ _ _) hdir ⟨rfl, rfl⟩).trans
    (putStored _ _ _ _ _)) ⟨rfl, rfl⟩

theorem deviceWriteRun (pa : Nat) (bs : List Byte) (pz : List Bool) (n : Nat) :
    LinksAlike s (s.deviceWriteRun pa bs pz n) := by
  induction n generalizing s pa bs pz with
  | zero => exact refl s
  | succ n ih =>
    simp only [State.deviceWriteRun, State.deviceWrite]
    exact ite (refl s) ((engineWrite s _ _ _ _ _ _).trans (ih _ _ _ _))

/-! #### Machine checks in threads, and halted cores -/

theorem checkLane (core slot lane : Nat) (t : Thread) (code : Nat) :
    LinksAlike s (s.checkLane core slot lane t code) := by
  simp only [State.checkLane]
  exact ite ⟨rfl, rfl⟩ ⟨rfl, rfl⟩

theorem checkAll (code : Nat) : LinksAlike s (s.checkAll code) := by
  have howe (k : State) (tids : List Nat) :
      LinksAlike k (tids.foldl (fun s tid => s.modThread tid fun t => t.owing code) k) :=
    foldl fun tid k => modThread k tid _
  simp only [State.checkAll]
  refine trans (foldl fun p k => ?_) (foldl fun p k => howe k _)
  refine trans (foldl fun x k => foldl fun m k => ?_) (howe _ _)
  split
  · exact checkLane k _ _ _ _ _
  · exact refl k

theorem bumpRel (c : Nat) : LinksAlike s (s.bumpRel c) := by
  unfold State.bumpRel
  exact ite ⟨rfl, rfl⟩ ⟨rfl, rfl⟩

theorem unsubmit (tid : Nat) : LinksAlike s (s.unsubmit tid) :=
  ⟨by rw [State.unsubmit, State.modThread_mcks], by rw [State.unsubmit, State.modThread_outside]⟩

theorem evictFlock (k : Nat × Nat) : LinksAlike s (s.evictFlock k) :=
  foldl fun _ _ => foldl fun _ k => modBolt k _ _

theorem clearPacks (c : Nat) (which : Bolt → Bool) : LinksAlike s (s.clearPacks c which) :=
  foldl fun _ _ => foldl fun _ _ => foldl fun _ k => (unsubmit k _).trans (modThread _ _ _)

theorem clearPool (c : Nat) (which : Thread → Bool) : LinksAlike s (s.clearPool c which) := by
  unfold State.clearPool
  exact (putW s c _).trans (foldl fun _ k => (bumpRel k c).trans ⟨rfl, rfl⟩)

theorem emptyCore (c : Nat) : LinksAlike s (s.emptyCore c) := by
  unfold State.emptyCore
  exact (trans (foldl fun k s => evictFlock s k) ((clearPacks _ c _).trans (clearPool _ c _))).trans (putW _ c _)

theorem haltPackage : LinksAlike s s.haltPackage :=
  trans (foldl fun c k => emptyCore k c) (foldl fun _ _ => ⟨rfl, rfl⟩)

end LinksAlike

/-- One entry in the machine-check log counts one. -/
theorem logMck_links (s : State) : s.logMck.mcks = s.mcks + 1 ∧ s.logMck.outside.linkDown = s.outside.linkDown := by
  unfold State.logMck
  simp only
  split_ifs
  · exact ⟨rfl, rfl⟩
  · exact LinksAlike.deviceWriteRun { s with mcks := s.mcks + 1 } _ _ _ _

section

variable {s : State} {link : Nat}

theorem ucieFlitReceive_idle (h : s.outside.linkDown = true ∨ 8 ≤ link) (ok : Bool) :
    exec (.ucieFlitReceive link ok) s = .next s := by
  show execUcieFlitReceive link ok s = _
  rw [execUcieFlitReceive, if_pos]
  show (s.outside.linkDown || decide (8 ≤ link)) = true
  simpa using h

/-- A flit at a link that is up. -/
theorem ucieFlitReceive_up (hup : s.outside.linkDown = false) (hlink : link < 8) (ok : Bool) :
    exec (.ucieFlitReceive link ok) s = .next
      (if ok then { s with outside := { s.outside with ucie := tabDel s.outside.ucie link } }
      else
        let n := (tabGet s.outside.ucie link).getD 0 + 1
        if n ≤ 8 then { s with outside := { s.outside with ucie := tabPut s.outside.ucie link n } }
        else (({ s with outside := { s.outside with linkDown := true } } : State).logMck.checkAll 4).haltPackage) := by
  show execUcieFlitReceive link ok s = _
  rw [execUcieFlitReceive, if_neg]
  show ¬ (s.outside.linkDown || decide (8 ≤ link)) = true
  simpa [hup] using hlink

/-- The ninth failing flit in a row brings the link down, with one entry in the log and every core halted. -/
theorem ucieFlitReceive_down (hup : s.outside.linkDown = false) (hlink : link < 8)
    (hn : 8 ≤ (tabGet s.outside.ucie link).getD 0) :
    ∃ s', exec (.ucieFlitReceive link false) s = .next s' ∧ s'.outside.linkDown = true ∧ s'.mcks = s.mcks + 1 ∧
      (∀ core, core < 144 → (s'.wcore core).halted = true) ∧
      (∀ core, 256 ≤ core → core < 304 → (s'.lcore core).halted = true) := by
  let down : State := { s with outside := { s.outside with linkDown := true } }
  obtain ⟨hmcks, hdown⟩ := (LinksAlike.checkAll down.logMck 4).trans (LinksAlike.haltPackage _)
  refine ⟨(down.logMck.checkAll 4).haltPackage, ?_, hdown.trans (logMck_links down).2,
    hmcks.trans (logMck_links down).1, fun _ => haltPackage_wcore _, fun _ => haltPackage_lcore _⟩
  rw [ucieFlitReceive_up hup hlink, if_neg Bool.false_ne_true]
  simp only
  rw [if_neg (by omega)]

end

end Sys2Proof.Machine
end

section
/-! SUPPORT. Package reset and attestation (R423 to R425): what a reset keeps, and how long a report is. -/

open Sys2Proof Sys2Proof.Machine Sys2Proof.Claims

namespace Sys2Proof.Machine

/-! ### What package reset keeps (R423) -/

/-- A table with some of its entries left out. -/
theorem tabGet_filter {α : Type} (q : α → Bool) {lo k : Nat} :
    ∀ {t : Tab α}, tabWfFrom lo t = true → tabGet (t.filter fun p => q p.2) k = (tabGet t k).filter q
  | [], _ => rfl
  | (j, a) :: t, h => by
    simp only [tabWfFrom, Bool.and_eq_true, decide_eq_true_eq] at h
    have ih := tabGet_filter q (k := k) h.2
    by_cases hj : j = k
    · subst hj
      cases hq : q a
      · simp [tabGet, hq, ih, tabGet_below (Nat.lt_succ_self j) h.2, Option.filter]
      · simp [tabGet, hq, Option.filter]
    · cases hq : q a <;> simp [tabGet, hq, hj, ih]

theorem dirty_iff (d : Dir) : d.dirty = true ↔ d.st = .modified ∨ d.st = .owned ∨ d.st = .priv := by
  simp [Dir.dirty, or_assoc]

/-- A line that no cache holds alone is as DRAM has it. -/
theorem memByte_keptMem {s : State} {a : Nat} (h : ¬ cachedOnly s (a / 128)) :
    memByte s.keptMem a = memByte s.mem a := by
  have hclean : ∀ d ∈ s.dirs, d.1 = a / 128 → d.2.dirty = false := fun d hd hline =>
    Bool.eq_false_iff.2 fun hdirty => h ⟨d.2, hline ▸ hd, (dirty_iff d.2).1 hdirty⟩
  unfold State.keptMem
  generalize s.mem = m
  generalize s.dirs = l at hclean
  induction l generalizing m with
  | nil => rfl
  | cons d l ih =>
    rw [List.foldl_cons, ih _ fun e he => hclean e (List.mem_cons_of_mem _ he)]
    split
    · next hdirty =>
      have hother : d.1 ≠ a / 128 := fun hline => by
        rw [hclean d List.mem_cons_self hline] at hdirty
        exact Bool.false_ne_true hdirty
      rw [memByte_memStore_out]
      simp only [List.length_map, List.length_range]
      omega
    · rfl

/-- With no line in a cache alone DRAM stays as it is. -/
theorem keptMem_eq {s : State} (h : ∀ line, ¬ cachedOnly s line) : s.keptMem = s.mem := by
  have hclean : ∀ d ∈ s.dirs, d.2.dirty = false := fun d hd =>
    Bool.eq_false_iff.2 fun hdirty => h d.1 ⟨d.2, hd, (dirty_iff d.2).1 hdirty⟩
  unfold State.keptMem
  generalize s.mem = m
  generalize s.dirs = l at hclean
  induction l with
  | nil => rfl
  | cons d l ih =>
    rw [List.foldl_cons, hclean d List.mem_cons_self]
    exact ih fun e he => hclean e (List.mem_cons_of_mem _ he)

/-- A weft core keeps nothing but which of its register blocks work. -/
theorem packageReset_wcore {s : State} (h : tabWf s.wcores = true) (core : Nat) :
    s.packageReset.wcore core = (s.wcore core).afterReset := by
  have hfresh : WCore.halted0 = WCore.halted0.afterReset := rfl
  show (tabGet ((s.wcores.filter fun p => p.2.working != 336).map fun p => (p.1, p.2.afterReset)) core).getD
      WCore.halted0 =
    ((tabGet s.wcores core).getD WCore.halted0).afterReset
  rw [tabGet_map fun _ => WCore.afterReset, tabGet_filter (fun c : WCore => c.working != 336) h]
  cases tabGet s.wcores core with
  | none => exact hfresh
  | some c =>
    by_cases hc : c.working = 336
    · have hall : c.afterReset = WCore.halted0 := by
        rw [WCore.afterReset, hc]
        rfl
      simp [Option.filter, hc, hall]
    · simp [Option.filter, hc]

/-- A sensor keeps its value without its mark (R375). -/
theorem packageReset_sensor (s : State) (k : Nat) :
    (s.packageReset.sensor k).raw = (s.sensor k).raw ∧ (s.packageReset.sensor k).suspect = false := by
  have hmap : tabGet s.packageReset.sensors k = _ :=
    tabGet_map (fun _ (x : Sensor) => { x with suspect := false, since := 0 }) s.sensors k
  unfold State.sensor
  rw [hmap]
  cases tabGet s.sensors k <;> exact ⟨rfl, rfl⟩

/-- The package registers that a reset leaves (R374, R424). -/
theorem packageReset_fw (s : State) : s.packageReset.fw = { FwRegs.reset with
    fwver := s.fw.fwver
    tlim := BitVec.ofNat 64 (0x6E675F + min (s.fw.tlim.toNat / 2 ^ 24 % 2 ^ 8) 0x76 * 2 ^ 24) } := rfl

/-- Step 1 of package reset, whatever the boot ROM then does to latency cores and the mailbox (R423). -/
theorem resetFrom_packageReset {s t : State}
    (h : t = { s.packageReset with lcores := t.lcores, outside := t.outside }) : ResetFrom s t := by
  rw [h]
  exact ⟨keptMem_eq, fun _ a ha => memByte_keptMem ha, rfl, rfl, rfl, rfl, fun hw core => packageReset_wcore hw core,
    rfl, rfl, rfl, rfl, rfl, rfl, rfl, rfl, packageReset_fw s, packageReset_sensor s⟩

/-! ### The boot ROM (R423, R424) -/

theorem accepts_iff (s : State) (i : Config.FwImage) : s.accepts i = true ↔ Accepted s i := by
  simp only [State.accepts, Accepted, imageSigned, Bool.and_eq_true, beq_iff_eq, decide_eq_true_eq]
  exact and_right_comm.trans and_assoc

theorem packageReset_accepts (s : State) (i : Config.FwImage) : s.packageReset.accepts i = s.accepts i := rfl

section

variable {s : State} {i : Config.FwImage} (code : Nat)

theorem packageReset_accepted (h : Accepted s i) : ∃ s', exec (.packageReset i code) s = .next s' ∧ ResetFrom s s' ∧
    s'.lcores = State.reset.lcores ∧ s'.outside = { Outside.reset with image := some i } := by
  refine ⟨{ s.packageReset with outside := { Outside.reset with image := some i } }, ?_, resetFrom_packageReset rfl,
    rfl, rfl⟩
  show Host.Outcome.next (s.packageReset.boot i code) = _
  rw [State.boot, packageReset_accepts, (accepts_iff s i).2 h]
  rfl

theorem packageReset_refused (h : ¬ Accepted s i) : ∃ s', exec (.packageReset i code) s = .next s' ∧ ResetFrom s s' ∧
    (∀ core, (s'.lcore core).halted = true) ∧ memBytes s'.outside.mailbox 0 8 = leBytes 8 code := by
  let k : State := { s.packageReset with outside := { Outside.reset with image := some i } }
  refine ⟨(k.haltLatency 256).putMail 0 (leBytes 8 code), ?_, resetFrom_packageReset rfl, fun core => ?_, ?_⟩
  · have hrefused : s.packageReset.accepts i = false :=
      Bool.eq_false_iff.2 ((packageReset_accepts s i ▸ accepts_iff s i).not.2 h)
    show Host.Outcome.next (s.packageReset.boot i code) = _
    rw [State.boot, hrefused]
    rfl
  · show ((k.haltLatency 256).lcore core).halted = true
    by_cases hcore : 256 = core
    · subst hcore
      rw [State.haltLatency, State.lcore_putL_same]
    · rw [State.haltLatency, State.lcore_putL_other _ _ hcore]
      exact congrArg LCore.halted ((State.lcore_reset core).trans (if_neg (Ne.symm hcore)))
  · have h8 := memBytes_memStore (m := []) rfl 0 (leBytes 8 code)
    rwa [length_leBytes] at h8

end

/-! ### Attestation (R425) -/

theorem length_beBytes (n v : Nat) : (beBytes n v).length = n := by simp [beBytes, length_leBytes]

theorem length_shaBlock (h : List Nat) (b : List Byte) : (shaBlock h b).length = 8 := by simp [shaBlock]

/-- A digest has 32 bytes. -/
theorem length_sha256 (bs : List Byte) : (sha256 bs).length = 32 := by
  have hfold (l : List (List Byte)) (h : List Nat) (hh : h.length = 8) : (l.foldl shaBlock h).length = 8 := by
    induction l generalizing h with
    | nil => exact hh
    | cons b l ih => exact ih _ (length_shaBlock h b)
  simp [sha256, List.length_flatMap, length_beBytes, hfold _ shaH rfl]

theorem report_eq (s : State) (nonce : List Byte) :
    report s nonce = s.reportBody nonce ++ s.reportSign (s.reportBody nonce) := rfl

theorem length_report (s : State) {nonce : List Byte} (h : nonce.length = 32) : (report s nonce).length = 496 := by
  simp [report_eq, State.reportBody, State.reportSign, rsaSign, length_beBytes, length_sha256, length_leBytes, h]

theorem attestationRequest_of (s : State) {nonce : List Byte} (h : nonce.length = 32) :
    exec (.attestationRequest nonce) s = .next (s.putMail 0 (report s nonce)).bumpFresh := by
  show execAttestationRequest nonce s = _
  rw [execAttestationRequest, if_pos h]
  rfl

theorem attestationRequest_length (s : State) {nonce : List Byte} (h : nonce.length ≠ 32) :
    exec (.attestationRequest nonce) s = .next s := by
  show execAttestationRequest nonce s = _
  rw [execAttestationRequest, if_neg h]

theorem attestation_report (s : State) {nonce : List Byte} (h : nonce.length = 32) :
    ∃ s', exec (.attestationRequest nonce) s = .next s' ∧
      (Memory.wf s.outside.mailbox = true → memBytes s'.outside.mailbox 0 496 = report s nonce) ∧
      s' = { s with outside := { s.outside with mailbox := s'.outside.mailbox }, fresh := s.fresh + 1 } := by
  refine ⟨_, attestationRequest_of s h, fun hw => ?_, rfl⟩
  have hread := memBytes_memStore hw 0 (report s nonce)
  rwa [length_report s h] at hread

end Sys2Proof.Machine
end

section
/-! Links, reset, attestation and the steps that write registers (R95, R306, R370, R374, R375, R413 to R425). -/

open Sys2Proof Sys2Proof.Machine Sys2Proof.Claims

namespace Sys2Proof.Machine

/-! ### Core control (R374, R422) -/

section

variable {s : State} {core : Nat}

theorem isWeft_of_lt (h : core < 144) : isWeft core = true := decide_eq_true h

theorem isWeft_of_le (h : 144 ≤ core) : isWeft core = false := decide_eq_false (Nat.not_lt.2 h)

theorem isLat_of (h : 256 ≤ core) (h' : core < 304) : isLat core = true := by simp [isLat, h, h']

/-- The end of trip 3 leaves trip 2, whether a mark forces it or not (R374, R375). -/
theorem trip_level_reopen (s : State) (col : Nat) :
    ((s.reopen col).trip col).level = if (s.trip col).level = 3 then 2 else (s.trip col).level := by
  have hforced (ts : Tab Trip) : ({ s with trips := ts } : State).forcedTrip col = s.forcedTrip col := rfl
  unfold State.reopen
  by_cases h : (s.ownTrip col).level = 3
  · have hown : ({ s with trips := tabPut s.trips col { s.ownTrip col with level := 2 } } : State).ownTrip col =
        { s.ownTrip col with level := 2 } := by simp [State.ownTrip, tabGet_tabPut_same]
    simp only [h, if_true, State.trip, hforced, hown]
    cases s.forcedTrip col <;> simp [h]
  · have hlevel : (s.trip col).level ≠ 3 := by
      unfold State.trip
      simp only
      split
      · show max (s.ownTrip col).level 2 ≠ 3
        omega
      · exact h
    simp only [h, if_false, hlevel]

theorem reopen_trips (s : State) (col : Nat) : s.reopen col = { s with trips := (s.reopen col).trips } := by
  unfold State.reopen
  simp only
  split <;> rfl

@[simp] theorem reopen_threads (s : State) (col : Nat) : (s.reopen col).threads = s.threads := by rw [reopen_trips]

@[simp] theorem reopen_lcores (s : State) (col : Nat) : (s.reopen col).lcores = s.lcores := by rw [reopen_trips]

@[simp] theorem reopen_mem (s : State) (col : Nat) : (s.reopen col).mem = s.mem := by rw [reopen_trips]

theorem restart_weft (h : core < 144) :
    s.restart core = if (s.wcore core).working < 7 then s else s.putW core { s.wcore core with halted := false } := by
  rw [State.restart, if_pos (isWeft_of_lt h)]

theorem restart_latency (h : 256 ≤ core) (h' : core < 304) :
    s.restart core = s.putL core { s.lcore core with halted := false, trip3At := none } := by
  simp [State.restart, isWeft_of_le (show 144 ≤ core by omega), isLat_of h h']

theorem setClosed_weft (h : core < 144) (closed : Bool) : s.setClosed core closed =
    (if closed then s else s.reopen core).putW core
      { s.wcore core with closed := closed || decide ((s.wcore core).working < 7) } := by
  have hw : (s.reopen core).wcore core = s.wcore core := by
    rw [reopen_trips]
    rfl
  simp only [State.setClosed, isWeft_of_lt h, if_true]
  cases closed <;> simp [hw]

theorem setClosed_latency (h : 256 ≤ core) (h' : core < 304) :
    s.setClosed core false = s.reopen (256 + (core - 256) / 24) := by
  simp [State.setClosed, isWeft_of_le (show 144 ≤ core by omega), isLat_of h h', heatColumn, dieOf]

theorem setClosed_true_of_le (h : 144 ≤ core) : s.setClosed core true = s := by
  simp [State.setClosed, isWeft_of_le h]

theorem setBlocks_weft (h : core < 144) (n : Nat) : s.setBlocks core n =
    s.putW core { s.wcore core with rfblk := min (max 7 (min 336 n)) (s.wcore core).working } := by
  rw [State.setBlocks, if_pos (isWeft_of_lt h)]
  rfl

theorem setBlocks_of_le (h : 144 ≤ core) (n : Nat) : s.setBlocks core n = s := by
  simp [State.setBlocks, isWeft_of_le h]

/-- The steps that a write of corctl makes, for the core that corsel names. -/
theorem exec_coreSteps (s : State) :
    exec .corctlRestart s = .next (s.restart s.fw.corsel.toNat) ∧
    (∀ b, exec (.corctlClosed b) s = .next (s.setClosed s.fw.corsel.toNat b)) ∧
    ∀ n, exec (.corctlRfblk n) s = .next (s.setBlocks s.fw.corsel.toNat n) := ⟨rfl, fun _ => rfl, fun _ => rfl⟩

end

/-! ### merr and its log (R306) -/

/-- What a write leaves in merr (R306). -/
theorem toNat_merrMask (v : Nat) : (BitVec.ofNat 64 (merrMask v)).toNat =
    min 8 (v % 2 ^ 4) + v / 2 ^ 4 % 2 * 2 ^ 4 + v / 2 ^ 16 % 2 ^ 5 * 2 ^ 16 + v / 2 ^ 32 % 2 ^ 16 * 2 ^ 32 := by
  have hmask : merrMask v =
      min 8 (v % 2 ^ 4) + v / 2 ^ 4 % 2 * 2 ^ 4 + v / 2 ^ 16 % 2 ^ 5 * 2 ^ 16 + v / 2 ^ 32 % 2 ^ 16 * 2 ^ 32 := by
    simp only [merrMask, bitsAt, Nat.pow_zero, Nat.div_one, Nat.pow_one]
    omega
  rw [BitVec.toNat_ofNat, ← hmask, Nat.mod_eq_of_lt]
  rw [hmask]
  omega

/-- nlog of merr as a write leaves it. -/
theorem nlog_merrMask (v : Nat) : bitsAt (merrMask v) 0 4 = min 8 (v % 2 ^ 4) := by
  simp only [merrMask, bitsAt, Nat.pow_zero, Nat.div_one, Nat.pow_one]
  omega

theorem merrWrite_of {s : State} {b : Bolt} (h : s.bolt? b.id = some b) (v : Word) :
    exec (.merrWrite b.id v) s = .next (s.putBolt { b with
      merr := BitVec.ofNat 64 (merrMask v.toNat), elog := b.elog.take (min 8 (v.toNat % 2 ^ 4)) }) := by
  show Host.Outcome.next (s.writeMerr b.id v.toNat) = _
  rw [State.writeMerr, State.modBolt_of _ h, nlog_merrMask]

/-! ### Any other register (R95) -/

section

variable {s : State} {t : Thread} {core : Nat}

theorem systemRegisterWrite_of (ht : s.thread? t.tid = some t) (hc : t.core? = some core) (number : Nat) (v : Word) :
    exec (.systemRegisterWrite t.tid number v) s =
      .next (if (sysWriteLevel number).isSome then s.sysWrite t core number v else s) := by
  show execSystemRegisterWrite t.tid number v s = _
  simp only [execSystemRegisterWrite, ht, hc]

/-- A register of thread scope that can be written. -/
theorem threadWrites_row (v : Word) :
    ∀ e ∈ threadWrites v, (sysWriteLevel e.1).isSome = true ∧ threadScope e.1 = true := by
  simp [threadWrites, sysWriteLevel, threadScope]

theorem sysWrite_thread (ht : s.thread? t.tid = some t) {n : Nat} (hscope : threadScope n = true) (v : Word) :
    s.sysWrite t core n v = s.putThread (t.sysWrite n v) := by
  unfold State.sysWrite
  rw [if_pos hscope, State.modThread_of _ ht]

end

end Sys2Proof.Machine

/-- R413 to R415, R421, R423 to R426: links, scrubbing, reset and attestation. -/
theorem linksAndReset : LinksAndReset := by
  refine ⟨fun _ _ => rfl, fun s link => ⟨ucieFlitReceive_idle, fun hup hlink => ⟨?_, fun hn => ?_,
      ucieFlitReceive_down hup hlink⟩⟩,
    fun s port seq data check => ⟨lingoton_idle, lingotonFlitReceive_length, fun hup hport hlen => ⟨fun hbad => ?_,
      fun hgood hseq => lingotonFlitReceive_expected hup hport hlen ((flitGood_iff _).2 hgood) hseq,
      fun hgood hseq => lingotonFlitReceive_other hup hport hlen ((flitGood_iff _).2 hgood) hseq⟩,
      fun hup hport => ⟨lingotonNak_unknown hup hport, fun hsome hn => ?_, fun hsome hn => ?_⟩⟩,
    flit_layout, port_acked, port_acked_unknown, port_enqueue,
    fun s i code v => ⟨packageReset_accepted code, packageReset_refused code, fun hv => ?_, fun hv => ?_⟩,
    fun s nonce => ⟨fun h => ⟨length_report s h, attestation_report s h⟩, attestationRequest_length s⟩⟩
  · rw [ucieFlitReceive_up hup hlink, if_pos rfl]
  · rw [ucieFlitReceive_up hup hlink, if_neg Bool.false_ne_true]
    simp only
    rw [if_pos (Nat.succ_le_of_lt hn)]
  · exact lingotonFlitReceive_bad hup hport hlen (Bool.eq_false_iff.2 (mt (flitGood_iff _).1 hbad))
  · rw [lingotonNak_known hup hport hsome]
    exact congrArg _ (if_pos hn)
  · rw [lingotonNak_known hup hport hsome]
    exact congrArg _ (if_neg (Nat.not_le.2 hn))
  · show Host.Outcome.next (if v.toNat % 2 ^ 8 = 0xA5 then _ else s) = _
    rw [if_pos hv]
    rfl
  · show Host.Outcome.next (if v.toNat % 2 ^ 8 = 0xA5 then _ else s) = _
    rw [if_neg hv]

/-- R95, R96, R306, R370, R374, R375, R422: the steps that write registers. -/
theorem registerSteps : RegisterSteps := by
  refine ⟨fun s => ?_, fun s pid v => ?_, fun s b v hb => ?_, fun s t core number v ht hc => ⟨fun e he hn hsome => ?_,
    fun e he hn hnone => ?_, fun e he => ?_⟩⟩
  · obtain ⟨hrestart, hclosed, hblocks⟩ := exec_coreSteps s
    refine ⟨fun h => ?_, fun h h' => ?_, fun h => ?_, fun h => ?_, fun h => ?_, fun h h' => ?_, fun n h => ?_,
      fun n h => ?_, rfl⟩
    · rw [hrestart, restart_weft h]
    · rw [hrestart, restart_latency h h']
    · rw [hclosed, setClosed_weft h]
      rfl
    · refine ⟨_, hclosed false, ?_⟩
      rw [setClosed_weft h]
      exact ⟨State.wcore_putW_same .., trip_level_reopen s _, reopen_threads s _, reopen_mem s _⟩
    · rw [hclosed, setClosed_true_of_le h]
    · refine ⟨_, hclosed false, ?_⟩
      rw [setClosed_latency h h']
      exact ⟨trip_level_reopen s _, reopen_threads s _, reopen_lcores s _, reopen_mem s _⟩
    · rw [hblocks, setBlocks_weft h]
    · rw [hblocks, setBlocks_of_le h]
  · show Host.Outcome.next (s.writePerm pid v.toNat) = _
    simp [State.writePerm, bitsAt, Nat.min_comm]
  · refine ⟨_, merrWrite_of hb v, toNat_merrMask _, fun e he => ?_, fun e he => ?_, rfl⟩
    · exact List.getElem?_take_of_lt he
    · exact List.getElem?_take_eq_none he
  · subst hn
    rw [systemRegisterWrite_of ht hc, (systemRegisters_levels e he).2, if_pos (Option.isSome_iff_ne_none.2 hsome)]
  · subst hn
    rw [systemRegisterWrite_of ht hc, (systemRegisters_levels e he).2, hnone]
    rfl
  · obtain ⟨hlevel, hscope⟩ := threadWrites_row v e he
    rw [systemRegisterWrite_of ht hc, if_pos hlevel, sysWrite_thread ht hscope, thread_sysWrite t v e he]

/-- Settles O52: the links, the reset and the report by what each step leaves alone, the registers by their rows. -/
theorem linksResetAndRegisterSteps : Obligations.LinksResetAndRegisterSteps := ⟨linksAndReset, registerSteps⟩
end

section
/-! SUPPORT. One rounding of an exact real to a format (R112, R114, R115): numbers that stand for a real as far as a
rounding can tell, what a format's patterns stand for, and what the model's rounding makes of them. -/

namespace Sys2Proof.Machine

open Sys2Proof.Claims

/-! ### Numbers that round alike -/

/-- A number with the same place among the halves of whole numbers. -/
def SameHalves (x y : ℝ) : Prop := ∀ k : ℤ, ((k : ℝ) ≤ 2 * x ↔ (k : ℝ) ≤ 2 * y) ∧ (2 * x ≤ k ↔ 2 * y ≤ k)

/-- A magnitude m × 2^e that rounds to fb + 1 bits or fewer as x does: x itself, or a number whose last bit only says
that x is not a multiple of 2^(e + 1). -/
def RoundsLike (fb : Nat) (x : ℝ) (m : Nat) (e : Int) : Prop :=
  x = m * 2 ^ e ∨ m % 2 = 1 ∧ fb + 2 ≤ m.log2 ∧ |x - m * 2 ^ e| < 2 ^ e

theorem roundAt_shift (mode : RMode) (neg : Bool) (m : Nat) (e q : Int) :
    roundAt mode neg m e q = roundAt mode neg m (e - q) 0 := by
  simp only [roundAt, sub_nonneg, sub_zero, zero_sub, neg_sub]

theorem sameHalves_odd {x : ℝ} {m d : Nat} (hd : 2 ≤ d) (hm : m % 2 = 1) (hx : |x - m / 2 ^ d| < 1 / 2 ^ d) :
    SameHalves (m / 2 ^ d) x := by
  intro k
  obtain ⟨c, rfl⟩ := Nat.exists_eq_add_of_le' hd
  have hD : (0 : ℝ) < 2 ^ (c + 2) := by positivity
  have hodd : (m : ℤ) ≠ k * 2 ^ (c + 1) := fun h => by
    have : (m : ℤ) % 2 = 0 := by rw [h, pow_succ, ← mul_assoc, Int.mul_emod_left]
    omega
  have hscale (y : ℝ) : (k ≤ 2 * y ↔ k * 2 ^ (c + 1) ≤ y * 2 ^ (c + 2)) ∧ (2 * y ≤ k ↔ y * 2 ^ (c + 2) ≤ k * 2 ^ (c + 1)) := by
    have h1 : y * 2 ^ (c + 2) = 2 * y * 2 ^ (c + 1) := by ring
    have h2 : (0 : ℝ) < 2 ^ (c + 1) := by positivity
    rw [h1]
    exact ⟨(mul_le_mul_iff_left₀ h2).symm, (mul_le_mul_iff_left₀ h2).symm⟩
  have hnear : |x * 2 ^ (c + 2) - m| < 1 := by
    rw [lt_div_iff₀ hD] at hx
    calc |x * 2 ^ (c + 2) - m| = |x - m / 2 ^ (c + 2)| * 2 ^ (c + 2) := by
          rw [← abs_of_pos hD, ← abs_mul, abs_of_pos hD, sub_mul, div_mul_cancel₀ _ hD.ne']
      _ < 1 := hx
  obtain ⟨hlow, hhigh⟩ := abs_lt.1 hnear
  rw [(hscale x).1, (hscale x).2, (hscale _).1, (hscale _).2, div_mul_cancel₀ _ hD.ne']
  have hint : ((k : ℝ) * 2 ^ (c + 1) ≤ m ↔ k * 2 ^ (c + 1) ≤ (m : ℤ)) ∧
      ((m : ℝ) ≤ k * 2 ^ (c + 1) ↔ (m : ℤ) ≤ k * 2 ^ (c + 1)) := by
    constructor <;> exact_mod_cast Iff.rfl
  rw [hint.1, hint.2]
  generalize hK : k * 2 ^ (c + 1) = K at *
  have hK' : (k : ℝ) * 2 ^ (c + 1) = K := by rw [← hK]; push_cast; rfl
  rw [hK']
  rcases lt_or_gt_of_ne hodd with h | h
  · have h' : (m : ℝ) + 1 ≤ K := by exact_mod_cast h
    exact ⟨⟨fun h1 => by omega, fun h1 => by linarith⟩, ⟨fun _ => by linarith, fun _ => h.le⟩⟩
  · have h' : (K : ℝ) + 1 ≤ m := by exact_mod_cast h
    exact ⟨⟨fun _ => by linarith, fun _ => h.le⟩, ⟨fun h1 => by omega, fun h1 => by linarith⟩⟩

theorem SameHalves.eq_iff {x y : ℝ} (h : SameHalves x y) (r : Nat) : (r : ℝ) = x ↔ (r : ℝ) = y := by
  obtain ⟨h1, h2⟩ := h (2 * r)
  push_cast at h1 h2
  rw [mul_le_mul_iff_right₀ two_pos, mul_le_mul_iff_right₀ two_pos] at h1 h2
  rw [le_antisymm_iff, le_antisymm_iff, h1, h2]

/-- A rounding to whole numbers depends on the place among the halves alone. -/
theorem RoundsMag.congr {mode : RMode} {neg : Bool} {x y : ℝ} {r : Nat} (h : SameHalves x y)
    (hr : RoundsMag mode neg x r) : RoundsMag mode neg y r := by
  have hat (j : ℤ) : ((r : ℝ) + j / 2 ≤ x ↔ (r : ℝ) + j / 2 ≤ y) ∧ (x ≤ r + j / 2 ↔ y ≤ r + j / 2) := by
    obtain ⟨h1, h2⟩ := h (2 * r + j)
    push_cast at h1 h2
    exact ⟨⟨fun h => by linarith [h1.1 (by linarith)], fun h => by linarith [h1.2 (by linarith)]⟩,
      ⟨fun h => by linarith [h2.1 (by linarith)], fun h => by linarith [h2.2 (by linarith)]⟩⟩
  have hin (z : ℝ) : 2 * |z - r| ≤ 1 ↔ (r : ℝ) + (-1 : ℤ) / 2 ≤ z ∧ z ≤ r + (1 : ℤ) / 2 := by
    rw [← le_div_iff₀' two_pos, abs_le]
    push_cast
    exact ⟨fun h => ⟨by linarith [h.1], by linarith [h.2]⟩, fun h => ⟨by linarith [h.1], by linarith [h.2]⟩⟩
  have hless (z : ℝ) : 2 * |z - r| < 1 ↔ ¬ z ≤ r + (-1 : ℤ) / 2 ∧ ¬ (r : ℝ) + (1 : ℤ) / 2 ≤ z := by
    rw [← lt_div_iff₀' two_pos, abs_lt]
    push_cast
    exact ⟨fun h => ⟨by linarith [h.1], by linarith [h.2]⟩, fun h => ⟨by linarith [h.1], by linarith [h.2]⟩⟩
  have heq : 2 * |x - r| = 1 ↔ 2 * |y - r| = 1 := by
    have hmore (z : ℝ) := not_lt.symm.trans (not_congr (hless z))
    rw [le_antisymm_iff, le_antisymm_iff, hin, hin, hmore, hmore, (hat _).1, (hat _).2, (hat _).1, (hat _).2]
  obtain ⟨h0, h0'⟩ := hat 0
  obtain ⟨h1, -⟩ := hat 2
  obtain ⟨-, h2⟩ := hat (-2)
  simp only [Int.cast_zero, zero_div, add_zero] at h0 h0'
  have hup : x < r + 1 ↔ y < r + 1 := by
    rw [← not_le, ← not_le]
    simpa using not_congr h1
  have hdown : r < x + 1 ↔ r < y + 1 := by
    rw [← sub_lt_iff_lt_add, ← sub_lt_iff_lt_add, ← not_le, ← not_le]
    simpa [sub_eq_add_neg, neg_div] using not_congr h2
  cases mode with
  | rtz => simpa only [RoundsMag, h0, hup] using hr
  | rdn => simpa only [RoundsMag, h0, h0', hup, hdown] using hr
  | rup => simpa only [RoundsMag, h0, h0', hup, hdown] using hr
  | rne => simpa only [RoundsMag, hin, heq, (hat _).1, (hat _).2] using hr
  | rmm =>
    have hlt : x < r ↔ y < r := by rw [← not_le, ← not_le, h0]
    simpa only [RoundsMag, hin, heq, (hat _).1, (hat _).2, hlt] using hr

theorem RoundsMag.gt_pred {mode : RMode} {neg : Bool} {x : ℝ} {r : Nat} (h : RoundsMag mode neg x r) : x < r + 1 := by
  cases mode with
  | rtz => exact h.2
  | rdn =>
    cases neg with
    | false => exact h.2
    | true => exact h.1.trans_lt (lt_add_one _)
  | rup =>
    cases neg with
    | false => exact h.1.trans_lt (lt_add_one _)
    | true => exact h.2
  | rne => linarith [abs_le.1 (by linarith [h.1] : |x - r| ≤ 1 / 2)]
  | rmm => linarith [abs_le.1 (by linarith [h.1] : |x - r| ≤ 1 / 2)]

theorem RoundsMag.le_of_le {mode : RMode} {neg : Bool} {x : ℝ} {r K : Nat} (h : RoundsMag mode neg x r) (hx : x ≤ K) :
    r ≤ K := by
  have : (r : ℝ) < K + 1 := h.lt_succ.trans_le (by linarith)
  exact Nat.lt_succ_iff.1 (by exact_mod_cast this)

theorem RoundsMag.ge_of_ge {mode : RMode} {neg : Bool} {x : ℝ} {r K : Nat} (h : RoundsMag mode neg x r) (hx : K ≤ x) :
    K ≤ r := by
  have : (K : ℝ) < r + 1 := hx.trans_lt h.gt_pred
  exact Nat.lt_succ_iff.1 (by exact_mod_cast this)

/-! ### Rounding a magnitude at a unit -/

section

variable {fb m : Nat} {e : Int} {x : ℝ}

/-- The binary place of a number that rounds like m × 2^e. -/
theorem RoundsLike.binade (h : RoundsLike fb x m e) (hx : 0 < x) :
    (2 : ℝ) ^ (e + m.log2) ≤ x ∧ x < 2 ^ (e + m.log2 + 1) := by
  have h2 (j : Nat) : (2 : ℝ) ^ (e + j) = 2 ^ j * 2 ^ e := by
    rw [← zpow_natCast, ← zpow_add₀ two_ne_zero, add_comm]
  have he : (0 : ℝ) < 2 ^ e := by positivity
  have hm : m ≠ 0 := by
    rintro rfl
    rcases h with h | ⟨h, -⟩
    · simp [h] at hx
    · omega
  have hlow := Nat.log2_self_le hm
  have hhigh : m < 2 ^ (m.log2 + 1) := Nat.lt_log2_self
  rw [add_assoc, show (m.log2 : ℤ) + 1 = ((m.log2 + 1 : ℕ) : ℤ) by push_cast; rfl, h2, h2]
  rcases h with rfl | ⟨hodd, hlog, hnear⟩
  · exact ⟨mul_le_mul_of_nonneg_right (by exact_mod_cast hlow) he.le, mul_lt_mul_of_pos_right (by exact_mod_cast hhigh) he⟩
  · have hlow' : 2 ^ m.log2 + 1 ≤ m := by
      have : 2 ^ m.log2 % 2 = 0 := by
        obtain ⟨c, hc⟩ := Nat.exists_eq_add_of_le' (show 1 ≤ m.log2 by omega)
        rw [hc, pow_succ, Nat.mul_mod_left]
      omega
    have hlow'' : ((2 : ℝ) ^ m.log2 + 1) * 2 ^ e ≤ m * 2 ^ e := mul_le_mul_of_nonneg_right (by exact_mod_cast hlow') he.le
    have hhigh' : ((m : ℝ) + 1) * 2 ^ e ≤ 2 ^ (m.log2 + 1) * 2 ^ e :=
      mul_le_mul_of_nonneg_right (by exact_mod_cast hhigh) he.le
    obtain ⟨h3, h4⟩ := abs_lt.1 hnear
    constructor <;> linarith

/-- What a number that rounds like m × 2^e rounds to at a unit, and whether it is exact. -/
theorem roundAt_of_like (h : RoundsLike fb x m e) (mode : RMode) (neg : Bool) {q : Int} (hq : e + m.log2 - fb ≤ q) :
    RoundsMag mode neg (x / 2 ^ q) (roundAt mode neg m e q).1 ∧
      ((roundAt mode neg m e q).2 = false ↔ ((roundAt mode neg m e q).1 : ℝ) = x / 2 ^ q) := by
  have hscale : m * (2 : ℝ) ^ (e - q) = m * 2 ^ e / 2 ^ q := by rw [zpow_sub₀ two_ne_zero, mul_div_assoc]
  obtain ⟨h1, h2⟩ := roundAt_integer mode neg m (e - q)
  rw [roundAt_shift]
  rcases h with rfl | ⟨hodd, hlog, hnear⟩
  · rw [← hscale]
    exact ⟨h1, h2⟩
  · obtain ⟨d, hd⟩ : ∃ d : Nat, e - q = -d := ⟨(q - e).toNat, by omega⟩
    have hinv : (2 : ℝ) ^ (e - q) = 1 / 2 ^ d := by rw [hd, zpow_neg, zpow_natCast, one_div]
    have hsame : SameHalves (m * (2 : ℝ) ^ (e - q)) (x / 2 ^ q) := by
      rw [hinv, mul_one_div]
      refine sameHalves_odd (by omega) hodd ?_
      rw [← mul_one_div (m : ℝ), ← hinv, hscale, ← sub_div, abs_div, abs_of_pos (zpow_pos (two_pos : (0 : ℝ) < 2) q),
        zpow_sub₀ two_ne_zero]
      exact div_lt_div_of_pos_right hnear (zpow_pos two_pos q)
    exact ⟨h1.congr hsame, h2.trans (hsame.eq_iff _)⟩

end

end Sys2Proof.Machine
end

section
/-! SUPPORT. What the patterns of a format stand for (R112), and the model's one rounding to a format as the statements
name it (R114, R115). -/

namespace Sys2Proof.Machine

open Sys2Proof.Claims

/-! ### The grid of a format (R112) -/

/-- The unit of the magnitudes whose exponent field is k + 1, and of those below them for k = 0. -/
noncomputable def FFmt.unit (fm : FFmt) (k : Nat) : ℝ := (2 : ℝ) ^ (fm.emin - fm.fb + k)

theorem FFmt.unit_pos (fm : FFmt) (k : Nat) : 0 < fm.unit k := zpow_pos two_pos _

theorem FFmt.unit_add (fm : FFmt) (k j : Nat) : fm.unit (k + j) = 2 ^ j * fm.unit k := by
  rw [FFmt.unit, FFmt.unit, ← zpow_natCast, ← zpow_add₀ two_ne_zero]
  congr 1
  push_cast
  ring

theorem FFmt.unit_mono (fm : FFmt) {k j : Nat} (h : k ≤ j) : fm.unit k ≤ fm.unit j := by
  rw [FFmt.unit, FFmt.unit]
  gcongr
  exact one_le_two

/-- The sign of a value. -/
noncomputable def sgn (neg : Bool) : ℝ := if neg then -1 else 1

theorem abs_sgn (neg : Bool) : |sgn neg| = 1 := by cases neg <;> simp [sgn]

theorem sgn_mul_sgn (neg : Bool) : sgn neg * sgn neg = 1 := by cases neg <;> simp [sgn]

theorem sgn_mul_neg_iff (neg : Bool) {x : ℝ} (hx : 0 < x) : sgn neg * x < 0 ↔ neg = true := by
  cases neg <;> simp [sgn, hx, hx.le]

section

variable {fm : FFmt} (hfb : 0 < fm.fb) (heb : 1 < fm.eb)

include heb in
theorem one_le_bias : 1 ≤ fm.bias := by
  have h1 := two_pow_eb (fm := fm) (by omega)
  have h2 := Nat.pow_le_pow_right (show 0 < 2 by decide) heb
  omega

include heb in
/-- The unit below infinity. -/
theorem unit_top : fm.unit (2 * fm.bias - 1) = (2 : ℝ) ^ ((fm.bias : ℤ) - fm.fb) := by
  have := one_le_bias heb
  rw [FFmt.unit, FFmt.emin]
  congr 1
  omega

include heb in
theorem infMag_eq : fm.infMag = (2 * fm.bias - 1) * 2 ^ fm.fb + 2 ^ (fm.fb + 1) := by
  have h1 := two_pow_eb (fm := fm) (by omega)
  have h2 := one_le_bias heb
  rw [FFmt.infMag, h1, pow_succ, mul_comm (2 ^ fm.fb) 2, ← add_mul]
  congr 1
  omega

include heb in
theorem greatest_eq : greatest fm = ((2 : ℝ) ^ (fm.fb + 1) - 1) * fm.unit (2 * fm.bias - 1) := by
  rw [unit_top heb, greatest, zpow_sub₀ two_ne_zero, zpow_neg, zpow_natCast, zpow_natCast, pow_succ]
  field_simp

include heb in
theorem overflowsAt_eq : overflowsAt fm = ((2 : ℝ) ^ (fm.fb + 1) - 1 / 2) * fm.unit (2 * fm.bias - 1) := by
  rw [unit_top heb, overflowsAt, zpow_sub₀ two_ne_zero, zpow_sub₀ two_ne_zero, zpow_neg, zpow_natCast, zpow_natCast,
    zpow_one, pow_succ]
  field_simp

include heb in
theorem two_pow_bias : (2 : ℝ) ^ (fm.bias + 1) = 2 ^ (fm.fb + 1) * fm.unit (2 * fm.bias - 1) := by
  rw [unit_top heb, zpow_sub₀ two_ne_zero, zpow_natCast, zpow_natCast, pow_succ, pow_succ]
  field_simp

/-- The pattern of a multiple of a unit (R112). -/
theorem stands_mag (heb : 1 < fm.eb) (neg : Bool) {k r : Nat} (hk : k ≠ 0 → 2 ^ fm.fb ≤ r) (hr : r ≤ 2 ^ (fm.fb + 1))
    (hmax : k * 2 ^ fm.fb + r < fm.infMag) :
    Stands fm (fm.signed neg (k * 2 ^ fm.fb + r)) (sgn neg * (r * fm.unit k)) ∧
      bitAt (fm.signed neg (k * 2 ^ fm.fb + r)) (fm.eb + fm.fb) = neg := by
  have hlt : k * 2 ^ fm.fb + r < (2 ^ fm.eb - 1) * 2 ^ fm.fb := hmax
  rw [← mul_assoc]
  rcases lt_or_ge r (2 ^ fm.fb) with hlow | hlow
  · obtain rfl : k = 0 := by_contra fun h => absurd (hk h) (not_le.2 hlow)
    obtain ⟨h1, h2, h3, h4⟩ := fields_fieldsPattern (fm := fm) neg (Nat.two_pow_pos fm.eb) hlow
    have h5 := Nat.one_lt_two_pow (n := fm.eb) (by omega)
    rw [zero_mul, zero_add, show fm.signed neg r = fieldsPattern fm neg 0 r by
      rw [← signed_eq, mul_zero, zero_add]]
    refine ⟨⟨h4, ?_⟩, h3⟩
    simp only [FFmt.decode, h1, h2, h3, if_neg (show ¬ 0 = 2 ^ fm.eb - 1 by omega), if_true, realOf]
    simp [FFmt.unit, sgn]
  · have hk2 (j : Nat) (hj : j * 2 ^ fm.fb + 2 ^ fm.fb ≤ k * 2 ^ fm.fb + r) : j + 2 < 2 ^ fm.eb := by
      have h1 : (j + 1) * 2 ^ fm.fb < (2 ^ fm.eb - 1) * 2 ^ fm.fb := by rw [add_mul]; omega
      have := Nat.lt_of_mul_lt_mul_right h1
      omega
    rcases hr.lt_or_eq with hr' | rfl
    · exact stands_normal neg hlow hr' (hk2 k (by omega))
    · have hnext : k * 2 ^ fm.fb + 2 ^ (fm.fb + 1) = (k + 1) * 2 ^ fm.fb + 2 ^ fm.fb := by ring
      have hval : sgn neg * ((2 ^ (fm.fb + 1) : ℕ) : ℝ) * fm.unit k = sgn neg * ((2 ^ fm.fb : ℕ) : ℝ) * fm.unit (k + 1) := by
        rw [FFmt.unit_add]
        push_cast
        ring
      rw [hval, hnext]
      exact stands_normal neg le_rfl (Nat.pow_lt_pow_right (by decide) (by omega)) (hk2 _ hnext.ge)

include heb in
/-- A value that a pattern stands for is a multiple of one of the format's units. -/
theorem stands_multiple {p : Nat} {v : ℝ} (h : Stands fm p v) :
    ∃ (neg : Bool) (M j : Nat), M < 2 ^ (fm.fb + 1) ∧ j ≤ 2 * fm.bias - 1 ∧ v = sgn neg * (M * fm.unit j) := by
  obtain ⟨-, h⟩ := h
  have hfrac : bitsAt p 0 fm.fb < 2 ^ fm.fb := Nat.mod_lt _ (Nat.two_pow_pos _)
  have hex : bitsAt p fm.fb fm.eb < 2 ^ fm.eb := Nat.mod_lt _ (Nat.two_pow_pos _)
  have hpow := two_pow_eb (fm := fm) (by omega)
  simp only [FFmt.decode] at h
  split_ifs at h with h2 h3 h4
  · cases h
  · cases h
  · cases h
    refine ⟨bitAt p (fm.eb + fm.fb), bitsAt p 0 fm.fb, 0, ?_, Nat.zero_le _, ?_⟩
    · rw [pow_succ]
      omega
    · rw [← mul_assoc, FFmt.unit, Nat.cast_zero, add_zero]
      rfl
  · cases h
    refine ⟨bitAt p (fm.eb + fm.fb), 2 ^ fm.fb + bitsAt p 0 fm.fb, bitsAt p fm.fb fm.eb - 1, ?_, by omega, ?_⟩
    · rw [pow_succ]
      omega
    · rw [← mul_assoc, FFmt.unit, Nat.cast_sub (by omega), Nat.cast_one, add_sub_assoc]
      rfl

include heb in
/-- A value that a pattern stands for: a multiple of a unit, or one that lies below the numbers with that unit as their
last bit. -/
theorem stands_grid {p : Nat} {v : ℝ} (h : Stands fm p v) (k : Nat) :
    (∃ z : ℤ, v = z * fm.unit k) ∨ k ≠ 0 ∧ |v| < 2 ^ fm.fb * fm.unit k := by
  obtain ⟨neg, M, j, hM, -, rfl⟩ := stands_multiple heb h
  rcases le_or_gt k j with hkj | hkj
  · obtain ⟨c, rfl⟩ := Nat.exists_eq_add_of_le hkj
    refine .inl ⟨(if neg then -1 else 1) * (M * 2 ^ c), ?_⟩
    rw [FFmt.unit_add, sgn]
    push_cast
    ring
  · obtain ⟨c, rfl⟩ := Nat.exists_eq_add_of_le' hkj
    refine .inr ⟨by omega, ?_⟩
    have hM' : (M : ℝ) < 2 ^ (fm.fb + 1) := by exact_mod_cast hM
    rw [abs_mul, abs_sgn, one_mul, abs_of_nonneg (mul_nonneg M.cast_nonneg (fm.unit_pos j).le)]
    calc M * fm.unit j < 2 ^ (fm.fb + 1) * fm.unit j := mul_lt_mul_of_pos_right hM' (fm.unit_pos j)
      _ = 2 ^ fm.fb * fm.unit (j + 1) := by rw [FFmt.unit_add]; ring
      _ ≤ _ := mul_le_mul_of_nonneg_left (fm.unit_mono (by omega)) (by positivity)

include heb in
/-- No pattern stands for more than the greatest value. -/
theorem abs_le_greatest {p : Nat} {v : ℝ} (h : Stands fm p v) : |v| ≤ greatest fm := by
  obtain ⟨neg, M, j, hM, hj, rfl⟩ := stands_multiple heb h
  have hM' : (M : ℝ) ≤ 2 ^ (fm.fb + 1) - 1 := by
    have : (M : ℝ) + 1 ≤ 2 ^ (fm.fb + 1) := by exact_mod_cast hM
    linarith
  rw [greatest_eq heb, abs_mul, abs_sgn, one_mul, abs_of_nonneg (mul_nonneg M.cast_nonneg (fm.unit_pos j).le)]
  exact mul_le_mul hM' (fm.unit_mono hj) (fm.unit_pos j).le (M.cast_nonneg.trans hM')

end

/-! ### A magnitude in its place -/

/-- A magnitude x > 0 rounds to r at the unit k, which is the unit of its binary place or the least one. -/
structure RoundsAt (fm : FFmt) (mode : RMode) (neg : Bool) (x : ℝ) (k r : Nat) : Prop where
  rounds : RoundsMag mode neg (x / fm.unit k) r
  low : k ≠ 0 → 2 ^ fm.fb * fm.unit k ≤ x
  high : x < 2 ^ (fm.fb + 1) * fm.unit k

/-- Whether a rounding is to nearest, and whether one that is not goes away from zero. -/
def toNearest (mode : RMode) : Bool := mode == .rne || mode == .rmm
def outward (mode : RMode) (neg : Bool) : Bool := mode == .rdn && neg || mode == .rup && !neg

theorem RoundsMag.of_toNearest {mode : RMode} {neg : Bool} {x : ℝ} {r : Nat} (h : RoundsMag mode neg x r)
    (hm : toNearest mode = true) : 2 * |x - r| ≤ 1 ∧ (2 * |x - r| = 1 → if mode = .rne then r % 2 = 0 else x < r) := by
  cases mode with
  | rne => exact h
  | rmm => exact h
  | rtz | rdn | rup => exact absurd hm (by decide)

theorem RoundsMag.of_outward {mode : RMode} {neg : Bool} {x : ℝ} {r : Nat} (h : RoundsMag mode neg x r)
    (ho : outward mode neg = true) : x ≤ r ∧ r < x + 1 := by
  cases mode with
  | rdn => cases neg with
    | true => exact h
    | false => exact absurd ho (by decide)
  | rup => cases neg with
    | false => exact h
    | true => exact absurd ho (by decide)
  | rne | rmm | rtz => simp [outward] at ho

theorem RoundsMag.of_inward {mode : RMode} {neg : Bool} {x : ℝ} {r : Nat} (h : RoundsMag mode neg x r)
    (hm : toNearest mode = false) (ho : outward mode neg = false) : r ≤ x ∧ x < r + 1 := by
  cases mode with
  | rtz => exact h
  | rdn => cases neg with
    | false => exact h
    | true => exact absurd ho (by decide)
  | rup => cases neg with
    | true => exact h
    | false => exact absurd ho (by decide)
  | rne | rmm => exact absurd hm (by decide)

/-- Where a magnitude overflows (R115). -/
theorem overflows_iff (fm : FFmt) (mode : RMode) (neg : Bool) {x : ℝ} (hx : 0 < x) (hg : 0 ≤ greatest fm) :
    Overflows fm mode (sgn neg * x) ↔ if toNearest mode then overflowsAt fm ≤ x
      else if outward mode neg then greatest fm < x else (2 : ℝ) ^ (fm.bias + 1) ≤ x := by
  have habs : |sgn neg * x| = x := by rw [abs_mul, abs_sgn, one_mul, abs_of_pos hx]
  have hpow : (0 : ℝ) < 2 ^ (fm.bias + 1) := by positivity
  have hinf : ¬ x ≤ -2 ^ (fm.bias + 1) ∧ ¬ (2 : ℝ) ^ (fm.bias + 1) ≤ -x := ⟨by linarith, by linarith⟩
  have hmax : ¬ x < -greatest fm ∧ ¬ greatest fm < -x := ⟨by linarith, by linarith⟩
  cases mode with
  | rne | rmm => simp [Overflows, toNearest, habs]
  | rtz => simp [Overflows, toNearest, outward, habs]
  | rdn | rup => cases neg <;> simp [Overflows, toNearest, outward, sgn, hinf, hmax]

namespace RoundsAt

variable {fm : FFmt} {mode : RMode} {neg : Bool} {x : ℝ} {k r : Nat}

theorem le (h : RoundsAt fm mode neg x k r) : r ≤ 2 ^ (fm.fb + 1) :=
  h.rounds.le_of_le (by push_cast; exact ((div_lt_iff₀ (fm.unit_pos k)).2 h.high).le)

theorem ge (h : RoundsAt fm mode neg x k r) (hk : k ≠ 0) : 2 ^ fm.fb ≤ r :=
  h.rounds.ge_of_ge (by push_cast; exact (le_div_iff₀ (fm.unit_pos k)).2 (h.low hk))

/-- Infinity is reached at the last unit, by rounding up, or beyond. -/
theorem infMag_le_iff (h : RoundsAt fm mode neg x k r) (heb : 1 < fm.eb) :
    fm.infMag ≤ k * 2 ^ fm.fb + r ↔
      2 * fm.bias - 1 < k ∨ k = 2 * fm.bias - 1 ∧ r = 2 ^ (fm.fb + 1) := by
  have hr := h.le
  rw [infMag_eq heb]
  rcases lt_trichotomy k (2 * fm.bias - 1) with hk | rfl | hk
  · have : (k + 1) * 2 ^ fm.fb ≤ (2 * fm.bias - 1) * 2 ^ fm.fb := Nat.mul_le_mul_right _ hk
    have := Nat.two_pow_pos fm.fb
    rw [add_mul] at *
    constructor <;> intro <;> omega
  · constructor <;> intro <;> omega
  · have : (2 * fm.bias - 1 + 1) * 2 ^ fm.fb ≤ k * 2 ^ fm.fb := Nat.mul_le_mul_right _ hk
    have := h.ge (by omega)
    rw [add_mul] at *
    rw [pow_succ]
    constructor <;> intro <;> omega

/-- Where a rounding reaches infinity (R115). -/
theorem infMag_le_iff_overflows (h : RoundsAt fm mode neg x k r) (heb : 1 < fm.eb) (hx : 0 < x) :
    fm.infMag ≤ k * 2 ^ fm.fb + r ↔ Overflows fm mode (sgn neg * x) := by
  have hU := fm.unit_pos (2 * fm.bias - 1)
  have hF : (1 : ℝ) ≤ 2 ^ fm.fb := one_le_pow₀ one_le_two
  have hF' : (2 : ℝ) ^ (fm.fb + 1) = 2 * 2 ^ fm.fb := pow_succ' ..
  have hg : 0 ≤ greatest fm := by rw [greatest_eq heb]; exact mul_nonneg (by linarith) hU.le
  rw [h.infMag_le_iff heb, overflows_iff fm mode neg hx hg, overflowsAt_eq heb, greatest_eq heb, two_pow_bias heb,
    ← le_div_iff₀ hU, ← lt_div_iff₀ hU, ← le_div_iff₀ hU]
  rcases lt_trichotomy k (2 * fm.bias - 1) with hk | rfl | hk
  · have hlow : x / fm.unit (2 * fm.bias - 1) < 2 ^ fm.fb := by
      rw [div_lt_iff₀ hU]
      calc x < 2 ^ (fm.fb + 1) * fm.unit k := h.high
        _ = 2 ^ fm.fb * fm.unit (k + 1) := by rw [FFmt.unit_add]; ring
        _ ≤ _ := mul_le_mul_of_nonneg_left (fm.unit_mono hk) (by positivity)
    refine iff_of_false (by omega) ?_
    split_ifs <;> linarith
  · have hX := (div_lt_iff₀ hU).2 h.high
    have hr := h.le
    have hr' : r = 2 ^ (fm.fb + 1) ↔ (2 : ℝ) ^ (fm.fb + 1) ≤ r :=
      ⟨fun h => by rw [h]; push_cast; exact le_rfl, fun h => hr.antisymm (by exact_mod_cast h)⟩
    simp only [lt_irrefl, false_or, true_and]
    have hround := h.rounds
    generalize x / fm.unit (2 * fm.bias - 1) = X at *
    split_ifs with hm ho
    · obtain ⟨h1, h2⟩ := hround.of_toNearest hm
      refine ⟨fun h3 => ?_, fun h3 => by_contra fun h4 => ?_⟩
      · subst h3
        push_cast at h1
        linarith [(abs_le.1 (by linarith : |X - 2 ^ (fm.fb + 1)| ≤ 1 / 2)).1]
      · have h5 : r + 1 ≤ 2 ^ (fm.fb + 1) := by omega
        have h6 : (r : ℝ) + 1 ≤ 2 ^ (fm.fb + 1) := by exact_mod_cast h5
        have h7 : |X - r| = X - r := abs_of_nonneg (by linarith)
        rw [h7] at h1 h2
        have h8 : (r : ℝ) + 1 = 2 ^ (fm.fb + 1) := by linarith
        have h9 : r + 1 = 2 ^ (fm.fb + 1) := by exact_mod_cast h8
        have h10 := h2 (by linarith)
        split_ifs at h10
        · rw [pow_succ] at h9
          omega
        · linarith
    · obtain ⟨h1, h2⟩ := hround.of_outward ho
      rw [hr']
      refine ⟨fun h3 => by linarith, fun h3 => ?_⟩
      have h4 : (2 : ℝ) ^ (fm.fb + 1) < r + 1 := by linarith
      have h5 : 2 ^ (fm.fb + 1) < r + 1 := by exact_mod_cast h4
      exact hr'.1 (by omega)
    · obtain ⟨h1, h2⟩ := hround.of_inward (by simpa using hm) (by simpa using ho)
      rw [hr']
      exact ⟨fun h3 => by linarith, fun h3 => by linarith⟩
  · have hhigh : 2 ^ (fm.fb + 1) ≤ x / fm.unit (2 * fm.bias - 1) := by
      rw [le_div_iff₀ hU]
      calc 2 ^ (fm.fb + 1) * fm.unit (2 * fm.bias - 1) = 2 ^ fm.fb * fm.unit (2 * fm.bias - 1 + 1) := by
            rw [FFmt.unit_add]; ring
        _ ≤ 2 ^ fm.fb * fm.unit k := mul_le_mul_of_nonneg_left (fm.unit_mono hk) (by positivity)
        _ ≤ x := h.low (by omega)
    refine iff_of_true (.inl hk) ?_
    split_ifs <;> linarith

end RoundsAt
end Sys2Proof.Machine
end

section
/-! SUPPORT. The model's rounding delivers the exact real (R114, R115). -/

namespace Sys2Proof.Machine

open Sys2Proof.Claims

/-! ### The value that a magnitude rounds to (R114) -/

/-- A place at the scale of a unit: a whole number, or one below the numbers with that unit as their last bit. -/
def OnGrid (fm : FFmt) (k : Nat) (R : ℝ) : Prop := (∃ z : ℤ, R = z) ∨ k ≠ 0 ∧ |R| < 2 ^ fm.fb

theorem OnGrid.abs {fm : FFmt} {k : Nat} {R : ℝ} (h : OnGrid fm k R) : OnGrid fm k |R| := by
  rcases h with ⟨z, rfl⟩ | ⟨hk, hlt⟩
  · exact .inl ⟨|z|, by push_cast; rfl⟩
  · exact .inr ⟨hk, by rwa [abs_abs]⟩

theorem signed_even {fm : FFmt} (hfb : 0 < fm.fb) (neg : Bool) (k r : Nat) :
    fm.signed neg (k * 2 ^ fm.fb + r) % 2 = r % 2 := by
  have h1 : 2 ∣ 2 ^ fm.fb := dvd_pow_self 2 hfb.ne'
  have h2 : 2 ∣ 2 ^ (fm.eb + fm.fb) := dvd_pow_self 2 (by omega)
  have h3 : 2 ∣ k * 2 ^ fm.fb := h1.mul_left k
  unfold FFmt.signed
  cases neg
  · simp only [Bool.false_eq_true, if_false]
    omega
  · simp only [if_true]
    omega

theorem abs_scaled (neg : Bool) {U : ℝ} (hU : 0 < U) (A : ℝ) : |sgn neg * (A * U)| = |A| * U := by
  rw [abs_mul, abs_sgn, one_mul, abs_mul, abs_of_pos hU]

theorem abs_scaled_sub (neg : Bool) {U : ℝ} (hU : 0 < U) (A B : ℝ) :
    |sgn neg * (A * U) - sgn neg * (B * U)| = |A - B| * U := by
  rw [← mul_sub, ← sub_mul, abs_scaled neg hU]

theorem stands_scaled {fm : FFmt} (heb : 1 < fm.eb) {p : Nat} {v : ℝ} (h : Stands fm p v) (neg : Bool) (k : Nat) :
    ∃ R, v = sgn neg * (R * fm.unit k) ∧ OnGrid fm k R := by
  have hU := fm.unit_pos k
  refine ⟨sgn neg * (v / fm.unit k), ?_, ?_⟩
  · rw [mul_assoc, div_mul_cancel₀ _ hU.ne', ← mul_assoc, sgn_mul_sgn, one_mul]
  · obtain ⟨z, rfl⟩ | ⟨hk, hlt⟩ := stands_grid heb h k
    · refine .inl ⟨(if neg then -1 else 1) * z, ?_⟩
      rw [mul_div_cancel_right₀ _ hU.ne', sgn]
      push_cast
      rfl
    · refine .inr ⟨hk, ?_⟩
      rwa [abs_mul, abs_sgn, one_mul, abs_div, abs_of_pos hU, div_lt_iff₀ hU]

namespace RoundsAt

variable {fm : FFmt} {mode : RMode} {neg : Bool} {x : ℝ} {k r : Nat}

section

variable (h : RoundsAt fm mode neg x k r) (hx : 0 < x) {R : ℝ} (hR : OnGrid fm k R)

include h in
/-- Where the grid is finer than the unit, both the magnitude and what it rounds to lie above. -/
theorem low_scaled (hk : k ≠ 0) : (2 : ℝ) ^ fm.fb ≤ x / fm.unit k ∧ (2 : ℝ) ^ fm.fb ≤ r :=
  ⟨(le_div_iff₀ (fm.unit_pos k)).2 (h.low hk), by exact_mod_cast h.ge hk⟩

include h hx hR in
/-- Nothing on the grid lies nearer than what a rounding to nearest gives, and a tie lies within half a unit. -/
theorem nearest_le (hm : toNearest mode = true) :
    |x / fm.unit k - r| ≤ |x / fm.unit k - R| ∧ (|x / fm.unit k - r| = |x / fm.unit k - R| → R ≠ r →
      if mode = .rne then r % 2 = 0 else |R| < r) := by
  obtain ⟨h1, h2⟩ := h.rounds.of_toNearest hm
  have hlow := h.low_scaled
  have hX : 0 < x / fm.unit k := div_pos hx (fm.unit_pos k)
  generalize x / fm.unit k = X at *
  rcases hR with ⟨z, rfl⟩ | ⟨hk, hlt⟩
  · rcases eq_or_ne z r with rfl | hz
    · simp
    · have h3 : (1 : ℝ) ≤ |(z : ℝ) - r| := by exact_mod_cast Int.one_le_abs (sub_ne_zero.2 hz)
      have h4 : |(z : ℝ) - r| ≤ |X - z| + |X - r| := by
        rw [abs_sub_comm X]
        exact abs_sub_le ..
      refine ⟨by linarith, fun htie _ => ?_⟩
      have h5 := h2 (by linarith)
      split_ifs with hmode
      · rwa [if_pos hmode] at h5
      · rw [if_neg hmode] at h5
        rcases abs_eq_abs.1 htie with h6 | h6
        · exact absurd (by exact_mod_cast (sub_right_inj.1 h6).symm) hz
        · rw [abs_lt]
          constructor <;> linarith
  · obtain ⟨h3, h4⟩ := hlow hk
    have h5 : R < 2 ^ fm.fb := (le_abs_self R).trans_lt hlt
    have h6 : |X - r| < X - R := by
      rw [abs_lt]
      refine ⟨?_, by linarith⟩
      rcases h4.eq_or_lt with h7 | h7
      · linarith
      · have h8 : 2 ^ fm.fb + 1 ≤ r := by exact_mod_cast h7
        have h9 : (2 : ℝ) ^ fm.fb + 1 ≤ r := by exact_mod_cast h8
        linarith [abs_le.1 (by linarith : |X - r| ≤ 1 / 2)]
    rw [abs_of_pos (by linarith : 0 < X - R)]
    exact ⟨h6.le, fun htie => absurd htie h6.ne⟩

include h hR in
/-- Nothing on the grid lies between a magnitude and what a rounding towards zero gives. -/
theorem inward_le (hm : toNearest mode = false) (ho : outward mode neg = false) :
    (r : ℝ) ≤ x / fm.unit k ∧ (R ≤ x / fm.unit k → R ≤ r) := by
  obtain ⟨h1, h2⟩ := h.rounds.of_inward hm ho
  refine ⟨h1, fun hle => ?_⟩
  rcases hR with ⟨z, rfl⟩ | ⟨hk, hlt⟩
  · have h3 : (z : ℝ) < r + 1 := hle.trans_lt h2
    have h4 : z < r + 1 := by exact_mod_cast h3
    exact_mod_cast Int.lt_add_one_iff.1 h4
  · exact ((le_abs_self R).trans hlt.le).trans (h.low_scaled hk).2

include h hR in
/-- Nothing on the grid lies between a magnitude and what a rounding away from zero gives. -/
theorem le_outward (ho : outward mode neg = true) :
    x / fm.unit k ≤ r ∧ (x / fm.unit k ≤ R → r ≤ R) := by
  obtain ⟨h1, h2⟩ := h.rounds.of_outward ho
  refine ⟨h1, fun hle => ?_⟩
  rcases hR with ⟨z, rfl⟩ | ⟨hk, hlt⟩
  · have h3 : (r : ℝ) < z + 1 := by linarith
    have h4 : r < z + 1 := by exact_mod_cast h3
    exact_mod_cast Int.lt_add_one_iff.1 h4
  · exact absurd hle (not_le.2 (((le_abs_self R).trans_lt hlt).trans_le (h.low_scaled hk).1))

end

/-- A result below infinity (R114). -/
theorem isRounded_finite (h : RoundsAt fm mode neg x k r) (hx : 0 < x) (hfb : 0 < fm.fb) (heb : 1 < fm.eb)
    (hmax : k * 2 ^ fm.fb + r < fm.infMag) :
    IsRounded fm mode (sgn neg * x) (fm.signed neg (k * 2 ^ fm.fb + r)) := by
  have hU := fm.unit_pos k
  obtain ⟨hstands, hbit⟩ := stands_mag heb neg h.ge h.le hmax
  have hover : ¬ Overflows fm mode (sgn neg * x) := fun ho =>
    absurd ((h.infMag_le_iff_overflows heb hx).2 ho) (not_le.2 hmax)
  have hxU : sgn neg * x = sgn neg * (x / fm.unit k * fm.unit k) := by rw [div_mul_cancel₀ _ hU.ne']
  have hscaled {q : Nat} {v : ℝ} (hv : Stands fm q v) := stands_scaled heb hv neg k
  refine ⟨?_, ?_⟩
  · rw [hbit]
    cases neg <;> simp [sgn, hx, hx.le]
  · have hnear (hm : toNearest mode = true) : ∀ q v, Stands fm q v →
        |sgn neg * x - sgn neg * (r * fm.unit k)| ≤ |sgn neg * x - v| ∧
        (|sgn neg * x - sgn neg * (r * fm.unit k)| = |sgn neg * x - v| → v ≠ sgn neg * (r * fm.unit k) →
          if mode = .rne then fm.signed neg (k * 2 ^ fm.fb + r) % 2 = 0 else |v| < |sgn neg * (r * fm.unit k)|) := by
      intro q v hv
      obtain ⟨R, rfl, hR⟩ := hscaled hv
      obtain ⟨h1, h2⟩ := h.nearest_le hx hR hm
      rw [hxU, abs_scaled_sub neg hU, abs_scaled_sub neg hU, abs_scaled neg hU, abs_scaled neg hU,
        mul_le_mul_iff_left₀ hU, mul_lt_mul_iff_left₀ hU, mul_left_inj' hU.ne', Nat.abs_cast]
      refine ⟨h1, fun htie hne => ?_⟩
      have h3 := h2 htie (fun hRr => hne (by rw [hRr]))
      split_ifs with hmode
      · rwa [if_pos hmode, ← signed_even hfb neg k] at h3
      · rwa [if_neg hmode] at h3
    have hin (hm : toNearest mode = false) (ho : outward mode neg = false) : r * fm.unit k ≤ x ∧
        ∀ R, OnGrid fm k R → R * fm.unit k ≤ x → R * fm.unit k ≤ r * fm.unit k := by
      rw [← le_div_iff₀ hU]
      exact ⟨(h.inward_le (.inl ⟨0, rfl⟩) hm ho).1, fun R hR hle =>
        mul_le_mul_of_nonneg_right ((h.inward_le hR hm ho).2 ((le_div_iff₀ hU).2 hle)) hU.le⟩
    have hout (ho : outward mode neg = true) : x ≤ r * fm.unit k ∧
        ∀ R, OnGrid fm k R → x ≤ R * fm.unit k → r * fm.unit k ≤ R * fm.unit k := by
      rw [← div_le_iff₀ hU]
      exact ⟨(h.le_outward (.inl ⟨0, rfl⟩) ho).1, fun R hR hle =>
        mul_le_mul_of_nonneg_right ((h.le_outward hR ho).2 ((div_le_iff₀ hU).2 hle)) hU.le⟩
    cases mode with
    | rne | rmm => exact (if_pos (not_le.1 hover)).mpr ⟨_, hstands, hnear rfl⟩
    | rtz =>
      obtain ⟨h1, h2⟩ := hin rfl rfl
      refine ⟨_, hstands, ?_, fun q v hv _ hle => ?_⟩
      · rwa [abs_scaled neg hU, Nat.abs_cast, abs_mul, abs_sgn, one_mul, abs_of_pos hx]
      · obtain ⟨R, rfl, hR⟩ := hscaled hv
        rw [abs_scaled neg hU, abs_mul, abs_sgn, one_mul, abs_of_pos hx] at hle
        rw [abs_scaled neg hU, abs_scaled neg hU, Nat.abs_cast]
        exact h2 _ hR.abs hle
    | rdn =>
      refine (if_neg fun ho => hover (.inl ho)).mpr ⟨_, hstands, ?_⟩
      cases neg with
      | false =>
        obtain ⟨h1, h2⟩ := hin rfl rfl
        refine ⟨by simpa [sgn] using h1, fun q v hv hle => ?_⟩
        obtain ⟨R, rfl, hR⟩ := hscaled hv
        simpa [sgn] using h2 R hR (by simpa [sgn] using hle)
      | true =>
        obtain ⟨h1, h2⟩ := hout rfl
        refine ⟨by simpa [sgn] using h1, fun q v hv hle => ?_⟩
        obtain ⟨R, rfl, hR⟩ := hscaled hv
        simpa [sgn] using h2 R hR (by simpa [sgn] using hle)
    | rup =>
      refine (if_neg fun ho => hover (.inl ho)).mpr ⟨_, hstands, ?_⟩
      cases neg with
      | false =>
        obtain ⟨h1, h2⟩ := hout rfl
        refine ⟨by simpa [sgn] using h1, fun q v hv hle => ?_⟩
        obtain ⟨R, rfl, hR⟩ := hscaled hv
        simpa [sgn] using h2 R hR (by simpa [sgn] using hle)
      | true =>
        obtain ⟨h1, h2⟩ := hin rfl rfl
        refine ⟨by simpa [sgn] using h1, fun q v hv hle => ?_⟩
        obtain ⟨R, rfl, hR⟩ := hscaled hv
        simpa [sgn] using h2 R hR (by simpa [sgn] using hle)

end RoundsAt

/-! ### Overflow (R115) -/

section

variable {fm : FFmt} (heb : 1 < fm.eb)

include heb in
/-- The greatest value (R112). -/
theorem stands_greatest (neg : Bool) : Stands fm (fm.signed neg fm.maxMag) (sgn neg * greatest fm) ∧
    bitAt (fm.signed neg fm.maxMag) (fm.eb + fm.fb) = neg := by
  have h1 := Nat.one_le_two_pow (n := fm.fb)
  have hmag : fm.maxMag = (2 * fm.bias - 1) * 2 ^ fm.fb + (2 ^ (fm.fb + 1) - 1) := by
    rw [FFmt.maxMag, infMag_eq heb, pow_succ]
    omega
  have hval : greatest fm = ((2 ^ (fm.fb + 1) - 1 : ℕ) : ℝ) * fm.unit (2 * fm.bias - 1) := by
    rw [greatest_eq heb, Nat.cast_sub Nat.one_le_two_pow]
    push_cast
    rfl
  rw [hmag, hval]
  refine stands_mag heb neg (fun _ => ?_) (Nat.sub_le ..) ?_
  · rw [pow_succ]
    omega
  · rw [infMag_eq heb, pow_succ]
    omega

include heb in
theorem infinity_sign (neg : Bool) : bitAt (fm.signed neg fm.infMag) (fm.eb + fm.fb) = neg ∧
    ∀ v, ¬ Stands fm (fm.signed neg fm.infMag) v := by
  have hpow := Nat.one_lt_two_pow (n := fm.eb) (by omega)
  obtain ⟨h1, h2, h3, -⟩ := fields_fieldsPattern (fm := fm) neg (ex := 2 ^ fm.eb - 1) (by omega)
    (Nat.two_pow_pos fm.fb)
  rw [show fm.signed neg fm.infMag = fieldsPattern fm neg (2 ^ fm.eb - 1) 0 by
    rw [← signed_eq, add_zero, FFmt.infMag, mul_comm]]
  refine ⟨h3, fun v hv => ?_⟩
  have h4 := hv.2
  simp only [FFmt.decode, h1, h2, if_true] at h4
  cases h4

include heb in
theorem greatest_bounds : 0 < greatest fm ∧ greatest fm < 2 ^ (fm.bias + 1) := by
  have hU := fm.unit_pos (2 * fm.bias - 1)
  have hF : (1 : ℝ) < 2 ^ (fm.fb + 1) := one_lt_pow₀ one_lt_two (by omega)
  rw [greatest_eq heb, two_pow_bias heb]
  exact ⟨mul_pos (by linarith) hU, mul_lt_mul_of_pos_right (by linarith) hU⟩

/-- Whether what overflows becomes an infinity (R114). -/
def overflowsToInf (mode : RMode) (neg : Bool) : Bool := toNearest mode || outward mode neg

include heb in
/-- A result that overflows (R114, R115). -/
theorem isRounded_overflow {mode : RMode} {neg : Bool} {x : ℝ} (hx : 0 < x) (h : Overflows fm mode (sgn neg * x)) :
    IsRounded fm mode (sgn neg * x)
      (fm.signed neg (if overflowsToInf mode neg then fm.infMag else fm.maxMag)) := by
  obtain ⟨hg, hg'⟩ := greatest_bounds heb
  obtain ⟨hstands, hbit⟩ := stands_greatest heb neg
  have habs : |sgn neg * x| = x := by rw [abs_mul, abs_sgn, one_mul, abs_of_pos hx]
  have hover := (overflows_iff fm mode neg hx hg.le).1 h
  have hneg : decide (sgn neg * x < 0) = neg := by cases neg <;> simp [sgn, hx, hx.le]
  refine ⟨?_, ?_⟩
  · have hsign : bitAt (fm.signed neg (if overflowsToInf mode neg then fm.infMag else fm.maxMag)) (fm.eb + fm.fb) = neg := by
      split_ifs
      · exact (infinity_sign heb neg).1
      · exact hbit
    rw [hsign, hneg]
  · cases mode with
    | rne | rmm => exact (if_neg (not_lt.2 h)).mpr (by rw [hneg]; rfl)
    | rtz =>
      refine ⟨_, hstands, ?_, fun q v hv _ _ => ?_⟩
      · rw [habs, abs_mul, abs_sgn, one_mul, abs_of_pos hg]
        exact hg'.le.trans hover
      · rw [abs_mul, abs_sgn, one_mul, abs_of_pos hg]
        exact abs_le_greatest heb hv
    | rdn =>
      cases neg with
      | false =>
        have hover' : (2 : ℝ) ^ (fm.bias + 1) ≤ x := hover
        rw [sgn, if_neg Bool.false_ne_true, one_mul] at hstands ⊢
        exact (if_neg (by linarith)).mpr ⟨_, hstands, by linarith, fun q v hv _ => (abs_le.1 (abs_le_greatest heb hv)).2⟩
      | true =>
        have hover' : greatest fm < x := hover
        exact (if_pos (by rw [sgn, if_pos rfl]; linarith)).mpr rfl
    | rup =>
      cases neg with
      | false =>
        have hover' : greatest fm < x := hover
        exact (if_pos (by rw [sgn, if_neg Bool.false_ne_true]; linarith)).mpr rfl
      | true =>
        have hover' : (2 : ℝ) ^ (fm.bias + 1) ≤ x := hover
        rw [sgn, if_pos rfl, neg_one_mul] at hstands ⊢
        exact (if_neg (by linarith)).mpr ⟨_, hstands, by linarith, fun q v hv _ => by
          linarith [abs_le.1 (abs_le_greatest heb hv)]⟩

end

/-! ### The model's rounding (R114, R115, R132) -/

/-- The place of a magnitude that rounds like m × 2^e (R114). -/
def placeOf (fm : FFmt) (m : Nat) (e : Int) : Nat := (max (e + m.log2) fm.emin - fm.emin).toNat

section

variable {fm : FFmt} {x : ℝ} {m : Nat} {e : Int} (h : RoundsLike fm.fb x m e) (hx : 0 < x) (mode : RMode) (neg : Bool)

include h hx in
theorem roundsAt_of_like :
    RoundsAt fm mode neg x (placeOf fm m e) (roundAt mode neg m e (max (e + m.log2) fm.emin - fm.fb)).1 ∧
      ((roundAt mode neg m e (max (e + m.log2) fm.emin - fm.fb)).2 = false ↔
        (roundAt mode neg m e (max (e + m.log2) fm.emin - fm.fb)).1 * fm.unit (placeOf fm m e) = x) := by
  have hunit : fm.unit (placeOf fm m e) = (2 : ℝ) ^ (max (e + m.log2) fm.emin - fm.fb) := by
    rw [FFmt.unit, placeOf]
    congr 1
    omega
  obtain ⟨h1, h2⟩ := roundAt_of_like h mode neg (q := max (e + m.log2) fm.emin - fm.fb) (by omega)
  obtain ⟨h3, h4⟩ := h.binade hx
  have h2' (j : Nat) : (2 : ℝ) ^ j * 2 ^ (max (e + m.log2) fm.emin - fm.fb) =
      2 ^ (max (e + m.log2) fm.emin - fm.fb + j) := by rw [← zpow_natCast, ← zpow_add₀ two_ne_zero, add_comm]
  refine ⟨⟨?_, fun hk => ?_, ?_⟩, ?_⟩
  · rw [hunit]
    exact h1
  · rw [hunit, h2', sub_add_cancel]
    rw [max_eq_left (by unfold placeOf at hk; omega)]
    exact h3
  · rw [hunit, h2']
    exact h4.trans_le (zpow_le_zpow_right₀ one_le_two (by push_cast; omega))
  · rw [h2, hunit, eq_div_iff (zpow_pos two_pos _).ne']

/-- Whether a magnitude is tiny before rounding's exponent is bounded below (R115). -/
def tinyAt (fm : FFmt) (mode : RMode) (neg : Bool) (m : Nat) (e : Int) : Bool :=
  let top : Int := e + m.log2
  decide (top < fm.emin) && !(top == fm.emin - 1 && (roundAt mode neg m e (top - fm.fb)).1 == 2 ^ (fm.fb + 1))

include h hx in
theorem tinyAt_of_like : (tinyAt fm mode neg m e = true → x < 2 ^ fm.emin) ∧
    (x ≤ (1 - (2 : ℝ) ^ (-(fm.fb : ℤ) - 1)) * 2 ^ fm.emin → tinyAt fm mode neg m e = true) := by
  obtain ⟨h3, h4⟩ := h.binade hx
  obtain ⟨h1, -⟩ := roundAt_of_like h mode neg (q := e + m.log2 - fm.fb) le_rfl
  refine ⟨fun ht => ?_, fun hle => ?_⟩
  · have htop : e + m.log2 < fm.emin := by
      simp only [tinyAt, Bool.and_eq_true, decide_eq_true_eq] at ht
      exact ht.1
    exact h4.trans_le (zpow_le_zpow_right₀ one_le_two (by omega))
  · have hpos : (0 : ℝ) < 2 ^ (-(fm.fb : ℤ) - 1) * 2 ^ fm.emin := mul_pos (zpow_pos two_pos _) (zpow_pos two_pos _)
    have htop : e + m.log2 < fm.emin := by
      have : (2 : ℝ) ^ (e + m.log2) < 2 ^ fm.emin := h3.trans_lt (by linarith)
      exact (zpow_lt_zpow_iff_right₀ one_lt_two).1 this
    simp only [tinyAt, Bool.and_eq_true, decide_eq_true_eq, Bool.not_eq_true', Bool.and_eq_false_iff, beq_eq_false_iff_ne]
    refine ⟨htop, or_iff_not_imp_left.2 fun heq => ?_⟩
    have heq' : e + m.log2 = fm.emin - 1 := not_not.1 heq
    have hle' : x / 2 ^ (e + m.log2 - fm.fb) ≤ (2 ^ (fm.fb + 1) - 1 : ℕ) := by
      rw [div_le_iff₀ (zpow_pos two_pos _), heq', Nat.cast_sub Nat.one_le_two_pow]
      refine hle.trans_eq ?_
      push_cast
      rw [← zpow_natCast, sub_mul, sub_mul, one_mul, one_mul, ← zpow_add₀ two_ne_zero, ← zpow_add₀ two_ne_zero]
      congr 2 <;> push_cast <;> ring
    have h5 := h1.le_of_le hle'
    have h6 := Nat.one_le_two_pow (n := fm.fb + 1)
    omega

end

theorem round_eq {fm : FFmt} (heb : 1 < fm.eb) (mode : RMode) (neg : Bool) (m : Nat) (e : Int) :
    let r := roundAt mode neg m e (max (e + m.log2) fm.emin - fm.fb)
    let mag := placeOf fm m e * 2 ^ fm.fb + r.1
    fm.round mode neg m e = if fm.infMag ≤ mag
      then (fm.signed neg (if overflowsToInf mode neg then fm.infMag else fm.maxMag), xOF + xNX)
      else (fm.signed neg mag, (if r.2 then xNX else 0) + (if r.2 && tinyAt fm mode neg m e then xUF else 0)) := by
  intro r mag
  have hinf : 0 < fm.infMag := by
    have := Nat.one_lt_two_pow (n := fm.eb) (by omega)
    exact Nat.mul_pos (by omega) (Nat.two_pow_pos _)
  have hmax : fm.maxMag < mag ↔ fm.infMag ≤ mag := by
    unfold FFmt.maxMag
    omega
  have hmag : roundMag fm.emin fm.fb mode neg m e = (mag, r.2, tinyAt fm mode neg m e) := by
    simp only [roundMag, sub_add_cancel]
    rfl
  unfold FFmt.round
  rw [hmag]
  simp only [hmax]
  congr 3
  cases mode <;> cases neg <;> rfl

theorem raised_finite (nx tiny : Bool) :
    let raised := (if nx then xNX else 0) + (if nx && tiny then xUF else 0)
    raised < 8 ∧ (raised &&& xNX ≠ 0 ↔ nx = true) ∧ raised &&& xOF = 0 ∧
      (raised &&& xUF ≠ 0 ↔ nx = true ∧ tiny = true) := by
  cases nx <;> cases tiny <;> decide

theorem greatest_lt_of_overflows {fm : FFmt} (heb : 1 < fm.eb) {mode : RMode} {neg : Bool} {x : ℝ} (hx : 0 < x)
    (h : Overflows fm mode (sgn neg * x)) : greatest fm < x := by
  obtain ⟨hg, hg'⟩ := greatest_bounds heb
  have hat : greatest fm < overflowsAt fm := by
    rw [greatest_eq heb, overflowsAt_eq heb]
    exact mul_lt_mul_of_pos_right (by linarith) (fm.unit_pos _)
  have hover := (overflows_iff fm mode neg hx hg.le).1 h
  split_ifs at hover <;> linarith

theorem two_pow_emin_le_greatest {fm : FFmt} (heb : 1 < fm.eb) : (2 : ℝ) ^ fm.emin ≤ greatest fm := by
  have hF : (1 : ℝ) ≤ 2 ^ fm.fb := one_le_pow₀ one_le_two
  have h0 : (2 : ℝ) ^ fm.emin = 2 ^ fm.fb * fm.unit 0 := by
    rw [FFmt.unit, ← zpow_natCast, ← zpow_add₀ two_ne_zero]
    congr 1
    push_cast
    ring
  rw [h0, greatest_eq heb, pow_succ]
  exact mul_le_mul (by linarith) (fm.unit_mono (Nat.zero_le _)) (fm.unit_pos 0).le (by linarith)

/-- A magnitude rounded with a sign, as the statements say it (R114, R115). -/
theorem round_delivers {fm : FFmt} (hfb : 0 < fm.fb) (heb : 1 < fm.eb) {x : ℝ} {m : Nat} {e : Int}
    (h : RoundsLike fm.fb x m e) (hx : 0 < x) (mode : RMode) (neg : Bool) :
    Delivers fm mode (sgn neg * x) (fm.round mode neg m e) := by
  have hstandsIff {p : Nat} {v : ℝ} (hp : Stands fm p v) (w : ℝ) : Stands fm p w ↔ w = v :=
    ⟨fun hw => Option.some.inj (hw.2.symm.trans hp.2), fun hw => hw ▸ hp⟩
  obtain ⟨hat, hexact⟩ := roundsAt_of_like h hx mode neg
  obtain ⟨htiny, htiny'⟩ := tinyAt_of_like h hx mode neg
  have habs : |sgn neg * x| = x := by rw [abs_mul, abs_sgn, one_mul, abs_of_pos hx]
  have hne : sgn neg * x ≠ 0 := by
    rw [← abs_pos, habs]
    exact hx
  refine ⟨fun h0 => absurd h0 hne, fun _ => ?_⟩
  rw [round_eq heb, habs]
  generalize roundAt mode neg m e (max (e + m.log2) fm.emin - fm.fb) = r at *
  generalize tinyAt fm mode neg m e = tiny at *
  rcases le_or_gt fm.infMag (placeOf fm m e * 2 ^ fm.fb + r.1) with hinf | hinf
  · rw [if_pos hinf]
    have hover := (hat.infMag_le_iff_overflows heb hx).1 hinf
    have hgt := greatest_lt_of_overflows heb hx hover
    obtain ⟨h8, hnx, hof, huf⟩ : xOF + xNX < 8 ∧ xOF + xNX &&& xNX ≠ 0 ∧ xOF + xNX &&& xOF ≠ 0 ∧
      xOF + xNX &&& xUF = 0 := by decide
    refine ⟨isRounded_overflow heb hx hover, h8, iff_of_true hnx fun hst => ?_, iff_of_true hof hover,
      fun hu => absurd huf hu, fun _ hle => absurd hle (not_le.2 ?_)⟩
    · have := abs_le_greatest heb hst
      linarith
    · have hpos : (0 : ℝ) < 2 ^ (-(fm.fb : ℤ) - 1) * 2 ^ fm.emin := mul_pos (zpow_pos two_pos _) (zpow_pos two_pos _)
      have := two_pow_emin_le_greatest heb
      linarith
  · rw [if_neg (not_le.2 hinf)]
    obtain ⟨hstands, -⟩ := stands_mag heb neg hat.ge hat.le hinf
    obtain ⟨h8, hnx, hof, huf⟩ := raised_finite r.2 tiny
    have hsgn : sgn neg ≠ 0 := abs_pos.1 (by rw [abs_sgn]; exact one_pos)
    refine ⟨hat.isRounded_finite hx hfb heb hinf, h8, ?_, iff_of_false (not_not.2 hof) fun ho =>
      absurd ((hat.infMag_le_iff_overflows heb hx).2 ho) (not_le.2 hinf), ?_, ?_⟩
    · dsimp only
      rw [hnx, hstandsIff hstands, ← Bool.not_eq_false, hexact, mul_right_inj' hsgn, eq_comm]
    · dsimp only
      rw [hnx, huf]
      exact fun ⟨h1, h2⟩ => ⟨h1, htiny h2⟩
    · dsimp only
      rw [hnx, huf]
      exact fun h1 h2 => ⟨h1, htiny' h2⟩

end Sys2Proof.Machine
end

section
/-! SUPPORT. Sums, products, conversions, quotients and roots as exact reals (R113, R114, R133, R138). -/

namespace Sys2Proof.Machine

open Sys2Proof.Claims

/-! ### Exact values -/

theorem realOf_eq_some {v : FVal} {x : ℝ} (h : realOf v = some x) :
    ∃ (neg : Bool) (m : Nat) (e : Int), v = .fin neg m e ∧ x = sgn neg * (m * 2 ^ e) := by
  cases v with
  | fin neg m e =>
    cases h
    exact ⟨neg, m, e, rfl, mul_assoc ..⟩
  | nan | inf => cases h

theorem realDy_fin (neg : Bool) (m : Nat) (e : Int) : realDy (FVal.fin neg m e).dy = sgn neg * (m * 2 ^ e) := by
  cases neg <;> simp [realDy, FVal.dy, sgn]

theorem int_eq_sgn_mul (z : ℤ) : (z : ℝ) = sgn (decide (z < 0)) * z.natAbs := by
  rw [Nat.cast_natAbs, sgn]
  split_ifs with hneg
  · rw [abs_of_neg (of_decide_eq_true hneg)]
    push_cast
    ring
  · rw [abs_of_nonneg (by simpa using hneg), one_mul]

theorem realDy_mul (a b : Dy) : realDy (a.mul b) = realDy a * realDy b := by
  simp only [realDy, Dy.mul]
  rw [zpow_add₀ two_ne_zero]
  push_cast
  ring

theorem realDy_add (a b : Dy) : realDy (a.add b) = realDy a + realDy b := by
  have hscale (m e : Int) (h : min a.e b.e ≤ e) :
      (m : ℝ) * 2 ^ (e - min a.e b.e).toNat * 2 ^ (min a.e b.e) = m * 2 ^ e := by
    rw [mul_assoc, ← zpow_natCast, ← zpow_add₀ two_ne_zero, Int.toNat_of_nonneg (by omega), sub_add_cancel]
  simp only [realDy, Dy.add]
  push_cast
  rw [add_mul, hscale _ _ (min_le_left ..), hscale _ _ (min_le_right ..)]

theorem realDy_eq_zero (d : Dy) : realDy d = 0 ↔ d.m = 0 := by
  rw [realDy, mul_eq_zero_iff_right (zpow_ne_zero _ two_ne_zero), Int.cast_eq_zero]

theorem realDy_neg (d : Dy) : realDy ⟨-d.m, d.e⟩ = -realDy d := by
  simp [realDy]

theorem realDy_lt_zero (d : Dy) : realDy d < 0 ↔ d.m < 0 := by
  rw [realDy, ← zero_mul ((2 : ℝ) ^ d.e), mul_lt_mul_iff_left₀ (zpow_pos two_pos _), Int.cast_lt_zero]

theorem dy_cmp (a b : Dy) : (a.cmp b < 0 ↔ realDy a < realDy b) ∧ (a.cmp b = 0 ↔ realDy a = realDy b) := by
  have h := realDy_add a ⟨-b.m, b.e⟩
  rw [realDy_neg] at h
  rw [Dy.cmp, Int.sign_neg_iff, Int.sign_eq_zero_iff_zero, ← realDy_lt_zero, ← realDy_eq_zero, h]
  exact ⟨by rw [← sub_eq_add_neg, sub_neg], by rw [← sub_eq_add_neg, sub_eq_zero]⟩

/-! ### Results of one rounding -/

section

variable {fm : FFmt} (hfb : 0 < fm.fb) (heb : 1 < fm.eb)

theorem delivers_zero (fm : FFmt) (mode : RMode) (neg : Bool) : Delivers fm mode 0 (fm.signed neg 0, 0) :=
  ⟨fun _ => ⟨by cases neg <;> simp, rfl⟩, fun h => absurd rfl h⟩

include hfb heb in
theorem round_delivers_exact (mode : RMode) (neg : Bool) {m : Nat} (hm : m ≠ 0) (e : Int) :
    Delivers fm mode (sgn neg * (m * 2 ^ e)) (fm.round mode neg m e) :=
  round_delivers hfb heb (.inl rfl) (mul_pos (Nat.cast_pos.2 (Nat.pos_of_ne_zero hm)) (zpow_pos two_pos _)) mode neg

include hfb heb in
theorem roundDy_delivers (mode : RMode) (zneg : Bool) (d : Dy) : Delivers fm mode (realDy d) (fm.roundDy mode zneg d) := by
  rw [FFmt.roundDy]
  split_ifs with h0
  · rw [(realDy_eq_zero d).2 h0]
    exact delivers_zero fm mode zneg
  · have hval : realDy d = sgn (decide (d.m < 0)) * (d.m.natAbs * 2 ^ d.e) := by
      rw [realDy, int_eq_sgn_mul, mul_assoc]
    rw [hval]
    exact round_delivers_exact hfb heb mode _ (Int.natAbs_ne_zero.2 h0) d.e

end

/-! ### Quotients (R133) -/

/-- A quotient with 128 further bits and a sticky bit rounds like the exact one. -/
theorem divMag_like {fb m n : Nat} (e : Int) (hn : 0 < n) (hfb : 2 ^ (fb + 2) * n ≤ m * 2 ^ 128) :
    RoundsLike fb (m / n * 2 ^ e) (divMag m n e).1 (divMag m n e).2 := by
  have hn' : (0 : ℝ) < n := Nat.cast_pos.2 hn
  have he : (0 : ℝ) < 2 ^ (e - 129) := zpow_pos two_pos _
  have hval : (m : ℝ) / n * 2 ^ e = 2 * (((m * 2 ^ 128 : ℕ) : ℝ) / n) * 2 ^ (e - 129) := by
    rw [zpow_sub₀ two_ne_zero]
    push_cast
    field_simp
    norm_num
  have hq : 2 ^ (fb + 2) ≤ m * 2 ^ 128 / n := (Nat.le_div_iff_mul_le hn).2 hfb
  rw [hval]
  simp only [divMag]
  generalize m * 2 ^ 128 = x at *
  have hx : (x : ℝ) / n = (x / n : ℕ) + ((x % n : ℕ) : ℝ) / n := by
    rw [div_eq_iff hn'.ne', add_mul, div_mul_cancel₀ _ hn'.ne']
    exact_mod_cast (Nat.div_add_mod' x n).symm
  by_cases h0 : x % n = 0
  · left
    rw [hx, h0, if_pos rfl, Nat.cast_zero, zero_div, add_zero, add_zero]
    push_cast
    rfl
  · right
    have hlow : 0 < ((x % n : ℕ) : ℝ) / n := div_pos (Nat.cast_pos.2 (Nat.pos_of_ne_zero h0)) hn'
    have hhigh : ((x % n : ℕ) : ℝ) / n < 1 := (div_lt_one hn').2 (Nat.cast_lt.2 (Nat.mod_lt _ hn))
    simp only [if_neg h0]
    refine ⟨by omega, (Nat.le_log2 (by omega)).2 (by omega), ?_⟩
    rw [← sub_mul, abs_mul, abs_of_pos he, hx]
    refine mul_lt_of_lt_one_left he ?_
    push_cast
    rw [abs_lt]
    constructor <;> linarith

/-! ### Square roots (R133) -/

theorem sqrtFrom_spec (x n r : Nat) (hr : r * r ≤ x) (hx : x < (r + 2 ^ n) * (r + 2 ^ n)) :
    sqrtFrom x n r * sqrtFrom x n r ≤ x ∧ x < (sqrtFrom x n r + 1) * (sqrtFrom x n r + 1) := by
  induction n generalizing r with
  | zero => exact ⟨hr, hx⟩
  | succ n ih =>
    rw [sqrtFrom]
    split_ifs with h
    · exact ih _ h (by rwa [add_assoc, ← two_mul, ← pow_succ'])
    · exact ih _ hr (not_le.1 h)

/-- The whole square root that the model finds. -/
theorem sqrtMag_eq {m : Nat} (e : Int) (hm : 0 < m) (hm' : m < 2 ^ 79) :
    ∃ (x s : Nat) (g : Int), 2 ^ 100 ≤ s ∧ s < 2 ^ 140 ∧ s * s ≤ x ∧ x < (s + 1) * (s + 1) ∧
      (m : ℝ) * 2 ^ e = x * (2 ^ g * 2 ^ g) ∧ sqrtMag m e = (2 * s + (if s * s = x then 0 else 1), g - 1) := by
  obtain ⟨x, g, hx, hx', hval, hdef⟩ : ∃ (x : Nat) (g : Int), 2 ^ 200 ≤ x ∧ x < 2 ^ 140 * 2 ^ 140 ∧
      (m : ℝ) * 2 ^ e = x * (2 ^ g * 2 ^ g) ∧ sqrtMag m e =
        (2 * sqrtFrom x 140 0 + (if sqrtFrom x 140 0 * sqrtFrom x 140 0 = x then 0 else 1), g - 1) := by
    refine ⟨(if e % 2 = 1 then 2 * m else m) * 2 ^ 200, ((if e % 2 = 1 then e - 1 else e) - 200) / 2, ?_, ?_, ?_, rfl⟩
    · split_ifs <;> omega
    · split_ifs <;> omega
    · rw [← zpow_add₀ two_ne_zero]
      split_ifs with hodd
      · have : e = (e - 1 - 200) / 2 + (e - 1 - 200) / 2 + 201 := by omega
        generalize (e - 1 - 200) / 2 + (e - 1 - 200) / 2 = g at *
        rw [this, zpow_add₀ two_ne_zero]
        push_cast
        norm_num
        ring
      · have : e = (e - 200) / 2 + (e - 200) / 2 + 200 := by omega
        generalize (e - 200) / 2 + (e - 200) / 2 = g at *
        rw [this, zpow_add₀ two_ne_zero]
        push_cast
        norm_num
        ring
  obtain ⟨hs, hs'⟩ := sqrtFrom_spec x 140 0 (Nat.zero_le _) (by rwa [zero_add])
  refine ⟨x, sqrtFrom x 140 0, g, ?_, Nat.mul_self_lt_mul_self_iff.1 (hs.trans_lt hx'), hs, hs', hval, hdef⟩
  by_contra h
  have : (sqrtFrom x 140 0 + 1) * (sqrtFrom x 140 0 + 1) ≤ 2 ^ 100 * 2 ^ 100 := Nat.mul_le_mul (by omega) (by omega)
  omega

/-- A root with a sticky bit rounds like the exact one. -/
theorem sqrtMag_like {fb m : Nat} (e : Int) (hfb : fb ≤ 99) (hm : 0 < m) (hm' : m < 2 ^ 79) :
    RoundsLike fb (Real.sqrt (m * 2 ^ e)) (sqrtMag m e).1 (sqrtMag m e).2 := by
  obtain ⟨x, s, g, hbig, -, hs, hs', hval, hdef⟩ := sqrtMag_eq e hm hm'
  have hg : (0 : ℝ) < 2 ^ g := zpow_pos two_pos _
  have hg' : (2 : ℝ) ^ g = 2 * 2 ^ (g - 1) := by rw [zpow_sub₀ two_ne_zero]; field_simp
  rw [hdef, hval, Real.sqrt_mul x.cast_nonneg, Real.sqrt_mul_self hg.le, hg']
  have hlow : (s : ℝ) ≤ Real.sqrt x := Real.le_sqrt_of_sq_le (by rw [sq]; exact_mod_cast hs)
  have hhigh : Real.sqrt x < s + 1 := by
    rw [Real.sqrt_lt' (by positivity), sq]
    exact_mod_cast hs'
  by_cases h0 : s * s = x
  · left
    rw [if_pos h0, ← h0]
    push_cast
    rw [Real.sqrt_mul_self s.cast_nonneg]
    ring
  · right
    have hne : (s : ℝ) ≠ Real.sqrt x := fun h => h0 (by
      have := Real.mul_self_sqrt (x.cast_nonneg (α := ℝ))
      rw [← h] at this
      exact_mod_cast this)
    have hlow' := lt_of_le_of_ne hlow hne

    have hlog : 2 ^ (fb + 2) ≤ 2 * s + 1 :=
      (Nat.pow_le_pow_right (by decide) (show fb + 2 ≤ 101 by omega)).trans (by omega)
    rw [if_neg h0]
    refine ⟨by omega, (Nat.le_log2 (by omega)).2 hlog, ?_⟩
    rw [show Real.sqrt x * (2 * 2 ^ (g - 1)) = 2 * Real.sqrt x * 2 ^ (g - 1) by ring, ← sub_mul, abs_mul,
      abs_of_pos (zpow_pos (two_pos : (0 : ℝ) < 2) (g - 1))]
    refine mul_lt_of_lt_one_left (zpow_pos two_pos _) ?_
    push_cast
    rw [abs_lt]
    constructor <;> linarith

end Sys2Proof.Machine
end

section
/-! SUPPORT. Arithmetic on finite and on special operands (R113, R114, R133, R138). -/

namespace Sys2Proof.Machine

open Sys2Proof.Claims

/-! ### Kinds of values -/

theorem FVal.eq_nan {v : FVal} (h : v.isNan = true) : ∃ sig, v = .nan sig := by
  cases v with
  | nan sig => exact ⟨sig, rfl⟩
  | inf | fin => exact absurd h Bool.false_ne_true

theorem FVal.eq_inf {v : FVal} (h : v.isInf = true) : ∃ neg, v = .inf neg := by
  cases v with
  | inf neg => exact ⟨neg, rfl⟩
  | nan | fin => exact absurd h Bool.false_ne_true

theorem FVal.eq_zero {v : FVal} (h : v.isZero = true) : ∃ neg e, v = .fin neg 0 e := by
  cases v with
  | fin neg m e =>
    obtain rfl : m = 0 := by simpa [FVal.isZero] using h
    exact ⟨neg, e, rfl⟩
  | nan | inf => exact absurd h Bool.false_ne_true

theorem FVal.isNan_of_isSig {v : FVal} (h : v.isSig = true) : v.isNan = true := by
  cases v with
  | nan => rfl
  | inf | fin => exact absurd h Bool.false_ne_true

theorem realDy_of_realOf {v : FVal} {x : ℝ} (h : realOf v = some x) : realDy v.dy = x := by
  obtain ⟨neg, m, e, rfl, rfl⟩ := realOf_eq_some h
  exact realDy_fin neg m e

/-- What a finite value is not. -/
theorem finite_kinds {v : FVal} {x : ℝ} (h : realOf v = some x) :
    v.isNan = false ∧ v.isSig = false ∧ v.isInf = false ∧ (v.isZero = true ↔ x = 0) := by
  obtain ⟨neg, m, e, rfl, rfl⟩ := realOf_eq_some h
  refine ⟨rfl, rfl, rfl, ?_⟩
  cases neg <;> simp [FVal.isZero, sgn, (zpow_pos (two_pos : (0 : ℝ) < 2) e).ne']

theorem FVal.flip_kinds (v : FVal) : v.flip.isNan = v.isNan ∧ v.flip.isSig = v.isSig ∧ v.flip.isInf = v.isInf := by
  cases v <;> exact ⟨rfl, rfl, rfl⟩

theorem FVal.flip_neg {v : FVal} (h : v.isNan = false) : v.flip.neg = !v.neg := by
  cases v with
  | nan => exact absurd h.symm Bool.false_ne_true
  | inf | fin => rfl

theorem realOf_flip {v : FVal} {x : ℝ} (h : realOf v = some x) : realOf v.flip = some (-x) := by
  obtain ⟨neg, m, e, rfl, rfl⟩ := realOf_eq_some h
  cases neg <;> simp [FVal.flip, realOf, sgn]

theorem sigX_pair (a b : FVal) : sigX [a, b] = if a.isSig || b.isSig then xNV else 0 := by
  simp [sigX]

/-! ### Results on finite operands -/

section

variable (fm : FFmt) (mode : RMode) {a b c : FVal} {x y z : ℝ} (ha : realOf a = some x) (hb : realOf b = some y)
  (hc : realOf c = some z)

include ha hb in
theorem add_finite : fm.add mode a b = fm.roundDy mode (zeroSumNeg mode a.neg b.neg) (a.dy.add b.dy) ∧
    realDy (a.dy.add b.dy) = x + y := by
  obtain ⟨han, -, hai, -⟩ := finite_kinds ha
  obtain ⟨hbn, -, hbi, -⟩ := finite_kinds hb
  exact ⟨by simp [FFmt.add, han, hai, hbn, hbi], by rw [realDy_add, realDy_of_realOf ha, realDy_of_realOf hb]⟩

include ha hb in
theorem mul_finite : fm.mul mode a b = fm.roundDy mode (a.neg != b.neg) (a.dy.mul b.dy) ∧
    realDy (a.dy.mul b.dy) = x * y := by
  obtain ⟨han, -, hai, -⟩ := finite_kinds ha
  obtain ⟨hbn, -, hbi, -⟩ := finite_kinds hb
  exact ⟨by simp [FFmt.mul, han, hai, hbn, hbi], by rw [realDy_mul, realDy_of_realOf ha, realDy_of_realOf hb]⟩

include ha hb hc in
theorem fma_finite : fm.fma mode a b c =
      fm.roundDy mode (zeroSumNeg mode (a.neg != b.neg) c.neg) ((a.dy.mul b.dy).add c.dy) ∧
    realDy ((a.dy.mul b.dy).add c.dy) = x * y + z := by
  obtain ⟨han, has, hai, -⟩ := finite_kinds ha
  obtain ⟨hbn, hbs, hbi, -⟩ := finite_kinds hb
  obtain ⟨hcn, hcs, hci, -⟩ := finite_kinds hc
  exact ⟨by simp [FFmt.fma, han, hai, hbn, hbi, hcn, hci, has, hbs, hcs],
    by rw [realDy_add, realDy_mul, realDy_of_realOf ha, realDy_of_realOf hb, realDy_of_realOf hc]⟩

theorem roundDy_zero (zneg : Bool) {d : Dy} (h : realDy d = 0) : fm.roundDy mode zneg d = (fm.signed zneg 0, 0) := by
  rw [FFmt.roundDy, if_pos ((realDy_eq_zero d).1 h)]

end

section

variable {fm : FFmt} (hfb : 0 < fm.fb) (heb : 1 < fm.eb) (mode : RMode) {a b c : FVal} {x y z : ℝ}
  (ha : realOf a = some x) (hb : realOf b = some y) (hc : realOf c = some z)

include hfb heb ha hb in
theorem add_delivers : Delivers fm mode (x + y) (fm.add mode a b) := by
  obtain ⟨h1, h2⟩ := add_finite fm mode ha hb
  rw [h1, ← h2]
  exact roundDy_delivers hfb heb mode _ _

include hfb heb ha hb in
theorem mul_delivers : Delivers fm mode (x * y) (fm.mul mode a b) := by
  obtain ⟨h1, h2⟩ := mul_finite fm mode ha hb
  rw [h1, ← h2]
  exact roundDy_delivers hfb heb mode _ _

include hfb heb ha hb hc in
theorem fma_delivers : Delivers fm mode (x * y + z) (fm.fma mode a b c) := by
  obtain ⟨h1, h2⟩ := fma_finite fm mode ha hb hc
  rw [h1, ← h2]
  exact roundDy_delivers hfb heb mode _ _

include hfb heb ha in
theorem convert_delivers : Delivers fm mode x (fm.convert mode a) := by
  obtain ⟨neg, m, e, rfl, rfl⟩ := realOf_eq_some ha
  have hdef : fm.convert mode (.fin neg m e) = if m = 0 then (fm.signed neg 0, 0) else fm.round mode neg m e := rfl
  rw [hdef]
  split_ifs with hm
  · rw [hm, Nat.cast_zero, zero_mul, mul_zero]
    exact delivers_zero fm mode neg
  · exact round_delivers_exact hfb heb mode neg hm e

end

/-- A quotient of finite values, of which the divisor is not zero (R133). -/
theorem div_delivers {fm : FFmt} (hfb : 0 < fm.fb) (heb : 1 < fm.eb) (hfb' : fm.fb ≤ 62)
    (mode : RMode) {p q : Nat} {x y : ℝ} (ha : realOf (fm.decode p) = some x) (hb : realOf (fm.decode q) = some y) (hy : y ≠ 0) :
    Delivers fm mode (x / y) (fm.div mode (fm.decode p) (fm.decode q)) := by
  obtain ⟨n, m, e, hp, rfl⟩ := realOf_eq_some ha
  obtain ⟨k, l, g, hq, rfl⟩ := realOf_eq_some hb
  obtain ⟨-, hl, -⟩ := decode_fin heb hq
  have hl0 : l ≠ 0 := by
    rintro rfl
    simp at hy
  have hdef : fm.div mode (.fin n m e) (.fin k l g) = if m = 0 then (fm.signed (n != k) 0, 0)
      else fm.round mode (n != k) (divMag m l (e - g)).1 (divMag m l (e - g)).2 := if_neg hl0
  rw [hp, hq, hdef]
  split_ifs with hm
  · rw [hm, Nat.cast_zero, zero_mul, mul_zero, zero_div]
    exact delivers_zero fm mode _
  · have hval : sgn n * (m * (2 : ℝ) ^ e) / (sgn k * (l * 2 ^ g)) = sgn (n != k) * (m / l * 2 ^ (e - g)) := by
      rw [zpow_sub₀ two_ne_zero]
      cases n <;> cases k <;> simp [sgn] <;> ring
    have hm' : 1 ≤ m := Nat.pos_of_ne_zero hm
    rw [hval]
    refine round_delivers hfb heb (divMag_like _ (Nat.pos_of_ne_zero hl0) ?_) ?_ mode _
    · calc 2 ^ (fm.fb + 2) * l ≤ 2 ^ (fm.fb + 2) * 2 ^ (fm.fb + 1) := Nat.mul_le_mul_left _ hl.le
        _ = 2 ^ (fm.fb + fm.fb + 3) := by rw [← pow_add]; congr 1; omega
        _ ≤ 2 ^ 128 := Nat.pow_le_pow_right (by decide) (by omega)
        _ ≤ m * 2 ^ 128 := Nat.le_mul_of_pos_left _ hm'
    · have h1 : (0 : ℝ) < m := Nat.cast_pos.2 hm'
      have h2 : (0 : ℝ) < l := Nat.cast_pos.2 (Nat.pos_of_ne_zero hl0)
      positivity

/-- The square root of a positive value (R133). -/
theorem sqrt_delivers {fm : FFmt} (hfb : 0 < fm.fb) (heb : 1 < fm.eb) (hfb' : fm.fb ≤ 78) (mode : RMode) {p : Nat} {x : ℝ}
    (ha : realOf (fm.decode p) = some x) (hx : 0 < x) :
    Delivers fm mode (Real.sqrt x) (fm.sqrt mode (fm.decode p)) := by
  obtain ⟨n, m, e, hp, rfl⟩ := realOf_eq_some ha
  obtain ⟨-, hm, -⟩ := decode_fin heb hp
  have hm0 : m ≠ 0 := by
    rintro rfl
    simp at hx
  have hpos : 0 < (m : ℝ) * 2 ^ e := mul_pos (Nat.cast_pos.2 (Nat.pos_of_ne_zero hm0)) (zpow_pos two_pos _)
  obtain rfl : n = false := by
    rw [← Bool.not_eq_true, ← sgn_mul_neg_iff n hpos]
    exact not_lt.2 hx.le
  have hdef : fm.sqrt mode (.fin false m e) = fm.round mode false (sqrtMag m e).1 (sqrtMag m e).2 := by
    simp [FFmt.sqrt, hm0]
  have hm' : m < 2 ^ 79 := hm.trans_le (Nat.pow_le_pow_right (by decide) (by omega))
  rw [hp, hdef, show sgn false = 1 from rfl, one_mul, ← one_mul (Real.sqrt _)]
  exact round_delivers hfb heb (sqrtMag_like e (by omega) (Nat.pos_of_ne_zero hm0) hm') (Real.sqrt_pos.2 hpos) mode false

end Sys2Proof.Machine
end

section
/-! SUPPORT. The first three parts of O11: sums, products, conversions, quotients and roots, and special operands. -/

namespace Sys2Proof.Claims

open Sys2Proof.Machine

/-- The formats of R112 are wide enough for every lemma about rounding. -/
theorem wide_formats : ∀ fm ∈ [fp64, fp32, fp16, bf16], 0 < fm.fb ∧ 1 < fm.eb ∧ fm.fb ≤ 62 := by decide

theorem wide_arithmetic {fm : FFmt} (h : fm ∈ [fp64, fp32]) : 0 < fm.fb ∧ 1 < fm.eb ∧ fm.fb ≤ 62 :=
  wide_formats fm (by simp only [List.mem_cons, List.not_mem_nil, or_false] at h ⊢; tauto)

/-! ### NaNs (R113) -/

section

variable (fm : FFmt) (mode : RMode) {a b : FVal} (h : a.isNan = true ∨ b.isNan = true)

include h in
theorem arithmetic_nan : ∀ o ∈ [fm.add mode a b, fm.sub mode a b, fm.mul mode a b, fm.div mode a b],
    o = (fm.nan, if a.isSig || b.isSig then xNV else 0) := by
  have hor : (a.isNan || b.isNan) = true := by simpa using h
  have hadd {a b : FVal} (hor : (a.isNan || b.isNan) = true) :
      fm.add mode a b = (fm.nan, if a.isSig || b.isSig then xNV else 0) := by
    rw [FFmt.add, if_pos hor, FFmt.nanRes, sigX_pair]
  obtain ⟨hbn, hbs, -⟩ := b.flip_kinds
  simp only [List.forall_mem_cons]
  refine ⟨hadd hor, ?_, ?_, ?_, List.forall_mem_nil _⟩
  · rw [FFmt.sub, hadd (by rw [hbn, hor]), hbs]
  · rw [FFmt.mul, if_pos hor, FFmt.nanRes, sigX_pair]
  · rw [← sigX_pair]
    rcases h with h | h
    · obtain ⟨sig, rfl⟩ := FVal.eq_nan h
      rfl
    · obtain ⟨sig, rfl⟩ := FVal.eq_nan h
      cases a <;> rfl

end

theorem sumsAndProductsRoundOnce : SumsAndProductsRoundOnce := by
  intro fm hfm mode p q r a b c
  obtain ⟨hfb, heb, -⟩ := wide_arithmetic hfm
  refine ⟨fun x y ha hb => ⟨add_delivers hfb heb mode ha hb, ?_, mul_delivers hfb heb mode ha hb, fun z hc =>
    fma_delivers hfb heb mode ha hb hc⟩, fun x ha dst hdst => ?_, fun z _ => ?_, arithmetic_nan fm mode, ?_, ?_⟩
  · rw [sub_eq_add_neg]
    exact add_delivers hfb heb mode ha (realOf_flip hb)
  · obtain ⟨hfb', heb', -⟩ := wide_formats dst hdst
    exact convert_delivers hfb' heb' mode ha
  · simpa [realDy] using roundDy_delivers hfb heb mode false ⟨z, 0⟩
  · intro ha hb
    obtain ⟨n, ha⟩ := FVal.eq_inf ha
    obtain ⟨k, hb⟩ := FVal.eq_inf hb
    rw [ha, hb]
    exact ⟨rfl, rfl, rfl⟩
  · intro ha hb
    obtain ⟨n, ha⟩ := FVal.eq_inf ha
    obtain ⟨k, e, hb⟩ := FVal.eq_zero hb
    rw [ha, hb]
    exact ⟨rfl, rfl⟩

theorem quotientsAndRootsRoundOnce : QuotientsAndRootsRoundOnce := by
  intro fm hfm mode p q a b
  obtain ⟨hfb, heb, hfb'⟩ := wide_arithmetic hfm
  refine ⟨fun x y ha hb hy => div_delivers hfb heb hfb' mode ha hb hy, fun x ha hx =>
    sqrt_delivers hfb heb (by omega) mode ha hx, fun x ha hx hb => ?_, fun ha hb => ?_, fun x ha hx => ?_, fun ha => ?_⟩
  · obtain ⟨n, m, e, ha', rfl⟩ := realOf_eq_some ha
    obtain ⟨k, g, hb'⟩ := FVal.eq_zero hb
    have hm : m ≠ 0 := by
      rintro rfl
      simp at hx
    rw [ha', hb']
    exact if_neg hm
  · obtain ⟨n, e, ha⟩ := FVal.eq_zero ha
    obtain ⟨k, g, hb⟩ := FVal.eq_zero hb
    rw [ha, hb]
    rfl
  · obtain ⟨n, m, e, ha', rfl⟩ := realOf_eq_some ha
    have hm : m ≠ 0 := by
      rintro rfl
      simp at hx
    have hpos : 0 < (m : ℝ) * 2 ^ e := mul_pos (Nat.cast_pos.2 (Nat.pos_of_ne_zero hm)) (zpow_pos two_pos _)
    obtain rfl : n = true := (sgn_mul_neg_iff n hpos).1 hx
    rw [ha']
    exact (if_neg hm).trans (if_pos rfl)
  · obtain ⟨n, e, ha⟩ := FVal.eq_zero ha
    rw [ha]
    rfl

/-! ### Special operands -/

/-- An infinity with a finite operand (R113). -/
theorem infinity_with_finite (fm : FFmt) (mode : RMode) {b : FVal} {y : ℝ} (n : Bool) (hb : realOf b = some y) :
    fm.add mode (.inf n) b = (fm.signed n fm.infMag, 0) ∧ fm.add mode b (.inf n) = (fm.signed n fm.infMag, 0) ∧
    fm.div mode (.inf n) b = (fm.signed (n != b.neg) fm.infMag, 0) ∧
    fm.div mode b (.inf n) = (fm.signed (n != b.neg) 0, 0) ∧
    (y ≠ 0 → fm.mul mode (.inf n) b = (fm.signed (n != b.neg) fm.infMag, 0) ∧
      fm.mul mode b (.inf n) = (fm.signed (n != b.neg) fm.infMag, 0)) := by
  obtain ⟨k, m, e, rfl, rfl⟩ := realOf_eq_some hb
  refine ⟨rfl, rfl, rfl, by rw [bne_comm]; rfl, fun hy => ?_⟩
  have hm : m ≠ 0 := by
    rintro rfl
    simp at hy
  have hz : (m == 0) = false := by simpa using hm
  constructor
  · simp [FFmt.mul, FVal.isNan, FVal.isInf, FVal.isZero, FVal.neg, hz]
  · simp [FFmt.mul, FVal.isNan, FVal.isInf, FVal.isZero, FVal.neg, hz, bne_comm]

/-- The fused sum's special operands, in the order in which they are looked for (R113, R133). -/
theorem fma_special (fm : FFmt) (mode : RMode) (a b c : FVal) :
    let spoiled := a.isInf = true ∧ b.isZero = true ∨ a.isZero = true ∧ b.isInf = true
    (a.isSig = true ∨ b.isSig = true ∨ c.isSig = true → fm.fma mode a b c = (fm.nan, xNV)) ∧
    (spoiled → fm.fma mode a b c = (fm.nan, xNV)) ∧
    (a.isSig = false → b.isSig = false → c.isSig = false → a.isNan = true ∨ b.isNan = true ∨ c.isNan = true →
      ¬ spoiled → fm.fma mode a b c = (fm.nan, 0)) ∧
    (a.isNan = false → b.isNan = false → c.isNan = false → a.isInf = true ∨ b.isInf = true →
      a.isZero = false → b.isZero = false →
      fm.fma mode a b c =
        if c.isInf = true ∧ c.neg ≠ (a.neg != b.neg) then (fm.nan, xNV) else (fm.signed (a.neg != b.neg) fm.infMag, 0)) := by
  have hsig (v : FVal) (h : v.isNan = false) : v.isSig = false := by
    by_contra hs
    rw [FVal.isNan_of_isSig (by simpa using hs)] at h
    exact absurd h (by decide)
  refine ⟨fun h => ?_, fun h => ?_, fun ha hb hc h hs => ?_, fun ha hb hc h hza hzb => ?_⟩
  · have h' : (a.isSig || b.isSig || c.isSig) = true := by simpa [or_assoc] using h
    simp [FFmt.fma, h', FFmt.nanRes]
  · have h' : ((a.isInf && b.isZero) || (a.isZero && b.isInf)) = true := by simpa using h
    simp [FFmt.fma, h', FFmt.nanRes]
  · have h' : (a.isNan || b.isNan || c.isNan) = true := by simpa [or_assoc] using h
    have hs' : ((a.isInf && b.isZero) || (a.isZero && b.isInf)) = false := by simpa using hs
    simp [FFmt.fma, ha, hb, hc, h', hs', FFmt.nanRes]
  · have h' : (a.isInf || b.isInf) = true := by simpa using h
    simp [FFmt.fma, ha, hb, hc, hsig _ ha, hsig _ hb, hsig _ hc, h', hza, hzb, FFmt.nanRes]

theorem specialOperands : SpecialOperands := by
  intro fm hfm mode p q r a b c inf zero sum
  obtain ⟨h1, h2, h3, h4⟩ := fma_special fm mode a b c
  refine ⟨fun ha hb => ?_, fun y ha hb => ?_, h1, h2, h3, h4, fun x y ha hb hc => ?_, fun ha => ?_, fun ha => ?_,
    fun dst _ => ⟨fun ha => ?_, fun ha => ?_, fun ha => ?_⟩, fun x y ha hb => ⟨fun h => ?_, fun h => ?_, fun h => ?_, fun h hy => ?_,
    fun z hc h => ?_⟩⟩
  · obtain ⟨n, ha⟩ := FVal.eq_inf ha
    obtain ⟨k, hb⟩ := FVal.eq_inf hb
    rw [ha, hb]
    cases n <;> cases k <;> rfl
  · obtain ⟨n, ha⟩ := FVal.eq_inf ha
    have hflip := infinity_with_finite fm mode n (realOf_flip hb)
    have hflip' := infinity_with_finite fm mode (!n) hb
    obtain ⟨hadd, hadd', hdiv, hdiv', hmul⟩ := infinity_with_finite fm mode n hb
    rw [ha]
    exact ⟨hadd, hadd', hflip.1, hflip'.2.1, hdiv, hdiv', hmul⟩
  · obtain ⟨han, has, hai, -⟩ := finite_kinds ha
    obtain ⟨hbn, hbs, hbi, -⟩ := finite_kinds hb
    obtain ⟨k, hc⟩ := FVal.eq_inf hc
    have hk : (FVal.inf k).isNan = false ∧ (FVal.inf k).isSig = false ∧ (FVal.inf k).isInf = true := ⟨rfl, rfl, rfl⟩
    rw [hc]
    simp [FFmt.fma, han, has, hai, hbn, hbs, hbi, hk, inf]
  · obtain ⟨sig, ha⟩ := FVal.eq_nan ha
    rw [ha]
    rfl
  · obtain ⟨n, ha⟩ := FVal.eq_inf ha
    rw [ha]
    cases n
    · exact congrArg (·, 0) (Nat.zero_add _).symm
    · rfl
  · obtain ⟨sig, ha⟩ := FVal.eq_nan ha
    rw [ha]
    rfl
  · obtain ⟨n, ha⟩ := FVal.eq_inf ha
    rw [ha]
    rfl
  · obtain ⟨n, e, ha⟩ := FVal.eq_zero ha
    rw [ha]
    rfl
  · obtain ⟨hdef, hval⟩ := add_finite fm mode ha hb
    rw [hdef, roundDy_zero fm mode _ (hval.trans h)]
    rfl
  · obtain ⟨hdef, hval⟩ := add_finite fm mode ha (realOf_flip hb)
    rw [FFmt.sub, hdef, roundDy_zero fm mode _ (hval.trans ((sub_eq_add_neg x y).symm.trans h)),
      FVal.flip_neg (finite_kinds hb).1]
    rfl
  · obtain ⟨hdef, hval⟩ := mul_finite fm mode ha hb
    rw [hdef, roundDy_zero fm mode _ (hval.trans h)]
  · obtain ⟨n, e, ha⟩ := FVal.eq_zero ((finite_kinds ha).2.2.2.2 h)
    obtain ⟨k, m, g, hb', rfl⟩ := realOf_eq_some hb
    have hm : m ≠ 0 := by
      rintro rfl
      simp at hy
    rw [ha, hb']
    exact congrArg Prod.fst ((if_neg hm).trans (if_pos rfl))
  · obtain ⟨hdef, hval⟩ := fma_finite fm mode ha hb hc
    rw [hdef, roundDy_zero fm mode _ (hval.trans h)]
    rfl

end Sys2Proof.Claims
end

section
/-! SUPPORT. How near a rounded result lies (R114), and what powers of two and comparisons of exact values say (R142). -/

namespace Sys2Proof.Machine

open Sys2Proof.Claims

/-! ### Numbers that a format holds -/

section

variable {fm : FFmt} (hfb : 0 < fm.fb) (heb : 1 < fm.eb)

include heb in
theorem abs_lt_overflowsAt {p : Nat} {v : ℝ} (h : Stands fm p v) : |v| < overflowsAt fm := by
  refine (abs_le_greatest heb h).trans_lt ?_
  rw [greatest_eq heb, overflowsAt_eq heb]
  exact mul_lt_mul_of_pos_right (by linarith) (fm.unit_pos _)

/-- A result rounded to nearest is at least as near as any number of the format. -/
theorem delivers_nearest {x : ℝ} {r : FRes} (h : Delivers fm .rne x r) (hx : x ≠ 0) (hlt : |x| < overflowsAt fm) :
    ∃ v, Stands fm r.1 v ∧ ∀ q w, Stands fm q w → |x - v| ≤ |x - w| := by
  obtain ⟨-, h1⟩ := (h.2 hx).1
  obtain ⟨v, hv, hbest⟩ := (if_pos hlt).mp h1
  exact ⟨v, hv, fun q w hw => (hbest q w hw).1⟩

include heb in
/-- A number that a format holds is rounded to itself. -/
theorem delivers_stands {x : ℝ} {r : FRes} (h : Delivers fm .rne x r) (hx : x ≠ 0) {q : Nat} (hq : Stands fm q x) :
    Stands fm r.1 x := by
  obtain ⟨v, hv, hbest⟩ := delivers_nearest h hx (abs_lt_overflowsAt heb hq)
  have h0 := hbest q x hq
  rw [sub_self, abs_zero, abs_nonpos_iff, sub_eq_zero] at h0
  rwa [h0]

include heb in
/-- The numbers of a format (R112). -/
theorem exists_stands (neg : Bool) {m : Nat} {e : Int} (hm : m < 2 ^ (fm.fb + 1)) (hlow : fm.emin - fm.fb ≤ e)
    (hhigh : m ≠ 0 → e + m.log2 ≤ fm.bias) : ∃ p, Stands fm p (sgn neg * (m * 2 ^ e)) := by
  rcases eq_or_ne m 0 with rfl | hm0
  · exact ⟨_, by simpa using (stands_zero (fm := fm) (by omega) neg).1⟩
  · have hx : 0 < (m : ℝ) * 2 ^ e := mul_pos (Nat.cast_pos.2 (Nat.pos_of_ne_zero hm0)) (zpow_pos two_pos _)
    have hlog : m.log2 < fm.fb + 1 := (Nat.log2_lt hm0).2 hm
    have hlike : RoundsLike fm.fb ((m : ℝ) * 2 ^ e) m e := .inl rfl
    obtain ⟨hat, hexact⟩ := roundsAt_of_like hlike hx .rtz neg
    have hval := hexact.1 (by rw [roundAt, if_pos (by omega)])
    have hover : ¬ Overflows fm .rtz (sgn neg * (m * 2 ^ e)) := by
      rw [Overflows, abs_mul, abs_sgn, one_mul, abs_of_pos hx, not_le, ← zpow_natCast]
      exact (hlike.binade hx).2.trans_le (zpow_le_zpow_right₀ one_le_two (by push_cast; have := hhigh hm0; omega))
    rw [← hval]
    exact ⟨_, (stands_mag heb neg hat.ge hat.le (not_le.1 (mt (hat.infMag_le_iff_overflows heb hx).1 hover))).1⟩

/-- The spacing of a format at a magnitude. -/
noncomputable def FFmt.spacing (fm : FFmt) (z : ℝ) : ℝ := (2 : ℝ) ^ (max (Int.log 2 z) fm.emin - fm.fb)

include heb in
/-- Every magnitude within reach has a number of the format within half the spacing. -/
theorem exists_stands_near (neg : Bool) {z : ℝ} (hz : 0 < z) (hlt : z < overflowsAt fm) :
    ∃ p y, Stands fm p (sgn neg * y) ∧ |z - y| ≤ fm.spacing z / 2 := by
  obtain ⟨t, ht⟩ : ∃ t : ℤ, Int.log 2 z = t := ⟨_, rfl⟩
  have hlow : (2 : ℝ) ^ t ≤ z := ht ▸ Int.zpow_log_le_self one_lt_two hz
  have hhigh : z < (2 : ℝ) ^ (t + 1) := ht ▸ Int.lt_zpow_succ_log_self one_lt_two z
  obtain ⟨k, hk⟩ : ∃ k : Nat, k = (max t fm.emin - fm.emin).toNat := ⟨_, rfl⟩
  have hunit : fm.spacing z = fm.unit k := by
    rw [FFmt.spacing, FFmt.unit, ht]
    congr 1
    omega
  have hU := fm.unit_pos k
  have hpow (j : Nat) : (2 : ℝ) ^ j * fm.unit k = 2 ^ (fm.emin - fm.fb + k + j) := by
    rw [FFmt.unit, ← zpow_natCast, ← zpow_add₀ two_ne_zero, add_comm]
  have hX : 0 ≤ z / fm.unit k := (div_pos hz hU).le
  have hfloor := Nat.floor_le (show 0 ≤ z / fm.unit k + 1 / 2 by linarith)
  have hfloor' := Nat.lt_floor_add_one (z / fm.unit k + 1 / 2)
  have hat : RoundsAt fm .rmm neg z k ⌊z / fm.unit k + 1 / 2⌋₊ := by
    refine ⟨⟨?_, fun h => ?_⟩, fun hk0 => ?_, ?_⟩
    · rw [← le_div_iff₀' two_pos, abs_le]
      constructor <;> linarith
    · by_contra hge
      rw [abs_of_nonneg (by linarith)] at h
      linarith
    · rw [hpow]
      exact (zpow_le_zpow_right₀ one_le_two (by omega)).trans hlow
    · rw [hpow]
      exact hhigh.trans_le (zpow_le_zpow_right₀ one_le_two (by push_cast; omega))
  have hover : ¬ Overflows fm .rmm (sgn neg * z) := by
    rw [Overflows, abs_mul, abs_sgn, one_mul, abs_of_pos hz, not_le]
    exact hlt
  refine ⟨_, _, (stands_mag heb neg hat.ge hat.le (not_le.1 (mt (hat.infMag_le_iff_overflows heb hz).1 hover))).1, ?_⟩
  have hhalf := hat.rounds.1
  have hscale : z - ⌊z / fm.unit k + 1 / 2⌋₊ * fm.unit k =
      (z / fm.unit k - ⌊z / fm.unit k + 1 / 2⌋₊) * fm.unit k := by
    rw [sub_mul, div_mul_cancel₀ _ hU.ne']
  rw [hunit, hscale, abs_mul, abs_of_pos hU, div_eq_mul_one_div (fm.unit k), mul_comm (fm.unit k)]
  exact mul_le_mul_of_nonneg_right (by linarith) hU.le

include hfb heb in
/-- A number near z, rounded to nearest, stays within one spacing of z. -/
theorem round_near {w z : ℝ} {m : Nat} {e : Int} (h : RoundsLike fm.fb w m e) (hw : 0 < w) (hz : 0 < z)
    (hlt : w < overflowsAt fm) (hlt' : z < overflowsAt fm) (hnear : |w - z| ≤ fm.spacing z / 4) (neg : Bool) :
    ∃ y, Stands fm (fm.round .rne neg m e).1 y ∧ |y - sgn neg * z| ≤ fm.spacing z := by
  have habs (a b : ℝ) : |sgn neg * a - sgn neg * b| = |a - b| := by rw [← mul_sub, abs_mul, abs_sgn, one_mul]
  have hdel := round_delivers hfb heb h hw .rne neg
  obtain ⟨p, y, hy, hyz⟩ := exists_stands_near heb neg hz hlt'
  obtain ⟨v, hv, hbest⟩ := delivers_nearest hdel
    (by rw [← abs_pos, abs_mul, abs_sgn, one_mul]; exact abs_pos.2 hw.ne')
    (by rwa [abs_mul, abs_sgn, one_mul, abs_of_pos hw])
  have hbest' := hbest p _ hy
  rw [habs] at hbest'
  have h1 : |w - y| ≤ |w - z| + |z - y| := abs_sub_le ..
  have h2 : |v - sgn neg * z| ≤ |v - sgn neg * w| + |sgn neg * w - sgn neg * z| := abs_sub_le ..
  rw [habs, abs_sub_comm v (sgn neg * w)] at h2
  exact ⟨v, hv, by linarith⟩

end

/-- Rounding to nearest treats both signs alike. -/
theorem round_rne_signed (fm : FFmt) (neg : Bool) (m : Nat) (e : Int) :
    (fm.round .rne neg m e).1 = fm.signed neg (fm.round .rne false m e).1 := by
  have hmag : roundMag fm.emin fm.fb .rne neg m e = roundMag fm.emin fm.fb .rne false m e := rfl
  have hsigned (x : Nat) : fm.signed neg (fm.signed false x) = fm.signed neg x := by
    simp [FFmt.signed]
  unfold FFmt.round
  rw [hmag]
  dsimp only
  split_ifs <;> simp only [hsigned]

/-! ### Powers of two -/

theorem powerOfTwo_iff {m : Nat} (hm : m ≠ 0) (e k : Int) : powerOfTwo m e = some k ↔ (m : ℝ) * 2 ^ e = 2 ^ k := by
  have hx : 0 < (m : ℝ) * 2 ^ e := mul_pos (Nat.cast_pos.2 (Nat.pos_of_ne_zero hm)) (zpow_pos two_pos _)
  have hval : (m : ℝ) * 2 ^ e = 2 ^ (e + m.log2) ↔ 2 ^ m.log2 = m := by
    rw [zpow_add₀ two_ne_zero, mul_comm (2 ^ e : ℝ), mul_left_inj' (zpow_pos two_pos e).ne', zpow_natCast, eq_comm]
    exact_mod_cast Iff.rfl
  obtain ⟨hlow, hhigh⟩ := RoundsLike.binade (fb := 0) (.inl rfl : RoundsLike 0 ((m : ℝ) * 2 ^ e) m e) hx
  unfold powerOfTwo
  constructor
  · intro h
    split_ifs at h with h1
    cases h
    exact hval.2 h1.2
  · intro h
    have hk : k = e + m.log2 := by
      rw [h] at hlow hhigh
      have h1 := (zpow_le_zpow_iff_right₀ (one_lt_two (α := ℝ))).1 hlow
      have h2 := (zpow_lt_zpow_iff_right₀ (one_lt_two (α := ℝ))).1 hhigh
      omega
    subst hk
    rw [if_pos ⟨hm, hval.1 h⟩]

/-- The pattern of a power of two in FP32, with either sign. -/
theorem fp32Pow_stands {k : Int} (hk : -149 ≤ k) (hk' : k ≤ 127) :
    ∃ p, fp32Pow k = some p ∧ ∀ neg, Stands fp32 (fp32.signed neg p) (sgn neg * 2 ^ k) := by
  refine ⟨_, if_pos ⟨hk, hk'⟩, fun neg => ?_⟩
  have hpow : sgn neg * (2 : ℝ) ^ k = sgn neg * ((1 : ℕ) * 2 ^ k) := by rw [Nat.cast_one, one_mul]
  have hne : sgn neg * ((1 : ℕ) * (2 : ℝ) ^ k) ≠ 0 := by
    rw [← abs_pos, abs_mul, abs_sgn, one_mul, Nat.cast_one, one_mul]
    exact abs_pos.2 (zpow_pos two_pos k).ne'
  obtain ⟨q, hq⟩ := exists_stands (fm := fp32) (by decide) neg (m := 1) (e := k) (by decide) hk    (fun _ => show k + 0 ≤ 127 by omega)
  rw [hpow, ← round_rne_signed]
  exact delivers_stands (by decide) (round_delivers_exact (by decide) (by decide) .rne neg one_ne_zero k) hne hq

end Sys2Proof.Machine
end

section
/-! SUPPORT. FRCP to FCOS (R142): what the bounds of the approximations say, the exact and special cases, and O11. -/

namespace Sys2Proof.Machine

open Sys2Proof.Claims

/-! ### Bounds -/

theorem dy_cmp_le (a b : Dy) : a.cmp b ≤ 0 ↔ realDy a ≤ realDy b := by
  rw [le_iff_lt_or_eq, le_iff_lt_or_eq, (dy_cmp a b).1, (dy_cmp a b).2]

theorem le_dy_cmp (a b : Dy) : 0 ≤ a.cmp b ↔ realDy b ≤ realDy a := by
  rw [← not_lt, (dy_cmp a b).1, not_lt]

theorem realDy_natAbs (d : Dy) : realDy ⟨d.m.natAbs, d.e⟩ = |realDy d| := by
  rw [realDy, realDy, abs_mul, abs_of_pos (zpow_pos (two_pos : (0 : ℝ) < 2) d.e)]
  push_cast
  rfl

theorem ulp_eq_spacing {z : ℝ} (hz : 0 < z) (neg : Bool) : ulp (sgn neg * z) = fp32.spacing z := by
  rw [ulp, abs_mul, abs_sgn, one_mul, abs_of_pos hz]
  rfl

/-- The spacing at a magnitude is no less than that of a binary place below. -/
theorem two_pow_ulpExp_le {z : ℝ} {t : Int} (hz : 0 < z) (h : (2 : ℝ) ^ t ≤ z) : (2 : ℝ) ^ ulpExp t ≤ fp32.spacing z := by
  have hlog : t ≤ Int.log 2 z := (Int.zpow_le_iff_le_log one_lt_two hz).1 h
  refine zpow_le_zpow_right₀ one_le_two ?_
  show max t (-126) - 23 ≤ max (Int.log 2 z) (-126) - 23
  exact sub_le_sub_right (max_le_max_right _ hlog) _

/-- A pattern of which nearQuotient says that it lies near a quotient (R142). -/
theorem nearQuotient_spec {v n : Nat} {neg : Bool} {d u : Int} (hn : 0 < n) (hv : v < 2 ^ 32)
    (h : nearQuotient v neg n d u = true) :
    ∃ y, Stands fp32 v y ∧ |y - sgn neg * (1 / (n * 2 ^ d))| ≤ 2 ^ u := by
  have hX : 0 < (n : ℝ) * 2 ^ d := mul_pos (Nat.cast_pos.2 hn) (zpow_pos two_pos d)
  cases hdec : fp32.decode v with
  | nan | inf => simp [nearQuotient, hdec] at h
  | fin s m e =>
    have hy : realOf (fp32.decode v) = some (sgn s * (m * 2 ^ e)) := by
      rw [hdec, ← mul_assoc]
      rfl
    simp only [nearQuotient, hdec, decide_eq_true_eq] at h
    rw [dy_cmp_le, realDy_natAbs, realDy_add, realDy_mul] at h
    have h1 : realDy ⟨if s then -(m : Int) else m, e⟩ = sgn s * (m * 2 ^ e) := realDy_fin s m e
    have h2 : realDy ⟨-if neg then -1 else 1, 0⟩ = -sgn neg := by cases neg <;> simp [realDy, sgn]
    have h3 : realDy ⟨n, d + u⟩ = 2 ^ u * (n * 2 ^ d) := by
      rw [realDy, zpow_add₀ two_ne_zero]
      push_cast
      ring
    have h4 : realDy ⟨n, d⟩ = n * 2 ^ d := rfl
    rw [h1, h2, h3, h4] at h
    refine ⟨_, ⟨hv, hy⟩, ?_⟩
    have h5 : sgn s * (m * 2 ^ e) * (n * 2 ^ d) + -sgn neg =
        (sgn s * (m * 2 ^ e) - sgn neg * (1 / (n * 2 ^ d))) * (n * 2 ^ d) := by
      field_simp
      ring
    rw [h5, abs_mul, abs_of_pos hX] at h
    exact le_of_mul_le_mul_right h hX

/-- A pattern of which nearRsqrt says that it lies near a reciprocal root (R142). -/
theorem nearRsqrt_spec {v m : Nat} {e u : Int} (hm : 0 < m) (hv : v < 2 ^ 32) (h : nearRsqrt v m e u = true) :
    ∃ y, Stands fp32 v y ∧ |y - 1 / Real.sqrt (m * 2 ^ e)| ≤ 2 ^ u := by
  have hX : 0 < (m : ℝ) * 2 ^ e := mul_pos (Nat.cast_pos.2 hm) (zpow_pos two_pos e)
  have hS := Real.sqrt_pos.2 hX
  have hSS := Real.mul_self_sqrt hX.le
  cases hdec : fp32.decode v with
  | nan | inf => simp [nearRsqrt, hdec] at h
  | fin s n g =>
    cases s with
    | true => simp [nearRsqrt, hdec] at h
    | false =>
      have hy : realOf (fp32.decode v) = some ((n : ℝ) * 2 ^ g) := by
        rw [hdec]
        simp [realOf]
      simp only [nearRsqrt, hdec, Bool.and_eq_true, Bool.or_eq_true, decide_eq_true_eq] at h
      rw [dy_cmp_le, le_dy_cmp] at h
      simp only [realDy_mul] at h
      have hone : realDy ⟨1, 0⟩ = 1 := by simp [realDy]
      have hlo : realDy ((Dy.mk n g).add ⟨-1, u⟩) = n * 2 ^ g - 2 ^ u := by
        rw [realDy_add]
        simp [realDy, sub_eq_add_neg]
      have hhi : realDy ((Dy.mk n g).add ⟨1, u⟩) = n * 2 ^ g + 2 ^ u := by
        rw [realDy_add]
        simp [realDy]
      have hx : realDy ⟨m, e⟩ = m * 2 ^ e := rfl
      have hneg : ((Dy.mk n g).add ⟨-1, u⟩).m ≤ 0 ↔ (n : ℝ) * 2 ^ g - 2 ^ u ≤ 0 := by
        rw [← hlo, ← not_lt, ← not_lt, realDy, mul_pos_iff_of_pos_right (zpow_pos two_pos _), Int.cast_pos]
      rw [hone, hlo, hhi, hx, hneg, ← hSS] at h
      obtain ⟨h1, h2⟩ := h
      have hu : (0 : ℝ) < 2 ^ u := zpow_pos two_pos u
      have hY : 0 ≤ (n : ℝ) * 2 ^ g := mul_nonneg n.cast_nonneg (zpow_pos two_pos g).le
      refine ⟨_, ⟨hv, hy⟩, ?_⟩
      generalize (n : ℝ) * 2 ^ g = Y at *
      generalize Real.sqrt (m * 2 ^ e) = S at *
      rw [abs_le]
      constructor
      · have h3 : 1 ≤ (Y + 2 ^ u) * S := by
          by_contra hlt
          have h4 : 0 ≤ (Y + 2 ^ u) * S := mul_nonneg (by linarith) hS.le
          nlinarith
        have h5 : 1 / S ≤ Y + 2 ^ u := (div_le_iff₀ hS).2 h3
        linarith
      · have h3 : (Y - 2 ^ u) * S ≤ 1 := by
          rcases h1 with h1 | h1
          · exact (mul_nonpos_of_nonpos_of_nonneg h1 hS.le).trans zero_le_one
          · by_contra hlt
            nlinarith
        have h5 : Y - 2 ^ u ≤ 1 / S := (le_div_iff₀ hS).2 h3
        linarith

/-- The least exponent of a finite value. -/
theorem decode_fin_low {fm : FFmt} {p : Nat} {n : Bool} {m : Nat} {e : Int} (h : fm.decode p = .fin n m e) :
    fm.emin - fm.fb ≤ e := by
  unfold FFmt.decode at h
  simp only at h
  split_ifs at h with h1 h2 h3
  · cases h
    exact le_rfl
  · cases h
    omega

/-- The powers of two among FP32's values. -/
theorem fp32_power_range {v : Nat} {n : Bool} {m : Nat} {e k : Int} (hdec : fp32.decode v = .fin n m e) (hm : m ≠ 0)
    (h : (m : ℝ) * 2 ^ e = 2 ^ k) : -149 ≤ k ∧ k ≤ 127 := by
  obtain ⟨-, hm', he⟩ := decode_fin (show 1 < fp32.eb by decide) hdec
  have hlow : -149 ≤ e := decode_fin_low hdec
  have hhigh : e ≤ 104 := he
  have hlog : m.log2 < 24 := (Nat.log2_lt hm).2 hm'
  have hX : 0 < (m : ℝ) * 2 ^ e := mul_pos (Nat.cast_pos.2 (Nat.pos_of_ne_zero hm)) (zpow_pos two_pos e)
  obtain ⟨h1, h2⟩ := RoundsLike.binade (.inl rfl : RoundsLike 0 ((m : ℝ) * 2 ^ e) m e) hX
  rw [h] at h1 h2
  have h3 := (zpow_le_zpow_iff_right₀ (one_lt_two (α := ℝ))).1 h1
  have h4 := (zpow_lt_zpow_iff_right₀ (one_lt_two (α := ℝ))).1 h2
  omega

/-! ### FRCP -/

section

variable {v : Nat} {n : Bool} {m : Nat} {e : Int} (hdec : fp32.decode v = .fin n m e) (hm : m ≠ 0)

include hdec hm in
theorem rcp_small (h : (m : ℝ) * 2 ^ e ≤ 2 ^ (-128 : ℤ)) : rcp v = (fp32.signed n fp32.infMag, xOF) := by
  have hcmp : (Dy.mk m e).cmp ⟨1, -128⟩ ≤ 0 := by
    rw [dy_cmp_le]
    simpa [realDy] using h
  simp only [rcp, hdec, if_neg hm, if_pos hcmp]

include hdec hm in
theorem rcp_power {p : Nat} (h : (2 : ℝ) ^ (-128 : ℤ) < m * 2 ^ e)
    (hp : ((powerOfTwo m e).bind fun k => fp32Pow (-k)) = some p) : rcp v = (fp32.signed n p, 0) := by
  have hcmp : ¬ (Dy.mk m e).cmp ⟨1, -128⟩ ≤ 0 := by
    rw [dy_cmp_le, not_le]
    simpa [realDy] using h
  simp only [rcp, hdec, if_neg hm, if_neg hcmp, hp]

include hdec hm in
theorem rcp_general (h : (2 : ℝ) ^ (-128 : ℤ) < m * 2 ^ e)
    (hp : ((powerOfTwo m e).bind fun k => fp32Pow (-k)) = none) :
    (rcp v).1 = within (Config.approx .rcp (BitVec.ofNat 32 v)).toNat
      (nearQuotient (Config.approx .rcp (BitVec.ofNat 32 v)).toNat n m e (ulpExp (-(e + m.log2) - 1)))
      (fp32.round .rne n (divMag 1 m (-e)).1 (divMag 1 m (-e)).2).1 ∧ (rcp v).2 = 0 := by
  have hcmp : ¬ (Dy.mk m e).cmp ⟨1, -128⟩ ≤ 0 := by
    rw [dy_cmp_le, not_le]
    simpa [realDy] using h
  simp only [rcp, hdec, if_neg hm, if_neg hcmp, hp, and_self]

include hdec in
/-- A reciprocal within FP32's range stays below the bound of overflow. -/
theorem reciprocal_lt_overflowsAt (h : (2 : ℝ) ^ (-128 : ℤ) < m * 2 ^ e) : 1 / ((m : ℝ) * 2 ^ e) < overflowsAt fp32 := by
  have hlow : -149 ≤ e := decode_fin_low hdec
  obtain ⟨d, rfl⟩ : ∃ d : Nat, e = -149 + d := ⟨(e + 149).toNat, by omega⟩
  have hX : (m : ℝ) * 2 ^ (-149 + (d : ℤ)) = (m * 2 ^ d : ℕ) * 2 ^ (-149 : ℤ) := by
    rw [zpow_add₀ two_ne_zero, zpow_natCast]
    push_cast
    ring
  have hint : 2 ^ 21 + 1 ≤ m * 2 ^ d := by
    have h1 : (2 : ℝ) ^ (-128 : ℤ) = (2 ^ 21 : ℕ) * 2 ^ (-149 : ℤ) := by norm_num
    rw [hX, h1, mul_lt_mul_iff_left₀ (zpow_pos two_pos _)] at h
    exact_mod_cast h
  have hover : overflowsAt fp32 = (2 ^ 25 - 1 : ℝ) * 2 ^ (103 : ℤ) := by
    rw [overflowsAt, show (-(fp32.fb : ℤ) - 1) = -24 from rfl, show fp32.bias = 127 from rfl]
    norm_num
  have hint' : (2 ^ 21 + 1 : ℝ) ≤ (m * 2 ^ d : ℕ) := by exact_mod_cast hint
  rw [hX, div_lt_iff₀ (mul_pos (by linarith) (zpow_pos two_pos _)), hover]
  calc (1 : ℝ) < (2 ^ 25 - 1) * 2 ^ (103 : ℤ) * ((2 ^ 21 + 1) * 2 ^ (-149 : ℤ)) := by norm_num
    _ ≤ _ := mul_le_mul_of_nonneg_left (mul_le_mul_of_nonneg_right hint' (zpow_pos two_pos _).le) (by positivity)

include hdec hm in
/-- The bound of FRCP (R142). -/
theorem rcp_near (h : (2 : ℝ) ^ (-128 : ℤ) < m * 2 ^ e) :
    (∃ y, Stands fp32 (rcp v).1 y ∧ |y - sgn n * (1 / (m * 2 ^ e))| ≤ fp32.spacing (1 / (m * 2 ^ e))) ∧ (rcp v).2 = 0 := by
  have hm0 := Nat.pos_of_ne_zero hm
  have hX : 0 < (m : ℝ) * 2 ^ e := mul_pos (Nat.cast_pos.2 hm0) (zpow_pos two_pos e)
  have hz : 0 < 1 / ((m : ℝ) * 2 ^ e) := div_pos one_pos hX
  have hspace : (0 : ℝ) < fp32.spacing (1 / (m * 2 ^ e)) := zpow_pos two_pos _
  obtain ⟨-, hm', -⟩ := decode_fin (show 1 < fp32.eb by decide) hdec
  cases hp : (powerOfTwo m e).bind fun k => fp32Pow (-k) with
  | some p =>
    rw [rcp_power hdec hm h hp]
    obtain ⟨k, hk, hk'⟩ := Option.bind_eq_some_iff.1 hp
    have hrange : -149 ≤ -k ∧ -k ≤ 127 := by
      unfold fp32Pow at hk'
      split_ifs at hk' with hr
      exact hr
    obtain ⟨p', hp', hst⟩ := fp32Pow_stands hrange.1 hrange.2
    obtain rfl : p = p' := Option.some.inj (hk'.symm.trans hp')
    refine ⟨⟨_, hst n, ?_⟩, rfl⟩
    rw [(powerOfTwo_iff hm e k).1 hk, zpow_neg, one_div, sub_self, abs_zero]
    exact (zpow_pos two_pos _).le
  | none =>
    obtain ⟨hval, hflags⟩ := rcp_general hdec hm h hp
    refine ⟨?_, hflags⟩
    rw [hval]
    unfold within
    split_ifs with hnear
    · obtain ⟨y, hy, hle⟩ := nearQuotient_spec hm0 (BitVec.isLt _) hnear
      refine ⟨y, hy, hle.trans (two_pow_ulpExp_le hz ?_)⟩
      have hlt := (RoundsLike.binade (.inl rfl : RoundsLike 0 ((m : ℝ) * 2 ^ e) m e) hX).2
      rw [le_div_iff₀ hX, show -(e + (m.log2 : ℤ)) - 1 = -(e + m.log2 + 1) by ring, zpow_neg]
      exact (inv_mul_le_iff₀ (zpow_pos two_pos _)).2 (by linarith)
    · have hval : 1 / ((m : ℝ) * 2 ^ e) = (1 : ℕ) / m * 2 ^ (-e) := by
        rw [zpow_neg, Nat.cast_one]
        field_simp
      have hlt := reciprocal_lt_overflowsAt hdec h
      have hlike := divMag_like (fb := fp32.fb) (-e) hm0 (m := 1) (by
        have h1 : m < 2 ^ 24 := hm'
        rw [show fp32.fb = 23 from rfl]
        omega)
      rw [← hval] at hlike
      exact round_near (by decide) (by decide) hlike hz hz hlt hlt (by rw [sub_self, abs_zero]; positivity) n

include hdec hm in
/-- FRCP is exact for a power of two (R142). -/
theorem rcp_exact {k : Int} (hk : -127 ≤ k) (hk' : k ≤ 127) (h : (m : ℝ) * 2 ^ e = 2 ^ k) :
    Stands fp32 (rcp v).1 (sgn n * (1 / (m * 2 ^ e))) := by
  obtain ⟨p, hp, hst⟩ := fp32Pow_stands (k := -k) (by omega) (by omega)
  have hlow : (2 : ℝ) ^ (-128 : ℤ) < m * 2 ^ e := by
    rw [h]
    exact zpow_lt_zpow_right₀ one_lt_two (by omega)
  rw [rcp_power hdec hm hlow (by rw [(powerOfTwo_iff hm e k).2 h]; exact hp), h, one_div, ← zpow_neg]
  exact hst n

end

/-! ### FRSQ -/

section

variable {v m : Nat} {e : Int} (hdec : fp32.decode v = .fin false m e) (hm : m ≠ 0)

include hdec hm in
theorem rsq_power {p : Nat}
    (hp : ((powerOfTwo m e).bind fun k => if k % 2 = 0 then fp32Pow (-(k / 2)) else none) = some p) : rsq v = (p, 0) := by
  simp only [rsq, hdec, if_neg hm, Bool.false_eq_true, if_false, hp]

include hdec hm in
theorem rsq_general (hp : ((powerOfTwo m e).bind fun k => if k % 2 = 0 then fp32Pow (-(k / 2)) else none) = none) :
    (rsq v).1 = within (Config.approx .rsq (BitVec.ofNat 32 v)).toNat
      (nearRsqrt (Config.approx .rsq (BitVec.ofNat 32 v)).toNat m e (ulpExp ((-(e + m.log2) - 1) / 2)))
      (fp32.round .rne false (divMag (2 ^ 128) (sqrtMag m e).1 (-(sqrtMag m e).2 - 128)).1
        (divMag (2 ^ 128) (sqrtMag m e).1 (-(sqrtMag m e).2 - 128)).2).1 ∧ (rsq v).2 = 0 := by
  simp only [rsq, hdec, if_neg hm, Bool.false_eq_true, if_false, hp, and_self]

theorem sqrt_two_zpow (j : Int) : Real.sqrt ((2 : ℝ) ^ (2 * j)) = 2 ^ j := by
  rw [two_mul, zpow_add₀ two_ne_zero, Real.sqrt_mul_self (zpow_pos two_pos j).le]

/-- A magnitude as a multiple of its spacing. -/
theorem le_spacing (fm : FFmt) (z : ℝ) : z ≤ 2 ^ (fm.fb + 1) * fm.spacing z := by
  rw [FFmt.spacing, ← zpow_natCast, ← zpow_add₀ two_ne_zero]
  refine (Int.lt_zpow_succ_log_self one_lt_two z).le.trans (zpow_le_zpow_right₀ one_le_two ?_)
  have := le_max_left (Int.log 2 z) fm.emin
  push_cast
  linarith

/-- The reciprocal of a root with a sticky bit lies near that of the root. -/
theorem reciprocal_near {S w z T : ℝ} {M : Nat} {f : Int} (hM : 2 ^ 100 ≤ M) (hS : 0 < S) (hnear : |S - T| < 2 ^ f)
    (hT : T = M * 2 ^ f) (hw : w = 1 / T) (hz : z = 1 / S) : |w - z| ≤ z * (1 / 2 ^ 100) := by
  have hf : (0 : ℝ) < 2 ^ f := zpow_pos two_pos f
  have hM' : (2 ^ 100 : ℝ) ≤ M := by exact_mod_cast hM
  have hTpos : 0 < T := by
    rw [hT]
    exact mul_pos (by linarith) hf
  have hdiff : w - z = z * ((S - T) / T) := by
    rw [hw, hz]
    field_simp
  rw [hdiff, abs_mul, abs_of_pos (by rw [hz]; positivity : 0 < z), abs_div, abs_of_pos hTpos]
  refine mul_le_mul_of_nonneg_left ?_ (by rw [hz]; positivity)
  rw [div_le_iff₀ hTpos]
  calc |S - T| ≤ 2 ^ f := hnear.le
    _ = 1 / 2 ^ 100 * (2 ^ 100 * 2 ^ f) := by field_simp
    _ ≤ 1 / 2 ^ 100 * T := by
      rw [hT]
      exact mul_le_mul_of_nonneg_left (mul_le_mul_of_nonneg_right hM' hf.le) (by positivity)

include hdec hm in
/-- The bound of FRSQ (R142). -/
theorem rsq_near : (∃ y, Stands fp32 (rsq v).1 y ∧
    |y - 1 / Real.sqrt (m * 2 ^ e)| ≤ fp32.spacing (1 / Real.sqrt (m * 2 ^ e))) ∧ (rsq v).2 = 0 := by
  have hm0 := Nat.pos_of_ne_zero hm
  have hX : 0 < (m : ℝ) * 2 ^ e := mul_pos (Nat.cast_pos.2 hm0) (zpow_pos two_pos e)
  have hS := Real.sqrt_pos.2 hX
  have hz : 0 < 1 / Real.sqrt (m * 2 ^ e) := div_pos one_pos hS
  have hspace : (0 : ℝ) < fp32.spacing (1 / Real.sqrt (m * 2 ^ e)) := zpow_pos two_pos _
  obtain ⟨-, hm', -⟩ := decode_fin (show 1 < fp32.eb by decide) hdec
  cases hp : (powerOfTwo m e).bind fun k => if k % 2 = 0 then fp32Pow (-(k / 2)) else none with
  | some p =>
    rw [rsq_power hdec hm hp]
    obtain ⟨k, hk, hk'⟩ := Option.bind_eq_some_iff.1 hp
    obtain ⟨heven, hrange⟩ : k % 2 = 0 ∧ fp32Pow (-(k / 2)) = some p := by
      split_ifs at hk' with h2
      exact ⟨h2, hk'⟩
    have hlow : -149 ≤ -(k / 2) ∧ -(k / 2) ≤ 127 := by
      unfold fp32Pow at hrange
      split_ifs at hrange with hr
      exact hr
    obtain ⟨p', hp', hst⟩ := fp32Pow_stands hlow.1 hlow.2
    obtain rfl : p = p' := Option.some.inj (hrange.symm.trans hp')
    have hfalse : fp32.signed false p = p := Nat.zero_add p
    refine ⟨⟨_, hfalse ▸ hst false, ?_⟩, rfl⟩
    rw [(powerOfTwo_iff hm e k).1 hk, show k = 2 * (k / 2) by omega, sqrt_two_zpow, show 2 * (k / 2) / 2 = k / 2 by omega,
      zpow_neg, one_div, sgn, if_neg Bool.false_ne_true, one_mul, sub_self, abs_zero]
    exact (zpow_pos two_pos _).le
  | none =>
    obtain ⟨hval, hflags⟩ := rsq_general hdec hm hp
    refine ⟨?_, hflags⟩
    rw [hval]
    unfold within
    split_ifs with hnear
    · obtain ⟨y, hy, hle⟩ := nearRsqrt_spec hm0 (BitVec.isLt _) hnear
      refine ⟨y, hy, hle.trans (two_pow_ulpExp_le hz ?_)⟩
      have hlt := (RoundsLike.binade (.inl rfl : RoundsLike 0 ((m : ℝ) * 2 ^ e) m e) hX).2
      obtain ⟨c, hc⟩ : ∃ c, (-(e + (m.log2 : ℤ)) - 1) / 2 = c := ⟨_, rfl⟩
      have hroot : Real.sqrt (m * 2 ^ e) ≤ 2 ^ (-c) := by
        refine Real.sqrt_le_iff.2 ⟨(zpow_pos two_pos _).le, hlt.le.trans ?_⟩
        rw [sq, ← zpow_add₀ two_ne_zero]
        exact zpow_le_zpow_right₀ one_le_two (by omega)
      rw [hc, le_div_iff₀ hS]
      calc (2 : ℝ) ^ c * Real.sqrt (m * 2 ^ e) ≤ 2 ^ c * 2 ^ (-c) :=
            mul_le_mul_of_nonneg_left hroot (zpow_pos two_pos _).le
        _ = 1 := by rw [← zpow_add₀ two_ne_zero, add_neg_cancel, zpow_zero]
    · obtain ⟨x, s, g, hs, hs', -, -, -, hdef⟩ := sqrtMag_eq e hm0 (hm'.trans_le (by decide))
      have hlike := sqrtMag_like (fb := 98) e (by decide) hm0 (hm'.trans_le (by decide))
      have hM : 2 ^ 100 ≤ (sqrtMag m e).1 ∧ (sqrtMag m e).1 ≤ 2 ^ 142 := by
        rw [hdef]
        dsimp only
        split_ifs <;> omega
      generalize (sqrtMag m e).1 = M at *
      generalize (sqrtMag m e).2 = f at *
      have hlow : (2 : ℝ) ^ (-149 : ℤ) ≤ m * 2 ^ e := by
        have h1 : (1 : ℝ) ≤ m := by exact_mod_cast hm0
        have h2 : (2 : ℝ) ^ (-149 : ℤ) ≤ 2 ^ e := zpow_le_zpow_right₀ one_le_two (decode_fin_low hdec)
        exact h2.trans (le_mul_of_one_le_left (zpow_pos two_pos e).le h1)
      have hroot : (2 : ℝ) ^ (-75 : ℤ) ≤ Real.sqrt (m * 2 ^ e) :=
        Real.le_sqrt_of_sq_le ((by norm_num : ((2 : ℝ) ^ (-75 : ℤ)) ^ 2 ≤ 2 ^ (-149 : ℤ)).trans hlow)
      have hzle : 1 / Real.sqrt (m * 2 ^ e) ≤ 2 ^ 75 := by
        rw [div_le_iff₀ hS]
        calc (1 : ℝ) = 2 ^ 75 * 2 ^ (-75 : ℤ) := by norm_num
          _ ≤ _ := mul_le_mul_of_nonneg_left hroot (by positivity)
      have hover : (2 : ℝ) ^ 100 < overflowsAt fp32 := by
        rw [overflowsAt, show (-(fp32.fb : ℤ) - 1) = -24 from rfl, show fp32.bias = 127 from rfl]
        norm_num
      have hf : (0 : ℝ) < 2 ^ f := zpow_pos two_pos f
      have hM0 : 0 < M := by omega
      have hnear : |Real.sqrt (m * 2 ^ e) - M * 2 ^ f| < 2 ^ f := by
        rcases hlike with heq | ⟨-, -, hlt⟩
        · rw [heq, sub_self, abs_zero]
          exact hf
        · exact hlt
      have hval : 1 / ((M : ℝ) * 2 ^ f) = (2 ^ 128 : ℕ) / M * 2 ^ (-f - 128) := by
        rw [zpow_sub₀ two_ne_zero, zpow_neg]
        push_cast
        field_simp
        norm_num
      have hdiff := reciprocal_near hM.1 hS hnear rfl rfl rfl
      have hdiv := divMag_like (fb := fp32.fb) (m := 2 ^ 128) (-f - 128) hM0 (by
        rw [show fp32.fb = 23 from rfl]
        omega)
      rw [← hval] at hdiv
      have hspace := le_spacing fp32 (1 / Real.sqrt (m * 2 ^ e))
      rw [show (2 : ℝ) ^ (fp32.fb + 1) = 2 ^ 24 from rfl] at hspace
      have hw : 0 < 1 / ((M : ℝ) * 2 ^ f) := div_pos one_pos (mul_pos (Nat.cast_pos.2 hM0) hf)
      have h := round_near (by decide) (by decide) hdiv hw hz
        (by linarith [abs_le.1 hdiff]) (by linarith) (by linarith) false
      rwa [sgn, if_neg Bool.false_ne_true, one_mul] at h

include hdec hm in
/-- FRSQ is exact for a power of four (R142). -/
theorem rsq_exact {k : Int} (h : (m : ℝ) * 2 ^ e = 2 ^ (2 * k)) : Stands fp32 (rsq v).1 (2 ^ (-k)) := by
  obtain ⟨hlow, hhigh⟩ := fp32_power_range hdec hm h
  obtain ⟨p, hp, hst⟩ := fp32Pow_stands (k := -k) (by omega) (by omega)
  have hfalse : fp32.signed false p = p := Nat.zero_add p
  have hpow := hst false
  rw [hfalse, sgn, if_neg Bool.false_ne_true, one_mul] at hpow
  rw [rsq_power hdec hm (p := p) (by
    rw [(powerOfTwo_iff hm e (2 * k)).2 h]
    show (if 2 * k % 2 = 0 then fp32Pow (-(2 * k / 2)) else none) = some p
    rw [if_pos (by omega), show 2 * k / 2 = k by omega, hp])]
  exact hpow

end

/-! ### FEXP2 and FLOG2 -/

section

variable {v : Nat} {n : Bool} {m : Nat} {e : Int} (hdec : fp32.decode v = .fin n m e)

include hdec in
theorem exp2_large (h : 128 ≤ sgn n * ((m : ℝ) * 2 ^ e)) : exp2 v = (0x7F800000, xOF) := by
  have hcmp : 0 ≤ (FVal.fin n m e).dy.cmp ⟨128, 0⟩ := by
    rw [le_dy_cmp, realDy_fin]
    simpa [realDy] using h
  simp only [exp2, hdec, if_pos hcmp]
  rfl

include hdec in
theorem exp2_flags (h : sgn n * ((m : ℝ) * 2 ^ e) < 128) : (exp2 v).2 = 0 := by
  have hcmp : ¬ 0 ≤ (FVal.fin n m e).dy.cmp ⟨128, 0⟩ := by
    rw [le_dy_cmp, realDy_fin, not_le]
    simpa [realDy] using h
  simp only [exp2, hdec, if_neg hcmp]
  split
  · rfl
  · simp only [apply_ite Prod.snd, ite_self]

include hdec in
/-- FEXP2 is exact for a whole number (R142). -/
theorem exp2_exact {k : Int} (hk : -149 ≤ k) (hk' : k ≤ 127) (h : sgn n * ((m : ℝ) * 2 ^ e) = k) :
    ∃ p, fp32Pow k = some p ∧ exp2 v = (p, 0) := by
  have hk128 : (k : ℝ) < 128 := by exact_mod_cast (show k < 128 by omega)
  have hcmp : ¬ 0 ≤ (FVal.fin n m e).dy.cmp ⟨128, 0⟩ := by
    rw [le_dy_cmp, realDy_fin, not_le, h]
    simpa [realDy] using hk128
  have habs : (m : ℝ) * 2 ^ e = k.natAbs * 2 ^ (0 : ℤ) := by
    have h0 : 0 ≤ (m : ℝ) * 2 ^ e := mul_nonneg m.cast_nonneg (zpow_pos two_pos e).le
    rw [zpow_zero, mul_one, Nat.cast_natAbs, Int.cast_abs, ← h, abs_mul, abs_sgn, one_mul, abs_of_nonneg h0]
  have hfl : (if n then -((roundAt .rdn n m e 0).1 : Int) else (roundAt .rdn n m e 0).1) = k := by
    rw [roundAt_exact .rdn n habs]
    rw [habs, zpow_zero, mul_one] at h
    cases n with
    | false => exact Int.cast_injective (α := ℝ) (by simpa [sgn] using h)
    | true => exact Int.cast_injective (α := ℝ) (by simpa [sgn] using h)
  have hcmpk : (FVal.fin n m e).dy.cmp ⟨k, 0⟩ = 0 := by
    rw [(dy_cmp _ _).2, realDy_fin, h]
    simp [realDy]
  obtain ⟨p, hp, -⟩ := fp32Pow_stands hk hk'
  refine ⟨p, hp, ?_⟩
  simp only [exp2, hdec, if_neg hcmp, hfl, hcmpk, if_true, hp]

end

section

variable {v m : Nat} {e : Int} (hdec : fp32.decode v = .fin false m e) (hm : m ≠ 0)

include hdec hm in
theorem log2_flags : (log2 v).2 = 0 := by
  simp only [log2, hdec, if_neg hm, Bool.false_eq_true, if_false]
  split
  · rfl
  · split <;> rfl

include hdec hm in
/-- FLOG2 is exact for a power of two (R142). -/
theorem log2_exact {k : Int} (h : (m : ℝ) * 2 ^ e = 2 ^ k) :
    Stands fp32 (log2 v).1 k ∧ (k = 0 → (log2 v).1 = 0) := by
  have hX : 0 < (m : ℝ) * 2 ^ e := mul_pos (Nat.cast_pos.2 (Nat.pos_of_ne_zero hm)) (zpow_pos two_pos e)
  have hpow := (powerOfTwo_iff hm e k).2 h
  have htop : e + m.log2 = k := by
    unfold powerOfTwo at hpow
    split_ifs at hpow
    exact Option.some.inj hpow
  have hdef : (log2 v).1 = (fp32.roundDy .rne false ⟨k, 0⟩).1 := by
    simp only [log2, hdec, if_neg hm, Bool.false_eq_true, if_false, hpow, htop, Option.isSome_some, if_true]
  obtain ⟨hlow, hhigh⟩ := fp32_power_range hdec hm h
  rw [hdef]
  rcases eq_or_ne k 0 with rfl | hk0
  · rw [Int.cast_zero]
    exact ⟨(stands_zero (fm := fp32) (by decide) false).1, fun _ => rfl⟩
  · refine ⟨?_, fun hk => absurd hk hk0⟩
    have hval : (k : ℝ) = realDy ⟨k, 0⟩ := by simp [realDy]
    have hsgn : (k : ℝ) = sgn (decide (k < 0)) * (k.natAbs * 2 ^ (0 : ℤ)) := by
      rw [zpow_zero, mul_one, ← int_eq_sgn_mul]
    have hlog : k.natAbs.log2 < 8 := (Nat.log2_lt (by omega)).2 (by omega)
    obtain ⟨q, hq⟩ := exists_stands (fm := fp32) (by decide) (decide (k < 0)) (m := k.natAbs) (e := 0)
      (show k.natAbs < 2 ^ 24 by omega) (by decide) (fun _ => show (0 : ℤ) + k.natAbs.log2 ≤ 127 by omega)
    rw [← hsgn] at hq
    have hdel := roundDy_delivers (fm := fp32) (by decide) (by decide) .rne false ⟨k, 0⟩
    rw [← hval] at hdel
    exact delivers_stands (by decide) hdel (by exact_mod_cast hk0) hq

end

/-! ### FSIN and FCOS -/

theorem trig_flags (fn : Config.Approx) (zero : Bool → Nat) {v : Nat} {n : Bool} {m : Nat} {e : Int}
    (hdec : fp32.decode v = .fin n m e) : (trig fn zero v).2 = 0 := by
  simp only [trig, hdec]
  split <;> rfl

end Sys2Proof.Machine

namespace Sys2Proof.Claims

open Sys2Proof.Machine

/-! ### The approximate functions on special operands -/

section

variable {v : Nat} {n : Bool} (fn : Config.Approx) (zero : Bool → Nat)

theorem approximations_nan {sig : Bool} (h : fp32.decode v = .nan sig) :
    ∀ o ∈ [rcp v, rsq v, exp2 v, log2 v, trig .sin (fun n => fp32.signed n 0) v, trig .cos (fun _ => 0x3F800000) v],
      o = (0x7FC00000, if sig then xNV else 0) := by
  simp only [List.forall_mem_cons, rcp, rsq, exp2, log2, trig, h]
  exact ⟨rfl, rfl, rfl, rfl, rfl, rfl, List.forall_mem_nil _⟩

theorem approximations_inf (h : fp32.decode v = .inf n) :
    rcp v = (fp32.signed n 0, 0) ∧ rsq v = (if n then (0x7FC00000, xNV) else (0, 0)) ∧
      exp2 v = (if n then (0, 0) else (0x7F800000, 0)) ∧
      log2 v = (if n then (0x7FC00000, xNV) else (0x7F800000, 0)) ∧ trig fn zero v = (0x7FC00000, xNV) := by
  refine ⟨?_, ?_, ?_, ?_, ?_⟩
  · rw [rcp, h]
  · rw [rsq, h]
    cases n <;> rfl
  · rw [exp2, h]
    cases n <;> rfl
  · rw [log2, h]
    cases n <;> rfl
  · rw [trig, h]
    rfl

theorem approximations_zero {e : Int} (h : fp32.decode v = .fin n 0 e) :
    rcp v = (fp32.signed n fp32.infMag, xDZ) ∧ rsq v = (fp32.signed n fp32.infMag, xDZ) ∧
      log2 v = (0xFF800000, xDZ) ∧ trig fn zero v = (zero n, 0) := by
  simp only [rcp, rsq, log2, trig, h]
  exact ⟨rfl, rfl, rfl, rfl⟩

theorem exp2_zero {e : Int} (h : fp32.decode v = .fin n 0 e) : exp2 v = (0x3F800000, 0) := by
  obtain ⟨p, hp, hexp⟩ := exp2_exact h (k := 0) (by decide) (by decide) (by simp)
  obtain rfl : 0x3F800000 = p := Option.some.inj hp
  exact hexp

theorem roots_negative {m : Nat} {e : Int} (h : fp32.decode v = .fin true m e) (hm : m ≠ 0) :
    rsq v = (0x7FC00000, xNV) ∧ log2 v = (0x7FC00000, xNV) := by
  simp only [rsq, log2, h, if_neg hm, if_true]
  exact ⟨rfl, rfl⟩

end

/-- A finite nonzero value by its sign and magnitude. -/
theorem finite_cases {v : Nat} {x : ℝ} (h : realOf (fp32.decode v) = some x) :
    ∃ n m e, fp32.decode v = .fin n m e ∧ x = sgn n * (m * 2 ^ e) ∧ |x| = m * 2 ^ e ∧ (x ≠ 0 → m ≠ 0) ∧
      (0 < x → n = false) ∧ (x < 0 → n = true) := by
  obtain ⟨n, m, e, hv, rfl⟩ := realOf_eq_some h
  have h0 : 0 ≤ (m : ℝ) * 2 ^ e := mul_nonneg m.cast_nonneg (zpow_pos two_pos e).le
  refine ⟨n, m, e, hv, rfl, by rw [abs_mul, abs_sgn, one_mul, abs_of_nonneg h0], ?_, fun hx => ?_, fun hx => ?_⟩
  · rintro hx rfl
    simp at hx
  · cases n with
    | false => rfl
    | true =>
      rw [sgn, if_pos rfl] at hx
      linarith
  · cases n with
    | true => rfl
    | false =>
      rw [sgn, if_neg Bool.false_ne_true] at hx
      linarith

theorem approximateFunctions : ApproximateFunctions := by
  intro v a sine cosine
  refine ⟨fun ha => ?_, fun ha => ?_, fun ha => ?_, fun x hx => ?_⟩
  · obtain ⟨sig, h⟩ := FVal.eq_nan ha
    rw [h]
    exact approximations_nan h
  · obtain ⟨n, h⟩ := FVal.eq_inf ha
    obtain ⟨h1, h2, h3, h4, h5⟩ := approximations_inf .sin (fun n => fp32.signed n 0) h
    rw [h]
    exact ⟨h1, h2, h3, h4, h5, (approximations_inf .cos (fun _ => 0x3F800000) h).2.2.2.2⟩
  · obtain ⟨n, e, h⟩ := FVal.eq_zero ha
    obtain ⟨h1, h2, h3, h4⟩ := approximations_zero .sin (fun n => fp32.signed n 0) h
    rw [h]
    exact ⟨h1, h2, exp2_zero h, h3, h4, (approximations_zero .cos (fun _ => 0x3F800000) h).2.2.2⟩
  · obtain ⟨n, m, e, hdec, hval, habs, hm, hpos, hneg⟩ := finite_cases hx
    have hne {y : ℝ} (hy : 0 < y) (h : y ≤ |x|) : x ≠ 0 := abs_pos.1 (hy.trans_le h)
    have hinv : 1 / x = sgn n * (1 / (m * 2 ^ e)) := by
      rw [hval]
      cases n <;> simp [sgn]
    refine ⟨fun h0 hle => ?_, fun hlt => ?_, fun k hk hk' h => ?_, fun hlt => ?_, fun hlt => ?_, fun k h => ?_, fun h => ?_,
      fun h => ?_, fun k hk hk' h => ?_, fun k h => ?_, trig_flags _ _ hdec, trig_flags _ _ hdec⟩
    · rw [show a = .fin n m e from hdec]
      exact rcp_small hdec (hm h0) (habs ▸ hle)
    · have h0 := hm (hne (zpow_pos two_pos _) hlt.le)
      have hX : 0 < (m : ℝ) * 2 ^ e := mul_pos (Nat.cast_pos.2 (Nat.pos_of_ne_zero h0)) (zpow_pos two_pos e)
      rw [hinv, ulp_eq_spacing (div_pos one_pos hX)]
      exact rcp_near hdec h0 (habs ▸ hlt)
    · rw [hinv]
      exact rcp_exact hdec (hm (hne (zpow_pos two_pos k) h.ge)) hk hk' (habs ▸ h)
    · obtain rfl := hneg hlt
      exact roots_negative hdec (hm hlt.ne)
    · obtain rfl := hpos hlt
      have h0 := hm hlt.ne'
      have hX : 0 < (m : ℝ) * 2 ^ e := mul_pos (Nat.cast_pos.2 (Nat.pos_of_ne_zero h0)) (zpow_pos two_pos e)
      obtain ⟨hnear, hflags⟩ := rsq_near hdec h0
      have hulp := ulp_eq_spacing (div_pos one_pos (Real.sqrt_pos.2 hX)) false
      rw [show sgn false = 1 from rfl, one_mul] at hval hulp
      rw [hval, hulp]
      exact ⟨hnear, hflags, log2_flags hdec h0⟩
    · have hlt : 0 < x := h ▸ zpow_pos two_pos _
      obtain rfl := hpos hlt
      exact rsq_exact hdec (hm hlt.ne') (by rw [← habs, abs_of_pos hlt, h])
    · exact exp2_large hdec (hval ▸ h)
    · exact exp2_flags hdec (hval ▸ h)
    · obtain ⟨p, hp, hexp⟩ := exp2_exact hdec hk hk' (hval ▸ h)
      obtain ⟨p', hp', hst⟩ := fp32Pow_stands hk hk'
      obtain rfl : p = p' := Option.some.inj (hp.symm.trans hp')
      have hpow := hst false
      rw [show fp32.signed false p = p from Nat.zero_add p, show sgn false = 1 from rfl, one_mul] at hpow
      rw [hexp]
      exact hpow
    · have hlt : 0 < x := h ▸ zpow_pos two_pos _
      obtain rfl := hpos hlt
      exact log2_exact hdec (hm hlt.ne') (by rw [← habs, abs_of_pos hlt, h])

end Sys2Proof.Claims

open Sys2Proof.Claims

/-- Settles O11: a number that rounds like the exact result lies in its binary place, and its rounding there is the
nearest place of the format's grid; the special operands are looked for in the order of the rules. -/
theorem resultsRoundOnce : Obligations.ResultsRoundOnce :=
  ⟨sumsAndProductsRoundOnce, quotientsAndRootsRoundOnce, specialOperands, approximateFunctions⟩
end

section
/-! SUPPORT. Packed words (R144 to R149): the elements of a word that is packed element by element, values brought to an
element's bounds, and the instructions that compute each element on its own. -/

namespace Sys2Proof.Machine

open Sys2Proof.Claims

/-! ### Elements (R144) -/

theorem elemU_eq (w : Nat) (v : Word) (i : Nat) : elemU w v.toNat i = (element w v i).toNat := by
  rw [elemU, bitsAt, element, BitVec.extractLsb'_toNat, Nat.shiftRight_eq_div_pow]

theorem elemS_eq (w : Nat) (v : Word) (i : Nat) : elemS w v.toNat i = (element w v i).toInt := by
  rw [elemS, elemU_eq, sextN_toInt]

/-- The number that k elements of width w spell. -/
def packedNat (w k : Nat) (g : Nat → Int) : Nat :=
  (List.range k).foldl (fun acc i => acc + (g i % 2 ^ w).toNat * 2 ^ (w * i)) 0

theorem packedNat_succ (w k : Nat) (g : Nat → Int) :
    packedNat w (k + 1) g = packedNat w k g + (g k % 2 ^ w).toNat * 2 ^ (w * k) := by
  rw [packedNat, List.range_succ, List.foldl_append]
  rfl

theorem toNat_emod_lt (w : Nat) (x : Int) : (x % 2 ^ w).toNat < 2 ^ w := by
  have h1 : (0 : Int) < 2 ^ w := by positivity
  have h2 := Int.emod_lt_of_pos x h1
  have h3 : ((2 ^ w : Nat) : Int) = 2 ^ w := by push_cast; rfl
  omega

theorem packedNat_lt (w k : Nat) (g : Nat → Int) : packedNat w k g < 2 ^ (w * k) := by
  induction k with
  | zero => simp [packedNat]
  | succ k ih =>
    have h := Nat.mul_le_mul_right (2 ^ (w * k)) (toNat_emod_lt w (g k))
    rw [packedNat_succ, Nat.mul_succ, pow_add, mul_comm (2 ^ (w * k))]
    rw [Nat.succ_mul] at h
    omega

/-- Element j of the number that elements spell. -/
theorem packedNat_field (w : Nat) {k : Nat} (g : Nat → Int) {j : Nat} (hj : j < k) :
    packedNat w k g / 2 ^ (w * j) % 2 ^ w = (g j % 2 ^ w).toNat := by
  induction k with
  | zero => omega
  | succ k ih =>
    rw [packedNat_succ]
    rcases Nat.lt_succ_iff_lt_or_eq.1 hj with hj | rfl
    · have hsplit : w * k = w * (k - j - 1) + w + w * j := by
        rw [← Nat.mul_succ, ← Nat.mul_add]
        congr 1
        omega
      rw [hsplit, pow_add, ← mul_assoc, Nat.add_mul_div_right _ _ (Nat.two_pow_pos _), pow_add, ← mul_assoc,
        Nat.add_mul_mod_self_right, ih hj]
    · rw [Nat.add_mul_div_right _ _ (Nat.two_pow_pos _), Nat.div_eq_of_lt (packedNat_lt w j g), zero_add,
        Nat.mod_eq_of_lt (toNat_emod_lt w (g j))]

theorem element_packElems {w k : Nat} (hk : w * k ≤ 64) (g : Nat → Int) {j : Nat} (hj : j < k) :
    element w (packElems w k g) j = BitVec.ofInt w (g j) := by
  apply BitVec.eq_of_toNat_eq
  have hlt : packedNat w k g < 2 ^ 64 := (packedNat_lt w k g).trans_le (Nat.pow_le_pow_right (by decide) hk)
  rw [← elemU_eq, elemU, bitsAt, packElems, BitVec.toNat_ofNat, BitVec.toNat_ofInt]
  rw [show (List.range k).foldl (fun acc i => acc + (g i % 2 ^ w).toNat * 2 ^ (w * i)) 0 = packedNat w k g from rfl,
    Nat.mod_eq_of_lt hlt, packedNat_field w g hj]
  push_cast
  rfl

/-! ### Bounds (R144) -/

theorem satTo_eq {lo hi : Int} (h : lo ≤ hi) (v : Int) : satTo v lo hi = max lo (min v hi) := by
  unfold satTo
  split_ifs <;> omega

/-- A value within bounds needs no saturation. -/
theorem satTo_within {v lo hi : Int} (h : lo ≤ v) (h' : v ≤ hi) (sat : Bool) :
    (if sat then satTo v lo hi else v) = v := by
  rw [satTo_eq (h.trans h'), min_eq_left h', max_eq_right h, ite_self]

section

variable (f : Fields)

theorem elemBits_eq : elemBits f.pn = elementWidth f := rfl

theorem elemCount_eq : elemCount f.pn = 64 / elementWidth f := by
  unfold elemCount elementWidth Fields.pn
  split_ifs <;> rfl

theorem elementWidth_cases : elementWidth f = 4 ∨ elementWidth f = 8 := by
  unfold elementWidth
  split_ifs
  · exact .inl rfl
  · exact .inr rfl

theorem ofInt_saturated {w : Nat} {lo hi : Int} (h : lo ≤ hi) (x : Int) :
    BitVec.ofInt w (if f.psat then satTo x lo hi else x) = Claims.fitted f w lo hi x := by
  rw [satTo_eq h]
  rfl

theorem signedLo_le (w : Nat) : signedLo w ≤ signedHi w := by
  have : (1 : Int) ≤ 2 ^ (w - 1) := one_le_pow₀ (by decide)
  unfold signedLo signedHi
  omega

theorem zero_le_unsignedHi (w : Nat) : 0 ≤ unsignedHi w := by
  have : (1 : Int) ≤ 2 ^ w := one_le_pow₀ (by decide)
  unfold unsignedHi
  omega

theorem toInt_bounds {w : Nat} (hw : 0 < w) (x : BitVec w) : signedLo w ≤ x.toInt ∧ x.toInt ≤ signedHi w := by
  obtain ⟨n, rfl⟩ := Nat.exists_eq_add_of_le' hw
  have h1 := BitVec.le_toInt x
  have h2 := BitVec.toInt_lt (x := x)
  exact ⟨h1, Int.le_sub_one_of_lt h2⟩

theorem toNat_bounds {w : Nat} (x : BitVec w) : (0 : Int) ≤ x.toNat ∧ (x.toNat : Int) ≤ unsignedHi w := by
  have h : (x.toNat : Int) < ((2 ^ w : Nat) : Int) := by exact_mod_cast x.isLt
  push_cast at h
  unfold unsignedHi
  omega

end

/-! ### Instructions that leave elements -/

section

variable {i : Instr} {r : OpRule} {f : Fields}

/-- An instruction whose meaning packs a word element by element. -/
theorem yieldsElements_of {w k : Nat} (hk : k = 64 / w) {g : Lane → Nat → Int} {d : Lane → Nat → BitVec w}
    (hexec : ∀ s, exec i s = issueValue r f (fun l => packElems w k (g l)) s)
    (h : ∀ l j, j < k → BitVec.ofInt w (g l j) = d l j) : YieldsElements i r f w d := by
  refine ⟨_, yields_of_issueValue hexec fun _ => rfl, fun l j hj => ?_⟩
  rw [← hk] at hj
  rw [element_packElems (by rw [hk]; exact Nat.mul_div_le 64 w) _ hj, h l j hj]

/-- An element-wise instruction on signed or on unsigned values (R145). -/
theorem yieldsElements_of_elementwise {signed : Bool} {op : Int → Int → Int} {d : (w : Nat) → BitVec w → BitVec w → BitVec w}
    (hexec : ∀ s, exec i s = elementwise r f signed op s)
    (h : ∀ w, w = 4 ∨ w = 8 → ∀ a b : BitVec w,
      let at_ (x : BitVec w) : Int := if signed then x.toInt else x.toNat
      let v := op (at_ a) (at_ b)
      BitVec.ofInt w (if f.psat then satTo v (if signed then signedLo w else 0) (if signed then signedHi w else unsignedHi w)
        else v) = d w a b) :
    YieldsElements i r f (elementWidth f) fun l j =>
      d (elementWidth f) (element (elementWidth f) l.a j) (element (elementWidth f) l.b j) := by
  refine yieldsElements_of (elemCount_eq f) (fun s => (hexec s).trans rfl) fun l j _ => ?_
  simp only [elemBits_eq, elemU_eq, elemS_eq]
  exact h _ (elementWidth_cases f) _ _

end

end Sys2Proof.Machine

namespace Sys2Proof.Claims

open Sys2Proof.Machine

theorem ofNat_average {w : Nat} (a b : BitVec w) :
    BitVec.ofInt w (((a.toNat : Int) + b.toNat + 1) / 2) = BitVec.ofNat w ((a.toNat + b.toNat + 1) / 2) := by
  rw [← BitVec.ofInt_natCast]
  push_cast
  rfl

/-- One row of the table of R145. -/
theorem elementwise_row {i : Instr} {r : OpRule} {f : Fields} (signed : Bool) (op : Int → Int → Int)
    (d : (w : Nat) → BitVec w → BitVec w → BitVec w) (hexec : ∀ s, exec i s = elementwise r f signed op s)
    (h : ∀ w, w = 4 ∨ w = 8 → ∀ a b : BitVec w,
      let at_ (x : BitVec w) : Int := if signed then x.toInt else x.toNat
      let v := op (at_ a) (at_ b)
      BitVec.ofInt w (if f.psat then satTo v (if signed then signedLo w else 0) (if signed then signedHi w else unsignedHi w)
        else v) = d w a b) :
    (fun e : Instr × OpRule × ((w : Nat) → BitVec w → BitVec w → BitVec w) => YieldsElements e.1 e.2.1 f (elementWidth f)
      fun l j => e.2.2 (elementWidth f) (element (elementWidth f) l.a j) (element (elementWidth f) l.b j)) (i, r, d) :=
  yieldsElements_of_elementwise hexec h

theorem packedElementwise : PackedElementwise := by
  intro f
  have bounds {w : Nat} (hw : w = 4 ∨ w = 8) (x : BitVec w) := toInt_bounds (by omega : 0 < w) x
  refine ⟨?_, fun hsat => yieldsElements_of_elementwise (signed := true)
    (op := fun a _ => (a.natAbs : Int)) (d := fun w a _ => if a.slt 0 then -a else a) (fun _ => rfl)
    fun w _ a b => ?_⟩
  · refine List.forall_mem_cons.2 ⟨elementwise_row true (· + ·) _ (fun _ => rfl) fun w _ a b =>
      ofInt_saturated f (signedLo_le w) _, ?_⟩
    refine List.forall_mem_cons.2 ⟨elementwise_row false (· + ·) _ (fun _ => rfl) fun w _ a b =>
      ofInt_saturated f (zero_le_unsignedHi w) _, ?_⟩
    refine List.forall_mem_cons.2 ⟨elementwise_row true (· - ·) _ (fun _ => rfl) fun w _ a b =>
      ofInt_saturated f (signedLo_le w) _, ?_⟩
    refine List.forall_mem_cons.2 ⟨elementwise_row false (· - ·) _ (fun _ => rfl) fun w _ a b =>
      ofInt_saturated f (zero_le_unsignedHi w) _, ?_⟩
    refine List.forall_mem_cons.2 ⟨elementwise_row true (· * ·) _ (fun _ => rfl) fun w _ a b =>
      ofInt_saturated f (signedLo_le w) _, ?_⟩
    refine List.forall_mem_cons.2 ⟨elementwise_row true min _ (fun _ => rfl) fun w hw a b => ?_, ?_⟩
    · exact (congrArg _ (satTo_within (le_min (bounds hw a).1 (bounds hw b).1) (min_le_of_left_le (bounds hw a).2)
        f.psat)).trans (ofInt_min_toInt a b)
    refine List.forall_mem_cons.2 ⟨elementwise_row false min _ (fun _ => rfl) fun w _ a b => ?_, ?_⟩
    · exact (congrArg _ (satTo_within (le_min (toNat_bounds a).1 (toNat_bounds b).1) (min_le_of_left_le (toNat_bounds a).2)
        f.psat)).trans (by rw [← Nat.cast_min]; exact ofInt_min_toNat a b)
    refine List.forall_mem_cons.2 ⟨elementwise_row true max _ (fun _ => rfl) fun w hw a b => ?_, ?_⟩
    · exact (congrArg _ (satTo_within (le_max_of_le_left (bounds hw a).1) (max_le (bounds hw a).2 (bounds hw b).2)
        f.psat)).trans (by rw [max_comm]; exact ofInt_max_toInt b a)
    refine List.forall_mem_cons.2 ⟨elementwise_row false max _ (fun _ => rfl) fun w _ a b => ?_, ?_⟩
    · exact (congrArg _ (satTo_within (le_max_of_le_left (toNat_bounds a).1) (max_le (toNat_bounds a).2 (toNat_bounds b).2)
        f.psat)).trans (by rw [max_comm, ← Nat.cast_max]; exact ofInt_max_toNat b a)
    refine List.forall_mem_cons.2 ⟨elementwise_row false (fun a b => (a + b + 1) / 2) _ (fun _ => rfl) fun w _ a b => ?_,
      List.forall_mem_nil _⟩
    have ha := toNat_bounds a
    have hb := toNat_bounds b
    exact (congrArg _ (satTo_within (lo := 0) (hi := unsignedHi w) (v := ((a.toNat : Int) + b.toNat + 1) / 2) (by omega) (by omega) f.psat)).trans
      (ofNat_average a b)
  · rw [show f.psat = false from hsat]
    exact ofInt_natAbs a

/-! ### Rearrangement (R146 to R149) -/

section

variable (f : Fields)

/-- The selector fields of PSHUF (R147): in form X those of the immediate, which the upper eight of 16 repeat with their
top bits inverted. -/
theorem shufSelector_field (l : Lane) {j : Nat} (hj : j < 64 / elementWidth f) :
    bitsAt (shufSelector f l.b) (4 * j) 4 = (shuffleField f l j).toNat := by
  have hextract {n : Nat} (x : BitVec n) (i : Nat) : (x.extractLsb' (4 * i) 4).toNat = x.toNat / 2 ^ (4 * i) % 2 ^ 4 := by
    rw [BitVec.extractLsb'_toNat, Nat.shiftRight_eq_div_pow]
  have hwidth : elementWidth f = if f.pn then 4 else 8 := rfl
  have himm : f.imm.toNat < 2 ^ 32 := f.imm.isLt
  simp only [shufSelector, shuffleField, bitsAt]
  split_ifs with hx hn hj8 hj8
  · rw [hextract]
    generalize f.imm.toNat ^^^ 0x88888888 = y
    interval_cases j <;> omega
  · rw [hwidth, if_pos hn] at hj
    have hxor : f.imm.toNat ^^^ 0x88888888 = (f.imm ^^^ 0x88888888#32).toNat := (BitVec.toNat_xor f.imm 0x88888888#32).symm
    have hfield : (f.imm ^^^ 0x88888888#32).extractLsb' (4 * (j - 8)) 4 = f.imm.extractLsb' (4 * (j - 8)) 4 ^^^ 8#4 := by
      rw [BitVec.extractLsb'_xor]
      congr 1
      interval_cases j <;> rfl
    rw [← hfield, hextract, hxor]
    generalize (f.imm ^^^ 0x88888888#32).toNat = y
    interval_cases j <;> omega
  · rw [hextract]
  · rw [hwidth, if_neg hn] at hj
    omega
  · exact (hextract _ _).symm

theorem yieldsElements_pcmp : YieldsElements (.pcmp f) rPcmp f (elementWidth f) fun l j =>
    if condOn (f.mod.toNat / 4 % 16) (elementWidth f) (element (elementWidth f) l.a j) (element (elementWidth f) l.b j)
      then BitVec.allOnes (elementWidth f) else 0 := by
  refine yieldsElements_of (elemCount_eq f) (fun _ => rfl) fun l j _ => ?_
  simp only [elemBits_eq, elemU_eq, elemS_eq, condHolds_eq_condOn]
  rw [show f.pcond = f.mod.toNat / 4 % 16 from rfl]
  split_ifs
  · exact ofInt_neg_one
  · rfl

theorem yieldsElements_pshuf : YieldsElements (.pshuf f) rPshuf f (elementWidth f) fun l j =>
    let x := shuffleField f l j
    if elementWidth f = 8 ∧ x.getLsbD 3 then 0 else element (elementWidth f) l.a (x.toNat % (64 / elementWidth f)) := by
  refine yieldsElements_of (elemCount_eq f) (fun _ => rfl) fun l j hj => ?_
  rw [elemCount_eq] at hj
  simp only [elemBits_eq, shufSelector_field f l hj, elemU_eq]
  generalize shuffleField f l j = x
  have hbit : bitAt x.toNat 3 = x.getLsbD 3 := bitAt_eq_testBit ..
  have hx : x.toNat < 16 := x.isLt
  have hwidth : elementWidth f = if f.pn then 4 else 8 := rfl
  rw [hbit, hwidth]
  by_cases hn : f.pn = true
  · simp only [hn, if_true, Nat.reduceDiv, Nat.mod_eq_of_lt hx, Nat.reduceEqDiff, false_and, if_false]
    exact ofInt_toNat _
  · simp only [hn, if_false, true_and, Nat.reduceDiv, Bool.false_eq_true]
    generalize (if f.pn = true then 4 else 8) = w
    split_ifs
    · rfl
    · exact ofInt_toNat _

theorem yieldsElements_ppack : YieldsElements (.ppack f) rPackSat f (elementWidth f) fun l j =>
    fittedS f (elementWidth f) (if j < 64 / elementWidth f / 2 then (element (2 * elementWidth f) l.a j).toInt
      else (element (2 * elementWidth f) l.b (j - 64 / elementWidth f / 2)).toInt) := by
  refine yieldsElements_of (elemCount_eq f) (fun _ => rfl) fun l j _ => ?_
  simp only [elemBits_eq, elemCount_eq, elemS_eq]
  exact ofInt_saturated f (signedLo_le _) _

theorem unpack_value (high signed : Bool) {i : Instr} (hexec : ∀ s, exec i s = unpack high signed f s) :
    YieldsElements i rPack1 f (2 * elementWidth f) fun l j =>
      let x := element (elementWidth f) l.a (if high then j + 64 / elementWidth f / 2 else j)
      if signed then x.signExtend (2 * elementWidth f) else x.setWidth (2 * elementWidth f) := by
  refine yieldsElements_of (k := 64 / elementWidth f / 2) (by rw [Nat.div_div_eq_div_mul, Nat.mul_comm])
    (fun s => (hexec s).trans (by rw [← elemCount_eq]; rfl)) fun l j _ => ?_
  simp only [elemBits_eq, elemCount_eq, elemS_eq, elemU_eq]
  cases signed with
  | true => rfl
  | false => exact (BitVec.ofInt_natCast ..).trans (BitVec.ofNat_toNat ..)

theorem sumTo_eq (k : Nat) (g : Nat → Int) : sumTo k g = ((List.range k).map g).sum := by
  rw [sumTo, List.sum_eq_foldl, List.foldl_map]

/-- A dot product of packed integers (R149). -/
theorem dot_value (signed : Bool) {i : Instr} (hexec : ∀ s, exec i s = dot signed f s) : Yields i rPdot f false fun l =>
    (Claims.fitted f 32 (-(2 ^ 31)) (2 ^ 31 - 1) ((l.c.setWidth 32).toInt +
      ((List.range (64 / elementWidth f)).map fun j =>
        if signed then (element (elementWidth f) l.a j).toInt * (element (elementWidth f) l.b j).toInt
        else ((element (elementWidth f) l.a j).toNat * (element (elementWidth f) l.b j).toNat : Int)).sum)).signExtend 64 := by
  refine yields_of_issueValue hexec fun l => ?_
  simp only [elemBits_eq, elemCount_eq, elemS_eq, elemU_eq, sumTo_eq, sval_low, res_low, ofInt_saturated f (by decide : -(2 ^ 31 : Int) ≤ 2 ^ 31 - 1)]
  cases signed <;> rfl

end

theorem packedRearrangement : PackedRearrangement := fun f =>
  ⟨fun _ => yieldsElements_pcmp f, yieldsElements_pshuf f, yieldsElements_ppack f,
    unpack_value f false true fun _ => rfl, unpack_value f true true fun _ => rfl, unpack_value f false false fun _ => rfl,
    unpack_value f true false fun _ => rfl, dot_value f true fun _ => rfl, dot_value f false fun _ => rfl⟩

end Sys2Proof.Claims
end

section
/-! SUPPORT. Packed floating point (R150, R151): the products of a dot product and their exact sum, PSCL, and O13. -/

namespace Sys2Proof.Machine

open Sys2Proof.Claims

/-! ### Products (R150) -/

section

variable {x y : FVal}

/-- A product that is no number: an infinity times a zero. -/
def Spoiled (x y : FVal) : Prop := (x.isInf = true ∧ y.isZero = true) ∨ (x.isZero = true ∧ y.isInf = true)

theorem prodVal_isNan (hx : x.isNan = false) (hy : y.isNan = false) : (prodVal x y).isNan = true ↔ Spoiled x y := by
  cases x with
  | nan => exact absurd hx.symm Bool.false_ne_true
  | inf n =>
    cases y with
    | nan => exact absurd hy.symm Bool.false_ne_true
    | inf k => simp [prodVal, Spoiled, FVal.isNan, FVal.isInf, FVal.isZero]
    | fin k m e => cases h : m == 0 <;> simp [prodVal, Spoiled, FVal.isNan, FVal.isInf, FVal.isZero, h]
  | fin n m e =>
    cases y with
    | nan => exact absurd hy.symm Bool.false_ne_true
    | inf k => cases h : m == 0 <;> simp [prodVal, Spoiled, FVal.isNan, FVal.isInf, FVal.isZero, h]
    | fin k l g => simp [prodVal, Spoiled, FVal.isNan, FVal.isInf]

theorem prodVal_inf (hx : x.isNan = false) (hy : y.isNan = false) (h : ¬ Spoiled x y) :
    ((prodVal x y).isInf = true ↔ x.isInf = true ∨ y.isInf = true) ∧ (prodVal x y).neg = (x.neg != y.neg) := by
  cases x with
  | nan => exact absurd hx.symm Bool.false_ne_true
  | inf n =>
    cases y with
    | nan => exact absurd hy.symm Bool.false_ne_true
    | inf k => simp [prodVal, FVal.isInf, FVal.isZero, FVal.neg]
    | fin k m e =>
      have hm : (m == 0) = false := by
        by_contra hm
        exact h (.inl ⟨rfl, by simpa [FVal.isZero] using hm⟩)
      simp [prodVal, FVal.isInf, FVal.isZero, FVal.neg, hm]
  | fin n m e =>
    cases y with
    | nan => exact absurd hy.symm Bool.false_ne_true
    | inf k =>
      have hm : (m == 0) = false := by
        by_contra hm
        exact h (.inr ⟨by simpa [FVal.isZero] using hm, rfl⟩)
      simp [prodVal, FVal.isInf, FVal.isZero, FVal.neg, hm]
    | fin k l g => simp [prodVal, FVal.isInf, FVal.neg]

theorem prodVal_finite {a b : ℝ} (hx : realOf x = some a) (hy : realOf y = some b) :
    (prodVal x y).isNan = false ∧ (prodVal x y).isInf = false ∧ realDy (prodVal x y).dy = a * b := by
  obtain ⟨n, m, e, rfl, rfl⟩ := realOf_eq_some hx
  obtain ⟨k, l, g, rfl, rfl⟩ := realOf_eq_some hy
  refine ⟨rfl, rfl, ?_⟩
  have hdef : prodVal (.fin n m e) (.fin k l g) = .fin (n != k) (m * l) (e + g) := rfl
  rw [hdef, realDy_fin, zpow_add₀ two_ne_zero]
  cases n <;> cases k <;> simp [sgn] <;> ring

end

theorem realDy_sum (l : List Dy) : realDy (Dy.sum l) = (l.map realDy).sum := by
  have hfold (d : Dy) : realDy (l.foldl Dy.add d) = realDy d + (l.map realDy).sum := by
    induction l generalizing d with
    | nil => simp
    | cons a l ih => rw [List.foldl_cons, ih, realDy_add, List.map_cons, List.sum_cons, add_assoc]
  rw [Dy.sum, hfold]
  simp [realDy]

/-! ### Dot products (R150) -/

section

variable (code k : Nat) (l : Lane)

/-- The products of a dot product. -/
def dotTerms : List FVal := List.zipWith prodVal ((List.range k).map (dotA code l)) ((List.range k).map (dotB code l))

/-- Whether an operand of a dot product is a NaN. -/
def dotNan : Bool := (valueIn fp32 l.c).isNan || ((List.range k).map (dotA code l)).any FVal.isNan ||
  ((List.range k).map (dotB code l)).any FVal.isNan

/-- The infinities among the terms of a dot product. -/
def dotInfs : List FVal := (valueIn fp32 l.c :: dotTerms code k l).filter FVal.isInf

/-- Whether a dot product has a product that is no number, or infinities of both signs. -/
def dotInvalid : Bool := (dotTerms code k l).any FVal.isNan ||
  ((dotInfs code k l).any FVal.neg && (dotInfs code k l).any fun v => !v.neg)

variable {code k l} (hk : k = 64 / storeBits code)

include hk in
/-- A dot product by the order in which its cases are looked for. -/
theorem dotFloat_eq :
    (dotNan code k l = true →
      dotFloat code l.a.toNat l.b.toNat l.c.toNat = (0x7FC00000, if (valueIn fp32 l.c).isSig then xNV else 0)) ∧
    (dotNan code k l = false → dotInvalid code k l = true →
      dotFloat code l.a.toNat l.b.toNat l.c.toNat = (0x7FC00000, xNV)) ∧
    (dotNan code k l = false → dotInvalid code k l = false →
      (∀ v vs, dotInfs code k l = v :: vs →
        dotFloat code l.a.toNat l.b.toNat l.c.toNat = (fp32.signed v.neg fp32.infMag, 0)) ∧
      (dotInfs code k l = [] → dotFloat code l.a.toNat l.b.toNat l.c.toNat =
        if (Dy.sum ((dotTerms code k l).map FVal.dy)).m = 0 then (l.c.toNat % 2 ^ 32, 0)
        else fp32.roundDy .rne false ((valueIn fp32 l.c).dy.add (Dy.sum ((dotTerms code k l).map FVal.dy))))) := by
  subst hk
  refine ⟨fun h => if_pos h, fun h h' => (if_neg (Bool.eq_false_iff.1 h)).trans (if_pos h'), fun h h' => ?_⟩
  have hdef : dotFloat code l.a.toNat l.b.toNat l.c.toNat = match dotInfs code (64 / storeBits code) l with
      | v :: _ => (fp32.signed v.neg fp32.infMag, 0)
      | [] =>
        let p := Dy.sum ((dotTerms code (64 / storeBits code) l).map FVal.dy)
        if p.m = 0 then (l.c.toNat % 2 ^ 32, 0) else fp32.roundDy .rne false ((valueIn fp32 l.c).dy.add p) :=
    (if_neg (Bool.eq_false_iff.1 h)).trans (if_neg (Bool.eq_false_iff.1 h'))
  exact ⟨fun v vs hv => by rw [hdef, hv], fun hv => by rw [hdef, hv]⟩

theorem mem_dotTerms {v : FVal} : v ∈ dotTerms code k l ↔ ∃ i < k, v = prodVal (dotA code l i) (dotB code l i) := by
  rw [dotTerms, List.zipWith_map, List.zipWith_self]
  simp [eq_comm]

theorem dotNan_iff : dotNan code k l = true ↔
    (valueIn fp32 l.c).isNan = true ∨ ∃ i < k, (dotA code l i).isNan = true ∨ (dotB code l i).isNan = true := by
  simp only [dotNan, Bool.or_eq_true, List.any_map, List.any_eq_true, List.mem_range, Function.comp_apply, or_assoc]
  exact or_congr_right ⟨by rintro (⟨i, hi, h⟩ | ⟨i, hi, h⟩); exacts [⟨i, hi, .inl h⟩, ⟨i, hi, .inr h⟩],
    by rintro ⟨i, hi, h | h⟩; exacts [.inl ⟨i, hi, h⟩, .inr ⟨i, hi, h⟩]⟩

variable (hnan : ¬ ((valueIn fp32 l.c).isNan = true ∨ ∃ i < k, (dotA code l i).isNan = true ∨ (dotB code l i).isNan = true))

include hnan in
theorem dot_noNan : (valueIn fp32 l.c).isNan = false ∧
    ∀ i < k, (dotA code l i).isNan = false ∧ (dotB code l i).isNan = false := by
  obtain ⟨hc, h⟩ := not_or.1 hnan
  exact ⟨Bool.eq_false_iff.2 hc, fun i hi => ⟨Bool.eq_false_iff.2 fun ha => h ⟨i, hi, .inl ha⟩,
    Bool.eq_false_iff.2 fun hb => h ⟨i, hi, .inr hb⟩⟩⟩

include hnan in
theorem dotTerms_any_isNan : (dotTerms code k l).any FVal.isNan = true ↔ InfTimesZero code k l := by
  obtain ⟨-, h⟩ := dot_noNan hnan
  rw [List.any_eq_true]
  constructor
  · rintro ⟨v, hv, hn⟩
    obtain ⟨i, hi, rfl⟩ := mem_dotTerms.1 hv
    exact ⟨i, hi, (prodVal_isNan (h i hi).1 (h i hi).2).1 hn⟩
  · rintro ⟨i, hi, hs⟩
    exact ⟨_, mem_dotTerms.2 ⟨i, hi, rfl⟩, (prodVal_isNan (h i hi).1 (h i hi).2).2 hs⟩

include hnan in
theorem mem_dotInfs (hz : ¬ InfTimesZero code k l) (neg : Bool) :
    (∃ v ∈ dotInfs code k l, v.neg = neg) ↔ InfiniteTerm code k l neg := by
  obtain ⟨-, h⟩ := dot_noNan hnan
  have hprod (i : Nat) (hi : i < k) := prodVal_inf (h i hi).1 (h i hi).2 fun hs => hz ⟨i, hi, hs⟩
  simp only [dotInfs, List.mem_filter, List.mem_cons]
  constructor
  · rintro ⟨v, ⟨rfl | hv, hinf⟩, hneg⟩
    · obtain ⟨n, hn⟩ := FVal.eq_inf hinf
      rw [hn] at hneg
      exact .inl (hn.trans (congrArg FVal.inf hneg))
    · obtain ⟨i, hi, rfl⟩ := mem_dotTerms.1 hv
      exact .inr ⟨i, hi, (hprod i hi).1.1 hinf, by rw [← (hprod i hi).2, hneg]⟩
  · rintro (hc | ⟨i, hi, hinf, hneg⟩)
    · exact ⟨_, ⟨.inl rfl, by rw [hc]; rfl⟩, by rw [hc]; rfl⟩
    · exact ⟨_, ⟨.inr (mem_dotTerms.2 ⟨i, hi, rfl⟩), (hprod i hi).1.2 hinf⟩, by rw [(hprod i hi).2, hneg]⟩

include hnan in
theorem dotInvalid_iff : dotInvalid code k l = true ↔
    InfTimesZero code k l ∨ InfiniteTerm code k l true ∧ InfiniteTerm code k l false := by
  rw [dotInvalid, Bool.or_eq_true, dotTerms_any_isNan hnan]
  by_cases hz : InfTimesZero code k l
  · simp [hz]
  · rw [← mem_dotInfs hnan hz, ← mem_dotInfs hnan hz]
    simp [hz]

end

/-- A dot product, case by case (R150). -/
theorem dotFloat_spec {code k : Nat} (hk : k = 64 / storeBits code) (l : Lane) :
    DotFloat code k l (dotFloat code l.a.toNat l.b.toNat l.c.toNat) := by
  obtain ⟨h1, h2, h3⟩ := dotFloat_eq (l := l) hk
  refine ⟨fun hn => h1 (dotNan_iff.2 hn), fun hn hs => ?_, fun hn hz neg hneg hother => ?_, fun x y z hxy hz => ?_⟩
  · exact h2 (Bool.eq_false_iff.2 (mt dotNan_iff.1 hn)) ((dotInvalid_iff hn).2 hs)
  · have hvalid : dotInvalid code k l = false := Bool.eq_false_iff.2 fun h => by
      obtain h | ⟨ht, hf⟩ := (dotInvalid_iff hn).1 h
      · exact hz h
      · cases neg with
        | true => exact hother hf
        | false => exact hother ht
    obtain ⟨hfirst, -⟩ := h3 (Bool.eq_false_iff.2 (mt dotNan_iff.1 hn)) hvalid
    obtain ⟨v, hv, -⟩ := (mem_dotInfs hn hz neg).2 hneg
    obtain ⟨w, ws, hw⟩ := List.exists_cons_of_ne_nil (List.ne_nil_of_mem hv)
    have hsign : w.neg = neg := by
      by_contra hne
      exact hother ((mem_dotInfs hn hz _).1 ⟨w, by rw [hw]; exact List.mem_cons_self, Bool.eq_not.2 hne⟩)
    rw [hfirst w ws hw, hsign]
    cases neg <;> rfl
  · have hn : ¬ ((valueIn fp32 l.c).isNan = true ∨
        ∃ i < k, (dotA code l i).isNan = true ∨ (dotB code l i).isNan = true) := by
      rintro (h | ⟨i, hi, h | h⟩)
      · exact Bool.false_ne_true ((finite_kinds hz).1.symm.trans h)
      · exact Bool.false_ne_true ((finite_kinds (hxy i hi).1).1.symm.trans h)
      · exact Bool.false_ne_true ((finite_kinds (hxy i hi).2).1.symm.trans h)
    have hfin (v : FVal) (hv : v ∈ valueIn fp32 l.c :: dotTerms code k l) : v.isNan = false ∧ v.isInf = false := by
      rcases List.mem_cons.1 hv with rfl | hv
      · exact ⟨(finite_kinds hz).1, (finite_kinds hz).2.2.1⟩
      · obtain ⟨i, hi, rfl⟩ := mem_dotTerms.1 hv
        obtain ⟨h1, h2, -⟩ := prodVal_finite (hxy i hi).1 (hxy i hi).2
        exact ⟨h1, h2⟩
    have hinfs : dotInfs code k l = [] := List.filter_eq_nil_iff.2 fun v hv => by simp [(hfin v hv).2]
    have hvalid : dotInvalid code k l = false := by
      have hterms : (dotTerms code k l).any FVal.isNan = false := List.any_eq_false.2 fun v hv => by
        simp [(hfin v (List.mem_cons_of_mem _ hv)).1]
      rw [dotInvalid, hterms, hinfs]
      rfl
    have hsum : realDy (Dy.sum ((dotTerms code k l).map FVal.dy)) = ∑ i ∈ Finset.range k, x i * y i := by
      rw [realDy_sum, List.map_map, dotTerms, List.zipWith_map, List.zipWith_self, List.map_map]
      exact congrArg List.sum (List.map_congr_left fun i hi =>
        (prodVal_finite (hxy i (List.mem_range.1 hi)).1 (hxy i (List.mem_range.1 hi)).2).2.2)
    rw [(h3 (Bool.eq_false_iff.2 (mt dotNan_iff.1 hn)) hvalid).2 hinfs, ← hsum, ← realDy_of_realOf hz, ← realDy_add, ne_eq,
      realDy_eq_zero]
    exact ⟨fun h0 => if_pos h0, fun h0 => by
      rw [if_neg h0]
      exact roundDy_delivers (by decide) (by decide) .rne false _⟩

end Sys2Proof.Machine

namespace Sys2Proof.Claims

open Sys2Proof.Machine

/-- A flag-raising operation on values (R132). -/
theorem yieldsFlagged_of {i : Instr} {r : OpRule} {f : Fields} {op : Lane → FRes} (h : ∀ s, exec i s = issueFloat r f op s) :
    YieldsFlagged i r f op :=
  (runs_traps_flagged (op := fun l => (BitVec.ofNat 64 (op l).1, (op l).2)) h).1

/-- PSCL on values (R151). -/
theorem scaleInt_spec (mode : RMode) (i : Int) (v : FVal) :
    let neg := (decide (i < 0)) != v.neg
    (v.isNan = true → scaleInt mode i v = (0x7FC00000, if v.isSig then xNV else 0)) ∧
    (v.isInf = true → i = 0 → scaleInt mode i v = (0x7FC00000, xNV)) ∧
    (v.isInf = true → i ≠ 0 → scaleInt mode i v = (if neg then 0xFF800000 else 0x7F800000, 0)) ∧
    ∀ x, realOf v = some x →
      (i * x = 0 → scaleInt mode i v = (if neg then 0x80000000 else 0, 0)) ∧
      (i * x ≠ 0 → Delivers fp32 mode (i * x) (scaleInt mode i v)) := by
  refine ⟨fun h => ?_, fun h hi => ?_, fun h hi => ?_, fun x h => ?_⟩
  · obtain ⟨sig, rfl⟩ := FVal.eq_nan h
    rfl
  · obtain ⟨n, rfl⟩ := FVal.eq_inf h
    exact if_pos hi
  · obtain ⟨n, rfl⟩ := FVal.eq_inf h
    refine (if_neg hi).trans ?_
    cases (decide (i < 0) != (FVal.inf n).neg) <;> rfl
  · have hdef : scaleInt mode i v = fp32.roundDy mode (decide (i < 0) != v.neg) (Dy.mul ⟨i, 0⟩ v.dy) := by
      obtain ⟨n, m, e, rfl, -⟩ := realOf_eq_some h
      rfl
    have hval : realDy (Dy.mul ⟨i, 0⟩ v.dy) = i * x := by
      rw [realDy_mul, realDy_of_realOf h]
      simp [realDy]
    rw [hdef]
    refine ⟨fun h0 => ?_, fun _ => hval ▸ roundDy_delivers (by decide) (by decide) mode _ _⟩
    rw [roundDy_zero fp32 mode _ (hval.trans h0)]
    cases (decide (i < 0) != v.neg) <;> rfl

theorem packedFloat : PackedFloat := by
  intro f
  refine ⟨?_, fun l => scaleInt (modeFor f l.thread) (l.a.setWidth 32).toInt (valueIn fp32 l.b), yieldsFlagged_of fun s => ?_,
    fun l => scaleInt_spec _ _ _⟩
  · simp only [List.forall_mem_cons]
    exact ⟨⟨_, yieldsFlagged_of fun _ => rfl, dotFloat_spec rfl⟩, ⟨_, yieldsFlagged_of fun _ => rfl, dotFloat_spec rfl⟩,
      ⟨_, yieldsFlagged_of fun _ => rfl, dotFloat_spec rfl⟩, List.forall_mem_nil _⟩
  · simp only [← sval_low, ← rmode_eq_modeFor, ← val_eq_valueIn]
    rfl

end Sys2Proof.Claims

open Sys2Proof.Claims

/-- Settles O13: the number that elements spell has each of them in its place; a dot product's exact sum of terms is
rounded once. -/
theorem packedInstructions : Obligations.PackedInstructions := ⟨packedElementwise, packedRearrangement, packedFloat⟩

end

section
/-! SUPPORT. A write performed at home (R232, R243, R249, R260): what it leaves of the state besides memory, and what it makes
of memory where no queue's ring and no owner byte stands. -/

namespace Sys2Proof.Machine

open Sys2Proof.Claims

/-- What a write at home leaves besides memory: firmware's registers, queues, traces, results in flight and queued stores as
they were, and each thread but for its monitor and stamp, or gone on from MWAIT. -/
structure WriteFrame (s k : State) : Prop where
  fw : k.fw = s.fw
  queues : k.queues = s.queues
  traces : k.traces = s.traces
  pend : k.pend = s.pend
  stores : k.stores = s.stores
  threads : Keyed s → Keyed k ∧ KeepsThreads s k

/-- A step of such a write that leaves memory too. -/
structure Bookkeeps (s k : State) : Prop extends WriteFrame s k where
  mem : k.mem = s.mem

theorem keepsThreads_refl (s : State) : KeepsThreads s s := fun _ t h _ => ⟨t, h, rfl⟩

theorem keepsThreads_trans {s k j : State} (h : KeepsThreads s k) (h' : KeepsThreads k j) : KeepsThreads s j := by
  intro n t ht hsub
  obtain ⟨u, hu, hut⟩ := h n t ht hsub
  obtain ⟨v, hv, hvu⟩ := h' n u hu (by rw [hut]; exact hsub)
  exact ⟨v, hv, hvu.trans (by rw [hut])⟩

/-- A monitor that fires changes nothing else of a thread that is not in MWAIT (R260). -/
theorem fire_active {t : Thread} (h : t.sub ≠ .mwait) :
    t.fire = { t with monitor := t.fire.monitor } := by
  have he : t.fire = { t with monitor := { t.monitor with fired := true } } := by
    simp only [Thread.fire, Thread.endMwait]
    split
    · next hs _ => exact absurd hs h
    · rfl
  rw [he]

namespace WriteFrame

theorem refl (s : State) : WriteFrame s s := ⟨rfl, rfl, rfl, rfl, rfl, fun h => ⟨h, keepsThreads_refl s⟩⟩

theorem trans {s k j : State} (h : WriteFrame s k) (h' : WriteFrame k j) : WriteFrame s j where
  fw := h'.fw.trans h.fw
  queues := h'.queues.trans h.queues
  traces := h'.traces.trans h.traces
  pend := h'.pend.trans h.pend
  stores := h'.stores.trans h.stores
  threads hk := by
    obtain ⟨hk', ht⟩ := h.threads hk
    obtain ⟨hj, ht'⟩ := h'.threads hk'
    exact ⟨hj, keepsThreads_trans ht ht'⟩

/-- A step that leaves the threads' records. -/
theorem of_threads {s k : State} (ht : k.threads = s.threads) (hf : k.fw = s.fw) (hq : k.queues = s.queues)
    (hr : k.traces = s.traces) (hp : k.pend = s.pend) (hs : k.stores = s.stores) : WriteFrame s k := by
  refine ⟨hf, hq, hr, hp, hs, fun hk => ?_⟩
  have hget : ∀ n, k.thread? n = s.thread? n := fun n => by rw [State.thread?, ht]; rfl
  exact ⟨fun n t h => hk n t (by rw [← hget]; exact h), fun n t h _ => ⟨t, by rw [hget]; exact h, rfl⟩⟩

theorem inRing {s k : State} (h : WriteFrame s k) (pa : Nat) : k.inRing pa = s.inRing pa := by
  simp only [State.inRing, h.queues]

theorem ownerRegion? {s k : State} (h : WriteFrame s k) (pa : Nat) : k.ownerRegion? pa = s.ownerRegion? pa := by
  simp only [State.ownerRegion?, h.fw]

theorem plain {s k : State} (h : WriteFrame s k) {pa n : Nat} (hp : PlainRange s pa n) : PlainRange k pa n :=
  fun x hx hn => by rw [h.inRing, h.ownerRegion?]; exact hp x hx hn

end WriteFrame

namespace Bookkeeps

theorem refl (s : State) : Bookkeeps s s := ⟨.refl s, rfl⟩

theorem trans {s k j : State} (h : Bookkeeps s k) (h' : Bookkeeps k j) : Bookkeeps s j :=
  ⟨h.toWriteFrame.trans h'.toWriteFrame, h'.mem.trans h.mem⟩

/-- A step that leaves the threads' records. -/
theorem of_threads {s k : State} (hm : k.mem = s.mem := by rfl) (ht : k.threads = s.threads := by rfl)
    (hf : k.fw = s.fw := by rfl) (hq : k.queues = s.queues := by rfl) (hr : k.traces = s.traces := by rfl)
    (hp : k.pend = s.pend := by rfl) (hs : k.stores = s.stores := by rfl) : Bookkeeps s k :=
  ⟨.of_threads ht hf hq hr hp hs, hm⟩

theorem ite {s k j : State} {p : Prop} [Decidable p] (hk : Bookkeeps s k) (hj : Bookkeeps s j) :
    Bookkeeps s (if p then k else j) := by
  split_ifs
  · exact hk
  · exact hj

variable (s : State)

/-- A thread whose stamp alone changes. -/
theorem putThread_vstamp {n : Nat} {t : Thread} (ht : s.thread? n = some t) (v : Nat) :
    Bookkeeps s (s.putThread { t with vstamp := v }) := by
  refine ⟨⟨rfl, rfl, rfl, rfl, rfl, fun hk => ?_⟩, rfl⟩
  have hid : t.tid = n := hk n t ht
  have hget : ∀ m, (s.putThread { t with vstamp := v }).thread? m =
      if m = n then some { t with vstamp := v } else s.thread? m := by
    intro m
    by_cases h : m = n
    · subst h; rw [if_pos rfl]; simpa [hid] using State.thread?_putThread_same s { t with vstamp := v }
    · rw [if_neg h]; exact State.thread?_putThread_other s (by simpa [hid] using fun e => h e.symm)
  refine ⟨fun m u hu => ?_, fun m u hu _ => ?_⟩
  · rw [hget] at hu
    split_ifs at hu with h
    · cases hu; exact hid.trans h.symm
    · exact hk m u hu
  · by_cases h : m = n
    · subst h
      cases ht.symm.trans hu
      exact ⟨_, (hget m).trans (if_pos rfl), rfl⟩
    · exact ⟨u, (hget m).trans ((if_neg h).trans hu), rfl⟩

theorem raiseView (tid stamp : Nat) : Bookkeeps s (s.raiseView tid stamp) := by
  simp only [State.raiseView]
  split
  · exact refl s
  · next t ht =>
    split
    · exact of_threads
    · next c _ => exact (of_threads (k := s.putL c _)).trans (putThread_vstamp (s.putL c _) (n := tid) ht _)
    · exact putThread_vstamp s ht _

theorem acquireView (tid stamp : Nat) : Bookkeeps s (s.acquireView tid stamp) := by
  simp only [State.acquireView]
  split
  · exact (raiseView s _ _).trans of_threads
  · exact raiseView s _ _

theorem writerView (tid core w : Nat) : Bookkeeps s (s.writerView tid core w) :=
  (raiseView s tid w).trans (ite of_threads (refl _))

theorem dirWT (own : Option Nat) (line : Nat) (mask : BitVec 128) : Bookkeeps s (s.dirWT own line mask) := by
  simp only [State.dirWT]
  split
  · exact refl s
  · exact ite (refl s) of_threads
  · exact of_threads

theorem coreRelease (core : Nat) : Bookkeeps s (s.coreRelease core) := by
  have h : Bookkeeps s (s.bumpRel core) := ite of_threads of_threads
  exact h.trans of_threads

theorem afterRead (pa n : Nat) : Bookkeeps s (s.afterRead pa n) := ite of_threads (refl s)

theorem keepPoison (pa n : Nat) (was : Bool) : Bookkeeps s (s.keepPoison pa n was) := ite of_threads (refl s)

theorem fireMonitors (pa : Nat) : Bookkeeps s (s.fireMonitors pa) := by
  refine ⟨⟨rfl, rfl, rfl, rfl, rfl, fun hk => ?_⟩, rfl⟩
  let g (t : Thread) : Thread := if t.monitor.armed && t.monitor.line == pa / 128 then t.fire else t
  have hget : ∀ n, (s.fireMonitors pa).thread? n = (s.thread? n).map g := fun n => by
    rw [State.thread?, State.thread?, ← tabGet_map fun _ => g]
    congr 1
    exact List.map_congr_left fun p _ => by simp only [g]; split <;> rfl
  have hid : ∀ t, (g t).tid = t.tid := fun t => by
    simp only [g]; split
    · exact (spares_fire t).1
    · rfl
  refine ⟨fun n u hu => ?_, fun n t ht hsub => ⟨g t, by rw [hget, ht]; rfl, ?_⟩⟩
  · obtain ⟨t, ht, rfl⟩ := Option.map_eq_some_iff.1 ((hget n).symm.trans hu)
    exact (hid t).trans (hk n t ht)
  · simp only [g]; split
    · rw [fire_active hsub]
    · rfl

end Bookkeeps

/-! ### Memory -/

theorem holds_memStore {m : Memory} (h : Memory.wf m = true) (a : Nat) (bs : List Byte) :
    Holds m (memStore m a bs) a bs :=
  ⟨memBytes_memStore h a bs, fun x hx => memByte_memStore_out m a x bs hx⟩

/-- A store where no queue's ring and no owner byte stands. -/
theorem putStored_plain {s : State} {pa : Nat} {bs : List Byte} (h : PlainRange s pa bs.length) (pz : List Bool)
    (fw : Bool) : WriteFrame s (s.putStored pa bs pz fw) ∧ (s.putStored pa bs pz fw).mem = memStore s.mem pa bs := by
  have howner : ¬ ((List.range bs.length).any fun i => (s.ownerRegion? (pa + i)).isSome) = true := by
    simp only [List.any_eq_true, List.mem_range, not_exists, not_and]
    exact fun i hi => by simp [(h (pa + i) (by omega) (by omega)).2.1]
  have hring : ¬ ((List.range bs.length).any fun i => s.inRing (pa + i)) = true := by
    simp only [List.any_eq_true, List.mem_range, not_exists, not_and]
    exact fun i hi => by simp [(h (pa + i) (by omega) (by omega)).1]
  rw [State.putStored, if_neg howner, State.putBytes, if_neg hring]
  exact ⟨.of_threads rfl rfl rfl rfl rfl rfl, rfl⟩

/-- With no trace open an access is not recorded (R351). -/
theorem recordFor_untraced {s : State} (t : Thread) (va : Nat) (write : Bool) (h : s.traces = []) :
    s.recordFor t va write = s := by
  unfold State.recordFor
  split
  · simp [State.record, State.trace?, h]
  · rfl

theorem markDirty_untraced {s : State} (space va spawn : Nat) (h : s.traces = []) : s.markDirty space va spawn = s := by
  rw [State.markDirty, h]; rfl

/-- A WRITE AT HOME makes memory hold its bytes, and does its own bookkeeping. -/
theorem performWrite_home {s : State} (t : Thread) (core pa va : Nat) (bs : List Byte) (lcls mtype : Nat)
    (race sync fw : Bool) (cls : EClass) (hq : s.traces = []) (hp : PlainRange s pa bs.length)
    (hm : Memory.wf s.mem = true) :
    let k := s.performWrite t core pa va bs lcls mtype race sync true fw cls
    WriteFrame s k ∧ Holds s.mem k.mem pa bs := by
  intro k
  let own := if isWeft core then some (agentVault core) else none
  let k₁ := if mtype ≠ 0 then s else s.dirWT own (pa / 128) (byteMask pa bs.length)
  let w := k₁.writeStamp (pa / 128) (k₁.guardFor core pa) (k₁.viewOf t)
  let k₂ := (k₁.putStamp (pa / 128) ⟨w, w⟩).writerView t.tid core w
  let k₃ := k₂.putStored pa bs [] fw
  have h₂ : Bookkeeps s k₂ := ((Bookkeeps.ite (.refl s) (.dirWT s _ _ _)).trans .of_threads).trans (.writerView _ _ _ _)
  obtain ⟨hf₃, hm₃⟩ := putStored_plain (h₂.plain hp) [] fw
  have htail : Bookkeeps k₃ k := by
    let k₄ := if isWeft core && mtype = 0 then
      (k₃.l1Write core pa bs w (k₃.leaseOf t.pid lcls)).dropRoLine core (pa / 128) else k₃
    let k₅ := k₄.fireMonitors pa
    let k₆ := if race then k₅.shadowWrite t.tid core pa sync else k₅
    have h₆ : Bookkeeps k₃ k₆ :=
      ((Bookkeeps.ite .of_threads (.refl k₃)).trans (.fireMonitors k₄ pa)).trans (.ite .of_threads (.refl k₅))
    have hk : k = k₆.recordFor t va true := by
      simp only [k, State.performWrite, markDirty_untraced _ _ _ hq, if_true]
      rfl
    rw [hk, recordFor_untraced t va true (h₆.traces.trans (hf₃.traces.trans (h₂.traces.trans hq)))]
    exact h₆
  refine ⟨(h₂.toWriteFrame.trans hf₃).trans htail.toWriteFrame, ?_⟩
  rw [htail.mem, hm₃, h₂.mem]
  exact holds_memStore hm pa bs

/-- The memory of an atomic performed at home (R254). -/
theorem performAtomic_mem {s : State} (l : Lane) (core z : Nat) (a : Access) (release : Bool) (hq : s.traces = [])
    (hm : Memory.wf s.mem = true) :
    (∀ v, PlainRange s a.pa z → Holds s.mem (s.performAtomic l core a z (some v) release).mem a.pa (leBytes z v)) ∧
    (s.performAtomic l core a z none release).mem = s.mem := by
  have hrel : Bookkeeps s (if release then s.coreRelease core else s) := .ite (.coreRelease s core) (.refl s)
  refine ⟨fun v hp => ?_, ?_⟩
  · have hw := performWrite_home (s := if release then s.coreRelease core else s) l.thread core a.pa a.va (leBytes z v)
      (leafCls a.leaf) (leafMtype a.leaf) (leafRace a.leaf) true (l.thread.plvl == .firmware) .normal (hrel.traces.trans hq)
      (by rw [length_leBytes]; exact hrel.plain hp) (by rw [hrel.mem]; exact hm)
    rw [hrel.mem] at hw
    have hk : (s.performAtomic l core a z (some v) release).mem = _ := (Bookkeeps.keepPoison _ _ _ _).mem
    rw [hk]
    exact hw.2
  · simp only [State.performAtomic]
    exact ((hrel.trans (.ite (.dirWT _ _ _ _) (.refl _))).trans (.acquireView _ _ _)).mem

end Sys2Proof.Machine
end

section
/-! SUPPORT. Atomics and reductions (R254 to R257): their forms, their operations on elements, a reduction performed at home,
and O28. -/

namespace Sys2Proof.Machine

open Sys2Proof.Claims

/-! ### A trap in the state that checks leave (R58, R217) -/

/-- One lane alone, in any form, whose body traps in a state that its checks leave. -/
theorem issue_trapAfter_ports {s : State} {r : OpRule} {f : Fields} {irrev carries : Bool} {n : Nat} {t : Thread}
    (h : PortsReady s r f irrev carries [(n, t)]) {body : Body} {keep : State → State} {tr : Trap}
    (hb : body s (s.laneOf r f [(n, t)] (n, t)) = .trapAfter keep tr) (hw : trapWaits (keep s) t.tid tr = false) :
    issue r f irrev (fun _ => none) carries body s =
      .next (s.unqueued r f [(n, t)] (takeTrap (keep s) t.tid f tr (irrev || touchesPort r f) false)).bump := by
  rw [issue_ports h (fun _ => none) (fun _ _ => rfl) body (.inr (.inl ⟨_, rfl⟩))]
  have hp := lateTrap_none (carries := carries) (h.lane (n, t) (by simp)) _ (lanePops_clean h t.tid) fun hq =>
    (h.target hq (n, t) (by simp)).2
  simp only [runLanesBody]
  rw [show lateTrap s r f carries t (((s.groupPops r f [(n, t)]).filter fun p => p.1 == t.tid).map (·.2)) = none from hp]
  simp only [Issuing.lane]
  rw [show body s (readLane r f n t (((s.groupPops r f [(n, t)]).filter fun p => p.1 == t.tid).map (·.2))) =
    .trapAfter keep tr from hb]
  have htid : (readLane r f n t (((s.groupPops r f [(n, t)]).filter fun p => p.1 == t.tid).map (·.2))).tid = t.tid := rfl
  simp [Issuing.trap, htid, hw, Issuing.finish, moveWords, State.unqueued]

/-- An instruction whose meaning is an issue traps a lane alone where its checks fail. -/
theorem traps_checked_of {i : Instr} {r : OpRule} {f : Fields} {irrev : Bool} {body : Body}
    {check : State → Lane → Option (State × Trap)}
    (hexec : ∀ s, exec i s = issue r f irrev (fun _ => none) false body s)
    (hbody : ∀ s l k tr, check s l = some (k, tr) → ∃ keep, body s l = .trapAfter keep tr ∧ keep s = k) :
    TrapsChecked i r f irrev check := fun s n t k tr h hc hw => by
  obtain ⟨keep, hb, rfl⟩ := hbody s _ k tr hc
  rw [hexec]
  exact issue_trapAfter_ports h hb hw

/-- A body that completes without a result, in an instruction whose rd is no port. -/
theorem lane_done_advance {r : OpRule} {f : Fields} {irrev : Bool} {body : Body} {g : Issuing} {l : Lane} {s : State}
    (hb : body g.all l = .done s) (hp : pushesRd r f = false) (k : State) (v : Word) :
    g.lane r f irrev body l = { g with
      all := s.advance l.tid f irrev
      done := g.done ++ [l.tid]
      pushes := g.pushes ++ pushOf k r f l v } := by
  simp [Issuing.lane, hb, pushOf, hp]

/-- An instruction whose meaning is an issue, in which each lane does what an effect says where it has one. -/
theorem runs_effect {i : Instr} {r : OpRule} {f : Fields} {body : Body} {effect : State → Lane → Option State}
    (hexec : ∀ s, exec i s = issue r f true (fun _ => none) false body s) (hrd : r.rd ≠ .reg)
    (hbody : ∀ s l k, effect s l = some k → body s l = .done k) :
    Runs i r f true false (fun s l => effect s l ≠ none)
      (fun k l => ((effect k l).getD k).advance l.tid f true) (fun _ _ => 0) :=
  runs_of hexec fun g l _ _ hn => by
    obtain ⟨k, hk⟩ := Option.ne_none_iff_exists'.1 hn
    simp only [hk, Option.getD_some, Bool.true_or]
    exact lane_done_advance (hbody _ _ _ hk) (rd_none_push hrd) _ _

/-! ### AMO and CAS (R254, R255, R257) -/

/-- A release goes on where its thread has lost no store (R397). -/
theorem lost_goes {release : Bool} {l : Lane} (h : ¬ (release = true ∧ l.thread.lost ≠ none)) :
    (release && l.thread.lost.isSome) = false := by
  cases release
  · rfl
  · simp only [true_and, not_not] at h
    simp [h]

/-- An atomic goes on to its checks where nothing holds it (R230, R232, R397). -/
theorem atomic_goes {release : Bool} {s : State} {l : Lane}
    (h : ¬ (s.mustWait l.tid ∨ release = true ∧ (s.performed l.tid = false ∨ l.thread.lost ≠ none))) :
    (s.mustWait l.tid || (release && !s.performed l.tid)) = false ∧ (release && l.thread.lost.isSome) = false := by
  obtain ⟨hm, hr⟩ := not_or.1 h
  refine ⟨?_, lost_goes fun hl => hr ⟨hl.1, .inr hl.2⟩⟩
  cases release <;> simp_all

section

variable {f : Fields} {release : Bool} {v : Lane → Int} {new : Lane → Nat → Option Nat} {result : Nat → Word} {s : State}
  {l : Lane}

/-- The body of a lane of an AMO or CAS is what the statement says it leaves. -/
theorem atomicLane_done {k : State} (h : atomicEffect f release v new result s l = some k) :
    atomicLane f (v l) release new result s l = .done k := by
  unfold atomicEffect at h
  simp only at h
  generalize hz : (if f.w = true then 4 else 8) = z at h
  by_cases hw : s.mustWait l.tid ∨ release = true ∧ (s.performed l.tid = false ∨ l.thread.lost ≠ none)
  · rw [if_pos hw] at h
    cases h
  obtain ⟨hwait, hlost⟩ := atomic_goes hw
  rw [if_neg hw] at h
  rw [atomicLane, show atomicSize f = z from hz]
  simp only [hwait, hlost, Bool.false_eq_true, if_false, atomicCheck]
  split at h
  · next k' a hc =>
    rw [hc]
    simp only at h ⊢
    by_cases he : (k'.earlierStore l.tid k'.seq a.pa z || k'.earlierLoad l.tid k'.seq a.pa z) = true
    · rw [if_pos (by simpa using he)] at h
      cases h
    · rw [if_neg (by simpa using he)] at h
      rw [if_neg he]
      exact congrArg _ (Option.some.inj h)
  · cases h

theorem atomicLane_wait (h : s.mustWait l.tid = true ∨ release = true ∧ s.performed l.tid = false) :
    atomicLane f (v l) release new result s l = .wait id := by
  rw [atomicLane]
  exact if_pos (by rcases h with h | ⟨rfl, h⟩ <;> simp [h])

theorem atomicLane_lost {w : Word} (hm : s.mustWait l.tid = false) (hr : release = true) (hp : s.performed l.tid = true)
    (hl : l.thread.lost = some w) : atomicLane f (v l) release new result s l = .trap ⟨.mchk, w, true⟩ false := by
  simp [atomicLane, hm, hr, hp, hl]

theorem atomicLane_fails {k : State} {tr : Trap}
    (hw : ¬ (s.mustWait l.tid ∨ release = true ∧ (s.performed l.tid = false ∨ l.thread.lost ≠ none)))
    (h : checkFails s l (v l) (if f.w then 4 else 8) true true 2 true = some (k, tr)) :
    ∃ keep, atomicLane f (v l) release new result s l = .trapAfter keep tr ∧ keep s = k := by
  obtain ⟨hwait, hlost⟩ := atomic_goes hw
  unfold checkFails at h
  split at h
  · next k' tr' hc =>
    cases h
    refine ⟨fun k => (atomicCheck k l.thread s.cur.core (v l) (atomicSize f) true).left k, ?_, ?_⟩
    · rw [atomicLane]
      simp only [hwait, hlost, Bool.false_eq_true, if_false]
      rw [show atomicCheck s l.thread s.cur.core (v l) (atomicSize f) true = .trap k tr from hc]
    · exact congrArg (Checked.left · s) hc
  · cases h

/-- The effect depends on the operation at elements of its size alone. -/
theorem atomicEffect_congr {new' : Lane → Nat → Option Nat} {result' : Nat → Word}
    (hnew : ∀ l old, old < 2 ^ (if f.w then 32 else 64) → new l old = new' l old) (hres : ∀ old, result old = result' old) :
    atomicEffect f release v new result = atomicEffect f release v new' result' := by
  have hlt : ∀ (k : State) (pa : Nat), leNat (k.bytesAt pa (if f.w then 4 else 8)) < 2 ^ (if f.w then 32 else 64) := by
    intro k pa
    have h := leNat_lt (k.bytesAt pa (if f.w then 4 else 8))
    cases hw : f.w <;> simpa [State.bytesAt, hw] using h
  funext k l
  simp only [atomicEffect, hnew _ _ (hlt _ _), hres]

end

/-- An instruction whose meaning issues atomic lanes is an atomic. -/
theorem atomic_of {i : Instr} {r : OpRule} {f : Fields} {release : Bool} {v : Lane → Int}
    {new₀ new : Lane → Nat → Option Nat} {res₀ res : Nat → Word} (hrd : r.rd ≠ .reg)
    (hexec : ∀ s, exec i s = issue r f true (fun _ => none) false
      (fun s l => atomicLane f (v l) release new₀ res₀ s l) s)
    (hnew : ∀ l old, old < 2 ^ (if f.w then 32 else 64) → new₀ l old = new l old) (hres : ∀ old, res₀ old = res old) :
    Atomic i r f release v new res := by
  rw [Atomic, ← atomicEffect_congr hnew hres]
  refine ⟨runs_effect hexec hrd fun s l k => atomicLane_done, waits_alone_of hexec fun s l _ _ => atomicLane_wait,
    traps_alone_of hexec fun s l tr _ _ hy => ?_, traps_checked_of hexec fun s l k tr hc => ?_⟩
  · split_ifs at hy with hw
    obtain ⟨w, hl, rfl⟩ := Option.map_eq_some_iff.1 hy
    simp only [not_or, Bool.not_eq_true, Bool.not_eq_false] at hw
    exact atomicLane_lost hw.1 hw.2.1 hw.2.2 hl
  · obtain ⟨hw, hc⟩ := Option.ite_none_left_eq_some.1 hc
    exact atomicLane_fails hw hc

/-! ### RED (R256) -/

section

variable {f : Fields} {op : AOp} {release : Bool} {s : State} {l : Lane}

theorem redLane_done {k : State} (h : redEffect f op release s l = some k) :
    redLane f op release (addressOf f l) s l = .done k := by
  unfold redEffect at h
  simp only at h
  generalize hz : (if f.w = true then 4 else 8) = z at h
  by_cases hw : s.mustWait l.tid ∨ release = true ∧ l.thread.lost ≠ none
  · rw [if_pos hw] at h
    cases h
  obtain ⟨hm, hr⟩ := not_or.1 hw
  have hlost := lost_goes hr
  rw [if_neg hw] at h
  rw [redLane, show atomicSize f = z from hz]
  simp only [Bool.eq_false_iff.2 hm, hlost, Bool.false_eq_true, if_false, atomicCheck]
  split at h
  · next k' a hc =>
    rw [hc, ← Option.some.inj h]
    simp only [State.queueRed, Nat.mul_div_cancel_left _ (by decide : 0 < 8)]
    rfl
  · cases h

theorem redLane_wait (h : s.mustWait l.tid = true) : redLane f op release (addressOf f l) s l = .wait id := by
  rw [redLane]
  exact if_pos h

theorem redLane_lost {w : Word} (hm : s.mustWait l.tid = false) (hr : release = true) (hl : l.thread.lost = some w) :
    redLane f op release (addressOf f l) s l = .trap ⟨.mchk, w, true⟩ false := by
  simp [redLane, hm, hr, hl]

theorem redLane_fails {k : State} {tr : Trap} (hw : ¬ (s.mustWait l.tid ∨ release = true ∧ l.thread.lost ≠ none))
    (h : checkFails s l (addressOf f l) (if f.w then 4 else 8) true false 2 true = some (k, tr)) :
    ∃ keep, redLane f op release (addressOf f l) s l = .trapAfter keep tr ∧ keep s = k := by
  obtain ⟨hm, hr⟩ := not_or.1 hw
  have hlost := lost_goes hr
  unfold checkFails at h
  split at h
  · next k' tr' hc =>
    cases h
    refine ⟨fun k => (atomicCheck k l.thread s.cur.core (addressOf f l) (atomicSize f) false).left k, ?_, ?_⟩
    · rw [redLane]
      simp only [Bool.eq_false_iff.2 hm, hlost, Bool.false_eq_true, if_false]
      rw [show atomicCheck s l.thread s.cur.core (addressOf f l) (atomicSize f) false = .trap k tr from hc]
    · exact congrArg (Checked.left · s) hc
  · cases h

end

/-- An instruction whose meaning issues reduction lanes is a reduction. -/
theorem reduces_of {i : Instr} {f : Fields} {op : AOp} {release : Bool}
    (hexec : ∀ s, exec i s = issue rRed f true (fun _ => none) false
      (fun s l => redLane f op release (addressOf f l) s l) s) : Reduces i f op release := by
  refine ⟨runs_effect hexec (by decide) fun s l k => redLane_done, waits_alone_of hexec fun s l _ _ => redLane_wait,
    traps_alone_of hexec fun s l tr _ _ hy => ?_, traps_checked_of hexec fun s l k tr hc => ?_⟩
  · split_ifs at hy with hw
    obtain ⟨w, hl, rfl⟩ := Option.map_eq_some_iff.1 hy
    simp only [not_or, Bool.not_eq_true, Bool.not_eq_false] at hw
    exact redLane_lost hw.1 hw.2 hl
  · obtain ⟨hw, hc⟩ := Option.ite_none_left_eq_some.1 hc
    exact redLane_fails hw hc

/-! ### The operations on elements (R255) -/

theorem elemOf_eq (f : Fields) (w : Word) : elemOf f.w w = lowBits f w := rfl

theorem lowBits_lt (f : Fields) (w : Word) : lowBits f w < 2 ^ (if f.w then 32 else 64) := by
  cases h : f.w
  · simpa [lowBits, h] using w.isLt
  · simpa [lowBits, h] using Nat.mod_lt _ (by decide)

theorem ofNat_lowBits (f : Fields) (w : Word) :
    BitVec.ofNat (if f.w then 32 else 64) (lowBits f w) = BitVec.ofNat (if f.w then 32 else 64) w.toNat := by
  apply BitVec.eq_of_toNat_eq
  cases h : f.w <;> simp [lowBits, h]

theorem oldResult_eq (f : Fields) (old : Nat) : oldResult f.w old = oldOf f old := by
  rw [oldResult, oldOf]
  split_ifs
  · rw [sextN_eq, wordOfInt, BitVec.signExtend]
  · rfl

/-- An operation of an AMO or RED on n-bit elements is the one that the statement names. -/
theorem run_amoOps : ∀ e ∈ amoOps, ∀ n old b, old < 2 ^ n → b < 2 ^ n →
    e.2.2.1.run n old b = (e.2.2.2 n (BitVec.ofNat n old) (BitVec.ofNat n b)).toNat := by
  have hmod {n x : Nat} (h : x < 2 ^ n) : (BitVec.ofNat n x).toNat = x := by
    rw [BitVec.toNat_ofNat, Nat.mod_eq_of_lt h]
  have hite {n : Nat} {c : Bool} {p : Prop} [Decidable p] {x y : Nat} (hx : x < 2 ^ n) (hy : y < 2 ^ n) (h : c = true ↔ p) :
      (if p then x else y) = (if c then BitVec.ofNat n x else BitVec.ofNat n y).toNat := by
    by_cases hp : p
    · rw [if_pos hp, if_pos (h.2 hp), hmod hx]
    · rw [if_neg hp, if_neg (mt h.1 hp), hmod hy]
  simp only [amoOps, List.forall_mem_cons]
  refine ⟨fun n old b ho hb => ?_, fun n old b ho hb => ?_, fun n old b ho hb => ?_, fun n old b ho hb => ?_,
    fun n old b ho hb => ?_, fun n old b ho hb => ?_, fun n old b ho hb => ?_, fun n old b ho hb => ?_,
    List.forall_mem_nil _⟩ <;> simp only [AOp.run]
  · rw [BitVec.toNat_add, hmod ho, hmod hb]
  · rw [BitVec.toNat_and, hmod ho, hmod hb]
  · rw [BitVec.toNat_or, hmod ho, hmod hb]
  · rw [BitVec.toNat_xor, hmod ho, hmod hb]
  · exact hite hb ho (by rw [sextN_eq, sextN_eq, BitVec.slt, decide_eq_true_iff])
  · exact hite hb ho (by rw [sextN_eq, sextN_eq, BitVec.slt, decide_eq_true_iff])
  · exact hite hb ho (by rw [BitVec.ult, hmod ho, hmod hb, decide_eq_true_iff])
  · exact hite hb ho (by rw [BitVec.ult, hmod ho, hmod hb, decide_eq_true_iff])

/-- The sum of AMO.fadd and RED.fadd on elements of n bits (R255): rounded to nearest even. -/
def fsum (n old b : Nat) : FRes :=
  let fm := if n = 32 then fp32 else fp64
  fm.add .rne (fm.decode old) (fm.decode b)

theorem run_fadd (n old b : Nat) : AOp.run .fadd n old b = (fsum n old b).1 := rfl

/-! ### A reduction performed at home (R256) -/

/-- Home performs a reduction: the element becomes what its operation makes of it and its operand. -/
theorem performStore_red {s : State} {p : PStore} {u : Red} (hred : p.red = some u) (hq : s.traces = [])
    (hp : PlainRange s p.pa p.data.length) (hm : Memory.wf s.mem = true) :
    let k := s.performStore p true
    let n := p.data.length
    WriteFrame { s with stores := s.stores.filter fun q => !(q.id == p.id && q.tid == p.tid) } k ∧
      Holds s.mem k.mem p.pa (leBytes n (u.op.run u.bits (leNat (memBytes s.mem p.pa n)) u.arg)) := by
  intro k n
  let j : State := { s with stores := s.stores.filter fun q => !(q.id == p.id && q.tid == p.tid) }
  let bs := leBytes n (u.op.run u.bits (leNat (memBytes s.mem p.pa n)) u.arg)
  have hlen : bs.length = n := length_leBytes _ _
  have hdata : j.storeData p = bs := by
    have hval : j.valueAt p.pa n = leNat (memBytes s.mem p.pa n) := congrArg leNat (bytesAt_plain (s := j) hp)
    rw [State.storeData, hred]
    exact congrArg (fun x => leBytes n (u.op.run u.bits x u.arg)) hval
  have hpl : PlainRange j p.pa bs.length := by rw [hlen]; exact hp
  simp only [k, State.performStore]
  rw [show State.storeData _ p = bs from hdata]
  split
  · obtain ⟨hf, he⟩ := putStored_plain hpl p.poison p.fw
    exact ⟨hf, he ▸ holds_memStore hm p.pa bs⟩
  · next t _ =>
    have hrel : Bookkeeps j (if p.rel then j.coreRelease p.core else j) := .ite (.coreRelease j _) (.refl j)
    obtain ⟨hf, hh⟩ := performWrite_home (s := if p.rel then j.coreRelease p.core else j) t p.core p.pa p.va.toNat bs
      p.lcls p.mtype p.race (p.rel || p.red.isSome) p.fw p.cls (hrel.traces.trans hq) (hrel.plain hpl)
      (by rw [hrel.mem]; exact hm)
    rw [if_pos (by rw [hred]; rfl)]
    have htail := (Bookkeeps.keepPoison ((if p.rel then j.coreRelease p.core else j).performWrite t p.core p.pa
      p.va.toNat bs p.lcls p.mtype p.race (p.rel || p.red.isSome) true p.fw p.cls) p.pa n
      (p.red.isSome && (if p.rel then j.coreRelease p.core else j).poisonAt p.pa n)).trans (.afterRead _ p.pa n)
    refine ⟨(hrel.toWriteFrame.trans hf).trans htail.toWriteFrame, ?_⟩
    rw [show State.mem _ = _ from htail.mem]
    rw [hrel.mem] at hh
    exact hh

/-- WT of the oldest store of a thread, where it is a reduction that may be performed. -/
theorem wt_red {s : State} {tid : Nat} {p : PStore} {rest : List PStore} {u : Red} (hs : s.storesOf tid = p :: rest)
    (hred : p.red = some u) (hr : storeReady s p = true) (ho : s.ownCheck p.pa = .ok) :
    exec (.wt tid) s = .next (s.performStore p true) := by
  have hhome : p.byHome = true := by simp [PStore.byHome, hred]
  have hcheck : homeCheck s p.pa = .ok := by
    rw [homeCheck, ho]
    exact ite_self _
  have hexec : exec (.wt tid) s = .next ((tryWt tid s).getD s) := rfl
  rw [hexec, tryWt, hs]
  simp [hhome, hr, performChecked, hcheck]

theorem performsRed_of {op : AOp} {apply : Nat → Nat → Nat → Nat}
    (h : ∀ n ∈ [32, 64], ∀ old b, old < 2 ^ n → b < 2 ^ n → op.run n old b = apply n old b) : PerformsRed op apply := by
  intro s tid p rest n arg hs hred hn harg hlen hready hown hplain hq hm hids hkeyed
  obtain ⟨hf, hh⟩ := performStore_red hred hq hplain hm
  have htid : p.tid = tid := by
    have hmem : p ∈ s.storesOf tid := hs ▸ List.mem_cons_self
    simpa [State.storesOf] using (List.mem_filter.1 hmem).2
  have hold : leNat (memBytes s.mem p.pa (n / 8)) < 2 ^ n := by
    have hlt := leNat_lt (memBytes s.mem p.pa (n / 8))
    rw [length_memBytes] at hlt
    rcases List.mem_pair.1 hn with rfl | rfl <;> exact hlt
  refine ⟨_, wt_red hs hred hready hown, ?_, (hf.threads hkeyed).2, hf.pend, ?_⟩
  · have hrest : (p :: rest).filter (fun q => !(q.id == p.id && q.tid == p.tid)) = rest := by
      rw [List.filter_cons_of_neg (by simp), List.filter_eq_self]
      intro q hq
      simp [hids q hq]
    rw [State.storesOf, hf.stores, List.filter_comm, ← hrest, ← hs]
    rfl
  · rw [hlen, h n hn _ _ hold harg] at hh
    exact hh

/-! ### Every instruction of the group -/

/-- An AMO, by its operation on elements and what it makes of the old one. -/
theorem amo_of {i : Instr} {f : Fields} (op : AOp) {new : Lane → Nat → Option Nat} {res : Nat → Word}
    (hexec : ∀ s, exec i s = issueAmo op f s)
    (hnew : ∀ l old, old < 2 ^ (if f.w then 32 else 64) →
      some (op.run (if f.w then 32 else 64) old (lowBits f l.b)) = new l old)
    (hres : ∀ old, (if op = .fadd then BitVec.ofNat 64 old else oldOf f old) = res old) :
    Atomic i rAmo f (f.mod.getLsbD 1) (addressOf f) new res := by
  refine atomic_of (new₀ := fun l old => some (op.run (if f.w then 32 else 64) old (elemOf f.w l.b)))
    (res₀ := fun old => if op = .fadd then BitVec.ofNat 64 old else oldResult f.w old) (by decide) hexec hnew fun old => ?_
  rw [← hres old, oldResult_eq]

/-- A CAS (R257). -/
theorem cas_atomic (f : Fields) : Atomic (.cas f) rCas f (f.mod.getLsbD 1) (addressOf f)
    (fun l old => if old = lowBits f l.b then some (lowBits f l.c) else none) (oldOf f) :=
  atomic_of (new₀ := fun l old => if old = elemOf f.w l.b then some (elemOf f.w l.c) else none)
    (res₀ := oldResult f.w) (by decide) (fun _ => rfl) (fun _ _ _ => rfl) (oldResult_eq f)

/-- The AMO and the RED of each operation of R255. -/
theorem amoOps_forms (f : Fields) : ∀ e ∈ amoOps,
    (∀ s, exec (e.1 f) s = issueAmo e.2.2.1 f s) ∧ (∀ s, exec (e.2.1 f) s = issueRed e.2.2.1 f s) ∧ e.2.2.1 ≠ .fadd := by
  simp only [amoOps, List.forall_mem_cons]
  exact ⟨⟨fun _ => rfl, fun _ => rfl, nofun⟩, ⟨fun _ => rfl, fun _ => rfl, nofun⟩, ⟨fun _ => rfl, fun _ => rfl, nofun⟩,
    ⟨fun _ => rfl, fun _ => rfl, nofun⟩, ⟨fun _ => rfl, fun _ => rfl, nofun⟩, ⟨fun _ => rfl, fun _ => rfl, nofun⟩,
    ⟨fun _ => rfl, fun _ => rfl, nofun⟩, ⟨fun _ => rfl, fun _ => rfl, nofun⟩, List.forall_mem_nil _⟩

/-- The sum of AMO.fadd and RED.fadd (R114, R115, R255). -/
theorem fsum_spec : ∀ n ∈ [32, 64], ∀ old b,
    let fm := if n = 32 then fp32 else fp64
    ((fm.decode old).isNan ∨ (fm.decode b).isNan →
      (fsum n old b).1 = if n = 32 then 0x7FC00000 else 0x7FF8000000000000) ∧
    ∀ x y, realOf (fm.decode old) = some x → realOf (fm.decode b) = some y → Delivers fm .rne (x + y) (fsum n old b) := by
  have hnan {fm : FFmt} {u v : FVal} (h : u.isNan ∨ v.isNan) : (fm.add .rne u v).1 = fm.nan :=
    congrArg Prod.fst (arithmetic_nan fm .rne h _ List.mem_cons_self)
  simp only [List.forall_mem_cons]
  exact ⟨fun old b => ⟨hnan, fun x y => add_delivers (by decide) (by decide) .rne⟩,
    fun old b => ⟨hnan, fun x y => add_delivers (by decide) (by decide) .rne⟩, List.forall_mem_nil _⟩

end Sys2Proof.Machine

open Sys2Proof.Machine

/-- Settles O28: the issue of an AMO, CAS or RED lane by lane, and a write at home, which holds its bytes and keeps its
own books. -/
theorem atomicOperations : Obligations.AtomicOperations := by
  refine ⟨fun f => ⟨fun e he => ?_, amo_of .swap (fun _ => rfl) (fun _ _ _ => rfl) fun _ => rfl, reduces_of fun _ => rfl,
    cas_atomic f⟩, fun e he => performsRed_of fun n _ => run_amoOps e he n, ⟨fsum, fun f => ?_, performsRed_of fun _ _ _ _ _ _ => rfl,
    fun n hn old b _ _ => fsum_spec n hn old b⟩, fun s l core z a release hq hm => performAtomic_mem l core z a release hq hm⟩
  · obtain ⟨hamo, hred, hne⟩ := amoOps_forms f e he
    refine ⟨amo_of e.2.2.1 hamo (fun l old ho => ?_) fun old => if_neg hne, reduces_of hred⟩
    rw [run_amoOps e he _ _ _ ho (lowBits_lt f l.b)]
    rw [ofNat_lowBits]
  · exact amo_of .fadd (fun _ => rfl) (fun _ _ _ => rfl) fun _ => rfl

end

section
/-! SUPPORT. What an operation of the array does to a slice (R121, R124, R127, R128, R293, R305, R310, R312): elements of an
accumulator read back, the values of a tile's elements, and the update of an element with one rounding. -/

namespace Sys2Proof.Machine

open Sys2Proof.Claims

/-! ### Accumulator elements -/

theorem tabWf_spPut {α : Type} [DecidableEq α] {d : α} {t : List (Nat × α)} (h : tabWf t = true) (k : Nat) (v : α) :
    tabWf (spPut d t k v) = true := by
  unfold spPut
  split_ifs
  · exact tabWfFrom_tabDel h
  · exact tabWfFrom_tabPut (Nat.zero_le _) v h

theorem spGet_spPut {α : Type} [DecidableEq α] {d : α} {t : List (Nat × α)} (h : tabWf t = true) (k n : Nat) (v : α) :
    spGet d (spPut d t k v) n = if n = k then v else spGet d t n := by
  unfold spGet spPut
  by_cases hn : n = k
  · subst hn
    rw [if_pos rfl]
    split_ifs with hv
    · rw [tabGet_tabDel_same n h, hv]; rfl
    · rw [tabGet_tabPut_same]; rfl
  · rw [if_neg hn]
    split_ifs
    · rw [tabGet_tabDel_other _ (Ne.symm hn)]
    · rw [tabGet_tabPut_other _ _ (Ne.symm hn)]

theorem accElem_lt (b : Bolt) (n : Nat) : b.accElem n < 2 ^ 32 := by
  unfold Bolt.accElem
  split_ifs
  · decide
  · exact BitVec.isLt _

theorem accElem_setAcc {b : Bolt} (h : tabWf b.acc = true) (n v m : Nat) :
    (b.setAcc n v).accElem m = if m = n then v % 2 ^ 32 else b.accElem m := by
  simp only [Bolt.accElem, Bolt.setAcc, spGet_spPut h]
  by_cases hm : m = n
  · simp [hm, BitVec.toNat_ofNat]
  · simp [hm]

/-- Elements of slice k from its first one written one after another. -/
def Bolt.setSlice (b : Bolt) (k : Nat) (g : Nat → Nat) (n : Nat) : Bolt :=
  (List.range n).foldl (fun b e => b.setAcc (4096 * k + e) (g e)) b

theorem Bolt.setSlice_succ (b : Bolt) (k : Nat) (g : Nat → Nat) (n : Nat) :
    b.setSlice k g (n + 1) = (b.setSlice k g n).setAcc (4096 * k + n) (g n) := by
  simp [Bolt.setSlice, List.range_succ]

theorem tabWf_setSlice {b : Bolt} (h : tabWf b.acc = true) (k : Nat) (g : Nat → Nat) (n : Nat) :
    tabWf (b.setSlice k g n).acc = true := by
  induction n with
  | zero => exact h
  | succ n ih => rw [Bolt.setSlice_succ]; exact tabWf_spPut ih _ _

theorem accElem_setSlice {b : Bolt} (h : tabWf b.acc = true) (k : Nat) (g : Nat → Nat) (n m : Nat) :
    (b.setSlice k g n).accElem m =
      if 4096 * k ≤ m ∧ m < 4096 * k + n then g (m - 4096 * k) % 2 ^ 32 else b.accElem m := by
  induction n with
  | zero => rw [if_neg (by omega)]; rfl
  | succ n ih =>
    rw [Bolt.setSlice_succ, accElem_setAcc (tabWf_setSlice h k g n), ih]
    by_cases hm : m = 4096 * k + n
    · rw [if_pos hm, if_pos (by omega), hm, Nat.add_sub_cancel_left]
    · rw [if_neg hm]
      exact if_congr (by omega) rfl rfl

/-- A whole slice written. -/
theorem accElem_setSlice_all {b : Bolt} (h : tabWf b.acc = true) (k : Nat) (g : Nat → Nat) (n : Nat) :
    (b.setSlice k g 4096).accElem n = if n / 4096 = k then g (n % 4096) % 2 ^ 32 else b.accElem n := by
  rw [accElem_setSlice h]
  by_cases hn : n / 4096 = k
  · rw [if_pos (by omega), if_pos hn, show n - 4096 * k = n % 4096 by omega]
  · rw [if_neg (by omega), if_neg hn]

/-- A bolt that differs from another in its accumulator and its error log alone. -/
def SliceOnly (b c : Bolt) : Prop := c = { b with acc := c.acc, accErr := c.accErr, merr := c.merr, elog := c.elog }

theorem SliceOnly.trans {b c d : Bolt} (h : SliceOnly b c) (h' : SliceOnly c d) : SliceOnly b d := by
  rw [SliceOnly] at *
  rw [h', h]

theorem SliceOnly.frame {b c : Bolt} (h : SliceOnly b c) : c.spad = b.spad ∧ c.id = b.id ∧ c.bstate = b.bstate := by
  rw [SliceOnly] at h
  rw [h]
  exact ⟨rfl, rfl, rfl⟩

theorem SliceOnly.foldl {α : Type} {g : Bolt → α → Bolt} (hg : ∀ b a, SliceOnly b (g b a)) (l : List α) (b : Bolt) :
    SliceOnly b (l.foldl g b) := by
  induction l generalizing b with
  | nil => exact rfl
  | cons a l ih => exact (hg b a).trans (ih _)

theorem sliceOnly_setSlice (b : Bolt) (k : Nat) (g : Nat → Nat) (n : Nat) : SliceOnly b (b.setSlice k g n) :=
  .foldl (g := fun b e => b.setAcc (4096 * k + e) (g e)) (fun _ _ => rfl) _ _

/-- The error log stands apart from the accumulator. -/
theorem logErr_acc (b : Bolt) (k weft : Nat) (e : MErr) : SliceOnly b (b.logErr k weft e) ∧
    (b.logErr k weft e).acc = b.acc ∧ (b.logErr k weft e).accErr = b.accErr := by
  unfold Bolt.logErr
  simp only
  split_ifs <;> exact ⟨rfl, rfl, rfl⟩

theorem logErrs_acc (b : Bolt) (k weft : Nat) (es : List MErr) : SliceOnly b (b.logErrs k weft es) ∧
    (b.logErrs k weft es).acc = b.acc ∧ (b.logErrs k weft es).accErr = b.accErr := by
  unfold Bolt.logErrs
  induction es generalizing b with
  | nil => exact ⟨rfl, rfl, rfl⟩
  | cons e es ih =>
    obtain ⟨h₁, ha, he⟩ := logErr_acc b k weft e
    obtain ⟨h₂, ha', he'⟩ := ih (b.logErr k weft e)
    exact ⟨h₁.trans h₂, ha'.trans ha, he'.trans he⟩

theorem accElem_logErrs (b : Bolt) (k weft : Nat) (es : List MErr) (n : Nat) :
    (b.logErrs k weft es).accElem n = b.accElem n := by
  obtain ⟨-, ha, he⟩ := logErrs_acc b k weft es
  simp only [Bolt.accElem, ha, he]

/-! ### The elements of a tile (R121, R124) -/

/-- The code of a group that no error struck. -/
theorem SpData.code_clean {d : SpData} (h : d.poison = []) (i g : Nat) : d.code i g = d.byte (64 + 4 * i + g) := by
  simp [SpData.code, SpData.struck, h]

theorem SpData.special_clean {d : SpData} (h : d.poison = []) (i g : Nat) :
    d.special i g = true ↔ d.byte (64 + 4 * i + g) = 255 := by
  rw [SpData.special, code_clean h, beq_iff_eq]

theorem SpData.lostGroup_clean {d : SpData} (h : d.poison = []) (depth i g : Nat) : d.lostGroup depth i g = false := by
  simp [SpData.lostGroup, SpData.struck, h]

theorem realDy_elem {d : SpData} (h : d.poison = []) (depth i k : Nat) : realDy (d.elem depth i k) = tileReal d depth i k := by
  simp only [SpData.elem, tileReal, d.code_clean h, d.lostGroup_clean h, Bool.false_eq_true, or_false]
  split_ifs with hc hs
  · simp [realDy]
  · rw [realDy]
    simp only [SpData.mag]
    push_cast
    rw [neg_one_mul]
    congr 2
    ring
  · rw [realDy]
    simp only [SpData.mag]
    rw [one_mul, Int.cast_natCast]
    congr 2
    ring

/-! ### The duplication pairs of a header (R293, R300) -/

/-- The index that a spare channel is read at, from the header's pairs. -/
theorem dupIndex_match (h k : Nat) : dupIndex h k =
    match (List.range (h / 2 ^ 17 % 2 ^ 3)).find? fun j =>
        h / 2 ^ 32 % 2 ^ 64 / 2 ^ (16 * j) % 2 ^ 16 / 2 ^ 8 % 2 ^ 7 == k with
    | some j => h / 2 ^ 32 % 2 ^ 64 / 2 ^ (16 * j) % 2 ^ 16 % 2 ^ 7
    | none => k := by
  have horig : (pairOrig ∘ dupPair (hdrDup h)) = fun j => h / 2 ^ 32 % 2 ^ 64 / 2 ^ (16 * j) % 2 ^ 16 % 2 ^ 7 := by
    funext j
    simp [pairOrig, dupPair, hdrDup, bitsAt]
  rw [dupIndex, List.find?_map, Option.map_map, horig]
  change (Option.map _ (List.find? (fun j => h / 2 ^ 32 % 2 ^ 64 / 2 ^ (16 * j) % 2 ^ 16 / 2 ^ 8 % 2 ^ 7 == k)
    (List.range (h / 2 ^ 17 % 2 ^ 3)))).getD k = _
  generalize List.find? _ _ = o
  cases o <;> rfl

/-! ### The update of an element (R127, R128) -/

theorem isRounded_rne_lt {x : ℝ} {p : Nat} (h : IsRounded fp32 .rne x p) : p < 2 ^ 32 := by
  obtain ⟨-, h⟩ := h
  simp only at h
  split_ifs at h
  · obtain ⟨v, ⟨hlt, -⟩, -⟩ := h
    exact hlt
  · rw [h]
    cases decide (x < 0) <;> decide

/-- The exact sum of products added to an element with one rounding. -/
theorem round_updates {x : FVal} {y : ℝ} (hx : realOf x = some y) (p : Dy) :
    let r := (fp32.roundDy .rne false (x.dy.add p)).1
    (y + realDy p = 0 → r = 0) ∧ (y + realDy p ≠ 0 → IsRounded fp32 .rne (y + realDy p) r) ∧ r < 2 ^ 32 := by
  have hsum : realDy (x.dy.add p) = y + realDy p := by rw [realDy_add, realDy_of_realOf hx]
  obtain ⟨-, hne⟩ := hsum ▸ roundDy_delivers (fm := fp32) (by decide) (by decide) .rne false (x.dy.add p)
  have hzero : y + realDy p = 0 → (fp32.roundDy .rne false (x.dy.add p)).1 = 0 := fun h => by
    rw [roundDy_zero fp32 .rne false (hsum.trans h)]; rfl
  refine ⟨hzero, fun h => (hne h).1, ?_⟩
  by_cases h : y + realDy p = 0
  · rw [hzero h]; decide
  · exact isRounded_rne_lt (hne h).1

section

variable {a b : SpData} (hpa : a.poison = []) (hpb : b.poison = []) (da db i r : Nat)

include hpa hpb

/-- The exact sum of an element's products. -/
theorem realDy_products : realDy (Dy.sum ((List.range 128).map fun k =>
      (a.elem da i k).mul (b.elem db r (dupIndex a.header k)))) =
    ∑ k ∈ Finset.range 128, tileReal a da i k * tileReal b db r (dupIndex a.header k) := by
  rw [realDy_sum, List.map_map, Finset.sum_range, ← List.sum_ofFn, List.ofFn_eq_map, ← List.map_coe_finRange_eq_range,
    List.map_map]
  congr 1
  exact List.map_congr_left fun k _ => by
    simp only [Function.comp_apply, realDy_mul, realDy_elem hpa, realDy_elem hpb]

/-- A quarter operation adds the exact sum of an element's products with one rounding. -/
theorem quarterElem_updates {c : Nat} (hc : c < 2 ^ 32) :
    Updates (∃ g, g < 4 ∧ (a.byte (64 + 4 * i + g) = 255 ∨ b.byte (64 + 4 * r + g) = 255)) c
      (∑ k ∈ Finset.range 128, tileReal a da i k * tileReal b db r (dupIndex a.header k)) (quarterElem a da b db i r c) ∧
    quarterElem a da b db i r c < 2 ^ 32 := by
  have hspecial : ((List.range 4).any fun g => a.special i g || b.special r g) = true ↔
      ∃ g, g < 4 ∧ (a.byte (64 + 4 * i + g) = 255 ∨ b.byte (64 + 4 * r + g) = 255) := by
    simp only [List.any_eq_true, List.mem_range, Bool.or_eq_true, SpData.special_clean hpa, SpData.special_clean hpb]
  rw [← hspecial, ← realDy_products hpa hpb, quarterElem]
  by_cases hs : ((List.range 4).any fun g => a.special i g || b.special r g) = true
  · rw [if_pos hs]
    exact ⟨⟨fun _ => rfl, fun h => absurd hs h⟩, by decide⟩
  · rw [if_neg hs]
    generalize Dy.sum _ = p
    cases hx : fp32.decode c with
    | nan n => exact ⟨⟨fun h => absurd h hs, fun _ => by rw [hx]; rfl⟩, (by decide : fp32.nan < 2 ^ 32)⟩
    | inf n => exact ⟨⟨fun h => absurd h hs, fun _ => by rw [hx]⟩, hc⟩
    | fin n m e =>
      obtain ⟨hzero, hround, hlt⟩ := round_updates (x := .fin n m e) rfl p
      refine ⟨⟨fun h => absurd h hs, fun _ => ?_⟩, ?_⟩
      · rw [hx]
        refine ⟨fun hp => if_pos ((realDy_eq_zero p).1 hp), fun hp y hy => ?_⟩
        rw [← Option.some.inj hy]
        simp only [if_neg (mt (realDy_eq_zero p).2 hp)]
        exact ⟨hzero, hround⟩
      · dsimp only
        split_ifs
        · exact hc
        · exact hlt

end

/-! ### Whole operations -/

/-- The element of a slice that a quarter operation writes. -/
def quarterNew (b : Bolt) (k : Nat) (a : Tile × SpData) (bs : List (Tile × SpData)) (e : Nat) : Nat :=
  match bs[e % 128 / 32]? with
  | some x => quarterElem a.2 a.1.depth x.2 x.1.depth (e / 128) (e % 32) (b.accElem (4096 * k + e))
  | none => b.accElem (4096 * k + e)

/-- A quarter operation logs its errors, then writes its slice. -/
theorem quarter_eq (b : Bolt) (k weft : Nat) (a : Tile × SpData) (bs : List (Tile × SpData)) :
    ∃ es, b.quarter k weft a bs = (b.logErrs k weft es).setSlice k (quarterNew b k a bs) 4096 := by
  unfold Bolt.quarter Bolt.setSlice
  exact ⟨_, List.foldl_ext _ _ _ fun c e he => by
    rw [List.getElem?_map, List.getElem?_range (List.mem_range.1 he)]
    rfl⟩

theorem sliceOnly_quarter (b : Bolt) (k weft : Nat) (a : Tile × SpData) (bs : List (Tile × SpData)) :
    SliceOnly b (b.quarter k weft a bs) := by
  obtain ⟨es, he⟩ := quarter_eq b k weft a bs
  rw [he]
  exact (logErrs_acc b k weft es).1.trans (sliceOnly_setSlice _ _ _ _)

theorem accElem_quarter {b : Bolt} (h : tabWf b.acc = true) (k weft : Nat) (a : Tile × SpData)
    (bs : List (Tile × SpData)) (n : Nat) : (b.quarter k weft a bs).accElem n =
      if n / 4096 = k then quarterNew b k a bs (n % 4096) % 2 ^ 32 else b.accElem n := by
  obtain ⟨es, he⟩ := quarter_eq b k weft a bs
  have hl := (logErrs_acc b k weft es).2.1
  rw [he, accElem_setSlice_all (by rw [hl]; exact h), accElem_logErrs]

theorem tabGet_filter_key {α : Type} (q : Nat → Bool) (t : Tab α) (n : Nat) :
    tabGet (t.filter fun p => q p.1) n = if q n then tabGet t n else none := by
  induction t with
  | nil => simp [tabGet]
  | cons p t ih =>
    obtain ⟨j, a⟩ := p
    by_cases hj : j = n
    · subst hj
      cases hq : q j <;> simp [hq, tabGet, ih]
    · cases hq : q j <;> simp [hq, tabGet, ih, hj]

theorem accElem_zeroSlice (b : Bolt) (k n : Nat) :
    (b.zeroSlice k).accElem n = if n / 4096 = k then 0 else b.accElem n := by
  rw [Bolt.accElem, Bolt.zeroSlice, spGet, tabGet_filter_key fun m => m / 4096 != k]
  by_cases hn : n / 4096 = k
  · simp [hn]
  · simp [hn, Bolt.accElem, spGet]

theorem sliceOnly_zeroSlice (b : Bolt) (k : Nat) : SliceOnly b (b.zeroSlice k) := rfl

theorem fp32_isNan (x : Nat) : (fp32.decode x).isNan = true ↔ x / 2 ^ 23 % 2 ^ 8 = 255 ∧ x % 2 ^ 23 ≠ 0 := by
  have h1 : bitsAt x fp32.fb fp32.eb = x / 2 ^ 23 % 2 ^ 8 := rfl
  have h2 : bitsAt x 0 fp32.fb = x % 2 ^ 23 := by rw [bitsAt, pow_zero, Nat.div_one]; rfl
  simp only [FFmt.decode, h1, h2, show 2 ^ fp32.eb - 1 = 255 from rfl]
  split_ifs with ha hb hb
  · exact ⟨nofun, fun h => absurd hb h.2⟩
  · exact ⟨fun _ => ⟨ha, hb⟩, fun _ => rfl⟩
  · exact ⟨nofun, fun h => absurd h.1 ha⟩
  · exact ⟨nofun, fun h => absurd h.1 ha⟩

/-- An MLDA's element: its pattern as binary32, a NaN canonical (R312). -/
theorem loadElem_eq {bf : Bool} {v : Nat} (h : v < 2 ^ (if bf then 16 else 32)) :
    loadElem bf v = (if v * (if bf then 2 ^ 16 else 1) / 2 ^ 23 % 2 ^ 8 = 255 ∧ v * (if bf then 2 ^ 16 else 1) % 2 ^ 23 ≠ 0
      then 0x7FC00000 else v * (if bf then 2 ^ 16 else 1)) ∧ loadElem bf v < 2 ^ 32 := by
  have hx : (if bf then v * 65536 else v) = v * (if bf then 2 ^ 16 else 1) := by cases bf <;> simp
  have hlt : v * (if bf then 2 ^ 16 else 1) < 2 ^ 32 := by cases bf <;> simp at h ⊢ <;> omega
  rw [loadElem, hx]
  generalize v * (if bf then 2 ^ 16 else 1) = x at hlt
  simp only [fp32_isNan]
  refine ⟨rfl, ?_⟩
  split_ifs
  · decide
  · exact hlt

/-- The element of a slice that a load writes. -/
def loadNew (d : SpData) (pitch : Nat) (bf : Bool) (e : Nat) : Nat :=
  let o := e / 128 * pitch + e % 128 * (if bf then 2 else 4)
  if d.struck (o / 4) then 0 else loadElem bf (leNat ((d.bytes.drop o).take (if bf then 2 else 4)))

theorem loadSlice_eq (b : Bolt) (k weft : Nat) (d : SpData) (addr pitch : Nat) (bf : Bool) :
    b.loadSlice k weft d addr pitch bf =
      (b.logErrs k weft (loadErrs d addr pitch (if bf then 2 else 4))).setSlice k (loadNew d pitch bf) 4096 := rfl

theorem sliceOnly_loadSlice (b : Bolt) (k weft : Nat) (d : SpData) (addr pitch : Nat) (bf : Bool) :
    SliceOnly b (b.loadSlice k weft d addr pitch bf) :=
  (logErrs_acc b k weft _).1.trans (sliceOnly_setSlice _ _ _ _)

theorem accElem_loadSlice {b : Bolt} (h : tabWf b.acc = true) (k weft : Nat) (d : SpData) (addr pitch : Nat) (bf : Bool)
    (n : Nat) : (b.loadSlice k weft d addr pitch bf).accElem n =
      if n / 4096 = k then loadNew d pitch bf (n % 4096) % 2 ^ 32 else b.accElem n := by
  have hl := (logErrs_acc b k weft (loadErrs d addr pitch (if bf then 2 else 4))).2.1
  rw [loadSlice_eq, accElem_setSlice_all (by rw [hl]; exact h), accElem_logErrs]

/-- The part of O35 on slices holds, by the exact sum of products that each element is given. -/
theorem sliceUpdates : SliceUpdates := by
  have hindex {k i j : Nat} (hi : i < 32) (hj : j < 128) :
      (4096 * k + 128 * i + j) / 4096 = k ∧ (4096 * k + 128 * i + j) % 4096 = 128 * i + j := by omega
  refine ⟨fun b k weft a t0 t1 t2 t3 da d hwf hpa hpd _ => ?_, fun b k n => ⟨accElem_zeroSlice b k n, rfl⟩,
    fun b k weft addr pitch bf d hwf hpd _ => ⟨fun i j hi hj => ?_, fun n hn => ?_⟩⟩
  · intro b' depth header pair read
    have hframe := (sliceOnly_quarter b k weft (a, da) [(t0, d 0), (t1, d 1), (t2, d 2), (t3, d 3)]).frame
    have hread : read = dupIndex header := funext fun kk => (dupIndex_match header kk).symm
    refine ⟨fun i j hi hj => ?_, fun n hn => ?_, hframe⟩
    · obtain ⟨hdiv, hmod⟩ := hindex (k := k) hi hj
      obtain ⟨hupd, hlt⟩ := quarterElem_updates hpa (hpd (j / 32)) a.depth (depth (j / 32)) i (j % 32)
        (accElem_lt b (4096 * k + 128 * i + j))
      have hnew : quarterNew b k (a, da) [(t0, d 0), (t1, d 1), (t2, d 2), (t3, d 3)] (128 * i + j) =
          quarterElem da a.depth (d (j / 32)) (depth (j / 32)) i (j % 32) (b.accElem (4096 * k + 128 * i + j)) := by
        have hq : j / 32 < 4 := by omega
        have hget : ([(t0, d 0), (t1, d 1), (t2, d 2), (t3, d 3)])[j / 32]? =
            some (if j / 32 = 0 then t0 else if j / 32 = 1 then t1 else if j / 32 = 2 then t2 else t3, d (j / 32)) := by
          generalize j / 32 = q at hq
          interval_cases q <;> rfl
        rw [quarterNew, show (128 * i + j) % 128 = j by omega, hget, show (128 * i + j) / 128 = i by omega,
          show (128 * i + j) % 32 = j % 32 by omega, ← Nat.add_assoc]
        simp only [depth]
        split_ifs <;> rfl
      rw [show b'.accElem (4096 * k + 128 * i + j) = _ from accElem_quarter hwf ..]
      rw [hdiv, if_pos rfl, hmod, hnew, Nat.mod_eq_of_lt hlt, hread]
      exact hupd
    · rw [show b'.accElem n = _ from accElem_quarter hwf .., if_neg hn]
  · obtain ⟨hdiv, hmod⟩ := hindex (k := k) hi hj
    have hv : leNat ((d.bytes.drop (i * pitch + j * if bf then 2 else 4)).take (if bf then 2 else 4)) <
        2 ^ (if bf then 16 else 32) := by
      refine (leNat_lt _).trans_le ((Nat.pow_le_pow_right (by decide) (List.length_take_le _ _)).trans ?_)
      cases bf <;> decide
    obtain ⟨heq, hlt⟩ := loadElem_eq hv
    rw [accElem_loadSlice hwf, hdiv, if_pos rfl, hmod, loadNew, show (128 * i + j) / 128 = i by omega,
      show (128 * i + j) % 128 = j by omega]
    simp only [SpData.struck, hpd, List.contains_nil, Bool.false_eq_true, if_false]
    rw [Nat.mod_eq_of_lt hlt]
    exact heq
  · rw [accElem_loadSlice hwf, if_neg hn]

end Sys2Proof.Machine
end

section
/-! SUPPORT. Why O35 fails: what R278 says of the buffer that a fill takes is stated for every table of slots, also one whose
keys do not rise, and a step that writes a slot of such a table moves it before the others. -/

namespace Sys2Proof.Claims.SlotsOutOfOrder

open Sys2Proof.Machine

/-- A quarter at 0x4000 whose A operand is a use of handle 0 at an offset, in a buffer or in none yet. -/
def wait (leader : Nat) (offset : Int) (buf : Option Nat) : QWait :=
  { leader, pc := 0x4000, slice := 0, kind := .quarter 0 false (.use 0 offset buf) []
    f := { form := .m, rd := 0, s1 := 0, s2 := 0, s3 := 0, e1 := false, e2 := false, e3 := false, mod := 1, pol := 0, imm := 0 } }

/-- A lane of weft 0 of bolt 1, in a slot. -/
def lane (tid slot : Nat) : Thread :=
  { Thread.fresh tid 0 0x4000 .user with loc := .member 0 slot 0, sub := .active, bolt := some 1 }

/-- Weft 0 of bolt 1 with one lane, which waits. -/
def weft (tid : Nat) (q : QWait) : Weft :=
  { bolt := 1, widx := 0, lanes := (Vector.replicate 32 none).set 0 (some tid), ovr := 0, ocount := 0, stall := 0,
    stallPc := 0, spass := 0, wstate := .running, blocks := 7, held := true, next := 0, carry := 0, reclaimed := false,
    ready := 0, eligible := false, waitQ := [q] }

/-- A handle of two buffers, of which the first holds offset 0 and was filled before the second. -/
def handle : Handle :=
  { raw := [], nbuf := 2, offs := [some 0, none], fills := [none, none], oldest := 0
    card :=
      { op := 1, sspace := 0, dspace := 1, nsp := 0, depth := 8, ndup := 0, satt := 0, dfmt := 0, sfmt := 0, stmp := false,
        src := 0, dst := 0, rows := 32, cols := 128, spitch := 0, dpitch := 8192, dup := 0, sca := 0, stamp := 0, seq := 0,
        reads := [], writes := [], outer := 0, inner := 0, swb := 0, swu := 0, swsh := 0 } }

def bolt : Bolt := { Bolt.packed 1 0 0 0 with pack := false, nslice := 2, handles := [(0, handle)] }

/-- Core 0 lists slot 1, whose weft reads buffer 0, before slot 0, whose weft asks for a fill. -/
def start : State :=
  { State.reset with
    threads := [(1, lane 1 0), (2, lane 2 1)]
    bolts := [(1, bolt)]
    wcores := [(0, { WCore.halted0 with slots := [(1, weft 2 (wait 2 0 (some 0))), (0, weft 1 (wait 1 64 none))] })] }

/-- The fill takes buffer 0, though a use of it has not read it: after it buffer 1 is the one filled before the other. -/
theorem fill_takes_first : ∃ t, exec (.handleFill 0 0) start = .next t ∧
    (t.bolt? 1).bind (fun b => (tabGet b.handles 0).map Handle.oldest) = some 1 := ⟨_, rfl, by decide⟩

end Sys2Proof.Claims.SlotsOutOfOrder

open Sys2Proof Sys2Proof.Machine Sys2Proof.Claims

open Sys2Proof.Claims.SlotsOutOfOrder in
/-- Refutes O35: where a core's table of slots does not rise, its weft of slot 1 reads buffer 0 of a handle, so that the
statement has the fill for slot 0 take buffer 1; but the step writes slot 0 anew before slot 1, and then finds no reader. -/
theorem not_arrayStepsAndSlices : ¬ Obligations.ArrayStepsAndSlices := by
  intro h
  obtain ⟨⟨-, -, -, hfill, -⟩, -⟩ := h
  obtain ⟨s', b', -, hs, -, -, -, -, hb, hh, -⟩ := hfill start 0 0 (weft 1 (wait 1 64 none)) bolt (wait 1 64 none) 0 0 64 false []
    handle (lane 1 0) 1 rfl rfl rfl rfl rfl (by decide) rfl rfl rfl rfl (by decide) (by decide) (by decide)
  obtain ⟨t, ht, hold⟩ := fill_takes_first
  cases hs.symm.trans ht
  rw [show bolt.id = 1 from rfl] at hb
  rw [hb, Option.bind_some, hh] at hold
  exact absurd hold (by decide)

end
